-- ==== Sys2Proof/Word.lean ====
section
/-! DEFINITION. Word.lean: the word types of the L9 and the sparse map type that holds its storage. -/

namespace Sys2Proof

/-- A byte. -/
abbrev Byte := BitVec 8

/-- A 32-bit register value. -/
abbrev W32 := BitVec 32

/-- A 64-bit value: a register pair, a virtual address or an instruction word. -/
abbrev W64 := BitVec 64

/-- A value of up to 128 bits: a result-queue entry of S, A or X. -/
abbrev W128 := BitVec 128

/-- Storage by key: keys rise strictly and no entry holds the value that an unlisted key reads as. -/
abbrev Sparse (α : Type) := List (Nat × α)

end Sys2Proof
end

