-- ==== Sys2Proof/Syntax.lean ====
section
/-! DEFINITION. Syntax.lean: one constructor per row of the opcode table, with the raw fields of R28 and R36.
A word keeps its fields as bits, because R58 gives a meaning to every word a stream may fetch; what a field
stands for is read in Machine/Operands.lean. -/

namespace Sys2Proof

/-- The four streams of a core, numbered S 0, V 1, A 2, X 3 (R100, R345). -/
inductive StreamId where
  | S | V | A | X
  deriving DecidableEq, Repr

/-- Bits 63:48 of a word (R28). -/
structure Hdr where
  idle : BitVec 10
  pop  : BitVec 3
  push : BitVec 3
  deriving DecidableEq, Repr

/-- Format FR (R36). -/
structure FR where
  d : BitVec 7
  a : BitVec 7
  b : BitVec 7
  c : BitVec 7
  t : BitVec 4
  rm : BitVec 2
  g : BitVec 4
  m : BitVec 2
  deriving DecidableEq, Repr

/-- Format FI (R36). -/
structure FI where
  d : BitVec 7
  a : BitVec 7
  imm : BitVec 26
  deriving DecidableEq, Repr

/-- Format FB (R36): the offset counts words (R40). -/
structure FB where
  p : BitVec 3
  n : BitVec 1
  k : BitVec 4
  off : BitVec 32
  deriving DecidableEq, Repr

/-- Format FL (R36). -/
structure FL where
  count : BitVec 7
  level : BitVec 3
  rest : BitVec 30
  deriving DecidableEq, Repr

/-- Format FM (R36). -/
structure FM where
  data : BitVec 7
  base : BitVec 7
  off : BitVec 18
  sz : BitVec 3
  sp : BitVec 2
  bypass : BitVec 1
  ord : BitVec 2
  deriving DecidableEq, Repr

/-- Format FO (R36). -/
structure FO where
  d : BitVec 7
  a : BitVec 7
  b : BitVec 7
  c : BitVec 7
  pr : BitVec 3
  dt : BitVec 1
  af : BitVec 1
  g : BitVec 4
  m : BitVec 3
  deriving DecidableEq, Repr

/-- Format FT (R36). -/
structure FT where
  td : BitVec 4
  ta : BitVec 4
  tb : BitVec 4
  rms : BitVec 2
  cms : BitVec 2
  et : BitVec 5
  s : BitVec 7
  g : BitVec 4
  m : BitVec 8
  deriving DecidableEq, Repr

/-- Format FW (R36). -/
structure FW where
  d : BitVec 7
  ta : BitVec 4
  tout : BitVec 4
  rms : BitVec 2
  cms : BitVec 2
  pr : BitVec 3
  dt : BitVec 1
  acc : BitVec 2
  et : BitVec 5
  g : BitVec 4
  m : BitVec 6
  deriving DecidableEq, Repr

/-- The empty format: all 40 bits zero in a legal word (R36). -/
structure NO where
  rest : BitVec 40
  deriving DecidableEq, Repr

/-- A fabric message (R385): the header's fields and the payload, whose length is LEN. -/
structure Msg where
  dst : BitVec 15
  dvf : Byte
  kind : Byte
  src : BitVec 15
  svf : Byte
  epoch : Byte
  cseq : BitVec 16
  cack : BitVec 16
  flags : BitVec 16
  va : W64
  aux : W64
  payload : List Byte
  deriving DecidableEq, Repr

/-- What a fab-scope barrier's home multicasts to a member's mirror entry (R313, R322): set-up carries SCOPE,
EXPECT, PGID and HOMEDEV as well; a break carries its code. -/
inductive BarUpdate where
  | setup (expect pgid : W32) (homedev : BitVec 15) (epoch : Byte) (gen : BitVec 16)
  | complete (epoch : Byte) (gen : BitVec 16)
  | broken (epoch : Byte) (gen : BitVec 16) (code : Byte)
  deriving DecidableEq, Repr

/-- A fault on an operation's access that comes from outside the model: its code, its VA and the INDEX it reports
(R244, R245). -/
structure OpFault where
  code : Byte
  index : W32
  addr : W64
  deriving DecidableEq, Repr

/-- What ages while it waits (R242, R213, R264, R333): an operation (a lease among them), a claimant of an array,
a READY node. -/
inductive Waiter where
  | op (ctx slot : Nat)
  | claim (bench k : Nat)
  | node (ctx q seq : Nat)
  deriving DecidableEq, Repr

/-- What an owner token carries (R355, R366): the tier the page had at its source, and the page's nonzero bytes. -/
structure OwnerToken where
  state : BitVec 3
  cfmt : BitVec 2
  dotmode : Bool
  bytes : Sparse Byte
  deriving DecidableEq, Repr

/-- What training measures (R381, R382): the peer's device id, the lanes that failed, whether it ended in bound. -/
structure TrainResult where
  peer : BitVec 15
  bad : BitVec 34
  inBound : Bool
  deriving DecidableEq, Repr

/-- One firmware stage as the boot ROM checks it (R422): whether its signature holds, its security version, its digest. -/
structure BootStage where
  sigOk : Bool
  version : W32
  digest : BitVec 384
  deriving DecidableEq, Repr

/-- What self-test finds (R418, R419): the retirements to apply and the first failure that leads to SAFE, if any. -/
structure SelfTest where
  badBench : List Nat
  badEngine : List Nat
  rowSpares : List (Nat × W64)
  colSpares : List (Nat × W64)
  badChan : List (Nat × Nat)
  gluFail : Option Nat
  deriving DecidableEq, Repr

/-- One row of spec/opcode_table.json per constructor: the 204 words of R43-R47, then the 135 events. -/
inductive Instr where
  -- the common block (R43)
  | nop (st : StreamId) (h : Hdr) (o : NO)
  | align (st : StreamId) (h : Hdr) (o : NO)
  | stop (st : StreamId) (h : Hdr) (o : NO)
  | loop (st : StreamId) (h : Hdr) (o : FL)
  | endl (st : StreamId) (h : Hdr) (o : FL)
  | brk (st : StreamId) (h : Hdr) (o : FI)
  | ldlit (st : StreamId) (h : Hdr) (o : FI)
  | pool (st : StreamId) (h : Hdr) (o : FI)
  | br (st : StreamId) (h : Hdr) (o : FB)
  -- the S map (R44)
  | add (h : Hdr) (o : FR)
  | sub (h : Hdr) (o : FR)
  | mul (h : Hdr) (o : FR)
  | mulh (h : Hdr) (o : FR)
  | div (h : Hdr) (o : FR)
  | rem (h : Hdr) (o : FR)
  | mad (h : Hdr) (o : FR)
  | min (h : Hdr) (o : FR)
  | max (h : Hdr) (o : FR)
  | and (h : Hdr) (o : FR)
  | or (h : Hdr) (o : FR)
  | xor (h : Hdr) (o : FR)
  | andn (h : Hdr) (o : FR)
  | shl (h : Hdr) (o : FR)
  | shr (h : Hdr) (o : FR)
  | sar (h : Hdr) (o : FR)
  | rot (h : Hdr) (o : FR)
  | clz (h : Hdr) (o : FR)
  | ctz (h : Hdr) (o : FR)
  | popc (h : Hdr) (o : FR)
  | bfx (h : Hdr) (o : FR)
  | bfi (h : Hdr) (o : FR)
  | ext (h : Hdr) (o : FR)
  | sel (h : Hdr) (o : FR)
  | cmp (h : Hdr) (o : FR)
  | movi (h : Hdr) (o : FI)
  | movh (h : Hdr) (o : FI)
  | mov (h : Hdr) (o : FR)
  | keep (h : Hdr) (o : FR)
  | pand (h : Hdr) (o : FR)
  | por (h : Hdr) (o : FR)
  | pxor (h : Hdr) (o : FR)
  | pnot (h : Hdr) (o : FR)
  | fadd (h : Hdr) (o : FR)
  | fsub (h : Hdr) (o : FR)
  | fmul (h : Hdr) (o : FR)
  | ffma (h : Hdr) (o : FR)
  | fdiv (h : Hdr) (o : FR)
  | fsqrt (h : Hdr) (o : FR)
  | fmin (h : Hdr) (o : FR)
  | fmax (h : Hdr) (o : FR)
  | fcmp (h : Hdr) (o : FR)
  | fcvt (h : Hdr) (o : FR)
  | fclass (h : Hdr) (o : FR)
  | call (h : Hdr) (o : FB)
  | ret (h : Hdr) (o : NO)
  | jmp (h : Hdr) (o : FI)
  | swt (h : Hdr) (o : FI)
  | mvcr (h : Hdr) (o : FI)
  | mvrc (h : Hdr) (o : FI)
  | clk (h : Hdr) (o : FR)
  | trap (h : Hdr) (o : FI)
  | evpost (h : Hdr) (o : FR)
  | sysr (h : Hdr) (o : FI)
  | sysw (h : Hdr) (o : FI)
  | owait (h : Hdr) (o : FR)
  | otest (h : Hdr) (o : FR)
  | ojoin (h : Hdr) (o : FO)
  | ocancel (h : Hdr) (o : FR)
  | odetach (h : Hdr) (o : FR)
  | oadopt (h : Hdr) (o : FR)
  | orelease (h : Hdr) (o : FR)
  | oprio (h : Hdr) (o : FR)
  | ofault (h : Hdr) (o : FR)
  | lease (h : Hdr) (o : FO)
  | unlease (h : Hdr) (o : FR)
  | lquery (h : Hdr) (o : FR)
  | colrs (h : Hdr) (o : FO)
  | colag (h : Hdr) (o : FO)
  | colar (h : Hdr) (o : FO)
  | cola2a (h : Hdr) (o : FO)
  | colbc (h : Hdr) (o : FO)
  | colcmb (h : Hdr) (o : FO)
  | rtopk (h : Hdr) (o : FO)
  | rplan (h : Hdr) (o : FO)
  | sortkv (h : Hdr) (o : FO)
  | gathr (h : Hdr) (o : FO)
  | scatr (h : Hdr) (o : FO)
  | sfnap (h : Hdr) (o : FO)
  | cdpack (h : Hdr) (o : FO)
  | cdunpk (h : Hdr) (o : FO)
  | qlaunch (h : Hdr) (o : FO)
  | qsignal (h : Hdr) (o : FR)
  | gid (h : Hdr) (o : FR)
  | grank (h : Hdr) (o : FR)
  | gsize (h : Hdr) (o : FR)
  | gpeer (h : Hdr) (o : FR)
  | gshare (h : Hdr) (o : FR)
  | gclaim (h : Hdr) (o : FR)
  | barinit (h : Hdr) (o : FR)
  | barrive (h : Hdr) (o : FR)
  | barwait (h : Hdr) (o : FR)
  | bartest (h : Hdr) (o : FR)
  | barleave (h : Hdr) (o : FR)
  | glzs (h : Hdr) (o : FO)
  | glza (h : Hdr) (o : FR)
  | glzq (h : Hdr) (o : FR)
  -- the V map (R45)
  | vadd (h : Hdr) (o : FR)
  | vsub (h : Hdr) (o : FR)
  | vmul (h : Hdr) (o : FR)
  | vfma (h : Hdr) (o : FR)
  | vmin (h : Hdr) (o : FR)
  | vmax (h : Hdr) (o : FR)
  | vabs (h : Hdr) (o : FR)
  | vneg (h : Hdr) (o : FR)
  | vdiv (h : Hdr) (o : FR)
  | vsqrt (h : Hdr) (o : FR)
  | vrcp (h : Hdr) (o : FR)
  | vrsqrt (h : Hdr) (o : FR)
  | vexp2 (h : Hdr) (o : FR)
  | vlog2 (h : Hdr) (o : FR)
  | vand (h : Hdr) (o : FR)
  | vor (h : Hdr) (o : FR)
  | vxor (h : Hdr) (o : FR)
  | vshl (h : Hdr) (o : FR)
  | vshr (h : Hdr) (o : FR)
  | vsar (h : Hdr) (o : FR)
  | vcmp (h : Hdr) (o : FR)
  | vsel (h : Hdr) (o : FR)
  | vwadd (h : Hdr) (o : FR)
  | vwmul (h : Hdr) (o : FR)
  | vscan (h : Hdr) (o : FR)
  | vred (h : Hdr) (o : FR)
  | vperm (h : Hdr) (o : FR)
  | vbcast (h : Hdr) (o : FR)
  | vrot (h : Hdr) (o : FR)
  | vcomp (h : Hdr) (o : FR)
  | vcvt (h : Hdr) (o : FR)
  | vmxq (h : Hdr) (o : FR)
  | vmxd (h : Hdr) (o : FR)
  | vsatr (h : Hdr) (o : FR)
  | vseed (h : Hdr) (o : FR)
  | vrand (h : Hdr) (o : FR)
  | vpop (h : Hdr) (o : FI)
  | vpush (h : Hdr) (o : FI)
  | vtrd (h : Hdr) (o : FT)
  | vtwr (h : Hdr) (o : FT)
  | vmov (h : Hdr) (o : FR)
  | vext (h : Hdr) (o : FR)
  | vins (h : Hdr) (o : FR)
  | vpand (h : Hdr) (o : FR)
  | vpor (h : Hdr) (o : FR)
  | vpnot (h : Hdr) (o : FR)
  | vpcnt (h : Hdr) (o : FR)
  -- the A map (R46)
  | aAdd (h : Hdr) (o : FR)
  | aSub (h : Hdr) (o : FR)
  | aShl (h : Hdr) (o : FR)
  | aMul (h : Hdr) (o : FR)
  | aMovi (h : Hdr) (o : FI)
  | aMov (h : Hdr) (o : FR)
  | bcmp (h : Hdr) (o : FR)
  | ld (h : Hdr) (o : FM)
  | ldq (h : Hdr) (o : FM)
  | ldx (h : Hdr) (o : FM)
  | st (h : Hdr) (o : FM)
  | stq (h : Hdr) (o : FM)
  | stx (h : Hdr) (o : FM)
  | pf (h : Hdr) (o : FM)
  | amo (h : Hdr) (o : FR)
  | amoswp (h : Hdr) (o : FR)
  | amocas (h : Hdr) (o : FR)
  | fence (h : Hdr) (o : FR)
  | acq (h : Hdr) (o : FR)
  | rel (h : Hdr) (o : FR)
  | bind (h : Hdr) (o : FR)
  | unbind (h : Hdr) (o : FR)
  | cpy (h : Hdr) (o : FO)
  | cstage (h : Hdr) (o : FR)
  | lfe (h : Hdr) (o : FM)
  | oqst (h : Hdr) (o : FR)
  | bdot (h : Hdr) (o : FO)
  | bdmode (h : Hdr) (o : FR)
  | pmig (h : Hdr) (o : FR)
  -- the X map (R47)
  | tzero (h : Hdr) (o : FT)
  | tld (h : Hdr) (o : FT)
  | tst (h : Hdr) (o : FT)
  | tmov (h : Hdr) (o : FT)
  | tfill (h : Hdr) (o : FT)
  | tcvt (h : Hdr) (o : FT)
  | tadd (h : Hdr) (o : FT)
  | tmul (h : Hdr) (o : FT)
  | tscale (h : Hdr) (o : FT)
  | trmax (h : Hdr) (o : FT)
  | trsum (h : Hdr) (o : FT)
  | rmset (h : Hdr) (o : FT)
  | cmset (h : Hdr) (o : FT)
  | wlease (h : Hdr) (o : FO)
  | wload (h : Hdr) (o : FO)
  | wdot (h : Hdr) (o : FW)
  | wtdot (h : Hdr) (o : FW)
  | wouter (h : Hdr) (o : FW)
  | wdrain (h : Hdr) (o : FO)
  | wclr (h : Hdr) (o : FT)
  | wrel (h : Hdr) (o : FT)
  | wpair (h : Hdr) (o : FR)
  -- the events of the machine (spec/95)
  | resultDelivery (core : Nat)
  | tileWriteDelivery (core : Nat)
  | haltFinish (ctx : Nat)
  | debugHold (core : Nat)
  | debugStep (core : Nat)
  | debugStepA (core : Nat)
  | opdbgrel (handle : BitVec 32)
  | scanAdmit (fn : Nat)
  | withdraw (fn : Nat)
  | withdrawAll (fn : Nat)
  | residencyDone (ctx q seq : Nat)
  | nodeStart (ctx q seq gidx : Nat)
  | nodeEnd (ctx q seq : Nat)
  | dispatcherRound
  | nodeRelease (ctx q seq : Nat)
  | nodeFinish (ctx q seq : Nat)
  | waitNodeSatisfied (ctx q seq : Nat)
  | qtailWrite (ctx q : Nat) (val : BitVec 32)
  | queueEnableWrite (ctx q : Nat) (on : Bool)
  | queueSuspend (ctx q : Nat)
  | queueResume (ctx q : Nat)
  | queueDrain (ctx q : Nat)
  | queueDead (ctx q : Nat)
  | launchAppend (ctx slot : Nat)
  | homeRequestArrival (core : Nat)
  | barrierMulticast (ctx b : Nat) (u : BarUpdate)
  | predecessorFinished (ctx slot : Nat)
  | operationStart (ctx slot : Nat)
  | operationComplete (ctx slot : Nat)
  | operationFailure (ctx slot : Nat) (why : OpFault)
  | priorityAging (who : Waiter)
  | arrayRunStart (bench : Nat)
  | arrayRunLimit (bench : Nat)
  | arrayCommandStart (bench : Nat)
  | arrayCommandComplete (bench : Nat)
  | drainRowAccepted (bench : Nat)
  | pairTimeout (bench : Nat)
  | leaseQueueEntry (ctx slot : Nat)
  | leaseGrant (kind : Nat)
  | wakeDone (engine : Nat)
  | quantumEnd (engine : Nat)
  | engineYield (engine : Nat)
  | forcedEviction (engine : Nat)
  | scrubDone (engine : Nat)
  | drowsyTimeout (engine : Nat)
  | sleepTimeout (engine : Nat)
  | engineCommandStart (engine : Nat)
  | engineUnitDone (engine : Nat)
  | copyLineDelivery (ctx slot line : Nat)
  | copyNodeRun (ctx q seq : Nat)
  | signalNodeRun (ctx q seq : Nat)
  | replay (bench : Nat)
  | walkReturn (bench : Nat)
  | pageTouch (fn : Nat) (va : BitVec 64)
  | pageMoveDone (fn : Nat) (va : BitVec 64)
  | decayPeriod (part : Nat)
  | dotModeChangeDone (chan : Nat)
  | bankDotRow (ctx slot chan : Nat)
  | droopWindow (stack : Nat)
  | tlbiPage (fn : Nat)
  | tlbiFunction (fn : Nat)
  | tlbiAll
  | rowval (stack : Nat) (val : BitVec 32)
  | ctxCreate
  | switchOut (ctx : Nat)
  | preemptWaitExpiry (ctx core : Nat)
  | deadlineExpiry (ctx : Nat)
  | switchIn (ctx : Nat)
  | ctxRecover (ctx : Nat)
  | ctxDestroy (ctx : Nat)
  | teardownDone (ctx : Nat)
  | migrateOut (ctx : Nat)
  | migrateIn (ctx : Nat)
  | migrationTargetTimeout (fn : Nat)
  | pageHandover (fn : Nat) (va : BitVec 64)
  | ownerTokenArrival (fn : Nat) (va : BitVec 64) (tok : OwnerToken)
  | migrationAbort (fn : Nat)
  | tombstoneLapse (fn : Nat)
  | formationTimeout (ctx : Nat) (id : BitVec 32)
  | signalDetected (port : Nat)
  | trainingEnd (port : Nat) (r : TrainResult)
  | retrainTrigger (port : Nat) (lossOfSignal : Bool)
  | retrain (port : Nat)
  | portEnableWrite (port : Nat) (on : Bool)
  | flitReceived (port : Nat) (flit : BitVec 512)
  | nakReceived (port : Nat) (ackseq : BitVec 12)
  | replayTimeout (port : Nat)
  | msgLoad (m : Msg)
  | msgLoadReply (m : Msg)
  | msgStore (m : Msg)
  | msgStoreAck (m : Msg)
  | msgAtomic (m : Msg)
  | msgAtomicReply (m : Msg)
  | msgCollective (m : Msg)
  | msgBarrier (m : Msg)
  | msgConnectionControl (m : Msg)
  | msgShardDelivery (m : Msg)
  | msgMoved (m : Msg)
  | msgRefusal (m : Msg)
  | msgContextTransfer (m : Msg)
  | msgAbort (m : Msg)
  | parkNotice (m : Msg)
  | resumeNotice (m : Msg)
  | connopenTimeout (fn peer : Nat)
  | retransmission (fn peer : Nat)
  | connidleTimeout (fn peer : Nat)
  | connbackoffExpiry (fn peer : Nat)
  | connectionDrained (fn peer : Nat)
  | connectionSpill (fn peer : Nat)
  | osyncEdge
  | slotStart
  | slotCommit
  | ringHeatWrite (fibre ring : Nat) (val : BitVec 32)
  | ringSettled (fibre ring : Nat) (adc : BitVec 12)
  | ringMapWrite (fibre ring : Nat) (val : BitVec 32)
  | chunkApply (fn shard chunk : Nat)
  | coldReset (stages : List BootStage)
  | warmReset
  | selftestEnd (r : SelfTest)
  | freeze
  | freezeN
  | powerControl (watts : BitVec 12)
  | temperatureLimit (degc : BitVec 8)
  | partitionEnable (part : Nat)
  | vfEnable (count : Nat)
  | cxlPortFailure (port : Nat)
  | dcread
  | dcwrite
  | idcert
  | quote
  | fwstage
  | scanrd
  | registerWrite (addr val : BitVec 32)
  | rconsWrite (part : Nat) (val : BitVec 32)
  | fetchMissArrival (core stream : Nat)
  deriving DecidableEq, Repr

/-- The steps of the machine that are no words, as the agenda holds them: each is the event constructor of Instr of the
same name. -/
inductive Ev where
  | resultDelivery (core : Nat)
  | tileWriteDelivery (core : Nat)
  | haltFinish (ctx : Nat)
  | debugHold (core : Nat)
  | debugStep (core : Nat)
  | debugStepA (core : Nat)
  | opdbgrel (handle : BitVec 32)
  | scanAdmit (fn : Nat)
  | withdraw (fn : Nat)
  | withdrawAll (fn : Nat)
  | residencyDone (ctx q seq : Nat)
  | nodeStart (ctx q seq gidx : Nat)
  | nodeEnd (ctx q seq : Nat)
  | dispatcherRound
  | nodeRelease (ctx q seq : Nat)
  | nodeFinish (ctx q seq : Nat)
  | waitNodeSatisfied (ctx q seq : Nat)
  | qtailWrite (ctx q : Nat) (val : BitVec 32)
  | queueEnableWrite (ctx q : Nat) (on : Bool)
  | queueSuspend (ctx q : Nat)
  | queueResume (ctx q : Nat)
  | queueDrain (ctx q : Nat)
  | queueDead (ctx q : Nat)
  | launchAppend (ctx slot : Nat)
  | homeRequestArrival (core : Nat)
  | barrierMulticast (ctx b : Nat) (u : BarUpdate)
  | predecessorFinished (ctx slot : Nat)
  | operationStart (ctx slot : Nat)
  | operationComplete (ctx slot : Nat)
  | operationFailure (ctx slot : Nat) (why : OpFault)
  | priorityAging (who : Waiter)
  | arrayRunStart (bench : Nat)
  | arrayRunLimit (bench : Nat)
  | arrayCommandStart (bench : Nat)
  | arrayCommandComplete (bench : Nat)
  | drainRowAccepted (bench : Nat)
  | pairTimeout (bench : Nat)
  | leaseQueueEntry (ctx slot : Nat)
  | leaseGrant (kind : Nat)
  | wakeDone (engine : Nat)
  | quantumEnd (engine : Nat)
  | engineYield (engine : Nat)
  | forcedEviction (engine : Nat)
  | scrubDone (engine : Nat)
  | drowsyTimeout (engine : Nat)
  | sleepTimeout (engine : Nat)
  | engineCommandStart (engine : Nat)
  | engineUnitDone (engine : Nat)
  | copyLineDelivery (ctx slot line : Nat)
  | copyNodeRun (ctx q seq : Nat)
  | signalNodeRun (ctx q seq : Nat)
  | replay (bench : Nat)
  | walkReturn (bench : Nat)
  | pageTouch (fn : Nat) (va : BitVec 64)
  | pageMoveDone (fn : Nat) (va : BitVec 64)
  | decayPeriod (part : Nat)
  | dotModeChangeDone (chan : Nat)
  | bankDotRow (ctx slot chan : Nat)
  | droopWindow (stack : Nat)
  | tlbiPage (fn : Nat)
  | tlbiFunction (fn : Nat)
  | tlbiAll
  | rowval (stack : Nat) (val : BitVec 32)
  | ctxCreate
  | switchOut (ctx : Nat)
  | preemptWaitExpiry (ctx core : Nat)
  | deadlineExpiry (ctx : Nat)
  | switchIn (ctx : Nat)
  | ctxRecover (ctx : Nat)
  | ctxDestroy (ctx : Nat)
  | teardownDone (ctx : Nat)
  | migrateOut (ctx : Nat)
  | migrateIn (ctx : Nat)
  | migrationTargetTimeout (fn : Nat)
  | pageHandover (fn : Nat) (va : BitVec 64)
  | ownerTokenArrival (fn : Nat) (va : BitVec 64) (tok : OwnerToken)
  | migrationAbort (fn : Nat)
  | tombstoneLapse (fn : Nat)
  | formationTimeout (ctx : Nat) (id : BitVec 32)
  | signalDetected (port : Nat)
  | trainingEnd (port : Nat) (r : TrainResult)
  | retrainTrigger (port : Nat) (lossOfSignal : Bool)
  | retrain (port : Nat)
  | portEnableWrite (port : Nat) (on : Bool)
  | flitReceived (port : Nat) (flit : BitVec 512)
  | nakReceived (port : Nat) (ackseq : BitVec 12)
  | replayTimeout (port : Nat)
  | msgLoad (m : Msg)
  | msgLoadReply (m : Msg)
  | msgStore (m : Msg)
  | msgStoreAck (m : Msg)
  | msgAtomic (m : Msg)
  | msgAtomicReply (m : Msg)
  | msgCollective (m : Msg)
  | msgBarrier (m : Msg)
  | msgConnectionControl (m : Msg)
  | msgShardDelivery (m : Msg)
  | msgMoved (m : Msg)
  | msgRefusal (m : Msg)
  | msgContextTransfer (m : Msg)
  | msgAbort (m : Msg)
  | parkNotice (m : Msg)
  | resumeNotice (m : Msg)
  | connopenTimeout (fn peer : Nat)
  | retransmission (fn peer : Nat)
  | connidleTimeout (fn peer : Nat)
  | connbackoffExpiry (fn peer : Nat)
  | connectionDrained (fn peer : Nat)
  | connectionSpill (fn peer : Nat)
  | osyncEdge
  | slotStart
  | slotCommit
  | ringHeatWrite (fibre ring : Nat) (val : BitVec 32)
  | ringSettled (fibre ring : Nat) (adc : BitVec 12)
  | ringMapWrite (fibre ring : Nat) (val : BitVec 32)
  | chunkApply (fn shard chunk : Nat)
  | coldReset (stages : List BootStage)
  | warmReset
  | selftestEnd (r : SelfTest)
  | freeze
  | freezeN
  | powerControl (watts : BitVec 12)
  | temperatureLimit (degc : BitVec 8)
  | partitionEnable (part : Nat)
  | vfEnable (count : Nat)
  | cxlPortFailure (port : Nat)
  | dcread
  | dcwrite
  | idcert
  | quote
  | fwstage
  | scanrd
  | registerWrite (addr val : BitVec 32)
  | rconsWrite (part : Nat) (val : BitVec 32)
  | fetchMissArrival (core stream : Nat)
  deriving DecidableEq, Repr

end Sys2Proof
end

