-- ==== Sys2Proof/Machine/Shape.lean ====
section
/-! DEFINITION. Machine/Shape.lean: what each word's fields may hold (R31-R41 and the instruction entries), as a list
of field demands; the scanner's word checks 4, 5, 6, 7, 8 and 11 of R54 read it. -/

namespace Sys2Proof.Machine

/-- What the segment header says of a word's surroundings (R51, R52): the allocation, the owner map, SERVICE. -/
structure SegInfo where
  named : Nat
  vnamed : Nat
  tiles : Nat
  owner : BitVec 128
  service : Bool
  deriving DecidableEq, Repr

/-- One demand on one field of a word. -/
inductive Demand where
  /-- a field that is zero in a legal word (check 4) -/
  | zero (ok : Bool)
  /-- a code the instruction accepts (check 5) -/
  | code (ok : Bool)
  /-- an RM the instruction accepts (check 5); at run time another RM acts as RNE (R58) -/
  | rm (ok : Bool)
  /-- a source specifier of S, A or X that reads `w` registers -/
  | src (sp : BitVec 7) (w : Nat)
  /-- a destination of S, A or X that writes `w` registers; `p` says whether it may be a predicate -/
  | dst (sp : BitVec 7) (w : Nat) (p : Bool)
  /-- a source specifier of V over `w` registers -/
  | vsrc (sp : BitVec 7) (w : Nat)
  /-- a destination of V over `w` vectors; `p` says whether it may be a vector predicate -/
  | vdst (sp : BitVec 7) (w : Nat) (p : Bool)
  /-- a group of `n` tiles from `t` -/
  | tiles (t : BitVec 4) (n : Nat)
  /-- an address space in a word -/
  | space (sp : BitVec 2)
  deriving DecidableEq, Repr

/-- An 11iiiii specifier's value, sign-extended (R31); none for any other pattern. -/
def immOf (sp : BitVec 7) : Option Int :=
  if sp.extractLsb' 5 2 = 3#2 then some (sp.extractLsb' 0 5).toInt else none

/-- The specifier is an immediate between lo and hi. -/
def immIn (sp : BitVec 7) (lo hi : Int) : Bool :=
  match immOf sp with
  | some i => decide (lo ≤ i) && decide (i ≤ hi)
  | none => false

/-- 1011100-1011111: unassigned in every stream (R31, R32). -/
def unassignedSpec (sp : BitVec 7) : Bool := sp.extractLsb' 2 5 = 0b10111#5

/-- A source of S, A and X exists for every other pattern (R31). -/
def srcOk (sp : BitVec 7) : Bool := !unassignedSpec sp

/-- A destination of S, A and X (R31). -/
def dstOk (sp : BitVec 7) (p : Bool) : Bool :=
  sp.extractLsb' 6 1 = 0#1 || sp = 0x7F#7 || (p && sp.extractLsb' 3 4 = 0b1010#4 && sp.extractLsb' 0 3 ≠ 0#3)

/-- A destination of V (R32). -/
def vdstOk (sp : BitVec 7) (p : Bool) : Bool :=
  sp.extractLsb' 5 2 = 0#2 || sp = 0x7F#7 || (p && sp.extractLsb' 3 4 = 0b1010#4 && sp.extractLsb' 0 3 ≠ 0#3)

/-- The guard code 1000 is rejected (R37). -/
def guardOk (g : BitVec 4) : Bool := g ≠ 8#4

/-- Registers of a value of type T: two for i64 and n64 (R34, R109). -/
def wideT (t : BitVec 4) : Nat := if t = 3#4 || t = 7#4 then 2 else 1

/-- T is one of the listed codes. -/
def tIn (t : BitVec 4) (l : List Nat) : Bool := l.contains t.toNat

/-- The integer types of R109. -/
def intTs : List Nat := [2, 3, 6, 7]

/-- The unused fields of an FR word that has no T, no RM and no M. -/
def frPlain (o : FR) : List Demand := [.zero (o.t = 0), .zero (o.rm = 0), .zero (o.m = 0), .code (guardOk o.g)]

/-- S and A integer words over two values (R109, R161). -/
def shInt2 (o : FR) (wb : Nat) : List Demand :=
  [.code (tIn o.t intTs), .zero (o.c = 0), .zero (o.rm = 0), .zero (o.m = 0), .code (guardOk o.g),
   .dst o.d (wideT o.t) false, .src o.a (wideT o.t), .src o.b wb]

/-- S and A integer words over one value. -/
def shInt1 (o : FR) (ts : List Nat) : List Demand :=
  [.code (tIn o.t ts), .zero (o.b = 0), .zero (o.c = 0), .zero (o.rm = 0), .zero (o.m = 0), .code (guardOk o.g),
   .dst o.d (wideT o.t) false, .src o.a (wideT o.t)]

/-- Predicate words of S (R113). -/
def shPred (o : FR) (two : Bool) : List Demand :=
  frPlain o ++ [.zero (o.c = 0), .dst o.d 1 true, .src o.a 1] ++ if two then [.src o.b 1] else [.zero (o.b = 0)]

/-- S float words (R114): n operands, `rounds` whether RM is read. -/
def shFloat (o : FR) (n : Nat) (rounds : Bool) : List Demand :=
  [.code (o.t = 8), (if rounds then .rm (o.rm ≠ 3) else .zero (o.rm = 0)), .zero (o.m = 0), .code (guardOk o.g),
   .dst o.d 1 false, .src o.a 1, (if 2 ≤ n then .src o.b 1 else .zero (o.b = 0)),
   (if 3 ≤ n then .src o.c 1 else .zero (o.c = 0))]

/-- The T types that fcvt and vcvt accept (R116, R140): codes 0-13. -/
def cvtT (o : FR) : Bool := decide (o.t.toNat ≤ 13)

/-- Registers of the source type that C names in fcvt and vcvt. -/
def cvtSrcW (o : FR) : Nat := if immIn o.c 3 3 || immIn o.c 7 7 then 2 else 1

/-- The control registers of R123 by number, and whether `mvcr` may write them. -/
def ctlReg (n : Nat) : Option Bool :=
  if n ≤ 0x00F then some true
  else if n = 0x010 || n = 0x011 || n = 0x012 || n = 0x018 then some true
  else if (0x020 ≤ n && n ≤ 0x026) || n = 0x030 || n = 0x040 || n = 0x041 || (0x050 ≤ n && n ≤ 0x057) then some false
  else none

/-- The system registers of R125 by number, and whether `sysw` may write them. -/
def sysReg (n : Nat) : Option Bool :=
  if n ≤ 0x002 then some false
  else if (0x010 ≤ n && n ≤ 0x013) || (0x018 ≤ n && n ≤ 0x01B) then some true
  else none

/-- Register-number words (R44, R119, R125): IMM26[25:12] zero and a listed number. -/
def shReg (o : FI) (write : Bool) (lookup : Nat → Option Bool) : List Demand :=
  [.zero (o.imm.extractLsb' 12 14 = 0),
   .code (match lookup (o.imm.extractLsb' 0 12).toNat with | some rw => !write || rw | none => false)] ++
  if write then [.zero (o.d = 0), .src o.a 1] else [.zero (o.a = 0), .dst o.d 1 false]

/-- The branch condition (R40, R108). -/
def shBranch (o : FB) (vStream : Bool) : List Demand :=
  [.zero (if vStream then o.k.extractLsb' 1 3 = 0 else o.k = 0), .code (!(o.p = 0 && o.n = 1))]

/-- FR words of S with n named operands and no T (operations, group, barrier, queue). -/
def shFr (o : FR) (n wd : Nat) : List Demand :=
  frPlain o ++ [.dst o.d wd false, (if 1 ≤ n then .src o.a 1 else .zero (o.a = 0)),
    (if 2 ≤ n then .src o.b 1 else .zero (o.b = 0)), (if 3 ≤ n then .src o.c 1 else .zero (o.c = 0))]

/-- As `shFr` with M defined by `mOk`. -/
def shFrM (o : FR) (n wd : Nat) (mOk : Bool) : List Demand :=
  [.zero (o.t = 0), .zero (o.rm = 0), .zero mOk, .code (guardOk o.g), .dst o.d wd false,
    (if 1 ≤ n then .src o.a 1 else .zero (o.a = 0)),
    (if 2 ≤ n then .src o.b 1 else .zero (o.b = 0)), (if 3 ≤ n then .src o.c 1 else .zero (o.c = 0))]

/-- The after-handle of an FO word (R38, R243). -/
def shAfter (o : FO) : Demand := if o.af = 1 then .src o.c 1 else .zero (o.c = 0)

/-- An engine command (R271). -/
def shEngine (o : FO) (resumable : Bool) : List Demand :=
  [.zero (o.m.extractLsb' 1 2 = 0), (if resumable then .code true else .code (o.m.extractLsb' 0 1 = 0)),
   .code (guardOk o.g), .dst o.d 1 false, .src o.a 1, .src o.b 2, shAfter o]

/-- V float words (R134): the accepted T, the operand count, whether RM is read for f32, whether it is read at all. An RM that must be zero
because T is an integer is a code of check 5, one that the opcode never uses a zero field of check 4 (DESIGN CHOICE, assumption 63). -/
def shVFloat (o : FR) (ts : List Nat) (n : Nat) (rounds : Bool) : List Demand :=
  [.code (tIn o.t ts),
   (if rounds then .rm (o.t = 8 || o.rm = 0) else .zero (o.rm = 0)), .zero (o.m = 0), .code (guardOk o.g),
   .vdst o.d 1 false, .vsrc o.a 1, (if 2 ≤ n then .vsrc o.b 1 else .zero (o.b = 0)),
   (if 3 ≤ n then .vsrc o.c 1 else .zero (o.c = 0))]

/-- V words over plain lanes with T and RM zero (R136, R139, R149): `mOk` says the M bits are ones the entry defines. -/
def shVPlain (o : FR) (n : Nat) (mOk : Bool) : List Demand :=
  [.zero (o.t = 0), .zero (o.rm = 0), .zero mOk, .code (guardOk o.g),
   .vdst o.d 1 false, .vsrc o.a 1, (if 2 ≤ n then .vsrc o.b 1 else .zero (o.b = 0)),
   (if 3 ≤ n then .vsrc o.c 1 else .zero (o.c = 0))]

/-- V predicate words (R150). -/
def shVPred (o : FR) (n : Nat) (p : Bool) : List Demand :=
  [.zero (o.t = 0), .zero (o.rm = 0), .zero (o.m = 0), .code (guardOk o.g), .vdst o.d 1 p, .vsrc o.a 1,
   (if 2 ≤ n then .vsrc o.b 1 else .zero (o.b = 0)), .zero (o.c = 0)]

/-- The C and T pairs of `vscan` and `vred` (R138). -/
def scanOpOk (o : FR) : Bool :=
  (immIn o.c 0 2 && tIn o.t [8, 2, 6]) || (immIn o.c 3 5 && tIn o.t [2, 6])

/-- The codes of R38 that ET accepts in a word. -/
def etOk (et : BitVec 5) : Bool :=
  [0, 1, 2, 4, 5, 6, 8, 9, 0xA, 0xB, 0xC, 0xD, 0x10, 0x11, 0x12].contains et.toNat

/-- Registers that a base specifier names in each space (R163). -/
def baseW (sp : BitVec 2) : Nat := match sp.toNat with | 0 => 2 | 2 => 4 | _ => 1

/-- Registers of a memory operand of size code SZ (R167). -/
def dataW (sz : BitVec 3) : Nat := match sz.toNat with | 3 => 2 | 4 => 4 | _ => 1

/-- A memory word of R166: `q` bounds the queue number when the data field names a queue, `store` whether it stores,
`spMax` the largest space code (device-control is 3), `bytes` the largest size code. -/
def shMem (o : FM) (q : Option Nat) (store : Bool) (spMax : Nat) (szMax : Nat) (index : Bool) : List Demand :=
  [.code (o.sz.toNat ≤ szMax), .code (o.sp.toNat ≤ spMax), .space o.sp,
   .code (o.bypass = 0 || (!store && o.sp = 0)),
   .code (o.ord = 0 || (if store then o.ord = 2 else o.ord = 1)),
   .code (o.sp ≠ 3 || (o.sz = 2 && o.ord = 0)),
   .src o.base (baseW o.sp)] ++
  (match q with
   | some k => [.code (decide (o.data.toNat < k))]
   | none => if store then [.src o.data (dataW o.sz)] else [.dst o.data (dataW o.sz) false]) ++
  if index then [.zero (o.off.extractLsb' 0 11 = 0), .src (o.off.extractLsb' 11 7) 1] else []

/-- An atomic (R173): the accepted T, with C's demand given by the caller. -/
def shAtomic (o : FR) (ts : List Nat) (c : Demand) : List Demand :=
  [.code (tIn o.t ts), .zero (o.rm = 0), .code (o.m ≠ 3), .code (guardOk o.g), .dst o.d (wideT o.t) false,
   .src o.a (baseW o.m), .src o.b (wideT o.t), c]

/-- A word on a lock (R192, R193): spaces global and fabric. -/
def shLock (o : FR) : List Demand :=
  [.zero (o.c = 0), .zero (o.t = 0), .zero (o.rm = 0), .code (o.m = 0 || o.m = 2), .code (guardOk o.g),
   .src o.a (baseW o.m)]

/-- A tile word of R206 and R207: which of TD, TA, TB, S, the masks and ET it uses, the accepted ET, the M bits the
entry leaves undefined. -/
def shTile (o : FT) (td ta tb s masks : Bool) (ets : BitVec 5 → Bool) (mUnused : BitVec 8) : List Demand :=
  [(if td then .tiles o.td 1 else .zero (o.td = 0)), (if ta then .tiles o.ta 1 else .zero (o.ta = 0)),
   (if tb then .tiles o.tb 1 else .zero (o.tb = 0)), (if s then .src o.s 1 else .zero (o.s = 0)),
   (if masks then .zero true else .zero (o.rms = 0 && o.cms = 0)), .code (etOk o.et), .code (ets o.et),
   .code (guardOk o.g), .zero (o.m &&& mUnused = 0)]

/-- The sbmx element types (R38). -/
def etSb (et : BitVec 5) : Bool := et.extractLsb' 2 3 = 4#3 && et.extractLsb' 0 2 ≠ 3#2

/-- f32, i32 and n32 (R207). -/
def et32 (et : BitVec 5) : Bool := et = 8 || et = 2 || et = 6

/-- Activation ETs of R211 by weight row: fp8, fp4, 16-bit, integer. -/
inductive ActKind where
  | fp8 | fp4 | b16 | int
  deriving DecidableEq, Repr

/-- The row of R211 that an activation ET belongs to. -/
def actKind (et : BitVec 5) : Option ActKind :=
  match et.toNat with
  | 0x0B | 0x0C | 0x10 | 0x11 => some .fp8
  | 0x0D | 0x12 => some .fp4
  | 0x09 | 0x0A => some .b16
  | 0x00 | 0x04 => some .int
  | _ => none

/-- The reduction length n of `wdot` and `wtdot` (R211). -/
def redLen (k : ActKind) (trans : Bool) : Nat :=
  match k, trans with
  | .fp8, _ => 256 | .int, _ => 256
  | .fp4, false => 256 | .fp4, true => 512
  | .b16, false => 128 | .b16, true => 256

/-- The output length m of `wdot` and `wtdot` (R211). -/
def outLen (k : ActKind) (trans : Bool) : Nat :=
  match k, trans with
  | .fp8, _ => 256 | .int, _ => 256
  | .fp4, false => 512 | .fp4, true => 256
  | .b16, false => 256 | .b16, true => 128

/-- Tiles of an input group of length n (R212). -/
def inTiles (k : ActKind) (n : Nat) : Nat :=
  match k with
  | .b16 => if n = 256 then 2 else 1
  | .fp4 => if n = 512 then 2 else 1
  | _ => 1

/-- Tiles of an output group of length m with output type OT (R212). -/
def outTiles (m : Nat) (ot : BitVec 2) : Nat := if ot = 0 then m / 64 else m / 128

/-- The dy and x lengths of `wouter` (R211). -/
def outerX (k : ActKind) : Nat := match k with | .b16 => 128 | _ => 256

/-- Two groups of tiles share no tile (R212). -/
def disjointTiles (a : BitVec 4) (na : Nat) (b : BitVec 4) (nb : Nat) : Bool :=
  decide (a.toNat + na ≤ b.toNat) || decide (b.toNat + nb ≤ a.toNat)

/-- `wdot` and `wtdot` (R219, R212). The upper half of a pair names no output tile in TO, but the word is checked as
it is written. Input and output groups that share a tile fail check 5 (DESIGN CHOICE: R212 names no check, assumption 63). -/
def shDot (o : FW) (trans : Bool) : List Demand :=
  [.code (actKind o.et).isSome, .code (o.acc ≠ 3), .code (o.m.extractLsb' 0 2 ≠ 3),
   .code (o.acc = 0 || o.m.extractLsb' 0 2 = 0),
   .code (!(actKind o.et = some .int) || o.m.extractLsb' 0 2 = 0),
   .zero (o.m.extractLsb' 2 1 = 0), .code (o.acc = 2 || o.m.extractLsb' 3 3 = 0), .code (guardOk o.g),
   .dst o.d 1 false] ++
  match actKind o.et with
  | some k =>
    let ni := inTiles k (redLen k trans)
    let no := outTiles (outLen k trans) (o.m.extractLsb' 0 2)
    [.tiles o.ta ni, .tiles o.tout no, .code (disjointTiles o.ta ni o.tout no)]
  | none => []

/-- `wouter` (R219, R212). -/
def shOuter (o : FW) : List Demand :=
  [.code (actKind o.et).isSome, .code (actKind o.et ≠ some .int), .code (o.acc.toNat ≤ 1),
   .code (o.m.extractLsb' 0 2 = 0), .code (o.m.extractLsb' 2 1 = 0 || actKind o.et = some .fp4),
   .zero (o.m.extractLsb' 3 3 = 0), .code (guardOk o.g), .dst o.d 1 false] ++
  match actKind o.et with
  | some k => [.tiles o.ta (inTiles k (outerX k)), .tiles o.tout (inTiles k 256)]
  | none => []

/-- The stream whose map holds a word; none for an event. -/
def wordStream : Instr → Option StreamId
  | .nop st _ _ => some st
  | .align st _ _ => some st
  | .stop st _ _ => some st
  | .loop st _ _ => some st
  | .endl st _ _ => some st
  | .brk st _ _ => some st
  | .ldlit st _ _ => some st
  | .pool st _ _ => some st
  | .br st _ _ => some st
  | .add _ _ | .sub _ _ | .mul _ _ | .mulh _ _ | .div _ _ | .rem _ _ | .mad _ _ | .min _ _ | .max _ _
  | .and _ _ | .or _ _ | .xor _ _ | .andn _ _ | .shl _ _ | .shr _ _ | .sar _ _ | .rot _ _ | .clz _ _ | .ctz _ _
  | .popc _ _ | .bfx _ _ | .bfi _ _ | .ext _ _ | .sel _ _ | .cmp _ _ | .movi _ _ | .movh _ _ | .mov _ _
  | .keep _ _ | .pand _ _ | .por _ _ | .pxor _ _ | .pnot _ _ | .fadd _ _ | .fsub _ _ | .fmul _ _ | .ffma _ _
  | .fdiv _ _ | .fsqrt _ _ | .fmin _ _ | .fmax _ _ | .fcmp _ _ | .fcvt _ _ | .fclass _ _ | .call _ _ | .ret _ _
  | .jmp _ _ | .swt _ _ | .mvcr _ _ | .mvrc _ _ | .clk _ _ | .trap _ _ | .evpost _ _ | .sysr _ _ | .sysw _ _
  | .owait _ _ | .otest _ _ | .ojoin _ _ | .ocancel _ _ | .odetach _ _ | .oadopt _ _ | .orelease _ _
  | .oprio _ _ | .ofault _ _ | .lease _ _ | .unlease _ _ | .lquery _ _ | .colrs _ _ | .colag _ _ | .colar _ _
  | .cola2a _ _ | .colbc _ _ | .colcmb _ _ | .rtopk _ _ | .rplan _ _ | .sortkv _ _ | .gathr _ _ | .scatr _ _
  | .sfnap _ _ | .cdpack _ _ | .cdunpk _ _ | .qlaunch _ _ | .qsignal _ _ | .gid _ _ | .grank _ _ | .gsize _ _
  | .gpeer _ _ | .gshare _ _ | .gclaim _ _ | .barinit _ _ | .barrive _ _ | .barwait _ _ | .bartest _ _
  | .barleave _ _ | .glzs _ _ | .glza _ _ | .glzq _ _ => some .S
  | .vadd _ _ | .vsub _ _ | .vmul _ _ | .vfma _ _ | .vmin _ _ | .vmax _ _ | .vabs _ _ | .vneg _ _ | .vdiv _ _
  | .vsqrt _ _ | .vrcp _ _ | .vrsqrt _ _ | .vexp2 _ _ | .vlog2 _ _ | .vand _ _ | .vor _ _ | .vxor _ _
  | .vshl _ _ | .vshr _ _ | .vsar _ _ | .vcmp _ _ | .vsel _ _ | .vwadd _ _ | .vwmul _ _ | .vscan _ _
  | .vred _ _ | .vperm _ _ | .vbcast _ _ | .vrot _ _ | .vcomp _ _ | .vcvt _ _ | .vmxq _ _ | .vmxd _ _
  | .vsatr _ _ | .vseed _ _ | .vrand _ _ | .vpop _ _ | .vpush _ _ | .vtrd _ _ | .vtwr _ _ | .vmov _ _
  | .vext _ _ | .vins _ _ | .vpand _ _ | .vpor _ _ | .vpnot _ _ | .vpcnt _ _ => some .V
  | .aAdd _ _ | .aSub _ _ | .aShl _ _ | .aMul _ _ | .aMovi _ _ | .aMov _ _ | .bcmp _ _ | .ld _ _ | .ldq _ _
  | .ldx _ _ | .st _ _ | .stq _ _ | .stx _ _ | .pf _ _ | .amo _ _ | .amoswp _ _ | .amocas _ _ | .fence _ _
  | .acq _ _ | .rel _ _ | .bind _ _ | .unbind _ _ | .cpy _ _ | .cstage _ _ | .lfe _ _ | .oqst _ _ | .bdot _ _
  | .bdmode _ _ | .pmig _ _ => some .A
  | .tzero _ _ | .tld _ _ | .tst _ _ | .tmov _ _ | .tfill _ _ | .tcvt _ _ | .tadd _ _ | .tmul _ _ | .tscale _ _
  | .trmax _ _ | .trsum _ _ | .rmset _ _ | .cmset _ _ | .wlease _ _ | .wload _ _ | .wdot _ _ | .wtdot _ _
  | .wouter _ _ | .wdrain _ _ | .wclr _ _ | .wrel _ _ | .wpair _ _ => some .X
  | .resultDelivery .. | .tileWriteDelivery .. | .haltFinish .. | .debugHold .. | .debugStep ..
  | .debugStepA .. | .opdbgrel .. | .scanAdmit .. | .withdraw .. | .withdrawAll .. | .residencyDone ..
  | .nodeStart .. | .nodeEnd .. | .dispatcherRound | .nodeRelease .. | .nodeFinish .. | .waitNodeSatisfied ..
  | .qtailWrite .. | .queueEnableWrite .. | .queueSuspend .. | .queueResume .. | .queueDrain .. | .queueDead ..
  | .launchAppend .. | .homeRequestArrival .. | .barrierMulticast .. | .predecessorFinished ..
  | .operationStart .. | .operationComplete .. | .operationFailure .. | .priorityAging .. | .arrayRunStart ..
  | .arrayRunLimit .. | .arrayCommandStart .. | .arrayCommandComplete .. | .drainRowAccepted ..
  | .pairTimeout .. | .leaseQueueEntry .. | .leaseGrant .. | .wakeDone .. | .quantumEnd .. | .engineYield ..
  | .forcedEviction .. | .scrubDone .. | .drowsyTimeout .. | .sleepTimeout .. | .engineCommandStart ..
  | .engineUnitDone .. | .copyLineDelivery .. | .copyNodeRun .. | .signalNodeRun .. | .replay ..
  | .walkReturn .. | .pageTouch .. | .pageMoveDone .. | .decayPeriod .. | .dotModeChangeDone ..
  | .bankDotRow .. | .droopWindow .. | .tlbiPage .. | .tlbiFunction .. | .tlbiAll | .rowval .. | .ctxCreate
  | .switchOut .. | .preemptWaitExpiry .. | .deadlineExpiry .. | .switchIn .. | .ctxRecover .. | .ctxDestroy ..
  | .teardownDone .. | .migrateOut .. | .migrateIn .. | .migrationTargetTimeout .. | .pageHandover ..
  | .ownerTokenArrival .. | .migrationAbort .. | .tombstoneLapse .. | .formationTimeout .. | .signalDetected ..
  | .trainingEnd .. | .retrainTrigger .. | .retrain .. | .portEnableWrite .. | .flitReceived ..
  | .nakReceived .. | .replayTimeout .. | .msgLoad .. | .msgLoadReply .. | .msgStore .. | .msgStoreAck ..
  | .msgAtomic .. | .msgAtomicReply .. | .msgCollective .. | .msgBarrier .. | .msgConnectionControl ..
  | .msgShardDelivery .. | .msgMoved .. | .msgRefusal .. | .msgContextTransfer .. | .msgAbort ..
  | .parkNotice .. | .resumeNotice .. | .connopenTimeout .. | .retransmission .. | .connidleTimeout ..
  | .connbackoffExpiry .. | .connectionDrained .. | .connectionSpill .. | .osyncEdge | .slotStart | .slotCommit
  | .ringHeatWrite .. | .ringSettled .. | .ringMapWrite .. | .chunkApply .. | .coldReset .. | .warmReset
  | .selftestEnd .. | .freeze | .freezeN | .powerControl .. | .temperatureLimit .. | .partitionEnable ..
  | .vfEnable .. | .cxlPortFailure .. | .dcread | .dcwrite | .idcert | .quote | .fwstage | .scanrd
  | .registerWrite .. | .rconsWrite .. | .fetchMissArrival .. => none

/-- The header of a word. -/
def wordHdr : Instr → Option Hdr
  | .nop _ h _ => some h
  | .align _ h _ => some h
  | .stop _ h _ => some h
  | .loop _ h _ => some h
  | .endl _ h _ => some h
  | .brk _ h _ => some h
  | .ldlit _ h _ => some h
  | .pool _ h _ => some h
  | .br _ h _ => some h
  | .add h _ | .sub h _ | .mul h _ | .mulh h _ | .div h _ | .rem h _ | .mad h _ | .min h _ | .max h _
  | .and h _ | .or h _ | .xor h _ | .andn h _ | .shl h _ | .shr h _ | .sar h _ | .rot h _ | .clz h _ | .ctz h _
  | .popc h _ | .bfx h _ | .bfi h _ | .ext h _ | .sel h _ | .cmp h _ | .movi h _ | .movh h _ | .mov h _
  | .keep h _ | .pand h _ | .por h _ | .pxor h _ | .pnot h _ | .fadd h _ | .fsub h _ | .fmul h _ | .ffma h _
  | .fdiv h _ | .fsqrt h _ | .fmin h _ | .fmax h _ | .fcmp h _ | .fcvt h _ | .fclass h _ | .call h _ | .ret h _
  | .jmp h _ | .swt h _ | .mvcr h _ | .mvrc h _ | .clk h _ | .trap h _ | .evpost h _ | .sysr h _ | .sysw h _
  | .owait h _ | .otest h _ | .ojoin h _ | .ocancel h _ | .odetach h _ | .oadopt h _ | .orelease h _
  | .oprio h _ | .ofault h _ | .lease h _ | .unlease h _ | .lquery h _ | .colrs h _ | .colag h _ | .colar h _
  | .cola2a h _ | .colbc h _ | .colcmb h _ | .rtopk h _ | .rplan h _ | .sortkv h _ | .gathr h _ | .scatr h _
  | .sfnap h _ | .cdpack h _ | .cdunpk h _ | .qlaunch h _ | .qsignal h _ | .gid h _ | .grank h _ | .gsize h _
  | .gpeer h _ | .gshare h _ | .gclaim h _ | .barinit h _ | .barrive h _ | .barwait h _ | .bartest h _
  | .barleave h _ | .glzs h _ | .glza h _ | .glzq h _ | .vadd h _ | .vsub h _ | .vmul h _ | .vfma h _
  | .vmin h _ | .vmax h _ | .vabs h _ | .vneg h _ | .vdiv h _ | .vsqrt h _ | .vrcp h _ | .vrsqrt h _
  | .vexp2 h _ | .vlog2 h _ | .vand h _ | .vor h _ | .vxor h _ | .vshl h _ | .vshr h _ | .vsar h _ | .vcmp h _
  | .vsel h _ | .vwadd h _ | .vwmul h _ | .vscan h _ | .vred h _ | .vperm h _ | .vbcast h _ | .vrot h _
  | .vcomp h _ | .vcvt h _ | .vmxq h _ | .vmxd h _ | .vsatr h _ | .vseed h _ | .vrand h _ | .vpop h _
  | .vpush h _ | .vtrd h _ | .vtwr h _ | .vmov h _ | .vext h _ | .vins h _ | .vpand h _ | .vpor h _
  | .vpnot h _ | .vpcnt h _ | .aAdd h _ | .aSub h _ | .aShl h _ | .aMul h _ | .aMovi h _ | .aMov h _
  | .bcmp h _ | .ld h _ | .ldq h _ | .ldx h _ | .st h _ | .stq h _ | .stx h _ | .pf h _ | .amo h _
  | .amoswp h _ | .amocas h _ | .fence h _ | .acq h _ | .rel h _ | .bind h _ | .unbind h _ | .cpy h _
  | .cstage h _ | .lfe h _ | .oqst h _ | .bdot h _ | .bdmode h _ | .pmig h _ | .tzero h _ | .tld h _ | .tst h _
  | .tmov h _ | .tfill h _ | .tcvt h _ | .tadd h _ | .tmul h _ | .tscale h _ | .trmax h _ | .trsum h _
  | .rmset h _ | .cmset h _ | .wlease h _ | .wload h _ | .wdot h _ | .wtdot h _ | .wouter h _ | .wdrain h _
  | .wclr h _ | .wrel h _ | .wpair h _ => some h
  | .resultDelivery .. | .tileWriteDelivery .. | .haltFinish .. | .debugHold .. | .debugStep ..
  | .debugStepA .. | .opdbgrel .. | .scanAdmit .. | .withdraw .. | .withdrawAll .. | .residencyDone ..
  | .nodeStart .. | .nodeEnd .. | .dispatcherRound | .nodeRelease .. | .nodeFinish .. | .waitNodeSatisfied ..
  | .qtailWrite .. | .queueEnableWrite .. | .queueSuspend .. | .queueResume .. | .queueDrain .. | .queueDead ..
  | .launchAppend .. | .homeRequestArrival .. | .barrierMulticast .. | .predecessorFinished ..
  | .operationStart .. | .operationComplete .. | .operationFailure .. | .priorityAging .. | .arrayRunStart ..
  | .arrayRunLimit .. | .arrayCommandStart .. | .arrayCommandComplete .. | .drainRowAccepted ..
  | .pairTimeout .. | .leaseQueueEntry .. | .leaseGrant .. | .wakeDone .. | .quantumEnd .. | .engineYield ..
  | .forcedEviction .. | .scrubDone .. | .drowsyTimeout .. | .sleepTimeout .. | .engineCommandStart ..
  | .engineUnitDone .. | .copyLineDelivery .. | .copyNodeRun .. | .signalNodeRun .. | .replay ..
  | .walkReturn .. | .pageTouch .. | .pageMoveDone .. | .decayPeriod .. | .dotModeChangeDone ..
  | .bankDotRow .. | .droopWindow .. | .tlbiPage .. | .tlbiFunction .. | .tlbiAll | .rowval .. | .ctxCreate
  | .switchOut .. | .preemptWaitExpiry .. | .deadlineExpiry .. | .switchIn .. | .ctxRecover .. | .ctxDestroy ..
  | .teardownDone .. | .migrateOut .. | .migrateIn .. | .migrationTargetTimeout .. | .pageHandover ..
  | .ownerTokenArrival .. | .migrationAbort .. | .tombstoneLapse .. | .formationTimeout .. | .signalDetected ..
  | .trainingEnd .. | .retrainTrigger .. | .retrain .. | .portEnableWrite .. | .flitReceived ..
  | .nakReceived .. | .replayTimeout .. | .msgLoad .. | .msgLoadReply .. | .msgStore .. | .msgStoreAck ..
  | .msgAtomic .. | .msgAtomicReply .. | .msgCollective .. | .msgBarrier .. | .msgConnectionControl ..
  | .msgShardDelivery .. | .msgMoved .. | .msgRefusal .. | .msgContextTransfer .. | .msgAbort ..
  | .parkNotice .. | .resumeNotice .. | .connopenTimeout .. | .retransmission .. | .connidleTimeout ..
  | .connbackoffExpiry .. | .connectionDrained .. | .connectionSpill .. | .osyncEdge | .slotStart | .slotCommit
  | .ringHeatWrite .. | .ringSettled .. | .ringMapWrite .. | .chunkApply .. | .coldReset .. | .warmReset
  | .selftestEnd .. | .freeze | .freezeN | .powerControl .. | .temperatureLimit .. | .partitionEnable ..
  | .vfEnable .. | .cxlPortFailure .. | .dcread | .dcwrite | .idcert | .quote | .fwstage | .scanrd
  | .registerWrite .. | .rconsWrite .. | .fetchMissArrival .. => none

/-- The demands of each word on its fields (R31-R48 and the instruction entries). `tst` uses neither RMS nor CMS, so both are zero fields
(DESIGN CHOICE: R207 says nothing of them there, assumption 63). -/
def demands (i : Instr) : List Demand :=
  match i with
  | .nop _ _ o | .align _ _ o | .stop _ _ o => [.zero (o.rest = 0)]
  | .loop st _ o => [.zero (o.rest = 0), if st = .V then .vsrc o.count 1 else .src o.count 1]
  | .endl _ _ o => [.zero (o.rest = 0), .zero (o.count = 0)]
  | .brk _ _ o => [.zero (o.d = 0), .zero (o.a = 0)]
  | .ldlit st _ o => [.zero (o.a = 0), if st = .V then .vdst o.d 1 false else .dst o.d 2 false]
  | .pool _ h o =>
    [.zero (o.d = 0), .zero (o.a = 0), .zero (h.idle = 0), .zero (h.pop = 0), .zero (h.push = 0),
     .code (1 ≤ (o.imm.extractLsb' 0 25).toNat && (o.imm.extractLsb' 0 25).toNat ≤ 4096)]
  | .br st _ o => shBranch o (st = .V)
  | .add _ o | .sub _ o | .mul _ o | .mulh _ o | .div _ o | .rem _ o | .min _ o | .max _ o
  | .and _ o | .or _ o | .xor _ o | .andn _ o => shInt2 o (wideT o.t)
  | .shl _ o | .shr _ o | .sar _ o | .rot _ o | .bfx _ o => shInt2 o 1
  | .mad _ o | .bfi _ o =>
    [.code (tIn o.t intTs), .zero (o.rm = 0), .zero (o.m = 0), .code (guardOk o.g), .dst o.d (wideT o.t) false,
     .src o.a (wideT o.t), .src o.b (wideT o.t), .src o.c (match i with | .mad _ _ => wideT o.t | _ => 1)]
  | .clz _ o | .ctz _ o | .popc _ o | .mov _ o => shInt1 o intTs
  | .ext _ o =>
    [.code (tIn o.t [0, 1, 2, 4, 5, 6]), .zero (o.b = 0), .zero (o.c = 0), .zero (o.rm = 0),
     .zero (o.m.extractLsb' 1 1 = 0), .code (guardOk o.g),
     .dst o.d (if o.m.extractLsb' 0 1 = 1 then 2 else 1) false, .src o.a 1]
  | .sel _ o =>
    [.code (tIn o.t intTs), .zero (o.rm = 0), .zero (o.m = 0), .code (guardOk o.g), .dst o.d (wideT o.t) false,
     .src o.a 1, .src o.b (wideT o.t), .src o.c (wideT o.t)]
  | .cmp _ o =>
    [.code (tIn o.t intTs), .code (immIn o.c 0 5), .zero (o.rm = 0), .zero (o.m = 0), .code (guardOk o.g),
     .dst o.d 1 true, .src o.a (wideT o.t), .src o.b (wideT o.t)]
  | .movi _ o => [.zero (o.a = 0), .dst o.d 1 false]
  | .movh _ o => [.zero (o.imm.extractLsb' 16 10 = 0), .dst o.d 1 false, .src o.a 1]
  | .keep _ o =>
    [.code (tIn o.t intTs), .zero (o.c = 0), .zero (o.rm = 0), .zero (o.m = 0), .code (guardOk o.g),
     .code (o.d ≠ 0x7F), .dst o.d (wideT o.t) false, .src o.a (wideT o.t), .src o.b 1]
  | .pand _ o | .por _ o | .pxor _ o => shPred o true
  | .pnot _ o => shPred o false
  | .fadd _ o | .fsub _ o | .fmul _ o | .fdiv _ o => shFloat o 2 true
  | .ffma _ o => shFloat o 3 true
  | .fsqrt _ o => shFloat o 1 true
  | .fmin _ o | .fmax _ o => shFloat o 2 false
  | .fcmp _ o =>
    [.code (o.t = 8), .zero (o.rm = 0), .zero (o.m = 0), .code (guardOk o.g), .code (immIn o.c 0 7),
     .dst o.d 1 false, .src o.a 1, .src o.b 1]
  | .fcvt _ o =>
    [.code (cvtT o), .code (immIn o.c 0 13), .rm (o.rm ≠ 3), .zero (o.m = 0), .zero (o.b = 0), .code (guardOk o.g),
     .dst o.d (wideT o.t) false, .src o.a (cvtSrcW o)]
  | .fclass _ o =>
    [.code (tIn o.t [8, 9, 0xA, 0xB, 0xC, 0xD]), .zero (o.rm = 0), .zero (o.m = 0), .code (guardOk o.g),
     .zero (o.b = 0), .zero (o.c = 0), .dst o.d 1 false, .src o.a 1]
  | .call _ o => shBranch o false
  | .ret _ o => [.zero (o.rest = 0)]
  | .jmp _ o | .swt _ o => [.zero (o.d = 0), .src o.a 1]
  | .mvcr _ o => shReg o true ctlReg
  | .mvrc _ o => shReg o false ctlReg
  | .sysw _ o => shReg o true sysReg
  | .sysr _ o => shReg o false sysReg
  | .clk _ o =>
    [.zero (o.t = 0), .zero (o.rm = 0), .code (o.m.toNat ≤ 1), .code (guardOk o.g), .zero (o.a = 0), .zero (o.b = 0),
     .zero (o.c = 0), .dst o.d (if o.m = 1 then 2 else 1) false]
  | .trap _ o => [.zero (o.d = 0), .zero (o.a = 0), .zero (o.imm.extractLsb' 25 1 = 0)]
  | .evpost _ o => frPlain o ++ [.zero (o.c = 0), .dst o.d 1 false, .src o.a 1, .src o.b 2]
  | .owait _ o => shFrM o 1 1 (o.m.extractLsb' 1 1 = 0)
  | .otest _ o | .ocancel _ o | .odetach _ o | .oadopt _ o | .orelease _ o => shFr o 1 1
  | .oprio _ o | .ofault _ o => shFr o 2 1
  | .ojoin _ o =>
    [.zero (o.af = 0), .zero (o.pr = 0), .zero (o.m.extractLsb' 1 2 = 0), .code (guardOk o.g), .dst o.d 1 false,
     .src o.a (if o.m.extractLsb' 0 1 = 1 then 2 else 1), .src o.b 1, .src o.c 1]
  | .lease _ o =>
    [.zero (o.m.extractLsb' 1 2 = 0), .zero (o.b = 0), .code (immIn o.a 0 5), .code (guardOk o.g), .dst o.d 1 false,
     shAfter o]
  | .unlease _ o => shFr o 1 1
  | .lquery _ o =>
    [.zero (o.t = 0), .zero (o.rm = 0), .zero (o.m.extractLsb' 1 1 = 0), .code (guardOk o.g), .dst o.d 1 false,
     .zero (o.b = 0), .zero (o.c = 0), if o.m.extractLsb' 0 1 = 1 then .code (immIn o.a 0 5) else .src o.a 1]
  | .colrs _ o | .colag _ o | .colar _ o | .cola2a _ o | .colbc _ o | .colcmb _ o | .rplan _ o | .sortkv _ o =>
    shEngine o false
  | .rtopk _ o | .gathr _ o | .scatr _ o | .sfnap _ o | .cdpack _ o | .cdunpk _ o => shEngine o true
  | .qlaunch _ o => [.zero (o.m = 0), .code (guardOk o.g), .dst o.d 1 false, .src o.a 1, .src o.b 2, shAfter o]
  | .qsignal _ o => shFr o 2 1
  | .gid _ o | .grank _ o => shFr o 0 1
  | .gsize _ o => shFrM o 0 1 (o.m.extractLsb' 1 1 = 0)
  | .gpeer _ o =>
    [.zero (o.t = 0), .zero (o.rm = 0), .code (o.m ≠ 3), .code (guardOk o.g), .dst o.d 1 false, .zero (o.c = 0)] ++
    if o.m = 0 then [.code (immIn o.a 0 2), .code (immIn o.b 1 1 || immIn o.b (-1) (-1))]
    else [.src o.a 1, .zero (o.b = 0)]
  | .gshare _ o =>
    [.zero (o.t = 0), .zero (o.rm = 0), .code (o.m ≠ 3), .code (guardOk o.g), .dst o.d 2 false, .src o.a 1] ++
    if o.m = 0 then [.src o.b 1, .src o.c 1] else [.zero (o.b = 0), .zero (o.c = 0)]
  | .gclaim _ o => shFr o 0 2
  | .barinit _ o => shFrM o (if o.m = 3 then 3 else 2) 1 true
  | .barrive _ o | .barleave _ o => shFrM o 1 1 (o.m.extractLsb' 1 1 = 0)
  | .barwait _ o | .bartest _ o => shFrM o 2 1 (o.m.extractLsb' 1 1 = 0)
  | .glzs _ o => [.zero (o.m = 0), .code (guardOk o.g), .dst o.d 1 false, .src o.a 1, .src o.b 1, shAfter o]
  | .glza _ o => frPlain o ++ [.dst o.d 1 false, .src o.a 1, .src o.b 2, .src o.c 1]
  | .glzq _ o => shFr o 2 1
  | .vadd _ o | .vsub _ o | .vmul _ o => shVFloat o [8, 2, 6] 2 true
  | .vfma _ o => shVFloat o [8, 2, 6] 3 true
  | .vmin _ o | .vmax _ o => shVFloat o [8, 2, 6] 2 false
  | .vabs _ o | .vneg _ o => shVFloat o [8, 2] 1 false
  | .vdiv _ o => shVFloat o [8] 2 true
  | .vsqrt _ o | .vrcp _ o | .vrsqrt _ o | .vexp2 _ o | .vlog2 _ o => shVFloat o [8] 1 true
  | .vand _ o | .vor _ o | .vxor _ o | .vshl _ o | .vshr _ o | .vsar _ o => shVPlain o 2 (o.m = 0)
  | .vcmp _ o =>
    [.code (tIn o.t [8, 2, 6]), .code (if o.t = 8 then immIn o.c 0 7 else immIn o.c 0 5), .zero (o.rm = 0),
     .zero (o.m = 0), .code (guardOk o.g), .vdst o.d 1 true, .vsrc o.a 1, .vsrc o.b 1]
  | .vsel _ o => shVPlain o 3 (o.m = 0)
  | .vwadd _ o =>
    [.code (tIn o.t [2, 6]), .zero (o.rm = 0), .zero (o.m.extractLsb' 1 1 = 0), .zero (o.c = 0), .code (guardOk o.g),
     .vdst o.d 2 false, .vsrc o.a (if o.m.extractLsb' 0 1 = 1 then 2 else 1), .vsrc o.b 1]
  | .vwmul _ o =>
    [.code (tIn o.t [2, 6]), .zero (o.rm = 0), .zero (o.m = 0), .zero (o.c = 0), .code (guardOk o.g),
     .vdst o.d 2 false, .vsrc o.a 1, .vsrc o.b 1]
  | .vscan _ o =>
    [.code (scanOpOk o), .rm (if o.t = 8 && immIn o.c 0 0 then o.rm ≠ 3 else o.rm = 0),
     .zero (o.m.extractLsb' 1 1 = 0), .code (guardOk o.g), .vdst o.d 1 false, .vsrc o.a 1, .vsrc o.b 1]
  | .vred _ o =>
    [.code (scanOpOk o), .rm (if o.t = 8 && immIn o.c 0 0 then o.rm ≠ 3 else o.rm = 0),
     .zero (o.m = 0), .code (guardOk o.g), .vdst o.d 1 false, .vsrc o.a 1, .vsrc o.b 1]
  | .vperm _ o => shVPlain o (if o.m = 1 then 3 else 2) (o.m.extractLsb' 1 1 = 0)
  | .vbcast _ o | .vcomp _ o => shVPlain o 2 (o.m = 0)
  | .vrot _ o => shVPlain o 2 (o.m.extractLsb' 1 1 = 0)
  | .vcvt _ o =>
    [.code (cvtT o), .code (immIn o.c 0 13), .zero (o.m.extractLsb' 1 1 = 0), .code (guardOk o.g),
     .vdst o.d (wideT o.t) false, .vsrc o.a (cvtSrcW o), if o.m = 1 then .vsrc o.b 1 else .zero (o.b = 0)]
  | .vmxq _ o =>
    [.code (tIn o.t [0xB, 0xC, 0xD]), .zero (o.m.extractLsb' 1 1 = 0), .code (guardOk o.g), .vdst o.d 1 false,
     .vsrc o.a 1, (if o.m = 1 then .vsrc o.b 1 else .zero (o.b = 0)), .zero (o.c = 0)]
  | .vmxd _ o =>
    [.code (tIn o.t [0xB, 0xC, 0xD]), .zero (o.rm = 0), .zero (o.m = 0), .code (guardOk o.g), .vdst o.d 1 false,
     .vsrc o.a 1, .zero (o.b = 0), .zero (o.c = 0)]
  | .vsatr _ o =>
    [.code (tIn o.t [0, 1, 4, 5]), .zero (o.m.extractLsb' 1 1 = 0), .code (guardOk o.g), .vdst o.d 1 false,
     .vsrc o.a 1, .vsrc o.b 1, if o.m = 1 then .vsrc o.c 1 else .zero (o.c = 0)]
  | .vseed _ o =>
    [.zero (o.t = 0), .zero (o.rm = 0), .zero (o.m = 0), .code (guardOk o.g), .zero (o.d = 0), .vsrc o.a 1,
     .zero (o.b = 0), .zero (o.c = 0)]
  | .vrand _ o =>
    [.zero (o.t = 0), .zero (o.rm = 0), .zero (o.m.extractLsb' 1 1 = 0), .code (guardOk o.g), .vdst o.d 1 false,
     .zero (o.a = 0), .zero (o.b = 0), .zero (o.c = 0)]
  | .vpop _ o =>
    [.zero (o.imm.extractLsb' 3 23 = 0), .code ((o.imm.extractLsb' 0 3).toNat ≤ 3), .zero (o.a = 0), .vdst o.d 1 false]
  | .vpush _ o =>
    [.zero (o.imm.extractLsb' 3 23 = 0), .code ((o.imm.extractLsb' 0 3).toNat ≤ 1), .zero (o.d = 0), .vsrc o.a 1]
  | .vtrd _ o =>
    [.zero (o.td = 0), .zero (o.tb = 0), .zero (o.rms = 0), .zero (o.cms = 0), .tiles o.ta 1, .code (etOk o.et),
     .code (o.m.extractLsb' 6 2 ≠ 3), .code (o.m.extractLsb' 6 2 ≠ 2 || etSb o.et), .code (guardOk o.g),
     .code (o.s.extractLsb' 3 4 ≠ 0b1010), .vsrc o.s 1] ++
    if o.m.extractLsb' 5 1 = 1 then [.zero (o.m.extractLsb' 0 5 = 0)] else [.vdst (o.m.extractLsb' 0 5 |>.setWidth 7) 1 false]
  | .vtwr _ o =>
    [.zero (o.td = 0), .zero (o.tb = 0), .zero (o.rms = 0), .zero (o.cms = 0), .tiles o.ta 1, .code (etOk o.et),
     .code (o.m.extractLsb' 6 2 ≠ 3), .code (o.m.extractLsb' 6 2 ≠ 2 || etSb o.et), .code (guardOk o.g),
     .zero (o.m.extractLsb' 5 1 = 0), .code (o.s.extractLsb' 3 4 ≠ 0b1010), .vsrc o.s 1,
     .vsrc (o.m.extractLsb' 0 5 |>.setWidth 7) 1]
  | .vmov _ o =>
    [.zero (o.t = 0), .zero (o.rm = 0), .zero (o.m.extractLsb' 1 1 = 0), .code (guardOk o.g), .zero (o.b = 0),
     .zero (o.c = 0), .vdst o.d (if o.m = 1 then 2 else 1) false, .vsrc o.a (if o.m = 1 then 2 else 1)]
  | .vext _ o =>
    [.zero (o.t = 0), .zero (o.rm = 0), .zero (o.m = 0), .code (guardOk o.g), .dst o.d 1 false, .vsrc o.a 1,
     .vsrc o.b 1, .zero (o.c = 0)]
  | .vins _ o => shVPlain o 3 (o.m = 0)
  | .vpand _ o | .vpor _ o => shVPred o 2 true
  | .vpnot _ o => shVPred o 1 true
  | .vpcnt _ o => shVPred o 1 false
  | .aAdd _ o | .aSub _ o | .aMul _ o => shInt2 o (wideT o.t)
  | .aShl _ o => shInt2 o 1
  | .aMovi _ o => [.zero (o.a = 0), .dst o.d 1 false]
  | .aMov _ o => shInt1 o (intTs ++ [0, 1, 4, 5])
  | .bcmp _ o =>
    [.code (tIn o.t intTs), .code (immIn o.c 0 5), .zero (o.rm = 0), .zero (o.m = 0), .code (guardOk o.g),
     .dst o.d 1 true, .src o.a (wideT o.t), .src o.b (wideT o.t)]
  | .ld _ o => shMem o none false 3 4 false
  | .ldq _ o => shMem o (some 8) false 2 5 false
  | .ldx _ o => shMem o none false 2 4 true
  | .st _ o => shMem o none true 3 4 false
  | .stq _ o => shMem o (some 2) true 2 5 false
  | .stx _ o => shMem o none true 2 4 true
  | .pf _ o =>
    [.zero (o.data = 0), .code (o.sz = 0), .code (o.sp = 0), .space o.sp, .code (o.ord = 0), .src o.base 2]
  | .amo _ o =>
    shAtomic o [2, 3, 6, 7, 8]
      (.code ((immIn o.c 0 5 && tIn o.t intTs) || (immIn o.c 6 6 && o.t = 8)))
  | .amoswp _ o => shAtomic o intTs (.zero (o.c = 0))
  | .amocas _ o => shAtomic o intTs (.src o.c (wideT o.t))
  | .fence _ o =>
    [.code (o.m ≠ 0), .code (immIn o.c 0 4), .code (immIn o.b 0 1), .code (!(o.m = 2 && immIn o.b 1 1)),
     .zero (o.d = 0), .zero (o.a = 0), .zero (o.t = 0), .zero (o.rm = 0), .code (guardOk o.g)]
  | .acq _ o => shLock o ++ [.code (immIn o.b 0 1), .dst o.d 1 false]
  | .rel _ o => shLock o ++ [.zero (o.b = 0), .zero (o.d = 0)]
  | .bind _ o =>
    [.zero (o.t = 0), .zero (o.rm = 0), .code (guardOk o.g), .dst o.d 1 false, .src o.a 2, .src o.b 1,
     .src o.c (if o.m = 3 then 4 else 2)]
  | .unbind _ o => frPlain o ++ [.zero (o.d = 0), .src o.a 1, .zero (o.b = 0), .zero (o.c = 0)]
  | .cpy _ o => [.zero (o.m = 0), .code (guardOk o.g), .dst o.d 1 false, .src o.a 1, .src o.b 2, shAfter o]
  | .cstage _ o =>
    [.zero (o.t = 0), .zero (o.rm = 0), .code (o.m.toNat ≤ 1), .code (guardOk o.g), .zero (o.b = 0), .zero (o.c = 0),
     .dst o.d 1 false, if o.m = 1 then .src o.a 1 else .zero (o.a = 0)]
  | .lfe _ o =>
    [.code (immIn o.data 0 3), .code (o.sp = 1), .space o.sp, .code (o.bypass = 0), .code (o.ord = 0),
     .code (o.sz.toNat ≤ 5), .src o.base 1]
  | .oqst _ o =>
    [.code (tIn o.t intTs), .code (immIn o.c 0 7), .zero (o.d = 0), .zero (o.b = 0), .zero (o.rm = 0), .zero (o.m = 0),
     .code (guardOk o.g), .src o.a (wideT o.t)]
  | .bdot _ o => [.zero (o.b = 0), .zero (o.m = 0), .code (guardOk o.g), .dst o.d 1 false, .src o.a 2, shAfter o]
  | .bdmode _ o =>
    [.zero (o.c = 0), .zero (o.t = 0), .zero (o.rm = 0), .zero (o.m.extractLsb' 1 1 = 0), .code (guardOk o.g),
     .dst o.d 1 false, .src o.a 2, .src o.b 1]
  | .pmig _ o =>
    [.code (immIn o.c 0 4), .code (if immIn o.c 2 2 then tIn o.t [0xB, 0xC, 9, 0] else o.t = 0), .zero (o.rm = 0),
     .zero (o.m.extractLsb' 1 1 = 0), .code (guardOk o.g), .dst o.d 1 false, .src o.a 2, .src o.b 1]
  | .tzero _ o => shTile o true false false false true (fun _ => true) 0xFF
  | .tld _ o =>
    shTile o true false false (o.m.extractLsb' 0 1 = 1) true
      (fun e => o.m.extractLsb' 2 1 = 0 || !(e = 0xD || etSb e)) 0xF8 ++
    [.zero (if o.m.extractLsb' 0 1 = 1 then o.m.extractLsb' 1 1 = 0 else o.m.extractLsb' 2 1 = 0)]
  | .tst _ o =>
    shTile o false true false (o.m.extractLsb' 0 1 = 1) false (fun _ => true) 0xF8 ++
    [.zero (if o.m.extractLsb' 0 1 = 1 then o.m.extractLsb' 1 1 = 0 else o.m.extractLsb' 2 1 = 0)]
  | .tmov _ o => shTile o true true false false true (fun _ => true) 0xFE
  | .tfill _ o => shTile o true false false true true (fun e => !etSb e) 0xFF
  | .tcvt _ o =>
    shTile o true true false (o.m.extractLsb' 3 1 = 1) true (fun _ => true) 0xF0 ++
    [.zero (o.m.extractLsb' 2 1 = 1 || o.m.extractLsb' 0 2 = 0)]
  | .tadd _ o | .tmul _ o => shTile o true true true false true et32 0xFC
  | .tscale _ o => shTile o true true false true true (fun e => e = 8 || etSb e) 0xFF
  | .trmax _ o | .trsum _ o => shTile o true true false true true et32 0xFF
  | .rmset _ o =>
    [.zero (o.td = 0), .zero (o.ta = 0), .zero (o.tb = 0), .zero (o.et = 0), .zero (o.cms = 0), .code (guardOk o.g),
     .zero (o.m.extractLsb' 1 7 = 0), .src o.s (if o.m.extractLsb' 0 1 = 0 then 2 else 1)]
  | .cmset _ o =>
    [.zero (o.td = 0), .zero (o.ta = 0), .zero (o.tb = 0), .zero (o.et = 0), .zero (o.rms = 0), .code (guardOk o.g),
     .zero (o.m.extractLsb' 3 5 = 0), .zero (o.m.extractLsb' 0 1 = 0 || o.m.extractLsb' 1 2 = 0),
     .src o.s (if o.m.extractLsb' 0 1 = 0 then 2 else 1)]
  | .wlease _ o => [.zero (o.a = 0), .zero (o.b = 0), .zero (o.m = 0), .code (guardOk o.g), .dst o.d 1 false, shAfter o]
  | .wload _ o => [.zero (o.b = 0), .zero (o.m = 0), .code (guardOk o.g), .dst o.d 1 false, .src o.a 2, shAfter o]
  | .wdot _ o => shDot o false
  | .wtdot _ o => shDot o true
  | .wouter _ o => shOuter o
  | .wdrain _ o =>
    [.zero (o.b = 0), .zero (o.m.extractLsb' 1 2 = 0), .code (guardOk o.g), .dst o.d 1 false,
     .src o.a (if o.m.extractLsb' 0 1 = 0 then 2 else 1), shAfter o]
  | .wclr _ o | .wrel _ o =>
    [.zero (o.td = 0 && o.ta = 0 && o.tb = 0 && o.rms = 0 && o.cms = 0 && o.et = 0 && o.s = 0 && o.m = 0),
     .code (guardOk o.g)]
  | .wpair _ o =>
    [.zero (o.b = 0), .zero (o.c = 0), .zero (o.t = 0), .zero (o.rm = 0), .zero (o.m.extractLsb' 1 1 = 0),
     .code (guardOk o.g), .dst o.d 1 false, if o.m = 1 then .zero (o.a = 0) else .src o.a 1]
  | .resultDelivery .. | .tileWriteDelivery .. | .haltFinish .. | .debugHold .. | .debugStep ..
  | .debugStepA .. | .opdbgrel .. | .scanAdmit .. | .withdraw .. | .withdrawAll .. | .residencyDone ..
  | .nodeStart .. | .nodeEnd .. | .dispatcherRound | .nodeRelease .. | .nodeFinish .. | .waitNodeSatisfied ..
  | .qtailWrite .. | .queueEnableWrite .. | .queueSuspend .. | .queueResume .. | .queueDrain .. | .queueDead ..
  | .launchAppend .. | .homeRequestArrival .. | .barrierMulticast .. | .predecessorFinished ..
  | .operationStart .. | .operationComplete .. | .operationFailure .. | .priorityAging .. | .arrayRunStart ..
  | .arrayRunLimit .. | .arrayCommandStart .. | .arrayCommandComplete .. | .drainRowAccepted ..
  | .pairTimeout .. | .leaseQueueEntry .. | .leaseGrant .. | .wakeDone .. | .quantumEnd .. | .engineYield ..
  | .forcedEviction .. | .scrubDone .. | .drowsyTimeout .. | .sleepTimeout .. | .engineCommandStart ..
  | .engineUnitDone .. | .copyLineDelivery .. | .copyNodeRun .. | .signalNodeRun .. | .replay ..
  | .walkReturn .. | .pageTouch .. | .pageMoveDone .. | .decayPeriod .. | .dotModeChangeDone ..
  | .bankDotRow .. | .droopWindow .. | .tlbiPage .. | .tlbiFunction .. | .tlbiAll | .rowval .. | .ctxCreate
  | .switchOut .. | .preemptWaitExpiry .. | .deadlineExpiry .. | .switchIn .. | .ctxRecover .. | .ctxDestroy ..
  | .teardownDone .. | .migrateOut .. | .migrateIn .. | .migrationTargetTimeout .. | .pageHandover ..
  | .ownerTokenArrival .. | .migrationAbort .. | .tombstoneLapse .. | .formationTimeout .. | .signalDetected ..
  | .trainingEnd .. | .retrainTrigger .. | .retrain .. | .portEnableWrite .. | .flitReceived ..
  | .nakReceived .. | .replayTimeout .. | .msgLoad .. | .msgLoadReply .. | .msgStore .. | .msgStoreAck ..
  | .msgAtomic .. | .msgAtomicReply .. | .msgCollective .. | .msgBarrier .. | .msgConnectionControl ..
  | .msgShardDelivery .. | .msgMoved .. | .msgRefusal .. | .msgContextTransfer .. | .msgAbort ..
  | .parkNotice .. | .resumeNotice .. | .connopenTimeout .. | .retransmission .. | .connidleTimeout ..
  | .connbackoffExpiry .. | .connectionDrained .. | .connectionSpill .. | .osyncEdge | .slotStart | .slotCommit
  | .ringHeatWrite .. | .ringSettled .. | .ringMapWrite .. | .chunkApply .. | .coldReset .. | .warmReset
  | .selftestEnd .. | .freeze | .freezeN | .powerControl .. | .temperatureLimit .. | .partitionEnable ..
  | .vfEnable .. | .cxlPortFailure .. | .dcread | .dcwrite | .idcert | .quote | .fwstage | .scanrd
  | .registerWrite .. | .rconsWrite .. | .fetchMissArrival .. => []

/-- The header demand of A words: IDLE is zero (R30). -/
def hdrDemands (i : Instr) : List Demand :=
  match wordStream i, wordHdr i with
  | some .A, some h => [.zero (h.idle = 0)]
  | _, _ => []

/-- A named group of `w` registers from `n` (R34): beyond the allocation fails check 6, misaligned or running past it
fails check 7. -/
def namedFails (alloc n w chk : Nat) : Bool :=
  if chk = 6 then decide (alloc ≤ n) else if chk = 7 then n % w ≠ 0 || (decide (n < alloc) && decide (alloc < n + w))
  else false

/-- Whether a demand fails check `chk` of R54 in segment `g` for a word of stream `st`. -/
def Demand.fails (g : SegInfo) (st : StreamId) (chk : Nat) : Demand → Bool
  | .zero ok => chk = 4 && !ok
  | .code ok => chk = 5 && !ok
  | .rm ok => chk = 5 && !ok
  | .src sp w =>
    if chk = 5 then !srcOk sp
    else sp.extractLsb' 6 1 = 0 && namedFails (8 * g.named) (sp.extractLsb' 0 6).toNat w chk
  | .dst sp w p =>
    if chk = 5 then !dstOk sp p
    else sp.extractLsb' 6 1 = 0 &&
      (namedFails (8 * g.named) (sp.extractLsb' 0 6).toNat w chk ||
       (chk = 8 && (List.range w).any fun j =>
         ((g.owner >>> (2 * ((sp.extractLsb' 0 6).toNat + j))).setWidth 2).toNat ≠
           (match st with | .S => 0 | .V => 1 | .A => 2 | .X => 3)))
  | .vsrc sp w =>
    if chk = 5 then unassignedSpec sp
    else if sp.extractLsb' 5 2 = 0 then namedFails (4 * g.vnamed) (sp.extractLsb' 0 5).toNat w chk
    else sp.extractLsb' 5 2 = 1 && namedFails (8 * g.named) (sp.extractLsb' 0 5).toNat w chk
  | .vdst sp w p =>
    if chk = 5 then !vdstOk sp p
    else sp.extractLsb' 5 2 = 0 && namedFails (4 * g.vnamed) (sp.extractLsb' 0 5).toNat w chk
  | .tiles t n => chk = 6 && decide (g.tiles < t.toNat + n)
  | .space sp => chk = 11 && sp = 3 && !g.service

/-- Whether the run-time decoder acts on a word's codes; otherwise the word issues as `nop` and pushes zero (R58). -/
def accepted (service : Bool) (i : Instr) : Bool :=
  (demands i).all fun d =>
    match d with
    | .code ok => ok
    | .space sp => sp ≠ 3 || service
    | _ => true

/-- The word passes check `chk` of R54. -/
def wordPasses (g : SegInfo) (i : Instr) (chk : Nat) : Bool :=
  match wordStream i with
  | some st => (demands i ++ hdrDemands i).all fun d => !d.fails g st chk
  | none => true

/-- The checks of R54 that one word decides by itself, in their order. -/
def wordChecks : List Nat := [4, 5, 6, 7, 8, 11]

end Sys2Proof.Machine
end

