-- ==== Sys2Proof/Decode.lean ====
section
/-! DEFINITION. Decode.lean: from the 64 bits of a word to an instruction of a stream's map (R28, R36, R42-R47), total,
rejecting an unassigned opcode by name; and the encoder, from the same tables. -/

namespace Sys2Proof

/-- Why a word is not an instruction: its opcode is unassigned in the stream's map (R42, check 3 of R54). -/
inductive DecodeErr where
  | unassigned (st : StreamId) (opcode : Nat)
  deriving DecidableEq, Repr

/-- Bits 63:48 (R28). -/
def hdrOf (w : W64) : Hdr :=
  { idle := w.extractLsb' 54 10, pop := w.extractLsb' 51 3, push := w.extractLsb' 48 3 }

/-- Format FR (R36). -/
def frOf (w : W64) : FR :=
  { d := w.extractLsb' 33 7, a := w.extractLsb' 26 7, b := w.extractLsb' 19 7, c := w.extractLsb' 12 7,
    t := w.extractLsb' 8 4, rm := w.extractLsb' 6 2, g := w.extractLsb' 2 4, m := w.extractLsb' 0 2 }

/-- Format FI (R36). -/
def fiOf (w : W64) : FI := { d := w.extractLsb' 33 7, a := w.extractLsb' 26 7, imm := w.extractLsb' 0 26 }

/-- Format FB (R36). -/
def fbOf (w : W64) : FB :=
  { p := w.extractLsb' 37 3, n := w.extractLsb' 36 1, k := w.extractLsb' 32 4, off := w.extractLsb' 0 32 }

/-- Format FL (R36). -/
def flOf (w : W64) : FL := { count := w.extractLsb' 33 7, level := w.extractLsb' 30 3, rest := w.extractLsb' 0 30 }

/-- Format FM (R36). -/
def fmOf (w : W64) : FM :=
  { data := w.extractLsb' 33 7, base := w.extractLsb' 26 7, off := w.extractLsb' 8 18, sz := w.extractLsb' 5 3,
    sp := w.extractLsb' 3 2, bypass := w.extractLsb' 2 1, ord := w.extractLsb' 0 2 }

/-- Format FO (R36). -/
def foOf (w : W64) : FO :=
  { d := w.extractLsb' 33 7, a := w.extractLsb' 26 7, b := w.extractLsb' 19 7, c := w.extractLsb' 12 7,
    pr := w.extractLsb' 9 3, dt := w.extractLsb' 8 1, af := w.extractLsb' 7 1, g := w.extractLsb' 3 4,
    m := w.extractLsb' 0 3 }

/-- Format FT (R36). -/
def ftOf (w : W64) : FT :=
  { td := w.extractLsb' 36 4, ta := w.extractLsb' 32 4, tb := w.extractLsb' 28 4, rms := w.extractLsb' 26 2,
    cms := w.extractLsb' 24 2, et := w.extractLsb' 19 5, s := w.extractLsb' 12 7, g := w.extractLsb' 8 4,
    m := w.extractLsb' 0 8 }

/-- Format FW (R36). -/
def fwOf (w : W64) : FW :=
  { d := w.extractLsb' 33 7, ta := w.extractLsb' 29 4, tout := w.extractLsb' 25 4, rms := w.extractLsb' 23 2,
    cms := w.extractLsb' 21 2, pr := w.extractLsb' 18 3, dt := w.extractLsb' 17 1, acc := w.extractLsb' 15 2,
    et := w.extractLsb' 10 5, g := w.extractLsb' 6 4, m := w.extractLsb' 0 6 }

/-- The empty format (R36). -/
def noOf (w : W64) : NO := { rest := w.extractLsb' 0 40 }

/-- The common block (R43). -/
def decodeCommon (st : StreamId) (op : Nat) (w : W64) : Option Instr :=
  match op with
  | 0x00 => some (.nop st (hdrOf w) (noOf w))
  | 0x01 => some (.align st (hdrOf w) (noOf w))
  | 0x02 => some (.stop st (hdrOf w) (noOf w))
  | 0x03 => some (.loop st (hdrOf w) (flOf w))
  | 0x04 => some (.endl st (hdrOf w) (flOf w))
  | 0x05 => some (.brk st (hdrOf w) (fiOf w))
  | 0x06 => some (.ldlit st (hdrOf w) (fiOf w))
  | 0x07 => some (.pool st (hdrOf w) (fiOf w))
  | 0x08 => some (.br st (hdrOf w) (fbOf w))
  | _ => none

/-- The S map (R44). -/
def decodeS (op : Nat) (w : W64) : Option Instr :=
  match op with
  | 0x10 => some (.add (hdrOf w) (frOf w))
  | 0x11 => some (.sub (hdrOf w) (frOf w))
  | 0x12 => some (.mul (hdrOf w) (frOf w))
  | 0x13 => some (.mulh (hdrOf w) (frOf w))
  | 0x14 => some (.div (hdrOf w) (frOf w))
  | 0x15 => some (.rem (hdrOf w) (frOf w))
  | 0x16 => some (.mad (hdrOf w) (frOf w))
  | 0x17 => some (.min (hdrOf w) (frOf w))
  | 0x18 => some (.max (hdrOf w) (frOf w))
  | 0x19 => some (.and (hdrOf w) (frOf w))
  | 0x1A => some (.or (hdrOf w) (frOf w))
  | 0x1B => some (.xor (hdrOf w) (frOf w))
  | 0x1C => some (.andn (hdrOf w) (frOf w))
  | 0x1D => some (.shl (hdrOf w) (frOf w))
  | 0x1E => some (.shr (hdrOf w) (frOf w))
  | 0x1F => some (.sar (hdrOf w) (frOf w))
  | 0x20 => some (.rot (hdrOf w) (frOf w))
  | 0x21 => some (.clz (hdrOf w) (frOf w))
  | 0x22 => some (.ctz (hdrOf w) (frOf w))
  | 0x23 => some (.popc (hdrOf w) (frOf w))
  | 0x24 => some (.bfx (hdrOf w) (frOf w))
  | 0x25 => some (.bfi (hdrOf w) (frOf w))
  | 0x26 => some (.ext (hdrOf w) (frOf w))
  | 0x27 => some (.sel (hdrOf w) (frOf w))
  | 0x28 => some (.cmp (hdrOf w) (frOf w))
  | 0x29 => some (.movi (hdrOf w) (fiOf w))
  | 0x2A => some (.movh (hdrOf w) (fiOf w))
  | 0x2B => some (.mov (hdrOf w) (frOf w))
  | 0x2C => some (.keep (hdrOf w) (frOf w))
  | 0x2D => some (.pand (hdrOf w) (frOf w))
  | 0x2E => some (.por (hdrOf w) (frOf w))
  | 0x2F => some (.pxor (hdrOf w) (frOf w))
  | 0x30 => some (.pnot (hdrOf w) (frOf w))
  | 0x31 => some (.fadd (hdrOf w) (frOf w))
  | 0x32 => some (.fsub (hdrOf w) (frOf w))
  | 0x33 => some (.fmul (hdrOf w) (frOf w))
  | 0x34 => some (.ffma (hdrOf w) (frOf w))
  | 0x35 => some (.fdiv (hdrOf w) (frOf w))
  | 0x36 => some (.fsqrt (hdrOf w) (frOf w))
  | 0x37 => some (.fmin (hdrOf w) (frOf w))
  | 0x38 => some (.fmax (hdrOf w) (frOf w))
  | 0x39 => some (.fcmp (hdrOf w) (frOf w))
  | 0x3A => some (.fcvt (hdrOf w) (frOf w))
  | 0x3B => some (.fclass (hdrOf w) (frOf w))
  | 0x3C => some (.call (hdrOf w) (fbOf w))
  | 0x3D => some (.ret (hdrOf w) (noOf w))
  | 0x3E => some (.jmp (hdrOf w) (fiOf w))
  | 0x3F => some (.swt (hdrOf w) (fiOf w))
  | 0x40 => some (.mvcr (hdrOf w) (fiOf w))
  | 0x41 => some (.mvrc (hdrOf w) (fiOf w))
  | 0x42 => some (.clk (hdrOf w) (frOf w))
  | 0x43 => some (.trap (hdrOf w) (fiOf w))
  | 0x44 => some (.evpost (hdrOf w) (frOf w))
  | 0x45 => some (.sysr (hdrOf w) (fiOf w))
  | 0x46 => some (.sysw (hdrOf w) (fiOf w))
  | 0x48 => some (.owait (hdrOf w) (frOf w))
  | 0x49 => some (.otest (hdrOf w) (frOf w))
  | 0x4A => some (.ojoin (hdrOf w) (foOf w))
  | 0x4B => some (.ocancel (hdrOf w) (frOf w))
  | 0x4C => some (.odetach (hdrOf w) (frOf w))
  | 0x4D => some (.oadopt (hdrOf w) (frOf w))
  | 0x4E => some (.orelease (hdrOf w) (frOf w))
  | 0x4F => some (.oprio (hdrOf w) (frOf w))
  | 0x50 => some (.ofault (hdrOf w) (frOf w))
  | 0x51 => some (.lease (hdrOf w) (foOf w))
  | 0x52 => some (.unlease (hdrOf w) (frOf w))
  | 0x53 => some (.lquery (hdrOf w) (frOf w))
  | 0x58 => some (.colrs (hdrOf w) (foOf w))
  | 0x59 => some (.colag (hdrOf w) (foOf w))
  | 0x5A => some (.colar (hdrOf w) (foOf w))
  | 0x5B => some (.cola2a (hdrOf w) (foOf w))
  | 0x5C => some (.colbc (hdrOf w) (foOf w))
  | 0x5D => some (.colcmb (hdrOf w) (foOf w))
  | 0x5E => some (.rtopk (hdrOf w) (foOf w))
  | 0x5F => some (.rplan (hdrOf w) (foOf w))
  | 0x60 => some (.sortkv (hdrOf w) (foOf w))
  | 0x61 => some (.gathr (hdrOf w) (foOf w))
  | 0x62 => some (.scatr (hdrOf w) (foOf w))
  | 0x63 => some (.sfnap (hdrOf w) (foOf w))
  | 0x64 => some (.cdpack (hdrOf w) (foOf w))
  | 0x65 => some (.cdunpk (hdrOf w) (foOf w))
  | 0x68 => some (.qlaunch (hdrOf w) (foOf w))
  | 0x69 => some (.qsignal (hdrOf w) (frOf w))
  | 0x6A => some (.gid (hdrOf w) (frOf w))
  | 0x6B => some (.grank (hdrOf w) (frOf w))
  | 0x6C => some (.gsize (hdrOf w) (frOf w))
  | 0x6D => some (.gpeer (hdrOf w) (frOf w))
  | 0x6E => some (.gshare (hdrOf w) (frOf w))
  | 0x6F => some (.gclaim (hdrOf w) (frOf w))
  | 0x70 => some (.barinit (hdrOf w) (frOf w))
  | 0x71 => some (.barrive (hdrOf w) (frOf w))
  | 0x72 => some (.barwait (hdrOf w) (frOf w))
  | 0x73 => some (.bartest (hdrOf w) (frOf w))
  | 0x74 => some (.barleave (hdrOf w) (frOf w))
  | 0x78 => some (.glzs (hdrOf w) (foOf w))
  | 0x79 => some (.glza (hdrOf w) (frOf w))
  | 0x7A => some (.glzq (hdrOf w) (frOf w))
  | _ => none

/-- The V map (R45). -/
def decodeV (op : Nat) (w : W64) : Option Instr :=
  match op with
  | 0x10 => some (.vadd (hdrOf w) (frOf w))
  | 0x11 => some (.vsub (hdrOf w) (frOf w))
  | 0x12 => some (.vmul (hdrOf w) (frOf w))
  | 0x13 => some (.vfma (hdrOf w) (frOf w))
  | 0x14 => some (.vmin (hdrOf w) (frOf w))
  | 0x15 => some (.vmax (hdrOf w) (frOf w))
  | 0x16 => some (.vabs (hdrOf w) (frOf w))
  | 0x17 => some (.vneg (hdrOf w) (frOf w))
  | 0x18 => some (.vdiv (hdrOf w) (frOf w))
  | 0x19 => some (.vsqrt (hdrOf w) (frOf w))
  | 0x1A => some (.vrcp (hdrOf w) (frOf w))
  | 0x1B => some (.vrsqrt (hdrOf w) (frOf w))
  | 0x1C => some (.vexp2 (hdrOf w) (frOf w))
  | 0x1D => some (.vlog2 (hdrOf w) (frOf w))
  | 0x1E => some (.vand (hdrOf w) (frOf w))
  | 0x1F => some (.vor (hdrOf w) (frOf w))
  | 0x20 => some (.vxor (hdrOf w) (frOf w))
  | 0x21 => some (.vshl (hdrOf w) (frOf w))
  | 0x22 => some (.vshr (hdrOf w) (frOf w))
  | 0x23 => some (.vsar (hdrOf w) (frOf w))
  | 0x24 => some (.vcmp (hdrOf w) (frOf w))
  | 0x25 => some (.vsel (hdrOf w) (frOf w))
  | 0x26 => some (.vwadd (hdrOf w) (frOf w))
  | 0x27 => some (.vwmul (hdrOf w) (frOf w))
  | 0x28 => some (.vscan (hdrOf w) (frOf w))
  | 0x29 => some (.vred (hdrOf w) (frOf w))
  | 0x2A => some (.vperm (hdrOf w) (frOf w))
  | 0x2B => some (.vbcast (hdrOf w) (frOf w))
  | 0x2C => some (.vrot (hdrOf w) (frOf w))
  | 0x2D => some (.vcomp (hdrOf w) (frOf w))
  | 0x2E => some (.vcvt (hdrOf w) (frOf w))
  | 0x2F => some (.vmxq (hdrOf w) (frOf w))
  | 0x30 => some (.vmxd (hdrOf w) (frOf w))
  | 0x31 => some (.vsatr (hdrOf w) (frOf w))
  | 0x32 => some (.vseed (hdrOf w) (frOf w))
  | 0x33 => some (.vrand (hdrOf w) (frOf w))
  | 0x34 => some (.vpop (hdrOf w) (fiOf w))
  | 0x35 => some (.vpush (hdrOf w) (fiOf w))
  | 0x36 => some (.vtrd (hdrOf w) (ftOf w))
  | 0x37 => some (.vtwr (hdrOf w) (ftOf w))
  | 0x38 => some (.vmov (hdrOf w) (frOf w))
  | 0x39 => some (.vext (hdrOf w) (frOf w))
  | 0x3A => some (.vins (hdrOf w) (frOf w))
  | 0x3B => some (.vpand (hdrOf w) (frOf w))
  | 0x3C => some (.vpor (hdrOf w) (frOf w))
  | 0x3D => some (.vpnot (hdrOf w) (frOf w))
  | 0x3E => some (.vpcnt (hdrOf w) (frOf w))
  | _ => none

/-- The A map (R46). -/
def decodeA (op : Nat) (w : W64) : Option Instr :=
  match op with
  | 0x10 => some (.aAdd (hdrOf w) (frOf w))
  | 0x11 => some (.aSub (hdrOf w) (frOf w))
  | 0x12 => some (.aShl (hdrOf w) (frOf w))
  | 0x13 => some (.aMul (hdrOf w) (frOf w))
  | 0x14 => some (.aMovi (hdrOf w) (fiOf w))
  | 0x15 => some (.aMov (hdrOf w) (frOf w))
  | 0x16 => some (.bcmp (hdrOf w) (frOf w))
  | 0x17 => some (.ld (hdrOf w) (fmOf w))
  | 0x18 => some (.ldq (hdrOf w) (fmOf w))
  | 0x19 => some (.ldx (hdrOf w) (fmOf w))
  | 0x1A => some (.st (hdrOf w) (fmOf w))
  | 0x1B => some (.stq (hdrOf w) (fmOf w))
  | 0x1C => some (.stx (hdrOf w) (fmOf w))
  | 0x1D => some (.pf (hdrOf w) (fmOf w))
  | 0x1E => some (.amo (hdrOf w) (frOf w))
  | 0x1F => some (.amoswp (hdrOf w) (frOf w))
  | 0x20 => some (.amocas (hdrOf w) (frOf w))
  | 0x21 => some (.fence (hdrOf w) (frOf w))
  | 0x22 => some (.acq (hdrOf w) (frOf w))
  | 0x23 => some (.rel (hdrOf w) (frOf w))
  | 0x24 => some (.bind (hdrOf w) (frOf w))
  | 0x25 => some (.unbind (hdrOf w) (frOf w))
  | 0x26 => some (.cpy (hdrOf w) (foOf w))
  | 0x27 => some (.cstage (hdrOf w) (frOf w))
  | 0x28 => some (.lfe (hdrOf w) (fmOf w))
  | 0x29 => some (.oqst (hdrOf w) (frOf w))
  | 0x2A => some (.bdot (hdrOf w) (foOf w))
  | 0x2B => some (.bdmode (hdrOf w) (frOf w))
  | 0x2C => some (.pmig (hdrOf w) (frOf w))
  | _ => none

/-- The X map (R47). -/
def decodeX (op : Nat) (w : W64) : Option Instr :=
  match op with
  | 0x10 => some (.tzero (hdrOf w) (ftOf w))
  | 0x11 => some (.tld (hdrOf w) (ftOf w))
  | 0x12 => some (.tst (hdrOf w) (ftOf w))
  | 0x13 => some (.tmov (hdrOf w) (ftOf w))
  | 0x14 => some (.tfill (hdrOf w) (ftOf w))
  | 0x15 => some (.tcvt (hdrOf w) (ftOf w))
  | 0x16 => some (.tadd (hdrOf w) (ftOf w))
  | 0x17 => some (.tmul (hdrOf w) (ftOf w))
  | 0x18 => some (.tscale (hdrOf w) (ftOf w))
  | 0x19 => some (.trmax (hdrOf w) (ftOf w))
  | 0x1A => some (.trsum (hdrOf w) (ftOf w))
  | 0x1B => some (.rmset (hdrOf w) (ftOf w))
  | 0x1C => some (.cmset (hdrOf w) (ftOf w))
  | 0x1D => some (.wlease (hdrOf w) (foOf w))
  | 0x1E => some (.wload (hdrOf w) (foOf w))
  | 0x1F => some (.wdot (hdrOf w) (fwOf w))
  | 0x20 => some (.wtdot (hdrOf w) (fwOf w))
  | 0x21 => some (.wouter (hdrOf w) (fwOf w))
  | 0x22 => some (.wdrain (hdrOf w) (foOf w))
  | 0x23 => some (.wclr (hdrOf w) (ftOf w))
  | 0x24 => some (.wrel (hdrOf w) (ftOf w))
  | 0x25 => some (.wpair (hdrOf w) (frOf w))
  | _ => none

/-- One word of stream `st` (R42): the common block first, then the stream's own map. -/
def decode (st : StreamId) (w : W64) : Except DecodeErr Instr :=
  let op := (w.extractLsb' 40 8).toNat
  match (decodeCommon st op w).or
      (match st with | .S => decodeS op w | .V => decodeV op w | .A => decodeA op w | .X => decodeX op w) with
  | some i => .ok i
  | none => .error (.unassigned st op)

/-- Eight bytes, the first at the lowest address, as a word (R8, R28). -/
def wordOfBytes (l : List Byte) : W64 :=
  (List.range 8).foldl (fun w k => w ||| ((l.getD k 0).setWidth 64 <<< (8 * k))) 0

/-- The eight bytes of a word as memory holds it (R8, R28). -/
def bytesOfWord (w : W64) : List Byte := (List.range 8).map fun k => w.extractLsb' (8 * k) 8

/-- Decoding eight bytes as memory holds them. -/
def decodeBytes (st : StreamId) (l : List Byte) : Except DecodeErr Instr := decode st (wordOfBytes l)

/-! ## The encoder -/

/-- The opcode of each word in its map (R43-R47). -/
def opcodeOf (i : Instr) : BitVec 8 :=
  match i with
  | .nop .. => 0x00
  | .align .. => 0x01
  | .stop .. => 0x02
  | .loop .. => 0x03
  | .endl .. => 0x04
  | .brk .. => 0x05
  | .ldlit .. => 0x06
  | .pool .. => 0x07
  | .br .. => 0x08
  | .add .. => 0x10
  | .sub .. => 0x11
  | .mul .. => 0x12
  | .mulh .. => 0x13
  | .div .. => 0x14
  | .rem .. => 0x15
  | .mad .. => 0x16
  | .min .. => 0x17
  | .max .. => 0x18
  | .and .. => 0x19
  | .or .. => 0x1A
  | .xor .. => 0x1B
  | .andn .. => 0x1C
  | .shl .. => 0x1D
  | .shr .. => 0x1E
  | .sar .. => 0x1F
  | .rot .. => 0x20
  | .clz .. => 0x21
  | .ctz .. => 0x22
  | .popc .. => 0x23
  | .bfx .. => 0x24
  | .bfi .. => 0x25
  | .ext .. => 0x26
  | .sel .. => 0x27
  | .cmp .. => 0x28
  | .movi .. => 0x29
  | .movh .. => 0x2A
  | .mov .. => 0x2B
  | .keep .. => 0x2C
  | .pand .. => 0x2D
  | .por .. => 0x2E
  | .pxor .. => 0x2F
  | .pnot .. => 0x30
  | .fadd .. => 0x31
  | .fsub .. => 0x32
  | .fmul .. => 0x33
  | .ffma .. => 0x34
  | .fdiv .. => 0x35
  | .fsqrt .. => 0x36
  | .fmin .. => 0x37
  | .fmax .. => 0x38
  | .fcmp .. => 0x39
  | .fcvt .. => 0x3A
  | .fclass .. => 0x3B
  | .call .. => 0x3C
  | .ret .. => 0x3D
  | .jmp .. => 0x3E
  | .swt .. => 0x3F
  | .mvcr .. => 0x40
  | .mvrc .. => 0x41
  | .clk .. => 0x42
  | .trap .. => 0x43
  | .evpost .. => 0x44
  | .sysr .. => 0x45
  | .sysw .. => 0x46
  | .owait .. => 0x48
  | .otest .. => 0x49
  | .ojoin .. => 0x4A
  | .ocancel .. => 0x4B
  | .odetach .. => 0x4C
  | .oadopt .. => 0x4D
  | .orelease .. => 0x4E
  | .oprio .. => 0x4F
  | .ofault .. => 0x50
  | .lease .. => 0x51
  | .unlease .. => 0x52
  | .lquery .. => 0x53
  | .colrs .. => 0x58
  | .colag .. => 0x59
  | .colar .. => 0x5A
  | .cola2a .. => 0x5B
  | .colbc .. => 0x5C
  | .colcmb .. => 0x5D
  | .rtopk .. => 0x5E
  | .rplan .. => 0x5F
  | .sortkv .. => 0x60
  | .gathr .. => 0x61
  | .scatr .. => 0x62
  | .sfnap .. => 0x63
  | .cdpack .. => 0x64
  | .cdunpk .. => 0x65
  | .qlaunch .. => 0x68
  | .qsignal .. => 0x69
  | .gid .. => 0x6A
  | .grank .. => 0x6B
  | .gsize .. => 0x6C
  | .gpeer .. => 0x6D
  | .gshare .. => 0x6E
  | .gclaim .. => 0x6F
  | .barinit .. => 0x70
  | .barrive .. => 0x71
  | .barwait .. => 0x72
  | .bartest .. => 0x73
  | .barleave .. => 0x74
  | .glzs .. => 0x78
  | .glza .. => 0x79
  | .glzq .. => 0x7A
  | .vadd .. => 0x10
  | .vsub .. => 0x11
  | .vmul .. => 0x12
  | .vfma .. => 0x13
  | .vmin .. => 0x14
  | .vmax .. => 0x15
  | .vabs .. => 0x16
  | .vneg .. => 0x17
  | .vdiv .. => 0x18
  | .vsqrt .. => 0x19
  | .vrcp .. => 0x1A
  | .vrsqrt .. => 0x1B
  | .vexp2 .. => 0x1C
  | .vlog2 .. => 0x1D
  | .vand .. => 0x1E
  | .vor .. => 0x1F
  | .vxor .. => 0x20
  | .vshl .. => 0x21
  | .vshr .. => 0x22
  | .vsar .. => 0x23
  | .vcmp .. => 0x24
  | .vsel .. => 0x25
  | .vwadd .. => 0x26
  | .vwmul .. => 0x27
  | .vscan .. => 0x28
  | .vred .. => 0x29
  | .vperm .. => 0x2A
  | .vbcast .. => 0x2B
  | .vrot .. => 0x2C
  | .vcomp .. => 0x2D
  | .vcvt .. => 0x2E
  | .vmxq .. => 0x2F
  | .vmxd .. => 0x30
  | .vsatr .. => 0x31
  | .vseed .. => 0x32
  | .vrand .. => 0x33
  | .vpop .. => 0x34
  | .vpush .. => 0x35
  | .vtrd .. => 0x36
  | .vtwr .. => 0x37
  | .vmov .. => 0x38
  | .vext .. => 0x39
  | .vins .. => 0x3A
  | .vpand .. => 0x3B
  | .vpor .. => 0x3C
  | .vpnot .. => 0x3D
  | .vpcnt .. => 0x3E
  | .aAdd .. => 0x10
  | .aSub .. => 0x11
  | .aShl .. => 0x12
  | .aMul .. => 0x13
  | .aMovi .. => 0x14
  | .aMov .. => 0x15
  | .bcmp .. => 0x16
  | .ld .. => 0x17
  | .ldq .. => 0x18
  | .ldx .. => 0x19
  | .st .. => 0x1A
  | .stq .. => 0x1B
  | .stx .. => 0x1C
  | .pf .. => 0x1D
  | .amo .. => 0x1E
  | .amoswp .. => 0x1F
  | .amocas .. => 0x20
  | .fence .. => 0x21
  | .acq .. => 0x22
  | .rel .. => 0x23
  | .bind .. => 0x24
  | .unbind .. => 0x25
  | .cpy .. => 0x26
  | .cstage .. => 0x27
  | .lfe .. => 0x28
  | .oqst .. => 0x29
  | .bdot .. => 0x2A
  | .bdmode .. => 0x2B
  | .pmig .. => 0x2C
  | .tzero .. => 0x10
  | .tld .. => 0x11
  | .tst .. => 0x12
  | .tmov .. => 0x13
  | .tfill .. => 0x14
  | .tcvt .. => 0x15
  | .tadd .. => 0x16
  | .tmul .. => 0x17
  | .tscale .. => 0x18
  | .trmax .. => 0x19
  | .trsum .. => 0x1A
  | .rmset .. => 0x1B
  | .cmset .. => 0x1C
  | .wlease .. => 0x1D
  | .wload .. => 0x1E
  | .wdot .. => 0x1F
  | .wtdot .. => 0x20
  | .wouter .. => 0x21
  | .wdrain .. => 0x22
  | .wclr .. => 0x23
  | .wrel .. => 0x24
  | .wpair .. => 0x25
  | .resultDelivery .. | .tileWriteDelivery .. | .haltFinish .. | .debugHold .. | .debugStep ..
  | .debugStepA .. | .opdbgrel .. | .scanAdmit .. | .withdraw .. | .withdrawAll .. | .residencyDone ..
  | .nodeStart .. | .nodeEnd .. | .dispatcherRound | .nodeRelease .. | .nodeFinish .. | .waitNodeSatisfied ..
  | .qtailWrite .. | .queueEnableWrite .. | .queueSuspend .. | .queueResume .. | .queueDrain .. | .queueDead ..
  | .launchAppend .. | .homeRequestArrival .. | .barrierMulticast .. | .predecessorFinished ..
  | .operationStart .. | .operationComplete .. | .operationFailure .. | .priorityAging .. | .arrayRunStart ..
  | .arrayRunLimit .. | .arrayCommandStart .. | .arrayCommandComplete .. | .drainRowAccepted ..
  | .pairTimeout .. | .leaseQueueEntry .. | .leaseGrant .. | .wakeDone .. | .quantumEnd .. | .engineYield ..
  | .forcedEviction .. | .scrubDone .. | .drowsyTimeout .. | .sleepTimeout .. | .engineCommandStart ..
  | .engineUnitDone .. | .copyLineDelivery .. | .copyNodeRun .. | .signalNodeRun .. | .replay ..
  | .walkReturn .. | .pageTouch .. | .pageMoveDone .. | .decayPeriod .. | .dotModeChangeDone ..
  | .bankDotRow .. | .droopWindow .. | .tlbiPage .. | .tlbiFunction .. | .tlbiAll | .rowval .. | .ctxCreate
  | .switchOut .. | .preemptWaitExpiry .. | .deadlineExpiry .. | .switchIn .. | .ctxRecover .. | .ctxDestroy ..
  | .teardownDone .. | .migrateOut .. | .migrateIn .. | .migrationTargetTimeout .. | .pageHandover ..
  | .ownerTokenArrival .. | .migrationAbort .. | .tombstoneLapse .. | .formationTimeout .. | .signalDetected ..
  | .trainingEnd .. | .retrainTrigger .. | .retrain .. | .portEnableWrite .. | .flitReceived ..
  | .nakReceived .. | .replayTimeout .. | .msgLoad .. | .msgLoadReply .. | .msgStore .. | .msgStoreAck ..
  | .msgAtomic .. | .msgAtomicReply .. | .msgCollective .. | .msgBarrier .. | .msgConnectionControl ..
  | .msgShardDelivery .. | .msgMoved .. | .msgRefusal .. | .msgContextTransfer .. | .msgAbort ..
  | .parkNotice .. | .resumeNotice .. | .connopenTimeout .. | .retransmission .. | .connidleTimeout ..
  | .connbackoffExpiry .. | .connectionDrained .. | .connectionSpill .. | .osyncEdge | .slotStart | .slotCommit
  | .ringHeatWrite .. | .ringSettled .. | .ringMapWrite .. | .chunkApply .. | .coldReset .. | .warmReset
  | .selftestEnd .. | .freeze | .freezeN | .powerControl .. | .temperatureLimit .. | .partitionEnable ..
  | .vfEnable .. | .cxlPortFailure .. | .dcread | .dcwrite | .idcert | .quote | .fwstage | .scanrd
  | .registerWrite .. | .rconsWrite .. | .fetchMissArrival .. => 0

/-- FR, bits 39:0 (R36). -/
def FR.enc (o : FR) : BitVec 40 := o.d ++ o.a ++ o.b ++ o.c ++ o.t ++ o.rm ++ o.g ++ o.m
/-- FI, bits 39:0 (R36). -/
def FI.enc (o : FI) : BitVec 40 := o.d ++ o.a ++ o.imm
/-- FB, bits 39:0 (R36). -/
def FB.enc (o : FB) : BitVec 40 := o.p ++ o.n ++ o.k ++ o.off
/-- FL, bits 39:0 (R36). -/
def FL.enc (o : FL) : BitVec 40 := o.count ++ o.level ++ o.rest
/-- FM, bits 39:0 (R36). -/
def FM.enc (o : FM) : BitVec 40 := o.data ++ o.base ++ o.off ++ o.sz ++ o.sp ++ o.bypass ++ o.ord
/-- FO, bits 39:0 (R36). -/
def FO.enc (o : FO) : BitVec 40 := o.d ++ o.a ++ o.b ++ o.c ++ o.pr ++ o.dt ++ o.af ++ o.g ++ o.m
/-- FT, bits 39:0 (R36). -/
def FT.enc (o : FT) : BitVec 40 := o.td ++ o.ta ++ o.tb ++ o.rms ++ o.cms ++ o.et ++ o.s ++ o.g ++ o.m
/-- FW, bits 39:0 (R36). -/
def FW.enc (o : FW) : BitVec 40 :=
  o.d ++ o.ta ++ o.tout ++ o.rms ++ o.cms ++ o.pr ++ o.dt ++ o.acc ++ o.et ++ o.g ++ o.m

/-- A word of bits 63:48, the opcode and the operand field (R28). -/
def packWord (h : Hdr) (op : BitVec 8) (f : BitVec 40) : W64 := h.idle ++ h.pop ++ h.push ++ op ++ f

/-- The operand field of each word (R36); zero for an event, which has no word. -/
def operandBits (i : Instr) : BitVec 40 :=
  match i with
  | .add _ o | .sub _ o | .mul _ o | .mulh _ o | .div _ o | .rem _ o | .mad _ o | .min _ o | .max _ o
  | .and _ o | .or _ o | .xor _ o | .andn _ o | .shl _ o | .shr _ o | .sar _ o | .rot _ o | .clz _ o | .ctz _ o
  | .popc _ o | .bfx _ o | .bfi _ o | .ext _ o | .sel _ o | .cmp _ o | .mov _ o | .keep _ o | .pand _ o
  | .por _ o | .pxor _ o | .pnot _ o | .fadd _ o | .fsub _ o | .fmul _ o | .ffma _ o | .fdiv _ o | .fsqrt _ o
  | .fmin _ o | .fmax _ o | .fcmp _ o | .fcvt _ o | .fclass _ o | .clk _ o | .evpost _ o | .owait _ o
  | .otest _ o | .ocancel _ o | .odetach _ o | .oadopt _ o | .orelease _ o | .oprio _ o | .ofault _ o
  | .unlease _ o | .lquery _ o | .qsignal _ o | .gid _ o | .grank _ o | .gsize _ o | .gpeer _ o | .gshare _ o
  | .gclaim _ o | .barinit _ o | .barrive _ o | .barwait _ o | .bartest _ o | .barleave _ o | .glza _ o
  | .glzq _ o | .vadd _ o | .vsub _ o | .vmul _ o | .vfma _ o | .vmin _ o | .vmax _ o | .vabs _ o | .vneg _ o
  | .vdiv _ o | .vsqrt _ o | .vrcp _ o | .vrsqrt _ o | .vexp2 _ o | .vlog2 _ o | .vand _ o | .vor _ o
  | .vxor _ o | .vshl _ o | .vshr _ o | .vsar _ o | .vcmp _ o | .vsel _ o | .vwadd _ o | .vwmul _ o
  | .vscan _ o | .vred _ o | .vperm _ o | .vbcast _ o | .vrot _ o | .vcomp _ o | .vcvt _ o | .vmxq _ o
  | .vmxd _ o | .vsatr _ o | .vseed _ o | .vrand _ o | .vmov _ o | .vext _ o | .vins _ o | .vpand _ o
  | .vpor _ o | .vpnot _ o | .vpcnt _ o | .aAdd _ o | .aSub _ o | .aShl _ o | .aMul _ o | .aMov _ o | .bcmp _ o
  | .amo _ o | .amoswp _ o | .amocas _ o | .fence _ o | .acq _ o | .rel _ o | .bind _ o | .unbind _ o
  | .cstage _ o | .oqst _ o | .bdmode _ o | .pmig _ o | .wpair _ o => o.enc
  | .brk _ _ o | .ldlit _ _ o | .pool _ _ o | .movi _ o | .movh _ o | .jmp _ o | .swt _ o | .mvcr _ o
  | .mvrc _ o | .trap _ o | .sysr _ o | .sysw _ o | .vpop _ o | .vpush _ o | .aMovi _ o => o.enc
  | .br _ _ o | .call _ o => o.enc
  | .loop _ _ o | .endl _ _ o => o.enc
  | .ld _ o | .ldq _ o | .ldx _ o | .st _ o | .stq _ o | .stx _ o | .pf _ o | .lfe _ o => o.enc
  | .ojoin _ o | .lease _ o | .colrs _ o | .colag _ o | .colar _ o | .cola2a _ o | .colbc _ o | .colcmb _ o
  | .rtopk _ o | .rplan _ o | .sortkv _ o | .gathr _ o | .scatr _ o | .sfnap _ o | .cdpack _ o | .cdunpk _ o
  | .qlaunch _ o | .glzs _ o | .cpy _ o | .bdot _ o | .wlease _ o | .wload _ o | .wdrain _ o => o.enc
  | .vtrd _ o | .vtwr _ o | .tzero _ o | .tld _ o | .tst _ o | .tmov _ o | .tfill _ o | .tcvt _ o | .tadd _ o
  | .tmul _ o | .tscale _ o | .trmax _ o | .trsum _ o | .rmset _ o | .cmset _ o | .wclr _ o | .wrel _ o => o.enc
  | .wdot _ o | .wtdot _ o | .wouter _ o => o.enc
  | .nop _ _ o | .align _ _ o | .stop _ _ o | .ret _ o => o.rest
  | .resultDelivery .. | .tileWriteDelivery .. | .haltFinish .. | .debugHold .. | .debugStep ..
  | .debugStepA .. | .opdbgrel .. | .scanAdmit .. | .withdraw .. | .withdrawAll .. | .residencyDone ..
  | .nodeStart .. | .nodeEnd .. | .dispatcherRound | .nodeRelease .. | .nodeFinish .. | .waitNodeSatisfied ..
  | .qtailWrite .. | .queueEnableWrite .. | .queueSuspend .. | .queueResume .. | .queueDrain .. | .queueDead ..
  | .launchAppend .. | .homeRequestArrival .. | .barrierMulticast .. | .predecessorFinished ..
  | .operationStart .. | .operationComplete .. | .operationFailure .. | .priorityAging .. | .arrayRunStart ..
  | .arrayRunLimit .. | .arrayCommandStart .. | .arrayCommandComplete .. | .drainRowAccepted ..
  | .pairTimeout .. | .leaseQueueEntry .. | .leaseGrant .. | .wakeDone .. | .quantumEnd .. | .engineYield ..
  | .forcedEviction .. | .scrubDone .. | .drowsyTimeout .. | .sleepTimeout .. | .engineCommandStart ..
  | .engineUnitDone .. | .copyLineDelivery .. | .copyNodeRun .. | .signalNodeRun .. | .replay ..
  | .walkReturn .. | .pageTouch .. | .pageMoveDone .. | .decayPeriod .. | .dotModeChangeDone ..
  | .bankDotRow .. | .droopWindow .. | .tlbiPage .. | .tlbiFunction .. | .tlbiAll | .rowval .. | .ctxCreate
  | .switchOut .. | .preemptWaitExpiry .. | .deadlineExpiry .. | .switchIn .. | .ctxRecover .. | .ctxDestroy ..
  | .teardownDone .. | .migrateOut .. | .migrateIn .. | .migrationTargetTimeout .. | .pageHandover ..
  | .ownerTokenArrival .. | .migrationAbort .. | .tombstoneLapse .. | .formationTimeout .. | .signalDetected ..
  | .trainingEnd .. | .retrainTrigger .. | .retrain .. | .portEnableWrite .. | .flitReceived ..
  | .nakReceived .. | .replayTimeout .. | .msgLoad .. | .msgLoadReply .. | .msgStore .. | .msgStoreAck ..
  | .msgAtomic .. | .msgAtomicReply .. | .msgCollective .. | .msgBarrier .. | .msgConnectionControl ..
  | .msgShardDelivery .. | .msgMoved .. | .msgRefusal .. | .msgContextTransfer .. | .msgAbort ..
  | .parkNotice .. | .resumeNotice .. | .connopenTimeout .. | .retransmission .. | .connidleTimeout ..
  | .connbackoffExpiry .. | .connectionDrained .. | .connectionSpill .. | .osyncEdge | .slotStart | .slotCommit
  | .ringHeatWrite .. | .ringSettled .. | .ringMapWrite .. | .chunkApply .. | .coldReset .. | .warmReset
  | .selftestEnd .. | .freeze | .freezeN | .powerControl .. | .temperatureLimit .. | .partitionEnable ..
  | .vfEnable .. | .cxlPortFailure .. | .dcread | .dcwrite | .idcert | .quote | .fwstage | .scanrd
  | .registerWrite .. | .rconsWrite .. | .fetchMissArrival .. => 0

/-- The word of an instruction (R28); none for an event, which has no word. -/
def encode (i : Instr) : Option W64 :=
  match Machine.wordHdr i with
  | some h => some (packWord h (opcodeOf i) (operandBits i))
  | none => none

/-- The word and its memory bytes. -/
def encodeBytes (i : Instr) : Option (List Byte) := (encode i).map bytesOfWord

/-! ## Words of the opcode table -/

/-- A segment that bounds nothing: every register, tile and space. -/
def SegInfoAll : Machine.SegInfo := { named := 8, vnamed := 8, tiles := 16, owner := 0, service := true }

/-- Whether a word of stream `st` decodes to an instruction whose own fields pass checks 4 and 5. -/
def fits (st : StreamId) (w : W64) : Bool :=
  match decode st w with
  | .ok i => Machine.wordPasses SegInfoAll i 4 && Machine.wordPasses SegInfoAll i 5
  | .error _ => false

/-- Whether a word's opcode is assigned in a stream's map. -/
def assigned (st : StreamId) (w : W64) : Bool := match decode st w with | .ok _ => true | .error _ => false

/-- A word does not say which stream it belongs to (R28, R42): the first stream, in the order S, V, A, X, in whose map
it passes checks 4 and 5, or failing that whose map assigns its opcode. -/
def streamOfWord (w : W64) : Option StreamId :=
  ([.S, .V, .A, .X].find? (fits · w)).or ([.S, .V, .A, .X].find? (assigned · w))

/-- The instruction the decoder reads from a table word of `nbits` bits, the bits above them zero. -/
def decodeTableWord (nbits w : Nat) : Option Instr :=
  let v : W64 := BitVec.ofNat 64 (w % 2 ^ nbits)
  match streamOfWord v with
  | some st => (decodeBytes st (bytesOfWord v)).toOption
  | none => none

end Sys2Proof
end

