-- ==== Sys2Proof/Config.lean ====
section
/-! DEFINITION. Config.lean: what one part fixes, and the values the spec leaves open, as constants without a body. -/

namespace Sys2Proof.Config

/-- DEVID: group [14:5], member [4:0] (R21, R123). -/
opaque devId : BitVec 15

/-- A free value of the given number (assumption 1): what the spec leaves open, one per use. -/
opaque free : Nat → W64

/-- The byte at PA `pa` of a frame whose key is gone, by the number of the loss (R423). -/
opaque freeByte : Nat → Nat → Byte

/-- The device's signature over a 48-byte digest: r then s (R424). -/
opaque sign : BitVec 384 → BitVec 768

/-- The certificate chain's bytes and its length (R424, R425). -/
opaque certByte : Nat → Byte
/-- The certificate chain's length (R425). -/
opaque certLen : Nat

/-- Scan-chain bits by chain and bit offset (R425). -/
opaque scanBit : Nat → Nat → Bool

/-- SERIAL of the quote (R424). -/
opaque serial : BitVec 128

/-- The fused minimum security version (R422). -/
opaque minVersion : W32

/-- The awake budget that firmware restores after throttling (R420): 48 unless configured otherwise. -/
opaque policyBudget : Nat

/-- Clocks, beyond the first, until the home answers an access that a core starts in a clock (R154): by the clock and the core. -/
opaque farLat : Nat → Nat → Nat

/-- Clocks, beyond the first, until an operation's agent takes its next unit of work: by the clock, the context and the slot. -/
opaque unitLat : Nat → Nat → Nat → Nat

/-- What a heavy image that software has changed holds, in the codec of a transfer (R350): by its bytes. -/
opaque unimage : List Byte → List Byte

/-- What decides how much of its longest time something takes: by the clock at which it began and its number. -/
opaque delay : Nat → Nat → Nat

end Sys2Proof.Config
end

