-- ==== Sys2Proof/Machine/Map.lean ====
section
/-! DEFINITION. Machine/Map.lean: the operations of Sparse storage, with the value an unlisted key reads as. -/

namespace Sys2Proof.Machine

/-- The value at key k; `d` where k is not listed. -/
def sget {α : Type} (d : α) : Sparse α → Nat → α
  | [], _ => d
  | (k', v) :: l, k => if k = k' then v else sget d l k

/-- Removing key k. -/
def sdel {α : Type} (m : Sparse α) (k : Nat) : Sparse α := m.filter fun e => decide (e.1 ≠ k)

/-- Listing value v at key k. -/
def sput {α : Type} : Sparse α → Nat → α → Sparse α
  | [], k, v => [(k, v)]
  | (k', v') :: l, k, v =>
    if k = k' then (k, v) :: l else if k < k' then (k, v) :: (k', v') :: l else (k', v') :: sput l k v

/-- Writing v at key k: an entry equal to the default is not kept. -/
def sset {α : Type} [DecidableEq α] (d : α) (m : Sparse α) (k : Nat) (v : α) : Sparse α :=
  if v = d then sdel m k else sput m k v

/-- The keys rise strictly from above `lo` and no entry is the default. -/
def scanonFrom {α : Type} [DecidableEq α] (d : α) : Option Nat → Sparse α → Bool
  | _, [] => true
  | lo, (k, v) :: l =>
    (match lo with | none => true | some b => decide (b < k)) && decide (v ≠ d) && scanonFrom d (some k) l

/-- The canonical form: strictly rising keys, no default entries. -/
def scanon {α : Type} [DecidableEq α] (d : α) (m : Sparse α) : Bool := scanonFrom d none m

/-- Changing the value at key k. -/
def smod {α : Type} [DecidableEq α] (d : α) (m : Sparse α) (k : Nat) (f : α → α) : Sparse α :=
  sset d m k (f (sget d m k))

/-- An entry that may be absent. -/
def sfind {α : Type} : Sparse α → Nat → Option α
  | [], _ => none
  | (k', v) :: l, k => if k = k' then some v else sfind l k

/-- Writing the bytes `l` from key k on. -/
def ssetList {α : Type} [DecidableEq α] (d : α) (m : Sparse α) (k : Nat) : List α → Sparse α
  | [] => m
  | v :: l => ssetList d (sset d m k v) (k + 1) l

/-- The n values from key k on. -/
def sgetList {α : Type} (d : α) (m : Sparse α) (k : Nat) (n : Nat) : List α :=
  (List.range n).map fun i => sget d m (k + i)

/-- Keeping only the keys that satisfy p. -/
def skeep {α : Type} (m : Sparse α) (p : Nat → Bool) : Sparse α := m.filter fun e => p e.1

/-- A little-endian number of bytes (R8). -/
def leNat : List Byte → Nat
  | [] => 0
  | b :: l => b.toNat + 256 * leNat l

/-- The n little-endian bytes of a number (R8). -/
def leBytes (n : Nat) : Nat → List Byte
  | v => (List.range n).map fun i => BitVec.ofNat 8 (v / 256 ^ i)

/-- The number of n bytes at offset `off` of a structure (R8). -/
def field (l : List Byte) (off n : Nat) : Nat := leNat ((l.drop off).take n)

end Sys2Proof.Machine
end

