-- ==== Sys2Proof/Machine/State.lean ====
section
/-! DEFINITION. Machine/State.lean: everything the spec gives the machine, as plain data, and the machine right after
reset. Storage whose contents are mostly at their reset value is held as a Sparse list. -/

namespace Sys2Proof.Machine

/-- What stops a run for good. The L9's own faults are states of the machine (R343, R344), so no meaning raises
this one; `step` would raise it only if it had no instruction to run. Safe: it adds no behaviour. -/
inductive Fault where
  | noInstruction
  deriving DecidableEq, Repr

/-- `notModelled` is raised by an arm of exec whose instruction has no meaning yet; it names the mnemonic. Safe: the
model stops. -/
inductive Refusal where
  | notModelled (mnemonic : String)
  deriving DecidableEq, Repr

/-! ## Cores -/

/-- A named scalar (R95, R98). -/
structure Reg where
  val : W32
  valid : Bool
  deriving DecidableEq, Repr

/-- A vector register of 64 lanes (R129, R130); `lanes` lists lane 0 first. -/
structure VReg where
  lanes : List W32
  valid : Bool
  deriving DecidableEq, Repr

/-- One result-queue entry: up to 128 bits in S, A and X (R34), up to 64 bits per lane in V (R131). -/
inductive QVal where
  | scalar (v : W128)
  | lanes (v : List W64)
  deriving DecidableEq, Repr

/-- The states of a stream (R89). -/
inductive StreamSt where
  | idle | aligned | frozen | blocked | stopped | halted
  deriving DecidableEq, Repr

/-- One entry of a loop stack (R105): the first body word's byte offset, the count and the index. -/
structure LoopEntry where
  count : Nat
  index : Nat
  body : Nat
  deriving DecidableEq, Repr

/-- What a faulting stream leaves for its stop record (R345). -/
structure StopInfo where
  code : Byte
  index : W32
  addr : W64
  tcode : W32
  deriving DecidableEq, Repr

/-- One stream of a core: its state and the state before a halt (R89, R345), the pc as a byte offset in the segment,
the trio clock of its last issue (R90), the clock since which it waits at `align` (R94), its result queue newest
first (R97), its loop stack innermost first (R105), its fault, its instruction cache by word offset (R93), and the offset of the pool
word whose miss its word awaits (R107). -/
structure Stream where
  st : StreamSt
  before : StreamSt
  pc : Nat
  last : Nat
  atAlign : Option Nat
  rq : List QVal
  loops : List LoopEntry
  fault : Option StopInfo
  cache : Sparse W64
  wants : Option Nat
  deriving DecidableEq, Repr

/-- Where a delivered result goes besides the result queue (R33, R96, R119, R205). -/
inductive Dest where
  | none
  | named (n regs : Nat)
  | pred (n : Nat)
  | apred (n : Nat)
  | vec (n : Nat) (wide : Bool) (mask : W64)
  | vpred (n : Nat) (mask : W64)
  | ctl (reg : Nat)
  | sys (reg : Nat)
  | rowMask (n : Nat)
  | colMask (n : Nat) (v : BitVec 256)
  | opq (q : Nat)
  deriving DecidableEq, Repr

/-- An access of A as its word captured it when it started (R152, R165): a load of n bytes, which may read through the L1; a store,
whose bytes may come from a store queue; an atomic of R173, or a `rel` (operation 11); or an access whose fault has been found
and waits for what precedes it. -/
inductive Access where
  | load (sp : BitVec 2) (base : W128) (va : W64) (n : Nat) (bypass acq : Bool)
  | store (sp : BitVec 2) (base : W128) (va : W64) (bytes : List Byte) (sq : Option Nat)
  | atomic (sp : BitVec 2) (base : W128) (va : W64) (op : Nat) (t : BitVec 4) (b c : W64)
  | failed (f : StopInfo)
  deriving DecidableEq, Repr

/-- Whether a word of A makes an access that counts among the 32 of R152, and whether it is an acquiring load (R171). -/
inductive AccKind where
  | none | plain | acq
  deriving DecidableEq, Repr

/-- A word's outstanding result (R96, R101, R153): the clock it is due (none while a reply or an access is awaited), its issue
order, its word's byte offset, whether it enters the result queue, its destination and the tokens it pushes. `fab` is
the tag of the fabric access it waits for (R172) and `asked` that access, `acc` the access that is not performed yet (R152, R164), `pops` the tokens that its word
took and `loops` the loop stack at its start, for an abandonment (R175). -/
structure InFlight where
  stream : StreamId
  due : Option Nat
  seq : Nat
  pc : Nat
  enters : Bool
  val : QVal
  dest : Dest
  tokens : BitVec 3
  fab : Option W64
  kind : AccKind
  acc : Option Access
  asked : Option Access
  pops : BitVec 3
  loops : List LoopEntry
  deriving DecidableEq, Repr

/-- A tile (R200): element store and scale plane by byte, EMPTY or FULL. -/
structure Tile where
  elems : Sparse Byte
  scales : Sparse Byte
  full : Bool
  deriving DecidableEq, Repr

/-- What a tile word writes at its delivery (R202, R208): elements by index and code of `bits` bits, scales, and the
number of image bytes and scale bytes beyond which the tile is zero; or bytes of the scratchpad. -/
inductive TileTarget where
  | tile (t bits : Nat) (elems : List (Nat × W32)) (scales : List (Nat × Byte)) (used usedScales : Nat)
  | spad (base : Nat) (bytes : List Byte) (full : Bool)
  deriving DecidableEq, Repr

/-- A tile word's write in flight (R202); X's write is kept over V's where two collide (R148). -/
structure TileWrite where
  stream : StreamId
  due : Nat
  target : TileTarget
  deriving DecidableEq, Repr

/-- A tile's shape (R123, R200). -/
structure TShape where
  et : Nat
  rows : Nat
  cols : Nat
  blocked : Bool
  deriving DecidableEq, Repr

/-- A `tld` or `tst` that moves 256 bytes per trio clock through a queue (R208): the trio clock of its next move, the
bytes got or left, the clock its write is due. -/
inductive TileSeq where
  | load (q t : Nat) (sh : TShape) (rms : W64) (cms : BitVec 256) (got : List Byte) (need next due : Nat)
  | store (q : Nat) (rest : List Byte) (next : Nat)
  deriving DecidableEq, Repr

/-- An element of an operand queue (R158): reserved when it is made, then filled; `fresh` in the clock in which it fills, after which
it can be popped. -/
structure OqElem where
  bytes : List Byte
  filled : Bool
  fresh : Bool
  deriving DecidableEq, Repr

/-- The debug block of a core (R126); `since` is the clock from which a hold keeps the trio from issuing (R127). -/
structure Debug where
  stepEv : Bool
  brkEn : Bool
  dbgHold : Bool
  hold : Bool
  held : Bool
  stepBusy : Bool
  stepABusy : Bool
  since : Nat
  brkCode : BitVec 26
  deriving DecidableEq, Repr

/-- The words of S that send a request to a home (R311). -/
inductive AskOp where
  | gclaim | barinit | barrive | barwait | bartest | barleave | qsignal | evpost | glza
  deriving DecidableEq, Repr

/-- A request with the operands its word read (R311). -/
structure Ask where
  op : AskOp
  a : W32
  b : W64
  c : W32
  m : BitVec 2
  deriving DecidableEq, Repr

/-- The request that S's due word sent to its home and awaits (R311, R320): on its way, performed or passed on by the home
without an answer yet, and the reply once present. -/
inductive Request where
  | none
  | sent (k : Ask)
  | applied (k : Ask)
  | replied (value : W64)
  | failed (code : Byte) (index : W32) (addr : W64)
  deriving DecidableEq, Repr

/-- Whether A waits for a lock word (R192), and the result once the home has granted it. -/
inductive LockSt where
  | none
  | waiting
  | granted (seq : W32)
  deriving DecidableEq, Repr

/-- What an A word has begun and waits for (R376, R377): page moves, or channels that change mode; with its result. -/
inductive APend where
  | none
  | moves (count fn : Nat) (vas : List W64)
  | dots (count : Nat) (chans : List Nat)
  deriving DecidableEq, Repr

/-- What an `owait` of a core waits for (R250): a handle, whether it consumes it, then the status word. -/
inductive OWait where
  | none
  | waiting (h : W32) (consume : Bool)
  | got (status : W32)
  deriving DecidableEq, Repr

/-- A waiter of a lock word (R192): where the word lies, the function whose page it is and its VA there, who asks (a core of this device, or a peer function's A
stream by the tag of its message), and what the word holds once granted; `gone` while its page, dropped, has no frame (R367). -/
structure LockWait where
  pa : Nat
  home : Nat
  va : W64
  gone : Bool
  core : Option Nat
  dev : BitVec 15
  fn : Byte
  tag : W64
  ctx : Nat
  holder : Nat
  deriving DecidableEq, Repr

/-- The kernel instance a core is bound to (R300): context, queue, node sequence. -/
structure InstKey where
  ctx : Nat
  q : Nat
  seq : Nat
  deriving DecidableEq, Repr

/-- One core; `away` once a heavy switch-out has taken it (R349). -/
structure Core where
  inst : Option InstKey
  gidx : Nat
  started : Bool
  clk : Nat
  s : Stream
  v : Stream
  a : Stream
  x : Stream
  named : Sparse Reg
  vecs : Sparse VReg
  preds : Byte
  apreds : Byte
  vpreds : Sparse W64
  tokens : Sparse Nat
  oq : Sparse (List OqElem)
  sq : Sparse (List Byte)
  flight : List InFlight
  tileW : List TileWrite
  seqs : List TileSeq
  nextSeq : Nat
  calls : List Nat
  trioAligns : Nat
  tsh : Sparse W32
  xseed : W32
  satslot : BitVec 10
  rmode : BitVec 2
  opprio : BitVec 3
  stage : BitVec 16
  pairBound : Bool
  pairPartner : BitVec 7
  pmc : List W32
  pmsel : List (BitVec 4)
  vgen : List W32
  xgen : List W32
  rowMask : Sparse W64
  colMask : Sparse (BitVec 256)
  tiles : Sparse Tile
  busyTiles : List (W32 × List Nat)
  spad : Sparse Byte
  lines : Sparse Bool
  l1 : Sparse (List Byte)
  dbg : Debug
  req : Request
  tTime : Nat
  aTime : Nat
  lock : LockSt
  owait : OWait
  aPend : APend
  qwin : Byte
  away : Bool
  deriving DecidableEq, Repr

/-! ## Benches and their arrays -/

/-- The array's tag (R214). -/
structure Tag where
  ctx : Nat
  id : W32
  ver : W32
  deriving DecidableEq, Repr

/-- The states of a weight array (R215). -/
inductive ArrSt where
  | idle | leased | loaded | accumulating | draining
  deriving DecidableEq, Repr

/-- A claim of core `k` of the bench (R213, R214, R227). -/
structure Claim where
  k : Nat
  ctx : Nat
  prio : Nat
  op : W32
  aged : Nat
  since : Option Nat
  lastLoad : Option (W64 × Tag)
  bind : Option Nat
  bound : Bool
  ptag : List Nat
  savedAcc : Option (Sparse W32)
  deriving DecidableEq, Repr

/-- One entry of a core's command order at the array (R213, R224, R227): a matrix operation by context and slot, or a word
that creates none, with the clock of its issue; and the reload of R214, which is no command. -/
inductive ArrCmd where
  | op (ctx slot : Nat)
  | wclr (at_ : Nat)
  | wrel (at_ : Nat)
  | pairOff (at_ : Nat)
  | reload
  deriving DecidableEq, Repr

/-- The array's current run (R213): its holder, its start, the commands performed, whether the reload of R214 is still to
start, the code of a reload that failed, and whether its extension has been counted. -/
structure Run where
  k : Nat
  start : Nat
  cmds : Nat
  pending : Bool
  reload : Option Byte
  ext : Bool
  deriving DecidableEq, Repr

/-- A command that has started and not completed (R226): the core of the bench, when it completes (none for a drain, whose
rows are accepted one by one), the next row, and the tensor record of a load as it was read. -/
structure Active where
  cmd : ArrCmd
  k : Nat
  due : Option Nat
  row : Nat
  record : List Byte
  deriving DecidableEq, Repr

/-- An access waiting in a bench's fault buffer (R343): who waits, the function, the page, whether the access writes,
and the failure once resolution failed. -/
structure FaultEntry where
  core : Nat
  stream : StreamId
  op : Option (Nat × Nat)
  fn : Nat
  va : W64
  write : Bool
  failed : Option Byte
  deriving DecidableEq, Repr

/-- A cached translation (R364): function, page base, page size in bits, the leaf entry. -/
structure TlbEntry where
  fn : Nat
  base : W64
  size : Nat
  leaf : W64
  deriving DecidableEq, Repr

/-- One bench (R211-R216, R343, R364): `utlb` holds the micro-TLB of each of its cores. -/
structure Bench where
  st : ArrSt
  tag : Option Tag
  cells : Sparse (BitVec 16)
  scales : Sparse Byte
  wtype : BitVec 5
  acc : Sparse W32
  claims : List Claim
  run : Option Run
  lastHolder : Option Nat
  cmds : Sparse (List ArrCmd)
  active : List Active
  freeAt : Nat
  pairWait : BitVec 16
  overs : W32
  faults : List FaultEntry
  tlb : List TlbEntry
  utlb : Sparse (List TlbEntry)
  misses : List (Nat × W64)
  deriving DecidableEq, Repr

/-! ## Operations -/

/-- The states of an operation (R237). -/
inductive OpSt where
  | created | waiting | queued | running | parked | held | complete | failed | cancelled | orphaned | retired
  deriving DecidableEq, Repr

/-- What is captured when a `wdot`, `wtdot` or `wouter` is created (R217, R225): the tile groups, the batch rows, the
masks, RMODE, SATSLOT, ACC, ET, OT, PLANE, the X generators, the core, the BLOCKED bits of the source tiles, and for a half
of a pair operation the clock at which it reached the head of its array's command order (R229); then the results by row
(R220), once formed. -/
structure MatArgs where
  ta : Nat
  tout : Nat
  batch : Nat
  rm : W64
  cm : BitVec 256
  rmode : BitVec 2
  slot : BitVec 10
  acc : BitVec 2
  et : BitVec 5
  ot : BitVec 2
  plane : Bool
  gens : List W32
  core : Nat
  blk : List Bool
  arrived : Option Nat
  part : Option (List (Nat × List W32))
  deriving DecidableEq, Repr

/-- The phases of a palette lease (R262). -/
inductive LeasePhase where
  | none | waiting | waking | held | revoking | evicting | ending
  deriving DecidableEq, Repr

/-- What an operation does, with the operands it captured. -/
inductive OpBody where
  | wlease (prio : Nat)
  | wload (a : W64)
  | dot (transposed : Bool) (m : MatArgs)
  | pairDot (transposed : Bool) (ptag seq : Nat) (lo hi : Option MatArgs)
  | wouter (m : MatArgs)
  | wdrainMem (a : W64)
  | wdrainColl (h : W32)
  | copy (first n : Nat) (stage : Nat) (br bc : W32)
  | lease (kind : Nat) (try_ : Bool) (phase : LeasePhase) (engine : Option Nat) (endAt : Option Nat) (cancel : Bool)
  | engine (op : Byte) (lease : W32) (desc : W64) (res : Bool)
  | launch (q : W32) (node : W64)
  | bdot (desc : W64)
  | glaze (shard step : W32)
  | join (hs : List W32)
  deriving DecidableEq, Repr

/-- What the finish of an operation's predecessors has decided (R237, R252): nothing yet; that it may go on; that it is CANCELLED, with the
predecessor's handle; or that a join fails with a code and a handle. -/
inductive Fate where
  | undecided
  | go
  | cancelled (h : W32)
  | failed (code : Byte) (h : W32)
  deriving DecidableEq, Repr

/-- One slot of the operation table (R236, R237, R244), with what the device keeps beside the record: ownership
(R238), priority and age (R242), creation order, after-handle (R243), release and adoption marks (R254, R255),
what its predecessors' finish decided (R237, R252), the clock of its issue (R264), progress (R247, R297): entry, delivered-line bitmap, a collective's number, received inputs, bytes received by rank and notices
(R392, R395), and the descriptor that was read (R272); `next` is the model's own: the clock from which its agent takes the next unit (assumption 14). -/
structure Op where
  handle : W32
  st : OpSt
  code : Byte
  engine : BitVec 16
  index : W32
  time : W32
  addr : W64
  deliv : W32
  zfill : W32
  attached : Bool
  core : Nat
  stream : StreamId
  node : InstKey
  prio : Nat
  aged : Nat
  since : Nat
  order : Nat
  after : Option W32
  fate : Fate
  issued : Nat
  released : Bool
  adopted : Bool
  cancel : Bool
  entry : Nat
  bitmap : W64
  collNo : Option Nat
  inputs : Sparse (List Byte)
  recv : Sparse Nat
  notices : List Nat
  got : List Byte
  next : Nat
  body : OpBody
  deriving DecidableEq, Repr

/-! ## Contexts -/

/-- An entry of the region table (R186), by index; unlisted entries are UNBOUND. -/
structure Region where
  base : W64
  lines : W32
  scope : BitVec 2
  kind : Bool
  sync : W64
  sdev : BitVec 16
  svf : Byte
  deriving DecidableEq, Repr

/-- The states of a barrier (R315). -/
inductive BarSt where
  | idle | openSt | complete | broken
  deriving DecidableEq, Repr

/-- An entry of the barrier table (R312); `mirror` marks a member's copy of a fab-scope barrier (R322). -/
structure Barrier where
  gen : BitVec 16
  epoch : Byte
  scope : BitVec 2
  st : BarSt
  expect : BitVec 24
  arrived : BitVec 24
  anchor : BitVec 16
  pgid : W32
  homedev : BitVec 16
  brkcode : Byte
  mirror : Bool
  deriving DecidableEq, Repr

/-- The status of a node (R327). -/
inductive NodeSt where
  | pending | ready | running | complete | failed | skipped
  deriving DecidableEq, Repr

/-- A visible node (R327, R329): its slot's 64 bytes as read, its status and code, the predecessor count that
remains, when it became READY and how far it has aged; `chosen` is a conditional's set; `fault` its outcome once known (0
complete), `done` once its finish has been taken in; the copy engine that a copy node runs on (R296) and the 16-byte pieces it
has moved; the table whose formation a launch waits for (R305). -/
structure Node where
  bytes : List Byte
  st : NodeSt
  code : Byte
  foff : W32
  remaining : Nat
  readyAt : Nat
  aged : Nat
  chosen : Option Bool
  fault : Option Byte
  done : Bool
  engine : Option Nat
  pieces : Nat
  waitsPg : Option W32
  deriving DecidableEq, Repr

/-- The states of a queue (R332). -/
inductive QueueSt where
  | empty | active | running | switchedOut | suspended | draining | dead
  deriving DecidableEq, Repr

/-- A queue (R325, R332, R336). -/
structure Queue where
  st : QueueSt
  prio : BitVec 3
  devapp : Bool
  enable : Bool
  tail : W32
  prog : W32
  nfail : Bool
  xdec : Bool
  badtail : Bool
  base : W64
  log2 : Nat
  nodes : Sparse Node
  heldDecs : Sparse Nat
  shadow : Option W32
  frozen : Option W32
  markSuspend : Bool
  markDrain : Bool
  deriving DecidableEq, Repr

/-- The states of a registered process-group table (R305). -/
inductive PgSt where
  | forming | ready | degraded | dissolved
  deriving DecidableEq, Repr

/-- A registered process-group table (R302, R303, R461), the rank, when formation started, the next collective
number (R392), and the VAs where launches that named it found it: AUX of a collective names it by one of them (R275). -/
structure PgTable where
  st : PgSt
  gen : W32
  sealW : W32
  dims : List Nat
  wrap : BitVec 3
  members : List (BitVec 15 × Byte)
  rank : Nat
  since : Nat
  nextColl : Nat
  vas : List W64
  deriving DecidableEq, Repr

/-- The states of a kernel instance (R283) that the device holds; DESCRIBED and the finished states have no entry. -/
inductive InstSt where
  | admitted | resident | running | draining
  deriving DecidableEq, Repr

/-- A kernel instance (R283-R290): launch record bytes, segment header bytes, bound cores in index order, the copies
of the record table and schedule, the process-group table it spans, its admission record's frames. -/
structure Inst where
  st : InstSt
  launch : List Byte
  header : List Byte
  cores : List Nat
  records : List Byte
  sched : List Byte
  pg : Option PgTable
  frames : List W64
  startedCores : List Nat
  number : W32
  deriving DecidableEq, Repr

/-- The states of a context (R342). -/
inductive CtxSt where
  | free | created | runnable | running | switchingOut | switchedOut | halted | migratingOut | migratingIn | destroying
  deriving DecidableEq, Repr

/-- A halt in progress (R344): the first code and the stop-record index of who raised the line, the clock in which it rose, and
the operations that were RUNNING then (R345); the operations that crossed a saturation threshold while it was high (R80), and whether the
barriers have been broken (R316). -/
structure Halt where
  code : Byte
  first : BitVec 16
  since : Nat
  running : List Nat
  crossed : List Nat
  broke : Bool
  deriving DecidableEq, Repr

/-- A saved heavy image (R350): the core's state under its group index and instance, its claim and its command order; `image` numbers the
bytes that the device wrote for it at SAVEVA. -/
structure SavedCore where
  key : InstKey
  gidx : Nat
  core : Core
  old : Nat
  image : Nat
  claim : Option Claim
  cmds : List ArrCmd
  deriving DecidableEq, Repr

/-- One context (R340, R342). -/
structure Ctx where
  st : CtxSt
  recVa : W64
  fn : Nat
  service : Bool
  cyclim : Nat
  satva : W64
  regva : W64
  opva : W64
  barva : W64
  stopva : W64
  evqva : W64
  evqlog2 : Nat
  preemptWait : Nat
  deadline : Nat
  saveva : W64
  savelen : W64
  haltCode : Byte
  haltSeq : W32
  haltFirst : BitVec 16
  evtail : W32
  evlost : W32
  orphans : List W32
  ops : Sparse Op
  retired : List Nat
  regions : Sparse Region
  barriers : Sparse Barrier
  queues : Sparse Queue
  insts : List (InstKey × Inst)
  pgs : List (W32 × PgTable)
  instCount : W32
  dotSet : List Nat
  dotSaved : List Nat
  halt : Option Halt
  switchStart : Option Nat
  saved : List SavedCore
  migr : Option (BitVec 15 × Nat)
  quiesced : CtxSt
  asked : Nat
  moved : Bool
  deriving DecidableEq, Repr

/-! ## Palette -/

/-- The states of a palette engine (R260). -/
inductive EngSt where
  | asleep | waking | awake | leased | drowsy | evicting | retired
  deriving DecidableEq, Repr

/-- A palette engine: its state, since when, the lease (context, slot) it is granted to, when it was granted, the start of the quantum,
the start of a revocation, whether an eviction came from a budget cut, the wake time, the command it runs. -/
structure Engine where
  st : EngSt
  since : Nat
  lease : Option (Nat × Nat)
  granted : Nat
  quantum : Nat
  revoke : Option Nat
  budgetCut : Bool
  wake : Nat
  cmd : Option (Nat × Nat)
  deriving DecidableEq, Repr

/-! ## Memory, pages, tiers -/

/-- Memory by physical address (R359): its listed bytes, the frames whose bytes are unpredictable and the number of
the free value they read (R423), the key number that each frame is stored under, and that of each 128-byte unit stored under
another key than its frame. -/
structure Memory where
  cells : List Host.Cell
  scrambled : Sparse Nat
  owner : Sparse Nat
  units : Sparse Nat
  deriving DecidableEq, Repr

/-- A page being moved (R366, R367): the entry's address, the entry before, the target entry, the old and the new frame;
while the move is only queued, the bank dot operations (context, handle) it starts after (R376). -/
structure PageMove where
  fn : Nat
  va : W64
  entryPa : Nat
  before : W64
  target : W64
  oldFrame : Option W64
  newFrame : Option W64
  after : Option (List (Nat × W32))
  deriving DecidableEq, Repr

/-! ## The device's own accesses of context areas (R80, R343, R346, R462) -/

/-- Who crosses a saturation threshold (R80): a stream of a core, or an operation of the context. -/
inductive SatBy where
  | stream (core : Nat) (st : StreamId)
  | op (slot : Nat)
  deriving DecidableEq, Repr

/-- An access of the device to a context's area, whole: bytes written from `va` on; a byte of which the bits
of `keep` stay; an event posted at `time`; or events added to a
saturation slot. -/
inductive DevAct where
  | write (va : W64) (bytes : List Byte)
  | merge (va : W64) (keep bits : Byte)
  | event (ctx type code src : Nat) (va1 vb1 : W64) (time : Nat)
  | sat (ctx slot n nans : Nat) (by_ : SatBy)
  deriving DecidableEq, Repr

/-- Such an access that waits for a page of its function; `failed` once the page's resolution has failed. -/
structure DevPend where
  fn : Nat
  page : W64
  act : DevAct
  failed : Bool
  deriving DecidableEq, Repr

/-! ## Fabric -/

/-- The states of a port (R382). -/
inductive PortSt where
  | down | training | up | degraded | retraining
  deriving DecidableEq, Repr

/-- A port (R382-R384, R396, R398): the replay buffer keeps (LSEQ, flit) oldest first; `asm` is the message being received,
`busy` the clock until which a message of a slot occupies the port. -/
structure Port where
  st : PortSt
  enable : Bool
  peer : BitVec 15
  width : BitVec 6
  miscable : Bool
  laneBad : BitVec 34
  replays : W32
  crcs : W32
  retrains : W32
  buffer : List (BitVec 12 × BitVec 512)
  nextSeq : BitVec 12
  expect : BitVec 12
  acked : BitVec 12
  lastAck : Nat
  fruitless : Nat
  since : Nat
  asm : List Byte
  busy : Nat
  sent : List (BitVec 512)
  deriving DecidableEq, Repr

/-- The states of a connection (R389). -/
inductive ConnSt where
  | opening | openSt | spilled | draining | reset
  deriving DecidableEq, Repr

/-- A connection between a local function and a peer device (R388, R389); no entry means CLOSED with epoch 0. `svf` is the peer
function last addressed, `sentAt` the clock of each unacknowledged message's last sending. -/
structure Conn where
  fn : Nat
  peer : Nat
  st : ConnSt
  closed : Bool
  epoch : Byte
  svf : Byte
  snxt : BitVec 16
  unacked : List Msg
  waiting : List Msg
  sentAt : Sparse Nat
  retries : Nat
  lastUsed : Nat
  since : Nat
  idleDrain : Bool
  afterReset : Bool
  deriving DecidableEq, Repr

/-- What a device keeps of the messages that a peer's function sends it (R388, R389; assumption 25): the epoch of its connection,
the next CSEQ, the last CSEQ acknowledged, the local function that answers, and whether an acknowledgement is owed. -/
structure Recv where
  src : BitVec 15
  svf : Byte
  dvf : Byte
  epoch : Byte
  rnxt : BitVec 16
  acked : BitVec 16
  owed : Bool
  deriving DecidableEq, Repr

/-- One slot of the optical slot table (R397). -/
structure Slot where
  len : W32
  guard : W32
  dest : List (BitVec 16)
  deriving DecidableEq, Repr

/-- The slot machinery (R396, R397). -/
structure Slots where
  nslot : Nat
  sched : Bool
  staged : Sparse Slot
  active : Sparse Slot
  activeN : Nat
  activeSched : Bool
  commit : Bool
  ofs : W32
  rot : BitVec 16
  cur : Nat
  synced : Bool
  slotStart : Option Nat
  next : Option Nat
  deriving DecidableEq, Repr

/-- A micro-ring (R400). -/
structure Ring where
  dac : BitVec 12
  adc : BitVec 12
  valid : Bool
  mode : BitVec 2
  wave : BitVec 4
  err : BitVec 16
  settled : Bool
  carry : Bool
  since : Nat
  deriving DecidableEq, Repr

/-! ## Update shards -/

/-- The states of a shard (R404). -/
inductive ShardSt where
  | configured | armed | gathering | applying | published | faulted
  deriving DecidableEq, Repr

/-- The live fields of a shard (R403) and what arming captured: the S fields' bytes, the constants of R407, the
pinned pages, the arrived contributions and the applied chunks; whether VALID has been 0 since the last arming. -/
structure Shard where
  st : ShardSt
  code : Byte
  step : W32
  narrived : W32
  ndone : W32
  dupdrop : W32
  handle : W32
  ctx : Nat
  fchunk : W32
  capture : List Byte
  consts : List W32
  bitmap : List Nat
  done : List Nat
  pinned : List W64
  cleared : Bool
  deriving DecidableEq, Repr

/-! ## The device -/

/-- The device states (R414). -/
inductive DevSt where
  | reset | boot | selftest | ready | safe | frozen
  deriving DecidableEq, Repr

/-- The management mailbox (R425): 256 bytes of data. -/
structure Mailbox where
  busy : Bool
  result : Byte
  data : Sparse Byte
  deriving DecidableEq, Repr

/-- The scan block (R58), with the function of the command in progress. -/
structure ScanBlock where
  fn : Nat
  va : W64
  busy : Bool
  result : Byte
  check : BitVec 4
  off : W32
  deriving DecidableEq, Repr

/-- An admission record (R58): the segment's VA, its length, the frames of its pages. -/
structure Admission where
  va : W64
  length : W32
  frames : List W64
  deriving DecidableEq, Repr

/-- The context command block (R341). -/
structure CmdBlock where
  carg : W64
  carg2 : W64
  busy : Bool
  result : Byte
  ctx : BitVec 16
  cmd : Byte
  deriving DecidableEq, Repr

/-- The whole device. `errs` lists the 16-byte pieces of physical memory, and `spadErrs` the pieces of scratchpad, whose
reads meet a data error, with the code a read reports (R164, R245); `tileErrs` lists the tiles of each core, and `cellErrs` the benches
with cells of the array, whose reads do (R5); `residues` lists the elements of COMPUTE frames whose stored residue is not the one of
their bytes (R372); only the outside world changes these. `walks` are the walks asked for, in order of arrival: bench, function, page (R364).
`devQ` are the device's own accesses of context areas that wait, oldest first. `clock0` is the core clocks between cold reset and the last
reset (R244). `msix` are the MSI-X writes issued, by function and vector, oldest first (R426). `free` numbers the free values, `agenda` lists the events that act next, `cur` is the core whose
word executes (the model's own fields, see notes/assumptions/1.md and 2.md). -/
structure State where
  now : Nat
  dev : DevSt
  failClass : Byte
  failUnit : BitVec 16
  cores : Sparse Core
  benches : Sparse Bench
  ctxs : Sparse Ctx
  engines : Sparse Engine
  mem : Memory
  dc : Sparse W32
  residues : Sparse Nat
  devQ : List DevPend
  moves : List PageMove
  lockQ : List LockWait
  counters : Sparse Byte
  untracked : List Nat
  decayAt : Sparse Nat
  pulled : List (Nat × W64)
  heldFrames : List (Nat × W64)
  walks : List (Nat × Nat × W64)
  chanChange : List (Nat × Bool × Nat)
  droop : Sparse (Nat × Nat)
  scan : ScanBlock
  admitted : List (Nat × List (Option Admission))
  tlbiBusy : Bool
  opdbgCtx : BitVec 16
  opdbgResult : BitVec 2
  qwinMbox : Byte
  cmd : CmdBlock
  tombstones : List (Nat × BitVec 15 × Nat × Nat)
  xfer : List (Nat × List Byte)
  handed : List (Nat × W64 × Nat × W64)
  arrived : List (Nat × W64 × OwnerToken)
  deficit : Sparse (BitVec 32)
  lastRound : Nat
  ports : Sparse Port
  conns : List Conn
  recvs : List Recv
  fabWait : List Msg
  announces : List (Nat × BitVec 15 × Byte × W32 × W32 × W32)
  ftc : List ((BitVec 15 × Byte) × (BitVec 15 × Byte))
  slots : Slots
  sendq : Sparse (List Msg)
  fabOut : List Msg
  outbox : List Msg
  collHeld : List Msg
  rings : Sparse Ring
  shards : Sparse Shard
  mbox : Mailbox
  meas : BitVec 384
  svn : W32
  qcount : W64
  fwImage : Option (W64 × W32)
  vfs : Nat
  msix : List (Nat × Nat)
  cxlFailed : List Nat
  budget : Nat
  throttled : Bool
  coolSince : Option Nat
  opCount : Nat
  errs : Sparse Byte
  spadErrs : Sparse (Sparse Byte)
  tileErrs : Sparse (List Nat)
  cellErrs : List Nat
  clock0 : Nat
  free : Nat
  agenda : List Ev
  cur : Nat
  deriving DecidableEq, Repr

/-! ## Reset -/

/-- A stream before any node (R89, R95). -/
def Stream.reset : Stream :=
  { st := .idle, before := .idle, pc := 0, last := 0, atAlign := none, rq := [], loops := [], fault := none,
    cache := [], wants := none }

/-- The debug block at reset (R126). -/
def Debug.reset : Debug :=
  { stepEv := false, brkEn := false, dbgHold := false, hold := false, held := false, stepBusy := false,
    stepABusy := false, since := 0, brkCode := 0 }

/-- A register that nothing has written since node start (R95); its value is DESIGN CHOICE (assumption 4). -/
def Reg.reset : Reg := { val := 0, valid := false }

/-- A vector register that nothing has written since node start (R95, R130). -/
def VReg.reset : VReg := { lanes := [], valid := false }

/-- A tile at node start (R202). -/
def Tile.reset : Tile := { elems := [], scales := [], full := false }

/-- The seeding of 64 generators with seed s (R77). -/
def seedGens (s : W32) : List W32 :=
  (List.range 64).map fun i =>
    let x := s ^^^ (0x9E3779B9#32 * BitVec.ofNat 32 (i + 1))
    if x = 0 then 1 else x

/-- A core at cold reset (R95, R123, R202, R204, R290); every control register is at its reset value. -/
def Core.reset : Core :=
  { inst := none, gidx := 0, started := false, clk := 0,
    s := .reset, v := .reset, a := .reset, x := .reset,
    named := [], vecs := [], preds := 1, apreds := 1, vpreds := [], tokens := [], oq := [], sq := [],
    flight := [], tileW := [], seqs := [], nextSeq := 0, calls := [], trioAligns := 0,
    tsh := [], xseed := 0, satslot := 0, rmode := 0, opprio := 0, stage := 0, pairBound := false, pairPartner := 0x7F,
    pmc := [0, 0, 0, 0], pmsel := [0, 0, 0, 0], vgen := seedGens 0, xgen := seedGens 0, rowMask := [], colMask := [],
    tiles := [], busyTiles := [], spad := [], lines := [], l1 := [], dbg := .reset, req := .none, tTime := 0, aTime := 0,
    lock := .none, owait := .none, aPend := .none, qwin := 0x80, away := false }

/-- A bench at cold reset (R215, R216). -/
def Bench.reset : Bench :=
  { st := .idle, tag := none, cells := [], scales := [], wtype := 0, acc := [], claims := [], run := none,
    lastHolder := none, cmds := [], active := [], freeAt := 0, pairWait := 0x1000, overs := 0, faults := [], tlb := [],
    utlb := [], misses := [] }

/-- A context that does not exist: FREE (R342). -/
def Ctx.reset : Ctx :=
  { st := .free, recVa := 0, fn := 0, service := false, cyclim := 0, satva := 0, regva := 0, opva := 0, barva := 0,
    stopva := 0, evqva := 0, evqlog2 := 0, preemptWait := 0, deadline := 0, saveva := 0, savelen := 0, haltCode := 0,
    haltSeq := 0, haltFirst := 0, evtail := 0, evlost := 0, orphans := [], ops := [], retired := [], 
    regions := [], barriers := [], queues := [], insts := [], pgs := [], instCount := 0, dotSet := [], dotSaved := [], halt := none,
    switchStart := none, saved := [], migr := none, quiesced := .free, asked := 0, moved := false }

/-- An entry of the barrier table at context creation (R312, R340). -/
def Barrier.reset : Barrier :=
  { gen := 0, epoch := 0, scope := 0, st := .idle, expect := 0, arrived := 0, anchor := 0, pgid := 0, homedev := 0,
    brkcode := 0, mirror := false }

/-- A queue at context creation (R325, R332). -/
def Queue.reset : Queue :=
  { st := .dead, prio := 0, devapp := false, enable := false, tail := 0, prog := 0, nfail := false, xdec := false,
    badtail := false, base := 0, log2 := 4, nodes := [], heldDecs := [], shadow := none, frozen := none,
    markSuspend := false, markDrain := false }

/-- A palette engine at cold reset (R260, R269). -/
def Engine.reset : Engine :=
  { st := .asleep, since := 0, lease := none, granted := 0, quantum := 0, revoke := none, budgetCut := false, wake := 0, cmd := none }

/-- A port at cold reset (R398): DOWN and enabled. -/
def Port.reset : Port :=
  { st := .down, enable := true, peer := 0, width := 0, miscable := false, laneBad := 0, replays := 0, crcs := 0,
    retrains := 0, buffer := [], nextSeq := 0, expect := 0, acked := 0xFFF, lastAck := 0, fruitless := 0, since := 0,
    asm := [], busy := 0, sent := [] }

/-- A slot of the slot table at cold reset (R397). -/
def Slot.reset : Slot := { len := 12000, guard := 600, dest := [] }

/-- Ring k of a fibre at cold reset (R400). -/
def Ring.reset (k : Nat) : Ring :=
  { dac := 0x800, adc := 0, valid := false, mode := if k < 16 then 2 else 0, wave := if k < 16 then BitVec.ofNat 4 k else 0,
    err := 0, settled := true, carry := k < 16, since := 0 }

/-- A shard that has not been armed (R403). -/
def Shard.reset : Shard :=
  { st := .configured, code := 0, step := 0, narrived := 0, ndone := 0, dupdrop := 0, handle := 0, ctx := 0,
    fchunk := 0, capture := [], consts := [], bitmap := [], done := [], pinned := [], cleared := false }

/-- The machine right after cold reset (R414): the device in RESET, every register at the Reset column's value, no
context, nothing bound, no frame listed. -/
def State.reset : State :=
  { now := 0, dev := .reset, failClass := 0, failUnit := 0, cores := [], benches := [], ctxs := [], engines := [],
    mem := { cells := [], scrambled := [], owner := [], units := [] }, dc := [], residues := [],
    devQ := [], moves := [], lockQ := [], counters := [], untracked := [], decayAt := [], pulled := [], heldFrames := [],
    walks := [], chanChange := [], droop := [],
    scan := { fn := 0, va := 0, busy := false, result := 0, check := 0, off := 0 }, admitted := [], tlbiBusy := false,
    opdbgCtx := 0, opdbgResult := 0, qwinMbox := 0x80,
    cmd := { carg := 0, carg2 := 0, busy := false, result := 0, ctx := 0, cmd := 0 }, tombstones := [], xfer := [], handed := [], arrived := [],
    deficit := [], lastRound := 0, ports := [], conns := [], recvs := [], fabWait := [], announces := [], ftc := [],
    slots := { nslot := 1, sched := false, staged := [], active := [], activeN := 1, activeSched := false,
               commit := false, ofs := 0, rot := 0, cur := 0, synced := false, slotStart := none, next := none },
    sendq := [], fabOut := [], outbox := [], collHeld := [], rings := [], shards := [], mbox := { busy := false, result := 0, data := [] },
    meas := 0, svn := 0, qcount := 0, fwImage := none, vfs := 0, msix := [], cxlFailed := [], budget := 48, throttled := false,
    coolSince := none, opCount := 0, errs := [], spadErrs := [], tileErrs := [], cellErrs := [], clock0 := 0, free := 0, agenda := [], cur := 0 }

end Sys2Proof.Machine
end

