-- ==== Sys2Proof/Machine/DcTable.lean ====
section
/-! DEFINITION. Machine/DcTable.lean: the device-control registers without behaviour of their own: where they lie, which
bits a write sets, what they hold after cold reset, and the value a write stores (R9, R10, R460 and the register
tables). A register wider than 32 bits is two words. -/

namespace Sys2Proof.Machine

/-- A block of registers: `n` copies from `base` at `stride`. -/
def inArr (a base stride n : Nat) : Bool := decide (base ≤ a) && decide (a < base + stride * n) && (a - base) % stride = 0

/-- The writable bits and the reset value of a plain register; none where the address holds no such register. -/
def plainReg (a : Nat) : Option (W32 × W32) :=
  if a = 0x002D0000 then some (0xFFFFFFF8, 0)                       -- SCANVA (R58)
  else if a = 0x002D0004 then some (0x007FFFFF, 0)
  else if inArr a 0x002D0100 8 129 then some (0xFFC00000, 0)        -- SCANTAB(f)
  else if inArr a 0x002D0104 8 129 then some (0x0000FFFF, 0)
  else if inArr a 0x00290000 0x10 24 then some (0xFF, 1)            -- PWEIGHT(p) (R338)
  else if inArr a 0x00290004 0x10 24 then some (0x1FF, 0)           -- PCORES(p)
  else if inArr a 0x00290008 0x10 24 then some (0x3, 0)             -- PCTL(p)
  else if inArr a 0x00290200 4 128 then some (0x9F, 0)              -- VFPART(v)
  else if a = 0x002A0008 || a = 0x002A000C then some (0xFFFFFFFF, 0) -- CARG (R341)
  else if a = 0x002A0018 then some (0xFFFFFFFF, 10000)              -- TOMBSTONE
  else if a = 0x002A0020 then some (0xFFFFFE00, 0)                  -- CARG2
  else if a = 0x002A0024 then some (0x007FFFFF, 0)
  else if inArr a 0x002B0000 8 129 then some (0xFFFF0000, 0)        -- PTROOT(f) (R365)
  else if inArr a 0x002B0004 8 129 then some (0x0000FFFF, 0)
  else if a = 0x002B0800 then some (0xFFFF0000, 0)                  -- TLBIVA
  else if a = 0x002B0804 then some (0x007FFFFF, 0)
  else if 0x002B1000 ≤ a && a < 0x002B1000 + 0x40 * 24 then
    let o := (a - 0x002B1000) % 0x40                                -- the rings of a partition (R368)
    if o = 0x00 || o = 0x10 || o = 0x20 then some (0xFFFF001F, 6)   -- RBASE(p,k)
    else if o = 0x04 || o = 0x14 || o = 0x24 then some (0x0000FFFF, 0)
    else if o = 0x08 || o = 0x18 then some (0xFFFFFFFF, 0)          -- RPROD(p,0), RPROD(p,1)
    else if o = 0x28 then some (0, 0)                               -- RPROD(p,2)
    else if o = 0x0C || o = 0x1C then some (0, 0)                   -- RCONS(p,0), RCONS(p,1)
    else if o = 0x2C then some (0xFFFFFFFF, 0)                      -- RCONS(p,2)
    else if o = 0x30 then some (0xC000001F, 30)                     -- CACHEA(p)
    else if o = 0x34 then some (0x0000FFFF, 0)
    else if o = 0x38 then some (0xFFFF00FF, 0x04940020)             -- TIER(p)
    else if o = 0x3C then some (0x007FFFFF, 0)                      -- TRACK(p)
    else none
  else if 0x002B2000 ≤ a && a < 0x002B2000 + 0x800 * 8 then
    let o := (a - 0x002B2000) % 0x800                               -- near-memory control of a stack (R373)
    if o = 0x00 then some (0xFF, 96)                                -- DROOPCTL(s)
    else if o = 0x04 || o = 0x08 then some (0, 0)                   -- DROOPCNT(s), RESERR(s)
    else if o = 0x10 then some (0xFC000000, 0)                      -- RPTBASE(s)
    else if o = 0x14 then some (0x0000FFFF, 0)
    else if o = 0x18 then some (0x07FFFFFF, 0)                      -- ROWADDR(s)
    else if 0x100 ≤ o && o < 0x700 && o % 4 = 0 then some (0x1FF, 0) -- CHEXCL(s,c)
    else none
  else if a = 0x00270008 then some (0xFFFFFFFF, 0x00124F80)         -- PALQUANT (R269)
  else if a = 0x0027000C then some (0xFFFFFFFF, 0x0001D4C0)         -- PALGRACE
  else if a = 0x00270010 then some (0xFFFFFFFF, 0x0000EA60)         -- PALDROWSY
  else if a = 0x00270014 then some (0xFFFFFFFF, 0x00124F80)         -- PALSLEEP
  else if a = 0x00270018 || a = 0x0027001C then some (0, 0)         -- PALEVICT, PALREVOKE
  else if inArr a 0x00501000 4 769 then some (0xFFE0FFE0, 0)        -- GLINK(G) (R398)
  else if a = 0x00502000 then some (0xFFFFFFFF, 1200000)            -- CONNOPEN
  else if a = 0x00502004 then some (0xFFFFFFFF, 60000)              -- CONNRTO
  else if a = 0x00502008 then some (0xFF, 8)                        -- CONNRETRY
  else if a = 0x0050200C then some (0xFFFFFFFF, 0x07270E00)         -- CONNIDLE
  else if a = 0x00502010 then some (0xFFFFFFFF, 12000)              -- CONNBACKOFF
  else if inArr a 0x00502100 8 129 then some (0xFFF00000, 0)        -- CONNTAB(f)
  else if inArr a 0x00502104 8 129 then some (0x0000FFFF, 0)
  else if inArr a 0x004003C0 0x400 48 then some (1, 0)              -- FIBCTL(f) (R400)
  else if inArr a 0x002C0000 8 129 then some (0xFFFE0000, 0)        -- SHTAB(f) (R402)
  else if inArr a 0x002C0004 8 129 then some (0x007FFFFF, 0)
  else if a = 0x00700008 then some (0xFFF, 2400)                    -- PWRLIM (R417)
  else if a = 0x0070000C || a = 0x00700010 || a = 0x00700014 then some (0, 0) -- PWRNOW, TEMPMAX, THROTTLE
  else if inArr a 0x00700100 4 4 then some (0, 0)                   -- RETBENCH(d)
  else if inArr a 0x00700200 4 384 then some (0, 0)                 -- RETROW(b), RETCOL(b)
  else if 0x00700800 ≤ a && a < 0x00700800 + 0x20 * 8 && a % 4 = 0 then some (0, 0) -- RETPC(s,k)
  else if inArr a 0x00700A00 4 6 then some (0, 0)                   -- RETENG(w)
  else none

/-- The value a plain register holds: what was stored last, or its reset value. -/
def dcGet (s : State) (a : Nat) : W32 :=
  match sfind s.dc a with
  | some v => v
  | none => match plainReg a with | some (_, r) => r | none => 0

/-- The device's own store into a register. -/
def dcPut (s : State) (a : Nat) (v : W32) : State :=
  { s with dc := if v = (match plainReg a with | some (_, r) => r | none => 0) then sdel s.dc a else sput s.dc a v }

/-- A 64-bit register of two words (R460). -/
def dcGet64 (s : State) (a : Nat) : W64 := (dcGet s (a + 4)).setWidth 64 <<< 32 ||| (dcGet s a).setWidth 64

/-- The nearer bound of a value outside lo..hi. -/
def clampN (lo hi v : Nat) : Nat := if v < lo then lo else if hi < v then hi else v

/-- A counter register that wraps. -/
def dcCount (s : State) (a n : Nat) : State := dcPut s a (dcGet s a + BitVec.ofNat 32 n)

/-- A function's index in the per-function arrays: 0-127, or 128 for the physical function 0x80 (R337). -/
def fnIdx (fn : Nat) : Nat := if fn < 128 then fn else 128

/-- The sum of TRACK over the other partitions (R368). -/
def trackOthers (s : State) (p : Nat) : Nat :=
  ((List.range 24).map fun q => if q = p then 0 else (dcGet s (0x002B103C + 0x40 * q)).toNat).sum

/-- The value that a software write stores in a plain register, after the clamps of its entry. -/
def storedValue (s : State) (a : Nat) (v : W32) : W32 :=
  match plainReg a with
  | none => 0
  | some (mask, _) =>
    let old := dcGet s a
    let n := (v &&& mask) ||| (old &&& ~~~mask)
    if inArr a 0x00290004 0x10 24 then BitVec.ofNat 32 (min n.toNat 384)
    else if inArr a 0x00290200 4 128 then
      if 24 ≤ (n &&& 0x1F).toNat then (n &&& 0xE0) ||| 23 else n
    else if a = 0x002A0018 then (if n = 0 then 1 else n)
    else if 0x002B1000 ≤ a && a < 0x002B1000 + 0x40 * 24 then
      let o := (a - 0x002B1000) % 0x40
      let p := (a - 0x002B1000) / 0x40
      if o = 0x00 || o = 0x10 || o = 0x20 then
        (n &&& 0xFFFF0000) ||| BitVec.ofNat 32 (clampN 6 20 (n &&& 0x1F).toNat)
      else if o = 0x30 then (n &&& 0xC0000000) ||| BitVec.ofNat 32 (clampN 30 38 (n &&& 0x1F).toNat)
      else if o = 0x3C then BitVec.ofNat 32 (min n.toNat (2 ^ 23 - trackOthers s p))
      else n
    else if inArr a 0x002B2000 0x800 8 then (if n = 0 then 1 else n)
    else if a = 0x00270008 then BitVec.ofNat 32 (max n.toNat 0x2000)
    else if a = 0x0027000C then BitVec.ofNat 32 (max n.toNat 0x400)
    else if a = 0x00270010 || a = 0x00270014 then (if n = 0 then 1 else n)
    else if inArr a 0x00501000 4 769 then
      let p1 := min ((n >>> 21) &&& 0x1F).toNat 23
      let p2 := min ((n >>> 5) &&& 0x1F).toNat 23
      (n &&& 0xFC00FC00) ||| (BitVec.ofNat 32 p1 <<< 21) ||| (BitVec.ofNat 32 p2 <<< 5)
    else if a = 0x00502000 then BitVec.ofNat 32 (max n.toNat 12000)
    else if a = 0x00502004 then BitVec.ofNat 32 (max n.toNat 1200)
    else if a = 0x00502008 then (if n = 0 then 1 else n)
    else if a = 0x00700008 then BitVec.ofNat 32 (clampN 1200 2400 n.toNat)
    else n

/-- The partition a function's contexts run in (R337): its VFPART, or partition 0 for the physical function; none for
a virtual function that belongs to none. -/
def partOf (s : State) (fn : Nat) : Option Nat :=
  if 128 ≤ fn then some 0
  else
    let v := dcGet s (0x00290200 + 4 * fn)
    if v.getLsbD 7 then some ((v &&& 0x1F).toNat) else none

/-- The key pair a function's memory is encrypted with (R337, R359): its partition's, or the physical function's. -/
def keyOf (s : State) (fn : Nat) : Nat :=
  if 128 ≤ fn then 25 else match partOf s fn with | some p => p + 1 | none => 0

/-- Whether a function's partition is in cached mode (R338, R370). -/
def cachedMode (s : State) (fn : Nat) : Bool :=
  match partOf s fn with
  | some p => (dcGet s (0x00290008 + 0x10 * p)).getLsbD 1
  | none => false

end Sys2Proof.Machine
end

