-- ==== Sys2Proof/Machine/Mem.lean ====
section
/-! DEFINITION. Machine/Mem.lean: memory by physical address (R359), translation (R360-R365), row permission (R373),
accesses by virtual address, and the frame rings (R368). -/

namespace Sys2Proof.Machine

/-! ## Fault codes (R358) -/

/-- REG_INVALID (R358). -/
def cREG : Byte := 0x01
/-- CALL_DEPTH (R358). -/
def cCALL : Byte := 0x03
/-- LOOP_DEPTH (R358). -/
def cLOOP : Byte := 0x04
/-- SW_TRAP (R358). -/
def cTRAP : Byte := 0x06
/-- DEBUG_STEP (R358). -/
def cSTEP : Byte := 0x07
/-- PAGE_ABSENT (R358). -/
def cABSENT : Byte := 0x10
/-- PAGE_UNMAPPED (R358). -/
def cUNMAPPED : Byte := 0x11
/-- PAGE_PERM (R358). -/
def cPERM : Byte := 0x12
/-- PAGE_MOVED (R358). -/
def cMOVED : Byte := 0x13
/-- ROW_PERM (R358). -/
def cROW : Byte := 0x14
/-- ALIGN (R358). -/
def cALIGN : Byte := 0x15
/-- TILE_TYPE (R358). -/
def cTILE : Byte := 0x16
/-- SEAL_MISMATCH (R358). -/
def cSEAL : Byte := 0x20
/-- RECORD_RANGE (R358). -/
def cRANGE : Byte := 0x21
/-- SAT_THRESHOLD (R358). -/
def cSAT : Byte := 0x22
/-- OP_STALE (R358). -/
def cSTALE : Byte := 0x30
/-- OP_CANCELLED (R358). -/
def cCANCELLED : Byte := 0x31
/-- PAIR_TIMEOUT (R358). -/
def cPAIRT : Byte := 0x32
/-- PAIR_PARTNER (R358). -/
def cPAIRP : Byte := 0x33
/-- LEASE_EVICTED (R358). -/
def cEVICTED : Byte := 0x34
/-- LEASE_DENIED (R358). -/
def cDENIED : Byte := 0x35
/-- CONTEXT_DYING (R358). -/
def cDYING : Byte := 0x36
/-- MEM_ECC (R358). -/
def cECC : Byte := 0x40
/-- MEM_RESIDUE (R358). -/
def cRESIDUE : Byte := 0x41
/-- SRAM_ECC (R358). -/
def cSRAM : Byte := 0x42
/-- LINK_DOWN (R358). -/
def cLINK : Byte := 0x50
/-- CONN_RESET (R358). -/
def cCONN : Byte := 0x51
/-- REMOTE_REFUSED (R358). -/
def cREFUSED : Byte := 0x52
/-- QUEUE_OVERFLOW (R358). -/
def cQOVER : Byte := 0x60
/-- MIGRATION_ABORT (R358). -/
def cMIGR : Byte := 0x70

/-! ## Physical memory -/

/-- What an unlisted byte reads as: zero after cold reset in HBM (R414), and in the pool by assumption 3. -/
def memDefault : Byte := 0

/-- The canonical form of memory: its cells rise strictly and list no byte equal to what an unlisted address reads as,
but in a frame whose bytes are unpredictable, where every written byte is listed; the frames that are unpredictable, and
the frames and the units that are stored under a key, rise strictly too. -/
def Memory.wf (m : Memory) : Bool :=
  m.cells.Pairwise (fun a b => a.1 < b.1) && m.scrambled.Pairwise (fun a b => a.1 < b.1) && m.owner.Pairwise (fun a b => a.1 < b.1) &&
  m.units.Pairwise (fun a b => a.1 < b.1) && m.cells.all (fun c => decide (c.2 ≠ memDefault) || (sfind m.scrambled (c.1 / 65536)).isSome)

/-- The memory that PA lies in, or the fault of an access to it (R359, R428). -/
def paFault (s : State) (pa : Nat) : Option Byte :=
  if pa < 2 ^ 39 then none
  else if 2 ^ 47 ≤ pa && decide (pa < 2 ^ 48) then (if s.cxlFailed.contains (pa / 65536 % 2) then some cECC else none)
  else some cUNMAPPED

/-- The stored byte at PA: listed, or free where the frame's contents are unpredictable (R423), or zero. -/
def Memory.byte (m : Memory) (pa : Nat) : Byte :=
  match sfind m.cells pa with
  | some b => b
  | none =>
    match sfind m.scrambled (pa / 65536) with
    | some n => Config.freeByte n pa
    | none => memDefault

/-- Storing a byte; the canonical form is kept. -/
def Memory.store (m : Memory) (pa : Nat) (b : Byte) : Memory :=
  if (sfind m.scrambled (pa / 65536)).isSome then { m with cells := sput m.cells pa b }
  else { m with cells := sset memDefault m.cells pa b }

/-- Storing bytes from PA on. -/
def Memory.storeList (m : Memory) (pa : Nat) : List Byte → Memory
  | [] => m
  | b :: l => (m.store pa b).storeList (pa + 1) l

/-- The n bytes from PA on, whatever key they are stored under. -/
def Memory.bytes (m : Memory) (pa n : Nat) : List Byte := (List.range n).map fun i => m.byte (pa + i)

/-- Removing what is listed in a range of keys. -/
def sclear {α : Type} (m : Sparse α) (lo hi : Nat) : Sparse α := m.filter fun e => e.1 < lo || hi ≤ e.1

/-- The frame that holds PA reads as zero throughout (R366). -/
def Memory.zeroFrame (m : Memory) (pa : Nat) : Memory :=
  let f := pa / 65536
  { cells := sclear m.cells (65536 * f) (65536 * f + 65536), scrambled := sdel m.scrambled f, owner := sdel m.owner f,
    units := sclear m.units (512 * f) (512 * f + 512) }

/-- The frame that holds PA reads as free bytes numbered n (R423). -/
def Memory.scramble (m : Memory) (pa n : Nat) : Memory :=
  let f := pa / 65536
  { cells := sclear m.cells (65536 * f) (65536 * f + 65536), scrambled := sput m.scrambled f n, owner := m.owner, units := m.units }

/-- The key number of memory stored in clear: COMPUTE frames and HOST pages (R359, R427). -/
def plainKey : Nat := 26

/-- The key that the 128-byte unit of PA is stored under (R359); none where nothing has been stored in its frame. -/
def Memory.keyAt (m : Memory) (pa : Nat) : Option Nat :=
  match sfind m.units (pa / 128) with | some k => some k | none => sfind m.owner (pa / 65536)

/-- Whether the bytes of the unit of PA, read under a key, are the ones that were stored (R359). -/
def Memory.keyOk (m : Memory) (key pa : Nat) : Bool := match m.keyAt pa with | some k => k = key | none => true

/-- n bytes at PA read under a key; those stored under another key are free values (assumption 6). -/
def Memory.readKey (m : Memory) (key pa n : Nat) : List Byte :=
  (List.range n).map fun i =>
    if m.keyOk key (pa + i) then m.byte (pa + i) else Config.freeByte (2 ^ 20 + 256 * key + (m.byte (pa + i)).toNat) (pa + i)

/-- The 128-byte unit of PA reads as free bytes numbered n. -/
def Memory.freeUnit (m : Memory) (pa n : Nat) : Memory :=
  m.storeList (pa / 128 * 128) ((List.range 128).map fun i => Config.freeByte n (pa / 128 * 128 + i))

/-- Bytes within one unit stored under a key (R359): a unit held under another key becomes unpredictable around them (assumption 6). -/
def State.storeUnit (s : State) (key pa : Nat) (l : List Byte) : State :=
  if s.mem.keyOk key pa then
    let m := s.mem.storeList pa l
    { s with mem := if (m.keyAt pa).isSome then m else { m with owner := sput m.owner (pa / 65536) key } }
  else
    let m := (s.mem.freeUnit pa s.free).storeList pa l
    { s with mem := { m with units := sput m.units (pa / 128) key }, free := s.free + 1 }

/-- Bytes stored at PA under a key, unit by unit; fuel bounds the units. -/
def storeUnits (key : Nat) : Nat → State → Nat → List Byte → State
  | 0, s, _, _ => s
  | k + 1, s, pa, l =>
    if l = [] then s
    else
      let here := 128 - pa % 128
      storeUnits key k (s.storeUnit key pa (l.take here)) (pa + here) (l.drop here)

/-- Bytes stored at PA under a key (R359). -/
def State.storeKey (s : State) (key pa : Nat) (l : List Byte) : State := storeUnits key (l.length / 128 + 2) s pa l

/-- What is stored under the keys that `p` selects reads as free bytes numbered n from here on (R423). -/
def Memory.loseKeys (m : Memory) (p : Nat → Bool) (n : Nat) : Memory :=
  let frame (m : Memory) (f : Nat) : Memory :=
    if m.units.any fun u => u.1 / 512 = f && !p u.2 then
      (List.range 512).foldl (fun (m : Memory) i => if (sfind m.units (512 * f + i)).isSome then m else m.freeUnit (128 * (512 * f + i)) n) m
    else m.scramble (65536 * f) n
  let m := (m.owner.filter fun e => p e.2).foldl (fun m e => frame m e.1) m
  (m.units.filter fun e => p e.2).foldl (fun m e => m.freeUnit (128 * e.1) n) m

/-- The device's own read of 8 bytes at a PA. -/
def State.pa64 (s : State) (pa : Nat) : W64 := BitVec.ofNat 64 (leNat (s.mem.bytes pa 8))

/-- The device's own write at a PA. -/
def State.paStore (s : State) (pa : Nat) (l : List Byte) : State := { s with mem := s.mem.storeList pa l }

/-! ## Translation -/

/-- STATE of an entry (R361). -/
def eState (e : W64) : Nat := (e.extractLsb' 61 3).toNat
/-- SIZE of an entry (R361). -/
def eSize (e : W64) : Nat := (e.extractLsb' 59 2).toNat
/-- TOUCHIN (R361). -/
def eTouch (e : W64) : Bool := e.getLsbD 58
/-- FAB (R361). -/
def eFab (e : W64) : Bool := e.getLsbD 57
/-- EXEC (R361). -/
def eExec (e : W64) : Bool := e.getLsbD 56
/-- W (R361). -/
def eW (e : W64) : Bool := e.getLsbD 55
/-- RD (R361). -/
def eRd (e : W64) : Bool := e.getLsbD 54
/-- CFMT (R361). -/
def eCfmt (e : W64) : Nat := (e.extractLsb' 52 2).toNat
/-- HOST (R361, R427). -/
def eHost (e : W64) : Bool := e.getLsbD 51
/-- The PA that FRAME names (R361). -/
def eFrame (e : W64) : Nat := (e.extractLsb' 16 32).toNat * 65536

/-- ABSENT (R361). -/
def sABSENT : Nat := 0
/-- RESIDENT_HBM (R361). -/
def sHBM : Nat := 1
/-- RESIDENT_POOL (R361). -/
def sPOOL : Nat := 2
/-- MIGRATING (R361). -/
def sMIGR : Nat := 3
/-- REMOTE (R361). -/
def sREMOTE : Nat := 4
/-- COMPUTE (R361). -/
def sCOMP : Nat := 5

/-- An entry with another STATE and FRAME. -/
def eSet (e : W64) (st : Nat) (frame : W64) : W64 :=
  (e &&& 0x1FFF00000000FFFF) ||| (BitVec.ofNat 64 st <<< 61) ||| (frame &&& 0x0000FFFFFFFF0000)

/-- What an access asks of its leaf (R362). -/
inductive Perm where
  | rd | wr | fetch
  deriving DecidableEq, Repr

/-- The leaf permits the access (R362). -/
def permits (e : W64) (p : Perm) (fab : Bool) : Bool :=
  !(eW e && eExec e) && (!fab || eFab e) &&
  match p with
  | .rd => eRd e
  | .wr => eW e
  | .fetch => eExec e

/-- The size of a leaf's page in bits of offset. -/
def pageBits (e : W64) : Nat := match eSize e with | 0 => 16 | 1 => 21 | _ => 30

/-- A leaf that R362 refuses: SIZE for its level, STATE, reserved bits, alignment, cached mode, HOST. -/
def leafRefused (cached : Bool) (level : Nat) (e : W64) : Bool :=
  level = 1 || eSize e = 3 || (eSize e = 1 && level ≠ 3) || (eSize e = 2 && level ≠ 2) || (eSize e = 0 && level ≠ 3) ||
  6 ≤ eState e || e.extractLsb' 48 3 ≠ 0 || e.extractLsb' 2 14 ≠ 0 ||
  (eState e ≠ sCOMP && eCfmt e ≠ 0) ||
  (eState e ≠ sREMOTE && eFrame e % 2 ^ pageBits e ≠ 0) ||
  (cached && eState e = sHBM) ||
  (eHost e && !(eState e = sPOOL && decide (2 ^ 47 ≤ eFrame e)))

/-- A pointer entry with a nonzero other field (R362). -/
def pointerRefused (e : W64) : Bool := e.extractLsb' 48 16 ≠ 0 || e.extractLsb' 2 14 ≠ 0

/-- A walk's answer: the leaf and where it lies, or the fault (R362). -/
inductive Walk where
  | leaf (entryPa : Nat) (e : W64)
  | bad (code : Byte)
  deriving DecidableEq, Repr

/-- The first data error that a read of n bytes from `at_` meets: its distance from there and its code (R164, R245). -/
def firstErr (errs : Sparse Byte) (at_ n : Nat) : Option (Nat × Byte) :=
  (errs.find? fun e => decide (at_ < 16 * e.1 + 16 ∧ 16 * e.1 < at_ + n)).map fun e => (16 * e.1 - at_, e.2)

/-- One level of the walk; `n` levels are left below it (R360). A data error on an entry's read is the fault of the access (R5, R164). -/
def walkFrom (s : State) (cached : Bool) (va : W64) : Nat → Nat → Walk
  | n, tab =>
    let level := 3 - n
    let shift := 42 - 13 * (level - 1)
    let pa := tab + 8 * (va.toNat / 2 ^ shift % 8192)
    match paFault s pa, firstErr s.errs pa 8 with
    | some c, _ => .bad c
    | none, some (_, c) => .bad c
    | none, none =>
      let e := s.pa64 pa
      if !e.getLsbD 0 then .bad cUNMAPPED
      else if e.getLsbD 1 then (if leafRefused cached level e then .bad cUNMAPPED else .leaf pa e)
      else
        match n with
        | 0 => .bad cUNMAPPED
        | k + 1 => if pointerRefused e then .bad cUNMAPPED else walkFrom s cached va k (eFrame e)

/-- PTROOT of a function (R365). -/
def ptRoot (s : State) (fn : Nat) : Nat := (dcGet64 s (0x002B0000 + 8 * fnIdx fn)).toNat

/-- The walk of a VA in a function's table (R360, R362). -/
def walk (s : State) (fn : Nat) (va : W64) : Walk :=
  if 2 ^ 55 ≤ va.toNat then .bad cUNMAPPED else walkFrom s (cachedMode s fn) va 2 (ptRoot s fn)

/-- The stack of an HBM address (R359). -/
def stackOf (pa : Nat) : Nat := pa / 2 ^ 36

/-- The frame index F of an HBM address in its stack (R371). -/
def frameIdx (pa : Nat) : Nat := pa / 65536 % 2 ^ 20

/-- The pseudo-channel of a COMPUTE frame among the device's 3,072 (R371). -/
def channelOf (pa : Nat) : Nat := 384 * stackOf pa + frameIdx pa % 384

/-- The byte of the row permission table that names the owner of PA's row; none where its channel is exclusive (R373). -/
def rowEntry (s : State) (pa : Nat) : Option Nat :=
  let st := stackOf pa
  if (dcGet s (0x002B2100 + 0x800 * st + 4 * (frameIdx pa % 384))).getLsbD 8 then none
  else some ((dcGet64 s (0x002B2010 + 0x800 * st)).toNat + 64 * frameIdx pa + pa / 1024 % 64)

/-- The function owns the row of a COMPUTE frame that holds PA (R373). -/
def rowOwned (s : State) (fn pa : Nat) : Bool :=
  match rowEntry s pa with
  | none => ((dcGet s (0x002B2100 + 0x800 * stackOf pa + 4 * (frameIdx pa % 384))) &&& 0xFF).toNat = fn
  | some a => (s.mem.byte a).toNat = fn

/-- What an access to the row of PA meets: a data error of the table (R5), or a row that the function does not own (R373). -/
def rowFault (s : State) (fn pa : Nat) : Option Byte :=
  match (rowEntry s pa).bind fun a => firstErr s.errs a 1 with
  | some (_, c) => some c
  | none => if rowOwned s fn pa then none else some cROW

/-- The first row of the n bytes from PA that an access cannot use: its distance and the fault. -/
def firstRow (s : State) (fn pa n : Nat) : Option (Nat × Byte) :=
  (List.range ((pa % 1024 + n + 1023) / 1024)).findSome? fun i =>
    (rowFault s fn (pa / 1024 * 1024 + 1024 * i)).map fun c => (pa / 1024 * 1024 + 1024 * i - pa, c)

/-! ## Residues of COMPUTE frames (R372) -/

/-- The significand integer M of an element by CFMT: 0 e4m3, 1 e5m2, 2 bf16, 3 i8. -/
def sigM (fmt code : Nat) : Int :=
  let m (ebits fbits : Nat) (nan : Bool) : Int :=
    let f := code % 2 ^ fbits
    if nan then 0 else if code / 2 ^ fbits % 2 ^ ebits = 0 then (f : Int) else (2 ^ fbits + f : Nat)
  match fmt with
  | 0 => m 4 3 (code % 128 = 127)
  | 1 => m 5 2 (code / 4 % 32 = 31)
  | 2 => m 8 7 (code / 128 % 256 = 255)
  | _ => (BitVec.ofNat 8 code).toInt

/-- The modulus by CFMT. -/
def residueMod (fmt : Nat) : Nat := if fmt = 2 then 15 else 3

/-- The residue of an element. -/
def residueOf (fmt code : Nat) : Nat := (sigM fmt code % (residueMod fmt : Int)).toNat

/-- Bytes of an element by CFMT. -/
def cfmtBytes (fmt : Nat) : Nat := if fmt = 2 then 2 else 1

/-- The residue that is stored with the element at PA: that of its bytes, unless another is listed. -/
def State.residueAt (s : State) (fmt pa : Nat) : Nat :=
  (sfind s.residues pa).getD (residueOf fmt (leNat (s.mem.bytes pa (cfmtBytes fmt))))

/-- The first element of the n bytes from PA whose read does not match its residue: its distance. -/
def firstResidue (s : State) (fmt pa n : Nat) : Option Nat :=
  (s.residues.find? fun e => decide (pa < e.1 + cfmtBytes fmt) && decide (e.1 < pa + n) &&
    s.residueAt fmt e.1 ≠ residueOf fmt (leNat (s.mem.bytes e.1 (cfmtBytes fmt)))).map fun e => e.1 - pa

/-- The residues of the elements that a write of n bytes at PA touches are computed from the bytes. -/
def State.newResidues (s : State) (fmt pa n : Nat) : State :=
  { s with residues := s.residues.filter fun e => !(decide (pa < e.1 + cfmtBytes fmt) && decide (e.1 < pa + n)) }

/-! ## Cached translations (R364, R365) -/

/-- Whose cached translations an access may use: none for the device's own; the bench TLB for an operation; the micro-TLB of a core and its
bench's TLB for its A stream and array commands. -/
inductive Via where
  | device
  | bench (b : Nat)
  | core (k : Nat)
  deriving DecidableEq, Repr

/-- The leaf that a list of cached translations holds for a VA. -/
def heldLeaf (l : List TlbEntry) (fn : Nat) (va : W64) : Option W64 :=
  (l.find? fun t => t.fn = fn && decide (va.toNat / 2 ^ t.size = t.base.toNat / 2 ^ t.size)).map (·.leaf)

/-- The leaf that cached translations give an access; where two levels hold one, either may be used (assumption 1). -/
def cachedLeaf (s : State) (v : Via) (fn : Nat) (va : W64) : Option W64 :=
  match v with
  | .device => none
  | .bench b => heldLeaf (sget Bench.reset s.benches b).tlb fn va
  | .core k =>
    let d := sget Bench.reset s.benches (k / 4)
    match heldLeaf (sget [] d.utlb (k % 4)) fn va, heldLeaf d.tlb fn va with
    | some l, some m => if l ≠ m && (Config.free s.free).getLsbD 1 then some m else some l
    | some l, none => some l
    | none, m => m

/-- The leaf that an access uses: a cached one may be used, or walked afresh at any moment (R365; assumption 1). -/
def leafFor (s : State) (v : Via) (fn : Nat) (va : W64) : Walk :=
  let w := walk s fn va
  match cachedLeaf s v fn va with
  | none => w
  | some l =>
    match w with
    | .leaf pa e => if l ≠ e && (Config.free s.free).getLsbD 0 then .leaf pa l else w
    | .bad _ => if (Config.free s.free).getLsbD 0 then .leaf 0 l else w

/-- The entry of a frame ring that would be consumed next, if the ring is not empty (R368); an entry whose read meets a data error gives no
frame (DESIGN CHOICE, assumption 68). -/
def ringHead (s : State) (p k : Nat) : Option Nat :=
  let r := 0x002B1000 + 0x40 * p + 0x10 * k
  let prod := dcGet s (r + 8)
  let cons := dcGet s (r + 12)
  let b := dcGet64 s r
  let a := (b &&& 0x0000FFFFFFFF0000).toNat + 8 * (cons.toNat % 2 ^ (b &&& 0x1F).toNat)
  if prod = cons || (firstErr s.errs a 8).isSome then none else some (s.pa64 a).toNat

/-- A frame that ring k of a partition may hold: 64 KiB-aligned, of the ring's tier (R368). -/
def frameGood (k pa : Nat) : Bool := pa % 65536 = 0 && (if k = 0 then decide (pa < 2 ^ 39) else decide (2 ^ 47 ≤ pa && pa < 2 ^ 48))

/-- What a translation answers. -/
inductive Tr where
  | ok (pa : Nat) (e : W64)
  | wait
  | bad (code : Byte)
  deriving DecidableEq, Repr

/-- The partition whose rings and mode serve a function's pages (R368). -/
def ringPart (s : State) (fn : Nat) : Nat := (partOf s fn).getD 0

/-- A touch that moves a RESIDENT_POOL page to HBM before the access (R366): TOUCHIN, main mode, HFREE not empty. -/
def touchMoves (s : State) (fn : Nat) (e : W64) : Bool :=
  eState e = sPOOL && eTouch e && !eHost e && eSize e = 0 && !cachedMode s fn && (ringHead s (ringPart s fn) 0).isSome

/-- The translation of one VA for an access (R362, R364, R365): the permission check precedes the page's state. -/
def translate (s : State) (b : Via) (fn : Nat) (va : W64) (p : Perm) (fab : Bool) : Tr :=
  match leafFor s b fn va with
  | .bad c => .bad c
  | .leaf _ e =>
    let pa := eFrame e + va.toNat % 2 ^ pageBits e
    if !permits e p fab then .bad cPERM
    else if eState e = sABSENT || eState e = sMIGR || eState e = sREMOTE then .wait
    else if touchMoves s fn e then .wait
    else match (if eState e = sCOMP then rowFault s fn pa else none), paFault s pa with
      | some c, _ => .bad c
      | none, some c => .bad c
      | none, none => .ok pa e

/-- The key that the bytes of a page are stored under (R359, R427). -/
def leafKey (s : State) (fn : Nat) (e : W64) : Nat := if eState e = sCOMP || eHost e then plainKey else keyOf s fn

/-- What an access of several bytes answers: the bytes read, or the address that waits, or the fault. -/
inductive Rd where
  | ok (l : List Byte)
  | wait (va : W64)
  | bad (code : Byte) (va : W64)
  deriving DecidableEq, Repr

/-- The channel of a page, where it is COMPUTE. -/
def pageChannel (s : State) (fn : Nat) (va : W64) : Option Nat :=
  match walk s fn va with
  | .leaf _ e => if eState e = sCOMP then some (channelOf (eFrame e + va.toNat % 2 ^ pageBits e)) else none
  | .bad _ => none

/-- A residue mismatch of a COMPUTE page is counted by its stack (R372, R380). -/
def countResidue (s : State) (fn : Nat) (code : Byte) (va : W64) : State :=
  if code ≠ cRESIDUE then s
  else match pageChannel s fn va with
    | some ch => dcCount s (0x002B2008 + 0x800 * (ch / 384)) 1
    | none => s

/-- A read of scratchpad bytes meets a data error (R164, R245). -/
def spadErr (s : State) (core at_ n : Nat) : Bool := (firstErr (sget [] s.spadErrs core) at_ n).isSome

/-- What an access of n bytes of one page from PA meets in its rows: one that the function does not own (R373). -/
def pageRows (s : State) (fn : Nat) (e : W64) (pa n : Nat) : Option (Nat × Byte) := if eState e = sCOMP then firstRow s fn pa n else none

/-- What a read of n bytes of one page from PA meets, with its distance: a row (R373), a data error (R164, R245), a residue that does not
match (R372). -/
def pageErr (s : State) (fn : Nat) (e : W64) (pa n : Nat) : Option (Nat × Byte) :=
  match pageRows s fn e pa n, firstErr s.errs pa n with
  | some f, _ => some f
  | none, some f => some f
  | none, none => if eState e = sCOMP then (firstResidue s (eCfmt e) pa n).map fun d => (d, cRESIDUE) else none

/-- Reading n bytes from a VA, page by page; fuel bounds the pages. -/
def readFrom (s : State) (b : Via) (fn : Nat) (p : Perm) (fab : Bool) : Nat → W64 → Nat → Rd
  | 0, _, _ => .ok []
  | k + 1, va, n =>
    if n = 0 then .ok []
    else
      let here := min n (65536 - va.toNat % 65536)
      match translate s b fn va p fab with
      | .bad c => .bad c va
      | .wait => .wait va
      | .ok pa e =>
       match pageErr s fn e pa here with
       | some (d, c) => .bad c (va + BitVec.ofNat 64 d)
       | none =>
        let l := s.mem.readKey (leafKey s fn e) pa here
        if here = n then .ok l
        else match readFrom s b fn p fab k (va + BitVec.ofNat 64 here) (n - here) with
          | .ok l' => .ok (l ++ l')
          | r => r

/-- Reading n bytes of global memory (R163, R164). -/
def readVa (s : State) (b : Via) (fn : Nat) (va : W64) (n : Nat) : Rd := readFrom s b fn .rd false (n / 65536 + 2) va n

/-- Whether every page of a range passes; the first that does not answers. -/
def checkFrom (s : State) (b : Via) (fn : Nat) (p : Perm) (fab : Bool) : Nat → W64 → Nat → Rd
  | 0, _, _ => .ok []
  | k + 1, va, n =>
    if n = 0 then .ok []
    else
      let here := min n (65536 - va.toNat % 65536)
      match translate s b fn va p fab with
      | .bad c => .bad c va
      | .wait => .wait va
      | .ok pa e =>
        match pageRows s fn e pa here with
        | some (d, c) => .bad c (va + BitVec.ofNat 64 d)
        | none => if here = n then .ok [] else checkFrom s b fn p fab k (va + BitVec.ofNat 64 here) (n - here)

/-- The store of bytes whose pages have passed. -/
def storeFrom (s : State) (b : Via) (fn : Nat) (p : Perm) (fab : Bool) : Nat → W64 → List Byte → State
  | 0, _, _ => s
  | k + 1, va, l =>
    if l = [] then s
    else
      let here := min l.length (65536 - va.toNat % 65536)
      match translate s b fn va p fab with
      | .ok pa e =>
        let s := if eState e = sCOMP then s.newResidues (eCfmt e) pa here else s
        storeFrom (s.storeKey (leafKey s fn e) pa (l.take here)) b fn p fab k (va + BitVec.ofNat 64 here) (l.drop here)
      | _ => s

/-- What a write answers. -/
inductive Wr where
  | ok (s : State)
  | wait (va : W64)
  | bad (code : Byte) (va : W64)
  deriving DecidableEq, Repr

/-- A write under a permission, whole or not at all (R164, R165). -/
def writePerm (s : State) (b : Via) (fn : Nat) (p : Perm) (fab : Bool) (va : W64) (l : List Byte) : Wr :=
  let k := l.length / 65536 + 2
  match checkFrom s b fn p fab k va l.length with
  | .bad c v => .bad c v
  | .wait v => .wait v
  | .ok _ => .ok (storeFrom s b fn p fab k va l)

/-- Writing bytes of global memory (R163, R164). -/
def writeVa (s : State) (b : Via) (fn : Nat) (va : W64) (l : List Byte) : Wr := writePerm s b fn .wr false va l

/-- A page of a function that an earlier access of the device to a context's area waits for (R343). -/
def devWaits (s : State) (fn : Nat) (va : W64) (n : Nat) : Bool :=
  s.devQ.any fun e => e.fn = fn && match e.act with
    | .write a l => decide (a.toNat < va.toNat + n) && decide (va.toNat < a.toNat + l.length)
    | .merge a _ _ => decide (a.toNat < va.toNat + n) && decide (va.toNat ≤ a.toNat)
    | _ => false

/-- The device's own write into a context's area: a fault writes nothing and is not raised (R462); where the page is absent or moves, or an
earlier write to the same bytes waits, it waits (R164, R343). -/
def State.devWrite (s : State) (fn : Nat) (va : W64) (l : List Byte) : State :=
  let later (page : W64) : State := { s with devQ := s.devQ ++ [{ fn := fn, page := page, act := .write va l, failed := false }] }
  if devWaits s fn va l.length then later va
  else match writeVa s .device fn va l with
    | .ok s' => s'
    | .wait page => later page
    | .bad _ _ => s

/-- Writing one byte of which some bits stay. -/
def mergeVa (s : State) (fn : Nat) (va : W64) (keep bits : Byte) : Wr :=
  match readVa s .device fn va 1 with
  | .ok l => writeVa s .device fn va [(l.headD 0 &&& keep) ||| bits]
  | .wait page => .wait page
  | .bad c a => .bad c a

/-- The device's own write of some bits of a byte, under the same rules. -/
def State.devMerge (s : State) (fn : Nat) (va : W64) (keep bits : Byte) : State :=
  let later (page : W64) : State := { s with devQ := s.devQ ++ [{ fn := fn, page := page, act := .merge va keep bits, failed := false }] }
  if devWaits s fn va 1 then later va
  else match mergeVa s fn va keep bits with
    | .ok s' => s'
    | .wait page => later page
    | .bad _ _ => s

/-- The device's own read of a context's area; none where it faults. -/
def State.devRead (s : State) (fn : Nat) (va : W64) (n : Nat) : Option (List Byte) :=
  match readVa s .device fn va n with | .ok l => some l | _ => none

/-- Handing a frame back through RET; it stays held while RET is full (R368). -/
def ringReturn (s : State) (p : Nat) (pa : W64) : State :=
  let r := 0x002B1000 + 0x40 * p + 0x20
  let b := dcGet64 s r
  let n := 2 ^ (b &&& 0x1F).toNat
  let prod := dcGet s (r + 8)
  let cons := dcGet s (r + 12)
  if (prod - cons).toNat < n then
    dcPut (s.paStore ((b &&& 0x0000FFFFFFFF0000).toNat + 8 * (prod.toNat % n)) (leBytes 8 pa.toNat)) (r + 8) (prod + 1)
  else { s with heldFrames := s.heldFrames ++ [(p, pa)] }

/-- Advancing the device's index of HFREE or PFREE. -/
def ringAdvance (s : State) (p k : Nat) : State :=
  let r := 0x002B1000 + 0x40 * p + 0x10 * k + 12
  dcPut s r (dcGet s r + 1)

/-- Skipping the entries at a ring's head that no frame may be: each is consumed and given back (R368). -/
def ringSkip (s : State) (p k : Nat) : Nat → State
  | 0 => s
  | n + 1 =>
    match ringHead s p k with
    | some pa => if frameGood k pa then s else ringSkip (ringReturn (ringAdvance s p k) p (BitVec.ofNat 64 pa)) p k n
    | none => s

/-- Taking a frame from HFREE (k = 0) or PFREE (k = 1) (R368). -/
def ringTake (s : State) (p k : Nat) : State × Option W64 :=
  let s := ringSkip s p k (2 ^ 20)
  match ringHead s p k with
  | some pa => (ringAdvance s p k, some (BitVec.ofNat 64 pa))
  | none => (s, none)

end Sys2Proof.Machine
end

