-- ==== Sys2Proof/Machine/Num.lean ====
section
/-! DEFINITION. Machine/Num.lean: the number rules of spec/03 on exact values: formats (R63-R67), rounding (R73, R74),
narrowing (R71), arithmetic overflow (R72), square blocks (R70), generators (R76, R77), summation trees (R82, R273)
and the transcendental functions (R85-R88). -/

namespace Sys2Proof.Machine

/-- The floating-point formats of R63. -/
inductive FFmt where
  | f32 | f16 | bf16 | e4m3 | e5m2 | e2m1
  deriving DecidableEq, Repr

/-- Exponent bits (R63). -/
def FFmt.ebits : FFmt → Nat
  | .f32 => 8 | .f16 => 5 | .bf16 => 8 | .e4m3 => 4 | .e5m2 => 5 | .e2m1 => 2

/-- Fraction bits (R63). -/
def FFmt.fbits : FFmt → Nat
  | .f32 => 23 | .f16 => 10 | .bf16 => 7 | .e4m3 => 3 | .e5m2 => 2 | .e2m1 => 1

/-- Bias (R63). -/
def FFmt.bias : FFmt → Int
  | .f32 => 127 | .f16 => 15 | .bf16 => 127 | .e4m3 => 7 | .e5m2 => 15 | .e2m1 => 1

/-- Bits below the sign. -/
def FFmt.sbits (f : FFmt) : Nat := f.ebits + f.fbits

/-- The exponent of the smallest normal (R63). -/
def FFmt.emin (f : FFmt) : Int := 1 - f.bias

/-- The exponent of the spacing of the subnormal range (R63). -/
def FFmt.umin (f : FFmt) : Int := f.emin - f.fbits

/-- The largest finite code (R63). -/
def FFmt.maxCode : FFmt → Nat
  | .f32 => 0x7F7FFFFF | .f16 => 0x7BFF | .bf16 => 0x7F7F | .e4m3 => 0x7E | .e5m2 => 0x7B | .e2m1 => 0x7

/-- +∞ where the format has one (R63). -/
def FFmt.infCode : FFmt → Option Nat
  | .f32 => some 0x7F800000 | .f16 => some 0x7C00 | .bf16 => some 0x7F80 | .e5m2 => some 0x7C
  | .e4m3 => none | .e2m1 => none

/-- The canonical NaN where the format has NaN (R63, R65). -/
def FFmt.nanCode : FFmt → Option Nat
  | .f32 => some 0x7FC00000 | .f16 => some 0x7E00 | .bf16 => some 0x7FC0 | .e4m3 => some 0x7F | .e5m2 => some 0x7E
  | .e2m1 => none

/-- A code with its sign bit set as asked. -/
def FFmt.signed (f : FFmt) (neg : Bool) (mag : Nat) : Nat := if neg then mag + 2 ^ f.sbits else mag

/-- An exact value: NaN, an infinity, or (-1)^neg × m × 2^e, where m = 0 is a zero with its sign. -/
inductive Num where
  | nan
  | inf (neg : Bool)
  | fin (neg : Bool) (m : Nat) (e : Int)
  deriving DecidableEq, Repr

/-- +0. -/
def Num.zero : Num := .fin false 0 0

/-- An integer as an exact value. -/
def Num.ofInt (i : Int) : Num := .fin (decide (i < 0)) i.natAbs 0

/-- The value of a code (R63, R64). -/
def FFmt.value (f : FFmt) (code : Nat) : Num :=
  let mag := code % 2 ^ f.sbits
  let neg := code / 2 ^ f.sbits % 2 = 1
  let ex := mag / 2 ^ f.fbits
  let fr := mag % 2 ^ f.fbits
  let top := decide (ex = 2 ^ f.ebits - 1)
  if (match f with | .e4m3 => decide (mag = 0x7F) | .e2m1 => false | _ => top && decide (fr ≠ 0)) then .nan
  else if (match f with | .e4m3 | .e2m1 => false | _ => top) then .inf neg
  else if ex = 0 then .fin neg fr f.umin
  else .fin neg (2 ^ f.fbits + fr) (ex - f.bias - f.fbits)

/-- ⌊log2⌋ of m × 2^e for m > 0. -/
def expOf (m : Nat) (e : Int) : Int := Nat.log2 m + e

/-- |x| ÷ 2^u as k + r ÷ 2^s with r < 2^s (R73). -/
def splitAt2 (m : Nat) (e u : Int) : Nat × Nat × Nat :=
  if u ≤ e then (m * 2 ^ (e - u).toNat, 0, 0)
  else
    let s := (u - e).toNat
    (m / 2 ^ s, m % 2 ^ s, s)

/-- Whether the mode takes k + 1 (R73, R74); `draw` is the 24-bit r of the event's draw. -/
def roundsUp (rm : BitVec 2) (neg : Bool) (draw k r s : Nat) : Bool :=
  match rm.toNat with
  | 0 => decide (2 ^ s < 2 * r) || (decide (2 * r = 2 ^ s) && k % 2 = 1)
  | 1 => false
  | 2 => neg && decide (0 < r)
  | _ => decide (draw < r * 2 ^ 24 / 2 ^ s)

/-- The spacing exponent of the grid of f at |x| = m × 2^e (R73): exponent unbounded above, subnormals below. -/
def FFmt.grid (f : FFmt) (m : Nat) (e : Int) : Int :=
  if m = 0 then f.umin else max (expOf m e) f.emin - f.fbits

/-- m1 × 2^e1 compared with m2 × 2^e2. -/
def cmpMag (m1 : Nat) (e1 : Int) (m2 : Nat) (e2 : Int) : Ordering :=
  let lo := min e1 e2
  compare (m1 * 2 ^ (e1 - lo).toNat) (m2 * 2 ^ (e2 - lo).toNat)

/-- k × 2^u lies beyond the largest finite value of f. -/
def FFmt.beyond (f : FFmt) (k : Nat) (u : Int) : Bool :=
  match f.value f.maxCode with
  | .fin _ m e => cmpMag k u m e = .gt
  | _ => false

/-- The code of (-1)^neg × k × 2^u, a value of f. -/
def FFmt.code (f : FFmt) (neg : Bool) (k : Nat) (u : Int) : Nat :=
  f.signed neg <|
    if k = 0 then 0
    else
      let p := expOf k u
      if p < f.emin then (splitAt2 k u f.umin).1
      else (p + f.bias).toNat * 2 ^ f.fbits + (splitAt2 k u (p - f.fbits)).1 - 2 ^ f.fbits

/-- Arithmetic rounding (R73) with the overflow of R72: no saturation, canonical NaN (R65). -/
def FFmt.round (f : FFmt) (rm : BitVec 2) (draw : Nat) (x : Num) : Nat :=
  match x with
  | .nan => f.nanCode.getD f.maxCode
  | .inf neg => f.signed neg (f.infCode.getD f.maxCode)
  | .fin neg m e =>
    let u := f.grid m e
    let (k, r, s) := splitAt2 m e u
    let up := roundsUp rm neg draw k r s
    let k' := if up then k + 1 else k
    if f.beyond k' u then
      let inf := f.signed neg (f.infCode.getD f.maxCode)
      let top := f.signed neg f.maxCode
      match rm.toNat with
      | 0 => inf
      | 1 => top
      | 2 => if neg then inf else top
      | _ => if up then inf else top
    else f.code neg k' u

/-- The scalar types by T code (R38, R66): integers by sign and width, floats by format. -/
inductive NTy where
  | int (signed : Bool) (w : Nat)
  | flt (f : FFmt)
  deriving DecidableEq, Repr

/-- The type of a T code 0-13 (R38); i32 for the codes the caller has excluded. -/
def tyOf (t : Nat) : NTy :=
  match t with
  | 0 => .int true 8 | 1 => .int true 16 | 2 => .int true 32 | 3 => .int true 64
  | 4 => .int false 8 | 5 => .int false 16 | 6 => .int false 32 | 7 => .int false 64
  | 8 => .flt .f32 | 9 => .flt .bf16 | 10 => .flt .f16 | 11 => .flt .e4m3 | 12 => .flt .e5m2 | 13 => .flt .e2m1
  | _ => .int true 32

/-- Bits of a type. -/
def NTy.bits : NTy → Nat
  | .int _ w => w
  | .flt f => f.sbits + 1

/-- The two's-complement reading of the low w bits. -/
def intOf (signed : Bool) (w code : Nat) : Int :=
  let c := code % 2 ^ w
  if signed && decide (2 ^ (w - 1) ≤ c) then (c : Int) - 2 ^ w else c

/-- The low w bits of an integer. -/
def wrapInt (w : Nat) (i : Int) : Nat := (i % 2 ^ w).toNat

/-- The value of a code of a type; upper bits are ignored (R116, R129). -/
def NTy.value : NTy → Nat → Num
  | .int sg w, c => .ofInt (intOf sg w c)
  | .flt f, c => f.value (c % 2 ^ (f.sbits + 1))

/-- What a conversion yields: the code and whether it counts a saturation event and a NaN event. -/
structure Narrowed where
  code : Nat
  sat : Bool
  nan : Bool
  deriving DecidableEq, Repr

/-- The range of an integer type (R66). -/
def intMin (signed : Bool) (w : Nat) : Int := if signed then -(2 ^ (w - 1) : Int) else 0
/-- The range of an integer type (R66). -/
def intMax (signed : Bool) (w : Nat) : Int := if signed then 2 ^ (w - 1) - 1 else 2 ^ w - 1

/-- narrow(x, fmt, rm, lane, slot) (R71), with the draw given (R74). -/
def narrow (ty : NTy) (rm : BitVec 2) (draw : Nat) (x : Num) : Narrowed :=
  match ty, x with
  | .flt f, .nan =>
    match f.nanCode with
    | some c => { code := c, sat := false, nan := false }
    | none => { code := f.maxCode, sat := true, nan := true }
  | .flt f, .inf neg =>
    match f.infCode with
    | some c => { code := f.signed neg c, sat := false, nan := false }
    | none => { code := f.signed neg f.maxCode, sat := true, nan := false }
  | .flt f, .fin neg m e =>
    let u := f.grid m e
    let (k, r, s) := splitAt2 m e u
    let k' := if roundsUp rm neg draw k r s then k + 1 else k
    if f.beyond k' u then { code := f.signed neg f.maxCode, sat := true, nan := false }
    else { code := f.code neg k' u, sat := false, nan := false }
  | .int sg w, .nan => { code := wrapInt w (intMax sg w), sat := true, nan := true }
  | .int sg w, .inf neg => { code := wrapInt w (if neg then intMin sg w else intMax sg w), sat := true, nan := false }
  | .int sg w, .fin neg m e =>
    let (k, r, s) := splitAt2 m e 0
    let k' : Int := if roundsUp rm neg draw k r s then k + 1 else k
    let v := if neg then -k' else k'
    if v < intMin sg w then { code := wrapInt w (intMin sg w), sat := true, nan := false }
    else if intMax sg w < v then { code := wrapInt w (intMax sg w), sat := true, nan := false }
    else { code := wrapInt w v, sat := false, nan := false }

/-! ## Exact arithmetic -/

/-- m × 2^e as an integer over 2^lo. -/
def scaled (neg : Bool) (m : Nat) (e lo : Int) : Int :=
  let v : Int := m * 2 ^ (e - lo).toNat
  if neg then -v else v

/-- The exact sum; an exact zero takes the IEEE sign, −0 under RD (R65, R72). -/
def Num.add (rd : Bool) : Num → Num → Num
  | .nan, _ => .nan
  | _, .nan => .nan
  | .inf a, .inf b => if a = b then .inf a else .nan
  | .inf a, _ => .inf a
  | _, .inf b => .inf b
  | .fin a m e, .fin b n g =>
    let lo := min e g
    let s := scaled a m e lo + scaled b n g lo
    if s = 0 then .fin (if m = 0 ∧ n = 0 ∧ a = b then a else rd) 0 0
    else .fin (decide (s < 0)) s.natAbs lo

/-- Negation. -/
def Num.neg : Num → Num
  | .nan => .nan
  | .inf a => .inf !a
  | .fin a m e => .fin (!a) m e

/-- The exact product. -/
def Num.mul : Num → Num → Num
  | .nan, _ => .nan
  | _, .nan => .nan
  | .inf a, .inf b => .inf (a != b)
  | .inf a, .fin b n _ => if n = 0 then .nan else .inf (a != b)
  | .fin a m _, .inf b => if m = 0 then .nan else .inf (a != b)
  | .fin a m e, .fin b n g => .fin (a != b) (m * n) (e + g)

/-- The quotient with a sticky bit far below every grid, so that it rounds as the exact quotient (R88). -/
def Num.div : Num → Num → Num
  | .nan, _ => .nan
  | _, .nan => .nan
  | .inf _, .inf _ => .nan
  | .inf a, .fin b _ _ => .inf (a != b)
  | .fin a _ _, .inf b => .fin (a != b) 0 0
  | .fin a m e, .fin b n g =>
    if n = 0 then (if m = 0 then .nan else .inf (a != b))
    else
      let s := 80 + Nat.log2 n - min (Nat.log2 m) (Nat.log2 n)
      let q := m * 2 ^ s / n
      .fin (a != b) (2 * q + if m * 2 ^ s % n = 0 then 0 else 1) (e - g - s - 1)

/-- ⌊√n⌋ found bit by bit from bit b down. -/
def isqrtFrom (n : Nat) : Nat → Nat → Nat
  | 0, r => if (r + 1) * (r + 1) ≤ n then r + 1 else r
  | b + 1, r =>
    let r' := r + 2 ^ (b + 1)
    isqrtFrom n b (if r' * r' ≤ n then r' else r)

/-- ⌊√n⌋. -/
def isqrt (n : Nat) : Nat := isqrtFrom n (Nat.log2 n / 2 + 1) 0

/-- The square root with a sticky bit (R88). -/
def Num.sqrt : Num → Num
  | .nan => .nan
  | .inf neg => if neg then .nan else .inf false
  | .fin neg m e =>
    if m = 0 then .fin neg 0 0
    else if neg then .nan
    else
      let s : Nat := if e % 2 = 0 then 160 else 161
      let n := m * 2 ^ s
      let r := isqrt n
      .fin false (2 * r + if r * r = n then 0 else 1) ((e - s) / 2 - 1)

/-- The ordering of two values, none with a NaN (R115). −0 equals +0. -/
def Num.cmp : Num → Num → Option Ordering
  | .nan, _ => none
  | _, .nan => none
  | .inf a, .inf b => some (if a = b then .eq else if a then .lt else .gt)
  | .inf a, _ => some (if a then .lt else .gt)
  | _, .inf b => some (if b then .gt else .lt)
  | .fin a m e, .fin b n g =>
    let lo := min e g
    some (compare (scaled a m e lo) (scaled b n g lo))

/-- Multiplying by 2^k. -/
def Num.scale2 (x : Num) (k : Int) : Num :=
  match x with
  | .fin a m e => .fin a m (e + k)
  | y => y

/-! ## f32 operations -/

/-- An f32 register as a value. -/
def f32v (x : W32) : Num := FFmt.f32.value x.toNat

/-- Rounding to f32 under RM with the given draw. -/
def toF32 (rm : BitVec 2) (draw : Nat) (x : Num) : W32 := BitVec.ofNat 32 (FFmt.f32.round rm draw x)

/-- The f32 sum (R114). -/
def fadd (rm : BitVec 2) (draw : Nat) (a b : W32) : W32 := toF32 rm draw ((f32v a).add (rm = 2) (f32v b))
/-- The f32 difference (R114). -/
def fsub (rm : BitVec 2) (draw : Nat) (a b : W32) : W32 := toF32 rm draw ((f32v a).add (rm = 2) (f32v b).neg)
/-- The f32 product (R114). -/
def fmul (rm : BitVec 2) (draw : Nat) (a b : W32) : W32 := toF32 rm draw ((f32v a).mul (f32v b))
/-- a × b + c rounded once (R114). -/
def ffma (rm : BitVec 2) (draw : Nat) (a b c : W32) : W32 :=
  toF32 rm draw (((f32v a).mul (f32v b)).add (rm = 2) (f32v c))
/-- The correctly rounded quotient (R88). -/
def fdiv (rm : BitVec 2) (draw : Nat) (a b : W32) : W32 := toF32 rm draw ((f32v a).div (f32v b))
/-- The correctly rounded square root (R88). -/
def fsqrt (rm : BitVec 2) (draw : Nat) (a : W32) : W32 := toF32 rm draw (f32v a).sqrt

/-- f32 sum under RNE. -/
def addR (a b : W32) : W32 := fadd 0 0 a b
/-- f32 product under RNE. -/
def mulR (a b : W32) : W32 := fmul 0 0 a b

/-- The canonical f32 NaN (R63). -/
def f32NaN : W32 := 0x7FC00000
/-- An f32 result that arithmetic passes on without rounding: a NaN becomes the canonical one (R65). -/
def oneNaN (x : W32) : W32 := if f32v x = .nan then f32NaN else x

/-- The smaller or larger (R114): −0 below +0, a NaN yields to the other operand, two NaNs give the canonical NaN. -/
def fminmax (mx : Bool) (a b : W32) : W32 :=
  match f32v a, f32v b with
  | .nan, .nan => f32NaN
  | .nan, _ => b
  | _, .nan => a
  | x, y =>
    match x.cmp y with
    | some .lt => if mx then b else a
    | some .gt => if mx then a else b
    | _ => if (a.msb != mx) then a else b

/-- Whether a condition code 0-7 holds of an ordering (R112, R115). -/
def condHolds (c : Nat) (o : Option Ordering) : Bool :=
  match c with
  | 0 => o = some .eq
  | 1 => !(o = some .eq)
  | 2 => o = some .lt
  | 3 => o = some .lt || o = some .eq
  | 4 => o = some .gt
  | 5 => o = some .gt || o = some .eq
  | 6 => o = none
  | _ => !(o = none)

/-- The class bit of a code (R115). -/
def classBit (f : FFmt) (code : Nat) : Nat :=
  match f.value (code % 2 ^ (f.sbits + 1)) with
  | .nan => 8
  | .inf neg => if neg then 0 else 7
  | .fin neg m e =>
    if m = 0 then (if neg then 3 else 4)
    else if expOf m e < f.emin then (if neg then 2 else 5)
    else if neg then 1 else 6

/-! ## Summation trees (R82, R210, R273) -/

/-- One level: neighbours combined. -/
def treeLevel {α : Type} (op : α → α → α) : List α → List α
  | a :: b :: l => op a b :: treeLevel op l
  | l => l

/-- Levels until one value is left; `fuel` bounds them. -/
def treeRun {α : Type} (op : α → α → α) : Nat → List α → List α
  | 0, l => l
  | n + 1, l => treeRun op n (treeLevel op l)

/-- ⌈log2 n⌉. -/
def log2Up (n : Nat) : Nat := if n ≤ 1 then 0 else Nat.log2 (n - 1) + 1

/-- The pairwise tree over a list padded with the identity to the next power of two. -/
def tree {α : Type} (op : α → α → α) (unit : α) (l : List α) : α :=
  let k := log2Up l.length
  (treeRun op k (l ++ List.replicate (2 ^ k - l.length) unit)).headD unit

/-! ## Generators (R76, R77) -/

/-- One advance of a generator's state (R76). -/
def genNext (x : W32) : W32 :=
  let x := x ^^^ (x <<< 13)
  let x := x ^^^ (x >>> 17)
  x ^^^ (x <<< 5)

/-- A draw's r from the new state (R76). -/
def genR (x : W32) : Nat := (x >>> 8).toNat

/-- A draw from generator i of a set: r and the set after it. -/
def drawGen (gens : List W32) (i : Nat) : Nat × List W32 :=
  let x := genNext (gens.getD i 1)
  (genR x, gens.set i x)

/-- A draw where the mode is SR; no draw otherwise (R74). -/
def drawIf (rm : BitVec 2) (gens : List W32) (i : Nat) : Nat × List W32 :=
  if rm = 3 then drawGen gens i else (0, gens)

/-! ## Square blocks (R69, R70) -/

/-- emax of an MX element format (R70). -/
def emaxOf : FFmt → Int
  | .e4m3 => 8 | .e5m2 => 15 | _ => 2

/-- The result of quantising one block: the scale, the codes and the events. -/
structure Block where
  scale : Byte
  codes : List Byte
  sats : Nat
  nans : Nat
  deriving DecidableEq, Repr

/-- |b| of a finite value as m × 2^e. -/
def Num.mag : Num → Nat × Int
  | .fin _ m e => (m, e)
  | _ => (0, 0)

/-- The larger of two magnitudes. -/
def magMax (a b : Nat × Int) : Nat × Int := if cmpMag a.1 a.2 b.1 b.2 = .lt then b else a

/-- Whether an exact value is finite. -/
def Num.isFin : Num → Bool
  | .fin .. => true
  | _ => false

/-- Whether R70 makes the block NaN, in which case no lane draws. -/
def blockBad (b : List Num) : Bool := b.any fun x => !x.isFin

/-- The exponent X of a block of finite values (R70). -/
def blockX (fmt : FFmt) (b : List Num) : Int :=
  let (m, e) := b.foldl (fun a x => magMax a x.mag) (0, 0)
  if m = 0 then -127 else min (max (expOf m e - emaxOf fmt) (-127)) 127

/-- Quantising 64 exact values into one block (R70), with one draw per lane in `draws` under SR. -/
def quantBlock (fmt : FFmt) (rm : BitVec 2) (draws : List Nat) (b : List Num) : Block :=
  if blockBad b then
    { scale := 0xFF, codes := b.map fun _ => 0, sats := (b.filter fun x => !x.isFin).length,
      nans := (b.filter fun x => x = .nan).length }
  else
    let x := blockX fmt b
    let r := (b.zipIdx).map fun (v, i) => narrow (.flt fmt) rm (draws.getD i 0) (v.scale2 (-x))
    { scale := BitVec.ofInt 8 (x + 127), codes := r.map fun n => BitVec.ofNat 8 n.code,
      sats := (r.filter (·.sat)).length, nans := (r.filter (·.nan)).length }

/-- An element under its scale (R67, R70): NaN where the scale is 0xFF. -/
def dequant (fmt : FFmt) (scale : Byte) (code : Nat) : Num :=
  if scale = 0xFF then .nan
  else (fmt.value (code % 2 ^ (fmt.sbits + 1))).scale2 ((scale.toNat : Int) - 127)

/-! ## Transcendental functions (R85-R88) -/

/-- EXT[i], nearest integer to 2^(i/64) x 2^30 (R85). -/
def extTab : List Nat :=
  [1073741824, 1085434106, 1097253708, 1109202018, 1121280436, 1133490379, 1145833280, 1158310587] ++
  [1170923762, 1183674286, 1196563654, 1209593378, 1222764986, 1236080024, 1249540052, 1263146652] ++
  [1276901417, 1290805962, 1304861917, 1319070932, 1333434672, 1347954824, 1362633090, 1377471191] ++
  [1392470869, 1407633882, 1422962010, 1438457051, 1454120821, 1469955159, 1485961921, 1502142985] ++
  [1518500250, 1535035634, 1551751076, 1568648537, 1585730000, 1602997467, 1620452965, 1638098541] ++
  [1655936265, 1673968228, 1692196547, 1710623359, 1729250827, 1748081133, 1767116489, 1786359126] ++
  [1805811301, 1825475297, 1845353420, 1865448001, 1885761398, 1906295993, 1927054196, 1948038440] ++
  [1969251188, 1990694927, 2012372174, 2034285470, 2056437387, 2078830522, 2101467502, 2124350982]

/-- KT[i], nearest integer to 2^30 / (1 + i/64) (R85). -/
def ktTab : List Nat :=
  [1073741824, 1057222719, 1041204193, 1025663832, 1010580540, 995934445, 981706811, 967879954] ++
  [954437177, 941362695, 928641578, 916259690, 904203641, 892460737, 881018933, 869866794] ++
  [858993459, 848388602, 838042399, 827945503, 818089009, 808464432, 799063683, 789879043] ++
  [780903145, 772128952, 763549742, 755159085, 746950834, 738919105, 731058263, 723362913] ++
  [715827883, 708448214, 701219150, 694136129, 687194767, 680390859, 673720360, 667179386] ++
  [660764199, 654471207, 648296950, 642238100, 636291451, 630453915, 624722516, 619094385] ++
  [613566757, 608136962, 602802428, 597560667, 592409282, 587345955, 582368447, 577474594] ++
  [572662306, 567929560, 563274399, 558694933, 554189329, 549755814, 545392673, 541098242]

/-- LT[i], nearest integer to log2(1 + i/64) x 2^30 (R85). -/
def ltTab : List Nat :=
  [0, 24017256, 47667823, 70962728, 93912511, 116527248, 138816582, 160789745] ++
  [182455581, 203822568, 224898839, 245692198, 266210141, 286459867, 306448299, 326182095] ++
  [345667660, 364911162, 383918542, 402695523, 421247625, 439580170, 457698295, 475606957] ++
  [493310944, 510814882, 528123241, 545240343, 562170370, 578917365, 595485245, 611877800] ++
  [628098702, 644151509, 660039669, 675766525, 691335320, 706749198, 722011213, 737124328] ++
  [752091421, 766915285, 781598637, 796144114, 810554283, 824831638, 838978604, 852997541] ++
  [866890747, 880660455, 894308843, 907838029, 921250079, 934547002, 947730758, 960803257] ++
  [973766362, 986621888, 999371606, 1012017244, 1024560487, 1037002979, 1049346328, 1061592099]

/-- QE[i], nearest integer to (1 + i/64)^(-1/2) x 2^30 (R85). -/
def qeTab : List Nat :=
  [1073741824, 1065450257, 1057347856, 1049427536, 1041682578, 1034106604, 1026693558, 1019437682] ++
  [1012333500, 1005375799, 998559613, 991880210, 985333074, 978913898, 972618566, 966443148] ++
  [960383883, 954437177, 948599586, 942867814, 937238702, 931709222, 926276469, 920937655] ++
  [915690104, 910531246, 905458609, 900469818, 895562589, 890734723, 885984104, 881308694] ++
  [876706528, 872175715, 867714429, 863320910, 858993459, 854730438, 850530263, 846391405] ++
  [842312387, 838291779, 834328203, 830420321, 826566842, 822766514, 819018128, 815320510] ++
  [811672525, 808073073, 804521086, 801015531, 797555404, 794139734, 790767575, 787438013] ++
  [784150157, 780903145, 777696137, 774528319, 771398898, 768307107, 765252196, 762233438]

/-- QO[i], nearest integer to (2 + i/32)^(-1/2) x 2^30 (R85). -/
def qoTab : List Nat :=
  [759250125, 753387102, 747657839, 742057327, 736580814, 731223792, 725981977, 720851298] ++
  [715827883, 710908045, 706088274, 701365222, 696735698, 692196655, 687745184, 683378504] ++
  [679093957, 674889000, 670761200, 666708225, 662727842, 658817909, 654976372, 651201261] ++
  [647490682, 643842818, 640255922, 636728315, 633258380, 629844563, 626485368, 623179354] ++
  [619925131, 616721362, 613566757, 610460069, 607400100, 604385689, 601415717, 598489102] ++
  [595604800, 592761802, 589959130, 587195840, 584471019, 581783781, 579133272, 576518662] ++
  [573939147, 571393950, 568882316, 566403514, 563956835, 561541591, 559157115, 556802759] ++
  [554477894, 552181909, 549914212, 547674226, 545461392, 543275165, 541115017, 538980433]


/-- ln 2 × 2^30 (R85). -/
def constC1 : Nat := 744261118
/-- (ln 2)² ÷ 2 × 2^30 (R85). -/
def constC2 : Nat := 257941248
/-- 2^30 ÷ ln 2 (R85). -/
def constA1 : Nat := 1549082005
/-- 2^29 ÷ ln 2 (R85). -/
def constA2 : Nat := 774541002

/-- `vexp2` (R86). -/
def vexp2 (x : W32) : W32 :=
  match f32v x with
  | .nan => f32NaN
  | .inf neg => if neg then 0 else 0x7F800000
  | .fin neg m e =>
    if !neg && cmpMag m e 128 0 ≠ .lt && m ≠ 0 then 0x7F800000
    else if neg && cmpMag m e 160 0 ≠ .lt then 0
    else
      -- x as an integer over 2^149, so that ⌊x⌋ and the fraction are exact
      let v : Int := scaled neg m e (-149)
      let n := v / 2 ^ 149
      let f := (v % 2 ^ 149).toNat
      if f = 0 then toF32 0 0 (.fin false 1 n)
      else
        let ff := f * 2 ^ 30 / 2 ^ 149
        let i := ff / 2 ^ 24
        let d := ff % 2 ^ 24
        let mm := 2 ^ 30 + d * constC1 / 2 ^ 30 + d * d * constC2 / 2 ^ 60
        let k := min (extTab.getD i 0 * mm / 2 ^ 30) (2 ^ 31 - 1)
        toF32 0 0 (.fin false k (n - 30))

/-- The reduction |x| = (1 + G ÷ 2^23) × 2^e of R87: i, d, S and e. -/
def reduce87 (m : Nat) (e : Int) : Nat × Nat × Int :=
  let p := Nat.log2 m
  let g := m * 2 ^ (23 - min p 23) - 2 ^ 23
  let i := g / 2 ^ 17
  let d := g % 2 ^ 17
  (i, d * ktTab.getD i 0 / 2 ^ 23, p + e)

/-- `vlog2` (R87). -/
def vlog2 (x : W32) : W32 :=
  match f32v x with
  | .nan => f32NaN
  | .inf neg => if neg then f32NaN else 0x7F800000
  | .fin neg m e =>
    if m = 0 then 0xFF800000
    else if neg then f32NaN
    else
      let (i, s, ex) := reduce87 m e
      let q : Int := (ltTab.getD i 0 : Int) + (s * constA1 / 2 ^ 30 : Nat) - (s * s * constA2 / 2 ^ 60 : Nat)
      let v := ex * 2 ^ 30 + q
      toF32 0 0 (.fin (decide (v < 0)) v.natAbs (-30))

/-- `vrcp` (R87). -/
def vrcp (x : W32) : W32 :=
  match f32v x with
  | .nan => f32NaN
  | .inf neg => if neg then 0x80000000 else 0
  | .fin neg m e =>
    if m = 0 then (if neg then 0xFF800000 else 0x7F800000)
    else
      let (i, s, ex) := reduce87 m e
      let u := 2 ^ 30 - s + s * s / 2 ^ 30
      toF32 0 0 (.fin neg (ktTab.getD i 0 * u / 2 ^ 30) (-30 - ex))

/-- `vrsqrt` (R87). -/
def vrsqrt (x : W32) : W32 :=
  match f32v x with
  | .nan => f32NaN
  | .inf neg => if neg then f32NaN else 0
  | .fin neg m e =>
    if m = 0 then (if neg then 0xFF800000 else 0x7F800000)
    else if neg then f32NaN
    else
      let (i, s, ex) := reduce87 m e
      let u := 2 ^ 30 - s / 2 + 3 * s * s / 2 ^ 33
      if ex % 2 = 0 then toF32 0 0 (.fin false (qeTab.getD i 0 * u / 2 ^ 30) (-30 - ex / 2))
      else toF32 0 0 (.fin false (qoTab.getD i 0 * u / 2 ^ 30) (-30 - (ex - 1) / 2))

/-! ## Element types of tiles, records and arrays (R38) -/

/-- An ET code: the scalar type of its elements and whether it carries square-block scales. -/
def etTy (et : Nat) : NTy × Bool :=
  match et with
  | 0x10 => (.flt .e4m3, true)
  | 0x11 => (.flt .e5m2, true)
  | 0x12 => (.flt .e2m1, true)
  | t => (tyOf t, false)

/-- Whether an ET code is assigned (R38). -/
def etAssigned (et : Nat) : Bool :=
  [0, 1, 2, 4, 5, 6, 8, 9, 0xA, 0xB, 0xC, 0xD, 0x10, 0x11, 0x12].contains et

/-- Bits of an element of an ET code. -/
def etBits (et : Nat) : Nat := (etTy et).1.bits

/-- Bytes of `cols` packed elements of an ET code (R200, R291). -/
def rowBytes (et cols : Nat) : Nat := (cols * etBits et + 7) / 8

end Sys2Proof.Machine
end

