-- ==== Sys2Proof/Machine/Ops.lean ====
section
/-! DEFINITION. Machine/Ops.lean: the named operations every meaning shares: the parts of the state, token queues
(R99-R103), result delivery (R96, R97, R153), the halt line (R344), events (R346), saturation slots (R80), messages
handed to the connections (R385), and the issue of a word (R37, R58, R90-R92, R102). -/

namespace Sys2Proof.Machine

/-! ## Parts of the state -/

/-- Core k. -/
def State.getC (s : State) (k : Nat) : Core := sget Core.reset s.cores k
/-- Replacing core k. -/
def State.putC (s : State) (k : Nat) (c : Core) : State := { s with cores := sput s.cores k c }
/-- Changing core k. -/
def State.modC (s : State) (k : Nat) (f : Core → Core) : State := s.putC k (f (s.getC k))
/-- The core whose word executes. -/
def State.core (s : State) : Core := s.getC s.cur
/-- Replacing the core whose word executes. -/
def State.setCore (s : State) (c : Core) : State := s.putC s.cur c
/-- Bench b. -/
def State.getB (s : State) (b : Nat) : Bench := sget Bench.reset s.benches b
/-- Changing bench b. -/
def State.modB (s : State) (b : Nat) (f : Bench → Bench) : State := { s with benches := sput s.benches b (f (s.getB b)) }
/-- Context x. -/
def State.getX (s : State) (x : Nat) : Ctx := sget Ctx.reset s.ctxs x
/-- Changing context x. -/
def State.modX (s : State) (x : Nat) (f : Ctx → Ctx) : State := { s with ctxs := sput s.ctxs x (f (s.getX x)) }
/-- Palette engine e. -/
def State.getE (s : State) (e : Nat) : Engine := sget Engine.reset s.engines e
/-- Changing palette engine e. -/
def State.modE (s : State) (e : Nat) (f : Engine → Engine) : State := { s with engines := sput s.engines e (f (s.getE e)) }
/-- A slot of a context's operation table; none where no operation was ever created in it. -/
def State.getO (s : State) (x slot : Nat) : Option Op := sfind (s.getX x).ops slot
/-- Replacing an operation. -/
def State.putO (s : State) (x slot : Nat) (o : Op) : State := s.modX x fun c => { c with ops := sput c.ops slot o }
/-- Changing an operation that exists. -/
def State.modO (s : State) (x slot : Nat) (f : Op → Op) : State :=
  match s.getO x slot with | some o => s.putO x slot (f o) | none => s
/-- Queue q of a context. -/
def State.getQ (s : State) (x q : Nat) : Queue := sget Queue.reset (s.getX x).queues q
/-- Changing queue q of a context. -/
def State.modQ (s : State) (x q : Nat) (f : Queue → Queue) : State :=
  s.modX x fun c => { c with queues := sput c.queues q (f (sget Queue.reset c.queues q)) }

/-- Core clocks since cold reset (R124, R244, R345, R346). -/
def State.coldClock (s : State) : Nat := s.clock0 + s.now

/-- A fresh free value (assumption 1) and the state that has drawn it. -/
def State.draw (s : State) : W64 × State := (Config.free s.free, { s with free := s.free + 1 })

/-- The clocks that something takes which began at a clock, where the spec gives only the most that it may take: a free value
between 1 and that bound (assumption 14). -/
def atMost (bound since unit : Nat) : Nat := 1 + Config.delay since unit % bound

/-- A stream of a core. -/
def Core.str (c : Core) : StreamId → Stream
  | .S => c.s | .V => c.v | .A => c.a | .X => c.x

/-- Replacing a stream of a core. -/
def Core.setStr (c : Core) (st : StreamId) (m : Stream) : Core :=
  match st with
  | .S => { c with s := m } | .V => { c with v := m } | .A => { c with a := m } | .X => { c with x := m }

/-- Changing a stream of a core. -/
def Core.modStr (c : Core) (st : StreamId) (f : Stream → Stream) : Core := c.setStr st (f (c.str st))

/-- Stream numbers (R100). -/
def streamNo : StreamId → Nat | .S => 0 | .V => 1 | .A => 2 | .X => 3

/-- The other streams, bit 0 of POP and PUSH first (R29). -/
def otherStreams : StreamId → List StreamId
  | .S => [.V, .A, .X] | .V => [.S, .A, .X] | .A => [.S, .V, .X] | .X => [.S, .V, .A]

/-- The bench of a core (R14). -/
def benchOf (k : Nat) : Nat := k / 4
/-- The die of a bench (R14). -/
def dieOf (b : Nat) : Nat := b / 48

/-- A stream that may issue words (R89). -/
def StreamSt.live : StreamSt → Bool | .aligned | .frozen | .blocked => true | _ => false
/-- A stream that has ended (R103, R160). -/
def StreamSt.ended : StreamSt → Bool | .stopped | .halted => true | _ => false
/-- State codes of DBGSTAT and of stop records (R126). -/
def StreamSt.code : StreamSt → Nat
  | .idle => 0 | .aligned => 1 | .frozen => 2 | .blocked => 3 | .stopped => 4 | .halted => 5

/-- A kernel instance of a context. -/
def Ctx.inst? (c : Ctx) (k : InstKey) : Option Inst := (c.insts.find? fun e => e.1 = k).map (·.2)

/-- Changing a kernel instance. -/
def State.modInst (s : State) (k : InstKey) (f : Inst → Inst) : State :=
  s.modX k.ctx fun c => { c with insts := c.insts.map fun e => if e.1 = k then (e.1, f e.2) else e }

/-- The context that holds a core. -/
def Core.ctx (c : Core) : Nat := match c.inst with | some k => k.ctx | none => 0

/-- The instance of a core. -/
def State.coreInst (s : State) (c : Core) : Option Inst := c.inst.bind fun k => (s.getX k.ctx).inst? k

/-- The function of a core's context. -/
def State.coreFn (s : State) (c : Core) : Nat := (s.getX c.ctx).fn

/-- SERVICE of the segment a core runs (R51). -/
def State.coreService (s : State) (c : Core) : Bool :=
  match s.coreInst c with | some i => field i.header 6 2 % 2 = 1 | none => false

/-! ## Performance counters (R125) -/

/-- Counting an event in every counter that selects it. -/
def Core.pmcAdd (c : Core) (ev n : Nat) : Core :=
  if n = 0 then c
  else { c with pmc := (c.pmc.zip c.pmsel).map fun (v, e) => if e.toNat = ev && ev ≠ 0 then v + BitVec.ofNat 32 n else v }

/-! ## Token queues (R99-R103) -/

/-- The queues that a POP or PUSH field names (R29, R100). -/
def tokenQueues (st : StreamId) (pop : Bool) (bits : BitVec 3) : List Nat :=
  ((otherStreams st).zipIdx.filter fun e => bits.getLsbD e.2).map fun e =>
    if pop then 4 * streamNo e.1 + streamNo st else 4 * streamNo st + streamNo e.1

/-- Tokens that earlier words will push onto queue q and have not pushed (R102). -/
def Core.pending (c : Core) (q : Nat) : Nat :=
  (c.flight.filter fun f => (tokenQueues f.stream false f.tokens).contains q).length

/-- Whether a word's tokens let it start (R102, R103). -/
inductive TokState where
  | ok
  | absent
  | dead (q : Nat)
  | full
  deriving DecidableEq, Repr

/-- The producing stream of queue q (R100). -/
def queueProducer (q : Nat) : StreamId := match q / 4 with | 0 => .S | 1 => .V | 2 => .A | _ => .X

/-- The token condition of a word (R102, R103). -/
def Core.tokState (c : Core) (st : StreamId) (h : Hdr) : TokState :=
  match (tokenQueues st true h.pop).find? fun q => sget 0 c.tokens q = 0 && (c.str (queueProducer q)).st.ended with
  | some q => .dead q
  | none =>
    if (tokenQueues st true h.pop).any fun q => sget 0 c.tokens q = 0 then .absent
    else if (tokenQueues st false h.push).any fun q => 8 ≤ sget 0 c.tokens q + c.pending q then .full
    else .ok

/-- Taking a word's POP tokens (R101). -/
def Core.popTokens (c : Core) (st : StreamId) (h : Hdr) : Core :=
  { c with tokens := (tokenQueues st true h.pop).foldl (fun m q => sset 0 m q (sget 0 m q - 1)) c.tokens }

/-- Adding a word's PUSH tokens (R101). -/
def Core.addTokens (c : Core) (st : StreamId) (bits : BitVec 3) : Core :=
  { c with tokens := (tokenQueues st false bits).foldl (fun m q => sset 0 m q (sget 0 m q + 1)) c.tokens }

/-! ## Registers and result delivery (R95-R97, R153) -/

/-- Named scalar n. -/
def Core.reg (c : Core) (n : Nat) : Reg := sget Reg.reset c.named n
/-- Writing named scalar n; it becomes valid (R98). -/
def Core.setReg (c : Core) (n : Nat) (v : W32) : Core := { c with named := sput c.named n { val := v, valid := true } }
/-- Writing `w` named scalars from n, lowest first (R34). -/
def Core.setRegs (c : Core) (n : Nat) : Nat → W128 → Core
  | 0, _ => c
  | w + 1, v => (c.setReg n (v.setWidth 32)).setRegs (n + 1) w (v >>> 32)
/-- The `w` named scalars from n as one value. -/
def Core.regs (c : Core) (n : Nat) : Nat → W128
  | 0 => 0
  | w + 1 => (c.regs (n + 1) w <<< 32) ||| (c.reg n).val.setWidth 128
/-- Every one of the `w` named scalars from n is valid. -/
def Core.regsValid (c : Core) (n w : Nat) : Bool := (List.range w).all fun i => (c.reg (n + i)).valid

/-- Vector register n. -/
def Core.vec (c : Core) (n : Nat) : VReg := sget VReg.reset c.vecs n
/-- Lane i of a vector register. -/
def VReg.lane (v : VReg) (i : Nat) : W32 := v.lanes.getD i 0
/-- Writing the lanes of a vector register that the mask selects. -/
def Core.setVec (c : Core) (n : Nat) (mask : W64) (l : List W32) : Core :=
  let old := c.vec n
  let new := (List.range 64).map fun i => if mask.getLsbD i then l.getD i 0 else old.lane i
  { c with vecs := sput c.vecs n { lanes := new, valid := true } }

/-- A result as one 128-bit value. -/
def QVal.bits : QVal → W128 | .scalar v => v | .lanes l => (l.headD 0).setWidth 128
/-- A result as 64 lanes. -/
def QVal.toLanes : QVal → List W64 | .lanes l => l | .scalar v => List.replicate 64 (v.setWidth 64)

/-- Writing a control register (R119, R123). -/
def Core.writeCtl (c : Core) (n : Nat) (v : W32) : Core :=
  if n ≤ 0x00F then { c with tsh := sset 0 c.tsh n (v &&& 0x000FFFFF) }
  else if n = 0x010 then { c with xseed := v, xgen := seedGens v }
  else if n = 0x011 then { c with satslot := v.setWidth 10 }
  else if n = 0x012 then { c with rmode := v.setWidth 2 }
  else if n = 0x018 then { c with opprio := v.setWidth 3 }
  else c

/-- Writing a system register (R125). -/
def Core.writeSys (c : Core) (n : Nat) (v : W32) : Core :=
  if 0x010 ≤ n && n ≤ 0x013 then { c with pmc := c.pmc.set (n - 0x010) v }
  else if 0x018 ≤ n && n ≤ 0x01B then { c with pmsel := c.pmsel.set (n - 0x018) (v.setWidth 4) }
  else c

/-- Operand queue capacities (R157). -/
def oqCap (q : Nat) : Nat := if q < 4 then 2048 else if q < 6 then 4096 else 256

/-- Filling the oldest unfilled element of an operand queue (R158). -/
def fillOldest (bytes : List Byte) : List OqElem → List OqElem
  | [] => []
  | e :: l => if e.filled then e :: fillOldest bytes l else { bytes := bytes, filled := true, fresh := true } :: l

/-- A word with bit n set as asked. -/
def putBit {w : Nat} (x : BitVec w) (n : Nat) (b : Bool) : BitVec w := if b then x ||| (1#w <<< n) else x &&& ~~~(1#w <<< n)

/-- Writing a delivered value to its destination. -/
def Core.writeDest (c : Core) (v : QVal) : Dest → Core
  | .none => c
  | .named n w => c.setRegs n w v.bits
  | .pred n => { c with preds := putBit c.preds n (v.bits ≠ 0) }
  | .apred n => { c with apreds := putBit c.apreds n (v.bits ≠ 0) }
  | .vec n wide mask =>
    let l := v.toLanes
    let c := c.setVec n mask (l.map fun (x : W64) => x.setWidth 32)
    if wide then c.setVec (n + 1) mask (l.map fun (x : W64) => (x >>> 32).setWidth 32) else c
  | .vpred n mask =>
    let l := v.toLanes
    let put (w : W64) (i : Nat) : W64 := if mask.getLsbD i then putBit w i (l.getD i 0 ≠ 0) else w
    { c with vpreds := sset 0 c.vpreds n ((List.range 64).foldl put (sget 0 c.vpreds n)) }
  | .ctl n => c.writeCtl n (v.bits.setWidth 32)
  | .sys n => c.writeSys n (v.bits.setWidth 32)
  | .rowMask n => { c with rowMask := sset (~~~0) c.rowMask n (v.bits.setWidth 64) }
  | .colMask n m => { c with colMask := sset (~~~0) c.colMask n m }
  | .opq q => { c with oq := sput c.oq q (fillOldest (v.toLanes.map fun (x : W64) => x.setWidth 8) (sget [] c.oq q)) }

/-- Delivering one result: the result queue and the destination (R96, R97). -/
def Core.deliver (c : Core) (f : InFlight) : Core :=
  let c := if f.enters then c.modStr f.stream fun m => { m with rq := (f.val :: m.rq).take 16 } else c
  c.writeDest f.val f.dest

/-- Inserting a result into a list by its clock, after those of the same clock. -/
def insertDue (f : InFlight) : List InFlight → List InFlight
  | [] => [f]
  | g :: l => if f.due.getD 0 < g.due.getD 0 then f :: g :: l else g :: insertDue f l

/-- The results of S, V and X that are due, by clock, then in issue order (R97). -/
def Core.trioDue (c : Core) : List InFlight :=
  (c.flight.filter fun f => f.stream ≠ .A && f.tokens = 0 && f.due.any (· ≤ c.clk)).foldl (fun l f => insertDue f l) []

/-- What A has in flight, in start order. -/
def Core.aFlight (c : Core) : List InFlight := c.flight.filter fun f => f.stream = .A

/-- The access of a word of A that has not passed its checks (R165): it is not performed yet, or its reply is awaited. -/
def InFlight.unpassed (f : InFlight) : Bool := f.fab.isSome || f.acc.isSome

/-- A word of A that has started has not passed its checks (R165). -/
def Core.aUnpassed (c : Core) : Bool := c.aFlight.any InFlight.unpassed

/-- A word of A has an access that is not performed yet (R152, R164). -/
def Core.aPending (c : Core) : Bool := c.aFlight.any fun f => f.acc.isSome

/-- A result or bytes of an operand queue (R153). -/
def InFlight.produces (f : InFlight) : Bool := f.enters || f.dest ≠ .none

/-- The words of A that have finished, in start order up to the first that has not (R155). -/
def Core.aPast (c : Core) (now : Nat) : List InFlight := c.aFlight.takeWhile fun f => f.due.any (· ≤ now)

/-- The results that A delivers (R153, R165): in start order, behind no result that is not ready and no word that may still fault. -/
def aReady (now : Nat) : List InFlight → List InFlight
  | [] => []
  | f :: l =>
    if f.unpassed then []
    else if f.produces then (if f.due.any (· ≤ now) then f :: aReady now l else [])
    else aReady now l

/-- What leaves A's flight in a clock: the results that are delivered, and the words without result that have finished. -/
def Core.aDue (c : Core) (now : Nat) : List InFlight :=
  aReady now c.aFlight ++ (c.aPast now).filter fun f => f.tokens = 0 && !f.produces

/-- The tokens of words that have finished (R101): they are added at the end of the clock, so that they can be popped from the next
clock on. -/
def Core.tokensDue (c : Core) (now : Nat) : List InFlight :=
  (c.flight.filter fun f => f.stream ≠ .A && f.tokens ≠ 0 && f.due.any (· ≤ c.clk)) ++ (c.aPast now).filter fun f => f.tokens ≠ 0

/-- Adding the tokens of words that have finished. -/
def Core.settleTokens (c : Core) (now : Nat) : Core :=
  let d := c.tokensDue now
  if d = [] then c
  else
    let c' := d.foldl (fun c f => c.addTokens f.stream f.tokens) c
    { c' with flight := c.flight.filter fun f => !d.contains f }

/-- Delivering every due result of a core. -/
def Core.settle (c : Core) (now : Nat) : Core :=
  let d := c.trioDue ++ c.aDue now
  let c' := d.foldl Core.deliver c
  { c' with flight := c.flight.filter fun f => !d.contains f }

/-! ## Messages (R385) -/

/-- Handing a message to the connection of (fn, dst) (R388). -/
def State.send (s : State) (fn : Nat) (dst dvf kind : Nat) (va aux : W64) (payload : List Byte) : State :=
  { s with outbox := s.outbox ++
      [{ dst := BitVec.ofNat 15 dst, dvf := BitVec.ofNat 8 dvf, kind := BitVec.ofNat 8 kind, src := Config.devId,
         svf := BitVec.ofNat 8 fn, epoch := 0, cseq := 0, cack := 0, flags := 0, va := va, aux := aux,
         payload := payload }] }

/-- The function number a member entry's VF names (R302): 0xFF stands for the physical function. -/
def vfFn (vf : Byte) : Nat := if vf = 0xFF then 0x80 else vf.toNat
/-- The VF number of a function: VFID of R125. -/
def fnVf (fn : Nat) : Byte := if 128 ≤ fn then 0xFF else BitVec.ofNat 8 fn

/-- The registered table with an ID. -/
def Ctx.pg? (c : Ctx) (id : W32) : Option PgTable := (c.pgs.find? fun e => e.1 = id).map (·.2)

/-- The ID of the registered table that lies at a VA, the latest registered one where tables have replaced each other there
(R275, R303). -/
def Ctx.pgAt? (c : Ctx) (va : W64) : Option W32 :=
  ((c.pgs.filter fun e => e.2.vas.contains va).reverse.find? fun e => e.2.st ≠ .dissolved).map (·.1)

/-- Sending one message to every other member of a table. -/
def State.sendMembers (s : State) (fn : Nat) (t : PgTable) (kind : Nat) (aux : W64) (payload : List Byte) : State :=
  (t.members.zipIdx.filter fun e => e.2 ≠ t.rank).foldl
    (fun s e => s.send fn e.1.1.toNat (vfFn e.1.2) kind 0 aux payload) s

/-- The payload of a barrier message (R313, R322): code, epoch, generation, two words (DESIGN CHOICE, assumption 7). -/
def barPayload (code : Byte) (epoch : Byte) (gen : BitVec 16) (a b : W32) : List Byte :=
  [code, epoch] ++ leBytes 2 gen.toNat ++ leBytes 4 a.toNat ++ leBytes 4 b.toNat

/-- A step of the machine that acts next. -/
def State.post (s : State) (i : Ev) : State := { s with agenda := s.agenda ++ [i] }

/-! ## Images of device state (R340, R462) -/

/-- State codes of a barrier (R312). -/
def BarSt.code : BarSt → Nat | .idle => 0 | .openSt => 1 | .complete => 2 | .broken => 3

/-- Entry b of a context's barrier table. -/
def State.getBar (s : State) (x b : Nat) : Barrier := sget Barrier.reset (s.getX x).barriers b

/-- The 32 bytes of a barrier's image (R312). -/
def barrierBytes (e : Barrier) : List Byte :=
  leBytes 4 (e.gen.toNat * 65536 + e.epoch.toNat * 256 + e.scope.toNat * 4 + e.st.code) ++ leBytes 4 e.expect.toNat ++
  leBytes 4 (if e.mirror then 0 else e.arrived.toNat) ++ leBytes 2 e.anchor.toNat ++ [0, 0] ++ leBytes 4 e.pgid.toNat ++
  leBytes 2 e.homedev.toNat ++ [e.brkcode] ++ List.replicate 9 0

/-- Entry b changes, and its image with it (R312, R462). -/
def State.putBar (s : State) (x b : Nat) (e : Barrier) : State :=
  let s := s.modX x fun c => { c with barriers := sput c.barriers b e }
  s.devWrite (s.getX x).fn ((s.getX x).barva + BitVec.ofNat 64 (32 * b)) (barrierBytes e)

/-- The other contexts of a function on this device that have a table registered (R322). -/
def State.tableContexts (s : State) (fn : Nat) (id : W32) (not_ : Nat) : List Nat :=
  (s.ctxs.filter fun e => e.1 ≠ not_ && e.2.st ≠ .free && e.2.fn = fn && (e.2.pg? id).isSome).map (·.1)

/-- A home's multicast about barrier b of context x (R313): to every other member, and to this device's mirrors. -/
def State.barCast (s : State) (x b : Nat) (id : W32) (pay : List Byte) (u : BarUpdate) : State :=
  let fn := (s.getX x).fn
  let s := match (s.getX x).pg? id with | some t => s.sendMembers fn t 7 (id.setWidth 64) pay | none => s
  (s.tableContexts fn id x).foldl (fun s y => s.post (.barrierMulticast y b u)) s

/-- State codes of a context (R342). -/
def CtxSt.code : CtxSt → Nat
  | .free => 0 | .created => 1 | .runnable => 2 | .running => 3 | .switchingOut => 4 | .switchedOut => 5 | .halted => 6
  | .migratingOut => 7 | .migratingIn => 8 | .destroying => 9

/-- The device writes the D fields of a context's record (R340). -/
def State.imageCtx (s : State) (x : Nat) : State :=
  let c := s.getX x
  if c.st = .free then s
  else
    let s := s.devWrite c.fn (c.recVa + 0x0A) [BitVec.ofNat 8 c.st.code]
    let s := s.devWrite c.fn (c.recVa + 0x60) (c.haltCode :: [0, 0, 0] ++ leBytes 4 c.haltSeq.toNat ++ leBytes 2 c.haltFirst.toNat)
    let s := s.devWrite c.fn (c.recVa + 0x74) (leBytes 4 c.evtail.toNat ++ leBytes 4 c.evlost.toNat)
    s.devWrite c.fn (c.recVa + 0x100) ((c.orphans ++ List.replicate (64 - c.orphans.length) 0).flatMap fun (h : W32) => leBytes 4 h.toNat)

/-- A context takes another state (R342). -/
def State.setCtxSt (s : State) (x : Nat) (st : CtxSt) : State := (s.modX x fun c => { c with st := st }).imageCtx x

/-! ## Events (R346) -/

/-- What posting an event answers: written, dropped, or the page that it waits for. -/
inductive Posted where
  | written (s : State)
  | dropped (s : State)
  | wait (page : W64)
  deriving DecidableEq, Repr

/-- An event that is dropped (R346, R462). -/
def eventLost (s : State) (x : Nat) : State :=
  (s.modX x fun c => { c with evlost := if c.evlost = 0xFFFFFFFF then c.evlost else c.evlost + 1 }).imageCtx x

/-- The 32 bytes of event n (R346). -/
def eventBytes (n : W32) (type code src : Nat) (va1 vb1 : W64) (time : Nat) : List Byte :=
  leBytes 4 n.toNat ++ [BitVec.ofNat 8 type, BitVec.ofNat 8 code] ++ leBytes 2 src ++ leBytes 8 va1.toNat ++ leBytes 8 vb1.toNat ++ leBytes 8 time

/-- Vector LOCAL of a context's function fires (R426): the MSI-X write is issued behind the device's writes (R427). -/
def fireMsix (s : State) (x : Nat) : State := { s with msix := s.msix ++ [((s.getX x).fn, x % 16)] }

/-- Writing an event that came about at `time` to the ring of a context (R346, R462). -/
def tryEvent (s : State) (x type code src : Nat) (va1 vb1 : W64) (time : Nat) : Posted :=
  let c := s.getX x
  match readVa s .device c.fn (c.recVa + 0x70) 4 with
  | .bad _ _ => .dropped (eventLost s x)
  | .wait page => .wait page
  | .ok l =>
    if 2 ^ c.evqlog2 ≤ (c.evtail - BitVec.ofNat 32 (leNat l)).toNat then .dropped (eventLost s x)
    else
      match writeVa s .device c.fn (c.evqva + BitVec.ofNat 64 (32 * (c.evtail.toNat % 2 ^ c.evqlog2)))
          (eventBytes (c.evtail + 1) type code src va1 vb1 time) with
      | .ok s => .written (fireMsix ((s.modX x fun c => { c with evtail := c.evtail + 1 }).imageCtx x) x)
      | .wait page => .wait page
      | .bad _ _ => .dropped (eventLost s x)

/-- An earlier event of a context waits for its page. -/
def eventsWait (s : State) (x : Nat) : Bool := s.devQ.any fun e => match e.act with | .event y .. => y = x | _ => false

/-- Posting an event (R346): it waits where its entry's page does, or an earlier event of the context (R164, R343). -/
def postEvent (s : State) (x type code src : Nat) (va1 vb1 : W64) : State :=
  let later (page : W64) : State :=
    { s with devQ := s.devQ ++ [{ fn := (s.getX x).fn, page := page, act := .event x type code src va1 vb1 s.coldClock, failed := false }] }
  if eventsWait s x then later (s.getX x).evqva
  else match tryEvent s x type code src va1 vb1 s.coldClock with
    | .written s => s
    | .dropped s => s
    | .wait page => later page

/-! ## The halt line (R343-R345): how a halting fault is taken -/

/-- A stream that obeys the halt line (R89, R344); its state before is kept for the stop record. -/
def Stream.halt (m : Stream) : Stream :=
  match m.st with
  | .idle | .halted => m
  | _ => { m with before := m.st, st := .halted }

/-- An element that a word reserved in an operand queue and will not fill is released (R165, R175). -/
def releaseElem (q : Sparse (List OqElem)) (k : Nat) : Sparse (List OqElem) :=
  let l := sget [] q k
  match l.reverse.findIdx? (fun e => !e.filled) with
  | some i => sput q k ((l.reverse.eraseIdx i).reverse)
  | none => q

/-- The words of A from a word on leave nothing: their results and reservations are dropped (R165, R175). -/
def dropLater (c : Core) (seq : Nat) : Core :=
  let gone (f : InFlight) : Bool := f.stream = .A && decide (seq ≤ f.seq)
  let oq := (c.flight.filter gone).foldl (fun q f => match f.dest with | .opq k => releaseElem q k | _ => q) c.oq
  { c with flight := c.flight.filter fun f => !gone f, oq := oq }

/-- The words of A from a word on are abandoned (R175): tokens and store-queue bytes return to the heads of their queues, and A stands at
that word again. -/
def abandonFrom (c : Core) (f : InFlight) : Core :=
  let gone := c.aFlight.filter fun g => decide (f.seq ≤ g.seq)
  let tokens := gone.foldl (fun m g => (tokenQueues .A true g.pops).foldl (fun m q => sset 0 m q (sget 0 m q + 1)) m) c.tokens
  let back (m : Sparse (List Byte)) (g : InFlight) : Sparse (List Byte) :=
    match g.acc with
    | some (.store _ _ _ l (some k)) => sset [] m k (l ++ sget [] m k)
    | _ => m
  { dropLater { c with a := { c.a with pc := f.pc, loops := f.loops, atAlign := none } } f.seq with
    tokens := tokens, sq := gone.reverse.foldl back c.sq }

/-- The started words of A that have not passed their checks are abandoned, from the oldest on (R175, R344). -/
def Core.abandonA (c : Core) : Core :=
  match c.aFlight.find? fun f => f.acc.isSome with
  | some f => abandonFrom c f
  | none => c

/-- Every stream of a core obeys the halt line (R344); A abandons what has not passed its checks, and no word waits any more for an operation or a
lock word. -/
def Core.halt (c : Core) : Core :=
  let c := c.abandonA
  { c with s := c.s.halt, v := c.v.halt, a := c.a.halt, x := c.x.halt,
           owait := match c.owait with | .waiting .. => .none | w => w,
           lock := match c.lock with | .waiting => .none | l => l }

/-- A barrier breaks (R316): its home multicasts the break, a mirror reports it to the home (R313). -/
def State.breakBar (s : State) (x b : Nat) (code : Byte) : State :=
  let e := s.getBar x b
  if e.st ≠ .openSt && e.st ≠ .complete then s
  else
    let c := s.getX x
    let s := s.putBar x b { e with st := .broken, brkcode := code }
    if e.scope ≠ 3 then s
    else
      let pay := barPayload 5 e.epoch e.gen (BitVec.ofNat 32 code.toNat) (BitVec.ofNat 32 b)
      if !e.mirror then s.barCast x b e.pgid pay (.broken e.epoch e.gen code)
      else match ((c.pg? e.pgid).bind fun t => t.members.head?) with
        | some m => s.send c.fn m.1.toNat (vfFn m.2) 7 0 (e.pgid.setWidth 64) pay
        | none => s

/-- Breaking the barriers of a context that a predicate selects. -/
def State.breakBarriers (s : State) (x : Nat) (code : Byte) (which : Barrier → Bool) : State :=
  ((s.getX x).barriers.filter fun e => which e.2).foldl (fun (s : State) e => s.breakBar x e.1 code) s

/-- The payload of an atomic (R173, R192): operation, type, two operands (DESIGN CHOICE, assumption 12). -/
def atomicPayload (op t : Nat) (b c : W64) : List Byte :=
  [BitVec.ofNat 8 op, BitVec.ofNat 8 t] ++ leBytes 8 b.toNat ++ leBytes 8 c.toNat

/-- The waiting acquires of core k are withdrawn (R192): here from the queue, and at another home by operation 12 of an atomic
(assumption 12). -/
def withdrawAcq (s : State) (k : Nat) : State :=
  ((s.getC k).flight.filterMap fun f => f.fab).foldl (fun s tag =>
    match s.fabOut.find? fun m => m.aux = tag && m.kind = 4 && m.payload.headD 0 = 9 with
    | some m => s.send m.svf.toNat m.dst.toNat m.dvf.toNat 4 m.va tag (atomicPayload 12 7 0 0)
    | none => s) { s with lockQ := s.lockQ.filter fun w => w.core ≠ some k }

/-- The fabric accesses of core k that wait for their connection, as replayable faults do (R343, R389): none of their messages has been sent. -/
def connWaits (s : State) (k : Nat) : List W64 :=
  let tags := (s.conns.filter fun c => c.closed || c.st ≠ .openSt).flatMap fun c => (c.waiting.filter fun m => m.kind = 0 || m.kind = 2 || m.kind = 4).map (·.aux)
  ((s.getC k).aFlight.filter fun f => f.asked.isSome && f.fab.any tags.contains).filterMap (·.fab)

/-- Their messages are taken back: their words wait again, and have not passed their checks (R175). -/
def recallWaiting (s : State) (k : Nat) : State :=
  match connWaits s k with
  | [] => s
  | tags =>
    let s : State := { s with conns := s.conns.map fun c => { c with waiting := c.waiting.filter fun m => !tags.contains m.aux },
                              fabOut := s.fabOut.filter fun m => !tags.contains m.aux }
    s.modC k fun c => { c with flight := c.flight.map fun f => if f.fab.any tags.contains then { f with fab := none, acc := f.asked, asked := none } else f }

/-- The waiting acquires of every core that a context holds are withdrawn. -/
def withdrawAll (s : State) (x : Nat) : State :=
  (s.cores.filter fun e => e.2.inst.any (·.ctx = x)).foldl (fun s e => withdrawAcq s e.1) s

/-- The same for the accesses that wait for a connection. -/
def recallAll (s : State) (x : Nat) : State :=
  (s.cores.filter fun e => e.2.inst.any (·.ctx = x)).foldl (fun s e => recallWaiting s e.1) s

/-- The states in which a halt line stops a context (R342). -/
def CtxSt.halts : CtxSt → Bool
  | .created | .runnable | .running | .switchingOut | .migratingOut | .migratingIn => true
  | .free | .switchedOut | .halted | .destroying => false

/-- A halting fault raises the context's halt line (R342, R344): every stream of every core the context holds is HALTED, and the first code
and agent are kept until the halt finishes. A line already high keeps its code; an operation that crosses a threshold then is noted for its
own stop record (R80). -/
def raiseHalt (s : State) (x : Nat) (first : BitVec 16) (code : Byte) : State :=
  if !(s.getX x).st.halts then s
  else
    let s := recallAll (withdrawAll s x) x
    let s : State := { s with cores := s.cores.map fun (e : Nat × Core) => if e.2.inst.any (·.ctx = x) then (e.1, e.2.halt) else e }
    s.modX x fun c => { c with halt := some (match c.halt with
      | some h => if 1536 ≤ first.toNat then { h with crossed := h.crossed ++ [first.toNat - 1536] } else h
      | none => { code := code, first := first, since := s.now, running := (c.ops.filter fun e => e.2.st = .running).map (·.1),
                  crossed := [], broke := false }) }

/-- A word's precise halting fault: the stream keeps the fault for its stop record and the line rises (R98, R344). -/
def haltWord (s : State) (st : StreamId) (f : StopInfo) : State :=
  let c := s.core
  let s := s.setCore (c.modStr st fun m => { m with fault := some f })
  raiseHalt (countResidue s (s.coreFn c) f.code f.addr) c.ctx (BitVec.ofNat 16 (4 * s.cur + streamNo st)) f.code

/-- A stream's halting fault, taken for a core that need not be the executing one. -/
def haltAt (s : State) (k : Nat) (st : StreamId) (f : StopInfo) : State := { haltWord { s with cur := k } st f with cur := s.cur }

/-- A fault with no entry index, no address and no trap code. -/
def stopCode (code : Byte) : StopInfo := { code := code, index := 0, addr := 0, tcode := 0 }

/-! ## Saturation slots (R78-R80) -/

/-- What adding events to a slot answers: the state, and the ACTION and new COUNT of a crossing; or the page that it waits for. -/
inductive SatUpd where
  | done (s : State) (cross : Option (BitVec 2 × W32))
  | wait (page : W64)
  deriving DecidableEq, Repr

/-- The update of a slot (R80): a fault counts nothing (R462). -/
def trySat (s : State) (x slot n nans : Nat) : SatUpd :=
  let c := s.getX x
  let va := c.satva + BitVec.ofNat 64 (16 * slot)
  match readVa s .device c.fn va 16 with
  | .bad _ _ => .done s none
  | .wait page => .wait page
  | .ok l =>
    let old := field l 0 4
    let new := min (old + n) 0xFFFFFFFF
    let nan := min (field l 4 4 + nans) 0xFFFFFFFF
    let thr := field l 8 4
    match writeVa s .device c.fn va (leBytes 4 new ++ leBytes 4 nan) with
    | .ok s =>
      .done s (if thr ≠ 0 && decide (old < thr) && decide (thr ≤ new) then some (BitVec.ofNat 2 (field l 12 4), BitVec.ofNat 32 new) else none)
    | .wait page => .wait page
    | .bad _ _ => .done s none

/-- Adding a unit's events to a slot: the state, and the ACTION and new COUNT of a crossing. Where the slot's page is absent or moves the
update waits (R164, R343). -/
def satAdd (s : State) (x slot n nans : Nat) (by_ : SatBy) : State × Option (BitVec 2 × W32) :=
  if n = 0 then (s, none)
  else match trySat s x slot n nans with
    | .done s c => (s, c)
    | .wait page =>
      ({ s with devQ := s.devQ ++ [{ fn := (s.getX x).fn, page := page, act := .sat x slot n nans by_, failed := false }] }, none)

/-- The event of a crossing (R80, R346). -/
def satEvent (s : State) (x slot src : Nat) (act : BitVec 2) (count : W32) : State :=
  if act.getLsbD 0 then postEvent s x 1 cSAT.toNat src (BitVec.ofNat 64 slot) (count.setWidth 64) else s

/-- Adding the events of a word of the executing core (R80): a crossing that halts is this stream's fault. -/
def satWord (s : State) (st : StreamId) (slot n nans : Nat) : State :=
  let x := s.core.ctx
  match satAdd s x slot n nans (.stream s.cur st) with
  | (s, none) => s
  | (s, some (act, count)) =>
    let s := satEvent s x slot s.cur act count
    if act.getLsbD 1 then haltWord s st (stopCode cSAT) else s

/-- A crossing that halts the context by an operation (R80, R345). -/
def haltOp (s : State) (x slot : Nat) : State := raiseHalt s x (BitVec.ofNat 16 (1536 + slot)) cSAT

/-! ## Accesses of the device that waited (R343, R346, R462) -/

/-- What trying such an access again answers: the state it leaves, or the page that it still waits for. -/
inductive DevTry where
  | done (s : State)
  | wait (page : W64)
  deriving DecidableEq, Repr

/-- An access that waited, made now. One whose page could not be resolved writes nothing (R462); an event or a write stays behind the earlier
ones of its context or bytes. -/
def devTry (s : State) (e : DevPend) : DevTry :=
  match e.act with
  | .merge va keep bits =>
    if e.failed then .done s
    else if devWaits s e.fn va 1 then .wait e.page
    else match mergeVa s e.fn va keep bits with
      | .ok s => .done s
      | .bad _ _ => .done s
      | .wait page => .wait page
  | .write va l =>
    if e.failed then .done s
    else if devWaits s e.fn va l.length then .wait e.page
    else match writeVa s .device e.fn va l with
      | .ok s => .done s
      | .bad _ _ => .done s
      | .wait page => .wait page
  | .event x type code src va1 vb1 time =>
    if e.failed then .done (eventLost s x)
    else if eventsWait s x then .wait e.page
    else match tryEvent s x type code src va1 vb1 time with
      | .written s => .done s
      | .dropped s => .done s
      | .wait page => .wait page
  | .sat x slot n nans by_ =>
    if e.failed then .done s
    else match trySat s x slot n nans with
      | .wait page => .wait page
      | .done s none => .done s
      | .done s (some (act, count)) =>
        let src := match by_ with | .stream k _ => k | .op _ => 0xFFFF
        let s := satEvent s x slot src act count
        .done (if act.getLsbD 1 then (match by_ with | .stream k st => haltAt s k st (stopCode cSAT) | .op slot => haltOp s x slot) else s)

/-- The accesses that waited, in their order; what still waits stays. -/
def drainDev : List DevPend → State → State
  | [], s => s
  | e :: l, s => drainDev l (match devTry s e with
    | .done s => s
    | .wait page => { s with devQ := s.devQ ++ [{ e with page := page }] })

/-! ## The issue of a word -/

/-- A word's result: its value, destination and latency; `fab` where a reply of the fabric is awaited (R172); a write
of a register by `mvcr` or `sysw` does not enter the result queue (R33). -/
structure Res where
  val : QVal
  dest : Dest
  lat : Nat
  fab : Option W64 := none
  enters : Bool := true
  acc : Option Access := none
  asked : Option Access := none
  deriving DecidableEq, Repr

/-- What a word did: its result, the clocks after which a word without result finishes, the address of the next word
where it is not the following one. -/
structure Done where
  res : Option Res := none
  lat : Nat := 1
  target : Option Nat := none
  kind : AccKind := .none
  deriving DecidableEq, Repr

/-- What the effect of a word answers: it waits, faults before any effect, or is done. -/
inductive Act where
  | wait (s : State)
  | fault (f : StopInfo)
  | done (s : State) (d : Done)
  deriving DecidableEq, Repr

/-- A word that cannot start: the stream is FROZEN or BLOCKED at it (R89, R91, R92). A stream that waits at `align`
freezes nothing (R94). -/
def stall (st : StreamId) (s : State) : State :=
  let c := s.core.modStr st fun m =>
    if m.st.live && m.atAlign.isNone then { m with st := if st = .A then .blocked else .frozen } else m
  s.setCore (if st = .A then { c with aTime := s.now + 1 } else c)

/-- The clock that a stream's latencies count (R90, R153). -/
def State.clockOf (s : State) (st : StreamId) : Nat := if st = .A then s.now else s.core.clk

/-- What a word without a value leaves: what finishes a word of A, or carries tokens. -/
def plainFlight (st : StreamId) (due seq pc : Nat) (tokens : BitVec 3) : InFlight :=
  { stream := st, due := some due, seq := seq, pc := pc, enters := false, val := .scalar 0, dest := .none, tokens := tokens,
    fab := none, kind := .none, acc := none, asked := none, pops := 0, loops := [] }

/-- The results and tokens a word leaves in flight (R96, R101, R155); `loops` is the stream's loop stack. -/
def inFlightOf (st : StreamId) (h : Hdr) (base seq pc : Nat) (loops : List LoopEntry) (d : Done) : List InFlight :=
  let lat := match d.res with | some r => r.lat | none => d.lat
  let pops := if st = StreamId.A then h.pop else 0
  (match d.res with
   | some r => [{ stream := st, due := if r.fab.isSome || r.acc.isSome then none else some (base + lat), seq := seq, pc := pc,
                  enters := r.enters, val := r.val, dest := r.dest, tokens := 0, fab := r.fab, kind := d.kind, acc := r.acc, asked := r.asked,
                  pops := pops, loops := if r.acc.isSome || r.asked.isSome then loops else [] }]
   | none => if st = StreamId.A then [{ plainFlight st (base + lat) seq pc 0 with kind := d.kind, pops := pops }] else []) ++
  (if h.push = 0 then [] else [plainFlight st (base + max 1 lat) seq pc h.push])

/-- A word has started (R90, R101): its POP tokens are taken, its result and tokens are in flight, its stream goes on
to the next word unless it has halted. -/
def finishWord (st : StreamId) (h : Hdr) (d : Done) (s : State) : State :=
  let base := s.clockOf st
  let c := s.core.popTokens st h
  let c := c.modStr st fun m =>
    if m.st = .halted then m else { m with pc := d.target.getD (m.pc + 8), last := c.clk, atAlign := none }
  let c := { c with flight := c.flight ++ inFlightOf st h base c.nextSeq (s.core.str st).pc (s.core.str st).loops d, nextSeq := c.nextSeq + 1,
                    aTime := if st = StreamId.A then s.now + 1 else c.aTime }
  s.setCore (c.pmcAdd (streamNo st + 1) 1)

/-- The running state of the stream whose word starts (R89). -/
def startWord (st : StreamId) (s : State) : State := s.setCore (s.core.modStr st fun m => { m with st := .aligned })

/-- The zero that a result-producing word pushes when its guard is false or its codes are not accepted (R37, R58); in A such a word
finishes the clock after it starts (R155). -/
def zeroRes (st : StreamId) (zero : Option Nat) : Done :=
  { res := zero.map fun lat => { val := if st = .V then .lanes (List.replicate 64 0) else .scalar 0, dest := .none, lat := if st = .A then 1 else lat } }

/-- The guard of a word of S, A or X (R37): none while A waits for a predicate (R152). -/
def guardTrue (c : Core) (st : StreamId) (g : BitVec 4) : Option Bool :=
  let p := (g.extractLsb' 0 3).toNat
  if st = .A && c.flight.any fun f => f.dest = .apred p then none
  else
    let v := p = 0 || (if st = .A then c.apreds else c.preds).getLsbD p
    some (v != g.getLsbD 3)

/-- The stream may issue a word: its core runs a node (R89, R290). -/
def canRun (s : State) (st : StreamId) : Bool :=
  s.core.inst.isSome && s.core.started && (s.core.str st).st.live

/-- A word's halting fault (R98, R165): in A it is taken once every started word has passed its checks; until then the word does not
start. -/
def faultOrWait (s : State) (st : StreamId) (f : StopInfo) : State :=
  if st = .A && s.core.aUnpassed then stall st s else haltWord s st f

/-- The issue of a word (R37, R58, R90-R92, R102, R103): without its tokens it waits; with codes its opcode does not
accept it acts as `nop`; with a false guard it only takes its slot; otherwise `body` is its effect. `zero` is the
latency of the opcode's result where it has one. -/
def issue (i : Instr) (st : StreamId) (h : Hdr) (g : BitVec 4) (zero : Option Nat) (s : State) (body : State → Act) : State :=
  if !canRun s st then s
  else match s.core.tokState st h with
    | .dead q => faultOrWait s st { stopCode cREG with index := 0x100 + BitVec.ofNat 32 q }
    | .absent | .full => stall st s
    | .ok =>
      if !accepted (s.coreService s.core) i then finishWord st h (zeroRes st zero) (startWord st s)
      else match guardTrue s.core st g with
        | none => stall st s
        | some false => finishWord st h (zeroRes st zero) (startWord st s)
        | some true =>
          match body (startWord st s) with
          | .wait s' => stall st s'
          | .fault f => faultOrWait s st f
          | .done s' d => finishWord st h d s'

/-- The meaning of a word: its issue, which always leaves a next state. -/
def runWord (i : Instr) (st : StreamId) (h : Hdr) (g : BitVec 4) (zero : Option Nat) (s : State) (body : State → Act) :
    Host.Outcome State Fault Refusal :=
  .next (issue i st h g zero s body)

end Sys2Proof.Machine
end

