-- ==== Sys2Proof/Machine/Operands.lean ====
section
/-! DEFINITION. Machine/Operands.lean: every operand form: specifiers of S, A and X (R31) and of V (R32), wide groups
(R34), destinations (R33), addresses (R39, R40, R163), and the launch record's counts (R286). -/

namespace Sys2Proof.Machine

/-! ## Sources of S, A and X (R31, R34, R97, R98) -/

/-- What reading a specifier answers: its value, that A must wait for it (R152), or REG_INVALID (R98). -/
inductive Opnd where
  | ok (v : W128)
  | wait
  | bad
  deriving DecidableEq, Repr

/-- The results of A in flight, most recent first (R153). -/
def Core.aRecent (c : Core) : List InFlight := (c.flight.filter fun f => f.stream = .A && f.enters).reverse

/-- A named register that an earlier A word will write (R152). -/
def Core.aWrites (c : Core) (n w : Nat) : Bool :=
  c.flight.any fun f => f.stream = .A && match f.dest with
    | .named m k => decide (m < n + w) && decide (n < m + k)
    | _ => false

/-- Result-queue entry qk, k counted from 0 (R97, R153). -/
def Core.queueEntry (c : Core) (st : StreamId) (k : Nat) : Opnd :=
  let open_ := if st = .A then c.aRecent.length else 0
  if k < open_ then .wait
  else match (c.str st).rq[k - open_]? with
    | some v => .ok v.bits
    | none => .bad

/-- A source specifier of S, A or X over `w` registers (R31). An unassigned one reads zero (R58). -/
def Core.src (c : Core) (st : StreamId) (sp : BitVec 7) (w : Nat) : Opnd :=
  let n := (sp.extractLsb' 0 6).toNat
  if sp.extractLsb' 6 1 = 0 then
    if st = .A && c.aWrites n w then .wait else if c.regsValid n w then .ok (c.regs n w) else .bad
  else if sp.extractLsb' 4 3 = 0b100 then c.queueEntry st (sp.extractLsb' 0 4).toNat
  else if sp.extractLsb' 3 4 = 0b1010 then
    let p := (sp.extractLsb' 0 3).toNat
    if st = .A && c.flight.any fun f => f.dest = .apred p then .wait
    else .ok (if p = 0 || (if st = .A then c.apreds else c.preds).getLsbD p then 1 else 0)
  else match immOf sp with
    | some i => .ok (BitVec.ofInt 128 i)
    | none =>
      match (sp.extractLsb' 0 3).toNat with
      | 1 => .ok 1
      | 2 => .ok (BitVec.ofNat 128 (streamNo st))
      | 3 => .ok (~~~0)
      | _ => .ok 0

/-- Using a source of the executing core: A waits for it, and an invalid one faults (R98, R152). -/
def withSrc (s : State) (st : StreamId) (sp : BitVec 7) (w : Nat) (k : W128 → Act) : Act :=
  match s.core.src st sp w with
  | .ok v => k v
  | .wait => .wait s
  | .bad => .fault (stopCode cREG)

/-- Using a 32-bit source. -/
def with32 (s : State) (st : StreamId) (sp : BitVec 7) (k : W32 → Act) : Act := withSrc s st sp 1 fun v => k (v.setWidth 32)

/-- Using a 64-bit source: an even pair, a queue entry or a constant (R34). -/
def with64 (s : State) (st : StreamId) (sp : BitVec 7) (k : W64 → Act) : Act := withSrc s st sp 2 fun v => k (v.setWidth 64)

/-- A destination of S, A or X over `w` registers (R31, R33); any other pattern is the result queue alone. -/
def dstOf (st : StreamId) (sp : BitVec 7) (w : Nat) (pred : Bool) : Dest :=
  if sp.extractLsb' 6 1 = 0 then .named (sp.extractLsb' 0 6).toNat w
  else if pred && sp.extractLsb' 3 4 = 0b1010 && sp.extractLsb' 0 3 ≠ 0 then
    (if st = .A then Dest.apred (sp.extractLsb' 0 3).toNat else Dest.pred (sp.extractLsb' 0 3).toNat)
  else .none

/-- A result of S, A or X, cut to its registers, with its latency (R33, R96). -/
def result (s : State) (st : StreamId) (d : BitVec 7) (w lat : Nat) (v : W128) (pred : Bool := false) : Act :=
  let v := if w = 1 then (v.setWidth 32).setWidth 128 else if w = 2 then (v.setWidth 64).setWidth 128 else v
  .done s { res := some { val := .scalar v, dest := dstOf st d w pred, lat := lat } }

/-- A word without result. -/
def noResult (s : State) : Act := .done s {}

/-! ## Sources and destinations of V (R32) -/

/-- A source specifier of V over 32-bit lanes (w = 1) or pairs (w = 2); none where REG_INVALID. -/
def Core.vsrc (c : Core) (sp : BitVec 7) (w : Nat) : Option (List W64) :=
  let all (v : W64) : List W64 := List.replicate 64 v
  let n := (sp.extractLsb' 0 5).toNat
  match (sp.extractLsb' 5 2).toNat with
  | 0 =>
    if w = 1 then (if (c.vec n).valid then some ((List.range 64).map fun i => ((c.vec n).lane i).setWidth 64) else none)
    else if (c.vec n).valid && (c.vec (n + 1)).valid then
      some ((List.range 64).map fun i => (((c.vec (n + 1)).lane i).setWidth 64 <<< 32) ||| ((c.vec n).lane i).setWidth 64)
    else none
  | 1 => if c.regsValid n w then some (all ((c.regs n w).setWidth 64)) else none
  | 3 => some (all (BitVec.ofInt 64 (sp.extractLsb' 0 5).toInt))
  | _ =>
    if sp.extractLsb' 4 1 = 0 then
      match c.v.rq[(sp.extractLsb' 0 4).toNat]? with
      | some v => some (v.toLanes.map fun x => if w = 1 then x &&& 0xFFFFFFFF else x)
      | none => none
    else if sp.extractLsb' 3 4 = 0b1010 then
      let p := (sp.extractLsb' 0 3).toNat
      some ((List.range 64).map fun i => if p = 0 || (sget 0 c.vpreds p).getLsbD i then 1 else 0)
    else match (sp.extractLsb' 0 3).toNat with
      | 1 => some (all 1)
      | 2 => some ((List.range 64).map fun i => BitVec.ofNat 64 i)
      | 3 => some (all (~~~0))
      | _ => some (all 0)

/-- Using a source of V. -/
def withV (s : State) (sp : BitVec 7) (w : Nat) (k : List W64 → Act) : Act :=
  match s.core.vsrc sp w with
  | some v => k v
  | none => .fault (stopCode cREG)

/-- The lanes whose guard is true (R37). -/
def Core.vguard (c : Core) (g : BitVec 4) : W64 :=
  let p := (g.extractLsb' 0 3).toNat
  let m := if p = 0 then ~~~0 else sget 0 c.vpreds p
  if g.getLsbD 3 then ~~~m else m

/-- A destination of V (R32). -/
def vdstOf (sp : BitVec 7) (wide pred : Bool) (mask : W64) : Dest :=
  if sp.extractLsb' 5 2 = 0 then .vec (sp.extractLsb' 0 5).toNat wide mask
  else if pred && sp.extractLsb' 3 4 = 0b1010 && sp.extractLsb' 0 3 ≠ 0 then .vpred (sp.extractLsb' 0 3).toNat mask
  else .none

/-- A result of V: guard-false lanes push zero and keep their destination lane (R37). -/
def vresult (s : State) (d : BitVec 7) (w lat : Nat) (mask : W64) (l : List W64) (pred : Bool := false) : Act :=
  let cut (v : W64) : W64 := if w = 1 then v &&& 0xFFFFFFFF else v
  let l := (List.range 64).map fun i => if mask.getLsbD i then cut (l.getD i 0) else 0
  .done s { res := some { val := .lanes l, dest := vdstOf d (w = 2) pred mask, lat := lat } }

/-! ## Operand and store queues (R157-R160) -/

/-- The filled bytes at the head of an operand queue (R158). -/
def oqFilled (l : List OqElem) : List Byte := (l.takeWhile fun e => e.filled && !e.fresh).flatMap (·.bytes)

/-- Bytes of an operand queue that are reserved and not yet popped (R158). -/
def oqReserved (l : List OqElem) : Nat := (l.map (·.bytes.length)).sum

/-- Taking n filled bytes from the head, without regard to element boundaries (R158). -/
def oqDrop : Nat → List OqElem → List OqElem
  | _, [] => []
  | n, e :: l =>
    if n = 0 then e :: l
    else if e.bytes.length ≤ n then oqDrop (n - e.bytes.length) l
    else { e with bytes := e.bytes.drop n } :: l

/-- Popping n bytes of oqk by a trio word (R91, R158, R160). -/
def popOq (s : State) (k n : Nat) (f : State → List Byte → Act) : Act :=
  let c := s.core
  let l := sget [] c.oq k
  if n ≤ (oqFilled l).length then f (s.setCore { c with oq := sset [] c.oq k (oqDrop n l) }) ((oqFilled l).take n)
  else if c.a.st.ended && oqReserved l < n then .fault { stopCode cREG with index := 0x110 + BitVec.ofNat 32 k }
  else .wait s

/-- Store queue capacity (R157). -/
def sqCap : Nat := 2048

/-! ## Types -/

/-- The width of an integer type's value operand (R109). -/
def widthT (t : BitVec 4) : Nat := 32 * wideT t
/-- The i types (R38). -/
def signedT (t : BitVec 4) : Bool := decide (t.toNat < 4)
/-- A BitVec read as its type's integer. -/
def intVal {w : Nat} (sg : Bool) (x : BitVec w) : Int := if sg then x.toInt else x.toNat

/-! ## The code a stream runs (R49, R50, R53) -/

/-- SEGVA of an instance (R284). -/
def Inst.segva (i : Inst) : W64 := BitVec.ofNat 64 (field i.launch 8 8)
/-- CORES of an instance (R284). -/
def Inst.size (i : Inst) : Nat := field i.launch 0x10 2
/-- The scratchpad size that the launch sets (R285). -/
def Inst.spadSize (i : Inst) : Nat := 1024 * (768 - 64 * (field i.launch 0x12 1 + 1))
/-- LOOPMAX of a level (R51). -/
def Inst.loopMax (i : Inst) (level : Nat) : Nat := field i.header (0x70 + 4 * level) 4

/-- The frame that admission recorded for a VA of the segment (R58). -/
def Inst.codeFrame (i : Inst) (va : W64) : Option W64 :=
  if va.toNat / 65536 < i.segva.toNat / 65536 then none else i.frames[va.toNat / 65536 - i.segva.toNat / 65536]?

/-- The frame is the one that admission recorded for the page of a VA: for the running instance's segment as it stood at its admission, or
for another segment admitted for the function (R53, R58). -/
def recordedFrame (s : State) (fn : Nat) (i : Inst) (va frame : W64) : Bool :=
  i.codeFrame va = some frame ||
  (s.admitted.filter fun e => e.1 = fn).any fun e => e.2.any fun r => match r with
    | some a => decide (a.va.toNat / 65536 ≤ va.toNat / 65536) && a.frames[va.toNat / 65536 - a.va.toNat / 65536]? = some frame
    | none => false

/-- The 8 bytes at an offset of the segment, under R53. -/
def fetchCode (s : State) (k : Nat) (off : Nat) : Rd :=
  let c := s.getC k
  match s.coreInst c with
  | none => .bad cPERM 0
  | some i =>
    let va := i.segva + BitVec.ofNat 64 off
    match translate s (.bench (benchOf k)) (s.coreFn c) va .fetch false with
    | .wait => .wait va
    | .bad code => .bad (if code = cECC then cECC else cPERM) va
    | .ok pa e =>
      if recordedFrame s (s.coreFn c) i va (BitVec.ofNat 64 (pa / 65536 * 65536)) then
        match firstErr s.errs pa 8 with
        | some (_, code) => .bad code va
        | none => .ok (s.mem.readKey (leafKey s (s.coreFn c) e) pa 8)
      else .bad cPERM va

/-- Using a word of the segment that the executing core's stream reads through its instruction cache (R107): on a miss the trio freezes, or A
is BLOCKED, until the word arrives (R93). A word that is held is used as it is: whether its page is still executable is asked when it is
fetched (DESIGN CHOICE, assumption 62). -/
def withCode (s : State) (st : StreamId) (off : Nat) (k : W64 → Act) : Act :=
  match sfind (s.core.str st).cache off with
  | some w => k w
  | none => .wait (s.setCore (s.core.modStr st fun m => { m with wants := some off }))

/-- The byte offset that a word at `pc` names with a signed word offset (R40). -/
def relPc (pc : Nat) (off : Int) : Nat := (((pc : Int) + 8 * off) % 2 ^ 32).toNat

/-! ## Group facts (R300, R304, R307) -/

/-- The share of part i of `count` items over `parts` (R307). -/
def shareOf (count parts i : Nat) : Nat × Nat :=
  if parts = 0 || decide (parts ≤ i) then (count, 0)
  else
    let q := count / parts
    let e := count % parts
    (i * q + min i e, q + if i < e then 1 else 0)


/-- The member's rank (R303, R306). -/
def pgRank (t : Option PgTable) : Nat := match t with | some t => t.rank | none => 0
/-- P (R302, R306). -/
def pgSize (t : Option PgTable) : Nat := match t with | some t => t.members.length | none => 1

/-- The count a loop-table level gives a core (R286). -/
def loopTableCount (c : Core) (i : Inst) (level : Nat) : Nat :=
  let count := field i.launch (0x40 + 8 * level) 4
  match field i.launch (0x44 + 8 * level) 1 with
  | 1 => count
  | 2 => (shareOf count i.size c.gidx).2
  | 3 => field i.launch (0x45 + 8 * level) 1
  | 4 => (shareOf count (pgSize i.pg) (pgRank i.pg)).2
  | _ => 0

/-! ## Addresses (R163) -/

/-- The address spaces (R38, R163). -/
inductive Space where
  | glob | spad | fab | dev
  deriving DecidableEq, Repr

/-- The space a code names (R38). -/
def spaceOf (sp : BitVec 2) : Space := match sp.toNat with | 0 => .glob | 1 => .spad | 2 => .fab | _ => .dev

/-- The effective address of a base value plus a signed byte offset (R163). -/
def effAddr (sp : Space) (base : W128) (off : Int) : W64 :=
  match sp with
  | .glob | .fab => base.setWidth 64 + BitVec.ofInt 64 off
  | .spad | .dev => ((base.setWidth 32 : W32) + BitVec.ofInt 32 off).setWidth 64

/-- The target device and function that a fabric base names (R163). -/
def fabTarget (base : W128) : Nat × Nat := ((base.extractLsb' 64 15).toNat, (base.extractLsb' 96 8).toNat)

/-- Bytes of a size code (R38). -/
def szBytes (sz : BitVec 3) : Nat := if sz = 5 then 256 else 2 ^ sz.toNat

end Sys2Proof.Machine
end

