-- ==== Sys2Proof/Machine/Pages.lean ====
section
/-! DEFINITION. Machine/Pages.lean: the states of pages and their moves (R366, R367), access counters (R369), the bench
TLBs (R364, R365), the fault buffers (R343), and the waiters of lock words (R192). -/

namespace Sys2Proof.Machine

/-! ## Cached translations (R364, R365) -/

/-- The base of the 64 KiB page of a VA. -/
def pageOf (va : W64) : W64 := BitVec.ofNat 64 (va.toNat / 65536 * 65536)

/-- Purging what a predicate selects from every micro-TLB, bench TLB, coalescing buffer and walker. -/
def purgeTlb (s : State) (p : Nat → W64 → Nat → Bool) : State :=
  let keep (l : List TlbEntry) : List TlbEntry := l.filter fun t => !p t.fn t.base t.size
  { s with walks := s.walks.filter (fun w => !p w.2.1 w.2.2 16)
           benches := s.benches.map fun e =>
      (e.1, { e.2 with tlb := keep e.2.tlb, utlb := e.2.utlb.map fun u => (u.1, keep u.2), misses := e.2.misses.filter fun m => !p m.1 m.2 16 }) }

/-- Purging the translations of one page. -/
def purgePage (s : State) (fn : Nat) (va : W64) : State :=
  purgeTlb s fun f base size => f = fn && decide (va.toNat / 2 ^ (max size 16) = base.toNat / 2 ^ (max size 16))

/-- Entries of a micro-TLB and of a bench TLB (R364). -/
def utlbSize : Nat := 64
/-- Entries of a bench TLB (R364). -/
def tlbSize : Nat := 2048

/-- An entry fills a TLB of a size: it replaces that of its page, and the oldest gives way (R365; assumption 1). -/
def tlbFill (size : Nat) (t : TlbEntry) (l : List TlbEntry) : List TlbEntry := (t :: l.filter fun u => !(u.fn = t.fn && u.base = t.base)).take size

/-- A miss of bench b enters its coalescing buffer of 256 entries, where it joins an entry of its key; a new entry goes to a walker. -/
def benchMiss (s : State) (b fn : Nat) (va : W64) : State :=
  let c := s.getB b
  if c.misses.contains (fn, pageOf va) || 256 ≤ c.misses.length then s
  else { s with walks := s.walks ++ [(b, fn, pageOf va)] }.modB b fun c => { c with misses := c.misses ++ [(fn, pageOf va)] }

/-- What an access does to cached translations (R364): a hit of the bench TLB fills the core's micro-TLB; a miss is walked. -/
def noteMiss (s : State) (v : Via) (fn : Nat) (va : W64) : State :=
  let covers (t : TlbEntry) : Bool := t.fn = fn && decide (va.toNat / 2 ^ t.size = t.base.toNat / 2 ^ t.size)
  match v with
  | .device => s
  | .bench b => if (s.getB b).tlb.any covers then s else benchMiss s b fn va
  | .core k =>
    let b := benchOf k
    let own := sget [] (s.getB b).utlb (k % 4)
    if own.any covers then s
    else match (s.getB b).tlb.find? covers with
      | some t => s.modB b fun c => { c with utlb := sput c.utlb (k % 4) (tlbFill utlbSize t own) }
      | none => benchMiss s b fn va

/-! ## Access counters (R369) -/

/-- The key of a page's counter. -/
def pageKey (fn : Nat) (va : W64) : Nat := fnIdx fn * 2 ^ 39 + va.toNat / 65536

/-- The function of a counter's key. -/
def keyFn (k : Nat) : Nat := k / 2 ^ 39

/-- Counters that a partition's pages hold. -/
def countersOf (s : State) (p : Nat) : Nat := (s.counters.filter fun e => partOf s (keyFn e.1) = some p).length

/-- A page enters RESIDENT_POOL: it takes a counter if its partition may hold one more, and has none otherwise while it stays there (R369). -/
def counterTake (s : State) (fn : Nat) (va e : W64) : State :=
  let p := ringPart s fn
  if cachedMode s fn || eHost e then s
  else if countersOf s p < (dcGet s (0x002B103C + 0x40 * p)).toNat then { s with counters := sput s.counters (pageKey fn va) 0 }
  else { s with untracked := s.untracked ++ [pageKey fn va] }

/-- A page leaves RESIDENT_POOL: its counter is released. -/
def counterDrop (s : State) (fn : Nat) (va : W64) : State :=
  { s with counters := sdel s.counters (pageKey fn va), untracked := s.untracked.filter fun k => k ≠ pageKey fn va }

/-- A page that software has made RESIDENT_POOL, or has taken out of it, since the device last looked: its counter follows (R369;
DESIGN CHOICE, assumption 69). -/
def counterSync (s : State) (fn : Nat) (va e : W64) : State :=
  let known : Bool := (sfind s.counters (pageKey fn va)).isSome || s.untracked.contains (pageKey fn va)
  if eState e = sPOOL then (if known then s else counterTake s fn va e) else if known then counterDrop s fn va else s

/-! ## Moves (R366, R367) -/

/-- The frame of `pa` becomes zero throughout, under a key. -/
def zeroFill (s : State) (key : Nat) (pa : W64) : State :=
  let m := s.mem.zeroFrame pa.toNat
  { s with mem := { m with owner := sput m.owner (pa.toNat / 65536) key }, residues := s.residues.filter fun e => e.1 / 65536 ≠ pa.toNat / 65536 }

/-- The entry while its page moves. -/
def eMigrating (e : W64) : W64 := eSet e sMIGR e &&& 0xFFCFFFFFFFFFFFFF

/-- An entry of another format (R361). -/
def eWithFmt (e : W64) (f : Nat) : W64 := (e &&& 0xFFCFFFFFFFFFFFFF) ||| (BitVec.ofNat 64 (f % 4) <<< 52)

/-- The first half of a move: the entry becomes MIGRATING, and translations of the page are purged (R365, R367). -/
def moveBegin (s : State) (m : PageMove) : State :=
  let s := s.paStore m.entryPa (leBytes 8 (eMigrating m.before).toNat)
  let s := if eState m.before = sPOOL then counterDrop s m.fn m.va else s
  { purgePage s m.fn m.va with moves := s.moves ++ [{ m with after := none }] }

/-- Queueing a move of a page: it begins at once, or after the bank dot operations that it follows (R376). -/
def moveQueue (s : State) (m : PageMove) : State :=
  match m.after with
  | some (_ :: _) => { s with moves := s.moves ++ [m] }
  | _ => moveBegin s { m with after := none }

/-- A frame goes back through RET (R368). -/
def giveBack (s : State) (fn : Nat) : Option W64 → State
  | some pa => ringReturn s (ringPart s fn) pa
  | none => s

/-- The pseudo-channel's row table names the function for all 64 rows of a frame that became COMPUTE (R373). -/
def ownRows (s : State) (fn : Nat) (pa : Nat) : State :=
  let base := (dcGet64 s (0x002B2010 + 0x800 * stackOf pa)).toNat + 64 * frameIdx pa
  s.paStore base (List.replicate 64 (BitVec.ofNat 8 (if fn < 128 then fn else 0x80)))

/-- The waiters of lock words on a page follow it to its new frame, or wait for a frame where it has none any more (R192, R367). -/
def moveLocks (s : State) (fn : Nat) (va : W64) (new : Option Nat) : State :=
  { s with lockQ := s.lockQ.map fun w =>
      if w.home = fn && pageOf w.va = pageOf va then
        (match new with
         | some f => { w with pa := f + w.va.toNat % 65536, gone := false }
         | none => { w with gone := true })
      else w }

/-- The second half of a move (R366, R367): where the entry still holds MIGRATING as the device wrote it, the contents
move, the entry is rewritten and the old frame returned; otherwise the new frame is returned. -/
def moveEnd (s : State) (m : PageMove) : State :=
  let s := { s with moves := s.moves.filter fun n => n ≠ m }
  if s.pa64 m.entryPa ≠ eMigrating m.before then giveBack (purgePage s m.fn m.va) m.fn m.newFrame
  else
    let s := match m.newFrame with
      | none => s
      | some f =>
        let l := s.mem.readKey (leafKey s m.fn m.before) (eFrame m.before) 65536
        let s := zeroFill s (leafKey s m.fn m.target) f
        { s with mem := s.mem.storeList f.toNat l }
    let s := moveLocks (s.paStore m.entryPa (leBytes 8 m.target.toNat)) m.fn m.va (m.newFrame.map BitVec.toNat)
    let s := if eState m.target = sPOOL then counterTake s m.fn m.va m.target else s
    giveBack (purgePage s m.fn m.va) m.fn m.oldFrame

/-- A promotion or a touch moves a pool page into an HBM frame (R366, R369); without a frame nothing happens. -/
def moveToHbm (s : State) (fn : Nat) (va : W64) (entryPa : Nat) (e : W64) : State :=
  match ringTake s (ringPart s fn) 0 with
  | (s, none) => s
  | (s, some f) =>
    moveBegin s { fn := fn, va := pageOf va, entryPa := entryPa, before := e,
                  target := eSet e sHBM f, oldFrame := some (BitVec.ofNat 64 (eFrame e)), newFrame := some f, after := none }

/-- An access of one line has reached its page through the home L2: a counted pool page counts it and may be promoted (R369). -/
def countAccess (s : State) (fn : Nat) (va : W64) : State :=
  match walk s fn va with
  | .bad _ => s
  | .leaf pa e =>
    let s := counterSync s fn va e
    if eState e ≠ sPOOL || cachedMode s fn then s
    else match sfind s.counters (pageKey fn va) with
      | none => s
      | some n =>
        let n := min (n.toNat + 1) 255
        let s := { s with counters := sput s.counters (pageKey fn va) (BitVec.ofNat 8 n) }
        let thr := (dcGet s (0x002B1038 + 0x40 * ringPart s fn) &&& 0xFF).toNat
        if thr ≠ 0 && decide (thr ≤ n) && eSize e = 0 then moveToHbm s fn va pa e else s

/-- An access of n bytes counts once for each 128-byte line (R369). -/
def countLines (s : State) (fn : Nat) (va : W64) (n : Nat) : State :=
  (List.range ((va.toNat % 128 + n + 127) / 128)).foldl (fun s i => countAccess s fn (BitVec.ofNat 64 (va.toNat / 128 * 128 + 128 * i))) s

/-! ## The fault buffers (R343) -/

/-- An access to the page waits: it is ABSENT, MIGRATING or REMOTE, or moves before the access (R362, R366). -/
def pageWaits (s : State) (fn : Nat) (va : W64) : Bool :=
  match walk s fn va with
  | .bad _ => false
  | .leaf _ e => eState e = sABSENT || eState e = sMIGR || eState e = sREMOTE || touchMoves s fn e

/-- A replayable fault of a stream of core k, or of an operation, enters its bench's buffer of 1,024 entries; an access
that finds it full waits outside. -/
def enterFault (s : State) (k : Nat) (st : StreamId) (op : Option (Nat × Nat)) (fn : Nat) (va : W64) (write : Bool) : State :=
  let b := benchOf k
  let c := s.getB b
  if (c.faults.any fun f => f.core = k && f.stream = st && f.op = op) || 1024 ≤ c.faults.length then s
  else s.modB b fun c => { c with faults := c.faults ++
    [{ core := k, stream := st, op := op, fn := fn, va := va, write := write, failed := none }] }

/-- The entry that a stream of core k waits for. -/
def waitsFault (s : State) (k : Nat) (st : StreamId) : Bool :=
  (s.getB (benchOf k)).faults.any fun f => f.core = k && f.stream = st && f.op.isNone

/-- The entry that an operation waits for. -/
def opWaitsFault (s : State) (k ctx slot : Nat) : Bool :=
  (s.getB (benchOf k)).faults.any fun f => f.op = some (ctx, slot)

/-- Dropping the entries that a predicate selects. -/
def dropFaults (s : State) (p : FaultEntry → Bool) : State :=
  { s with benches := s.benches.map fun e => (e.1, { e.2 with faults := e.2.faults.filter fun f => !p f }) }

/-- A resolution that fails: every entry that waits for the page will replay as a fault, and an access of the device itself as one that
could not be made (R462). -/
def failPage (s : State) (fn : Nat) (va : W64) (code : Byte) : State :=
  { s with devQ := s.devQ.map fun e => if e.fn = fn && e.page.toNat / 65536 = va.toNat / 65536 then { e with failed := true } else e
           benches := s.benches.map fun e => (e.1, { e.2 with faults := e.2.faults.map fun f =>
      if f.fn = fn && f.va.toNat / 65536 = va.toNat / 65536 && f.failed.isNone then { f with failed := some code } else f }) }

/-! ## Accesses of global memory by the executing core -/

/-- The address check of R164: a global or fabric VA has bits 63:55 zero. -/
def vaBad (va : W64) : Bool := decide (2 ^ 55 ≤ va.toNat)

/-- What every access of a core leaves besides its data: a TLB miss, and one draw of the free values (assumption 1). -/
def noteAccess (s : State) (va : W64) : State :=
  let s := noteMiss s (.core s.cur) (s.coreFn s.core) va
  { s with free := s.free + 1 }

/-- What an access of the executing core meets: it waits, it faults, or it goes on with the bytes. -/
inductive CoreRd where
  | wait (s : State)
  | fault (f : StopInfo)
  | ok (s : State) (l : List Byte)
  deriving DecidableEq, Repr

/-- A read by the executing core: it waits in the fault buffer, faults, or gives the bytes. -/
def readCore (s : State) (st : StreamId) (p : Perm) (va : W64) (n : Nat) : CoreRd :=
  let fn := s.coreFn s.core
  if waitsFault s s.cur st then .wait s
  else match readFrom s (.core s.cur) fn p false (n / 65536 + 2) va n with
    | .bad code a => .fault { stopCode code with addr := a }
    | .wait a => .wait (enterFault s s.cur st none fn a false)
    | .ok l => .ok s l

/-- A word that needs such a read. -/
def coreRead (s : State) (st : StreamId) (p : Perm) (va : W64) (n : Nat) (k : State → List Byte → Act) : Act :=
  match readCore s st p va n with
  | .wait s => .wait s
  | .fault f => .fault f
  | .ok s l => k s l

/-! ## Lock words (R191-R193) -/

/-- HELD of a lock word (R191). -/
def lockHeld (w : W64) : Bool := w.getLsbD 32
/-- SEQ of a lock word (R191). -/
def lockSeq (w : W64) : BitVec 16 := w.extractLsb' 48 16

/-- The lock word that a holder's acquire writes (R192). -/
def lockWord (seq : BitVec 16) (dev : BitVec 15) (ctx core : Nat) : W64 :=
  (seq.setWidth 64 <<< 48) ||| (dev.setWidth 64 <<< 33) ||| (1#64 <<< 32) ||| (BitVec.ofNat 64 (ctx % 65536) <<< 16) ||| BitVec.ofNat 64 (core % 512)

/-- Granting the oldest waiter of a lock word that a write left FREE (R193): the home writes the word for it and
answers it. -/
def grantLock (s : State) (pa : Nat) : State :=
  match s.lockQ.find? fun w => w.pa = pa && !w.gone with
  | none => s
  | some w =>
    let v := s.pa64 pa
    if lockHeld v then s
    else
      let s := { s with lockQ := s.lockQ.erase w }
      let s := s.paStore pa (leBytes 8 (lockWord (lockSeq v) w.dev w.ctx w.holder).toNat)
      match w.core with
      | some k => s.modC k fun c => { c with lock := .granted ((lockSeq v).setWidth 32) }
      | none => s.send w.home w.dev.toNat w.fn.toNat 5 0 w.tag (leBytes 8 (lockSeq v).toNat)

/-- The lock words that a write of n bytes at PA may have freed (R193). -/
def lockCheck (s : State) (pa n : Nat) : State :=
  (List.range ((pa + n + 7) / 8 - pa / 8)).foldl (fun s i => grantLock s (8 * (pa / 8 + i))) s

/-- The PA of a VA whose access passed; none otherwise. -/
def paOf (s : State) (fn : Nat) (va : W64) : Option Nat :=
  match walk s fn va with
  | .leaf _ e => some (eFrame e + va.toNat % 2 ^ pageBits e)
  | .bad _ => none

/-- A write by the executing core, whole or not at all; a waiter of a lock word that it frees is granted. -/
def writeCore (s : State) (st : StreamId) (va : W64) (l : List Byte) : CoreRd :=
  let fn := s.coreFn s.core
  if waitsFault s s.cur st then .wait s
  else match writeVa s (.core s.cur) fn va l with
    | .bad code a => .fault { stopCode code with addr := a }
    | .wait a => .wait (enterFault s s.cur st none fn a true)
    | .ok s' =>
      let s' := match paOf s fn va with | some pa => if s.lockQ = [] then s' else lockCheck s' pa l.length | none => s'
      .ok (countLines (noteAccess s' va) fn va l.length) []

/-- A word that makes such a write. -/
def coreWrite (s : State) (st : StreamId) (va : W64) (l : List Byte) (k : State → Act) : Act :=
  match writeCore s st va l with
  | .wait s => .wait s
  | .fault f => .fault f
  | .ok s _ => k s

end Sys2Proof.Machine
end

