-- ==== Sys2Proof/Machine/Regs.lean ====
section
/-! DEFINITION. Machine/Regs.lean: reads and writes of the device-control registers (R126, R216, R248, R269, R325, R338,
R341, R365, R368, R373, R397, R398, R400, R417). A write that starts a step of the device puts that step on the agenda. -/

namespace Sys2Proof.Machine

/-- Who accesses device-control space: a core, or the management mailbox (R325, R425). -/
abbrev Accessor := Option Nat

/-- A value with bits lo.. of width n. -/
def bitsAt (v lo : Nat) : W32 := BitVec.ofNat 32 (v * 2 ^ lo)

/-- The low or the high word of a 64-bit value. -/
def half {w : Nat} (v : BitVec w) (hi : Bool) : W32 := BitVec.ofNat 32 (if hi then v.toNat / 2 ^ 32 else v.toNat)

/-- A 64-bit value with one word replaced (R460). -/
def withHalf (v : W64) (hi : Bool) (x : W32) : W64 :=
  if hi then (v &&& 0x00000000FFFFFFFF) ||| (x.setWidth 64 <<< 32) else (v &&& 0xFFFFFFFF00000000) ||| x.setWidth 64

/-! ## The debug block of a core (R126) -/

/-- STATES of DBGSTAT. -/
def Core.states (c : Core) : Nat := c.s.st.code + 8 * c.v.st.code + 64 * c.a.st.code + 512 * c.x.st.code

/-- A read at offset o of a core's debug block. -/
def dbgRead (c : Core) (o : Nat) : W32 :=
  match o with
  | 0x00 => bitsAt c.dbg.stepEv.toNat 5 + bitsAt c.dbg.brkEn.toNat 4 + bitsAt c.dbg.dbgHold.toNat 3 + bitsAt c.dbg.hold.toNat 0
  | 0x04 => bitsAt (c.dbg.stepBusy || c.dbg.stepABusy).toNat 13 + bitsAt c.dbg.held.toNat 12 + bitsAt c.states 0
  | 0x08 => BitVec.ofNat 32 c.clk
  | 0x0C => c.dbg.brkCode.setWidth 32
  | 0x10 => BitVec.ofNat 32 c.s.pc
  | 0x14 => BitVec.ofNat 32 c.v.pc
  | 0x18 => BitVec.ofNat 32 c.a.pc
  | 0x1C => BitVec.ofNat 32 c.x.pc
  | _ => 0

/-- A write of DBGCTL: a step is taken while the core is HELD and no step is busy (R128). -/
def dbgWrite (s : State) (k : Nat) (v : W32) : State :=
  let c := s.getC k
  let idle := c.dbg.held && !c.dbg.stepBusy && !c.dbg.stepABusy
  let hold := v.getLsbD 0
  let d := { c.dbg with stepEv := v.getLsbD 5, brkEn := v.getLsbD 4, dbgHold := v.getLsbD 3, hold := hold,
                        held := c.dbg.held && hold, since := if c.dbg.hold then c.dbg.since else s.now + 1 }
  let s := s.putC k { c with dbg := d }
  let s := if hold && !c.dbg.hold then s.post (.debugHold k) else s
  let s := if idle && hold && v.getLsbD 1 then s.post (.debugStep k) else s
  if idle && hold && v.getLsbD 2 then s.post (.debugStepA k) else s

/-! ## The palette block (R269) -/

/-- State codes of PALENG (R269). -/
def EngSt.code : EngSt → Nat
  | .asleep => 0 | .waking => 1 | .awake => 2 | .leased => 3 | .drowsy => 4 | .evicting => 5 | .retired => 6

/-- The engine counts against the awake budget (R260). -/
def EngSt.counts : EngSt → Bool | .waking | .awake | .leased | .evicting => true | _ => false

/-- Engines that count against the budget (R260, R269). -/
def awakeCount (s : State) : Nat := (s.engines.filter fun e => e.2.st.counts).length

/-- PALENG(e). -/
def palEng (s : State) (e : Nat) : W32 :=
  let g := s.getE e
  bitsAt (match g.st, g.lease with | .leased, some l => l.1 | _, _ => 0) 16 + bitsAt g.revoke.isSome.toNat 3 + bitsAt g.st.code 0

/-! ## Queue blocks (R325) -/

/-- State codes of QSTAT (R325). -/
def QueueSt.code : QueueSt → Nat
  | .empty => 0 | .active => 1 | .running => 2 | .switchedOut => 3 | .suspended => 4 | .draining => 5 | .dead => 6

/-- A read at offset o of a queue's block. -/
def queueRead (q : Queue) (o : Nat) : W32 :=
  match o with
  | 0x00 => bitsAt q.prio.toNat 8 + bitsAt q.devapp.toNat 1 + bitsAt q.enable.toNat 0
  | 0x04 => q.tail
  | 0x08 => q.frozen.getD q.prog
  | 0x0C => bitsAt q.nfail.toNat 10 + bitsAt q.xdec.toNat 9 + bitsAt q.badtail.toNat 8 + bitsAt q.st.code 0
  | 0x10 => half q.base false
  | 0x14 => half q.base true
  | 0x18 => BitVec.ofNat 32 q.log2
  | _ => 0

/-- The queue may take another base or size (R325). -/
def Queue.idle (q : Queue) : Bool := q.st = .empty || q.st = .dead

/-- A write at offset o of a queue's block. -/
def queueWrite (s : State) (x q o : Nat) (v : W32) : State :=
  match o with
  | 0x00 =>
    let old := (s.getQ x q).enable
    let s := s.modQ x q fun m => { m with prio := v.extractLsb' 8 3, devapp := v.getLsbD 1 }
    if v.getLsbD 0 != old || (v.getLsbD 0 && (s.getQ x q).st = .dead) then s.post (.queueEnableWrite x q (v.getLsbD 0)) else s
  | 0x04 => s.post (.qtailWrite x q v)
  | 0x0C => s.modQ x q fun m => { m with nfail := m.nfail && !v.getLsbD 10, xdec := m.xdec && !v.getLsbD 9, badtail := m.badtail && !v.getLsbD 8 }
  | 0x10 => s.modQ x q fun m => if m.idle then { m with base := withHalf m.base false (v &&& 0xFFFFFFC0) } else m
  | 0x14 => s.modQ x q fun m => if m.idle then { m with base := withHalf m.base true (v &&& 0x007FFFFF) } else m
  | 0x18 => s.modQ x q fun m => if m.idle then { m with log2 := clampN 4 16 (v &&& 0x1F).toNat } else m
  | 0x1C =>
    if v = 1 then s.post (.queueSuspend x q)
    else if v = 2 then s.post (.queueResume x q)
    else if v = 3 then s.post (.queueDrain x q)
    else s
  | _ => s

/-- QWINFN as one accessor holds it (R325). -/
def qwinOf (s : State) : Accessor → Byte | some k => (s.getC k).qwin | none => s.qwinMbox

/-- A CTXID (R337). -/
def ctxId (fn lcl : Nat) : Nat := (if fn < 128 then fn else 128) * 16 + lcl

/-- The context and queue that an address of the queue window shows; none where the LOCAL holds no context. -/
def queueAt (s : State) (who : Accessor) (a : Nat) : Option (Nat × Nat × Nat) :=
  let x := ctxId (qwinOf s who).toNat ((a - 0x00280000) / 0x800)
  if (s.getX x).st = .free then none else some (x, a % 0x800 / 0x20, a % 0x20)

/-- The function of a context has register windows (R426): the physical function, and each virtual function that is enabled. -/
def shownFn (s : State) (x : Nat) : Bool := decide (128 ≤ x / 16) || decide (x / 16 < s.vfs)

/-- The offset within the mailbox that the host reaches at an offset of a register window (R425): window 0 of the physical function has it. -/
def mailboxAt (x a : Nat) : Option Nat := if x = 2048 && 0x1000 ≤ a && a < 0x1200 then some (a - 0x1000) else none

/-- The queue and the offset in its block that the host reaches at an offset of a context's register window (R325, R426); none where the
window shows no queue, or no context. -/
def hostQueueAt (s : State) (x a : Nat) : Option (Nat × Nat) :=
  if shownFn s x && (s.getX x).st ≠ .free && 0x00100000 ≤ a && a < 0x00100800 then some ((a - 0x00100000) / 0x20, a % 0x20) else none

/-- A write of MBCMD (R425): ignored while a command is in progress; its command starts, or is unknown. -/
def mailCommand (s : State) (v : W32) : State :=
  if s.mbox.busy then s
  else
    let start (e : Ev) : State := { s with mbox := { s.mbox with busy := true } }.post e
    match v.toNat with
    | 1 => start .dcread
    | 2 => start .dcwrite
    | 3 => start .idcert
    | 4 => start .quote
    | 5 => start .fwstage
    | 6 => start .scanrd
    | _ => { s with mbox := { s.mbox with result := 1 } }

/-- A read of the mailbox (R425). -/
def mailRead (s : State) (o : Nat) : W32 :=
  if o = 4 then bitsAt s.mbox.busy.toNat 31 + s.mbox.result.setWidth 32
  else if 0x100 ≤ o then BitVec.ofNat 32 (leNat (sgetList 0 s.mbox.data (o - 0x100) 4))
  else 0

/-- A write of the mailbox (R425). -/
def mailWrite (s : State) (o : Nat) (v : W32) : State :=
  if o = 0 then mailCommand s v
  else if 0x100 ≤ o then { s with mbox := { s.mbox with data := ssetList 0 s.mbox.data (o - 0x100) (leBytes 4 v.toNat) } }
  else s

/-! ## The array block of a bench (R216) -/

/-- State codes of ASTAT (R216). -/
def ArrSt.code : ArrSt → Nat
  | .idle => 0 | .leased => 1 | .loaded => 2 | .accumulating => 3 | .draining => 4

/-- The run's holder is bound to its partner (R227). -/
def Bench.paired (b : Bench) : Bool := b.claims.any fun c => c.bound

/-- A read at offset o of a bench's array block. -/
def arrayRead (s : State) (b : Bench) (o : Nat) : W32 :=
  match o with
  | 0x00 => bitsAt (b.claims.map fun c => 2 ^ c.k).sum 8 + bitsAt (match b.run with | some r => r.k | none => 0) 6 +
      bitsAt b.tag.isSome.toNat 5 + bitsAt b.run.isSome.toNat 4 + bitsAt b.paired.toNat 3 + bitsAt b.st.code 0
  | 0x04 => BitVec.ofNat 32 (match b.tag with | some t => t.ctx | none => 0)
  | 0x08 => (match b.tag with | some t => t.id | none => 0)
  | 0x0C => (match b.tag with | some t => t.ver | none => 0)
  | 0x10 => (match b.run with | some r => bitsAt (min (s.now - r.start) 0x3FFF) 16 + bitsAt r.cmds 0 | none => 0)
  | 0x14 => b.pairWait.setWidth 32
  | 0x18 => b.overs
  | _ => 0

/-! ## Ports, slots and rings (R397, R398, R400) -/

/-- State codes of LSTAT (R398). -/
def PortSt.code : PortSt → Nat
  | .down => 0 | .training => 1 | .up => 2 | .degraded => 3 | .retraining => 4

/-- Port q. -/
def State.port (s : State) (q : Nat) : Port := sget Port.reset s.ports q
/-- Changing port q. -/
def State.modPort (s : State) (q : Nat) (f : Port → Port) : State := { s with ports := sput s.ports q (f (s.port q)) }

/-- A read at offset o of a port's block. -/
def portRead (p : Port) (o : Nat) : W32 :=
  match o with
  | 0x00 => bitsAt p.peer.toNat 16 + bitsAt p.width.toNat 10 + bitsAt p.miscable.toNat 9 + bitsAt p.st.code 0
  | 0x04 => bitsAt p.enable.toNat 0
  | 0x08 => half p.laneBad false
  | 0x0C => half p.laneBad true
  | 0x10 => p.replays
  | 0x14 => p.crcs
  | 0x18 => p.retrains
  | _ => 0

/-- A write of LCTL. -/
def portWrite (s : State) (q : Nat) (v : W32) : State :=
  let s := if v.getLsbD 0 != (s.port q).enable then s.post (.portEnableWrite q (v.getLsbD 0)) else s
  if v.getLsbD 1 then s.post (.retrain q) else s

/-- Staged slot n. -/
def Slots.slot (t : Slots) (n : Nat) : Slot := sget Slot.reset t.staged n

/-- SLOTDEST words hold two ports each. -/
def destPair (l : Slot) (p : Nat) : W32 := bitsAt (l.dest.getD (p + 1) 0).toNat 16 + bitsAt (l.dest.getD p 0).toNat 0

/-- Storing one of 24 destinations. -/
def putDest (l : List (BitVec 16)) (p : Nat) (v : BitVec 16) : List (BitVec 16) :=
  (l ++ List.replicate (24 - l.length) 0).set p v

/-- The guard interval of the current slot is on. -/
def inGuard (s : State) : Bool :=
  match s.slots.slotStart with
  | some t => decide (s.now < t + (sget Slot.reset s.slots.active s.slots.cur).guard.toNat)
  | none => false

/-- A read at offset o of the slot block. -/
def slotRead (s : State) (o : Nat) : Option W32 :=
  let t := s.slots
  if o = 0 then some (bitsAt (t.nslot - 1) 8 + bitsAt t.sched.toNat 0)
  else if o = 4 then some (bitsAt t.rot.toNat 16 + bitsAt t.cur 8 + bitsAt (inGuard s).toNat 1 + bitsAt t.synced.toNat 0)
  else if o = 8 then some t.ofs
  else if o < 0x100 then some 0
  else if o < 0x100 + 0x40 * 64 then
    let l := t.slot ((o - 0x100) / 0x40)
    let r := (o - 0x100) % 0x40
    if r = 0 then some l.len else if r = 4 then some l.guard
    else if r < 0x38 then some (destPair l ((r - 8) / 2)) else some 0
  else none

/-- A write at offset o of the slot block. -/
def slotWrite (s : State) (o : Nat) (v : W32) : Option State :=
  let t := s.slots
  let put (n : Nat) (l : Slot) : State := { s with slots := { t with staged := sput t.staged n l } }
  if o = 0 then
    let s := { s with slots := { t with nslot := (v.extractLsb' 8 6).toNat + 1, sched := v.getLsbD 0 } }
    some (if v.getLsbD 1 then s.post .slotCommit else s)
  else if o = 8 then some { s with slots := { t with ofs := v } }
  else if o < 0x100 then some s
  else if o < 0x100 + 0x40 * 64 then
    let n := (o - 0x100) / 0x40
    let l := t.slot n
    let r := (o - 0x100) % 0x40
    if r = 0 then
      let len := clampN 1200 (2 ^ 24) v.toNat
      some (put n { l with len := BitVec.ofNat 32 len })
    else if r = 4 then some (put n { l with guard := BitVec.ofNat 32 (max 600 (min v.toNat (l.len.toNat / 2))) })
    else if r < 0x38 then
      let p := (r - 8) / 2
      some (put n { l with dest := putDest (putDest l.dest p (v.extractLsb' 0 16)) (p + 1) (v.extractLsb' 16 16) })
    else some s
  else none

/-- The key of ring k of fibre f. -/
def ringKey (f k : Nat) : Nat := 32 * f + k
/-- Ring k of fibre f. -/
def State.ring (s : State) (f k : Nat) : Ring := sget (Ring.reset k) s.rings (ringKey f k)

/-- A read at offset o of a ring. -/
def ringRead (g : Ring) (o : Nat) : W32 :=
  match o with
  | 0x0 => g.dac.setWidth 32
  | 0x4 => bitsAt g.valid.toNat 12 + (if g.mode = 0 then 0 else g.adc.setWidth 32)
  | 0x8 => bitsAt g.mode.toNat 4 + bitsAt g.wave.toNat 0
  | 0xC => bitsAt g.err.toNat 16 + bitsAt (g.dac = 0xFFF : Bool).toNat 3 + bitsAt (g.dac = 0 : Bool).toNat 2 +
      bitsAt g.settled.toNat 1 + bitsAt g.carry.toNat 0
  | _ => 0

/-! ## The device block (R414, R417) -/

/-- State codes of DEVSTAT (R414). -/
def DevSt.code : DevSt → Nat
  | .reset => 0 | .boot => 1 | .selftest => 2 | .ready => 3 | .safe => 4 | .frozen => 5

/-- DEVSTAT (R417). -/
def devStat (s : State) : W32 := bitsAt s.failUnit.toNat 16 + bitsAt s.failClass.toNat 8 + bitsAt s.dev.code 0

/-- What the host reads at an offset of a context's register window (R325, R417, R425): DEVSTAT at offset 0, the mailbox, the queues. -/
def hostRead (s : State) (x a : Nat) : W32 :=
  if a = 0 then (if shownFn s x then devStat s else 0)
  else match mailboxAt x a, hostQueueAt s x a with
    | some o, _ => mailRead s o
    | none, some (q, o) => queueRead (s.getQ x q) o
    | none, none => 0

/-- The host's write at an offset of a context's register window (R325, R425); of a FROZEN device only the mailbox answers (R416). -/
def hostWrite (s : State) (x a : Nat) (v : W32) : State :=
  match mailboxAt x a, hostQueueAt s x a with
  | some o, _ => mailWrite s o v
  | none, some (q, o) => if s.dev = .frozen then s else queueWrite s x q o v
  | none, none => s

/-- How a REGISTER_WRITE names an offset of a register window (DESIGN CHOICE, assumption 70): bit 31 set, the context in bits 30:19, bit 18 set
for offsets from 0x0010_0000 on. -/
def windowOf (a : Nat) : Option (Nat × Nat) :=
  if 2 ^ 31 ≤ a then some (a / 2 ^ 19 % 4096, if a / 2 ^ 18 % 2 = 1 then 0x00100000 + a % 2 ^ 18 else a % 2 ^ 18) else none

/-! ## Dot mode (R374) -/

/-- A channel belongs to the dot-mode set of some context that is neither SWITCHED_OUT nor FREE. -/
def dotWanted (s : State) (ch : Nat) : Bool :=
  s.ctxs.any fun e => e.2.st ≠ .free && e.2.st ≠ .switchedOut && e.2.dotSet.contains ch

/-- A channel is in dot mode: wanted, and not changing its mode. -/
def inDot (s : State) (ch : Nat) : Bool := dotWanted s ch && !s.chanChange.any fun e => e.1 = ch

/-! ## Contexts of a function or partition -/

/-- The function has a context. -/
def fnHasCtx (s : State) (fn : Nat) : Bool := s.ctxs.any fun e => e.2.st ≠ .free && e.2.fn = fn

/-- The partition has a context; the physical function counts with partition 0 (R338). -/
def partHasCtx (s : State) (p : Nat) : Bool := s.ctxs.any fun e => e.2.st ≠ .free && partOf s e.2.fn = some p

/-- HELD operations of a context (R248). -/
def heldCount (s : State) (x : Nat) : Nat := ((s.getX x).ops.filter fun e => e.2.st = .held).length

/-! ## Reading -/

/-- The value that a read of a device-control register returns; none where the address has no register (R164). -/
def regRead (s : State) (who : Accessor) (a : Nat) : Option W32 :=
  if a % 4 ≠ 0 then none
  else if 0x00200000 ≤ a && a < 0x00200000 + 0x40 * 384 then
    some (dbgRead (s.getC ((a - 0x00200000) / 0x40)) (a % 0x40))
  else if a = 0x00260000 then some (s.opdbgCtx.setWidth 32)
  else if a = 0x00260008 then some (s.opdbgResult.setWidth 32)
  else if a = 0x0026000C then some (BitVec.ofNat 32 (heldCount s s.opdbgCtx.toNat))
  else if 0x00260000 ≤ a && a < 0x00260040 then some 0
  else if a = 0x00270000 then some (BitVec.ofNat 32 s.budget)
  else if a = 0x00270004 then some (BitVec.ofNat 32 (awakeCount s))
  else if 0x00270020 ≤ a && a < 0x00270100 then some 0
  else if inArr a 0x00270100 4 192 then some (palEng s ((a - 0x00270100) / 4))
  else if 0x00280000 ≤ a && a < 0x00288000 then
    some (match queueAt s who a with | some (x, q, o) => queueRead (s.getQ x q) o | none => 0)
  else if a = 0x00288000 then some ((qwinOf s who).setWidth 32)
  else if inArr a 0x0029000C 0x10 24 then some (sget 0 s.deficit ((a - 0x0029000C) / 0x10))
  else if a = 0x002A0000 then some 0
  else if a = 0x002A0010 then
    some (bitsAt s.cmd.busy.toNat 31 + bitsAt s.cmd.result.toNat 16 + bitsAt s.cmd.ctx.toNat 0)
  else if inArr a 0x002A1000 4 2064 then some (BitVec.ofNat 32 (s.getX ((a - 0x002A1000) / 4)).st.code)
  else if a = 0x002B0808 then some 0
  else if a = 0x002B080C then some (bitsAt s.tlbiBusy.toNat 0)
  else if inArr a 0x002B201C 0x800 8 then some 0
  else if 0x002B2000 ≤ a && a < 0x002B2000 + 0x800 * 8 && 0x40 ≤ a % 0x800 && a % 0x800 < 0x70 then
    let st := (a - 0x002B2000) / 0x800
    let w := (a % 0x800 - 0x40) / 4
    some (BitVec.ofNat 32 ((List.range 32).map fun j => if inDot s (384 * st + 32 * w + j) then 2 ^ j else 0).sum)
  else if a = 0x002D0008 then some 0
  else if a = 0x002D000C then
    some (bitsAt s.scan.busy.toNat 31 + bitsAt s.scan.result.toNat 16 + bitsAt s.scan.check.toNat 0)
  else if a = 0x002D0010 then some s.scan.off
  else if 0x00300000 ≤ a && a < 0x00300000 + 0x40 * 96 then
    some (arrayRead s (s.getB ((a - 0x00300000) / 0x40)) (a % 0x40))
  else if 0x00400000 ≤ a && a < 0x00400000 + 0x400 * 48 && a % 0x400 < 0x20 * 18 then
    let f := (a - 0x00400000) / 0x400
    some (ringRead (s.ring f (a % 0x400 / 0x20)) (a % 0x20))
  else if 0x00500000 ≤ a && a < 0x00500000 + 0x40 * 28 then
    some (portRead (s.port ((a - 0x00500000) / 0x40)) (a % 0x40))
  else if a = 0x00502014 then
    some (BitVec.ofNat 32 (s.conns.filter fun c => !c.closed && c.st ≠ .spilled).length)
  else if 0x00600000 ≤ a && a < 0x00601100 then slotRead s (a - 0x00600000)
  else if a = 0x00700000 then some (devStat s)
  else if a = 0x00700004 then some 0
  else if (plainReg a).isSome then some (dcGet s a)
  else none

/-! ## Writing -/

/-- A write of SCANCMD (R58). -/
def scanCommand (s : State) (v : W32) : State :=
  let fn := (v.extractLsb' 0 8).toNat
  let cmd := (v.extractLsb' 24 8).toNat
  if s.scan.busy || 0x81 ≤ fn || cmd = 0 || 3 < cmd then s
  else
    let s := { s with scan := { s.scan with busy := true, fn := fn, va := dcGet64 s 0x002D0000 } }
    s.post (if cmd = 1 then .scanAdmit fn else if cmd = 2 then .withdraw fn else .withdrawAll fn)

/-- A write of CCMD (R341, R414, R415): refused outside READY; ignored while a command is in progress, but for a DESTROY of the context it
names; CREATE names none until it has made one. -/
def ctxCommand (s : State) (v : W32) : State :=
  let cmd := (v.extractLsb' 24 8).toNat
  let x := (v.extractLsb' 0 12).toNat
  if cmd = 0 || 7 < cmd then s
  else if s.dev ≠ .ready then { s with cmd := { s.cmd with busy := false, result := 1, ctx := BitVec.ofNat 16 x, cmd := BitVec.ofNat 8 cmd } }
  else if s.cmd.busy && !(cmd = 5 && s.cmd.cmd ≠ 1 && x = s.cmd.ctx.toNat) then s
  else
    let took := s.cmd.busy
    let s := { s with cmd := { busy := true, carg := dcGet64 s 0x002A0008, carg2 := dcGet64 s 0x002A0020, result := if took then 5 else 0,
                               ctx := if cmd = 1 then s.cmd.ctx else BitVec.ofNat 16 x, cmd := BitVec.ofNat 8 cmd } }
    s.post (match cmd with
      | 1 => .ctxCreate | 2 => .switchOut x | 3 => .switchIn x | 4 => .ctxRecover x | 5 => .ctxDestroy x
      | 6 => .migrateOut x | _ => .migrateIn x)

/-- A write of TLBICMD (R365). -/
def tlbiCommand (s : State) (v : W32) : State :=
  let fn := (v.extractLsb' 0 8).toNat
  let cmd := (v.extractLsb' 24 8).toNat
  if s.tlbiBusy || cmd = 0 || 3 < cmd then s
  else
    let s := { s with tlbiBusy := true }
    s.post (if cmd = 1 then .tlbiPage fn else if cmd = 2 then .tlbiFunction fn else .tlbiAll)

/-- A write of PCTL(p) (R338, R423). -/
def pctlWrite (s : State) (a p : Nat) (v : W32) : State :=
  let old := dcGet s a
  let cached := if partHasCtx s p then old.getLsbD 1 else v.getLsbD 1
  let s := dcPut s a (bitsAt cached.toNat 1 + bitsAt (v.getLsbD 0).toNat 0)
  if v.getLsbD 0 && !old.getLsbD 0 then s.post (.partitionEnable p) else s

/-- What a write of a device-control register leaves; none where the address has no register (R164). -/
def regWrite (s : State) (who : Accessor) (a : Nat) (v : W32) : Option State :=
  if a % 4 ≠ 0 then none
  else if inArr a 0x00200000 0x40 384 then some (dbgWrite s ((a - 0x00200000) / 0x40) v)
  else if a = 0x00260000 then some { s with opdbgCtx := v.setWidth 16 }
  else if a = 0x00260004 then some (s.post (.opdbgrel v))
  else if 0x00280000 ≤ a && a < 0x00288000 then
    some (match queueAt s who a with | some (x, q, o) => queueWrite s x q o v | none => s)
  else if a = 0x00288000 then
    let n : Byte := if 0x80 ≤ (v &&& 0xFF).toNat then 0x80 else v.setWidth 8
    some (match who with | some k => s.modC k fun c => { c with qwin := n } | none => { s with qwinMbox := n })
  else if inArr a 0x00290008 0x10 24 then some (pctlWrite s a ((a - 0x00290008) / 0x10) v)
  else if inArr a 0x00290200 4 128 && fnHasCtx s ((a - 0x00290200) / 4) then some s
  else if a = 0x002A0000 then some (ctxCommand s v)
  else if a = 0x002B0808 then some (tlbiCommand s v)
  else if inArr a 0x002B102C 0x40 24 then some (s.post (.rconsWrite ((a - 0x002B102C) / 0x40) v))
  else if inArr a 0x002B201C 0x800 8 then some (s.post (.rowval ((a - 0x002B201C) / 0x800) v))
  else if a = 0x002D0008 then some (scanCommand s v)
  else if inArr a 0x00300014 0x40 96 then
    some (s.modB ((a - 0x00300014) / 0x40) fun b => { b with pairWait := if v.setWidth 16 = (0 : BitVec 16) then 1 else v.setWidth 16 })
  else if 0x00400000 ≤ a && a < 0x00400000 + 0x400 * 48 && a % 0x400 < 0x20 * 18 then
    let f := (a - 0x00400000) / 0x400
    let k := a % 0x400 / 0x20
    if (dcGet s (0x004003C0 + 0x400 * f)).getLsbD 0 then
      some (if a % 0x20 = 0 then s.post (.ringHeatWrite f k v) else if a % 0x20 = 8 then s.post (.ringMapWrite f k v) else s)
    else some s
  else if inArr a 0x00500004 0x40 28 then some (portWrite s ((a - 0x00500004) / 0x40) v)
  else if 0x00600000 ≤ a && a < 0x00601100 then slotWrite s (a - 0x00600000) v
  else if a = 0x00700004 then
    some (if v.getLsbD 0 then s.post .freeze else if v.getLsbD 1 then s.post .warmReset else s)
  else if (plainReg a).isSome then some (dcPut s a (storedValue s a v))
  else if (regRead s who a).isSome then some s
  else none

end Sys2Proof.Machine
end

