-- ==== Sys2Proof/Machine/Flags.lean ====
section
/-! DEFINITION. Machine/Flags.lean: the conditions and truth values of the L9: comparisons (R112, R115, R133),
predicates (R113), branch conditions (R108). The L9 has no flag register: a comparison's result is a value. -/

namespace Sys2Proof.Machine

/-- An integer comparison under a condition code 0-5 (R112). -/
def cmpInt (code : Nat) (a b : Int) : Bool := condHolds code (some (compare a b))

/-- A truth value as a result. -/
def bitVal (b : Bool) : W128 := if b then 1 else 0

/-- The code an immediate specifier holds. -/
def immNat (sp : BitVec 7) : Nat := ((immOf sp).getD 0).toNat

/-- The branch condition of S, A and X (R108): none while A waits for the predicate (R152). -/
def branchTaken (c : Core) (st : StreamId) (o : FB) : Option Bool :=
  let p := o.p.toNat
  if st = .A && c.flight.any fun f => f.dest = .apred p then none
  else
    let v := match st with
      | .V =>
        let m : W64 := if p = 0 then ~~~0 else sget 0 c.vpreds p
        if o.k.getLsbD 0 then m = ~~~0 else m ≠ 0
      | .A => p = 0 || c.apreds.getLsbD p
      | _ => p = 0 || c.preds.getLsbD p
    some (v != (o.n = 1))

end Sys2Proof.Machine
end

