-- ==== Sys2Proof/Machine/SInt.lean ====
section
/-! DEFINITION. Machine/SInt.lean: the integer, move and predicate words of S (R109-R113), over operations that A's
address arithmetic shares (R161). -/

namespace Sys2Proof.Machine

/-! ## The functions of R109 and R110 -/

/-- A function of two values of one type: signed or not, width, operands. -/
abbrev Alu2 := Bool → (w : Nat) → BitVec w → BitVec w → BitVec w

/-- `add`. -/
def aluAdd : Alu2 := fun _ _ a b => a + b
/-- `sub`. -/
def aluSub : Alu2 := fun _ _ a b => a - b
/-- `mul`: the low w bits. -/
def aluMul : Alu2 := fun _ _ a b => a * b
/-- `mulh`: the high w bits of the 2w-bit product. -/
def aluMulh : Alu2 := fun sg w a b => BitVec.ofInt w (intVal sg a * intVal sg b / 2 ^ w)
/-- `div` (R110). -/
def aluDiv : Alu2 := fun sg _ a b => if b = 0 then ~~~0 else if sg then a.sdiv b else a / b
/-- `rem` (R110). -/
def aluRem : Alu2 := fun sg _ a b => if b = 0 then a else if sg then a.srem b else a % b
/-- `min`. -/
def aluMin : Alu2 := fun sg _ a b => if intVal sg b < intVal sg a then b else a
/-- `max`. -/
def aluMax : Alu2 := fun sg _ a b => if intVal sg a < intVal sg b then b else a
/-- `and`. -/
def aluAnd : Alu2 := fun _ _ a b => a &&& b
/-- `or`. -/
def aluOr : Alu2 := fun _ _ a b => a ||| b
/-- `xor`. -/
def aluXor : Alu2 := fun _ _ a b => a ^^^ b
/-- `andn`: a and not b. -/
def aluAndn : Alu2 := fun _ _ a b => a &&& ~~~b

/-- A function of a value and a 32-bit control. -/
abbrev AluC := Bool → (w : Nat) → BitVec w → W32 → BitVec w

/-- `shl`. -/
def aluShl : AluC := fun _ w a s => if w ≤ s.toNat then 0 else a <<< s.toNat
/-- `shr`. -/
def aluShr : AluC := fun _ w a s => if w ≤ s.toNat then 0 else a >>> s.toNat
/-- `sar`. -/
def aluSar : AluC := fun _ w a s => a.sshiftRight (min s.toNat w)
/-- `rot`: left by s mod w. -/
def aluRot : AluC := fun _ w a s => a.rotateLeft (s.toNat % w)

/-- Position and clipped width of a bit field (R109). -/
def fieldOf (w : Nat) (ctl : W32) : Nat × Nat :=
  let pos := (ctl.extractLsb' 0 6).toNat
  (pos, min (ctl.extractLsb' 8 7).toNat (w - pos))

/-- `bfx`. -/
def aluBfx : AluC := fun sg w a ctl =>
  let (pos, n) := fieldOf w ctl
  BitVec.ofInt w (intOf sg n (a.toNat / 2 ^ pos)) |> fun v => if n = 0 then 0 else v

/-- `bfi`. -/
def aluBfi (w : Nat) (a b : BitVec w) (ctl : W32) : BitVec w :=
  let (pos, n) := fieldOf w ctl
  let m := BitVec.ofNat w ((2 ^ n - 1) * 2 ^ pos)
  (a &&& ~~~m) ||| (b <<< pos &&& m)

/-- A function of one value. -/
abbrev Alu1 := (w : Nat) → BitVec w → BitVec w

/-- `clz`. -/
def aluClz : Alu1 := fun w a => if a = 0 then BitVec.ofNat w w else BitVec.ofNat w (w - 1 - Nat.log2 a.toNat)
/-- `ctz`. -/
def aluCtz : Alu1 := fun w a => BitVec.ofNat w (((List.range w).find? fun i => a.getLsbD i).getD w)
/-- `popc`. -/
def aluPopc : Alu1 := fun w a => BitVec.ofNat w ((List.range w).filter fun i => a.getLsbD i).length

/-! ## The shapes of integer words -/

/-- A latency by the width of T (R111, R154). -/
def latT (t : BitVec 4) (l32 l64 : Nat) : Nat := if wideT t = 2 then l64 else l32

/-- A word over two values of type T. -/
def int2 (st : StreamId) (o : FR) (lat : Nat) (f : Alu2) (s : State) : Act :=
  withSrc s st o.a (wideT o.t) fun a => withSrc s st o.b (wideT o.t) fun b =>
    result s st o.d (wideT o.t) lat ((f (signedT o.t) (widthT o.t) (a.setWidth _) (b.setWidth _)).setWidth 128)

/-- A word over a value of type T and a 32-bit control. -/
def intC (st : StreamId) (o : FR) (lat : Nat) (f : AluC) (s : State) : Act :=
  withSrc s st o.a (wideT o.t) fun a => with32 s st o.b fun b =>
    result s st o.d (wideT o.t) lat ((f (signedT o.t) (widthT o.t) (a.setWidth _) b).setWidth 128)

/-- A word over one value of type T. -/
def int1 (st : StreamId) (o : FR) (lat : Nat) (f : Alu1) (s : State) : Act :=
  withSrc s st o.a (wideT o.t) fun a =>
    result s st o.d (wideT o.t) lat ((f (widthT o.t) (a.setWidth _)).setWidth 128)

/-- A comparison under the code in C; the result is 32 bits and may go to a predicate (R112, R162). -/
def cmpAct (st : StreamId) (o : FR) (s : State) : Act :=
  withSrc s st o.a (wideT o.t) fun a => withSrc s st o.b (wideT o.t) fun b =>
    let v (x : W128) : Int := intVal (signedT o.t) (x.setWidth (widthT o.t))
    result s st o.d 1 1 (bitVal (cmpInt (immNat o.c) (v a) (v b))) true

/-- A source read as an element of type T and extended to `w` registers (R109, R161). -/
def extAct (st : StreamId) (o : FR) (w : Nat) (s : State) : Act :=
  with32 s st o.a fun a =>
    let n := match tyOf o.t.toNat with | .int _ k => k | .flt _ => 32
    result s st o.d w 1 (BitVec.ofInt 128 (intOf (signedT o.t) n a.toNat))

/-! ## The words of S -/

/-- `add` (R109). -/
def execAdd (h : Hdr) (o : FR) (s : State) : Host.Outcome State Fault Refusal :=
  runWord (.add h o) .S h o.g (some 1) s (int2 .S o 1 aluAdd)

/-- `sub` (R109). -/
def execSub (h : Hdr) (o : FR) (s : State) : Host.Outcome State Fault Refusal :=
  runWord (.sub h o) .S h o.g (some 1) s (int2 .S o 1 aluSub)

/-- `mul` (R109). -/
def execMul (h : Hdr) (o : FR) (s : State) : Host.Outcome State Fault Refusal :=
  runWord (.mul h o) .S h o.g (some (latT o.t 3 4)) s (int2 .S o (latT o.t 3 4) aluMul)

/-- `mulh` (R109). -/
def execMulh (h : Hdr) (o : FR) (s : State) : Host.Outcome State Fault Refusal :=
  runWord (.mulh h o) .S h o.g (some (latT o.t 3 4)) s (int2 .S o (latT o.t 3 4) aluMulh)

/-- `div` (R109). -/
def execDiv (h : Hdr) (o : FR) (s : State) : Host.Outcome State Fault Refusal :=
  runWord (.div h o) .S h o.g (some (latT o.t 18 34)) s (int2 .S o (latT o.t 18 34) aluDiv)

/-- `rem` (R109). -/
def execRem (h : Hdr) (o : FR) (s : State) : Host.Outcome State Fault Refusal :=
  runWord (.rem h o) .S h o.g (some (latT o.t 18 34)) s (int2 .S o (latT o.t 18 34) aluRem)

/-- `min` (R109). -/
def execMin (h : Hdr) (o : FR) (s : State) : Host.Outcome State Fault Refusal :=
  runWord (.min h o) .S h o.g (some 1) s (int2 .S o 1 aluMin)

/-- `max` (R109). -/
def execMax (h : Hdr) (o : FR) (s : State) : Host.Outcome State Fault Refusal :=
  runWord (.max h o) .S h o.g (some 1) s (int2 .S o 1 aluMax)

/-- `and` (R109). -/
def execAnd (h : Hdr) (o : FR) (s : State) : Host.Outcome State Fault Refusal :=
  runWord (.and h o) .S h o.g (some 1) s (int2 .S o 1 aluAnd)

/-- `or` (R109). -/
def execOr (h : Hdr) (o : FR) (s : State) : Host.Outcome State Fault Refusal :=
  runWord (.or h o) .S h o.g (some 1) s (int2 .S o 1 aluOr)

/-- `xor` (R109). -/
def execXor (h : Hdr) (o : FR) (s : State) : Host.Outcome State Fault Refusal :=
  runWord (.xor h o) .S h o.g (some 1) s (int2 .S o 1 aluXor)

/-- `andn` (R109). -/
def execAndn (h : Hdr) (o : FR) (s : State) : Host.Outcome State Fault Refusal :=
  runWord (.andn h o) .S h o.g (some 1) s (int2 .S o 1 aluAndn)

/-- `shl` (R109). -/
def execShl (h : Hdr) (o : FR) (s : State) : Host.Outcome State Fault Refusal :=
  runWord (.shl h o) .S h o.g (some 1) s (intC .S o 1 aluShl)

/-- `shr` (R109). -/
def execShr (h : Hdr) (o : FR) (s : State) : Host.Outcome State Fault Refusal :=
  runWord (.shr h o) .S h o.g (some 1) s (intC .S o 1 aluShr)

/-- `sar` (R109). -/
def execSar (h : Hdr) (o : FR) (s : State) : Host.Outcome State Fault Refusal :=
  runWord (.sar h o) .S h o.g (some 1) s (intC .S o 1 aluSar)

/-- `rot` (R109). -/
def execRot (h : Hdr) (o : FR) (s : State) : Host.Outcome State Fault Refusal :=
  runWord (.rot h o) .S h o.g (some 1) s (intC .S o 1 aluRot)

/-- `bfx` (R109). -/
def execBfx (h : Hdr) (o : FR) (s : State) : Host.Outcome State Fault Refusal :=
  runWord (.bfx h o) .S h o.g (some 1) s (intC .S o 1 aluBfx)

/-- `clz` (R109). -/
def execClz (h : Hdr) (o : FR) (s : State) : Host.Outcome State Fault Refusal :=
  runWord (.clz h o) .S h o.g (some 1) s (int1 .S o 1 aluClz)

/-- `ctz` (R109). -/
def execCtz (h : Hdr) (o : FR) (s : State) : Host.Outcome State Fault Refusal :=
  runWord (.ctz h o) .S h o.g (some 1) s (int1 .S o 1 aluCtz)

/-- `popc` (R109). -/
def execPopc (h : Hdr) (o : FR) (s : State) : Host.Outcome State Fault Refusal :=
  runWord (.popc h o) .S h o.g (some 1) s (int1 .S o 1 aluPopc)

/-- `mov` (R109). -/
def execMov (h : Hdr) (o : FR) (s : State) : Host.Outcome State Fault Refusal :=
  runWord (.mov h o) .S h o.g (some 1) s (int1 .S o 1 (fun _ a => a))

/-- `mad` (R109). -/
def execMad (h : Hdr) (o : FR) (s : State) : Host.Outcome State Fault Refusal :=
  runWord (.mad h o) .S h o.g (some (latT o.t 3 4)) s fun s =>
    withSrc s .S o.a (wideT o.t) fun a => withSrc s .S o.b (wideT o.t) fun b => withSrc s .S o.c (wideT o.t) fun c =>
      result s .S o.d (wideT o.t) (latT o.t 3 4) (a * b + c)

/-- `bfi` (R109). -/
def execBfi (h : Hdr) (o : FR) (s : State) : Host.Outcome State Fault Refusal :=
  runWord (.bfi h o) .S h o.g (some 1) s fun s =>
    withSrc s .S o.a (wideT o.t) fun a => withSrc s .S o.b (wideT o.t) fun b => with32 s .S o.c fun c =>
      result s .S o.d (wideT o.t) 1 ((aluBfi (widthT o.t) (a.setWidth _) (b.setWidth _) c).setWidth 128)

/-- `ext` (R109). -/
def execExt (h : Hdr) (o : FR) (s : State) : Host.Outcome State Fault Refusal :=
  runWord (.ext h o) .S h o.g (some 1) s (extAct .S o (if o.m.getLsbD 0 then 2 else 1))

/-- `sel` (R109). -/
def execSel (h : Hdr) (o : FR) (s : State) : Host.Outcome State Fault Refusal :=
  runWord (.sel h o) .S h o.g (some 1) s fun s =>
    with32 s .S o.a fun c => withSrc s .S o.b (wideT o.t) fun a => withSrc s .S o.c (wideT o.t) fun b =>
      result s .S o.d (wideT o.t) 1 (if c ≠ 0 then a else b)

/-- `cmp` (R112). -/
def execCmp (h : Hdr) (o : FR) (s : State) : Host.Outcome State Fault Refusal :=
  runWord (.cmp h o) .S h o.g (some 1) s (cmpAct .S o)

/-- `movi` (R109). -/
def execMovi (h : Hdr) (o : FI) (s : State) : Host.Outcome State Fault Refusal :=
  runWord (.movi h o) .S h 0 (some 1) s fun s => result s .S o.d 1 1 (o.imm.signExtend 128)

/-- `movh` (R109). -/
def execMovh (h : Hdr) (o : FI) (s : State) : Host.Outcome State Fault Refusal :=
  runWord (.movh h o) .S h 0 (some 1) s fun s =>
    with32 s .S o.a fun a => result s .S o.d 1 1 ((o.imm.extractLsb' 0 16 ++ a.extractLsb' 0 16).setWidth 128)

/-- `keep` (R109, R98). -/
def execKeep (h : Hdr) (o : FR) (s : State) : Host.Outcome State Fault Refusal :=
  runWord (.keep h o) .S h o.g (some 1) s fun s =>
    withSrc s .S o.a (wideT o.t) fun a => with32 s .S o.b fun c =>
      if c ≠ 0 then result s .S o.d (wideT o.t) 1 a
      else if o.d.extractLsb' 6 1 = 0 then withSrc s .S o.d (wideT o.t) fun d => result s .S o.d (wideT o.t) 1 d
      else result s .S o.d (wideT o.t) 1 0

/-- A predicate word over two truth values (R113). -/
def predAct (o : FR) (f : Bool → Bool → Bool) (s : State) : Act :=
  with32 s .S o.a fun a => with32 s .S o.b fun b => result s .S o.d 1 1 (bitVal (f (a ≠ 0) (b ≠ 0))) true

/-- `pand` (R113). -/
def execPand (h : Hdr) (o : FR) (s : State) : Host.Outcome State Fault Refusal :=
  runWord (.pand h o) .S h o.g (some 1) s (predAct o (fun a b => a && b))

/-- `por` (R113). -/
def execPor (h : Hdr) (o : FR) (s : State) : Host.Outcome State Fault Refusal :=
  runWord (.por h o) .S h o.g (some 1) s (predAct o (fun a b => a || b))

/-- `pxor` (R113). -/
def execPxor (h : Hdr) (o : FR) (s : State) : Host.Outcome State Fault Refusal :=
  runWord (.pxor h o) .S h o.g (some 1) s (predAct o (fun a b => a != b))

/-- `pnot` (R113). -/
def execPnot (h : Hdr) (o : FR) (s : State) : Host.Outcome State Fault Refusal :=
  runWord (.pnot h o) .S h o.g (some 1) s fun s =>
    with32 s .S o.a fun a => result s .S o.d 1 1 (bitVal (a = 0)) true

end Sys2Proof.Machine
end

