-- ==== Sys2Proof/Machine/SFloat.lean ====
section
/-! DEFINITION. Machine/SFloat.lean: the float words of S (R114-R116, R88). -/

namespace Sys2Proof.Machine

/-- The rounding mode of a word of S: SR, which no member accepts, acts as RNE without a draw (R58, R114). -/
def rmS (rm : BitVec 2) : BitVec 2 := if rm = 3 then 0 else rm

/-- A float word over two f32 values. -/
def float2 (o : FR) (lat : Nat) (f : BitVec 2 → W32 → W32 → W32) (s : State) : Act :=
  with32 s .S o.a fun a => with32 s .S o.b fun b => result s .S o.d 1 lat ((f (rmS o.rm) a b).setWidth 128)

/-- `fadd` (R114). -/
def execFadd (h : Hdr) (o : FR) (s : State) : Host.Outcome State Fault Refusal :=
  runWord (.fadd h o) .S h o.g (some 4) s (float2 o 4 fun rm a b => fadd rm 0 a b)

/-- `fsub` (R114). -/
def execFsub (h : Hdr) (o : FR) (s : State) : Host.Outcome State Fault Refusal :=
  runWord (.fsub h o) .S h o.g (some 4) s (float2 o 4 fun rm a b => fsub rm 0 a b)

/-- `fmul` (R114). -/
def execFmul (h : Hdr) (o : FR) (s : State) : Host.Outcome State Fault Refusal :=
  runWord (.fmul h o) .S h o.g (some 4) s (float2 o 4 fun rm a b => fmul rm 0 a b)

/-- `ffma` (R114). -/
def execFfma (h : Hdr) (o : FR) (s : State) : Host.Outcome State Fault Refusal :=
  runWord (.ffma h o) .S h o.g (some 4) s fun s =>
    with32 s .S o.a fun a => with32 s .S o.b fun b => with32 s .S o.c fun c =>
      result s .S o.d 1 4 ((ffma (rmS o.rm) 0 a b c).setWidth 128)

/-- `fdiv` (R114, R88). -/
def execFdiv (h : Hdr) (o : FR) (s : State) : Host.Outcome State Fault Refusal :=
  runWord (.fdiv h o) .S h o.g (some 14) s (float2 o 14 fun rm a b => fdiv rm 0 a b)

/-- `fsqrt` (R114, R88). -/
def execFsqrt (h : Hdr) (o : FR) (s : State) : Host.Outcome State Fault Refusal :=
  runWord (.fsqrt h o) .S h o.g (some 14) s fun s =>
    with32 s .S o.a fun a => result s .S o.d 1 14 ((fsqrt (rmS o.rm) 0 a).setWidth 128)

/-- `fmin` (R114). -/
def execFmin (h : Hdr) (o : FR) (s : State) : Host.Outcome State Fault Refusal :=
  runWord (.fmin h o) .S h o.g (some 2) s (float2 o 2 fun _ a b => fminmax false a b)

/-- `fmax` (R114). -/
def execFmax (h : Hdr) (o : FR) (s : State) : Host.Outcome State Fault Refusal :=
  runWord (.fmax h o) .S h o.g (some 2) s (float2 o 2 fun _ a b => fminmax true a b)

/-- `fcmp` (R115). -/
def execFcmp (h : Hdr) (o : FR) (s : State) : Host.Outcome State Fault Refusal :=
  runWord (.fcmp h o) .S h o.g (some 2) s fun s =>
    with32 s .S o.a fun a => with32 s .S o.b fun b =>
      result s .S o.d 1 2 (bitVal (condHolds (immNat o.c) ((f32v a).cmp (f32v b))))

/-- A conversion of one element: the same type copies the code, a NaN becoming canonical (R116, R140). -/
def convert (dst src : Nat) (rm : BitVec 2) (draw : Nat) (code : Nat) : Narrowed :=
  let sty := tyOf src
  if dst = src then
    { code := match sty with
        | .flt f => if sty.value code = .nan then f.nanCode.getD f.maxCode else code % 2 ^ (f.sbits + 1)
        | .int _ w => code % 2 ^ w
      sat := false, nan := false }
  else narrow (tyOf dst) rm draw (sty.value code)

/-- `fcvt` (R116): counted in slot SATSLOT. -/
def execFcvt (h : Hdr) (o : FR) (s : State) : Host.Outcome State Fault Refusal :=
  runWord (.fcvt h o) .S h o.g (some 3) s fun s =>
    let src := immNat o.c
    withSrc s .S o.a (wideT (BitVec.ofNat 4 src)) fun a =>
      let r := convert o.t.toNat src (rmS o.rm) 0 a.toNat
      let s := satWord s .S s.core.satslot.toNat (if r.sat then 1 else 0) (if r.nan then 1 else 0)
      result s .S o.d (wideT o.t) 3 (BitVec.ofNat 128 r.code)

/-- `fclass` (R115). -/
def execFclass (h : Hdr) (o : FR) (s : State) : Host.Outcome State Fault Refusal :=
  runWord (.fclass h o) .S h o.g (some 2) s fun s =>
    with32 s .S o.a fun a =>
      match tyOf o.t.toNat with
      | .flt f => result s .S o.d 1 2 (BitVec.ofNat 128 (2 ^ classBit f a.toNat))
      | .int _ _ => result s .S o.d 1 2 0

end Sys2Proof.Machine
end

