-- ==== Sys2Proof/Machine/Vec.lean ====
section
/-! DEFINITION. Machine/Vec.lean: the words of V on its lanes (R129-R151), but for the two that touch tiles. -/

namespace Sys2Proof.Machine

/-- The draws of the guard-true lanes, lane i from generator i, where the mode is SR (R133). -/
def laneDraws (rm : BitVec 2) (mask : W64) (gens : List W32) : List Nat × List W32 :=
  if rm = 3 then
    let l := gens.zipIdx.map fun (x, i) => if mask.getLsbD i then (genR (genNext x), genNext x) else (0, x)
    (l.map (·.1), l.map (·.2))
  else ([], gens)

/-- Applying a function of a lane's number to every lane. -/
def lanesOf (f : Nat → W64) : List W64 := (List.range 64).map f

/-- Lane i of a source as 32 bits. -/
def l32 (l : List W64) (i : Nat) : W32 := (l.getD i 0).setWidth 32

/-- The mode of a V word for f32; for an integer T any other RM than 0 makes no draw (R58, R134). -/
def rmV (o : FR) : BitVec 2 := if o.t = 8 then o.rm else 0

/-- A V word of `n` sources and one 32-bit result per lane: `f` gets the mode, the draw and the lanes (R134). -/
def vmap (o : FR) (n lat : Nat) (rm : BitVec 2) (f : Nat → W32 → W32 → W32 → W32) (s : State) : Act :=
  withV s o.a 1 fun a => withV s (if 2 ≤ n then o.b else 0b1011000) 1 fun b => withV s (if 3 ≤ n then o.c else 0b1011000) 1 fun c =>
    let mask := s.core.vguard o.g
    let (draws, gens) := laneDraws rm mask s.core.vgen
    let s := s.setCore { s.core with vgen := gens }
    vresult s o.d 1 lat mask (lanesOf fun i => (f (draws.getD i 0) (l32 a i) (l32 b i) (l32 c i)).setWidth 64)

/-- Choosing the function of a type: f32 or the integer form (R134). -/
def byType (o : FR) (f : W32 → W32 → W32 → W32) (g : Bool → W32 → W32 → W32 → W32) : W32 → W32 → W32 → W32 :=
  if o.t = 8 then f else g (o.t = 2)

/-- A NaN made canonical (R65). -/
def canon (x r : W32) : W32 := if f32v x = .nan then f32NaN else r

/-- `vadd` (R134). -/
def execVadd (h : Hdr) (o : FR) (s : State) : Host.Outcome State Fault Refusal :=
  runWord (.vadd h o) .V h 0 (some 4) s (fun s => vmap o 2 4 (rmV o) (fun r => byType o (fun a b c => fadd o.rm r a b) (fun sg a b c => a + b)) s)

/-- `vsub` (R134). -/
def execVsub (h : Hdr) (o : FR) (s : State) : Host.Outcome State Fault Refusal :=
  runWord (.vsub h o) .V h 0 (some 4) s (fun s => vmap o 2 4 (rmV o) (fun r => byType o (fun a b c => fsub o.rm r a b) (fun sg a b c => a - b)) s)

/-- `vmul` (R134). -/
def execVmul (h : Hdr) (o : FR) (s : State) : Host.Outcome State Fault Refusal :=
  runWord (.vmul h o) .V h 0 (some 4) s (fun s => vmap o 2 4 (rmV o) (fun r => byType o (fun a b c => fmul o.rm r a b) (fun sg a b c => a * b)) s)

/-- `vfma` (R134). -/
def execVfma (h : Hdr) (o : FR) (s : State) : Host.Outcome State Fault Refusal :=
  runWord (.vfma h o) .V h 0 (some 4) s (fun s => vmap o 3 4 (rmV o) (fun r => byType o (fun a b c => ffma o.rm r a b c) (fun sg a b c => a * b + c)) s)

/-- `vmin` (R134). -/
def execVmin (h : Hdr) (o : FR) (s : State) : Host.Outcome State Fault Refusal :=
  runWord (.vmin h o) .V h 0 (some 2) s (fun s => vmap o 2 2 0 (fun _ => byType o (fun a b _ => fminmax false a b) (fun sg a b _ => aluMin sg 32 a b)) s)

/-- `vmax` (R134). -/
def execVmax (h : Hdr) (o : FR) (s : State) : Host.Outcome State Fault Refusal :=
  runWord (.vmax h o) .V h 0 (some 2) s (fun s => vmap o 2 2 0 (fun _ => byType o (fun a b _ => fminmax true a b) (fun sg a b _ => aluMax sg 32 a b)) s)

/-- `vabs` (R134). -/
def execVabs (h : Hdr) (o : FR) (s : State) : Host.Outcome State Fault Refusal :=
  runWord (.vabs h o) .V h 0 (some 2) s (fun s => vmap o 1 2 0 (fun _ => byType o (fun a _ _ => canon a (a &&& 0x7FFFFFFF)) (fun _ a _ _ => if a.msb then -a else a)) s)

/-- `vneg` (R134). -/
def execVneg (h : Hdr) (o : FR) (s : State) : Host.Outcome State Fault Refusal :=
  runWord (.vneg h o) .V h 0 (some 2) s (fun s => vmap o 1 2 0 (fun _ => byType o (fun a _ _ => canon a (a ^^^ 0x80000000)) (fun _ a _ _ => -a)) s)

/-- `vdiv` (R134, R88). -/
def execVdiv (h : Hdr) (o : FR) (s : State) : Host.Outcome State Fault Refusal :=
  runWord (.vdiv h o) .V h 0 (some 14) s (fun s => vmap o 2 14 o.rm (fun r a b _ => fdiv o.rm r a b) s)

/-- `vsqrt` (R134, R88). -/
def execVsqrt (h : Hdr) (o : FR) (s : State) : Host.Outcome State Fault Refusal :=
  runWord (.vsqrt h o) .V h 0 (some 14) s (fun s => vmap o 1 14 o.rm (fun r a _ _ => fsqrt o.rm r a) s)

/-- `vrcp` (R135): no draw under any RM. -/
def execVrcp (h : Hdr) (o : FR) (s : State) : Host.Outcome State Fault Refusal :=
  runWord (.vrcp h o) .V h 0 (some 6) s (fun s => vmap o 1 6 0 (fun _ a _ _ => Sys2Proof.Machine.vrcp a) s)

/-- `vrsqrt` (R135): no draw under any RM. -/
def execVrsqrt (h : Hdr) (o : FR) (s : State) : Host.Outcome State Fault Refusal :=
  runWord (.vrsqrt h o) .V h 0 (some 6) s (fun s => vmap o 1 6 0 (fun _ a _ _ => Sys2Proof.Machine.vrsqrt a) s)

/-- `vexp2` (R135): no draw under any RM. -/
def execVexp2 (h : Hdr) (o : FR) (s : State) : Host.Outcome State Fault Refusal :=
  runWord (.vexp2 h o) .V h 0 (some 6) s (fun s => vmap o 1 6 0 (fun _ a _ _ => Sys2Proof.Machine.vexp2 a) s)

/-- `vlog2` (R135): no draw under any RM. -/
def execVlog2 (h : Hdr) (o : FR) (s : State) : Host.Outcome State Fault Refusal :=
  runWord (.vlog2 h o) .V h 0 (some 6) s (fun s => vmap o 1 6 0 (fun _ a _ _ => Sys2Proof.Machine.vlog2 a) s)

/-- `vand` (R136). -/
def execVand (h : Hdr) (o : FR) (s : State) : Host.Outcome State Fault Refusal :=
  runWord (.vand h o) .V h 0 (some 1) s (fun s => vmap o 2 1 0 (fun _ a b _ => a &&& b) s)

/-- `vor` (R136). -/
def execVor (h : Hdr) (o : FR) (s : State) : Host.Outcome State Fault Refusal :=
  runWord (.vor h o) .V h 0 (some 1) s (fun s => vmap o 2 1 0 (fun _ a b _ => a ||| b) s)

/-- `vxor` (R136). -/
def execVxor (h : Hdr) (o : FR) (s : State) : Host.Outcome State Fault Refusal :=
  runWord (.vxor h o) .V h 0 (some 1) s (fun s => vmap o 2 1 0 (fun _ a b _ => a ^^^ b) s)

/-- `vshl` (R136). -/
def execVshl (h : Hdr) (o : FR) (s : State) : Host.Outcome State Fault Refusal :=
  runWord (.vshl h o) .V h 0 (some 1) s (fun s => vmap o 2 1 0 (fun _ a b _ => aluShl false 32 a b) s)

/-- `vshr` (R136). -/
def execVshr (h : Hdr) (o : FR) (s : State) : Host.Outcome State Fault Refusal :=
  runWord (.vshr h o) .V h 0 (some 1) s (fun s => vmap o 2 1 0 (fun _ a b _ => aluShr false 32 a b) s)

/-- `vsar` (R136). -/
def execVsar (h : Hdr) (o : FR) (s : State) : Host.Outcome State Fault Refusal :=
  runWord (.vsar h o) .V h 0 (some 1) s (fun s => vmap o 2 1 0 (fun _ a b _ => aluSar true 32 a b) s)

/-- `vcmp` (R137): one truth value per lane, to a vector predicate, a vector or the queue. -/
def execVcmp (h : Hdr) (o : FR) (s : State) : Host.Outcome State Fault Refusal :=
  runWord (.vcmp h o) .V h 0 (some 2) s fun s =>
    withV s o.a 1 fun a => withV s o.b 1 fun b =>
      let hold (i : Nat) : Bool :=
        if o.t = 8 then condHolds (immNat o.c) ((f32v (l32 a i)).cmp (f32v (l32 b i)))
        else cmpInt (immNat o.c) (intVal (o.t = 2) (l32 a i)) (intVal (o.t = 2) (l32 b i))
      vresult s o.d 1 2 (s.core.vguard o.g) (lanesOf fun i => if hold i then 1 else 0) true

/-- `vsel` (R136). -/
def execVsel (h : Hdr) (o : FR) (s : State) : Host.Outcome State Fault Refusal :=
  runWord (.vsel h o) .V h 0 (some 1) s (fun s => vmap o 3 1 0 (fun _ c a b => if c ≠ 0 then a else b) s)

/-- A 32-bit lane extended to 64 bits, by sign for i32 (R136). -/
def extLane (o : FR) (x : W32) : W64 := if o.t = 2 then x.signExtend 64 else x.setWidth 64

/-- `vwadd` (R136). -/
def execVwadd (h : Hdr) (o : FR) (s : State) : Host.Outcome State Fault Refusal :=
  runWord (.vwadd h o) .V h 0 (some 2) s fun s =>
    let x64 := o.m.getLsbD 0
    withV s o.a (if x64 then 2 else 1) fun a => withV s o.b 1 fun b =>
      vresult s o.d 2 2 (s.core.vguard o.g)
        (lanesOf fun i => (if x64 then a.getD i 0 else extLane o (l32 a i)) + extLane o (l32 b i))

/-- `vwmul` (R136). -/
def execVwmul (h : Hdr) (o : FR) (s : State) : Host.Outcome State Fault Refusal :=
  runWord (.vwmul h o) .V h 0 (some 4) s fun s =>
    withV s o.a 1 fun a => withV s o.b 1 fun b =>
      vresult s o.d 2 4 (s.core.vguard o.g) (lanesOf fun i => extLane o (l32 a i) * extLane o (l32 b i))

/-! ## Cross-lane words (R138, R139) -/

/-- The operator that C names for type T (R138). -/
def scanOp (o : FR) (x y : W32) : W32 :=
  let sg := o.t = 2
  match immNat o.c with
  | 0 => if o.t = 8 then fadd (rmS o.rm) 0 x y else x + y
  | 1 => if o.t = 8 then fminmax false x y else aluMin sg 32 x y
  | 2 => if o.t = 8 then fminmax true x y else aluMax sg 32 x y
  | 3 => x &&& y
  | 4 => x ||| y
  | _ => x ^^^ y

/-- Its identity (R138). -/
def scanUnit (o : FR) : W32 :=
  match immNat o.c with
  | 1 => if o.t = 8 then 0x7F800000 else if o.t = 2 then 0x7FFFFFFF else 0xFFFFFFFF
  | 2 => if o.t = 8 then 0xFF800000 else if o.t = 2 then 0x80000000 else 0
  | 3 => 0xFFFFFFFF
  | _ => 0

/-- The lanes of A with the identity where the guard is false (R138). -/
def scanLanes (o : FR) (mask : W64) (a : List W64) : List W32 :=
  (List.range 64).map fun i => if mask.getLsbD i then l32 a i else scanUnit o

/-- The running results of a list under an operator, from a start. -/
def runs (f : W32 → W32 → W32) : W32 → List W32 → List W32
  | _, [] => []
  | s, x :: l => f s x :: runs f (f s x) l

/-- `vscan` (R138). -/
def execVscan (h : Hdr) (o : FR) (s : State) : Host.Outcome State Fault Refusal :=
  runWord (.vscan h o) .V h 0 (some 8) s fun s =>
    withV s o.a 1 fun a => withV s o.b 1 fun b =>
      let mask := s.core.vguard o.g
      let inc := runs (scanOp o) (l32 b 63) (scanLanes o mask a)
      let first := if o.t = 8 then oneNaN (l32 b 63) else l32 b 63
      let out := if o.m.getLsbD 0 then first :: inc.take 63 else inc
      vresult s o.d 1 8 mask (out.map fun x => x.setWidth 64)

/-- `vred` (R138). -/
def execVred (h : Hdr) (o : FR) (s : State) : Host.Outcome State Fault Refusal :=
  runWord (.vred h o) .V h 0 (some 8) s fun s =>
    withV s o.a 1 fun a => withV s o.b 1 fun b =>
      let mask := s.core.vguard o.g
      let r := scanOp o (l32 b 63) (tree (scanOp o) (scanUnit o) (scanLanes o mask a))
      vresult s o.d 1 8 mask (lanesOf fun _ => r.setWidth 64)

/-- The index in lane i (R139). -/
def laneIdx (l : List W64) (i n : Nat) : Nat := (l.getD i 0).toNat % n

/-- `vperm` (R139). -/
def execVperm (h : Hdr) (o : FR) (s : State) : Host.Outcome State Fault Refusal :=
  runWord (.vperm h o) .V h 0 (some 3) s fun s =>
    withV s o.a 1 fun a => withV s o.b 1 fun ix =>
      withV s (if o.m.getLsbD 0 then o.c else 0b1011000) 1 fun c =>
        vresult s o.d 1 3 (s.core.vguard o.g) (lanesOf fun i =>
          if o.m.getLsbD 0 then
            (let j := laneIdx ix i 128
             if j < 64 then a.getD j 0 else c.getD (j - 64) 0)
          else a.getD (laneIdx ix i 64) 0)

/-- `vbcast` (R139). -/
def execVbcast (h : Hdr) (o : FR) (s : State) : Host.Outcome State Fault Refusal :=
  runWord (.vbcast h o) .V h 0 (some 3) s fun s =>
    withV s o.a 1 fun a => withV s o.b 1 fun ix =>
      vresult s o.d 1 3 (s.core.vguard o.g) (lanesOf fun _ => a.getD (laneIdx ix 0 64) 0)

/-- `vrot` (R139). -/
def execVrot (h : Hdr) (o : FR) (s : State) : Host.Outcome State Fault Refusal :=
  runWord (.vrot h o) .V h 0 (some 3) s fun s =>
    withV s o.a 1 fun a => withV s o.b 1 fun b =>
      let k := laneIdx b 0 64
      vresult s o.d 1 3 (s.core.vguard o.g) (lanesOf fun i =>
        if o.m.getLsbD 0 then (if k ≤ i then a.getD (i - k) 0 else 0) else a.getD ((i + 64 - k) % 64) 0)

/-- `vcomp` (R139): its guard selects source lanes and every destination lane is written. -/
def execVcomp (h : Hdr) (o : FR) (s : State) : Host.Outcome State Fault Refusal :=
  runWord (.vcomp h o) .V h 0 (some 3) s fun s =>
    withV s o.a 1 fun a => withV s o.b 1 fun m =>
      let mask := s.core.vguard o.g
      let kept := ((List.range 64).filter fun i => l32 m i ≠ 0 && mask.getLsbD i).map fun i => a.getD i 0
      vresult s o.d 1 3 (~~~0) kept

/-! ## Conversions (R140-R143) -/

/-- The slot of a conversion: SATSLOT, or lane 0 of its slot specifier with `.slot` (R133). -/
def withSlotV (s : State) (o : FR) (sp : BitVec 7) (k : Nat → Act) : Act :=
  if o.m.getLsbD 0 then withV s sp 1 fun l => k (laneIdx l 0 1024) else k s.core.satslot.toNat

/-- The common end of a conversion: generators, saturation events and the lanes (R133). -/
def vconvEnd (s : State) (o : FR) (w lat slot : Nat) (mask : W64) (gens : List W32) (r : List Narrowed) : Act :=
  let s := s.setCore { s.core with vgen := gens }
  let live := (r.zipIdx.filter fun e => mask.getLsbD e.2).map (·.1)
  let s := satWord s .V slot (live.filter (·.sat)).length (live.filter (·.nan)).length
  vresult s o.d w lat mask (r.map fun n => BitVec.ofNat 64 n.code)

/-- `vcvt` (R140). -/
def execVcvt (h : Hdr) (o : FR) (s : State) : Host.Outcome State Fault Refusal :=
  runWord (.vcvt h o) .V h 0 (some 3) s fun s =>
    let src := immNat o.c
    withV s o.a (wideT (BitVec.ofNat 4 src)) fun a => withSlotV s o o.b fun slot =>
      let mask := s.core.vguard o.g
      let (draws, gens) := laneDraws o.rm mask s.core.vgen
      vconvEnd s o (wideT o.t) 3 slot mask gens ((List.range 64).map fun i =>
        narrow (tyOf o.t.toNat) o.rm (draws.getD i 0) ((tyOf src).value (a.getD i 0).toNat))

/-- The MX element format a T code names (R142). -/
def mxFmt (t : BitVec 4) : FFmt := match t.toNat with | 0xC => .e5m2 | 0xD => .e2m1 | _ => .e4m3

/-- `vmxq` (R142, R70): a guard-false lane enters as +0 and makes no draw. -/
def execVmxq (h : Hdr) (o : FR) (s : State) : Host.Outcome State Fault Refusal :=
  runWord (.vmxq h o) .V h 0 (some 6) s fun s =>
    withV s o.a 1 fun a => withSlotV s o o.b fun slot =>
      let mask := s.core.vguard o.g
      let vals := (List.range 64).map fun i => if mask.getLsbD i then f32v (l32 a i) else .zero
      let (draws, gens) := if blockBad vals then ([], s.core.vgen) else laneDraws o.rm mask s.core.vgen
      let q := quantBlock (mxFmt o.t) o.rm draws vals
      let s := s.setCore { s.core with vgen := gens }
      let s := satWord s .V slot q.sats q.nans
      vresult s o.d 1 6 mask (q.codes.map fun c => c.setWidth 64 ||| (q.scale.setWidth 64 <<< 8))

/-- `vmxd` (R142, R141): the scale is lane 0's. -/
def execVmxd (h : Hdr) (o : FR) (s : State) : Host.Outcome State Fault Refusal :=
  runWord (.vmxd h o) .V h 0 (some 3) s fun s =>
    withV s o.a 1 fun a =>
      let scale := (l32 a 0).extractLsb' 8 8
      vresult s o.d 1 3 (s.core.vguard o.g) (lanesOf fun i =>
        (toF32 0 0 (dequant (mxFmt o.t) scale ((l32 a i).toNat % 256))).setWidth 64)

/-- `vsatr` (R143). -/
def execVsatr (h : Hdr) (o : FR) (s : State) : Host.Outcome State Fault Refusal :=
  runWord (.vsatr h o) .V h 0 (some 3) s fun s =>
    withV s o.a 1 fun a => withV s o.b 1 fun b => withSlotV s o o.c fun slot =>
      let mask := s.core.vguard o.g
      let (draws, gens) := laneDraws o.rm mask s.core.vgen
      vconvEnd s o 1 3 slot mask gens ((List.range 64).map fun i =>
        narrow (tyOf o.t.toNat) o.rm (draws.getD i 0) ((Num.ofInt (l32 a i).toInt).scale2 (-(laneIdx b i 32 : Int))))

/-! ## Generators (R144) -/

/-- `vseed` (R144, R77). -/
def execVseed (h : Hdr) (o : FR) (s : State) : Host.Outcome State Fault Refusal :=
  runWord (.vseed h o) .V h 0 none s fun s =>
    withV s o.a 1 fun a =>
      let mask := s.core.vguard o.g
      let new := seedGens (l32 a 0)
      noResult (s.setCore { s.core with vgen := s.core.vgen.zipIdx.map fun (x, i) => if mask.getLsbD i then new.getD i 1 else x })

/-- `vrand` (R144). -/
def execVrand (h : Hdr) (o : FR) (s : State) : Host.Outcome State Fault Refusal :=
  runWord (.vrand h o) .V h 0 (some 2) s fun s =>
    let mask := s.core.vguard o.g
    let (_, gens) := laneDraws 3 mask s.core.vgen
    let s := s.setCore { s.core with vgen := gens }
    vresult s o.d 1 2 mask (lanesOf fun i =>
      if o.m.getLsbD 0 then (gens.getD i 0).setWidth 64 else BitVec.ofNat 64 (genR (gens.getD i 0)))

/-! ## Data movement (R145, R149) -/

/-- `vpop` (R145). -/
def execVpop (h : Hdr) (o : FI) (s : State) : Host.Outcome State Fault Refusal :=
  runWord (.vpop h o) .V h 0 (some 1) s fun s =>
    popOq s (o.imm.extractLsb' 0 3).toNat 256 fun s l =>
      vresult s o.d 1 1 (~~~0) (lanesOf fun i => BitVec.ofNat 64 (leNat ((l.drop (4 * i)).take 4)))

/-- `vpush` (R145). -/
def execVpush (h : Hdr) (o : FI) (s : State) : Host.Outcome State Fault Refusal :=
  runWord (.vpush h o) .V h 0 none s fun s =>
    withV s o.a 1 fun a =>
      let k := (o.imm.extractLsb' 0 3).toNat
      let q := sget [] s.core.sq k
      if sqCap < q.length + 256 then .wait s
      else noResult (s.setCore { s.core with sq := sput s.core.sq k (q ++ a.flatMap fun (x : W64) => leBytes 4 x.toNat) })

/-- `vmov` (R149). -/
def execVmov (h : Hdr) (o : FR) (s : State) : Host.Outcome State Fault Refusal :=
  runWord (.vmov h o) .V h 0 (some 1) s fun s =>
    let w := if o.m.getLsbD 0 then 2 else 1
    withV s o.a w fun a => vresult s o.d w 1 (s.core.vguard o.g) a

/-- `vext` (R149): its guard is lane 0's; D is a named scalar. -/
def execVext (h : Hdr) (o : FR) (s : State) : Host.Outcome State Fault Refusal :=
  runWord (.vext h o) .V h 0 (some 2) s fun s =>
    withV s o.a 1 fun a => withV s o.b 1 fun ix =>
      if (s.core.vguard o.g).getLsbD 0 then
        .done s { res := some { val := .lanes (lanesOf fun _ => a.getD (laneIdx ix 0 64) 0), dest := dstOf .V o.d 1 false, lat := 2 } }
      else .done s (zeroRes .V (some 2))

/-- `vins` (R149). -/
def execVins (h : Hdr) (o : FR) (s : State) : Host.Outcome State Fault Refusal :=
  runWord (.vins h o) .V h 0 (some 2) s fun s =>
    withV s o.a 1 fun a => withV s o.b 1 fun b => withV s o.c 1 fun ix =>
      vresult s o.d 1 2 (s.core.vguard o.g) (a.set (laneIdx ix 0 64) (b.getD 0 0))

/-! ## Vector predicates (R150) -/

/-- A word over truth values of the lanes (R150). -/
def vpredAct (o : FR) (n : Nat) (f : Bool → Bool → Bool) (s : State) : Act :=
  withV s o.a 1 fun a => withV s (if 2 ≤ n then o.b else 0b1011000) 1 fun b =>
    vresult s o.d 1 1 (s.core.vguard o.g) (lanesOf fun i => if f (l32 a i ≠ 0) (l32 b i ≠ 0) then 1 else 0) true

/-- `vpand` (R150). -/
def execVpand (h : Hdr) (o : FR) (s : State) : Host.Outcome State Fault Refusal :=
  runWord (.vpand h o) .V h 0 (some 1) s (vpredAct o 2 (fun a b => a && b))

/-- `vpor` (R150). -/
def execVpor (h : Hdr) (o : FR) (s : State) : Host.Outcome State Fault Refusal :=
  runWord (.vpor h o) .V h 0 (some 1) s (vpredAct o 2 (fun a b => a || b))

/-- `vpnot` (R150). -/
def execVpnot (h : Hdr) (o : FR) (s : State) : Host.Outcome State Fault Refusal :=
  runWord (.vpnot h o) .V h 0 (some 1) s (vpredAct o 1 (fun a _ => !a))

/-- `vpcnt` (R150). -/
def execVpcnt (h : Hdr) (o : FR) (s : State) : Host.Outcome State Fault Refusal :=
  runWord (.vpcnt h o) .V h 0 (some 3) s fun s =>
    withV s o.a 1 fun a =>
      let mask := s.core.vguard o.g
      let n := ((List.range 64).filter fun i => l32 a i ≠ 0 && mask.getLsbD i).length
      vresult s o.d 1 3 mask (lanesOf fun _ => BitVec.ofNat 64 n)

end Sys2Proof.Machine
end

