-- ==== Sys2Proof/Machine/Tile.lean ====
section
/-! DEFINITION. Machine/Tile.lean: tiles, masks and the tile words of X (R200-R210), the two tile words of V
(R146-R148), and the scratchpad (R194). -/

namespace Sys2Proof.Machine

/-! ## Shapes and elements (R68, R200, R201) -/

/-- The shape a TSH value holds (R123). -/
def shapeOf (v : W32) : TShape :=
  { et := (v.extractLsb' 0 5).toNat, rows := (v.extractLsb' 5 6).toNat + 1, cols := (v.extractLsb' 11 8).toNat + 1,
    blocked := v.getLsbD 19 }

/-- The shape of tile t of the executing core, as its word reads it at issue. -/
def State.shape (s : State) (t : Nat) : TShape := shapeOf (sget 0 s.core.tsh t)

/-- The element type carries square-block scales (R38). -/
def TShape.sb (sh : TShape) : Bool := (etTy sh.et).2
/-- Bits of an element. -/
def TShape.bits (sh : TShape) : Nat := etBits sh.et

/-- A shape that may be used (R68, R200). -/
def TShape.usable (sh : TShape) : Bool :=
  etAssigned sh.et && decide (rowBytes sh.et sh.cols ≤ 256) &&
  (if sh.sb then sh.rows % 8 = 0 && sh.cols % 8 = 0 else !sh.blocked)

/-- Element index of (r, c) (R68). -/
def TShape.idx (sh : TShape) (r c : Nat) : Nat :=
  if sh.blocked then 64 * (r / 8 * (sh.cols / 8) + c / 8) + 8 * (r % 8) + c % 8 else r * sh.cols + c

/-- Block index of the block that holds (r, c) (R68). -/
def TShape.blk (sh : TShape) (r c : Nat) : Nat := r / 8 * (sh.cols / 8) + c / 8

/-- Element bytes of the image (R201). -/
def TShape.elemBytes (sh : TShape) : Nat := (sh.rows * sh.cols * sh.bits + 7) / 8
/-- Scale bytes of the image (R201). -/
def TShape.scaleBytes (sh : TShape) : Nat := if sh.sb then sh.rows / 8 * (sh.cols / 8) else 0
/-- Bytes of the image (R201). -/
def TShape.imageBytes (sh : TShape) : Nat := sh.elemBytes + sh.scaleBytes

/-- Element e of a run of bytes by element width. -/
def elemAt (byte : Nat → Byte) (bits e : Nat) : Nat :=
  if bits = 4 then (let b := (byte (e / 2)).toNat; if e % 2 = 0 then b % 16 else b / 16)
  else leNat ((List.range (bits / 8)).map fun i => byte (bits / 8 * e + i))

/-- The code of element (r, c) of a tile. -/
def Tile.elem (t : Tile) (sh : TShape) (r c : Nat) : Nat := elemAt (fun i => sget 0 t.elems i) sh.bits (sh.idx r c)

/-- The scale byte of the block that holds (r, c). -/
def Tile.scale (t : Tile) (sh : TShape) (r c : Nat) : Byte := sget 0 t.scales (sh.blk r c)

/-- The exact value of element (r, c), its scale applied (R70, R209). -/
def Tile.value (t : Tile) (sh : TShape) (r c : Nat) : Num :=
  match etTy sh.et with
  | (.flt f, true) => dequant f (t.scale sh r c) (t.elem sh r c)
  | (ty, _) => ty.value (t.elem sh r c)

/-- The image of a tile (R201). -/
def Tile.image (t : Tile) (sh : TShape) : List Byte :=
  (List.range sh.elemBytes).map (fun i => sget 0 t.elems i) ++ (List.range sh.scaleBytes).map fun i => sget 0 t.scales i

/-- Writing element e of `bits` bits. -/
def putElem (m : Sparse Byte) (bits e : Nat) (v : W32) : Sparse Byte :=
  if bits = 4 then
    let b := (sget 0 m (e / 2)).toNat
    sset 0 m (e / 2) (BitVec.ofNat 8 (if e % 2 = 0 then b / 16 * 16 + v.toNat % 16 else b % 16 + 16 * (v.toNat % 16)))
  else ssetList 0 m (bits / 8 * e) (leBytes (bits / 8) v.toNat)

/-- The written elements of a tile, and the unused high nibble of an image with an odd number of 4-bit elements, which is zero (R201). -/
def TShape.padded (sh : TShape) (es : List (Nat × W32)) : List (Nat × W32) :=
  if sh.bits = 4 && sh.rows * sh.cols % 2 = 1 then es ++ [(sh.rows * sh.cols, 0)] else es

/-- The (row, column) pairs of a tile in the order of R75. -/
def TShape.cells (sh : TShape) : List (Nat × Nat) :=
  (List.range sh.rows).flatMap fun r => (List.range sh.cols).map fun c => (r, c)

/-! ## The scratchpad (R194) -/

/-- Writing bytes of the scratchpad of a core. -/
def Core.spadWrite (c : Core) (off : Nat) (l : List Byte) : Core := { c with spad := ssetList 0 c.spad off l }
/-- Reading bytes of the scratchpad. -/
def Core.spadRead (c : Core) (off n : Nat) : List Byte := sgetList 0 c.spad off n
/-- The 128-byte lines that n bytes from `off` touch. -/
def linesOf (off n : Nat) : List Nat := (List.range ((off + n + 127) / 128 - off / 128)).map fun i => off / 128 + i
/-- Every line of a range is FULL. -/
def Core.linesFull (c : Core) (off n : Nat) : Bool := (linesOf off n).all fun l => sget false c.lines l
/-- Setting the lines of a range. -/
def Core.setLines (c : Core) (off n : Nat) (full : Bool) : Core :=
  { c with lines := (linesOf off n).foldl (fun m l => sset false m l full) c.lines }
/-- The scratchpad size of the executing core (R285). -/
def State.spadSize (s : State) : Nat := match s.coreInst s.core with | some i => i.spadSize | none => 0

/-! ## Tile state and hazards (R202, R203) -/

/-- Tile t of a core. -/
def Core.tile (c : Core) (t : Nat) : Tile := sget Tile.reset c.tiles t
/-- Setting a tile's state. -/
def Core.setFull (c : Core) (t : Nat) (full : Bool) : Core := { c with tiles := sput c.tiles t { c.tile t with full := full } }

/-- An earlier trio word's write to tile t is in flight (R203); a `vtwr` that has issued in this trio clock is no earlier word (R148). -/
def Core.tileInFlight (c : Core) (t : Nat) : Bool :=
  (c.tileW.any fun w => match w.target with | .tile u _ _ _ _ _ => u = t && !(w.stream = .V && decide (w.due = c.clk + 1)) | _ => false) ||
  c.seqs.any fun q => match q with | .load _ u _ _ _ _ _ _ _ => u = t | _ => false

/-- An operation of the core names tile t (R203). -/
def Core.tileBusy (c : Core) (t : Nat) : Bool := c.busyTiles.any fun e => e.2.contains t

/-- Reading tile t: the trio freezes while it is EMPTY (R203); a data error of the tile's SRAM halts with SRAM_ECC (R5; DESIGN CHOICE, assumption 68). -/
def withTile (s : State) (t : Nat) (k : Tile → Act) : Act :=
  let v := s.core.tile t
  if !v.full then .wait s
  else if (sget [] s.tileErrs s.cur).contains t then .fault (stopCode cSRAM)
  else k v

/-- Writing tile t: the trio freezes while an operation names it or an earlier write is in flight (R203). -/
def whenWritable (s : State) (t : Nat) (k : Act) : Act :=
  let c := s.core
  if c.tileBusy t || (!(c.tile t).full && c.tileInFlight t) then .wait s else k

/-- TILE_TYPE (R200, R206). -/
def tileType : Act := .fault (stopCode cTILE)

/-- Bits of the masks a word selects (R204). -/
def State.rowM (s : State) (n : BitVec 2) : W64 := sget (~~~0) s.core.rowMask n.toNat
/-- Bits of the masks a word selects (R204). -/
def State.colM (s : State) (n : BitVec 2) : BitVec 256 := sget (~~~0) s.core.colMask n.toNat

/-- A trio tile word's write: the tile is EMPTY until issue + L (R202). -/
def tileWrite (s : State) (t : Nat) (sh : TShape) (lat : Nat) (elems : List (Nat × W32)) (scales : List (Nat × Byte)) : Act :=
  let c := s.core
  let w : TileWrite := { stream := .X, due := c.clk + lat,
                         target := .tile t sh.bits (sh.padded elems) scales sh.elemBytes sh.scaleBytes }
  .done (s.setCore ({ c with tileW := c.tileW ++ [w] }.setFull t false)) { lat := lat }

/-- Applying a delivered write. A delivered write makes its tile FULL: a `vtwr` beside an X word of latency L that writes the same FULL tile
makes it FULL at the next clock, before X's write lands (DESIGN CHOICE between R148 and R202, assumption 65). -/
def Core.applyTarget (c : Core) : TileTarget → Core
  | .tile t bits elems scales used usedScales =>
    let v := c.tile t
    let es := elems.foldl (fun m e => putElem m bits e.1 e.2) v.elems
    let sc := scales.foldl (fun m e => sset 0 m e.1 e.2) v.scales
    let v' : Tile := { elems := skeep es fun i => i < used, scales := skeep sc fun i => i < usedScales, full := true }
    { c with tiles := sput c.tiles t v' }
  | .spad base bytes full =>
    let c := c.spadWrite base bytes
    if full then c.setLines base bytes.length true else c

/-- The elements and scales that an image writes under masks (R208). -/
def imageWrites (sh : TShape) (rm : W64) (cm : BitVec 256) (img : Nat → Byte) : List (Nat × W32) × List (Nat × Byte) :=
  let on := sh.cells.filter fun (r, c) => rm.getLsbD r && cm.getLsbD c
  (on.map fun (r, c) => (sh.idx r c, BitVec.ofNat 32 (elemAt img sh.bits (sh.idx r c))),
   if sh.sb then (on.filter fun (r, c) => r % 8 = 0 && c % 8 = 0).map fun (r, c) => (sh.blk r c, img (sh.elemBytes + sh.blk r c)) else [])

/-- The writes of a core that are due: V's before X's where their clocks are equal (R148). -/
def Core.tileDue (c : Core) : List TileWrite :=
  let d := c.tileW.filter fun w => decide (w.due ≤ c.clk)
  (d.filter fun w => w.stream = .V) ++ d.filter fun w => w.stream ≠ .V

/-- The loads through a queue that are complete and due. -/
def seqDue (clk : Nat) : TileSeq → Bool
  | .load _ _ _ _ _ got need _ due => decide (need ≤ got.length) && decide (due ≤ clk)
  | .store .. => false

/-- Delivering the tile writes that are due. -/
def Core.settleTiles (c : Core) : Core :=
  let c' := c.tileDue.foldl (fun c w => c.applyTarget w.target) c
  let c' := (c.seqs.filter (seqDue c.clk)).foldl (fun c q =>
    match q with
    | .load _ t sh rm cm got _ _ _ =>
      let (es, sc) := imageWrites sh rm cm fun i => got.getD i 0
      c.applyTarget (.tile t sh.bits (sh.padded es) sc sh.elemBytes sh.scaleBytes)
    | _ => c) c'
  { c' with tileW := c.tileW.filter fun w => !decide (w.due ≤ c.clk), seqs := c.seqs.filter fun q => !seqDue c.clk q }

/-! ## The words of the tile group (R206-R210) -/

/-- A word that writes TD of element type ET: the shape must be usable and of that type (R200, R206). -/
def withDst (s : State) (o : FT) (k : TShape → Act) : Act :=
  let sh := s.shape o.td.toNat
  if !sh.usable || sh.et ≠ o.et.toNat then tileType else whenWritable s o.td.toNat (k sh)

/-- A word that reads a tile of a usable shape. -/
def withSrcTile (s : State) (t : BitVec 4) (k : TShape → Tile → Act) : Act :=
  let sh := s.shape t.toNat
  if !sh.usable then tileType else withTile s t.toNat fun v => k sh v

/-- The written elements of a destination (R206). -/
def onCells (s : State) (o : FT) (sh : TShape) : List (Nat × Nat) :=
  let rm := s.rowM o.rms
  let cm := s.colM o.cms
  sh.cells.filter fun (r, c) => rm.getLsbD r && cm.getLsbD c

/-- The blocks whose scale a word writes: those whose element (8I, 8J) it writes. R206 to R208 say so of `tzero`, `tld` and `tcvt`; of `tmov` and
`tscale` the model takes the same (DESIGN CHOICE, assumption 66). -/
def onBlocks (sh : TShape) (on : List (Nat × Nat)) : List (Nat × Nat) :=
  if sh.sb then on.filter fun (r, c) => r % 8 = 0 && c % 8 = 0 else []

/-- `tzero` (R207). -/
def execTzero (h : Hdr) (o : FT) (s : State) : Host.Outcome State Fault Refusal :=
  runWord (.tzero h o) .X h o.g none s fun s => withDst s o fun sh =>
    let on := onCells s o sh
    tileWrite s o.td.toNat sh (sh.rows + 2) (on.map fun (r, c) => (sh.idx r c, 0)) ((onBlocks sh on).map fun (r, c) => (sh.blk r c, 0))

/-- A scratchpad operand of X: its faults (R208), then its effect. -/
def withSpad (s : State) (o : FT) (n : Nat) (k : Nat → Act) : Act :=
  with32 s .X o.s fun a =>
    if a.toNat % 16 ≠ 0 then .fault { stopCode cALIGN with addr := a.setWidth 64 }
    else if s.spadSize < a.toNat + n then .fault { stopCode cUNMAPPED with addr := a.setWidth 64 }
    else k a.toNat

/-- Clocks of a `tld` or `tst` (R206). -/
def imageLat (sh : TShape) : Nat := (sh.imageBytes + 255) / 256 + 2

/-- `tld` (R207, R208). -/
def execTld (h : Hdr) (o : FT) (s : State) : Host.Outcome State Fault Refusal :=
  runWord (.tld h o) .X h o.g none s fun s => withDst s o fun sh =>
    let rm := s.rowM o.rms
    let cm := s.colM o.cms
    let n := sh.imageBytes
    if o.m.getLsbD 0 then
      withSpad s o n fun a =>
        if !s.core.linesFull a n then .wait s
        else if spadErr s s.cur a n then .fault { stopCode cSRAM with addr := BitVec.ofNat 64 a }
        else
          let img := s.core.spadRead a n
          let at_ (i : Nat) : Byte := img.getD i 0
          if o.m.getLsbD 2 then
            let on := onCells s o sh
            tileWrite s o.td.toNat sh (imageLat sh)
              (on.map fun (r, c) => (sh.idx r c, BitVec.ofNat 32 (elemAt at_ sh.bits (c * sh.rows + r)))) []
          else
            let (es, sc) := imageWrites sh rm cm at_
            tileWrite s o.td.toNat sh (imageLat sh) es sc
    else
      let q := if o.m.getLsbD 1 then 5 else 4
      popOq s q (min n 256) fun s got =>
        let c := s.core
        let seq : TileSeq := .load q o.td.toNat sh rm cm got n (c.clk + 1) (c.clk + imageLat sh)
        .done (s.setCore ({ c with seqs := c.seqs ++ [seq] }.setFull o.td.toNat false)) { lat := imageLat sh }

/-- Pushing up to 256 bytes into a store queue; none where it lacks room (R208). -/
def Core.pushChunk (c : Core) (q : Nat) (l : List Byte) : Option Core :=
  let cur := sget [] c.sq q
  if sqCap < cur.length + min l.length 256 then none else some { c with sq := sput c.sq q (cur ++ l.take 256) }

/-- `tst` (R207, R208). -/
def execTst (h : Hdr) (o : FT) (s : State) : Host.Outcome State Fault Refusal :=
  runWord (.tst h o) .X h o.g none s fun s =>
    let sh := s.shape o.ta.toNat
    if !sh.usable || sh.et ≠ o.et.toNat then tileType
    else
      let eff (v : Tile) : Act :=
        let img := v.image sh
        if o.m.getLsbD 0 then
          withSpad s o img.length fun a =>
            let w : TileWrite := { stream := .X, due := s.core.clk + imageLat sh, target := .spad a img (o.m.getLsbD 2) }
            .done (s.setCore { s.core with tileW := s.core.tileW ++ [w] }) { lat := imageLat sh }
        else
          let q := if o.m.getLsbD 1 then 1 else 0
          match s.core.pushChunk q img with
          | none => .wait s
          | some c =>
            let rest := img.drop 256
            .done (s.setCore (if rest = [] then c else { c with seqs := c.seqs ++ [.store q rest (c.clk + 1)] }))
              { lat := imageLat sh }
      withTile s o.ta.toNat eff

/-- `tmov` (R207). -/
def execTmov (h : Hdr) (o : FT) (s : State) : Host.Outcome State Fault Refusal :=
  runWord (.tmov h o) .X h o.g none s fun s => withDst s o fun sh => withSrcTile s o.ta fun sa v =>
    let tr := o.m.getLsbD 0
    if sa.et ≠ sh.et || (if tr then sa.rows ≠ sh.cols || sa.cols ≠ sh.rows else sa.rows ≠ sh.rows || sa.cols ≠ sh.cols) then tileType
    else
      let on := onCells s o sh
      let from_ (r c : Nat) : Nat × Nat := if tr then (c, r) else (r, c)
      tileWrite s o.td.toNat sh (sh.rows + 2)
        (on.map fun (r, c) => (sh.idx r c, BitVec.ofNat 32 (v.elem sa (from_ r c).1 (from_ r c).2)))
        ((onBlocks sh on).map fun (r, c) => (sh.blk r c, v.scale sa (from_ r c).1 (from_ r c).2))

/-- `tfill` (R207). -/
def execTfill (h : Hdr) (o : FT) (s : State) : Host.Outcome State Fault Refusal :=
  runWord (.tfill h o) .X h o.g none s fun s => withDst s o fun sh => with32 s .X o.s fun a =>
    tileWrite s o.td.toNat sh (sh.rows + 2) ((onCells s o sh).map fun (r, c) => (sh.idx r c, a)) []

/-- The X generator of element (r, c) (R77). -/
def xLane (r c : Nat) : Nat := r % 8 * 8 + c % 8

/-- Computing one code per written element in the order of R75, each drawing under SR, and counting its events. -/
def mapCells (rm : BitVec 2) (sh : TShape) (f : Nat → Nat → Nat → Narrowed) :
    List (Nat × Nat) → List W32 → List (Nat × W32) × List W32 × Nat × Nat
  | [], g => ([], g, 0, 0)
  | (r, c) :: l, g =>
    let (d, g) := drawIf rm g (xLane r c)
    let n := f r c d
    let (es, g, sat, nan) := mapCells rm sh f l g
    ((sh.idx r c, BitVec.ofNat 32 n.code) :: es, g, sat + (if n.sat then 1 else 0), nan + if n.nan then 1 else 0)

/-- Quantising the blocks of an sbmx destination in order (R209): the written elements, the scales of written blocks,
generators and events. -/
def quantBlocks (fmt : FFmt) (rm : BitVec 2) (sh : TShape) (on : List (Nat × Nat)) (val : Nat → Nat → Num) :
    List (Nat × Nat) → List W32 → List (Nat × W32) × List (Nat × Byte) × List W32 × Nat × Nat
  | [], g => ([], [], g, 0, 0)
  | (bi, bj) :: l, g =>
    let cell (i : Nat) : Nat × Nat := (8 * bi + i / 8, 8 * bj + i % 8)
    let live (i : Nat) : Bool := on.contains (cell i)
    let vals := (List.range 64).map fun i => if live i then val (cell i).1 (cell i).2 else Num.zero
    let draw := rm = 3 && !blockBad vals
    let g' := if draw then g.zipIdx.map fun (x, i) => if live i then genNext x else x else g
    let q := quantBlock fmt rm ((List.range 64).map fun i => if draw && live i then genR (g'.getD i 1) else 0) vals
    let (es, sc, g'', sat, nan) := quantBlocks fmt rm sh on val l g'
    ((((List.range 64).filter live).map fun i => (sh.idx (cell i).1 (cell i).2, (q.codes.getD i 0).setWidth 32)) ++ es,
     (if live 0 then [(sh.blk (8 * bi) (8 * bj), q.scale)] else []) ++ sc, g'', q.sats + sat, q.nans + nan)

/-- `tcvt` (R209). -/
def execTcvt (h : Hdr) (o : FT) (s : State) : Host.Outcome State Fault Refusal :=
  runWord (.tcvt h o) .X h o.g none s fun s => withDst s o fun sh => withSrcTile s o.ta fun sa v =>
    if sa.rows ≠ sh.rows || sa.cols ≠ sh.cols then tileType
    else withSrc s .X (if o.m.getLsbD 3 then o.s else 0b1011000) 1 fun sl =>
      let slot := if o.m.getLsbD 3 then sl.toNat % 1024 else s.core.satslot.toNat
      let rm := if o.m.getLsbD 2 then o.m.extractLsb' 0 2 else s.core.rmode
      let on := onCells s o sh
      match etTy sh.et with
      | (.flt f, true) =>
        let blocks := (List.range (sh.rows / 8)).flatMap fun i => (List.range (sh.cols / 8)).map fun j => (i, j)
        let (es, sc, g, sat, nan) := quantBlocks f rm sh on (v.value sa) blocks s.core.xgen
        let s := satWord (s.setCore { s.core with xgen := g }) .X slot sat nan
        tileWrite s o.td.toNat sh (sh.rows + 2) es sc
      | (ty, _) =>
        let (es, g, sat, nan) := mapCells rm sh (fun r c d => narrow ty rm d (v.value sa r c)) on s.core.xgen
        let s := satWord (s.setCore { s.core with xgen := g }) .X slot sat nan
        tileWrite s o.td.toNat sh (sh.rows + 2) es []

/-- A code with no event. -/
def plainCode (v : W32) : Narrowed := { code := v.toNat, sat := false, nan := false }

/-- `tadd` and `tmul` (R207). -/
def tileArith (o : FT) (f : BitVec 2 → Nat → W32 → W32 → W32) (g : W32 → W32 → W32) (s : State) : Act :=
  withDst s o fun sh => withSrcTile s o.ta fun sa va => withSrcTile s o.tb fun sb vb =>
    let rb := o.m.getLsbD 0
    let cb := o.m.getLsbD 1
    if sa.et ≠ sh.et || sb.et ≠ sh.et || sa.rows ≠ sh.rows || sa.cols ≠ sh.cols ||
        sb.rows ≠ (if rb then 1 else sh.rows) || sb.cols ≠ (if cb then 1 else sh.cols) then tileType
    else
      let rm := if sh.et = 8 then s.core.rmode else 0
      let at_ (v : Tile) (x : TShape) (r c : Nat) : W32 := BitVec.ofNat 32 (v.elem x r c)
      let (es, xg, _, _) := mapCells rm sh (fun r c d =>
        let x := at_ va sa r c
        let y := at_ vb sb (if rb then 0 else r) (if cb then 0 else c)
        plainCode (if sh.et = 8 then f rm d x y else g x y)) (onCells s o sh) s.core.xgen
      tileWrite (s.setCore { s.core with xgen := xg }) o.td.toNat sh (sh.rows + 2) es []

/-- `tadd` (R207). -/
def execTadd (h : Hdr) (o : FT) (s : State) : Host.Outcome State Fault Refusal :=
  runWord (.tadd h o) .X h o.g none s (tileArith o fadd fun a b => a + b)

/-- `tmul` (R207). -/
def execTmul (h : Hdr) (o : FT) (s : State) : Host.Outcome State Fault Refusal :=
  runWord (.tmul h o) .X h o.g none s (tileArith o fmul fun a b => a * b)

/-- A scale moved by s (R209): kept at 0xFF, else bounded, and whether it saturated. -/
def moveScale (e : Byte) (k : Int) : Byte × Bool :=
  if e = 0xFF then (e, false)
  else
    let v := (e.toNat : Int) + k
    if v < 0 then (0, true) else if 0xFE < v then (0xFE, true) else (BitVec.ofInt 8 v, false)

/-- `tscale` (R209). -/
def execTscale (h : Hdr) (o : FT) (s : State) : Host.Outcome State Fault Refusal :=
  runWord (.tscale h o) .X h o.g none s fun s => withDst s o fun sh => withSrcTile s o.ta fun sa v => with32 s .X o.s fun k =>
    if sa.et ≠ sh.et || sa.rows ≠ sh.rows || sa.cols ≠ sh.cols then tileType
    else
      let on := onCells s o sh
      if sh.sb then
        let moved := (onBlocks sh on).map fun (r, c) => (sh.blk r c, moveScale (v.scale sa r c) k.toInt)
        let s := satWord s .X s.core.satslot.toNat (moved.filter (·.2.2)).length 0
        tileWrite s o.td.toNat sh (sh.rows + 2) (on.map fun (r, c) => (sh.idx r c, BitVec.ofNat 32 (v.elem sa r c)))
          (moved.map fun e => (e.1, e.2.1))
      else
        let rm := s.core.rmode
        let (es, g, _, _) := mapCells rm sh (fun r c d => plainCode (fmul rm d (BitVec.ofNat 32 (v.elem sa r c)) k)) on s.core.xgen
        tileWrite (s.setCore { s.core with xgen := g }) o.td.toNat sh (sh.rows + 2) es []

/-- `trmax` and `trsum` (R210): the result goes to column s[7:0] of each row that the row mask selects, whatever the
column mask holds there (assumption 11). -/
def tileReduce (o : FT) (f : W32 → W32 → W32) (unit : W32) (s : State) : Act :=
  withDst s o fun sh => withSrcTile s o.ta fun sa v => with32 s .X o.s fun k =>
    let col := (k.extractLsb' 0 8).toNat
    if sa.et ≠ sh.et || sa.rows ≠ sh.rows || decide (sh.cols ≤ col) then tileType
    else
      let rm := s.rowM o.rms
      let cm := s.colM o.cms
      let red (r : Nat) : W32 := tree f unit ((List.range 256).map fun c =>
        if c < sa.cols && cm.getLsbD c then BitVec.ofNat 32 (v.elem sa r c) else unit)
      tileWrite s o.td.toNat sh (sa.rows + 6) (((List.range sh.rows).filter fun r => rm.getLsbD r).map fun r => (sh.idx r col, red r)) []

/-- `trmax` (R210). -/
def execTrmax (h : Hdr) (o : FT) (s : State) : Host.Outcome State Fault Refusal :=
  runWord (.trmax h o) .X h o.g none s
    (if o.et = 8 then tileReduce o (fminmax true) 0xFF800000
     else if o.et = 2 then tileReduce o (aluMax true 32) 0x80000000 else tileReduce o (aluMax false 32) 0)

/-- `trsum` (R210). -/
def execTrsum (h : Hdr) (o : FT) (s : State) : Host.Outcome State Fault Refusal :=
  runWord (.trsum h o) .X h o.g none s (if o.et = 8 then tileReduce o addR 0 else tileReduce o (fun a b => a + b) 0)

/-! ## Masks (R205) -/

/-- A value with bits first to min(first + count, w) − 1 set. -/
def rangeMask (w first count : Nat) : BitVec w := BitVec.ofNat w (2 ^ min (first + count) w - 2 ^ min first w)

/-- A mask written one trio clock later (R205). -/
def lateMask (s : State) (v : W128) (d : Dest) : Act :=
  .done s { res := some { val := .scalar v, dest := d, lat := 1, enters := false } }

/-- `rmset` (R205). -/
def execRmset (h : Hdr) (o : FT) (s : State) : Host.Outcome State Fault Refusal :=
  runWord (.rmset h o) .X h o.g none s fun s =>
    if o.m.getLsbD 0 then
      with32 s .X o.s fun v =>
        lateMask s ((rangeMask 64 (v.extractLsb' 0 6).toNat (v.extractLsb' 8 7).toNat).setWidth 128) (.rowMask o.rms.toNat)
    else with64 s .X o.s fun v => lateMask s (v.setWidth 128) (.rowMask o.rms.toNat)

/-- The mask that a core's `cmset` words in flight leave (R205), so that two words of one clock's distance compose. -/
def Core.colLatest (c : Core) (n : Nat) : BitVec 256 :=
  match (c.flight.filterMap fun f => match f.dest with | .colMask m v => if m = n then some v else none | _ => none).getLast? with
  | some v => v
  | none => sget (~~~0) c.colMask n

/-- `cmset` (R205). -/
def execCmset (h : Hdr) (o : FT) (s : State) : Host.Outcome State Fault Refusal :=
  runWord (.cmset h o) .X h o.g none s fun s =>
    let n := o.cms.toNat
    if o.m.getLsbD 0 then
      with32 s .X o.s fun v => lateMask s 0 (.colMask n (rangeMask 256 (v.extractLsb' 0 8).toNat (v.extractLsb' 8 9).toNat))
    else with64 s .X o.s fun v =>
      let k := 64 * (o.m.extractLsb' 1 2).toNat
      let keep := s.core.colLatest n &&& ~~~((BitVec.ofNat 256 (2 ^ 64 - 1)) <<< k)
      lateMask s 0 (.colMask n (keep ||| (v.setWidth 256 <<< k)))

/-! ## The tile words of V (R146-R148) -/

/-- The position operand of `vtrd` and `vtwr`: lane 0 of S under the V table (R146). -/
def withPos (s : State) (o : FT) (k : W32 → Act) : Act := withV s o.s 1 fun l => k (l32 l 0)

/-- The element that lane i addresses (R146), where it lies inside the tile (R147). -/
def posCell (sh : TShape) (mode : Nat) (pos : W32) (i : Nat) : Option (Nat × Nat) :=
  let (r, c) := match mode with
    | 0 => ((pos.extractLsb' 0 6).toNat, (pos.extractLsb' 8 8).toNat + i)
    | 1 => (i, (pos.extractLsb' 0 8).toNat)
    | _ => (8 * (pos.extractLsb' 0 3).toNat + i / 8, 8 * (pos.extractLsb' 8 5).toNat + i % 8)
  if r < sh.rows && c < sh.cols then some (r, c) else none

/-- The shape of TA must be usable, of type ET, and sbmx in `.blk` (R146). -/
def withTa (s : State) (o : FT) (k : TShape → Act) : Act :=
  let sh := s.shape o.ta.toNat
  if !sh.usable || sh.et ≠ o.et.toNat then tileType else k sh

/-- `vtrd` (R146-R148). -/
def execVtrd (h : Hdr) (o : FT) (s : State) : Host.Outcome State Fault Refusal :=
  runWord (.vtrd h o) .V h 0 (some 3) s fun s => withTa s o fun sh => withPos s o fun pos => withTile s o.ta.toNat fun v =>
    let mode := (o.m.extractLsb' 6 2).toNat
    let d : BitVec 7 := if o.m.getLsbD 5 then 0x7F else (o.m.extractLsb' 0 5).setWidth 7
    vresult s d 1 3 (s.core.vguard o.g) (lanesOf fun i =>
      match posCell sh mode pos i with
      | none => 0
      | some (r, c) =>
        BitVec.ofNat 64 (v.elem sh r c) |||
          if mode = 2 then (v.scale sh r c).setWidth 64 <<< 8 else 0)

/-- `vtwr` (R146-R148): its elements are written one trio clock after issue. -/
def execVtwr (h : Hdr) (o : FT) (s : State) : Host.Outcome State Fault Refusal :=
  runWord (.vtwr h o) .V h 0 none s fun s => withTa s o fun sh => withPos s o fun pos =>
    withV s ((o.m.extractLsb' 0 5).setWidth 7) 1 fun a => whenWritable s o.ta.toNat <|
      let mode := (o.m.extractLsb' 6 2).toNat
      let mask := s.core.vguard o.g
      let low (x : W32) : W32 := if mode = 2 then x &&& 0xFF else x
      let es := (List.range 64).filterMap fun i =>
        if mask.getLsbD i then (posCell sh mode pos i).map fun (r, c) => (sh.idx r c, low (l32 a i)) else none
      let sc := if mode = 2 && mask ≠ 0 then
          (match posCell sh mode pos 0 with | some (r, c) => [(sh.blk r c, (l32 a 0).extractLsb' 8 8)] | none => []) else []
      let c := s.core
      let w : TileWrite := { stream := .V, due := c.clk + 1,
                             target := .tile o.ta.toNat sh.bits (sh.padded es) sc sh.elemBytes sh.scaleBytes }
      .done (s.setCore { c with tileW := c.tileW ++ [w] }) {}

/-! ## The queue moves of `tld` and `tst` (R208) -/

/-- What the moves due in a trio clock do: the core after them, that the freeze line is high, or the dead queue. -/
inductive SeqMove where
  | ok (c : Core)
  | freeze
  | dead (q : Nat)
  deriving DecidableEq, Repr

/-- One move of 256 bytes, if one is due. -/
def Core.seqMove (c : Core) (q : TileSeq) : SeqMove :=
  match q with
  | .load k t sh rm cm got need next due =>
    if c.clk < next || need ≤ got.length then .ok { c with seqs := c.seqs ++ [q] }
    else
      let n := min 256 (need - got.length)
      let l := sget [] c.oq k
      if n ≤ (oqFilled l).length then
        .ok { c with oq := sset [] c.oq k (oqDrop n l),
                     seqs := c.seqs ++ [.load k t sh rm cm (got ++ (oqFilled l).take n) need (c.clk + 1) due] }
      else if c.a.st.ended && oqReserved l < n then .dead k
      else .freeze
  | .store k rest next =>
    if c.clk < next then .ok { c with seqs := c.seqs ++ [q] }
    else match c.pushChunk k rest with
      | none => .freeze
      | some c => .ok (if rest.drop 256 = [] then c else { c with seqs := c.seqs ++ [.store k (rest.drop 256) (c.clk + 1)] })

/-- The moves of every sequencer in turn. -/
def Core.seqMoves (c : Core) : List TileSeq → SeqMove
  | [] => .ok c
  | q :: l => match c.seqMove q with | .ok c => c.seqMoves l | r => r

/-- A move is due in this trio clock. -/
def seqNeeds (clk : Nat) : TileSeq → Bool
  | .load _ _ _ _ _ got need next _ => decide (next ≤ clk) && decide (got.length < need)
  | .store _ _ next => decide (next ≤ clk)

end Sys2Proof.Machine
end

