-- ==== Sys2Proof/Machine/Acc.lean ====
section
/-! DEFINITION. Machine/Acc.lean: the A stream's arithmetic, its accesses and their order, atomics, fences, lock words,
regions and scratchpad lines (R152-R199). An access is performed whole, when its word starts or, where it waits for a page, a
line or earlier accesses, once those let it (assumption 13). -/

namespace Sys2Proof.Machine

/-! ## Address arithmetic and compare (R161, R162) -/

/-- `add` of A (R161). -/
def execAAdd (h : Hdr) (o : FR) (s : State) : Host.Outcome State Fault Refusal :=
  runWord (.aAdd h o) .A h o.g (some 1) s (int2 .A o 1 aluAdd)

/-- `sub` of A (R161). -/
def execASub (h : Hdr) (o : FR) (s : State) : Host.Outcome State Fault Refusal :=
  runWord (.aSub h o) .A h o.g (some 1) s (int2 .A o 1 aluSub)

/-- `shl` of A (R161). -/
def execAShl (h : Hdr) (o : FR) (s : State) : Host.Outcome State Fault Refusal :=
  runWord (.aShl h o) .A h o.g (some 1) s (intC .A o 1 aluShl)

/-- `mul` of A (R161, R154). -/
def execAMul (h : Hdr) (o : FR) (s : State) : Host.Outcome State Fault Refusal :=
  runWord (.aMul h o) .A h o.g (some (latT o.t 3 4)) s (int2 .A o (latT o.t 3 4) aluMul)

/-- `movi` of A (R161). -/
def execAMovi (h : Hdr) (o : FI) (s : State) : Host.Outcome State Fault Refusal :=
  runWord (.aMovi h o) .A h 0 (some 1) s fun s => result s .A o.d 1 1 (o.imm.signExtend 128)

/-- `mov` of A (R161): the narrow types extend the low bits of their source to 32 bits, as `ext` does. -/
def execAMov (h : Hdr) (o : FR) (s : State) : Host.Outcome State Fault Refusal :=
  runWord (.aMov h o) .A h o.g (some 1) s fun s =>
    match tyOf o.t.toNat with
    | .int _ 8 | .int _ 16 => extAct .A o 1 s
    | _ => withSrc s .A o.a (wideT o.t) fun a => result s .A o.d (wideT o.t) 1 a

/-- `bcmp` (R162). -/
def execBcmp (h : Hdr) (o : FR) (s : State) : Host.Outcome State Fault Refusal :=
  runWord (.bcmp h o) .A h o.g (some 1) s (cmpAct .A o)

/-! ## The order of A's accesses (R152, R165, R170, R171) -/

/-- Accesses of A in flight (R152): those that have not been performed. -/
def Core.accOpen (c : Core) (now : Nat) : Nat :=
  (c.aFlight.filter fun f => f.kind ≠ .none && !f.due.any (· ≤ now)).length

/-- An acquiring load that has not returned its value holds back the later accesses (R171, R182). As A delivers in order, every earlier load
has returned when it has. -/
def Core.acqOpen (c : Core) : Bool := c.aFlight.any fun f => f.kind = .acq

/-- An access that starts: there is room for it among 32 (R152), and no acquiring load precedes it (R171). -/
def whenRoom (s : State) (k : Act) : Act := if s.core.acqOpen || 32 ≤ s.core.accOpen s.now then .wait s else k

/-- A word that starts only after every earlier word of the stream has passed its checks (R165). -/
def whenPassed (s : State) (k : Act) : Act := if s.core.aUnpassed then .wait s else k

/-- A word before which every earlier access is performed and every earlier load has returned (R182). -/
def whenQuiet (s : State) (k : Act) : Act := if s.core.aFlight ≠ [] then .wait s else k

/-! ## Addresses and checks (R163, R164) -/

/-- Registers that a base occupies in a space (R163). -/
def baseRegs : Space → Nat | .glob => 2 | .fab => 4 | .spad | .dev => 1

/-- Using the base of an access. -/
def withBase (s : State) (sp : Space) (spec : BitVec 7) (k : W128 → Act) : Act := withSrc s .A spec (baseRegs sp) k

/-- The checks of R164 that precede translation; an access outside the scratchpad is PAGE_UNMAPPED. ALIGN comes first where an address fails
both (DESIGN CHOICE, assumption 61). -/
def addrFault (s : State) (sp : Space) (va : W64) (size : Nat) : Option Byte :=
  if va.toNat % size ≠ 0 then some cALIGN
  else match sp with
    | .glob | .fab => if vaBad va then some cUNMAPPED else none
    | .spad => if s.spadSize < va.toNat + size then some cUNMAPPED else none
    | .dev => none

/-- An access whose address has passed those checks. -/
def withAddr (s : State) (sp : Space) (va : W64) (size : Nat) (k : Act) : Act :=
  match addrFault s sp va size with
  | some c => .fault { stopCode c with addr := va }
  | none => k

/-- The byte offset that a word of FM gives: OFF18, or the index of `ldx` and `stx`, times the size (R39, R163). -/
def withOff (s : State) (o : FM) (indexed : Bool) (k : Int → Act) : Act :=
  if indexed then with32 s .A (o.off.extractLsb' 11 7) fun i => k (i.toInt * szBytes o.sz) else k (o.off.toInt * szBytes o.sz)

/-- The effective address of a word of FM. -/
def withEA (s : State) (o : FM) (indexed : Bool) (k : W128 → W64 → Act) : Act :=
  let sp := spaceOf o.sp
  withBase s sp o.base fun base => withOff s o indexed fun off =>
    let va := effAddr sp base off
    withAddr s sp va (szBytes o.sz) (k base va)

/-! ## The fabric (R163, R172, R387) -/

/-- The pair that the fabric translation cache gives for a target (R387). -/
def ftcOf (s : State) (dev : Nat) (fn : Nat) : Nat × Nat :=
  match s.ftc.find? fun e => e.1.1.toNat = dev && e.1.2.toNat = fn with
  | some e => (e.2.1.toNat, e.2.2.toNat)
  | none => (dev, fn)

/-- The tag of a fabric access of the executing core by its place in issue order (assumption 12). -/
def fabTagAt (s : State) (seq : Nat) : W64 := BitVec.ofNat 64 (s.cur + 512 * (seq % 2 ^ 52))

/-- The tag of the fabric access of the word that starts. -/
def fabTag (s : State) : W64 := fabTagAt s s.core.nextSeq

/-- The tag of an acquire: bit 62 says that A stays BLOCKED until it is answered (R192). -/
def acqTag (s : State) : W64 := fabTag s ||| 0x4000000000000000

/-- The tag of an atomic that is forwarded to the owner of a REMOTE page of the function (R354): bit 61. -/
def forwardTag (tag : W64) : W64 := tag ||| 0x2000000000000000
/-- Such a tag. -/
def forwarded (tag : W64) : Bool := tag.getLsbD 61

/-- A translation that is used becomes the most recently used one (R387). -/
def ftcUse (s : State) (dev fn : Nat) : State :=
  match s.ftc.find? fun e => e.1.1.toNat = dev && e.1.2.toNat = fn with
  | some e => { s with ftc := s.ftc.erase e ++ [e] }
  | none => s

/-- Sending a request to a device (R172): it is kept until it is answered. -/
def sendKept (s : State) (fn : Nat) (dev dfn kind : Nat) (va tag : W64) (pay : List Byte) : State :=
  let s := s.send fn dev dfn kind va tag pay
  { s with fabOut := s.fabOut ++ s.outbox.getLast?.toList }

/-- Sending a fabric request (R172, R387). -/
def fabSend (s : State) (fn : Nat) (dev dfn kind : Nat) (va tag : W64) (pay : List Byte) : State :=
  sendKept (ftcUse s dev dfn) fn (ftcOf s dev dfn).1 (ftcOf s dev dfn).2 kind va tag pay

/-- The target that a base names, as the executing core sends to it. -/
def coreSend (s : State) (base : W128) (kind : Nat) (va tag : W64) (pay : List Byte) : State :=
  fabSend s (s.coreFn s.core) (fabTarget base).1 (fabTarget base).2 kind va tag pay

/-! ## The L1 (R184, R185) -/

/-- Lines that the L1 of the executing core holds at most (R17, R285). -/
def State.l1Cap (s : State) : Nat := (768 * 1024 - s.spadSize) / 128

/-- The L1 of a core with a line that has come from its home; the oldest makes room. -/
def Core.l1Put (c : Core) (cap line : Nat) (l : List Byte) : Core :=
  let m := if cap ≤ c.l1.length && (sfind c.l1 line).isNone then c.l1.drop 1 else c.l1
  { c with l1 := sput m line l }

/-- The leaf of a VA is a page shared with the host (R427). -/
def hostPage (s : State) (va : W64) : Bool :=
  match walk s (s.coreFn s.core) va with | .leaf _ e => eHost e | .bad _ => false

/-- Filling a line into the L1 as its home holds it now; a line that cannot be read whole, and one of a page shared with the host (R427), is not
kept. The access is counted (R369). -/
def l1Fill (s : State) (line : Nat) : State :=
  let va := BitVec.ofNat 64 (128 * line)
  let s' := match readVa s (.core s.cur) (s.coreFn s.core) va 128 with
    | .ok l => if hostPage s va then s else s.setCore (s.core.l1Put s.l1Cap line l)
    | _ => s
  countAccess s' (s.coreFn s.core) va

/-- A read within one line through the L1 (R184), where `now` are its bytes at their home: the line as it was filled, or as it is now. -/
def l1Read (s : State) (va : W64) (now : List Byte) : State × List Byte :=
  let line := va.toNat / 128
  match sfind s.core.l1 line with
  | some l =>
    if (Config.free s.free).getLsbD 1 then ({ s with free := s.free + 1 }, (l.drop (va.toNat % 128)).take now.length)
    else (l1Fill { s with free := s.free + 1 } line, now)
  | none =>
    let s' := l1Fill s line
    (s'.setCore (s'.core.pmcAdd 9 1), now)

/-- A read through the L1 that may span two lines. -/
def l1ReadAll (s : State) (va : W64) (l : List Byte) : State × List Byte :=
  (List.range ((l.length + 127) / 128)).foldl (fun (a : State × List Byte) i =>
    let (s, b) := l1Read a.1 (va + BitVec.ofNat 64 (128 * i)) ((l.drop (128 * i)).take 128)
    (s, a.2 ++ b)) (s, [])

/-- Every line of the L1 is dropped (R185). -/
def Core.l1Clear (c : Core) : Core := { c with l1 := [] }

/-! ## Performing accesses (R152, R163-R170, R173) -/

/-- What performing an access answers: it waits, or finds its fault, or gives its bytes and the clocks to their delivery, or has sent its
request (R154, R155). -/
inductive Perf where
  | wait (s : State)
  | fault (f : StopInfo)
  | bytes (s : State) (l : List Byte) (lat : Nat)
  | sent (s : State) (tag : W64)
  deriving DecidableEq, Repr

/-- The clocks to the delivery of an access that its home answers: when the data returns (R154), a free value of at least 1
(assumption 14), by the clock in which it is performed and the core. -/
def farLat (s : State) : Nat := 1 + Config.farLat s.now s.cur

/-- Performing a load of n bytes (R163, R164, R166); `tag` names it on the fabric. -/
def performLoad (s : State) (tag : W64) (sp : BitVec 2) (base : W128) (va : W64) (n : Nat) (bypass : Bool) : Perf :=
  match spaceOf sp with
  | .spad =>
    if !s.core.linesFull va.toNat n then .wait s
    else if spadErr s s.cur va.toNat n then .fault { stopCode cSRAM with addr := va }
    else .bytes s (s.core.spadRead va.toNat n) 4
  | .dev =>
    match regRead s (some s.cur) va.toNat with
    | some v => .bytes s (leBytes 4 v.toNat) (farLat s)
    | none => .fault { stopCode cUNMAPPED with addr := va }
  | .glob =>
    match readCore s .A .rd va n with
    | .wait s => .wait s
    | .fault f => .fault f
    | .ok s l =>
      let s := noteAccess s va
      if bypass then .bytes (countLines s (s.coreFn s.core) va n) l (farLat s)
      else
        let (s', l) := l1ReadAll s va l
        .bytes s' l 10
  | .fab => .sent (coreSend s base 0 va tag [BitVec.ofNat 8 n, BitVec.ofNat 8 (n / 256)]) tag

/-- Performing a store (R163, R164, R167). -/
def performStore (s : State) (tag : W64) (sp : BitVec 2) (base : W128) (va : W64) (l : List Byte) : Perf :=
  match spaceOf sp with
  | .spad => .bytes (s.setCore (s.core.spadWrite va.toNat l)) [] 1
  | .dev =>
    match regWrite s (some s.cur) va.toNat (BitVec.ofNat 32 (leNat (l.take 4))) with
    | some s => .bytes s [] (farLat s)
    | none => .fault { stopCode cUNMAPPED with addr := va }
  | .glob =>
    match writeCore s .A va l with
    | .wait s => .wait s
    | .fault f => .fault f
    | .ok s _ => .bytes s [] (farLat s)
  | .fab => .sent (coreSend s base 2 va tag l) tag

/-- The owner of a REMOTE page (R361). -/
def remoteOwner (e : W64) : Nat × Nat := ((e.extractLsb' 16 15).toNat, (e.extractLsb' 31 8).toNat)

/-- The owner of the page of a VA that is REMOTE and that the access may touch (R354). -/
def remotePage (s : State) (va : W64) : Option (Nat × Nat) :=
  match walk s (s.coreFn s.core) va with
  | .leaf _ e => if eState e = sREMOTE && permits e .wr false then some (remoteOwner e) else none
  | .bad _ => none

/-- The new value of an atomic: operations 0-6 of `amo`, 7 `amoswp`, 8 `amocas`. -/
def amoNew (op : Nat) (t : BitVec 4) (w : Nat) (old b c : BitVec w) : BitVec w :=
  let less := decide (intVal (signedT t) b < intVal (signedT t) old)
  match op with
  | 0 => old + b
  | 1 => old &&& b
  | 2 => old ||| b
  | 3 => old ^^^ b
  | 4 => if less then b else old
  | 5 => if less || old = b then old else b
  | 6 => (fadd 0 0 (old.setWidth 32) (b.setWidth 32)).setWidth w
  | 7 => b
  | _ => if old = b then c else old

/-- The bytes that an atomic writes over `n` old ones: those of its new value, or the FREE word of a `rel` (operation 11, R193); none
where an `amocas` finds another value, which it does not write (R173). -/
def amoBytes (op : Nat) (t : BitVec 4) (old : List Byte) (b c : W64) : Option (List Byte) :=
  let w := 8 * old.length
  let o : BitVec w := BitVec.ofNat w (leNat old)
  if op = 11 then some (leBytes 8 ((lockSeq (BitVec.ofNat 64 (leNat old)) + 1).setWidth 64 <<< 48 : W64).toNat)
  else if op = 8 && o ≠ b.setWidth w then none
  else some (leBytes old.length (amoNew op t w o (b.setWidth w) (c.setWidth w)).toNat)

/-- The bytes that an atomic is performed on (R173, R191). -/
def amoSize (op : Nat) (t : BitVec 4) : Nat := if 9 ≤ op then 8 else 4 * wideT t

/-- Performing an atomic at the home of its address in one step (R173, R193); one on a REMOTE page is forwarded (R354). It needs W
(R361). -/
def performAtomic (s : State) (tag : W64) (sp : BitVec 2) (base : W128) (va : W64) (op : Nat) (t : BitVec 4) (b c : W64) : Perf :=
  let n := amoSize op t
  match spaceOf sp with
  | .spad =>
    if !s.core.linesFull va.toNat n then .wait s
    else if spadErr s s.cur va.toNat n then .fault { stopCode cSRAM with addr := va }
    else
      let old := s.core.spadRead va.toNat n
      .bytes (match amoBytes op t old b c with | some l => s.setCore (s.core.spadWrite va.toNat l) | none => s) old 4
  | .fab | .dev => .sent (coreSend s base 4 va tag (atomicPayload op t.toNat b c)) tag
  | .glob =>
    match remotePage s va with
    | some (dev, fn) => .sent (sendKept s (s.coreFn s.core) dev fn 4 va (forwardTag tag) (atomicPayload op t.toNat b c)) (forwardTag tag)
    | none =>
      match readCore s .A .wr va n with
      | .wait s => .wait s
      | .fault f => .fault f
      | .ok s old =>
        match amoBytes op t old b c with
        | none => .bytes (countLines (noteAccess s va) (s.coreFn s.core) va n) old (farLat s)
        | some l =>
          match writeCore s .A va l with
          | .wait s => .wait s
          | .fault f => .fault f
          | .ok s _ => .bytes s old (farLat s)

/-- Performing an access that its word captured. -/
def perform (s : State) (tag : W64) : Access → Perf
  | .load sp base va n bypass _ => performLoad s tag sp base va n bypass
  | .store sp base va l _ => performStore s tag sp base va l
  | .atomic sp base va op t b c => performAtomic s tag sp base va op t b c
  | .failed f => .fault f

/-- A load (R165, R171). -/
def Access.isLoad : Access → Bool | .load .. => true | _ => false
/-- How an access counts (R152, R171). -/
def Access.kind : Access → AccKind | .load _ _ _ _ _ true => .acq | _ => .plain

/-- An access of a word that starts is performed at once where the earlier ones let it: a load unless an earlier one still waits, any other access
once every earlier word has passed its checks (R152, R165, R170); otherwise it stays with its word, in flight. -/
def startAccess (s : State) (a : Access) (k : State → List Byte → Nat → Act) (sent : State → W64 → Act) (later : State → Access → Act) : Act :=
  whenRoom s <|
  if s.core.aPending || (!a.isLoad && s.core.aUnpassed) then later s a
  else match perform s (fabTag s) a with
    | .wait s => later s a
    | .fault f => .fault f
    | .bytes s l lat => k s l lat
    | .sent s tag => sent s tag

/-! ## Loads (R166-R169) -/

/-- Registers of a load's destination or a store's source (R167). -/
def szRegs (sz : BitVec 3) : Nat := max 1 (szBytes sz / 4)

/-- The load that a word of FM makes. -/
def loadOf (o : FM) (base : W128) (va : W64) : Access := .load o.sp base va (szBytes o.sz) (o.bypass = 1) (o.ord = 1)

/-- A load to registers (R167). -/
def loadAct (o : FM) (indexed : Bool) (s : State) : Act :=
  withEA s o indexed fun base va =>
    let a := loadOf o base va
    let d := dstOf .A o.data (szRegs o.sz) false
    startAccess s a
      (fun s l lat => .done s { res := some { val := .scalar (BitVec.ofNat 128 (leNat l)), dest := d, lat := lat }, kind := a.kind })
      (fun s tag => .done s { res := some { val := .scalar 0, dest := d, lat := 0, fab := some tag, asked := some a }, kind := a.kind })
      (fun s a => .done s { res := some { val := .scalar 0, dest := d, lat := 0, acc := some a }, kind := a.kind })

/-- `ld` (R167). -/
def execLd (h : Hdr) (o : FM) (s : State) : Host.Outcome State Fault Refusal :=
  runWord (.ld h o) .A h 0 (some 10) s (loadAct o false)

/-- `ldx` (R167). -/
def execLdx (h : Hdr) (o : FM) (s : State) : Host.Outcome State Fault Refusal :=
  runWord (.ldx h o) .A h 0 (some 10) s (loadAct o true)

/-- Bytes of an element of `n` bytes in oqk (R158). -/
def elemSize (k n : Nat) : Nat := if 6 ≤ k then max 4 n else n

/-- Reserving an element at the tail of oqk (R158). -/
def reserve (s : State) (k n : Nat) : State :=
  let e : OqElem := { bytes := List.replicate (elemSize k n) 0, filled := false, fresh := false }
  s.setCore { s.core with oq := sput s.core.oq k (sget [] s.core.oq k ++ [e]) }

/-- A word that needs room for an element in oqk (R158). -/
def whenElemRoom (s : State) (k n : Nat) (f : Act) : Act :=
  if oqCap k < oqReserved (sget [] s.core.oq k) + elemSize k n then .wait s else f

/-- The bytes of an element, zero-extended to its size. -/
def elemBytes (k : Nat) (l : List Byte) : QVal :=
  .lanes ((l ++ List.replicate (elemSize k l.length - l.length) 0).map fun (b : Byte) => b.setWidth 64)

/-- `ldq` (R168): the element is reserved when the word starts. -/
def execLdq (h : Hdr) (o : FM) (s : State) : Host.Outcome State Fault Refusal :=
  runWord (.ldq h o) .A h 0 none s fun s =>
    let q := (o.data.extractLsb' 0 3).toNat
    withEA s o false fun base va => whenElemRoom s q (szBytes o.sz) <|
      let a := loadOf o base va
      let fill (s : State) (r : Res) : Act := .done (reserve s q (szBytes o.sz)) { res := some { r with dest := .opq q, enters := false }, kind := a.kind }
      startAccess s a
        (fun s l lat => fill s { val := elemBytes q l, dest := .none, lat := lat })
        (fun s tag => fill s { val := .lanes [], dest := .none, lat := 0, fab := some tag, asked := some a })
        (fun s a => fill s { val := .lanes [], dest := .none, lat := 0, acc := some a })

/-- `pf` (R169): it has no fault; where its base is invalid, its address or its page would fault or wait, or its data err, it does nothing. -/
def execPf (h : Hdr) (o : FM) (s : State) : Host.Outcome State Fault Refusal :=
  runWord (.pf h o) .A h 0 none s fun s =>
    match s.core.src .A o.base 2 with
    | .wait => .wait s
    | .bad => noResult s
    | .ok base =>
      let va := effAddr .glob base (o.off.toInt * szBytes o.sz)
      if vaBad va then noResult s
      else match readVa s (.core s.cur) (s.coreFn s.core) (va &&& ~~~0x7F) 128 with
        | .ok _ => noResult (if o.bypass = 1 then countAccess (noteAccess s va) (s.coreFn s.core) va else l1Fill (noteAccess s va) (va.toNat / 128))
        | _ => noResult s

/-! ## Stores (R166-R168) -/

/-- A store or a `rel`: it finishes without a result. -/
def accessOnly (s : State) (a : Access) : Act :=
  let held : Res := { val := .scalar 0, dest := .none, lat := 0, enters := false }
  startAccess s a
    (fun s _ lat => .done s { lat := lat, kind := a.kind })
    (fun s tag => .done s { res := some { held with fab := some tag, asked := some a }, kind := a.kind })
    (fun s a => .done s { res := some { held with acc := some a }, kind := a.kind })

/-- A store of registers (R167). -/
def storeAct (o : FM) (indexed : Bool) (s : State) : Act :=
  withSrc s .A o.data (szRegs o.sz) fun v => withEA s o indexed fun base va =>
    accessOnly s (.store o.sp base va (leBytes (szBytes o.sz) v.toNat) none)

/-- `st` (R167). -/
def execSt (h : Hdr) (o : FM) (s : State) : Host.Outcome State Fault Refusal :=
  runWord (.st h o) .A h 0 none s (storeAct o false)

/-- `stx` (R167). -/
def execStx (h : Hdr) (o : FM) (s : State) : Host.Outcome State Fault Refusal :=
  runWord (.stx h o) .A h 0 none s (storeAct o true)

/-- A word still moves bytes to store queue k: a `tst` whose sequencer has not ended (R160, R208). -/
def Core.feedsSq (c : Core) (k : Nat) : Bool := c.seqs.any fun e => match e with | .store q _ _ => q = k | _ => false

/-- `stq` (R159, R160, R168): on starting, it takes its bytes from the head and frees their room. A bad address faults before the word waits for
its bytes (DESIGN CHOICE, assumption 61). -/
def execStq (h : Hdr) (o : FM) (s : State) : Host.Outcome State Fault Refusal :=
  runWord (.stq h o) .A h 0 none s fun s =>
    let c := s.core
    let k := (o.data.extractLsb' 0 1).toNat
    let q := sget [] c.sq k
    let n := szBytes o.sz
    withEA s o false fun base va =>
      if q.length < n then
        if c.v.st.ended && c.x.st.ended && !c.feedsSq k then .fault { stopCode cREG with index := 0x118 + BitVec.ofNat 32 k } else .wait s
      else whenRoom s <| accessOnly (s.setCore { c with sq := sset [] c.sq k (q.drop n) }) (.store o.sp base va (q.take n) (some k))

/-! ## Atomics (R173) -/

/-- An atomic of `amo`, `amoswp` or `amocas`. -/
def atomicAct (o : FR) (op : Nat) (s : State) : Act :=
  let sp := spaceOf o.m
  let w := wideT o.t
  withBase s sp o.a fun base => withSrc s .A o.b w fun b => withSrc s .A (if op = 8 then o.c else 0b1011000) w fun c =>
    let va := effAddr sp base 0
    let a : Access := .atomic o.m base va op o.t (b.setWidth 64) (c.setWidth 64)
    let d := dstOf .A o.d w false
    withAddr s sp va (4 * w) <| startAccess s a
      (fun s l lat => .done s { res := some { val := .scalar (BitVec.ofNat 128 (leNat l)), dest := d, lat := lat }, kind := .plain })
      (fun s tag => .done s { res := some { val := .scalar 0, dest := d, lat := 0, fab := some tag, asked := some a }, kind := .plain })
      (fun s a => .done s { res := some { val := .scalar 0, dest := d, lat := 0, acc := some a }, kind := .plain })

/-- `amo` (R173). -/
def execAmo (h : Hdr) (o : FR) (s : State) : Host.Outcome State Fault Refusal :=
  runWord (.amo h o) .A h o.g (some 10) s (atomicAct o (immNat o.c))

/-- `amoswp` (R173). -/
def execAmoswp (h : Hdr) (o : FR) (s : State) : Host.Outcome State Fault Refusal :=
  runWord (.amoswp h o) .A h o.g (some 10) s (atomicAct o 7)

/-- `amocas` (R173). -/
def execAmocas (h : Hdr) (o : FR) (s : State) : Host.Outcome State Fault Refusal :=
  runWord (.amocas h o) .A h o.g (some 10) s (atomicAct o 8)

/-! ## Queue store and fences (R174, R182) -/

/-- `oqst` (R174): a guard-false one appends an element of the same width filled with zeros. -/
def execOqst (h : Hdr) (o : FR) (s : State) : Host.Outcome State Fault Refusal :=
  runWord (.oqst h o) .A h 0 none s fun s =>
    let k := immNat o.c % 8
    let n := 4 * wideT o.t
    match guardTrue s.core .A o.g with
    | none => .wait s
    | some g =>
      let fill (s : State) (v : W128) : Act :=
        whenElemRoom s k n <|
          .done (reserve s k n) { res := some { val := elemBytes k (leBytes n v.toNat), dest := .opq k, lat := 0, enters := false } }
      if g then withSrc s .A o.a (wideT o.t) fun v => fill s v else fill s 0

/-- `fence` (R182): the accesses that it orders have been performed and have returned; `.inv` drops the L1. -/
def execFence (h : Hdr) (o : FR) (s : State) : Host.Outcome State Fault Refusal :=
  runWord (.fence h o) .A h o.g none s fun s =>
    whenQuiet s <| noResult (if immNat o.b = 1 then s.setCore s.core.l1Clear else s)

/-! ## Lock words (R191-R193) -/

/-- The result of an acquire: 1 for `.try`, otherwise SEQ (R192). -/
def acqResult (try_ : Bool) (w : W64) : W128 := if try_ then 1 else (lockSeq w).setWidth 128

/-- An acquire at the home in this device (R192). -/
def acqHere (s : State) (d : BitVec 7) (va : W64) (try_ : Bool) : Act :=
  let gives (s : State) (v : W128) : Act :=
    .done s { res := some { val := .scalar v, dest := dstOf .A d 1 false, lat := farLat s }, kind := .plain }
  match s.core.lock with
  | .waiting => .wait s
  | .granted v => gives (s.setCore { s.core with lock := .none }) (v.setWidth 128)
  | .none =>
    coreRead s .A .wr va 8 fun s l =>
      let w : W64 := BitVec.ofNat 64 (leNat l)
      if !lockHeld w then
        coreWrite s .A va (leBytes 8 (lockWord (lockSeq w) Config.devId s.core.ctx s.cur).toNat) fun s => gives s (acqResult try_ w)
      else if try_ then gives s 0
      else match paOf s (s.coreFn s.core) va with
        | some pa =>
          let q : LockWait := { pa := pa, home := s.coreFn s.core, va := va, gone := false, core := some s.cur, dev := Config.devId,
                                fn := BitVec.ofNat 8 (s.coreFn s.core), tag := 0, ctx := s.core.ctx, holder := s.cur }
          .wait ({ s with lockQ := s.lockQ ++ [q] }.setCore { s.core with lock := .waiting })
        | none => .wait s

/-- The operands of an acquire sent to another home: the context and core that will hold the lock. -/
def holderWord (s : State) : W64 := BitVec.ofNat 64 (s.core.ctx + 65536 * s.cur)

/-- `acq` (R192). -/
def execAcq (h : Hdr) (o : FR) (s : State) : Host.Outcome State Fault Refusal :=
  runWord (.acq h o) .A h o.g (some 10) s fun s =>
    let sp := spaceOf o.m
    let try_ : Bool := immNat o.b = 1
    withBase s sp o.a fun base =>
      let va := effAddr sp base 0
      withAddr s sp va 8 <| whenRoom s <| whenPassed s <|
      match sp with
      | .fab | .dev =>
        .done (coreSend s base 4 va (acqTag s) (atomicPayload (if try_ then 10 else 9) 7 (holderWord s) 0))
          { res := some { val := .scalar 0, dest := dstOf .A o.d 1 false, lat := 0, fab := some (acqTag s) }, kind := .plain }
      | _ => acqHere s o.d va try_

/-- `rel` (R193). -/
def execRel (h : Hdr) (o : FR) (s : State) : Host.Outcome State Fault Refusal :=
  runWord (.rel h o) .A h o.g none s fun s =>
    let sp := spaceOf o.m
    withBase s sp o.a fun base =>
      let va := effAddr sp base 0
      withAddr s sp va 8 (accessOnly s (.atomic o.m base va 11 7 0 0))

/-! ## Regions (R186-R189) -/

/-- A sync word is well formed (R187), its barrier number within the barrier table (R312). -/
def syncOk (w : W64) : Bool :=
  if w.getLsbD 63 then w.extractLsb' 10 53 = 0 else w.extractLsb' 55 8 = 0 && w.extractLsb' 0 3 = 0

/-- Two ranges of 128-byte lines overlap. -/
def rangesMeet (a n b m : Nat) : Bool := decide (a < b + 128 * m) && decide (b < a + 128 * n)

/-- The image of a region entry (R186). -/
def regionBytes (r : Region) (bound : Bool) : List Byte :=
  leBytes 8 r.base.toNat ++ leBytes 4 r.lines.toNat ++
  leBytes 4 ((if bound then 1 else 0) + 2 * r.scope.toNat + (if r.kind then 8 else 0)) ++
  leBytes 8 r.sync.toNat ++ leBytes 2 r.sdev.toNat ++ [r.svf] ++ List.replicate 5 0

/-- `bind` (R188): its operands; the sync word is a pair, or a quad at fab scope. -/
def execBind (h : Hdr) (o : FR) (s : State) : Host.Outcome State Fault Refusal :=
  runWord (.bind h o) .A h o.g (some 1) s fun s =>
    let fab := o.m = 3
    with64 s .A o.a fun base => with32 s .A o.b fun lines => withSrc s .A o.c (if fab then 4 else 2) fun sync =>
    whenPassed s <|
      let x := s.core.ctx
      let c := s.getX x
      let w : W64 := sync.setWidth 64
      if base.toNat % 128 ≠ 0 then .fault { stopCode cALIGN with addr := base }
      else if lines = 0 || 2 ^ 55 < base.toNat + 128 * lines.toNat || !syncOk w ||
          c.regions.any (fun e => rangesMeet base.toNat lines.toNat e.2.base.toNat e.2.lines.toNat) then
        .fault { stopCode cRANGE with addr := base }
      else match (List.range 256).find? fun e => (sfind c.regions e).isNone with
        | none => result s .A o.d 1 1 0xFFFFFFFF
        | some e =>
          let r : Region := { base := base, lines := lines, scope := o.m, kind := w.getLsbD 63, sync := w,
                              sdev := if fab && !w.getLsbD 63 then (sync.extractLsb' 64 15).setWidth 16 else 0,
                              svf := if fab && !w.getLsbD 63 then sync.extractLsb' 96 8 else 0 }
          let s := s.modX x fun c => { c with regions := sput c.regions e r }
          result (s.devWrite c.fn (c.regva + BitVec.ofNat 64 (32 * e)) (regionBytes r true)) .A o.d 1 1 (BitVec.ofNat 128 e)

/-- `unbind` (R189). -/
def execUnbind (h : Hdr) (o : FR) (s : State) : Host.Outcome State Fault Refusal :=
  runWord (.unbind h o) .A h o.g none s fun s =>
    with32 s .A o.a fun e => whenPassed s <|
      let x := s.core.ctx
      let c := s.getX x
      if 255 < e.toNat then .fault (stopCode cRANGE)
      else match sfind c.regions e.toNat with
        | none => noResult s
        | some r =>
          let s := s.modX x fun c => { c with regions := sdel c.regions e.toNat }
          noResult (s.devWrite c.fn (c.regva + BitVec.ofNat 64 (32 * e.toNat)) (regionBytes r false))

/-! ## Scratchpad lines (R195) -/

/-- `lfe` (R195). -/
def execLfe (h : Hdr) (o : FM) (s : State) : Host.Outcome State Fault Refusal :=
  runWord (.lfe h o) .A h 0 none s fun s =>
    withEA s o false fun _ va => whenPassed s <|
      let c := s.core
      let line := va.toNat / 128
      let full := sget false c.lines line
      match immNat o.data with
      | 0 => noResult (s.setCore { c with lines := sset false c.lines line false })
      | 1 => noResult (s.setCore { c with lines := sset false c.lines line true })
      | 2 => if full then noResult s else .wait s
      | _ => if full then .wait s else noResult s

/-! ## Accesses that wait (R152, R164, R165, R343) -/

/-- An access of A whose turn has come has been performed: its word is due, or awaits its reply. -/
def settleAccess (s : State) (k seq : Nat) (f : InFlight → InFlight) : State :=
  s.modC k fun c => { c with flight := c.flight.map fun g => if g.stream = .A && g.seq = seq && g.acc.isSome then f g else g }

/-- The value that the bytes of an access give its word. -/
def accessVal (g : InFlight) (l : List Byte) : QVal :=
  match g.dest with
  | .opq q => elemBytes q l
  | _ => if g.produces then .scalar (BitVec.ofNat 128 (leNat l)) else g.val

/-- A started word of A faults (R165): no later word leaves anything, and the stream stops at it. -/
def faultFlight (s : State) (k : Nat) (g : InFlight) (f : StopInfo) : State :=
  haltAt (s.putC k (dropLater { (s.getC k) with a := { (s.getC k).a with pc := g.pc } } g.seq)) k .A f

/-- The oldest access of core k's A that waits is tried again; none where nothing changes. A load goes before earlier accesses that have not
passed their checks, but behind an acquiring load; its fault waits for them. -/
def advanceAcc (s : State) (k : Nat) : Option State :=
  let c := s.getC k
  match c.aFlight.find? fun g => g.acc.isSome with
  | none => none
  | some g =>
    let before := c.aFlight.filter fun e => decide (e.seq < g.seq)
    let open_ : Bool := before.any fun e => e.fab.isSome
    match g.acc with
    | none => none
    | some a =>
      if (before.any fun e => e.kind = .acq) || (open_ && !a.isLoad) || waitsFault s k .A then none
      else
        let s0 := { s with cur := k }
        match perform s0 (fabTagAt s0 g.seq) a with
        | .wait s' => if (s'.getB (benchOf k)).faults = (s.getB (benchOf k)).faults then none else some s'
        | .fault f => if open_ then none else some (faultFlight s k g f)
        | .bytes s' l lat =>
          some (settleAccess s' k g.seq fun e => { e with acc := none, due := some (s'.now + lat), val := accessVal e l })
        | .sent s' tag => some (settleAccess s' k g.seq fun e => { e with acc := none, fab := some tag, asked := some a })

end Sys2Proof.Machine
end

