-- ==== Sys2Proof/Machine/SCtl.lean ====
section
/-! DEFINITION. Machine/SCtl.lean: control flow, control and system registers, clocks, `trap` and `evpost` of S
(R117-R125, R347, R348). -/

namespace Sys2Proof.Machine

/-- `call` (R117). -/
def execCall (h : Hdr) (o : FB) (s : State) : Host.Outcome State Fault Refusal :=
  runWord (.call h o) .S h 0 none s fun s =>
    let c := s.core
    match branchTaken c .S o with
    | some true =>
      if 8 ≤ c.calls.length then .fault (stopCode cCALL)
      else .done (s.setCore { c with calls := (c.s.pc + 8) :: c.calls }) { target := some (relPc c.s.pc o.off.toInt) }
    | _ => noResult s

/-- `ret` (R117). -/
def execRet (h : Hdr) (o : NO) (s : State) : Host.Outcome State Fault Refusal :=
  runWord (.ret h o) .S h 0 none s fun s =>
    let c := s.core
    match c.calls with
    | [] => .fault (stopCode cCALL)
    | pc :: l => .done (s.setCore { c with calls := l }) { target := some pc }

/-- Continuing at entry i of the target table whose first entry lies at `first` (R49, R118). -/
def tableJump (s : State) (first i : Nat) : Act :=
  withCode s .S (first + 8 * i) fun e => .done s { target := some (relPc (first + 8 * i) (e.setWidth 32 : W32).toInt) }

/-- `jmp` (R118). -/
def execJmp (h : Hdr) (o : FI) (s : State) : Host.Outcome State Fault Refusal :=
  runWord (.jmp h o) .S h 0 none s fun s =>
    let first := relPc s.core.s.pc o.imm.toInt
    with32 s .S o.a fun i => withCode s .S (first - 8) fun p =>
      if (p.extractLsb' 0 25).toNat ≤ i.toNat then .fault { stopCode cRANGE with index := i } else tableJump s first i.toNat

/-- `swt` (R118). -/
def execSwt (h : Hdr) (o : FI) (s : State) : Host.Outcome State Fault Refusal :=
  runWord (.swt h o) .S h 0 none s fun s =>
    let first := relPc s.core.s.pc o.imm.toInt
    with32 s .S o.a fun i => withCode s .S (first - 8) fun p =>
      tableJump s first (min i.toNat ((p.extractLsb' 0 25).toNat - 1))

/-! ## Control registers (R119-R123) -/

/-- A matrix operation of the core that rounds with the X generators is running (R121). -/
def xgenBusy (s : State) : Bool :=
  (s.getX s.core.ctx).ops.any fun e =>
    e.2.core = s.cur && e.2.st = .running &&
    match e.2.body with
    | .dot _ m => m.rmode = 3 && m.ot ≠ 0
    | .pairDot _ _ _ (some m) _ => m.rmode = 3 && m.ot ≠ 0
    | _ => false

/-- The write of a control or system register, one trio clock later (R119). -/
def lateWrite (s : State) (v : W32) (d : Dest) : Act :=
  .done s { res := some { val := .scalar (v.setWidth 128), dest := d, lat := 1, enters := false } }

/-- `mvcr` (R119, R121). -/
def execMvcr (h : Hdr) (o : FI) (s : State) : Host.Outcome State Fault Refusal :=
  runWord (.mvcr h o) .S h 0 none s fun s =>
    with32 s .S o.a fun v =>
      let n := (o.imm.extractLsb' 0 12).toNat
      if n = 0x010 && xgenBusy s then .wait s else lateWrite s v (.ctl n)

/-- The value of a control register that has no effect when it is read (R123). -/
def readCtl (s : State) (n : Nat) : W32 :=
  let c := s.core
  if n ≤ 0x00F then sget 0 c.tsh n
  else if n = 0x010 then c.xseed
  else if n = 0x011 then c.satslot.setWidth 32
  else if n = 0x012 then c.rmode.setWidth 32
  else if n = 0x018 then c.opprio.setWidth 32
  else if n = 0x020 then BitVec.ofNat 32 s.cur
  else if n = 0x021 then BitVec.ofNat 32 (benchOf s.cur)
  else if n = 0x022 then BitVec.ofNat 32 (dieOf (benchOf s.cur))
  else if n = 0x023 then Config.devId.setWidth 32
  else if n = 0x024 then BitVec.ofNat 32 c.ctx
  else if n = 0x025 then (match s.coreInst c with | some i => i.number | none => 0)
  else if n = 0x026 then c.stage.setWidth 32
  else if n = 0x030 then (if c.pairBound then 0x80 else 0) ||| c.pairPartner.setWidth 32
  else if 0x050 ≤ n && n ≤ 0x057 then
    (match c.s.loops.reverse[n - 0x050]? with | some e => BitVec.ofNat 32 e.index | none => 0)
  else 0

/-- `mvrc` (R119, R120). -/
def execMvrc (h : Hdr) (o : FI) (s : State) : Host.Outcome State Fault Refusal :=
  runWord (.mvrc h o) .S h 0 (some 2) s fun s =>
    let n := (o.imm.extractLsb' 0 12).toNat
    if n = 0x040 || n = 0x041 then
      popOq s (n - 0x040 + 6) 4 fun s l => result s .S o.d 1 2 (BitVec.ofNat 128 (leNat l))
    else result s .S o.d 1 2 ((readCtl s n).setWidth 128)

/-- `clk` (R124). -/
def execClk (h : Hdr) (o : FR) (s : State) : Host.Outcome State Fault Refusal :=
  runWord (.clk h o) .S h o.g (some 1) s fun s =>
    if o.m = 1 then result s .S o.d 2 1 (BitVec.ofNat 128 s.coldClock) else result s .S o.d 1 1 (BitVec.ofNat 128 s.core.clk)

/-- `trap` (R347): the halting fault SW_TRAP with its code. -/
def execTrap (h : Hdr) (o : FI) (s : State) : Host.Outcome State Fault Refusal :=
  runWord (.trap h o) .S h 0 none s fun _ => .fault { stopCode cTRAP with tcode := (o.imm.extractLsb' 0 25).setWidth 32 }

/-- A word that sends its request when it becomes due and starts when the reply is present (R311). -/
def requestAct (s : State) (d : BitVec 7) (w lat : Nat) (k : Ask) : Act :=
  let c := s.core
  match c.req with
  | .none => .wait (s.setCore { c with req := .sent k })
  | .sent _ | .applied _ => .wait s
  | .replied v => result (s.setCore { c with req := .none }) .S d w lat (v.setWidth 128)
  | .failed code index addr => .fault { code := code, index := index, addr := addr, tcode := 0 }

/-- `evpost` (R348). -/
def execEvpost (h : Hdr) (o : FR) (s : State) : Host.Outcome State Fault Refusal :=
  runWord (.evpost h o) .S h o.g (some 2) s fun s =>
    with32 s .S o.a fun a => with64 s .S o.b fun b =>
      requestAct s o.d 1 2 { op := .evpost, a := a, b := b, c := 0, m := 0 }

/-! ## System registers (R125) -/

/-- The value of a system register (R125). -/
def readSys (s : State) (n : Nat) : W32 :=
  let c := s.core
  let fn := s.coreFn c
  if n = 0x000 then BitVec.ofNat 32 ((partOf s fn).getD 0)
  else if n = 0x001 then (fnVf fn).setWidth 32
  else if n = 0x002 then (if cachedMode s fn then 2 else 0) ||| (if (s.getX c.ctx).service then 1 else 0)
  else if 0x010 ≤ n && n ≤ 0x013 then c.pmc.getD (n - 0x010) 0
  else if 0x018 ≤ n && n ≤ 0x01B then (c.pmsel.getD (n - 0x018) 0).setWidth 32
  else 0

/-- `sysr` (R125). -/
def execSysr (h : Hdr) (o : FI) (s : State) : Host.Outcome State Fault Refusal :=
  runWord (.sysr h o) .S h 0 (some 4) s fun s => result s .S o.d 1 4 ((readSys s (o.imm.extractLsb' 0 12).toNat).setWidth 128)

/-- `sysw` (R125). -/
def execSysw (h : Hdr) (o : FI) (s : State) : Host.Outcome State Fault Refusal :=
  runWord (.sysw h o) .S h 0 none s fun s =>
    with32 s .S o.a fun v => lateWrite s v (.sys (o.imm.extractLsb' 0 12).toNat)

end Sys2Proof.Machine
end

