-- ==== Sys2Proof/Machine/Opers.lean ====
section
/-! DEFINITION. Machine/Opers.lean: operations: handles (R234-R236), creation and states (R237), ownership, consumption
and orphans (R238-R241), the record (R244), and the S words that manage operations but `ocancel` (R249-R258). -/

namespace Sys2Proof.Machine

/-! ## Handles (R234, R235) -/

/-- The kinds of an operation (R234). -/
def kindOf : OpBody → Nat
  | .wload _ | .dot .. | .pairDot .. | .wouter _ | .wdrainMem _ | .wdrainColl _ => 0
  | .copy .. => 1
  | .engine op .. => if op.toNat < 0x5E then 2 else 3
  | .wlease _ | .lease _ _ _ _ _ _ => 4
  | .launch .. => 5
  | .bdot _ => 6
  | .glaze .. => 7
  | .join _ => 8

/-- The kind that runs a command (R274). -/
def cmdKind (op : Nat) : Nat :=
  if op ≤ 0x5D then 0 else if op ≤ 0x5F then 1 else if op = 0x60 then 2 else if op ≤ 0x62 then 3 else if op = 0x63 then 4 else 5

/-- ENGINE of an operation that no unit serves yet (R244): its agent's class, and the bench for an array. -/
def unitOf (core : Nat) : OpBody → BitVec 16
  | .wload _ | .dot .. | .pairDot .. | .wouter _ | .wdrainMem _ | .wdrainColl _ | .wlease _ => BitVec.ofNat 16 (benchOf core)
  | .copy .. => 0x1000
  | .engine op .. => BitVec.ofNat 16 ((cmdKind op.toNat + 2) * 4096)
  | .bdot _ => 0x8000
  | .glaze .. => 0x9000
  | .launch .. => 0xA000
  | .lease _ _ _ _ _ _ | .join _ => 0

/-- SLOT of a handle. -/
def hSlot (h : W32) : Nat := (h.extractLsb' 8 12).toNat
/-- KIND of a handle. -/
def hKind (h : W32) : Nat := (h.extractLsb' 4 4).toNat
/-- GEN of a handle. -/
def hGen (h : W32) : Nat := (h.extractLsb' 20 12).toNat

/-- A handle (R234). -/
def mkHandle (gen slot kind : Nat) : W32 := BitVec.ofNat 32 (gen % 4096 * 2 ^ 20 + slot % 4096 * 256 + kind % 16 * 16)

/-- The operation that a current handle names (R235); none where it is stale. -/
def Ctx.op? (c : Ctx) (h : W32) : Option Op :=
  if h.extractLsb' 0 4 ≠ 0 || 8 < hKind h then none
  else match sfind c.ops (hSlot h) with
    | some o => if o.st = .retired || o.handle ≠ h then none else some o
    | none => none

/-! ## Status and record (R244, R246) -/

/-- Status codes (R246). -/
def OpSt.code : OpSt → Nat
  | .created => 1 | .waiting => 2 | .queued => 3 | .running => 4 | .parked => 5 | .held => 6 | .complete => 8
  | .failed => 9 | .cancelled => 10 | .orphaned => 11 | .retired => 12

/-- The finished states (R237); an ORPHANED operation has finished too. -/
def OpSt.finished : OpSt → Bool | .complete | .failed | .cancelled | .orphaned | .retired => true | _ => false

/-- The 32 bytes of an operation's record (R244). -/
def opRecord (o : Op) : List Byte :=
  leBytes 4 o.handle.toNat ++ [BitVec.ofNat 8 o.st.code, o.code] ++ leBytes 2 o.engine.toNat ++ leBytes 4 o.index.toNat ++
  leBytes 4 o.time.toNat ++ leBytes 8 o.addr.toNat ++ leBytes 4 o.deliv.toNat ++ leBytes 4 o.zfill.toNat

/-- The device writes an operation's image (R244, R462). -/
def State.imageOp (s : State) (x slot : Nat) : State :=
  match s.getO x slot with
  | some o => s.devWrite (s.getX x).fn ((s.getX x).opva + BitVec.ofNat 64 (32 * slot)) (opRecord o)
  | none => s

/-- TIME of a record (R244): bits [41:10] of the core clocks since cold reset. -/
def recTime (s : State) : W32 := BitVec.ofNat 32 (s.coldClock / 1024)

/-- An operation takes another state; its record follows. -/
def setOpSt (s : State) (x slot : Nat) (st : OpSt) : State :=
  (s.modO x slot fun o => { o with st := st, time := recTime s }).imageOp x slot

/-- An operation starts: it is RUNNING, and its effective priority is its own again (R242). -/
def startOp (s : State) (x slot : Nat) : State := setOpSt (s.modO x slot fun o => { o with aged := 0 }) x slot .running

/-- Adding to a counter that stops at 2^32 - 1. -/
def satPlus (a : W32) (n : Nat) : W32 := BitVec.ofNat 32 (min (a.toNat + n) 0xFFFFFFFF)

/-- The core of the upper half of a pair operation (R228). -/
def OpBody.upperCore : OpBody → Option Nat
  | .pairDot _ _ _ _ (some m) => some m.core
  | _ => none

/-- The status word that core k reads (R246); each half of a failed pair operation but the one at fault reads
PAIR_PARTNER (R229). -/
def statusWord (k : Nat) (o : Op) : W32 :=
  let other : Bool := match o.body with
    | .pairDot .. => (o.st = .failed || o.st = .orphaned) &&
        (o.body.upperCore = some k || (o.core = k && (o.engine &&& 0xFFF).toNat ≠ benchOf k))
    | _ => false
  let code : Byte := if other then cPAIRP else o.code
  BitVec.ofNat 32 (code.toNat * 256 + o.st.code)

/-- The status word of a stale handle (R246). -/
def staleWord : W32 := 0x0000300F

/-! ## Consumption and orphans (R238-R241) -/

/-- Retiring a slot (R236, R237): it leaves the orphan list, and its record stays readable. -/
def retireOp (s : State) (x slot : Nat) : State :=
  match s.getO x slot with
  | none => s
  | some o =>
    let was := (s.getX x).orphans.contains o.handle
    let s := setOpSt s x slot .retired
    let s := s.modX x fun c => { c with retired := c.retired ++ [slot], orphans := c.orphans.filter fun h => h ≠ o.handle }
    if was then s.imageCtx x else s

/-- A FAILED operation whose failure nobody has taken in (R237, R240). -/
def orphanOp (s : State) (x slot : Nat) : State :=
  match s.getO x slot with
  | none => s
  | some o =>
    if (s.getX x).orphans.length < 64 then
      ((setOpSt s x slot .orphaned).modX x fun c => { c with orphans := c.orphans ++ [o.handle] }).imageCtx x
    else
      let s := (postEvent s x 3 o.code.toNat 0xFFFF (o.handle.setWidth 64) 0)
      retireOp s x slot

/-- Whether `owait` by core k of an operation consumes it (R239). -/
def entitled (k : Nat) (o : Op) : Bool :=
  o.body.upperCore ≠ some k && (!o.attached || o.st = .orphaned || o.core = k)

/-- The cores of a context whose `owait` waits for a handle, with whether each consumes it. -/
def owaiters (s : State) (x : Nat) (h : W32) : List (Nat × Bool) :=
  s.cores.filterMap fun e => match e.2.owait with
    | .waiting h' c => if h' = h && e.2.ctx = x then some (e.1, c) else none
    | _ => none

/-- Every `owait` that observes an operation finish reads its status; one that is entitled consumes it (R239, R240,
R250). -/
def tellWaiters (s : State) (x : Nat) (o : Op) : State :=
  (owaiters s x o.handle).foldl (fun s e => s.modC e.1 fun c => { c with owait := .got (statusWord e.1 o) }) s

/-- What an operation does once it has finished (R237, R239, R240, R254): those who wait for it read it, and it is
consumed, retired or orphaned where its ownership says so. -/
def afterFinish (s : State) (x slot : Nat) : State :=
  match s.getO x slot with
  | none => s
  | some o =>
    let taken := (owaiters s x o.handle).any fun e => e.2 && entitled e.1 o
    let s := tellWaiters s x o
    if taken then retireOp s x slot
    else if o.st = .failed then (if !o.attached && !o.adopted then orphanOp s x slot else s)
    else if o.released then retireOp s x slot
    else s

/-- The tiles that an operation of context x names are free again, and FULL (R202, R203). -/
def releaseTiles (s : State) (x : Nat) (h : W32) : State :=
  { s with cores := s.cores.map fun e =>
      if e.2.ctx = x && e.2.busyTiles.any (fun t => t.1 = h) then
        let mine := e.2.busyTiles.filter fun t => t.1 = h
        let c : Core := { e.2 with busyTiles := e.2.busyTiles.filter fun t => t.1 ≠ h }
        (e.1, (mine.flatMap (·.2)).foldl (fun (c : Core) t => c.setFull t true) c)
      else e }

/-- The key of a collective's messages (R392): table ID, GEN and k, in AUX (DESIGN CHOICE, assumption 19). -/
def collKey (id gen : W32) (k : Nat) : W64 :=
  (id.setWidth 64 <<< 32) ||| ((gen &&& 0xFFFF).setWidth 64 <<< 16) ||| BitVec.ofNat 64 (k % 65536)

/-- Table ID and GEN of a started collective; they stand behind its descriptor. -/
def Op.collTable (o : Op) : W32 × W32 := (BitVec.ofNat 32 (field o.got 64 4), BitVec.ofNat 32 (field o.got 68 4))

/-- A collective that fails on this member sends an abort to every other (R394); its payload is the code they fail with:
RECORD_RANGE where fields differ (R392), otherwise REMOTE_REFUSED. -/
def abortColl (s : State) (x : Nat) (o : Op) (code : Byte) : State :=
  match o.collNo, (s.getX x).pg? o.collTable.1 with
  | some k, some t =>
    s.sendMembers (s.getX x).fn t 13 (collKey o.collTable.1 o.collTable.2 k) [if code = cRANGE then cRANGE else cREFUSED]
  | _, _ => s

/-! ## Predecessors and joins (R237, R243, R252) -/

/-- What an after-handle asks of an operation. -/
inductive AfterSt where
  | satisfied | unfinished | ended
  deriving DecidableEq, Repr

/-- The state of an after-handle (R237, R243): a stale one is satisfied. -/
def afterState (c : Ctx) (h : W32) : AfterSt :=
  match c.op? h with
  | none => .satisfied
  | some o => match o.st with
    | .complete => .satisfied
    | .failed | .orphaned | .cancelled => .ended
    | .retired => .satisfied
    | _ => .unfinished

/-- The outcome of a join (R252): none while a named operation is unfinished; then the first failure, if any. -/
def joinOutcome (c : Ctx) (hs : List W32) : Option (Option (Byte × W32)) :=
  if hs.any fun h => match c.op? h with | some o => !o.st.finished | none => false then none
  else some ((hs.filterMap fun h => match c.op? h with
    | some o => (match o.st with
      | .failed | .orphaned => some (o.code, h)
      | .cancelled => some (cCANCELLED, h)
      | _ => none)
    | none => none).head?)

/-- What an operation's predecessors decide as they stand (R237, R252). -/
def fateOf (c : Ctx) (o : Op) : Fate :=
  match o.after.map (afterState c), o.after with
  | some .ended, some h => .cancelled h
  | some .unfinished, _ => .undecided
  | _, _ =>
    match o.body with
    | .join hs => (match joinOutcome c hs with
      | none => .undecided
      | some none => .go
      | some (some (code, h)) => .failed code h)
    | _ => .go

/-- As an operation finishes, before anyone consumes it, the operations that wait for it take in what it decides (R237, R252). -/
def decideWaiting (s : State) (x : Nat) : State :=
  s.modX x fun c => { c with ops := c.ops.map fun e =>
    if e.2.st = .waiting && e.2.fate = .undecided then (e.1, { e.2 with fate := fateOf c e.2 }) else e }

/-- An operation finishes with a code, an address and an index (R237, R244); a collective that fails aborts (R394). -/
def finishOp (s : State) (x slot : Nat) (st : OpSt) (code : Byte) (index : W32) (addr : W64) : State :=
  match s.getO x slot with
  | none => s
  | some o =>
    if o.st.finished then s
    else
      let s := decideWaiting (s.putO x slot { o with st := st, code := code, index := index, addr := addr, time := recTime s, cancel := false }) x
      let s := releaseTiles (dropFaults s fun f => f.op.any fun e => e.1 = x && e.2 % 8192 = slot) x o.handle
      let s := if st = .complete then s else abortColl s x o code
      afterFinish (s.imageOp x slot) x slot

/-- An operation ends COMPLETE. -/
def completeOp (s : State) (x slot : Nat) : State := finishOp s x slot .complete 0 0 0

/-- An operation fails. -/
def failOp (s : State) (x slot : Nat) (code : Byte) (index : W32 := 0) (addr : W64 := 0) : State :=
  finishOp (countResidue s (s.getX x).fn code addr) x slot .failed code index addr

/-- An operation is cancelled. -/
def cancelOp (s : State) (x slot : Nat) (addr : W64 := 0) : State := finishOp s x slot .cancelled cCANCELLED 0 addr

/-- An operation leaves CREATED, HELD or WAITING as its predecessors allow (R237). -/
def advanceOp (s : State) (x slot : Nat) : State :=
  match s.getO x slot with
  | none => s
  | some o =>
    match (if o.fate = .undecided then fateOf (s.getX x) o else o.fate) with
    | .undecided => if o.st = .waiting then s else setOpSt s x slot .waiting
    | .cancelled h => cancelOp s x slot (h.setWidth 64)
    | .failed code h => failOp s x slot code 0 (h.setWidth 64)
    | .go =>
      match o.body with
      | .join _ => completeOp s x slot
      | _ => setOpSt (s.modO x slot fun o => { o with since := s.now }) x slot .queued

/-! ## Creation (R236, R237) -/

/-- The free slot that has been RETIRED longest, and the generation it takes (R236). -/
def nextSlot (c : Ctx) : Option (Nat × Nat) :=
  if c.ops.length < 4096 then some (c.ops.length, 1)
  else match c.retired with
    | [] => none
    | n :: _ => some (n, match sfind c.ops n with | some o => if hGen o.handle = 0xFFF then 1 else hGen o.handle + 1 | none => 1)

/-- What a creating word gives its operation besides its body. -/
structure NewOp where
  prio : Nat
  det : Bool
  after : Option W32
  deriving DecidableEq, Repr

/-- Placing a created operation in a slot: its record is cleared and its handle set (R237). -/
def placeOp (s : State) (x slot : Nat) (o : Op) : State :=
  let s := s.modX x fun c => { c with ops := sput c.ops slot o, retired := c.retired.filter fun n => n ≠ slot }
  { s with opCount := s.opCount + 1 }.imageOp x slot

/-- An operation of the executing core as a word creates it. -/
def newOp (s : State) (st : StreamId) (h : W32) (n : NewOp) (body : OpBody) : Op :=
  let c := s.core
  { handle := h, st := .created, code := 0, engine := unitOf s.cur body, index := 0, time := recTime s, addr := 0, deliv := 0, zfill := 0,
    attached := !n.det, core := s.cur, stream := st, node := c.inst.getD { ctx := 0, q := 0, seq := 0 },
    prio := if n.prio = 0 then c.opprio.toNat else n.prio, aged := 0, since := s.now, order := s.opCount, after := n.after,
    fate := .undecided, issued := s.now, released := false, adopted := false, cancel := false, entry := 0, bitmap := 0, collNo := none, inputs := [], recv := [], next := 0,
    notices := [], got := [], body := body }

/-- A word places an operation in CREATED (R236): where no slot is free it faults with entry index 0x1000. -/
def makeOp (s : State) (st : StreamId) (n : NewOp) (body : OpBody) (k : State → W32 → Nat → Act) : Act :=
  let x := s.core.ctx
  match nextSlot (s.getX x) with
  | none => .fault { stopCode cRANGE with index := 0x1000 }
  | some (slot, gen) =>
    let h := mkHandle gen slot (kindOf body)
    let s := placeOp s x slot (newOp s st h n body)
    k (s.setCore (s.core.pmcAdd 8 1)) h slot

/-- A word creates an operation (R236, R237); created in a step under DBG_HOLD the operation is HELD (R128, R248). -/
def createOp (s : State) (st : StreamId) (n : NewOp) (body : OpBody) (k : State → W32 → Nat → Act) : Act :=
  makeOp s st n body fun s h slot =>
    let x := s.core.ctx
    let d := s.core.dbg
    if d.dbgHold && (d.stepBusy || d.stepABusy) then k (setOpSt s x slot .held) h slot
    else k (advanceOp s x slot) h slot

/-- Using the after-handle that AF asks for (R29, R243). -/
def withAfter (s : State) (st : StreamId) (o : FO) (k : NewOp → Act) : Act :=
  let n : NewOp := { prio := o.pr.toNat, det := o.dt = 1, after := none }
  if o.af = 1 then with32 s st o.c fun h => k { n with after := some h } else k n

/-- A word that creates an operation and pushes its handle (R48). -/
def creating (s : State) (st : StreamId) (o : FO) (body : State → (OpBody → Act) → Act) : Act :=
  withAfter s st o fun n => body s fun b => createOp s st n b fun s h _ => result s st o.d 1 2 (h.setWidth 128)

/-! ## The words (R249-R258) -/

/-- A word of the group: its handle, and its 32-bit result with latency 2 (R249). -/
def handleWord (o : FR) (lat : Nat) (f : State → W32 → State × W32) (s : State) : Act :=
  with32 s .S o.a fun h =>
    let r := f s h
    result r.1 .S o.d 1 lat (r.2.setWidth 128)

/-- `owait` (R250). -/
def execOwait (h : Hdr) (o : FR) (s : State) : Host.Outcome State Fault Refusal :=
  runWord (.owait h o) .S h o.g (some 2) s fun s =>
    with32 s .S o.a fun a =>
      let c := s.core
      let x := c.ctx
      let peek := o.m.getLsbD 0
      match c.owait with
      | .got v => result (s.setCore { c with owait := .none }) .S o.d 1 2 (v.setWidth 128)
      | _ =>
        match (s.getX x).op? a with
        | none => result (s.setCore { c with owait := .none }) .S o.d 1 2 (staleWord.setWidth 128)
        | some p =>
          if !p.st.finished then .wait (s.setCore { c with owait := .waiting a !peek })
          else
            let v := statusWord s.cur p
            let s := s.setCore { c with owait := .none }
            let s := if !peek && entitled s.cur p then retireOp s x (hSlot a) else s
            result s .S o.d 1 2 (v.setWidth 128)

/-- `otest` (R258). -/
def execOtest (h : Hdr) (o : FR) (s : State) : Host.Outcome State Fault Refusal :=
  runWord (.otest h o) .S h o.g (some 2) s <| handleWord o 2 fun s a =>
    (s, match (s.getX s.core.ctx).op? a with | some p => statusWord s.cur p | none => staleWord)

/-- `ojoin` (R252): with `.pa`, A is an even pair of handles. -/
def execOjoin (h : Hdr) (o : FO) (s : State) : Host.Outcome State Fault Refusal :=
  runWord (.ojoin h o) .S h o.g (some 2) s fun s =>
    let pa := o.m.getLsbD 0
    withSrc s .S o.a (if pa then 2 else 1) fun a => with32 s .S o.b fun b => with32 s .S o.c fun c =>
      let first : List W32 := if pa then [a.setWidth 32, (a >>> 32).setWidth 32] else [a.setWidth 32]
      createOp s .S { prio := 0, det := o.dt = 1, after := none } (.join (first ++ [b, c])) fun s h _ =>
        result s .S o.d 1 2 (h.setWidth 128)

/-- `odetach` (R253). -/
def execOdetach (h : Hdr) (o : FR) (s : State) : Host.Outcome State Fault Refusal :=
  runWord (.odetach h o) .S h o.g (some 2) s <| handleWord o 2 fun s a =>
    let x := s.core.ctx
    match (s.getX x).op? a with
    | none => (s, 0)
    | some p =>
      if !p.attached || p.core ≠ s.cur || p.st = .orphaned then (s, 0)
      else
        let s := s.modO x (hSlot a) fun p => { p with attached := false }
        (if p.st = .failed then orphanOp s x (hSlot a) else s, 1)

/-- `oadopt` (R255). -/
def execOadopt (h : Hdr) (o : FR) (s : State) : Host.Outcome State Fault Refusal :=
  runWord (.oadopt h o) .S h o.g (some 2) s <| handleWord o 2 fun s a =>
    let x := s.core.ctx
    let c := s.getX x
    let which := if a = 0 then c.orphans.head? else some a
    match which with
    | none => (s, 0)
    | some h =>
      match c.op? h with
      | none => (s, 0)
      | some p =>
        if p.st ≠ .orphaned then (s, 0)
        else
          let s := setOpSt s x (hSlot h) .failed
          let s := s.modO x (hSlot h) fun p => { p with attached := false, adopted := true }
          ((s.modX x fun c => { c with orphans := c.orphans.filter fun h' => h' ≠ h }).imageCtx x, h)

/-- `orelease` (R254). -/
def execOrelease (h : Hdr) (o : FR) (s : State) : Host.Outcome State Fault Refusal :=
  runWord (.orelease h o) .S h o.g (some 2) s <| handleWord o 2 fun s a =>
    let x := s.core.ctx
    match (s.getX x).op? a with
    | none => (s, 0)
    | some p =>
      if p.attached && p.st ≠ .orphaned && p.core ≠ s.cur then (s, 0)
      else if p.st.finished then (retireOp s x (hSlot a), 1)
      else (s.modO x (hSlot a) fun p => { p with attached := false, released := true }, 1)

/-- A body whose operation takes another priority: a `wlease` claims its array with it (R213). -/
def OpBody.withPrio (n : Nat) : OpBody → OpBody
  | .wlease _ => .wlease n
  | b => b

/-- `oprio` (R256): it acts on the claim of a `wlease` that waits at its array too. -/
def execOprio (h : Hdr) (o : FR) (s : State) : Host.Outcome State Fault Refusal :=
  runWord (.oprio h o) .S h o.g (some 2) s fun s =>
    with32 s .S o.b fun p => handleWord o 2 (fun s a =>
      let x := s.core.ctx
      match (s.getX x).op? a with
      | none => (s, 0)
      | some q =>
        let open_ := match q.st with | .created | .held | .waiting | .queued | .parked => true | _ => false
        if !open_ || kindOf q.body = 0 then (s, 0)
        else
          let n := (p.extractLsb' 0 3).toNat
          let s := s.modO x (hSlot a) fun q => { q with prio := n, aged := 0, since := s.now, body := q.body.withPrio n }
          (s.modB (benchOf q.core) fun b => { b with claims := b.claims.map fun c =>
            if c.ctx = x && c.op = a then { c with prio := n, aged := 0, since := c.since.map fun _ => s.now } else c }, 1)) s

/-- `ofault` (R257). -/
def execOfault (h : Hdr) (o : FR) (s : State) : Host.Outcome State Fault Refusal :=
  runWord (.ofault h o) .S h o.g (some 4) s fun s =>
    with32 s .S o.b fun k => handleWord o 4 (fun s a =>
      (s, match s.getO s.core.ctx (hSlot a) with
        | some p => if p.handle = a then BitVec.ofNat 32 (field (opRecord p) (4 * (k.extractLsb' 0 3).toNat) 4) else staleWord
        | none => staleWord)) s

end Sys2Proof.Machine
end

