-- ==== Sys2Proof/Machine/Lease.lean ====
section
/-! DEFINITION. Machine/Lease.lean: palette engines and leases (R259-R270), the words `lease`, `unlease`, `lquery`,
`ocancel`, and the words that create engine commands (R271); when a context's operations may act (R344). -/

namespace Sys2Proof.Machine

/-! ## When operations act -/

/-- A switch-out, or the quiesce of a migration, is in progress (R349, R353). -/
def Ctx.departs (c : Ctx) : Bool := c.switchStart.isSome && (c.st = .switchingOut || c.st = .migratingOut)

/-- A core of the context has not been switched out yet (R349). -/
def coresOn (s : State) (x : Nat) : Bool := s.cores.any fun e => !e.2.away && e.2.inst.any fun i => i.ctx = x

/-- The agents of a context may start work: it is bound to the device and no halt is in progress (R342, R344). -/
def serves (s : State) (x : Nat) : Bool :=
  let c := s.getX x
  c.halt.isNone && (c.st = .runnable || c.st = .running || c.st = .created || (c.departs && coresOn s x))

/-- Work that drains at a switch-out or a teardown goes on too (R237, R247). -/
def servesOrDrains (s : State) (x : Nat) : Bool :=
  let c := s.getX x
  serves s x || (c.halt.isNone && (c.departs || c.st = .destroying))

/-! ## Kinds and engines (R259, R260) -/

/-- First global number and count of the engines of a kind (R259). -/
def kindSpan (kind : Nat) : Nat × Nat :=
  match kind with
  | 0 => (0, 48) | 1 => (48, 32) | 2 => (80, 24) | 3 => (104, 48) | 4 => (152, 24) | 5 => (176, 16) | _ => (192, 0)

/-- The kind of engine e. -/
def engKind (e : Nat) : Nat :=
  if e < 48 then 0 else if e < 80 then 1 else if e < 104 then 2 else if e < 152 then 3 else if e < 176 then 4 else 5

/-- The engines of a kind, by instance number. -/
def kindEngines (kind : Nat) : List Nat := (List.range (kindSpan kind).2).map fun i => (kindSpan kind).1 + i

/-- ENGINE of a record for engine e (R244, R259). -/
def engineField (e : Nat) : BitVec 16 := BitVec.ofNat 16 ((engKind e + 2) * 4096 + (e - (kindSpan (engKind e)).1))

/-! ## Leases (R262) -/

/-- A lease as its operation holds it. -/
structure LeaseInfo where
  kind : Nat
  try_ : Bool
  phase : LeasePhase
  engine : Option Nat
  endAt : Option Nat
  cancel : Bool
  deriving DecidableEq, Repr

/-- The lease of an operation's body. -/
def OpBody.lease? : OpBody → Option LeaseInfo
  | .lease k t p g n c => some { kind := k, try_ := t, phase := p, engine := g, endAt := n, cancel := c }
  | _ => none

/-- The phase of an unfinished lease (R262): one that is QUEUED waits, from the issue of its word on. -/
def LeaseInfo.phaseOf (l : LeaseInfo) (o : Op) : LeasePhase :=
  if o.st.finished || o.st = .parked then .none else if o.st = .queued && l.phase = .none then .waiting else l.phase

/-- An `unlease` or an `ocancel` of the lease has been accepted (R262, R268, R270). -/
def LeaseInfo.ends (l : LeaseInfo) : Bool := l.endAt.isSome || l.cancel

/-- The body of a lease. -/
def LeaseInfo.body (l : LeaseInfo) : OpBody := .lease l.kind l.try_ l.phase l.engine l.endAt l.cancel

/-- Changing a lease. -/
def modLease (s : State) (x slot : Nat) (f : LeaseInfo → LeaseInfo) : State :=
  s.modO x slot fun o => match o.body.lease? with | some l => { o with body := (f l).body } | none => o

/-- Phase codes (R262). -/
def LeasePhase.code : LeasePhase → Nat
  | .none => 0 | .waiting => 1 | .waking => 2 | .held => 3 | .revoking => 4 | .evicting => 5 | .ending => 6

/-- Effective priority (R242). -/
def Op.eff (o : Op) : Nat := min 7 (o.prio + o.aged)

/-- The operations of every context, by context and slot. -/
def allOps (s : State) : List (Nat × Nat × Op) := s.ctxs.flatMap fun e => e.2.ops.map fun f => (e.1, f.1, f.2)

/-- The first of a list under an order. -/
def bestOf {α : Type} (better : α → α → Bool) : List α → Option α
  | [] => none
  | a :: l => match bestOf better l with
    | none => some a
    | some b => if better b a then some b else some a

/-- The older of two that entered in the clocks `a` and `b`: the earlier, then that of the lower core (R268), then the earlier created. -/
def older (a b : Nat) (o p : Op) : Bool :=
  decide (a < b) || (a = b && (decide (o.core < p.core) || (o.core = p.core && decide (o.order < p.order))))

/-- Before in a lease queue: higher effective priority, then the older entry (R264). -/
def leaseBefore (a b : Nat × Nat × Op) : Bool :=
  decide (b.2.2.eff < a.2.2.eff) || (a.2.2.eff = b.2.2.eff && older a.2.2.entry b.2.2.entry a.2.2 b.2.2)

/-- The leases that wait in a kind's queue. -/
def leaseQueue (s : State) (kind : Nat) : List (Nat × Nat × Op) :=
  (allOps s).filter fun e => match e.2.2.body.lease? with
    | some l => l.kind = kind && l.phase = .waiting && (e.2.2.st = .queued || e.2.2.st = .running)
    | none => false

/-- An earlier HELD lease of the same stream and kind holds this one back (R248). -/
def heldLease (s : State) (x : Nat) (o : Op) (kind : Nat) : Bool :=
  (s.getX x).ops.any fun e => e.2.st = .held && e.2.core = o.core && e.2.stream = o.stream && e.2.node = o.node && decide (e.2.order < o.order) &&
    e.2.body.lease?.any fun l => l.kind = kind

/-- The head of a kind's queue: of the leases that a context's agents may be given (R344, R349) and no HELD one holds back. -/
def leaseHead (s : State) (kind : Nat) : Option (Nat × Nat × Op) :=
  bestOf leaseBefore ((leaseQueue s kind).filter fun e => serves s e.1 && !heldLease s e.1 e.2.2 kind)

/-- The budget has room for a wake (R261). -/
def budgetRoom (s : State) : Bool := decide (awakeCount s < s.budget)

/-- The engine that a grant of the kind would choose, and its wake time (R260, R264). -/
def grantChoice (s : State) (kind : Nat) : Option (Nat × Nat) :=
  let l := kindEngines kind
  match l.find? fun e => (s.getE e).st = .awake with
  | some e => some (e, 0)
  | none =>
    if !budgetRoom s then none
    else match l.find? fun e => (s.getE e).st = .drowsy with
      | some e => some (e, 360)
      | none => (l.find? fun e => (s.getE e).st = .asleep).map fun e => (e, 4800)

/-- An engine becomes LEASED for a lease; the quantum starts (R260, R265). -/
def holdEngine (s : State) (e x slot : Nat) : State :=
  let s := s.modE e fun g => { g with st := .leased, since := s.now, lease := some (x, slot), granted := s.now, quantum := s.now, revoke := none }
  let s := modLease s x slot fun l => { l with phase := if l.ends then LeasePhase.ending else .held, engine := some e }
  let s := s.modO x slot fun o => { o with aged := 0, engine := engineField e }
  if (s.getO x slot).any fun o => o.st = .running then s.imageOp x slot else setOpSt s x slot .running

/-- A grant of an engine that must wake first (R260). -/
def wakeEngine (s : State) (e t x slot : Nat) : State :=
  let s := s.modE e fun g => { g with st := .waking, since := s.now, lease := some (x, slot), wake := s.now + t }
  let s := modLease s x slot fun l => { l with phase := .waking, engine := some e }
  if (s.getO x slot).any fun o => o.st = .running then s else setOpSt s x slot .running

/-- The engine whose lease ended or yielded passes to the kind's head, or becomes AWAKE (R260). -/
def passEngine (s : State) (e : Nat) : State :=
  match leaseHead s (engKind e) with
  | some (x, slot, _) => holdEngine s e x slot
  | none => s.modE e fun g => { g with st := .awake, since := s.now, lease := none, revoke := none }

/-- A lease enters its kind's queue (R264). -/
def queueLease (s : State) (x slot : Nat) (fresh : Bool) : State :=
  let s := modLease s x slot fun l => { l with phase := .waiting, engine := none }
  let s := s.modO x slot fun o =>
    if fresh then { o with entry := s.now, aged := 0, since := s.now } else { o with entry := s.now }
  if (s.getO x slot).any fun o => o.st = .queued then s else s.imageOp x slot

/-- The commands created under a lease that have not finished (R263). -/
def leaseCommands (s : State) (x slot : Nat) : List (Nat × Op) :=
  match s.getO x slot with
  | none => []
  | some l => (s.getX x).ops.filter fun e => !e.2.st.finished && match e.2.body with
    | .engine _ h _ _ => h = l.handle
    | _ => false

/-- A lease ends: its engine passes on, or a WAKING one is granted to the next waiter (R270); commands of a lease that
ended before they ran fail with LEASE_DENIED (R271). -/
def endLease (s : State) (x slot : Nat) (st : OpSt) (code : Byte) : State :=
  match (s.getO x slot).bind fun o => o.body.lease? with
  | none => s
  | some l =>
    let s := modLease s x slot fun l => { l with phase := .none, engine := none }
    let s := finishOp s x slot st code 0 0
    let s := (leaseCommands s x slot).foldl (fun s e => failOp s x e.1 cDENIED) s
    match l.engine with
    | none => s
    | some e =>
      if (s.getE e).st = .waking then
        match leaseHead s (engKind e) with
        | some (y, t, _) =>
          let s := s.modE e fun g => { g with lease := some (y, t) }
          let s := modLease s y t fun l => { l with phase := .waking, engine := some e }
          setOpSt s y t .running
        | none => s.modE e fun g => { g with lease := none }
      else if (s.getE e).st = .leased then passEngine s e
      else s.modE e fun g => { g with lease := none }

/-- A lease whose end has been accepted ends once its commands have finished (R268, R270): those that it got up to the end of the clock of
its `unlease`. -/
def settleLease (s : State) (x slot : Nat) : State :=
  match (s.getO x slot).bind fun o => o.body.lease? with
  | some l =>
    if l.ends && l.phase ≠ .evicting && l.endAt.all (fun t => decide (t < s.now)) && leaseCommands s x slot = [] then
      (if l.cancel then endLease s x slot .cancelled cCANCELLED else endLease s x slot .complete 0)
    else s
  | none => s

/-- A lease that leaves phase 4 for phase 6 is revoked no more (R262, R269). -/
def endsRevoke (s : State) (l : LeaseInfo) : State := match l.engine with | some e => s.modE e fun g => { g with revoke := none } | none => s

/-- `ocancel` of a RUNNING lease (R268): its commands that have not started end CANCELLED, its running one stops. -/
def cancelLease (s : State) (x slot : Nat) : State :=
  match (s.getO x slot).bind fun o => o.body.lease? with
  | none => s
  | some l =>
    let s := (leaseCommands s x slot).foldl (fun s e =>
      if e.2.st = .running then s.modO x e.1 fun o => { o with cancel := true } else cancelOp s x e.1) s
    if l.phase = .held || l.phase = .revoking || l.phase = .ending then
      let s := modLease s x slot fun l => { l with phase := .ending, cancel := true }
      settleLease (endsRevoke s l) x slot
    else endLease s x slot .cancelled cCANCELLED

/-! ## The words (R251, R270) -/

/-- A RUNNING operation that `ocancel` stops at its next unit boundary (R251, R274). -/
def stopsEarly : OpBody → Bool
  | .copy .. | .bdot _ => true
  | .engine op .. => op = 0x5E || 0x61 ≤ op.toNat
  | _ => false

/-- `ocancel` (R251, R268). -/
def execOcancel (h : Hdr) (o : FR) (s : State) : Host.Outcome State Fault Refusal :=
  runWord (.ocancel h o) .S h o.g (some 2) s <| handleWord o 2 fun s a =>
    let x := s.core.ctx
    match (s.getX x).op? a with
    | none => (s, 0)
    | some p =>
      if p.st.finished then (s, 0)
      else if p.body.lease?.isSome && p.st = .running then (cancelLease s x (hSlot a), 1)
      else if p.st ≠ .running then (cancelOp s x (hSlot a), 1)
      else if stopsEarly p.body then (s.modO x (hSlot a) fun p => { p with cancel := true }, 1)
      else (s, 1)

/-- `lease` (R270). -/
def execLease (h : Hdr) (o : FO) (s : State) : Host.Outcome State Fault Refusal :=
  runWord (.lease h o) .S h o.g (some 2) s fun s =>
    creating s .S o fun _ k =>
      k (LeaseInfo.body { kind := immNat o.a, try_ := o.m.getLsbD 0, phase := .none, engine := none, endAt := none, cancel := false })

/-- `unlease` (R270). -/
def execUnlease (h : Hdr) (o : FR) (s : State) : Host.Outcome State Fault Refusal :=
  runWord (.unlease h o) .S h o.g (some 2) s <| handleWord o 2 fun s a =>
    let x := s.core.ctx
    match (s.getX x).op? a with
    | none => (s, 0)
    | some p =>
      match p.body.lease? with
      | none => (s, 0)
      | some l =>
        if l.endAt.isSome then (s, 0) else
        match l.phaseOf p with
        | .waiting | .waking => (endLease s x (hSlot a) .complete 0, 1)
        | .held | .revoking =>
          (endsRevoke (modLease s x (hSlot a) fun l => { l with phase := .ending, endAt := some s.now }) l, 1)
        | _ => (s, 0)

/-- The word that `lquery` returns for a lease. -/
def leaseWord (s : State) (x : Nat) (a : W32) : W32 :=
  match (s.getX x).op? a with
  | none => 0x0000FF00
  | some p =>
    match p.body.lease? with
    | none => 0x0000FF00
    | some l =>
      let ph := l.phaseOf p
      let inst := match ph, l.engine with
        | .none, _ | .waiting, _ | .ending, _ | _, none => 0xFF
        | _, some e => e - (kindSpan (engKind e)).1
      BitVec.ofNat 32 (min 255 (leaseCommands s x (hSlot a)).length * 65536 + inst * 256 + ph.code)

/-- The word that `lquery.kind` returns. -/
def kindWord (s : State) (kind : Nat) : W32 :=
  let l := kindEngines kind
  let live := (l.filter fun e => (s.getE e).st ≠ .retired).length
  let cnt := (l.filter fun e => (s.getE e).st.counts).length
  BitVec.ofNat 32 (live * 2 ^ 24 + s.budget * 65536 + min 255 (leaseQueue s kind).length * 256 + cnt)

/-- `lquery` (R270). -/
def execLquery (h : Hdr) (o : FR) (s : State) : Host.Outcome State Fault Refusal :=
  runWord (.lquery h o) .S h o.g (some 2) s fun s =>
    if o.m.getLsbD 0 then result s .S o.d 1 2 ((kindWord s (immNat o.a)).setWidth 128)
    else handleWord o 2 (fun s a => (s, leaseWord s s.core.ctx a)) s

/-! ## Creating engine commands (R271) -/

/-- The check of a command's lease operand when the command is created (R271): the failure, if any. -/
def leaseOperand (s : State) (x : Nat) (op : Nat) (h : W32) : Option Byte :=
  match (s.getX x).op? h with
  | none => some cSTALE
  | some p =>
    match p.body.lease? with
    | none => some cRANGE
    | some l =>
      if l.kind ≠ cmdKind op then some cRANGE
      else if p.st.finished then some cDENIED
      else if l.cancel || (l.endAt.any fun t => decide (t < s.now)) then some cDENIED
      else none

/-- A word that creates an engine command: a bad lease operand fails the operation at its creation (R271). -/
def engineWord (i : Instr) (h : Hdr) (o : FO) (op : Nat) (s : State) : Host.Outcome State Fault Refusal :=
  runWord i .S h o.g (some 2) s fun s =>
    with32 s .S o.a fun a => with64 s .S o.b fun desc => withAfter s .S o fun n =>
      let x := s.core.ctx
      createOp s .S n (.engine (BitVec.ofNat 8 op) a desc (o.m.getLsbD 0)) fun s' hd slot =>
        let s' := match leaseOperand s x op a with | some c => failOp s' x slot c | none => s'
        result s' .S o.d 1 2 (hd.setWidth 128)

/-- `colrs` (R271, R275). -/
def execColrs (h : Hdr) (o : FO) (s : State) : Host.Outcome State Fault Refusal := engineWord (.colrs h o) h o 0x58 s
/-- `colag` (R271, R275). -/
def execColag (h : Hdr) (o : FO) (s : State) : Host.Outcome State Fault Refusal := engineWord (.colag h o) h o 0x59 s
/-- `colar` (R271, R275). -/
def execColar (h : Hdr) (o : FO) (s : State) : Host.Outcome State Fault Refusal := engineWord (.colar h o) h o 0x5A s
/-- `cola2a` (R271, R275). -/
def execCola2a (h : Hdr) (o : FO) (s : State) : Host.Outcome State Fault Refusal := engineWord (.cola2a h o) h o 0x5B s
/-- `colbc` (R271, R275). -/
def execColbc (h : Hdr) (o : FO) (s : State) : Host.Outcome State Fault Refusal := engineWord (.colbc h o) h o 0x5C s
/-- `colcmb` (R271, R275, R277). -/
def execColcmb (h : Hdr) (o : FO) (s : State) : Host.Outcome State Fault Refusal := engineWord (.colcmb h o) h o 0x5D s
/-- `rtopk` (R271, R278). -/
def execRtopk (h : Hdr) (o : FO) (s : State) : Host.Outcome State Fault Refusal := engineWord (.rtopk h o) h o 0x5E s
/-- `rplan` (R271, R278). -/
def execRplan (h : Hdr) (o : FO) (s : State) : Host.Outcome State Fault Refusal := engineWord (.rplan h o) h o 0x5F s
/-- `sortkv` (R271, R279). -/
def execSortkv (h : Hdr) (o : FO) (s : State) : Host.Outcome State Fault Refusal := engineWord (.sortkv h o) h o 0x60 s
/-- `gathr` (R271, R280). -/
def execGathr (h : Hdr) (o : FO) (s : State) : Host.Outcome State Fault Refusal := engineWord (.gathr h o) h o 0x61 s
/-- `scatr` (R271, R280). -/
def execScatr (h : Hdr) (o : FO) (s : State) : Host.Outcome State Fault Refusal := engineWord (.scatr h o) h o 0x62 s
/-- `sfnap` (R271, R281). -/
def execSfnap (h : Hdr) (o : FO) (s : State) : Host.Outcome State Fault Refusal := engineWord (.sfnap h o) h o 0x63 s
/-- `cdpack` (R271, R282). -/
def execCdpack (h : Hdr) (o : FO) (s : State) : Host.Outcome State Fault Refusal := engineWord (.cdpack h o) h o 0x64 s
/-- `cdunpk` (R271, R282). -/
def execCdunpk (h : Hdr) (o : FO) (s : State) : Host.Outcome State Fault Refusal := engineWord (.cdunpk h o) h o 0x65 s

/-! ## Steps of the palette (R260-R268) -/

/-- A request enters its queue 4 clocks after its word issued (R264, R269): it is denied where every engine of the kind
is RETIRED, or under `.try` where no grant is possible. -/
def execLeaseQueueEntry (ctx slot : Nat) (s : State) : Host.Outcome State Fault Refusal :=
  .next (match s.getO ctx slot with
    | none => s
    | some o =>
      match o.body.lease? with
      | none => s
      | some l =>
        if o.st ≠ .queued || l.phase ≠ .none || s.now < o.issued + 4 || !serves s ctx then s
        else if (kindEngines l.kind).all fun e => (s.getE e).st = .retired then failOp s ctx slot cDENIED
        else
          let s' := queueLease s ctx slot false
          let first := (leaseHead s' l.kind).any fun e => e.1 = ctx && e.2.1 = slot
          if l.try_ && !(first && (grantChoice s' l.kind).isSome) then failOp s' ctx slot cDENIED else s')

/-- The head of a kind's queue is granted (R260, R264). -/
def execLeaseGrant (kind : Nat) (s : State) : Host.Outcome State Fault Refusal :=
  .next (match leaseHead s kind, grantChoice s kind with
    | some (x, slot, _), some (e, t) => if t = 0 then holdEngine s e x slot else wakeEngine s e t x slot
    | _, _ => s)

/-- A WAKING engine's wake time has elapsed (R260). -/
def execWakeDone (engine : Nat) (s : State) : Host.Outcome State Fault Refusal :=
  .next (
    let g := s.getE engine
    if g.st ≠ .waking || s.now < g.wake then s
    else match g.lease with
      | some (x, slot) => holdEngine s engine x slot
      | none => passEngine s engine)

/-- The lease that holds an engine. -/
def holder (s : State) (e : Nat) : Option (Nat × Nat × Op × LeaseInfo) :=
  match (s.getE e).lease with
  | some (x, slot) => (s.getO x slot).bind fun o => o.body.lease?.map fun l => (x, slot, o, l)
  | none => none

/-- A waiter that qualifies to take the engine from its holder (R265). -/
def qualifies (s : State) (e : Nat) (hold : Op) (kind : Nat) : Bool :=
  match leaseHead s kind with
  | none => false
  | some (_, _, w) =>
    decide (hold.eff < w.eff) && (grantChoice s kind).isNone &&
    (kind = engKind e || (!budgetRoom s && (kindEngines kind).any fun f => (s.getE f).st = .asleep || (s.getE f).st = .drowsy))

/-- The end of a quantum (R265): it restarts, or the lease is revoked. -/
def execQuantumEnd (engine : Nat) (s : State) : Host.Outcome State Fault Refusal :=
  .next (
    let g := s.getE engine
    match holder s engine with
    | some (x, slot, o, l) =>
      if g.st ≠ .leased || l.phase ≠ .held || s.now < g.quantum + (dcGet s 0x00270008).toNat then s
      else if (List.range 6).any (qualifies s engine o) then
        (modLease s x slot fun l => { l with phase := .revoking }).modE engine fun g => { g with revoke := some s.now }
      else s.modE engine fun g => { g with quantum := s.now }
    | none => s)

/-- A revoked engine with no RUNNING command yields (R265): to the waiter of its kind, or asleep for one of another. -/
def execEngineYield (engine : Nat) (s : State) : Host.Outcome State Fault Refusal :=
  .next (
    let g := s.getE engine
    match holder s engine with
    | some (x, slot, o, l) =>
      if g.st ≠ .leased || l.phase ≠ .revoking || g.cmd.isSome then s
      else
        let own := (leaseHead s (engKind engine)).any fun w => decide (o.eff < w.2.2.eff)
        let other := (List.range 6).any fun k => k ≠ engKind engine && qualifies s engine o k
        let s := if own then passEngine s engine
          else s.modE engine fun g => { g with st := if other then .asleep else .awake, since := s.now, lease := none, revoke := none }
        dcCount (queueLease s x slot true) 0x0027001C 1
    | none => s)

/-- An operation that waits in QUEUED, or a lease that waits in its queue. -/
def Op.waits (o : Op) : Bool := o.st = .queued || (o.st = .running && o.body.lease?.any fun l => l.phase = .waiting)

/-- While an operation is PARKED its `since` holds the clocks that it had waited, so that its age is kept (R247, R267). -/
def setParked (s : State) (x slot : Nat) : State :=
  setOpSt (s.modO x slot fun o => { o with since := if o.waits then s.now - o.since else 0 }) x slot .parked

/-- An operation that parks (R247, R266, R344): its progress stays, its agent is free; one that was to stop at this boundary is CANCELLED
(R251). -/
def parkOp (s : State) (x slot : Nat) : State :=
  let idle (g : Engine) : Engine := if g.cmd = some (x, slot) then { g with cmd := none } else g
  let s := { s with engines := s.engines.map fun e => (e.1, idle e.2) }
  let s := dropFaults s fun f => f.op.any fun e => e.1 = x && e.2 % 8192 = slot
  if (s.getO x slot).any fun o => o.cancel then cancelOp s x slot else setParked s x slot

/-- INDEX of the unit that an operation's command is at (R244, R274): a collective is one unit. -/
def Op.unit (o : Op) : W32 :=
  match o.body with
  | .engine op .. => if cmdKind op.toNat = 0 then 0 else BitVec.ofNat 32 o.entry
  | _ => BitVec.ofNat 32 o.entry

/-- Discarding what an engine is doing (R266): a `.res` command parks, another fails. -/
def dropCommand (s : State) (e : Nat) (code : Byte) : State :=
  match (s.getE e).cmd with
  | none => s
  | some (x, slot) =>
    let s := s.modE e fun g => { g with cmd := none }
    match s.getO x slot with
    | none => s
    | some o =>
      match o.body with
      | .engine _ _ _ true => if code = cEVICTED then parkOp s x slot else failOp s x slot code o.unit
      | _ => failOp s x slot code o.unit

/-- The lease that a budget cut evicts first (R261): the lowest effective priority, then the latest grant. -/
def cutVictim (s : State) : Option Nat :=
  let l := (s.engines.filter fun e => e.2.st = .leased).filterMap fun e => (holder s e.1).map fun h => (e.1, h.2.2.1.eff, e.2.granted)
  (bestOf (fun (a b : Nat × Nat × Nat) => decide (a.2.1 < b.2.1) || (a.2.1 = b.2.1 && decide (b.2.2 < a.2.2))) l).map (·.1)

/-- More engines count against the budget than it has room for, those aside that a budget cut is evicting (R260, R261). -/
def overBudget (s : State) : Bool :=
  decide (s.budget + (s.engines.filter fun e => e.2.st = .evicting && e.2.budgetCut).length < awakeCount s)

/-- An idle AWAKE engine goes ASLEEP (R260). -/
def sleepEngine (s : State) (e : Nat) : State := s.modE e fun g => { g with st := .asleep, since := s.now }

/-- A forced eviction (R261, R265, R266); while the budget is exceeded an idle AWAKE engine goes ASLEEP before any lease is evicted. -/
def execForcedEviction (engine : Nat) (s : State) : Host.Outcome State Fault Refusal :=
  .next (
    let g := s.getE engine
    let late := g.revoke.any fun t => decide (t + (dcGet s 0x0027000C).toNat ≤ s.now) && g.cmd.isSome
    let cut := overBudget s && cutVictim s = some engine
    if g.st = .awake then (if overBudget s && ((List.range 192).reverse.find? fun e => (s.getE e).st = .awake) = some engine then sleepEngine s engine else s)
    else if g.st ≠ .leased || !(late || cut) then s
    else
      let s := dropCommand s engine cEVICTED
      let s := match g.lease with | some (x, slot) => modLease s x slot fun l => { l with phase := .evicting } | none => s
      dcCount (s.modE engine fun g => { g with st := .evicting, since := s.now, budgetCut := cut, revoke := none }) 0x00270018 1)

/-- The scrub of an evicted engine is done, at most 2,400 clocks after the eviction (R260). -/
def execScrubDone (engine : Nat) (s : State) : Host.Outcome State Fault Refusal :=
  .next (
    let g := s.getE engine
    if g.st ≠ .evicting || s.now < g.since + atMost 2400 g.since engine then s
    else
      let s := if g.budgetCut then s.modE engine fun g => { g with st := .asleep, since := s.now, lease := none, budgetCut := false }
        else passEngine s engine
      match g.lease with
      | some (x, slot) =>
        if ((s.getO x slot).bind fun o => o.body.lease?).any fun l => l.phase = .evicting then settleLease (queueLease s x slot true) x slot else s
      | none => s)

/-- An idle AWAKE engine becomes DROWSY (R260). -/
def execDrowsyTimeout (engine : Nat) (s : State) : Host.Outcome State Fault Refusal :=
  .next (
    let g := s.getE engine
    if g.st = .awake && decide (g.since + (dcGet s 0x00270010).toNat ≤ s.now) then
      s.modE engine fun g => { g with st := .drowsy, since := s.now }
    else s)

/-- A DROWSY engine is power-gated (R260). -/
def execSleepTimeout (engine : Nat) (s : State) : Host.Outcome State Fault Refusal :=
  .next (
    let g := s.getE engine
    if g.st = .drowsy && decide (g.since + (dcGet s 0x00270014).toNat ≤ s.now) then
      s.modE engine fun g => { g with st := .asleep, since := s.now }
    else s)

/-- The budget is changed (R261): idle AWAKE engines sleep first, the highest global number first. -/
def setBudget (s : State) (n : Nat) : State :=
  (List.range 192).reverse.foldl (fun s e => if overBudget s && (s.getE e).st = .awake then sleepEngine s e else s) { s with budget := n }

end Sys2Proof.Machine
end

