-- ==== Sys2Proof/Machine/Record.lean ====
section
/-! DEFINITION. Machine/Record.lean: the accesses of memory of a context's operations (R343), their
saturation events (R80), and tensor records (R291, R292). -/

namespace Sys2Proof.Machine

/-! ## Accesses of an operation (R343) -/

/-- What an operation's access answers: its bytes or the state it leaves, the state in which it waits, or its fault. -/
inductive OpRd where
  | ok (s : State) (l : List Byte)
  | wait (s : State)
  | bad (code : Byte) (va : W64)
  deriving DecidableEq, Repr

/-- The fault-buffer entry that an operation's unit waits for. -/
def opEntry (s : State) (k x slot : Nat) : Option FaultEntry :=
  (s.getB (benchOf k)).faults.find? fun f => f.op = some (x, slot)

/-- The cached translations that an operation created on core k uses (R364): an array command those of its core, another its bench's;
an agent of the device none. -/
def viaOf (s : State) (k x slot : Nat) : Via :=
  if 384 ≤ k then .device else if (s.getO x (slot % 8192)).any fun o => kindOf o.body = 0 then .core k else .bench (benchOf k)

/-- A read of n bytes by an operation created on core k. -/
def opReadAs (s : State) (p : Perm) (k x slot : Nat) (va : W64) (n : Nat) : OpRd :=
  let fn := (s.getX x).fn
  match opEntry s k x slot with
  | some f => match f.failed with
    | some c => .bad c f.va
    | none => .wait s
  | none =>
    match readFrom s (viaOf s k x slot) fn p false (n / 65536 + 2) va n with
    | .ok l => .ok (countLines (noteMiss { s with free := s.free + 1 } (viaOf s k x slot) fn va) fn va n) l
    | .wait a => .wait (enterFault s k .S (some (x, slot)) fn a false)
    | .bad c a => .bad c a

/-- A read under the permission of a load. -/
def opRead (s : State) (k x slot : Nat) (va : W64) (n : Nat) : OpRd := opReadAs s .rd k x slot va n

/-- A write by an operation, whole or not at all; a lock word that it frees is granted (R193). -/
def opWrite (s : State) (k x slot : Nat) (va : W64) (l : List Byte) : OpRd :=
  let fn := (s.getX x).fn
  match opEntry s k x slot with
  | some f => match f.failed with
    | some c => .bad c f.va
    | none => .wait s
  | none =>
    match writeVa s (viaOf s k x slot) fn va l with
    | .ok s' =>
      let s' := match paOf s fn va with | some pa => if s.lockQ = [] then s' else lockCheck s' pa l.length | none => s'
      .ok (countLines (noteMiss { s' with free := s'.free + 1 } (viaOf s k x slot) fn va) fn va l.length) []
    | .wait a => .wait (enterFault s k .S (some (x, slot)) fn a true)
    | .bad c a => .bad c a

/-- Dropping the entry of an operation's unit. -/
def dropOpEntry (s : State) (x slot : Nat) : State := dropFaults s fun f => f.op = some (x, slot)

/-! ## Saturation by a unit of work (R80) -/

/-- Adding a unit's events of an operation: the state, and whether a crossing halts the context (R80, R345). -/
def opSat (s : State) (x slot satslot n nans src : Nat) : State × Bool :=
  match satAdd s x satslot n nans (.op slot) with
  | (s, none) => (s, false)
  | (s, some (act, count)) =>
    let s := satEvent s x satslot src act count
    if act.getLsbD 1 then (haltOp s x slot, true) else (s, false)

/-! ## Tensor records (R291, R292) -/

/-- A tensor record (R291). -/
structure TRec where
  id : W32
  version : W32
  base : W64
  scaleVa : W64
  rows : Nat
  cols : Nat
  stride : Nat
  et : Nat
  slot : Nat
  deriving DecidableEq, Repr

/-- The record that 64 bytes hold. -/
def trecOf (l : List Byte) : TRec :=
  { id := BitVec.ofNat 32 (field l 0x00 4), version := BitVec.ofNat 32 (field l 0x04 4),
    base := BitVec.ofNat 64 (field l 0x08 8), scaleVa := BitVec.ofNat 64 (field l 0x10 8),
    rows := field l 0x18 4, cols := field l 0x1C 4, stride := field l 0x20 8, et := field l 0x28 1,
    slot := field l 0x2A 2 % 1024 }

/-- The element type carries square-block scales. -/
def TRec.sb (r : TRec) : Bool := (etTy r.et).2

/-- The seal of a record holds (R292). -/
def sealOk (l : List Byte) : Bool := BitVec.ofNat 32 (field l 0x3C 4) = crc32c (l.take 0x3C)

/-- The offset of the first field that breaks R291; none where the record is well formed. -/
def trecBreaks (l : List Byte) : Option Nat :=
  let r := trecOf l
  let dim (n : Nat) : Bool := decide (1 ≤ n) && decide (n ≤ 2 ^ 24) && (!r.sb || n % 8 = 0)
  if r.base.toNat % 16 ≠ 0 || vaBad r.base then some 0x08
  else if r.scaleVa ≠ 0 && (!r.sb || r.scaleVa.toNat % 16 ≠ 0) then some 0x10
  else if !dim r.rows then some 0x18
  else if !dim r.cols then some 0x1C
  else if (if r.sb then r.stride ≠ 0 else r.stride % 16 ≠ 0 || decide (r.stride < rowBytes r.et r.cols)) then some 0x20
  else if !etAssigned r.et then some 0x28
  else if field l 0x29 1 ≠ 0 then some 0x29
  else if 1024 ≤ field l 0x2A 2 then some 0x2A
  else if (l.drop 0x2C).take 16 ≠ List.replicate 16 0 then some 0x2C
  else none

/-- The checks of a use of a record at `va` (R292), in their order: its code, if any. -/
def trecFault (va : W64) (l : List Byte) : Option Byte :=
  if va.toNat % 64 ≠ 0 then some cALIGN
  else if !sealOk l then some cSEAL
  else if (trecBreaks l).isSome then some cRANGE
  else none

/-- Element index of (row, col) of an sbmx tensor (R68). -/
def TRec.blockIdx (r : TRec) (row col : Nat) : Nat := 64 * (row / 8 * (r.cols / 8) + col / 8) + 8 * (row % 8) + col % 8

/-- The VA of the byte that holds element (row, col), and whether the element is its high nibble (R291). -/
def TRec.elemVa (r : TRec) (row col : Nat) : W64 × Bool :=
  let bits := etBits r.et
  if r.sb then
    let e := r.blockIdx row col
    if bits = 4 then (r.base + BitVec.ofNat 64 (e / 2), e % 2 = 1) else (r.base + BitVec.ofNat 64 e, false)
  else
    let b := r.base + BitVec.ofNat 64 (row * r.stride)
    if bits = 4 then (b + BitVec.ofNat 64 (col / 2), col % 2 = 1) else (b + BitVec.ofNat 64 (col * (bits / 8)), false)

/-- The VA of the scale byte of block (i, j) of an sbmx tensor (R68). -/
def TRec.scaleAt (r : TRec) (i j : Nat) : W64 := r.scaleVa + BitVec.ofNat 64 (i * (r.cols / 8) + j)

/-- The codes of `n` consecutive columns from `col` that lie in one run of bytes. -/
def runCodes (bits : Nat) (hi : Bool) (l : List Byte) (n : Nat) : List Nat :=
  (List.range n).map fun i => elemAt (fun j => l.getD j 0) bits (i + if hi then 1 else 0)

/-- Bytes of `n` elements of a run. -/
def runBytes (bits : Nat) (hi : Bool) (n : Nat) : Nat := ((n + if hi then 1 else 0) * bits + 7) / 8

/-- The runs of a row of the tensor: (first column, columns) that lie in consecutive bytes. -/
def TRec.runs (r : TRec) : List (Nat × Nat) :=
  if r.sb then (List.range (r.cols / 8)).map fun j => (8 * j, 8) else [(0, r.cols)]

/-- Reading the runs of one row for an operation. -/
def readRuns (k x slot : Nat) (r : TRec) (row : Nat) : List (Nat × Nat) → State → List Nat → OpRd ⊕ (State × List Nat)
  | [], s, acc => .inr (s, acc)
  | (c, n) :: l, s, acc =>
    let (va, hi) := r.elemVa row c
    match opRead s k x slot va (runBytes (etBits r.et) hi n) with
    | .ok s b => readRuns k x slot r row l s (acc ++ runCodes (etBits r.et) hi b n)
    | e => .inl e

end Sys2Proof.Machine
end

