-- ==== Sys2Proof/Machine/Array.lean ====
section
/-! DEFINITION. Machine/Array.lean: the weight arrays: claims and runs (R213-R215), the words that create array commands
(R217-R225), the commands (R218-R224, R82-R84), pairs (R227-R229), and the steps of an array. -/

namespace Sys2Proof.Machine

/-! ## Claims and command orders (R213) -/

/-- The claim of core k of a bench. -/
def Bench.claim? (b : Bench) (k : Nat) : Option Claim := b.claims.find? fun c => c.k = k

/-- Changing the claim of core k. -/
def Bench.modClaim (b : Bench) (k : Nat) (f : Claim → Claim) : Bench :=
  { b with claims := b.claims.map fun c => if c.k = k then f c else c }

/-- The claim of a core of the device. -/
def State.claimOf (s : State) (core : Nat) : Option Claim := (s.getB (benchOf core)).claim? (core % 4)

/-- Changing the claim of a core of the device. -/
def State.modClaim (s : State) (core : Nat) (f : Claim → Claim) : State :=
  s.modB (benchOf core) fun b => b.modClaim (core % 4) f

/-- An operation that the array of bench b has still to start; of a pair operation, its own half. -/
def stillToStart (b : Nat) (o : Op) : Bool :=
  !o.st.finished && match o.body with
    | .pairDot _ _ _ lo hi => (if b % 2 = 0 then lo else hi).any fun m => m.part.isNone
    | _ => o.st ≠ .running

/-- A command order without the operations at its head that have started, finished or left their slot. -/
def liveCmds (s : State) (b : Nat) : List ArrCmd → List ArrCmd
  | [] => []
  | .op x slot :: l =>
    match s.getO x slot with
    | some o => if stillToStart b o then .op x slot :: l else liveCmds s b l
    | none => liveCmds s b l
  | c :: l => c :: l

/-- The commands of core k that wait at its array, in creation order. -/
def waitingCmds (s : State) (b k : Nat) : List ArrCmd := liveCmds s b (sget [] (s.getB b).cmds k)

/-- An operation may start at its array: it is QUEUED, or the other half of a pair has started. -/
def opReady (o : Op) : Bool :=
  o.st = .queued || (o.st = .running && match o.body with | .pairDot .. => true | _ => false)

/-- A command joins the order of the executing core. -/
def pushCmd (s : State) (c : ArrCmd) : State :=
  s.modB (benchOf s.cur) fun b => { b with cmds := sput b.cmds (s.cur % 4) (sget [] b.cmds (s.cur % 4) ++ [c]) }

/-- Removing the head of a core's order. -/
def popCmd (s : State) (b k : Nat) : State :=
  let l := (waitingCmds s b k).drop 1
  s.modB b fun c => { c with cmds := sset [] c.cmds k l }

/-- A command waits at the array: it is QUEUED, or a word's own; a HELD or WAITING operation holds back the later ones
(R232); `wrel` and `wpair.off` need no run. -/
def cmdReady (s : State) : List ArrCmd → Bool
  | .op x slot :: _ => (s.getO x slot).any opReady
  | .wclr _ :: _ => true
  | _ => false

/-- The `wlease` of a claim that has not had its first run (R218). -/
def leasePending (s : State) (c : Claim) : Bool :=
  match (s.getX c.ctx).op? c.op with
  | some o => o.st = .queued && (match o.body with | .wlease _ => true | _ => false)
  | none => false

/-- A claimant that a run would serve: it has a command waiting, or its `wlease` is one. -/
def claimWants (s : State) (b : Nat) (c : Claim) : Bool :=
  servesOrDrains s c.ctx && (leasePending s c || cmdReady s (waitingCmds s b c.k))

/-- The partner of a bound core (R227). -/
def Claim.partner (c : Claim) : Option Nat := if c.bound then c.bind else none

/-- A bound claimant is served with its partner. -/
def pairWants (s : State) (b : Nat) (c : Claim) : Bool :=
  claimWants s b c || match c.partner with
    | some p => (s.claimOf p).any fun d => claimWants s (benchOf p) d
    | none => false

/-- Priority of a claimant with its aging (R213). -/
def Claim.eff (c : Claim) : Nat := min 7 (c.prio + c.aged)

/-- The order of tied claimants from the last holder (R213). -/
def tieRank (last : Option Nat) (k : Nat) : Nat := match last with | some h => (k + 3 - h) % 4 | none => k

/-- The claimant that the next run serves (R213). -/
def nextHolder (s : State) (b : Nat) : Option Claim :=
  let c := s.getB b
  bestOf (fun (p q : Claim) => decide (q.eff < p.eff) || (p.eff = q.eff && decide (tieRank c.lastHolder p.k < tieRank c.lastHolder q.k)))
    (c.claims.filter (pairWants s b))

/-! ## Creating commands (R217) -/

/-- The ENGINE field of an array's operation. -/
def arrayField (b : Nat) : BitVec 16 := BitVec.ofNat 16 b

/-- A created command enters its core's order and names its tiles: outputs are EMPTY (R202, R203). -/
def placeCmd (s : State) (h : W32) (slot : Nat) (ins outs : List Nat) : State :=
  let x := s.core.ctx
  let s := pushCmd s (.op x slot)
  if ins ++ outs = [] then s
  else
    let c := s.core
    let c := { c with busyTiles := c.busyTiles ++ [(h, ins ++ outs)] }
    s.setCore (outs.foldl (fun (c : Core) t => c.setFull t false) c)

/-- A word of format FO that creates an array command. -/
def arrayWord (s : State) (o : FO) (body : (OpBody → Act) → Act) : Act :=
  withAfter s .X o fun n => body fun b =>
    createOp s .X n b fun s h slot => result (placeCmd s h slot [] []) .X o.d 1 2 (h.setWidth 128)

/-- `wlease` (R218). -/
def execWlease (h : Hdr) (o : FO) (s : State) : Host.Outcome State Fault Refusal :=
  runWord (.wlease h o) .X h o.g (some 2) s fun s =>
    withAfter s .X o fun n =>
      createOp s .X n (.wlease (if o.pr = 0 then s.core.opprio.toNat else o.pr.toNat)) fun s h _ =>
        result s .X o.d 1 2 (h.setWidth 128)

/-- `wload` (R218). -/
def execWload (h : Hdr) (o : FO) (s : State) : Host.Outcome State Fault Refusal :=
  runWord (.wload h o) .X h o.g (some 2) s fun s => with64 s .X o.a fun a => arrayWord s o fun k => k (.wload a)

/-- `wdrain` (R223). -/
def execWdrain (h : Hdr) (o : FO) (s : State) : Host.Outcome State Fault Refusal :=
  runWord (.wdrain h o) .X h o.g (some 2) s fun s =>
    if o.m.getLsbD 0 then with32 s .X o.a fun a => arrayWord s o fun k => k (.wdrainColl a)
    else with64 s .X o.a fun a => arrayWord s o fun k => k (.wdrainMem a)

/-- A group of consecutive tiles. -/
def tileGroup (first : BitVec 4) (n : Nat) : List Nat := (List.range n).map fun i => first.toNat + i

/-- The shapes of a group agree with R212. -/
def groupOk (s : State) (ts : List Nat) (et rows cols : Nat) : Bool :=
  ts.all fun t => let sh := s.shape t; sh.usable && sh.et = et && sh.rows = rows && sh.cols = cols

/-- The element type of an output group (R212). -/
def outEt (k : ActKind) (ot : BitVec 2) : Nat :=
  match ot.toNat with | 1 => 9 | 2 => 0xA | _ => if k = .int then 2 else 8

/-- COLS of an output tile (R212). -/
def outCols (ot : BitVec 2) : Nat := if ot = 0 then 64 else 128

/-- Source tiles of a word: the trio freezes while one is EMPTY (R203). -/
def whenFull (s : State) (ts : List Nat) (k : Act) : Act := if ts.all fun t => (s.core.tile t).full then k else .wait s

/-- Destination tiles of a word (R203). -/
def whenAllWritable (s : State) (ts : List Nat) (k : Act) : Act :=
  if ts.any fun t => s.core.tileBusy t || (!(s.core.tile t).full && s.core.tileInFlight t) then .wait s else k

/-- What an array command captures at its issue (R217, R225). -/
def captured (s : State) (o : FW) (batch : Nat) (srcs : List Nat) : MatArgs :=
  let c := s.core
  { ta := o.ta.toNat, tout := o.tout.toNat, batch := batch, rm := s.rowM o.rms, cm := s.colM o.cms, rmode := c.rmode,
    slot := c.satslot, acc := o.acc, et := o.et, ot := o.m.extractLsb' 0 2, plane := o.m.getLsbD 2, gens := c.xgen,
    core := s.cur, blk := srcs.map fun t => (s.shape t).blocked, arrived := none, part := none }

/-- Advancing a generator n times. -/
def genSkip : Nat → W32 → W32
  | 0, x => x
  | n + 1, x => genSkip n (genNext x)

/-- Every X generator advances by the draws that the command makes in its lane (R225). -/
def skipDraws (m : MatArgs) (mlen : Nat) (gens : List W32) : List W32 :=
  if m.rmode ≠ 3 || m.ot = 0 then gens
  else gens.zipIdx.map fun (x, lane) =>
    let rows := ((List.range m.batch).filter fun b => m.rm.getLsbD b && b % 8 = lane / 8).length
    genSkip (rows * (mlen / 8)) x

/-- The operation of which a half of a pair is created now, if its other half has been created (R228). -/
def otherHalf (s : State) (x : Nat) (lower : Bool) (partner ptag seq : Nat) : Option (Nat × Op) :=
  (s.getX x).ops.find? fun e => match e.2.body with
    | .pairDot _ t q lo hi =>
      t = ptag && q = seq && (if lower then hi.any (fun m => m.core = partner) && lo.isNone
        else lo.any (fun m => m.core = partner) && hi.isNone)
    | _ => false

/-- Two halves match (R228). -/
def halvesMatch (t u : Bool) (a b : MatArgs) : Bool := t = u && a.et = b.et && a.batch = b.batch

/-- A half of a pair operation is created on the executing core (R228, R229). -/
def pairHalf (s : State) (o : FW) (trans : Bool) (m : MatArgs) (ins outs : List Nat) : Act :=
  let x := s.core.ctx
  let b := benchOf s.cur
  let lower : Bool := b % 2 = 0
  let n : NewOp := { prio := o.pr.toNat, det := o.dt = 1, after := none }
  let ptag := (o.m.extractLsb' 3 3).toNat
  let body (seq : Nat) : OpBody := .pairDot trans ptag seq (if lower then some m else none) (if lower then none else some m)
  match (s.claimOf s.cur).bind fun c => c.bind.map fun p => (c, p) with
  | none =>
    createOp s .X n (body 0) fun s h slot =>
      result (failOp s x slot cPAIRP) .X o.d 1 2 (h.setWidth 128)
  | some (c, p) =>
    let seq := c.ptag.getD ptag 0
    let s := s.modClaim s.cur fun c => { c with ptag := c.ptag.set ptag (seq + 1) }
    match otherHalf s x lower p ptag seq with
    | none =>
      createOp s .X n (body seq) fun s h slot =>
        let s := placeCmd s h slot ins outs
        let s := s.modO x slot fun q => if lower then q else { q with core := p, attached := true }
        result s .X o.d 1 2 (h.setWidth 128)
    | some (slot, q) =>
      let h := q.handle
      let join (q : Op) : Op :=
        let q := if lower then { q with core := s.cur, attached := o.dt = 0, node := s.core.inst.getD q.node } else q
        match q.body with
        | .pairDot t a e lo hi => { q with body := if lower then .pairDot t a e (some m) hi else .pairDot t a e lo (some m) }
        | _ => q
      let s := s.modO x slot join
      if q.st.finished then
        result (if lower && o.dt ≠ 0 && q.st = .failed && !q.adopted then orphanOp s x slot else s) .X o.d 1 2 (h.setWidth 128)
      else
        let s := placeCmd s h slot ins outs
        let ok := match q.body with
          | .pairDot t _ _ lo hi => (lo.any fun a => halvesMatch t trans a m) || (hi.any fun a => halvesMatch t trans a m)
          | _ => false
        let s := if ok then s
          else failOp (s.modO x slot fun q => { q with engine := arrayField (b ||| 1) }) x slot cTILE
        result s .X o.d 1 2 (h.setWidth 128)

/-- `wdot` and `wtdot` (R219, R220): the checks of shapes, hazards, and creation. -/
def dotAct (o : FW) (trans : Bool) (s : State) : Act :=
  match actKind o.et with
  | none => noResult s
  | some k =>
    let n := redLen k trans
    let ml := outLen k trans
    let ot := o.m.extractLsb' 0 2
    let ins := tileGroup o.ta (inTiles k n)
    let upper : Bool := o.acc = 2 && benchOf s.cur % 2 = 1
    let outs := if upper then [] else tileGroup o.tout (outTiles ml ot)
    let rows := (s.shape o.ta.toNat).rows
    if !groupOk s ins o.et.toNat rows (n / inTiles k n) || !groupOk s outs (outEt k ot) rows (outCols ot) then tileType
    else whenFull s ins <| whenAllWritable s outs <| whenFull s (if o.acc = 0 then [] else outs) <|
      let m := captured s o rows ins
      let s := s.setCore { s.core with xgen := skipDraws m ml s.core.xgen }
      if o.acc = 2 then pairHalf s o trans m ins outs
      else createOp s .X { prio := o.pr.toNat, det := o.dt = 1, after := none } (.dot trans m) fun s h slot =>
        result (placeCmd s h slot ins outs) .X o.d 1 2 (h.setWidth 128)

/-- `wdot` (R220). -/
def execWdot (h : Hdr) (o : FW) (s : State) : Host.Outcome State Fault Refusal :=
  runWord (.wdot h o) .X h o.g (some 2) s (dotAct o false)

/-- `wtdot` (R220). -/
def execWtdot (h : Hdr) (o : FW) (s : State) : Host.Outcome State Fault Refusal :=
  runWord (.wtdot h o) .X h o.g (some 2) s (dotAct o true)

/-- `wouter` (R221): TA names the x group, TO the dy group; both are sources. -/
def execWouter (h : Hdr) (o : FW) (s : State) : Host.Outcome State Fault Refusal :=
  runWord (.wouter h o) .X h o.g (some 2) s fun s =>
    match actKind o.et with
    | none => noResult s
    | some k =>
      let n := outerX k
      let xs := tileGroup o.ta (inTiles k n)
      let dys := tileGroup o.tout (inTiles k 256)
      let rows := (s.shape o.ta.toNat).rows
      if !groupOk s xs o.et.toNat rows (n / inTiles k n) || !groupOk s dys o.et.toNat rows (256 / inTiles k 256) then tileType
      else whenFull s (xs ++ dys) <|
        createOp s .X { prio := o.pr.toNat, det := o.dt = 1, after := none } (.wouter (captured s o rows (xs ++ dys))) fun s h slot =>
          result (placeCmd s h slot (xs ++ dys) []) .X o.d 1 2 (h.setWidth 128)

/-- `wclr` (R224). -/
def execWclr (h : Hdr) (o : FT) (s : State) : Host.Outcome State Fault Refusal :=
  runWord (.wclr h o) .X h o.g none s fun s => noResult (if (s.claimOf s.cur).isSome then pushCmd s (.wclr s.now) else s)

/-- `wrel` (R224). -/
def execWrel (h : Hdr) (o : FT) (s : State) : Host.Outcome State Fault Refusal :=
  runWord (.wrel h o) .X h o.g none s fun s => noResult (if (s.claimOf s.cur).isSome then pushCmd s (.wrel s.now) else s)

/-! ## Pairs (R227, R229) -/

/-- An operation with one half created by a core, of which the other half is awaited. -/
def awaitsHalf (core : Nat) (o : Op) : Bool :=
  !o.st.finished && match o.body with
    | .pairDot _ _ _ (some m) none | .pairDot _ _ _ none (some m) => m.core = core
    | _ => false

/-- A pair operation that no half can join any more: its tag matches nothing. -/
def closePair (cores : List Nat) (o : Op) : Op :=
  match o.body with
  | .pairDot t _ q (some m) none => if cores.contains m.core then { o with body := .pairDot t 8 q (some m) none } else o
  | .pairDot t _ q none (some m) => if cores.contains m.core then { o with body := .pairDot t 8 q none (some m) } else o
  | _ => o

/-- Unbinding a core and its partner (R227): every half still awaiting its partner fails. -/
def unbindPair (s : State) (core : Nat) : State :=
  match s.claimOf core with
  | none => s
  | some c =>
    let cores := core :: c.partner.toList
    let s := cores.foldl (fun s k =>
      (s.modClaim k fun c => { c with bind := none, bound := false }).modC k fun c => { c with pairBound := false, pairPartner := 0x7F }) s
    let x := c.ctx
    let s := ((s.getX x).ops.filter fun e => cores.any fun k => awaitsHalf k e.2).foldl (fun s e => failOp s x e.1 cPAIRP) s
    s.modX x fun c => { c with ops := c.ops.map fun e => (e.1, closePair cores e.2) }

/-- `wpair` (R227). -/
def execWpair (h : Hdr) (o : FR) (s : State) : Host.Outcome State Fault Refusal :=
  runWord (.wpair h o) .X h o.g (some 2) s fun s =>
    let me := s.cur
    if o.m.getLsbD 0 then
      match (s.claimOf me).bind fun c => c.bind with
      | none => result s .X o.d 1 2 0
      | some _ => result (pushCmd s (.pairOff s.now)) .X o.d 1 2 1
    else with32 s .X o.a fun a =>
      let p := a.toNat
      match s.claimOf me with
      | none => result s .X o.d 1 2 0
      | some c =>
        if 384 ≤ p || benchOf p ≠ benchOf me ^^^ 1 || c.bind.isSome then result s .X o.d 1 2 0
        else
          let s := s.modX c.ctx fun x => { x with ops := x.ops.map fun e => (e.1, closePair [me] e.2) }
          let meets := (s.claimOf p).any fun d => d.bind = some me && !d.bound && d.ctx = c.ctx
          let s := s.modClaim me fun c => { c with bind := some p, bound := meets, ptag := List.replicate 8 0 }
          let s := if meets then
              ((s.modClaim p fun d => { d with bound := true }).modC p fun d => { d with pairBound := true, pairPartner := BitVec.ofNat 7 (benchOf me) }).modC me
                fun d => { d with pairBound := true, pairPartner := BitVec.ofNat 7 (benchOf p) }
            else s
          result s .X o.d 1 2 1

/-! ## The end of a claim (R215, R224) -/

/-- The claim of a core ends: the run passes, the pair is unbound, its commands that have not started and its `wlease`
fail with a code; with the last claim the accumulators are cleared (R215, R218, R224, R233). -/
def endClaim (s : State) (core : Nat) (code : Byte) : State :=
  match s.claimOf core with
  | none => s
  | some c =>
    let b := benchOf core
    let s := if c.bind.isSome then unbindPair s core else s
    let s := match (s.getX c.ctx).op? c.op with
      | some o => if o.st.finished then s else failOp s c.ctx (hSlot c.op) code
      | none => s
    s.modB b fun d =>
      let claims := d.claims.filter fun e => e.k ≠ c.k
      let d := { d with claims := claims,
                        run := if d.run.any (·.k = c.k) then none else d.run,
                        lastHolder := if d.run.any (·.k = c.k) then some c.k else d.lastHolder }
      if claims = [] then { d with st := .idle, acc := [] } else d

/-- Zeroing the cells (R214, R233). -/
def Bench.clearCells (b : Bench) : Bench := { b with cells := [], scales := [], tag := none }

/-- The state of a held array by its tag. -/
def Bench.heldSt (b : Bench) : ArrSt := if b.tag.isSome then .loaded else .leased

/-- A `wlease` reaches its array (R215, R218): a claimant's completes at once. -/
def startWlease (s : State) (x slot : Nat) (o : Op) (prio : Nat) : State :=
  let b := benchOf o.core
  match s.claimOf o.core with
  | some c => if c.op = o.handle then s else completeOp (setOpSt s x slot .running) x slot
  | none =>
    let claim : Claim := { k := o.core % 4, ctx := x, prio := prio, op := o.handle, aged := 0, since := none, lastLoad := none,
                           bind := none, bound := false, ptag := List.replicate 8 0, savedAcc := none }
    s.modB b fun d =>
      let d := { d with claims := d.claims ++ [claim] }
      if d.st ≠ .idle then d
      else if d.tag.any (·.ctx ≠ x) then { d.clearCells with st := ArrSt.leased }
      else { d with st := d.heldSt }

/-! ## Weights and activations (R211, R212, R222) -/

/-- Rows and columns of W for a weight type (R211). -/
def weightExtent (et : Nat) : Option (Nat × Nat) :=
  match et with
  | 0x0B | 0x0C | 0x10 | 0x11 | 0x00 => some (256, 256)
  | 0x0D | 0x12 => some (512, 256)
  | 0x09 | 0x0A => some (256, 128)
  | _ => none

/-- A weight type's row of R211 lists the activation ET. -/
def weightFits (wt : Nat) (et : BitVec 5) : Bool :=
  match actKind et with
  | some .fp8 => wt = 0x0B || wt = 0x0C || wt = 0x10 || wt = 0x11
  | some .fp4 => wt = 0x0D || wt = 0x12
  | some .b16 => wt = et.toNat
  | some .int => wt = 0
  | none => false

/-- The code of W[i][j]. -/
def Bench.wcode (b : Bench) (i j : Nat) : Nat := (sget 0 b.cells (256 * i + j)).toNat

/-- The scale byte of weight block (i, j); none for a type without block scales. -/
def Bench.wscale (b : Bench) (i j : Nat) : Option Byte :=
  if (etTy b.wtype.toNat).2 then some (sget 0 b.scales (32 * i + j)) else none

/-- The shape of tile i of a captured source group. -/
def MatArgs.shape (m : MatArgs) (i cols : Nat) : TShape :=
  { et := m.et.toNat, rows := m.batch, cols := cols, blocked := m.blk.getD i false }

/-- Position p of batch row r of a source group from tile `first`, whose shapes are captured from index `at_` on: its
code and its block scale. -/
def actAt (c : Core) (m : MatArgs) (first at_ cols r p : Nat) : Nat × Option Byte :=
  let i := p / cols
  let sh := m.shape (at_ + i) cols
  let t := c.tile (first + i)
  (t.elem sh r (p % cols), if sh.sb then some (t.scale sh r (p % cols)) else none)

/-- The exact sum of values. -/
def sumExact : List Num → Num
  | [] => .zero
  | x :: l => l.foldl (fun a y => a.add false y) x

/-- The exponent a scale byte adds. -/
def scaleExp : Option Byte → Int | some e => (e.toNat : Int) - 127 | none => 0

/-- The f32 partial of a group: its exact sum under both block scales, rounded once (R82). -/
def groupPartial (sum : Num) (sw sa : Option Byte) : W32 :=
  if sw = some 0xFF || sa = some 0xFF then f32NaN else toF32 0 0 (sum.scale2 (scaleExp sw + scaleExp sa))

/-- The tree over 32 group partials from group g0 on (R82); groups beyond the list are +0. -/
def groupTree (parts : List W32) (g0 : Nat) : W32 := tree addR 0 ((List.range 32).map fun g => parts.getD (g0 + g) 0)

/-- The weight index of output o and position p (R220). -/
def weightIdx (trans : Bool) (o p : Nat) : Nat × Nat := if trans then (p, o) else (o, p)

/-- The dot product of output o for one batch row (R82, R83, R220). -/
def dotValue (b : Bench) (c : Core) (m : MatArgs) (trans : Bool) (n cols row o : Nat) : W32 :=
  let on (p : Nat) : Bool := m.cm.getLsbD (p % 256)
  let wc (p : Nat) : Nat := let ij := weightIdx trans o p; b.wcode ij.1 ij.2
  let wty := (etTy b.wtype.toNat).1
  let aty := (etTy m.et.toNat).1
  match aty with
  | .int sg w =>
    let v : Int := ((List.range n).map fun p =>
      if on p then intOf true 8 (wc p) * intOf sg w (actAt c m m.ta 0 cols row p).1 else 0).sum
    BitVec.ofInt 32 v
  | _ =>
    let parts := (List.range (n / 8)).map fun g =>
      let prods := (List.range 8).map fun i =>
        let p := 8 * g + i
        if on p then (wty.value (wc p)).mul (aty.value (actAt c m m.ta 0 cols row p).1) else .zero
      let blk := if trans then b.wscale g (o / 8) else b.wscale (o / 8) g
      groupPartial (sumExact prods) blk (actAt c m m.ta 0 cols row (8 * g)).2
    if n = 512 then addR (groupTree parts 0) (groupTree parts 32) else groupTree parts 0

/-- The rows of a `wdot` or `wtdot`, as the tree or the exact sums give them (R220). -/
def dotRows (b : Bench) (c : Core) (m : MatArgs) (trans : Bool) : List (Nat × List W32) :=
  match actKind m.et with
  | none => []
  | some k =>
    let n := redLen k trans
    ((List.range m.batch).filter fun r => m.rm.getLsbD r).map fun r =>
      (r, (List.range (outLen k trans)).map fun o => dotValue b c m trans n (n / inTiles k n) r o)

/-- A saturating i32 sum and whether it saturated (R83). -/
def satSum (a b : W32) : W32 × Bool :=
  let v := a.toInt + b.toInt
  if v < -2 ^ 31 then (0x80000000, true) else if 2 ^ 31 ≤ v then (0x7FFFFFFF, true) else (BitVec.ofInt 32 v, false)

/-- Two partials of a pair, the lower first (R228). -/
def pairRows (int : Bool) (a b : List (Nat × List W32)) : List (Nat × List W32 × Nat) :=
  a.map fun (r, l) =>
    let u := match b.find? fun e => e.1 = r with | some e => e.2 | none => []
    let sums := (l.zipIdx.map fun (x, i) => if int then satSum x (u.getD i 0) else (addR x (u.getD i 0), false))
    (r, sums.map (·.1), (sums.filter (·.2)).length)

/-- The codes of one output row, with the old contents accumulated and the result narrowed (R220): the codes, the
generators after its draws, saturation and NaN events. -/
def outRow (m : MatArgs) (int : Bool) (r : Nat) (old : Nat → W32) :
    List (Nat × W32) → List W32 → List (Nat × W32) × List W32 × Nat × Nat
  | [], g => ([], g, 0, 0)
  | (o, v) :: l, g =>
    if m.ot = 0 then
      let (x, sat) := if m.acc = 0 then (v, false) else if int then satSum (old o) v else (addR (old o) v, false)
      let (es, g, a, b) := outRow m int r old l g
      ((o, x) :: es, g, a + (if sat then 1 else 0), b)
    else
      let (d, g) := drawIf m.rmode g (r % 8 * 8 + o % 8)
      let n := narrow (.flt (if m.ot = 1 then .bf16 else .f16)) m.rmode d (f32v v)
      let (es, g, a, b) := outRow m int r old l g
      ((o, BitVec.ofNat 32 n.code) :: es, g, a + (if n.sat then 1 else 0), b + (if n.nan then 1 else 0))

/-- Committing the rows of a completed `wdot` or `wtdot` (R220, R80): the output tiles are written, and each row updates
the saturation slot once; whether a crossing halts. -/
def commitRows (x slot : Nat) (m : MatArgs) (k : ActKind) : List (Nat × List W32 × Nat) → List W32 → State → State × Bool
  | [], _, s => (s, false)
  | (r, l, extra) :: rows, g, s =>
    let cols := outCols m.ot
    let sh : TShape := { et := outEt k m.ot, rows := m.batch, cols := cols, blocked := false }
    let old (o : Nat) : W32 := BitVec.ofNat 32 (((s.getC m.core).tile (m.tout + o / cols)).elem sh r (o % cols))
    let (es, g, sat, nan) := outRow m (k = .int) r old (l.zipIdx.map fun (v, o) => (o, v)) g
    let tiles := List.range (l.length / cols)
    let s := s.modC m.core fun c => tiles.foldl (fun (c : Core) t =>
      c.applyTarget (.tile (m.tout + t) sh.bits (sh.padded ((es.filter fun e => e.1 / cols = t).map fun e => (sh.idx r (e.1 % cols), e.2))) []
        sh.elemBytes 0)) c
    let (s, h) := opSat s x slot m.slot.toNat (sat + extra) nan m.core
    let (s, h') := commitRows x slot m k rows g s
    (s, h || h')

/-- The accumulator of cell (i, j) after a `wouter` (R221, R84). -/
def outerCell (c : Core) (m : MatArgs) (ty : NTy) (xs nx ndy : Nat) (i j : Nat) (acc : W32) : W32 :=
  ((List.range m.batch).filter fun r => m.rm.getLsbD r).foldl (fun a r =>
    let (dy, sd) := actAt c m m.tout xs ndy r i
    let (x, sx) := actAt c m m.ta 0 nx r j
    let p := ((ty.value dy).mul (ty.value x)).scale2 (scaleExp sd + scaleExp sx)
    if sd = some 0xFF || sx = some 0xFF then f32NaN else toF32 0 0 ((f32v a).add false p)) acc

/-- The accumulators after a `wouter` (R221). -/
def outerAcc (b : Bench) (c : Core) (m : MatArgs) : Sparse W32 :=
  match actKind m.et with
  | none => b.acc
  | some k =>
    let n := outerX k
    let xs := inTiles k n
    let cw := if k = .b16 then 128 else 256
    let ty := (etTy m.et.toNat).1
    (List.range 256).foldl (fun acc i => (List.range cw).foldl (fun acc j =>
      if m.cm.getLsbD j then
        let a := if m.acc = 0 then 0 else sget 0 acc (256 * i + j)
        sset 0 acc (256 * i + j) (outerCell c m ty xs (n / xs) (256 / inTiles k 256) i j a)
      else acc) acc) b.acc

/-! ## Starting commands (R213, R215, R226) -/

/-- A command counts in its run, whose count stops at 64 (R216). -/
def Run.count (r : Run) : Run := { r with cmds := min 64 (r.cmds + 1) }

/-- A command starts: it leaves the order, counts in the run, and occupies the array until `freeAt`. -/
def beginCmd (s : State) (b : Nat) (a : Active) (occ : Nat) : State :=
  let s := popCmd s b a.k
  let s := match a.cmd with
    | .op x slot => if (s.getO x slot).any (fun (o : Op) => o.st = OpSt.running) then s else setOpSt s x slot .running
    | _ => s
  s.modB b fun d => { d with active := d.active ++ [a], freeAt := s.now + occ, run := d.run.map Run.count }

/-- A command that fails when it reaches the array (R217); it counts in the run. -/
def refuseCmd (s : State) (b k x slot : Nat) (code : Byte) (addr : W64 := 0) : State :=
  let s := popCmd s b k
  let s := failOp (s.modO x slot fun o => { o with engine := arrayField b }) x slot code 0 addr
  s.modB b fun d => { d with freeAt := s.now + 1, run := d.run.map Run.count }

/-- The tag a record gives in a context (R214). -/
def recTag (x : Nat) (r : TRec) : Tag := { ctx := x, id := r.id, ver := r.version }

/-- A load of the record at `a` starts, for `wload` or the reload (R214, R218): a record that cannot be read waits or fails. -/
def startLoad (s : State) (b k x slot : Nat) (a : W64) (cmd : ArrCmd) : State :=
  let core := 4 * b + k
  let isOp : Bool := cmd ≠ .reload
  let fail (s : State) (code : Byte) (addr : W64) : State :=
    let s := dropOpEntry s x slot
    let s := s.modB b fun d => { d with tag := none, st := if d.st = .loaded then ArrSt.leased else d.st }
    if isOp then refuseCmd s b k x slot code addr
    else s.modB b fun d => { d with run := d.run.map fun r => { r with reload := some code, pending := false } }
  if a.toNat % 64 ≠ 0 then fail s cALIGN a
  else match opRead s core x slot a 64 with
    | .wait s => s
    | .bad c va => fail s c va
    | .ok s l =>
      match trecFault a l with
      | some c => fail s c a
      | none =>
        let r := trecOf l
        match weightExtent r.et with
        | none => fail s cTILE a
        | some (rows, cols) =>
          if rows < r.rows || cols < r.cols then fail s cRANGE a
          else if (s.getB b).tag = some (recTag x r) then
            (if isOp then beginCmd s b { cmd := cmd, k := k, due := some (s.now + 4), row := 512, record := l } 1
             else s.modB b fun d =>
               let d : Bench := { d with run := d.run.map fun (r : Run) => { r with pending := false } }
               d.modClaim k fun c => { c with lastLoad := some (a, recTag x r) })
          else
            let s := s.modB b fun d => { d with tag := none, st := if d.st = .loaded then ArrSt.leased else d.st }
            let act : Active := { cmd := cmd, k := k, due := some (s.now + rows), row := 0, record := l }
            if isOp then beginCmd s b act rows
            else s.modB b fun d => { d with active := d.active ++ [act], freeAt := s.now + rows,
                                            run := d.run.map fun r => { r with pending := false } }

/-- Reading the array's storage or a source tile of a command meets a data error (R5, R245; DESIGN CHOICE, assumption 68). -/
def MatArgs.sramErr (s : State) (b : Nat) (m : MatArgs) (outer : Bool) : Bool :=
  let srcs : List Nat := match actKind m.et with
    | none => []
    | some k => if outer then tileGroup (BitVec.ofNat 4 m.ta) (inTiles k (outerX k)) ++ tileGroup (BitVec.ofNat 4 m.tout) (inTiles k 256)
                else (List.range m.blk.length).map (m.ta + ·)
  s.cellErrs.contains b || srcs.any fun t => (sget [] s.tileErrs m.core).contains t

/-- The collective that a drain feeds (R223): its slot, or the failure. -/
def drainTarget (s : State) (x : Nat) (h : W32) : Byte ⊕ (Nat × Op) :=
  match (s.getX x).op? h with
  | none => .inl cSTALE
  | some o =>
    match o.body with
    | .engine op .. =>
      if (op = 0x58 || op = 0x5A) && !o.st.finished && (o.got = [] || (o.got.getD 1 0).getLsbD 0) then .inr (hSlot h, o)
      else .inl cRANGE
    | _ => .inl cRANGE

/-- Inputs of a collective that hold drained rows are keyed from here on. -/
def drainKey : Nat := 1000000

/-- A command of an array starts (R217-R224); a dot takes its weights and a `wouter` acts on the accumulators now. -/
def startCmd (s : State) (b k x slot : Nat) (o : Op) : State :=
  let d := s.getB b
  let core := 4 * b + k
  match d.run.bind (·.reload) with
  | some code => refuseCmd (s.modB b fun d => { d with run := d.run.map fun r => { r with reload := none } }) b k x slot code
  | none =>
    match o.body with
    | .wload a => startLoad s b k x slot a (.op x slot)
    | .dot tr m =>
      if d.tag.isNone || !weightFits d.wtype.toNat m.et then refuseCmd s b k x slot cTILE
      else if m.sramErr s b false then refuseCmd s b k x slot cSRAM
      else
        let s := s.modO x slot fun o => { o with body := .dot tr { m with part := some (dotRows d (s.getC core) m tr) } }
        beginCmd s b { cmd := .op x slot, k := k, due := some (s.now + m.batch + 36), row := 0, record := [] } m.batch
    | .pairDot tr t q lo hi =>
      let lower : Bool := b % 2 = 0
      match lo, hi with
      | some l, some h =>
        let m := if lower then l else h
        if d.tag.isNone || !weightFits d.wtype.toNat m.et then refuseCmd s b k x slot cTILE
        else if m.sramErr s b false then refuseCmd s b k x slot cSRAM
        else
          let m := { m with part := some (dotRows d (s.getC core) m tr) }
          let s := s.modO x slot fun o => { o with body := .pairDot tr t q (if lower then some m else lo) (if lower then hi else some m) }
          let due := if (if lower then h else l).part.isSome then some (s.now + m.batch + 36) else none
          beginCmd s b { cmd := .op x slot, k := k, due := due, row := 0, record := [] } m.batch
      | _, _ => s
    | .wouter m =>
      if m.sramErr s b true then refuseCmd s b k x slot cSRAM else
      let acc := outerAcc d (s.getC core) m
      let s := beginCmd s b { cmd := .op x slot, k := k, due := some (s.now + m.batch + 12), row := 0, record := [] } m.batch
      s.modB b fun d => { d with acc := acc, st := .accumulating }
    | .wdrainMem a =>
      if s.cellErrs.contains b then refuseCmd s b k x slot cSRAM
      else if a.toNat % 128 ≠ 0 then refuseCmd s b k x slot cALIGN a
      else
        (beginCmd s b { cmd := .op x slot, k := k, due := none, row := 0, record := [] } 1).modB b fun d => { d with st := .draining }
    | .wdrainColl h =>
      match drainTarget s x h with
      | .inl c => refuseCmd s b k x slot c
      | .inr _ =>
        if s.cellErrs.contains b then refuseCmd s b k x slot cSRAM else
        (beginCmd s b { cmd := .op x slot, k := k, due := none, row := 0, record := [] } 1).modB b fun d => { d with st := .draining }
    | _ => s

/-- A half of a pair at the head of its array's order notes when it arrived there (R229). -/
def noteArrival (s : State) (b x slot : Nat) (o : Op) : State :=
  let mark (m : MatArgs) : MatArgs := if m.arrived.isSome then m else { m with arrived := some s.now }
  match o.body with
  | .pairDot t a q lo hi =>
    s.modO x slot fun o => { o with body := .pairDot t a q (if b % 2 = 0 then lo.map mark else lo) (if b % 2 = 0 then hi else hi.map mark) }
  | _ => s

/-- A load or a drain is under way, so that no command starts (R226). -/
def Bench.occupied (b : Bench) (now : Nat) : Bool :=
  decide (now < b.freeAt) || b.run.any (·.pending) || b.active.any fun a => a.record ≠ [] && decide (a.row < 512)

/-- Drains in progress. -/
def drainOf (s : State) (b : Nat) : Option (Active × Nat × Nat × Op) :=
  if (s.getB b).st ≠ .draining then none
  else (s.getB b).active.findSome? fun a => match a.cmd with
    | .op x slot => (s.getO x slot).bind fun o => match o.body with
      | .wdrainMem _ | .wdrainColl _ => some (a, x, slot, o)
      | _ => none
    | _ => none

/-- The step of a core's order that needs no run (R217, R224): the commands of a core without a claim, `wrel` and
`wpair.off` once the core's earlier commands have completed. -/
def looseCmd (s : State) (b k : Nat) : State :=
  let d := s.getB b
  let idle := !d.active.any fun a => a.k = k
  match waitingCmds s b k, d.claim? k with
  | .op x slot :: _, none =>
    if (s.getO x slot).any fun o => opReady o && decide (o.since + 2 ≤ s.now) then refuseCmd s b k x slot cDENIED else s
  | .op _ _ :: _, some _ => s
  | .wclr _ :: _, none | .wrel _ :: _, none | .pairOff _ :: _, none => popCmd s b k
  | .wrel _ :: _, some _ => if idle then endClaim (popCmd s b k) (4 * b + k) cDENIED else s
  | .pairOff _ :: _, some _ => if idle then unbindPair (popCmd s b k) (4 * b + k) else s
  | _, _ => s

/-- A pseudo slot for what reads without an operation: the reload of a bench's array. -/
def reloadSlot (b : Nat) : Nat := 4096 + b

/-- An array takes the next step of its command orders (R213, R217, R226). -/
def execArrayCommandStart (bench : Nat) (s : State) : Host.Outcome State Fault Refusal :=
  .next (
    let loose := (List.range 4).foldl (fun s k => looseCmd s bench k) s
    if loose ≠ s then loose
    else
      let d := s.getB bench
      match d.run with
      | none => s
      | some r =>
        if r.pending then
          if d.active ≠ [] then s
          else match (d.claim? r.k).bind fun c => c.lastLoad.map fun l => (c.ctx, l.1) with
            | some (x, a) => startLoad s bench r.k x (reloadSlot bench) a .reload
            | none => s
        else if d.occupied s.now || (drainOf s bench).isSome then s
        else match waitingCmds s bench r.k with
          | .op x slot :: _ =>
            (match s.getO x slot with
             | some o =>
               if !opReady o || s.now < o.since + 2 || !servesOrDrains s x then s
               else startCmd (noteArrival s bench x slot o) bench r.k x slot o
             | none => s)
          | .wclr t :: _ =>
            if s.now < t + 2 then s
            else
              (popCmd s bench r.k).modB bench fun d =>
                { d with acc := [], st := if d.st = .accumulating then d.heldSt else d.st, freeAt := s.now + 1,
                         run := d.run.map Run.count }
          | _ => s)

/-! ## Completing commands -/

/-- Reading the rows of W from row i on into the cells (R218): the state after them, or the row that waits or fails. -/
def loadRows (core x slot b : Nat) (r : TRec) (cols : Nat) : Nat → Nat → State → State × Option (Nat × Option (Byte × W64))
  | 0, _, s => (s, none)
  | n + 1, i, s =>
    let blk := if r.sb && i % 8 = 7 then (List.range (cols / 8)) else []
    let got := if r.rows ≤ i then .inr (s, []) else readRuns core x slot r i r.runs s []
    match got with
    | .inl (.wait s') => (s', some (i, none))
    | .inl (.bad c va) => (s, some (i, some (c, va)))
    | .inl (.ok s' _) => (s', some (i, none))
    | .inr (s', codes) =>
      let sc := if blk = [] || decide (r.rows ≤ i) then .ok s' []
        else opRead s' core x slot (r.scaleAt (i / 8) 0) (r.cols / 8)
      match sc with
      | .wait s' => (s', some (i, none))
      | .bad c va => (s, some (i, some (c, va)))
      | .ok s' l =>
        let s' := s'.modB b fun d =>
          { d with cells := (List.range cols).foldl (fun m j => sset 0 m (256 * i + j) (BitVec.ofNat 16 (codes.getD j 0))) d.cells,
                   scales := blk.foldl (fun m j => sset 0 m (32 * (i / 8) + j) (l.getD j 0)) d.scales }
        loadRows core x slot b r cols n (i + 1) s'

/-- Removing a command that has completed or ended. -/
def dropActive (s : State) (b : Nat) (a : Active) : State := s.modB b fun d => { d with active := d.active.filter fun e => e ≠ a }

/-- The tag becomes null (R215). -/
def nullTag (s : State) (b : Nat) : State :=
  s.modB b fun d => { d with tag := none, st := if d.st = .loaded then ArrSt.leased else d.st }

/-- A load whose rows are in, or are being read (R218). -/
def finishLoad (s : State) (b : Nat) (a : Active) (x slot : Nat) : State :=
  let r := trecOf a.record
  let core := 4 * b + a.k
  let isOp : Bool := a.cmd ≠ .reload
  let t := recTag x r
  let va := match (s.getB b).claim? a.k with | some c => (match c.lastLoad with | some l => l.1 | none => 0) | none => 0
  let va := match (s.getO x slot).map (·.body) with | some (.wload v) => v | _ => va
  if isOp && a.row = 512 then
    completeOp ((dropActive s b a).modB b fun d => d.modClaim a.k fun c => { c with lastLoad := some (va, t) }) x slot
  else match weightExtent r.et with
    | none => s
    | some (rows, cols) =>
      match loadRows core x slot b r cols (rows - a.row) a.row s with
      | (s', some (i, none)) =>
        s'.modB b fun d => { d with active := d.active.map fun e => if e = a then { e with row := i } else e }
      | (s', some (i, some (c, va))) =>
        let s' := dropOpEntry (nullTag (dropActive s' b a) b) x slot
        if isOp then failOp s' x slot c (BitVec.ofNat 32 i) va
        else s'.modB b fun d => { d with run := d.run.map fun r => { r with reload := some c } }
      | (s', none) =>
        let s' := (dropActive s' b a).modB b fun d =>
          ({ d with tag := some t, wtype := BitVec.ofNat 5 r.et, st := if d.st = ArrSt.leased then ArrSt.loaded else d.st }).modClaim a.k
            fun c => { c with lastLoad := some (va, t) }
        if isOp then completeOp s' x slot else s'

/-- A dot or pair operation whose partials are present commits (R220, R228, R80). -/
def finishDot (s : State) (x slot : Nat) (m : MatArgs) (rows : List (Nat × List W32 × Nat)) : State :=
  match actKind m.et with
  | none => s
  | some k =>
    let (s, halted) := commitRows x slot m k rows m.gens s
    if halted then failOp s x slot cSAT else completeOp s x slot

/-- A command of the array is due (R226). -/
def finishCmd (s : State) (b : Nat) (a : Active) : State :=
  match a.cmd with
  | .reload => match (s.getB b).claim? a.k with
    | some c => finishLoad s b a c.ctx (reloadSlot b)
    | none => nullTag (dropActive s b a) b
  | .op x slot =>
    match s.getO x slot with
    | none => dropActive s b a
    | some o =>
      if o.st ≠ .running then
        let s := dropActive s b a
        (match o.body with
         | .wdrainMem _ | .wdrainColl _ => s.modB b fun d => { d with st := .accumulating }
         | _ => s)
      else match o.body with
        | .wload _ => finishLoad s b a x slot
        | .dot _ m => finishDot (dropActive s b a) x slot m ((m.part.getD []).map fun e => (e.1, e.2, 0))
        | .pairDot _ _ _ (some l) (some h) =>
          (match l.part, h.part with
           | some u, some v => finishDot (dropActive s b a) x slot l (pairRows (actKind l.et = some .int) u v)
           | _, _ => s)
        | .wouter _ => completeOp (dropActive s b a) x slot
        | _ => s
  | _ => dropActive s b a

/-- A command that completes now: it is due, or its operation has ended without it. -/
def cmdDue (s : State) (a : Active) : Bool :=
  (a.due.any fun t => decide (t ≤ s.now)) || match a.cmd with
    | .op x slot => (s.getO x slot).any fun o => o.st ≠ .running
    | _ => false

/-- An array completes a command (R217, R220-R222, R226). -/
def execArrayCommandComplete (bench : Nat) (s : State) : Host.Outcome State Fault Refusal :=
  .next (match (s.getB bench).active.find? (cmdDue s) with
    | some a => finishCmd s bench a
    | none => s)

/-- The next row of a drain is accepted, or the drain fails or waits (R215, R223). -/
def execDrainRowAccepted (bench : Nat) (s : State) : Host.Outcome State Fault Refusal :=
  .next (match drainOf s bench with
    | none => s
    | some (a, x, slot, o) =>
      let core := 4 * bench + a.k
      let i := a.row
      let row := ((List.range 256).map fun j => sget 0 (s.getB bench).acc (256 * i + j)).flatMap fun (v : W32) => leBytes 4 v.toNat
      let fail (s : State) (code : Byte) (va : W64) : State :=
        failOp ((dropActive s bench a).modB bench fun d => { d with st := .accumulating }) x slot code (BitVec.ofNat 32 i) va
      let accept (s : State) : State :=
        let acts (l : List Active) : List Active := l.map fun e => if e = a then { e with row := i + 1 } else e
        let s := s.modB bench fun d => { d with acc := skeep d.acc (fun key => key / 256 ≠ i), freeAt := s.now + 1, active := acts d.active }
        if i < 255 then s
        else completeOp ((dropActive s bench { a with row := i + 1 }).modB bench fun d => { d with st := d.heldSt }) x slot
      if s.now < (s.getB bench).freeAt || o.st ≠ .running then s
      else match o.body with
        | .wdrainMem v =>
          (match opWrite s core x slot (v + BitVec.ofNat 64 (1024 * i)) row with
           | .ok s _ => accept s
           | .wait s => s
           | .bad c va => fail s c va)
        | .wdrainColl h =>
          (match drainTarget s x h with
           | .inl _ => fail s cRANGE 0
           | .inr (t, p) =>
             if p.st = .running && p.got ≠ [] then accept (s.modO x t fun p => { p with inputs := sput p.inputs (drainKey + i) row }) else s)
        | _ => s)

/-! ## Runs (R213, R214, R227) -/

/-- A run starts for a claimant (R214, R215): cells of another context are zeroed, its `wlease` completes, saved
accumulators return (R231), and its last load is reloaded where the tag differs. -/
def startRun (s : State) (b : Nat) (c : Claim) : State :=
  let alien := (s.getB b).tag.any (·.ctx ≠ c.ctx)
  let reload := match c.lastLoad with
    | some (_, t) => alien || (s.getB b).tag ≠ some t
    | none => false
  let s := s.modB b fun d =>
    let d : Bench := if alien then { d.clearCells with st := ArrSt.leased } else d
    let d := match c.savedAcc with | some a => { d with acc := a, st := .accumulating } | none => d
    ({ d with run := some { k := c.k, start := s.now, cmds := 0, pending := reload, reload := none, ext := false }, lastHolder := some c.k }).modClaim c.k
      fun c => { c with aged := 0, since := none, savedAcc := none }
  if leasePending s c then completeOp (setOpSt s c.ctx (hSlot c.op) .running) c.ctx (hSlot c.op) else s

/-- A run may start on an array (R213). -/
def runFree (s : State) (b : Nat) : Bool :=
  let d := s.getB b
  d.run.isNone && d.st ≠ .accumulating && d.st ≠ .draining && d.st ≠ .idle && !d.occupied s.now

/-- A `wlease` of a core of bench b is still to join the claims in this clock: claims that reach an IDLE array together are ordered as
waiting ones are (R213). -/
def claimsToCome (s : State) (b : Nat) : Bool :=
  s.ctxs.any fun e => serves s e.1 && e.2.ops.any fun f =>
    f.2.st = .queued && benchOf f.2.core = b && (match f.2.body with | .wlease _ => true | _ => false) && (s.claimOf f.2.core).isNone

/-- An array starts a run for the next holder (R213, R214); a bound core's run starts together with its partner's (R227). -/
def execArrayRunStart (bench : Nat) (s : State) : Host.Outcome State Fault Refusal :=
  .next (
    if !runFree s bench || claimsToCome s bench then s
    else match nextHolder s bench with
      | none => s
      | some c =>
        match c.partner with
        | none => startRun s bench c
        | some p =>
          if !runFree s (benchOf p) then s
          else match s.claimOf p with
            | some d => startRun (startRun s bench c) (benchOf p) d
            | none => s)

/-- A run has reached a limit of R213. -/
def atLimit (s : State) (r : Run) : Bool := decide (64 ≤ r.cmds) || decide (r.start + 8192 ≤ s.now)

/-- A run may pass: at a command boundary, neither ACCUMULATING nor DRAINING, to another claimant that waits, because it
has reached a limit or its holder has nothing waiting (R213). -/
def mayPass (s : State) (b : Nat) : Bool :=
  let d := s.getB b
  match d.run with
  | none => false
  | some r =>
    !d.occupied s.now && d.st ≠ .accumulating && d.st ≠ .draining &&
    (d.claims.any fun c => c.k ≠ r.k && pairWants s b c) &&
    (atLimit s r || !(d.claim? r.k).any (claimWants s b))

/-- A run ends; a holder that still has a command waiting waits from now on. -/
def passRun (s : State) (b : Nat) : State :=
  match (s.getB b).run with
  | none => s
  | some r =>
    s.modB b fun d => ({ d with run := none, lastHolder := some r.k }).modClaim r.k
      fun c => { c with since := if claimWants s b c then some s.now else none }

/-- The limits of a run (R213): it passes, is renewed, or is extended. A run without a waiter that reaches its limits while the array is
ACCUMULATING or DRAINING is renewed, and AOVER does not count it (DESIGN CHOICE, assumption 67). -/
def execArrayRunLimit (bench : Nat) (s : State) : Host.Outcome State Fault Refusal :=
  .next (
    let d := s.getB bench
    match d.run with
    | none => s
    | some r =>
      let others := d.claims.any fun c => c.k ≠ r.k && pairWants s bench c
      let partner := (d.claim? r.k).bind fun c => c.partner
      if mayPass s bench then
        match partner with
        | none => passRun s bench
        | some p => if mayPass s (benchOf p) || (s.getB (benchOf p)).run.isNone then passRun (passRun s bench) (benchOf p) else s
      else if atLimit s r && !others then s.modB bench fun d => { d with run := some { r with cmds := 0, start := s.now, ext := false } }
      else if atLimit s r && (d.st = .accumulating || d.st = .draining) && !r.ext then
        s.modB bench fun d => { d with overs := d.overs + 1, run := some { r with ext := true } }
      else s)

/-- A half of a pair has been awaited for PAIRWAIT clocks at the head of its array's order (R229). -/
def execPairTimeout (bench : Nat) (s : State) : Host.Outcome State Fault Refusal :=
  .next (match (s.getB bench).run with
    | none => s
    | some r =>
      match waitingCmds s bench r.k with
      | .op x slot :: _ =>
        match s.getO x slot with
        | none => s
        | some o =>
          let late (m : MatArgs) : Bool := m.arrived.any fun t => decide (t + (s.getB bench).pairWait.toNat ≤ s.now)
          let out := match o.body with
            | .pairDot _ _ _ (some m) none | .pairDot _ _ _ none (some m) => late m
            | _ => false
          if !out then s
          else failOp (s.modO x slot fun o => { o with engine := arrayField bench }) x slot cPAIRT
      | _ => s)

/-- The wait of a claimant is counted (R213): from the clock in which it has a command waiting and no run; each 1 ms adds
one step, up to 7. -/
def ageClaim (s : State) (b k : Nat) : State :=
  match (s.getB b).claim? k with
  | none => s
  | some c =>
    if (s.getB b).run.any (·.k = k) then s
    else
      let w := claimWants s b c
      match c.since with
      | none => if w then s.modB b fun d => d.modClaim k fun c => { c with since := some s.now } else s
      | some t =>
        if !w then s.modB b fun d => d.modClaim k fun c => { c with since := none }
        else if t + 1200000 ≤ s.now && c.prio + c.aged < 7 then
          s.modB b fun d => d.modClaim k fun c => { c with aged := c.aged + 1, since := some s.now }
        else s

end Sys2Proof.Machine
end

