-- ==== Sys2Proof/Machine/Copy.lean ====
section
/-! DEFINITION. Machine/Copy.lean: the copy schedule (R293-R295), copy operations (R296, R297), `cpy` (R298) and
`cstage` (R299). -/

namespace Sys2Proof.Machine

/-! ## Schedule entries (R293, R294) -/

/-- A schedule entry (R293). -/
structure SEntry where
  tensor : Nat
  dir : Nat
  nbuf : Nat
  row0 : Int
  col0 : Int
  nrows : Nat
  ncols : Nat
  drow : Int
  dcol : Int
  spoff : Nat
  bstride : Nat
  deriving DecidableEq, Repr

/-- A signed 32-bit field. -/
def fieldI (l : List Byte) (off : Nat) : Int := (BitVec.ofNat 32 (field l off 4)).toInt

/-- The entry that 32 bytes hold. -/
def sentryOf (l : List Byte) : SEntry :=
  { tensor := field l 0x00 2, dir := field l 0x02 1, nbuf := field l 0x03 1, row0 := fieldI l 0x04, col0 := fieldI l 0x08,
    nrows := field l 0x0C 2, ncols := field l 0x0E 2, drow := fieldI l 0x10, dcol := fieldI l 0x14, spoff := field l 0x18 4,
    bstride := field l 0x1C 4 }

/-- Element bytes of the image of an entry (R201, R294). -/
def SEntry.elemBytes (e : SEntry) (r : TRec) : Nat := (e.nrows * e.ncols * etBits r.et + 7) / 8

/-- Bytes of the image (R294). -/
def SEntry.bytes (e : SEntry) (r : TRec) : Nat := e.elemBytes r + if r.sb then e.nrows / 8 * (e.ncols / 8) else 0

/-- LINES (R294). -/
def SEntry.lines (e : SEntry) (r : TRec) : Nat := (e.bytes r + 127) / 128

/-- The offset of the first field that makes an entry invalid (R294); `nrec` records, `spad` bytes of scratchpad. -/
def sentryBreaks (e : SEntry) (nrec : Nat) (r : TRec) (spad : Nat) : Option Nat :=
  let m8 (i : Int) : Bool := i % 8 = 0
  let n := 128 * e.lines r
  if nrec ≤ e.tensor then some 0x00
  else if 1 < e.dir then some 0x02
  else if e.nbuf < 1 || 4 < e.nbuf then some 0x03
  else if r.sb && !m8 e.row0 then some 0x04
  else if r.sb && !m8 e.col0 then some 0x08
  else if e.nrows < 1 || 64 < e.nrows || (r.sb && e.nrows % 8 ≠ 0) then some 0x0C
  else if e.ncols < 1 || 256 < e.ncols || (r.sb && e.ncols % 8 ≠ 0) || 256 < rowBytes r.et e.ncols || 64 < e.lines r then some 0x0E
  else if r.sb && !m8 e.drow then some 0x10
  else if r.sb && !m8 e.dcol then some 0x14
  else if e.spoff % 128 ≠ 0 || spad < e.spoff + (e.nbuf - 1) * e.bstride + n then some 0x18
  else if e.bstride % 128 ≠ 0 || (if e.nbuf = 1 then e.bstride ≠ 0 else decide (e.bstride < n)) then some 0x1C
  else none

/-! ## The window of an entry (R294, R295) -/

/-- The memory behind a byte of the image: up to two nibbles or one whole byte, by VA; `part` 0 the byte, 1 the low
nibble of the image byte, 2 the high one; `hi` names the nibble in memory. -/
structure Piece where
  va : W64
  part : Nat
  hi : Bool
  deriving DecidableEq, Repr

/-- A tensor index inside the extent. -/
def inExtent (r : TRec) (row col : Int) : Bool :=
  decide (0 ≤ row) && decide (row < r.rows) && decide (0 ≤ col) && decide (col < r.cols)

/-- The image element with index i of the window (R68, R201): its row and column. -/
def SEntry.elemAt (e : SEntry) (r : TRec) (i : Nat) : Nat × Nat :=
  if r.sb then
    let b := i / 64
    (8 * (b / (e.ncols / 8)) + i % 64 / 8, 8 * (b % (e.ncols / 8)) + i % 8)
  else (i / e.ncols, i % e.ncols)

/-- The pieces of memory behind byte n of the image; none for bytes outside the extent (R295). -/
def SEntry.pieces (e : SEntry) (r : TRec) (row0 col0 : Int) (n : Nat) : List Piece :=
  let bits := etBits r.et
  let elem (i : Nat) (part sub : Nat) : List Piece :=
    if e.nrows * e.ncols ≤ i then []
    else
      let (a, b) := e.elemAt r i
      let row := row0 + a
      let col := col0 + b
      if inExtent r row col then
        let (va, hi) := r.elemVa row.toNat col.toNat
        [{ va := va + BitVec.ofNat 64 sub, part := part, hi := hi }]
      else []
  if n < e.elemBytes r then
    (if bits = 4 then elem (2 * n) 1 0 ++ elem (2 * n + 1) 2 0 else elem (8 * n / bits) 0 (n % (bits / 8)))
  else if n < e.bytes r then
    let b := n - e.elemBytes r
    let i := row0 / 8 + (b / (e.ncols / 8) : Nat)
    let j := col0 / 8 + (b % (e.ncols / 8) : Nat)
    if inExtent r (8 * i) (8 * j) then [{ va := r.scaleAt i.toNat j.toNat, part := 0, hi := false }] else []
  else []

/-- A byte of the image with one piece taken from a memory byte. -/
def Piece.put (p : Piece) (img mem : Byte) : Byte :=
  let nib := if p.hi then mem.toNat / 16 else mem.toNat % 16
  match p.part with
  | 0 => mem
  | 1 => BitVec.ofNat 8 (img.toNat / 16 * 16 + nib)
  | _ => BitVec.ofNat 8 (img.toNat % 16 + 16 * nib)

/-- A memory byte with one piece taken from a byte of the image. -/
def Piece.get (p : Piece) (img mem : Byte) : Byte :=
  let nib := if p.part = 2 then img.toNat / 16 else img.toNat % 16
  match p.part with
  | 0 => img
  | _ => BitVec.ofNat 8 (if p.hi then mem.toNat % 16 + 16 * nib else mem.toNat / 16 * 16 + nib)

/-! ## A copy operation (R296, R297) -/

/-- The operands of a copy. -/
structure CopyInfo where
  first : Nat
  n : Nat
  stage : Nat
  br : W32
  bc : W32
  deriving DecidableEq, Repr

/-- The copy that a body holds. -/
def OpBody.copy? : OpBody → Option CopyInfo
  | .copy f n st br bc => some { first := f, n := n, stage := st, br := br, bc := bc }
  | _ => none

/-- Entry `i` of a copy, counted from its first, and its record, as its node's copies held them at creation (R289). -/
def Op.entryOf (o : Op) (i : Nat) : SEntry × TRec :=
  (sentryOf ((o.got.drop (96 * i)).take 32), trecOf ((o.got.drop (96 * i + 32)).take 64))

/-- The first window row and column, and the buffer (R294). -/
def CopyInfo.window (c : CopyInfo) (e : SEntry) : Int × Int × Nat :=
  (e.row0 + c.stage * e.drow + c.br.toInt, e.col0 + c.stage * e.dcol + c.bc.toInt, e.spoff + c.stage % e.nbuf * e.bstride)

/-- The pseudo slot of one line's access (R297): a fault holds only the lines it touches. -/
def lineSlot (slot line : Nat) : Nat := slot + 8192 * (line + 1)

/-- What the accesses of a line answer. -/
inductive LineRd where
  | ok (s : State) (l : List Byte)
  | wait (va : W64)
  | bad (code : Byte) (va : W64)
  deriving DecidableEq, Repr

/-- Reading the pieces of the bytes of a line. -/
def readPieces (s : State) (b fn : Nat) : List (List Piece) → List Byte → LineRd
  | [], acc => .ok s acc
  | ps :: l, acc =>
    let step (a : LineRd) (p : Piece) : LineRd :=
      match a with
      | .ok s [img] => match readVa s (.bench b) fn p.va 1 with
        | .ok m => .ok s [p.put img (m.headD 0)]
        | .wait v => .wait v
        | .bad c v => .bad c v
      | r => r
    match ps.foldl step (.ok s [0]) with
    | .ok _ v => readPieces s b fn l (acc ++ v)
    | r => r

/-- Writing the pieces of the bytes of a line; a nibble leaves the other nibble of its byte as it was (R295). -/
def writePieces (b fn : Nat) : List (List Piece × Byte) → State → LineRd
  | [], s => .ok s []
  | (ps, img) :: l, s =>
    let step (a : LineRd) (p : Piece) : LineRd :=
      match a with
      | .ok s _ =>
        (match (if p.part = 0 then .ok [0] else readFrom s (.bench b) fn .wr false 2 p.va 1) with
         | .wait v => .wait v
         | .bad c v => .bad c v
         | .ok old => match writeVa s (.bench b) fn p.va [p.get img (old.headD 0)] with
           | .ok s => .ok s []
           | .wait v => .wait v
           | .bad c v => .bad c v)
      | r => r
    match ps.foldl step (.ok s []) with
    | .ok s _ => writePieces b fn l s
    | r => r

/-- Each 128-byte line of memory that a line of the image touched counts one access (R369). -/
def countPieces (s : State) (b fn : Nat) (ps : List (List Piece)) : State :=
  ((ps.flatten.map fun (p : Piece) => p.va.toNat / 128).eraseDups).foldl
    (fun s p => countAccess (noteMiss s (.bench b) fn (BitVec.ofNat 64 (128 * p))) fn (BitVec.ofNat 64 (128 * p))) s

/-- Clocks from one line of a copy to the next, a free value of at least 1 (assumption 14). -/
def lineLat (s : State) (x slot : Nat) : Nat := 1 + Config.unitLat s.now x slot

/-- A line is delivered: counted, and marked in the bitmap; the last line of the last entry completes the copy. -/
def lineDone (s : State) (x slot line deliv zfill lines n : Nat) : State :=
  let s := s.modO x slot fun o => { o with bitmap := o.bitmap ||| (1#64 <<< line), next := s.now + lineLat s x slot, deliv := satPlus o.deliv deliv, zfill := satPlus o.zfill zfill }
  match s.getO x slot with
  | none => s
  | some o =>
    if (List.range lines).all fun i => o.bitmap.getLsbD i then
      (if n ≤ o.entry + 1 then completeOp s x slot else (s.modO x slot fun o => { o with entry := o.entry + 1, bitmap := 0 }).imageOp x slot)
    else s.imageOp x slot

/-- The node that created a copy still runs on its core (R296). -/
def nodeLives (s : State) (o : Op) : Bool := (s.getC o.core).inst = some o.node

/-- The VAs of the memory bytes behind a line of an image. -/
def SEntry.lineVas (e : SEntry) (r : TRec) (row0 col0 : Int) (line : Nat) : List W64 :=
  (((List.range 128).flatMap fun i => e.pieces r row0 col0 (128 * line + i)).map (·.va)).eraseDups

/-- Memory bytes that a line of an outward entry is the first to deliver (R295): a byte whose nibbles lie in two lines counts once. -/
def SEntry.newBytes (e : SEntry) (r : TRec) (row0 col0 : Int) (line : Nat) (done : W64) : Nat :=
  let other (l : Nat) : List W64 := if done.getLsbD l then e.lineVas r row0 col0 l else []
  let seen := (if line = 0 then [] else other (line - 1)) ++ other (line + 1)
  ((e.lineVas r row0 col0 line).filter fun a => !seen.contains a).length

/-- Delivering one line of a RUNNING copy (R296, R297). -/
def deliverLine (s : State) (x slot line : Nat) (o : Op) (c : CopyInfo) : State :=
  let (e, r) := o.entryOf o.entry
  let (row0, col0, buf) := c.window e
  let lines := e.lines r
  let index := BitVec.ofNat 32 (64 * (c.first + o.entry) + line)
  if r.sb && (c.br.toInt % 8 ≠ 0 || c.bc.toInt % 8 ≠ 0) then
    failOp s x slot cTILE (BitVec.ofNat 32 (64 * (c.first + o.entry)))
  else if lines ≤ line || o.bitmap.getLsbD line || s.now < o.next then s
  else
    let b := benchOf o.core
    let fn := (s.getX x).fn
    let at_ := buf + 128 * line
    let bytes := List.range 128
    let ps := bytes.map fun i => e.pieces r row0 col0 (128 * line + i)
    let live := nodeLives s o
    let core := s.getC o.core
    let failed := (opEntry s o.core x (lineSlot slot line)).bind (·.failed)
    match failed, opEntry s o.core x (lineSlot slot line) with
    | some code, some f => failOp s x slot code index f.va
    | _, some _ => s
    | _, none =>
      if e.dir = 0 then
        if live && sget false core.lines (at_ / 128) then s
        else match readPieces s b fn ps [] with
          | .wait va => enterFault s o.core o.stream (some (x, lineSlot slot line)) fn va false
          | .bad code va => failOp s x slot code index va
          | .ok s l =>
            let s := if live then s.modC o.core fun c => (c.spadWrite at_ l).setLines at_ 128 true else s
            let used := (bytes.filter fun i => decide (128 * line + i < e.bytes r)).length
            let inside := (ps.filter fun p => p ≠ []).length
            lineDone (countPieces s b fn ps) x slot line inside (used - inside) lines c.n
      else if !live || !sget false core.lines (at_ / 128) then s
      else
        let img := core.spadRead at_ 128
        if spadErr s o.core at_ 128 then failOp s x slot cSRAM index (BitVec.ofNat 64 at_) else
        match writePieces b fn (ps.zip img) s with
        | .wait va => enterFault s o.core o.stream (some (x, lineSlot slot line)) fn va true
        | .bad code va => failOp s x slot code index va
        | .ok s _ =>
          let n := e.newBytes r row0 col0 line o.bitmap
          let s := s.modC o.core fun c => c.setLines at_ 128 false
          lineDone (countPieces s b fn ps) x slot line n 0 lines c.n

/-- A cancelled copy (R251): the line in progress is delivered, and the copy is CANCELLED unless that was its last. -/
def cancelLine (s : State) (x slot line : Nat) (o : Op) (c : CopyInfo) : State :=
  if s.now < o.next then s
  else
    let s' := deliverLine s x slot line o c
    match s'.getO x slot with
    | some p => if p.st.finished then s' else if p.bitmap ≠ o.bitmap || p.entry ≠ o.entry then cancelOp s' x slot else cancelOp s x slot
    | none => s'

/-- A line of a copy is delivered (R296). -/
def execCopyLineDelivery (ctx slot line : Nat) (s : State) : Host.Outcome State Fault Refusal :=
  .next (match s.getO ctx slot with
    | none => s
    | some o =>
      match o.body.copy? with
      | none => s
      | some c => if o.st = .running && servesOrDrains s ctx then (if o.cancel then cancelLine else deliverLine) s ctx slot line o c else s)

/-! ## Class queues (R242, R248) -/

/-- The class queue that serves an operation (R242): copies by die, launches, bank dot and glaze operations. The array's
commands, the engines' commands and the leases have their own. -/
def classOf (o : Op) : Option (Nat × Nat) :=
  match o.body with
  | .copy .. => some (1, dieOf (benchOf o.core))
  | .launch .. => some (5, 0)
  | .bdot _ => some (6, 0)
  | .glaze .. => some (7, 0)
  | _ => none

/-- An earlier HELD operation of the same stream and class holds this one back (R248). -/
def heldInClass (s : State) (x : Nat) (o : Op) : Bool :=
  (s.getX x).ops.any fun e => e.2.st = .held && e.2.core = o.core && e.2.stream = o.stream && e.2.node = o.node && decide (e.2.order < o.order) &&
    classOf e.2 = classOf o

/-- An operation that its class queue may start. -/
def mayBegin (s : State) (x slot : Nat) (o : Op) : Bool :=
  o.st = .queued && serves s x && !heldInClass s x o && !((opEntry s o.core x slot).any fun f => f.failed.isNone)

/-- KIND of a node. -/
def Node.kind (n : Node) : Nat := field n.bytes 0 1
/-- The queue releases nodes. -/
def Queue.releases (q : Queue) : Bool := q.st = .active || q.st = .running

/-- A READY node of the context may start. -/
def mayStart (s : State) (x q : Nat) : Bool := serves s x && (s.getQ x q).releases && (s.getQ x q).frozen.isNone

/-- The effective priority of a READY node: PRIO of its queue, a step higher per 1 ms that it has waited (R333). -/
def nodeEff (q : Queue) (n : Node) : Nat := min 7 (q.prio.toNat + n.aged)

/-- A READY copy node whose priority is higher goes before an operation of a class queue (R327). -/
def nodeAhead (s : State) (prio : Nat) : Bool :=
  s.ctxs.any fun e => e.2.queues.any fun q => mayStart s e.1 q.1 &&
    q.2.nodes.any fun n => n.2.st = .ready && n.2.kind = 1 && n.2.fault.isNone && decide (prio < nodeEff q.2 n.2)

/-- A queued copy of a higher effective priority goes before a copy node on an engine of its die (R242, R327). -/
def copyAhead (s : State) (die prio : Nat) : Bool :=
  (allOps s).any fun e => classOf e.2.2 = some (1, die) && mayBegin s e.1 e.2.1 e.2.2 && decide (prio < e.2.2.eff)

/-! ## Engines of a die (R296) -/

/-- The copy engines in use: those of RUNNING copies and of copy nodes (R327). -/
def copyBusy (s : State) : List Nat :=
  ((allOps s).filterMap fun e => if e.2.2.st = .running && kindOf e.2.2.body = 1 then some (e.2.2.engine &&& 0xFFF).toNat else none) ++
  s.ctxs.flatMap fun e => e.2.queues.flatMap fun q => q.2.nodes.filterMap fun n => n.2.engine

/-- A free copy engine of a die. -/
def freeCopyEngine (s : State) (die : Nat) : Option Nat :=
  let busy := copyBusy s
  ((List.range 8).map fun i => 8 * die + i).find? fun e => !busy.contains e

/-- A copy starts on an engine of its die (R242, R296), behind READY copy nodes of higher priority. -/
def startCopy (s : State) (x slot : Nat) (o : Op) : State :=
  match (if nodeAhead s o.eff then none else freeCopyEngine s (dieOf (benchOf o.core))) with
  | none => s
  | some e => startOp (s.modO x slot fun o => { o with engine := BitVec.ofNat 16 (0x1000 + e) }) x slot

/-! ## The words (R298, R299) -/

/-- The schedule entries and records that a copy captures. -/
def captureCopy (i : Inst) (first n : Nat) : List Byte :=
  (List.range n).flatMap fun j =>
    let e := (i.sched.drop (32 * (first + j))).take 32
    e ++ (i.records.drop (64 * field e 0 2)).take 64

/-- SCHEDLEN of an instance (R284). -/
def Inst.schedLen (i : Inst) : Nat := field i.launch 0x16 2

/-- `cpy` (R298). -/
def execCpy (h : Hdr) (o : FO) (s : State) : Host.Outcome State Fault Refusal :=
  runWord (.cpy h o) .A h o.g (some 2) s fun s =>
    with32 s .A o.a fun ctl => with64 s .A o.b fun bias => withAfter s .A o fun n => whenPassed s <|
      let c := s.core
      let x := c.ctx
      let first := (ctl.extractLsb' 0 16).toNat
      let cnt := (ctl.extractLsb' 16 16).toNat
      let inst := s.coreInst c
      let len := match inst with | some i => i.schedLen | none => 0
      let got := match inst with | some i => captureCopy i first cnt | none => []
      let bad := cnt = 0 || decide (len < first + cnt)
      let body : OpBody := .copy first cnt c.stage.toNat (bias.extractLsb' 0 32) (bias.extractLsb' 32 32)
      if bad then makeOp s .A n body fun s h slot => result (failOp s x slot cRANGE) .A o.d 1 2 (h.setWidth 128)
      else createOp s .A n body fun s h slot =>
        result (s.modO x slot fun p => { p with got := got }) .A o.d 1 2 (h.setWidth 128)

/-- `cstage` (R299). -/
def execCstage (h : Hdr) (o : FR) (s : State) : Host.Outcome State Fault Refusal :=
  runWord (.cstage h o) .A h o.g (some 1) s fun s =>
    let set (v : BitVec 16) : Act := whenPassed s (result (s.setCore { s.core with stage := v }) .A o.d 1 1 (v.setWidth 128))
    if o.m.getLsbD 0 then with32 s .A o.a fun a => set (a.setWidth 16) else set (s.core.stage + 1)

end Sys2Proof.Machine
end

