-- ==== Sys2Proof/Machine/Group.lean ====
section
/-! DEFINITION. Machine/Group.lean: core groups and process groups as programs see them: ranks, neighbours, shares and
dynamic claims (R300, R304, R306-R311). -/

namespace Sys2Proof.Machine

/-! ## Coordinates (R304) -/

/-- The neighbour of rank r in dimension d and direction +1 or -1 (R304). -/
def PgTable.neighbour (t : PgTable) (r d : Nat) (delta : Int) : Option Nat :=
  let d0 := t.dims.getD 0 1
  let d1 := t.dims.getD 1 1
  let c := [r % d0, r / d0 % d1, r / (d0 * d1)]
  let n := t.dims.getD d 1
  let v : Int := (c.getD d 0 : Nat) + delta
  let w : Option Nat := if 0 ≤ v && v < n then some v.toNat else if t.wrap.getLsbD d then some (v % n).toNat else none
  w.map fun e =>
    let c := c.set d e
    c.getD 0 0 + d0 * (c.getD 1 0 + d1 * c.getD 2 0)

/-- Nothing of the kind (R310). -/
def noPeer : W32 := 0xFFFFFFFF

/-- The device and VF that a member entry shows (R310). -/
def memberWord (dev : BitVec 15) (vf : Byte) : W32 := dev.setWidth 32 ||| (vf.setWidth 32 <<< 16)

/-- The process group of the executing core's node; none where the launch does not span (R306). -/
def State.myPg (s : State) : Option PgTable := (s.coreInst s.core).bind (·.pg)

/-- CORES of the executing core's node. -/
def State.mySize (s : State) : Nat := match s.coreInst s.core with | some i => i.size | none => 0

/-- `gpeer.nb` (R310). -/
def peerNb (s : State) (d : Nat) (delta : Int) : W32 :=
  match s.myPg with
  | some t => (match t.neighbour t.rank d delta with | some r => BitVec.ofNat 32 r | none => noPeer)
  | none => noPeer

/-- `gpeer.dev` (R310). -/
def peerDev (s : State) (r : Nat) : W32 :=
  match s.myPg with
  | some t => (match t.members[r]? with | some m => memberWord m.1 m.2 | none => noPeer)
  | none => if r = 0 then memberWord Config.devId (fnVf (s.coreFn s.core)) else noPeer

/-- `gpeer.core` (R310). -/
def peerCore (s : State) (i : Nat) : W32 :=
  match (s.coreInst s.core).bind fun n => n.cores[i]? with | some k => BitVec.ofNat 32 k | none => noPeer

/-! ## The words (R309) -/

/-- `gid`. -/
def execGid (h : Hdr) (o : FR) (s : State) : Host.Outcome State Fault Refusal :=
  runWord (.gid h o) .S h o.g (some 1) s fun s => result s .S o.d 1 1 (BitVec.ofNat 128 s.core.gidx)

/-- `grank`. -/
def execGrank (h : Hdr) (o : FR) (s : State) : Host.Outcome State Fault Refusal :=
  runWord (.grank h o) .S h o.g (some 1) s fun s => result s .S o.d 1 1 (BitVec.ofNat 128 (pgRank s.myPg))

/-- `gsize`. -/
def execGsize (h : Hdr) (o : FR) (s : State) : Host.Outcome State Fault Refusal :=
  runWord (.gsize h o) .S h o.g (some 1) s fun s =>
    result s .S o.d 1 1 (BitVec.ofNat 128 (if o.m.getLsbD 0 then pgSize s.myPg else s.mySize))

/-- `gpeer`. -/
def execGpeer (h : Hdr) (o : FR) (s : State) : Host.Outcome State Fault Refusal :=
  runWord (.gpeer h o) .S h o.g (some 2) s fun s =>
    let out (v : W32) : Act := result s .S o.d 1 2 (v.setWidth 128)
    match o.m.toNat with
    | 0 => out (peerNb s (immNat o.a) ((immOf o.b).getD 0))
    | 1 => with32 s .S o.a fun r => out (peerDev s r.toNat)
    | _ => with32 s .S o.a fun i => out (peerCore s i.toNat)

/-- A pair of n32, the first in the low register. -/
def pairOf (a b : Nat) : W128 := BitVec.ofNat 128 (b % 2 ^ 32 * 2 ^ 32 + a % 2 ^ 32)

/-- `gshare` (R307, R309). -/
def execGshare (h : Hdr) (o : FR) (s : State) : Host.Outcome State Fault Refusal :=
  runWord (.gshare h o) .S h o.g (some 4) s fun s =>
    with32 s .S o.a fun n =>
      let out (parts i : Nat) : Act :=
        let r := shareOf n.toNat parts i
        result s .S o.d 2 4 (pairOf r.1 r.2)
      match o.m.toNat with
      | 0 => with32 s .S o.b fun p => with32 s .S o.c fun i => out p.toNat i.toNat
      | 1 => out s.mySize s.core.gidx
      | _ => out (pgSize s.myPg) (pgRank s.myPg)

/-- The level of kind D of a loop table: its COUNT and GRAIN (R286). -/
def Inst.dLevel (i : Inst) : Option (Nat × Nat) :=
  ((List.range 8).find? fun l => field i.launch (0x44 + 8 * l) 1 = 3).map fun l =>
    (field i.launch (0x40 + 8 * l) 4, field i.launch (0x45 + 8 * l) 1)

/-- DCTR of an instance (R284). -/
def Inst.dctr (i : Inst) : W64 := BitVec.ofNat 64 (field i.launch 0x30 8)

/-- `gclaim` (R308, R311). -/
def execGclaim (h : Hdr) (o : FR) (s : State) : Host.Outcome State Fault Refusal :=
  runWord (.gclaim h o) .S h o.g (some 2) s fun s =>
    match (s.coreInst s.core).bind Inst.dLevel, s.coreInst s.core with
    | some (count, grain), some i =>
      requestAct s o.d 2 2 { op := .gclaim, a := BitVec.ofNat 32 count, b := i.dctr, c := BitVec.ofNat 32 grain, m := 0 }
    | _, _ => .fault (stopCode cRANGE)

/-! ## Requests at their homes (R311) -/

/-- The reply reaches the core that asked. -/
def replyTo (s : State) (k : Nat) (v : W64) : State := s.modC k fun c => { c with req := .replied v }

/-- The reply that makes the word fault. -/
def failTo (s : State) (k : Nat) (code : Byte) (va : W64) : State := s.modC k fun c => { c with req := .failed code 0 va }

/-- The range that a claim yields (R308). -/
def claimRange (old count grain : Nat) : Nat × Nat :=
  if count ≤ old then (count, 0) else (old, min grain (count - old))

/-- A claim at its home L2 (R308, R311): one atomic add. -/
def homeClaim (s : State) (k : Nat) (a : Ask) : State :=
  let fn := s.coreFn (s.getC k)
  match (s.getB (benchOf k)).faults.find? fun f => f.core = k && f.stream = .S && f.op.isNone with
  | some f => (match f.failed with
    | some code => failTo (dropFaults s fun g => g = f) k code a.b
    | none => s)
  | none =>
    match readFrom s (.core k) fn .wr false 2 a.b 8 with
    | .wait va => enterFault s k .S none fn va true
    | .bad code va => failTo s k code va
    | .ok l =>
      let old := leNat l
      match writePerm s (.core k) fn .wr false a.b (leBytes 8 (old + a.c.toNat)) with
      | .ok s =>
        let r := claimRange old a.a.toNat a.c.toNat
        replyTo (countLines s fn a.b 8) k (BitVec.ofNat 64 (r.2 * 2 ^ 32 + r.1))
      | .wait va => enterFault s k .S none fn va true
      | .bad code va => failTo s k code va

end Sys2Proof.Machine
end

