-- ==== Sys2Proof/Machine/Barrier.lean ====
section
/-! DEFINITION. Machine/Barrier.lean: barriers (R312-R323): their events at the home, the multicasts of fab-scope
barriers, and the barrier words. -/

namespace Sys2Proof.Machine

/-- A status word (R314). -/
def barWord (gen : BitVec 16) (epoch : Byte) (st : Nat) : W32 :=
  (gen.setWidth 32 <<< 16) ||| (epoch.setWidth 32 <<< 8) ||| BitVec.ofNat 32 st

/-- The status word of an entry. -/
def Barrier.word (e : Barrier) : W32 := barWord e.gen e.epoch e.st.code

/-! ## Generations (R314, R323) -/

/-- Generation g is complete (R314). -/
def Barrier.isComplete (e : Barrier) (g : BitVec 16) : Bool :=
  (e.st = .complete && g = e.gen) || (decide (1 ≤ (e.gen - g).toNat) && decide ((e.gen - g).toNat < 32768))

/-- Generation g is pending (R314): on a COMPLETE mirror the next generation is pending too. -/
def Barrier.isPending (e : Barrier) (g : BitVec 16) : Bool :=
  (e.st = .openSt && g = e.gen) || (e.mirror && e.st = .complete && g = e.gen + 1)

/-- R323: the status word that a token reads; none while a `barwait` waits. -/
def Barrier.eval (e : Barrier) (tok : W32) (test : Bool) : Option W32 :=
  let g : BitVec 16 := tok.extractLsb' 16 16
  let ep : Byte := tok.extractLsb' 8 8
  if e.st = .idle then some (barWord g ep 0)
  else if ep ≠ e.epoch then some (barWord g ep 4)
  else if e.st = .broken then some (barWord g e.epoch 3)
  else if e.isPending g then (if test then some (barWord g e.epoch 1) else none)
  else if e.isComplete g then some (barWord g e.epoch 2)
  else some (barWord g ep 4)

/-! ## Events at the home (R315) -/

/-- An arrival: the entry after it and the status word; none at an IDLE barrier (R321). -/
def Barrier.arrive (e : Barrier) : Option (Barrier × W32) :=
  match e.st with
  | .idle => none
  | .broken => some (e, e.word)
  | .openSt =>
    let e : Barrier := { e with arrived := e.arrived + 1, st := if e.arrived.toNat + 1 < e.expect.toNat then .openSt else .complete }
    some (e, e.word)
  | .complete =>
    let e : Barrier := { e with gen := e.gen + 1, arrived := 1, st := if 1 < e.expect.toNat then .openSt else .complete }
    some (e, e.word)

/-- A `barleave` (R315). -/
def Barrier.leave (e : Barrier) : Option (Barrier × W32) :=
  match e.st with
  | .idle => none
  | .broken => some (e, e.word)
  | _ =>
    let e' : Barrier :=
      if e.expect = 1 then { e with st := .idle, expect := 0 }
      else if e.st = .openSt && 0 < e.arrived.toNat && decide (e.expect.toNat - 1 ≤ e.arrived.toNat) then
        { e with expect := e.expect - 1, st := .complete }
      else { e with expect := e.expect - 1 }
    some (e', e'.word)

/-- Re-evaluating the waiters of barrier b on this device against an entry (R315, R323); `test` ends every wait. -/
def wakeBar (s : State) (x b : Nat) (e : Barrier) (test : Bool) : State :=
  { s with cores := s.cores.map fun f =>
      match f.2.req with
      | .applied k =>
        if k.op = .barwait && k.a.toNat = b && f.2.ctx = x then
          match e.eval (k.b.setWidth 32) test with
          | some w => (f.1, { f.2 with req := .replied (w.setWidth 64) })
          | none => f
        else f
      | _ => f }

/-- A home or mirror entry changes: its waiters look again; where it turns IDLE they see the state as it was. -/
def changeBar (s : State) (x b : Nat) (e : Barrier) : State :=
  let s := if e.st = .idle then wakeBar s x b (s.getBar x b) true else s
  wakeBar (s.putBar x b e) x b e false

/-- A generation of a fab-scope barrier completed at its home: the multicast of R313. -/
def castComplete (s : State) (x b : Nat) (before e : Barrier) : State :=
  if e.scope = 3 && e.st = .complete && !(before.st = .complete && before.gen = e.gen) then
    s.barCast x b e.pgid (barPayload 1 e.epoch e.gen 0 (BitVec.ofNat 32 b)) (.complete e.epoch e.gen)
  else s

/-- An arrival or a `barleave` performed at the home entry. -/
def homeEvent (s : State) (x b : Nat) (isLeave : Bool) : Option (State × W32) :=
  let e := s.getBar x b
  (if isLeave then e.leave else e.arrive).map fun r => (castComplete (changeBar s x b r.1) x b e r.1, r.2)

/-- Core k may arrive at an entry (R313). -/
def mayArrive (k : Nat) (e : Barrier) : Bool :=
  match e.scope.toNat with
  | 0 => e.anchor.toNat = benchOf k
  | 1 => e.anchor.toNat = dieOf (benchOf k)
  | _ => true

/-! ## `barinit` at the home (R315, R321, R322) -/

/-- The entry that `barinit` writes. -/
def initEntry (e : Barrier) (k : Nat) (scope : BitVec 2) (expect pgid : W32) : Barrier :=
  { gen := 0, epoch := e.epoch + 1, scope := scope, st := .openSt, expect := expect.setWidth 24, arrived := 0,
    anchor := BitVec.ofNat 16 (match scope.toNat with | 0 => benchOf k | 1 => dieOf (benchOf k) | _ => 0),
    pgid := if scope = 3 then pgid else 0, homedev := if scope = 3 then Config.devId.setWidth 16 else 0, brkcode := 0,
    mirror := false }

/-- The set-up messages of entry b that the members have not applied: not yet sent, or not yet acknowledged. -/
def setupOpen (s : State) (fn : Nat) (id : W32) (b : Nat) : Bool :=
  let mine (m : Msg) : Bool :=
    m.kind = 7 && m.svf.toNat = fn && m.aux = id.setWidth 64 && m.payload.headD 1 = 0 && field m.payload 8 4 = b
  s.outbox.any mine || s.conns.any fun c => c.unacked.any mine || c.waiting.any mine

/-- `barinit` arrives at the home: B EXPECT, C the table. -/
def homeInit (s : State) (k : Nat) (a : Ask) : State :=
  let x := (s.getC k).ctx
  let c := s.getX x
  let b := a.a.toNat
  let e := s.getBar x b
  let t := c.pg? a.c
  let expect : W32 := a.b.setWidth 32
  let ready : Bool := match t with | some t => t.st = .ready && t.rank = 0 | none => false
  if (a.m = 3 && !ready) || (e.st = .openSt && e.arrived ≠ 0) then replyTo s k 0
  else
    let n := initEntry e k a.m expect a.c
    let s := changeBar s x b n
    if a.m ≠ 3 then replyTo s k 1
    else
      let s := s.barCast x b a.c (barPayload 0 n.epoch 0 expect (BitVec.ofNat 32 b)) (.setup expect a.c Config.devId n.epoch 0)
      s.modC k fun c => { c with req := .applied a }

/-- A `barinit.fab` finishes: every member has applied the set-up, or the table degraded (R322). -/
def finishInit (s : State) (k : Nat) (a : Ask) : State :=
  let x := (s.getC k).ctx
  let live : Bool := match (s.getX x).pg? a.c with | some t => t.st = .ready | none => false
  if live && setupOpen s (s.getX x).fn a.c a.a.toNat then s else replyTo s k 1

/-! ## Arrivals and waits (R320-R323) -/

/-- The barrier messages of a member's arrival: 2 an arrival, 3 a `barleave`. -/
def arriveCode (op : AskOp) : Byte := if op = .barleave then 3 else 2

/-- The member of rank 0 of a barrier's table: its home's device and VF (R313). -/
def Ctx.barRoot (c : Ctx) (e : Barrier) : Option (BitVec 15 × Byte) := (c.pg? e.pgid).bind fun t => t.members.head?

/-- `barrive` or `barleave` arrives: at a home entry it is performed, a mirror passes it on to rank 0 (R322) under a tag by which its reply is
known (assumption 7). -/
def homeArrive (s : State) (k : Nat) (a : Ask) : State :=
  let x := (s.getC k).ctx
  let c := s.getX x
  let b := a.a.toNat
  let e := s.getBar x b
  if e.st = .idle || !mayArrive k e then failTo s k cRANGE 0
  else if !e.mirror then
    match homeEvent s x b (a.op = .barleave) with
    | some (s, w) => replyTo s k (w.setWidth 64)
    | none => failTo s k cRANGE 0
  else
    match c.barRoot e with
    | some m =>
      let tag : W64 := BitVec.ofNat 64 s.now
      (s.send c.fn m.1.toNat (vfFn m.2) 7 tag (e.pgid.setWidth 64)
        (barPayload (arriveCode a.op) e.epoch e.gen (BitVec.ofNat 32 k) a.a)).modC k fun c => { c with req := .applied { a with b := tag } }
    | none => replyTo s k ((barWord e.gen e.epoch 3).setWidth 64)

/-- The reply to an arrival of core k will not come: the word reads BROKEN (R322). -/
def lostArrive (s : State) (k : Nat) : State :=
  match (s.getC k).req with
  | .applied a =>
    if a.op = .barrive || a.op = .barleave then
      let e := s.getBar (s.getC k).ctx a.a.toNat
      replyTo s k ((barWord e.gen e.epoch 3).setWidth 64)
    else s
  | _ => s

/-- The arrivals of a function's cores that await a reply of a device are lost (R322). -/
def lostArrivals (s : State) (fn peer : Nat) : State :=
  (s.cores.filter fun e => s.coreFn e.2 = fn && match e.2.req with
    | .applied a => ((s.getX e.2.ctx).barRoot (s.getBar e.2.ctx a.a.toNat)).any fun m => m.1.toNat = peer
    | _ => false).foldl (fun s e => lostArrive s e.1) s

/-- `barwait` or `bartest` arrives (R323). -/
def homeWait (s : State) (k : Nat) (a : Ask) : State :=
  let x := (s.getC k).ctx
  match (s.getBar x a.a.toNat).eval (a.b.setWidth 32) (a.op = .bartest) with
  | some w => replyTo s k (w.setWidth 64)
  | none => s.modC k fun c => { c with req := .applied a }

/-! ## Messages between members (R313, R322) -/

/-- A multicast reaches a member's mirror entry (R313, R322). -/
def execBarrierMulticast (ctx b : Nat) (u : BarUpdate) (s : State) : Host.Outcome State Fault Refusal :=
  .next (
    let e := s.getBar ctx b
    let mine (epoch : Byte) : Bool := e.mirror && e.epoch = epoch && (e.st = .openSt || e.st = .complete)
    if (s.getX ctx).st = .free || 1024 ≤ b then s
    else match u with
      | .setup expect pgid homedev epoch gen =>
        changeBar s ctx b { gen := gen, epoch := epoch, scope := 3, st := .openSt, expect := expect.setWidth 24, arrived := 0,
                            anchor := 0, pgid := pgid, homedev := homedev.setWidth 16, brkcode := 0, mirror := true }
      | .complete epoch gen => if mine epoch then changeBar s ctx b { e with gen := gen, st := .complete } else s
      | .broken epoch gen code => if mine epoch then changeBar s ctx b { e with gen := gen, st := .broken, brkcode := code } else s)

/-- The context of a function whose entry b is the home of a barrier of table `id` (R322). -/
def barHome (s : State) (fn b : Nat) (id : W32) : Option Nat :=
  (s.ctxs.find? fun e => e.2.st ≠ .free && e.2.fn = fn &&
    (let d := sget Barrier.reset e.2.barriers b
     d.scope = 3 && !d.mirror && d.pgid = id && d.st ≠ .idle)).map (·.1)

/-- A break that a member reports reaches the home, or the home's multicast reaches a member (R313, R316). -/
def messageBreak (s : State) (fn : Nat) (id : W32) (epoch : Byte) (gen : BitVec 16) (code : Byte) (b : Nat) : State :=
  match barHome s fn b id with
  | some x =>
    let e := s.getBar x b
    if e.epoch = epoch then
      let s := s.breakBar x b code
      wakeBar s x b (s.getBar x b) false
    else s
  | none => (s.tableContexts fn id 0xFFFF).foldl (fun s y => s.post (.barrierMulticast y b (.broken epoch gen code))) s

/-- A table degrades or dissolves on this device: its barriers break at once (R316). -/
def breakTable (s : State) (x : Nat) (id : W32) : State :=
  let hit := (s.getX x).barriers.filter fun e => e.2.scope = 3 && e.2.pgid = id
  hit.foldl (fun (s : State) e =>
    let s := s.breakBar x e.1 cREFUSED
    wakeBar s x e.1 (s.getBar x e.1) false) s

/-! ## The words (R320) -/

/-- A barrier word whose operands have been read: a number of 1,024 or more is RECORD_RANGE. -/
def barAct (s : State) (d : BitVec 7) (k : Ask) : Act :=
  if 1024 ≤ k.a.toNat then .fault (stopCode cRANGE) else requestAct s d 1 2 k

/-- `barinit` (R321). -/
def execBarinit (h : Hdr) (o : FR) (s : State) : Host.Outcome State Fault Refusal :=
  runWord (.barinit h o) .S h o.g (some 2) s fun s =>
    with32 s .S o.a fun b => with32 s .S o.b fun n =>
      let go (id : W32) : Act := barAct s o.d { op := .barinit, a := b, b := n.setWidth 64, c := id, m := o.m }
      if n = 0 || 2 ^ 24 ≤ n.toNat then .fault (stopCode cRANGE)
      else if o.m ≠ 3 then go 0
      else with32 s .S o.c fun id =>
        if s.core.req = .none && (match (s.getX s.core.ctx).pg? id with | none => true | some t => t.st = .dissolved : Bool) then
          .fault (stopCode cRANGE)
        else go id

/-- `barrive`. -/
def execBarrive (h : Hdr) (o : FR) (s : State) : Host.Outcome State Fault Refusal :=
  runWord (.barrive h o) .S h o.g (some 2) s fun s =>
    with32 s .S o.a fun b => barAct s o.d { op := .barrive, a := b, b := 0, c := 0, m := o.m }

/-- `barwait`. -/
def execBarwait (h : Hdr) (o : FR) (s : State) : Host.Outcome State Fault Refusal :=
  runWord (.barwait h o) .S h o.g (some 2) s fun s =>
    with32 s .S o.a fun b => with32 s .S o.b fun t => barAct s o.d { op := .barwait, a := b, b := t.setWidth 64, c := 0, m := o.m }

/-- `bartest`. -/
def execBartest (h : Hdr) (o : FR) (s : State) : Host.Outcome State Fault Refusal :=
  runWord (.bartest h o) .S h o.g (some 2) s fun s =>
    with32 s .S o.a fun b => with32 s .S o.b fun t => barAct s o.d { op := .bartest, a := b, b := t.setWidth 64, c := 0, m := o.m }

/-- `barleave`. -/
def execBarleave (h : Hdr) (o : FR) (s : State) : Host.Outcome State Fault Refusal :=
  runWord (.barleave h o) .S h o.g (some 2) s fun s =>
    with32 s .S o.a fun b => barAct s o.d { op := .barleave, a := b, b := 0, c := 0, m := o.m }

end Sys2Proof.Machine
end

