-- ==== Sys2Proof/Machine/Common.lean ====
section
/-! DEFINITION. Machine/Common.lean: the common block that all four maps share (R43, R49, R94, R104-R108). -/

namespace Sys2Proof.Machine

/-- `nop` (R104). -/
def execNop (st : StreamId) (h : Hdr) (o : NO) (s : State) : Host.Outcome State Fault Refusal :=
  runWord (.nop st h o) st h 0 none s fun s => noResult s

/-- A trio stream that need not be waited for at `align` (R94): it has ended, or it waits there too. -/
def atAlignOrEnded (m : Stream) : Bool := m.st.ended || m.st = .idle || m.atAlign.isSome

/-- Letting a waiting trio stream's `align` issue (R94). -/
def releaseAlign (m : Stream) : Stream := if m.atAlign.isSome then { m with atAlign := some 1 } else m

/-- The effect of `align` (R94): a trio stream waits until each other one that has not stopped waits too, and the last
lets them issue together; A waits for a trio `align` it has not been matched with, and for its own accesses that are not performed
yet, which a switch-out would abandon (R175). -/
def alignAct (st : StreamId) (s : State) : Act :=
  let c := s.core
  match st with
  | .A =>
    if c.aPending then .wait s
    else if c.s.st.ended && c.v.st.ended && c.x.st.ended then noResult s
    else if 0 < c.trioAligns then noResult (s.setCore { c with trioAligns := c.trioAligns - 1 })
    else .wait s
  | _ =>
    if (c.str st).atAlign = some 1 then noResult s
    else if ([StreamId.S, .V, .X].filter (· ≠ st)).all fun o => atAlignOrEnded (c.str o) then
      noResult (s.setCore { c with s := releaseAlign c.s, v := releaseAlign c.v, x := releaseAlign c.x,
                                   trioAligns := c.trioAligns + 1 })
    else .wait (s.setCore (c.modStr st fun m => { m with atAlign := some 0 }))

/-- `align` (R94). -/
def execAlign (st : StreamId) (h : Hdr) (o : NO) (s : State) : Host.Outcome State Fault Refusal :=
  runWord (.align st h o) st h 0 none s (alignAct st)

/-- `stop` (R104): the stream enters STOPPED. A's `stop` does not start while an access before it could still be abandoned (R175). -/
def execStop (st : StreamId) (h : Hdr) (o : NO) (s : State) : Host.Outcome State Fault Refusal :=
  runWord (.stop st h o) st h 0 none s fun s =>
    if st = .A && s.core.aPending then .wait s else noResult (s.setCore (s.core.modStr st fun m => { m with st := .stopped }))

/-- The opcode of a raw word (R28). -/
def rawOp (w : W64) : Nat := (w.extractLsb' 40 8).toNat

/-- The words that a pool at a raw `pool` word occupies, itself included (R49). -/
def poolSkip (w : W64) : Nat := 1 + (w.extractLsb' 0 25).toNat

/-- A word of the segment for the executing core's stream: from its instruction cache, or as it stands in memory. -/
def codeWord (s : State) (st : StreamId) (off : Nat) : Rd :=
  match sfind (s.core.str st).cache off with
  | some w => .ok (leBytes 8 w.toNat)
  | none => fetchCode s s.cur off

/-- The offset of the word after the `endl` that matches a `loop` at depth 0 (R105), reading words from `off` on; fuel
bounds the words. -/
def afterEndl (s : State) (st : StreamId) : Nat → Nat → Nat → Rd ⊕ Nat
  | 0, _, off => .inr off
  | n + 1, depth, off =>
    match codeWord s st off with
    | .ok l =>
      let w : W64 := BitVec.ofNat 64 (leNat l)
      if rawOp w = 0x07 then afterEndl s st n depth (off + 8 * poolSkip w)
      else if rawOp w = 0x03 then afterEndl s st n (depth + 1) (off + 8)
      else if rawOp w = 0x04 then (if depth = 0 then .inr (off + 8) else afterEndl s st n (depth - 1) (off + 8))
      else afterEndl s st n depth (off + 8)
    | r => .inl r

/-- Entering a loop (R105, R56). A ninth entry of the stack faults as LOOP_DEPTH (assumption 8). -/
def loopAct (st : StreamId) (level : BitVec 3) (count : Nat) (s : State) : Act :=
  let c := s.core
  let m := c.str st
  let lim := match s.coreInst c with | some i => i.loopMax level.toNat | none => 0
  let len := match s.coreInst c with | some i => field i.header 8 4 / 8 | none => 0
  if lim < count || 8 ≤ m.loops.length then .fault (stopCode cLOOP)
  else if count = 0 then
    match afterEndl s st len 0 (m.pc + 8) with
    | .inr off => .done s { target := some off }
    | .inl (.bad code va) => .fault { stopCode code with addr := va }
    | .inl (.wait va) => .wait (enterFault s s.cur st none (s.coreFn s.core) va false)
    | .inl _ => .wait s
  else noResult (s.setCore (c.setStr st { m with loops := { count := count, index := 0, body := m.pc + 8 } :: m.loops }))

/-- `loop` (R105): the specifier `zero` takes its count from the launch record's loop table; a V source gives lane 0
(assumption 9). -/
def execLoop (st : StreamId) (h : Hdr) (o : FL) (s : State) : Host.Outcome State Fault Refusal :=
  runWord (.loop st h o) st h 0 none s fun s =>
    if o.count = 0b1011000 then
      let n := match s.coreInst s.core with | some i => loopTableCount s.core i o.level.toNat | none => 0
      loopAct st o.level n s
    else if st = .V then withV s o.count 1 fun l => loopAct st o.level ((l.headD 0).setWidth 32 : W32).toNat s
    else with32 s st o.count fun v => loopAct st o.level v.toNat s

/-- `endl` (R105). -/
def execEndl (st : StreamId) (h : Hdr) (o : FL) (s : State) : Host.Outcome State Fault Refusal :=
  runWord (.endl st h o) st h 0 none s fun s =>
    let m := s.core.str st
    match m.loops with
    | [] => noResult s
    | e :: l =>
      if e.index + 1 < e.count then
        .done (s.setCore (s.core.setStr st { m with loops := { e with index := e.index + 1 } :: l })) { target := some e.body }
      else noResult (s.setCore (s.core.setStr st { m with loops := l }))

/-- `brk` (R106): a debug hold with BRKEN, otherwise the halting fault SW_TRAP. -/
def execBrk (st : StreamId) (h : Hdr) (o : FI) (s : State) : Host.Outcome State Fault Refusal :=
  runWord (.brk st h o) st h 0 none s fun s =>
    let c := s.core
    if st = .A && c.aPending then .wait s
    else if c.dbg.brkEn then noResult (s.setCore { c with dbg := { c.dbg with brkCode := o.imm, hold := true, held := true, since := s.now } })
    else .fault { stopCode cTRAP with tcode := o.imm.setWidth 32 }

/-- `ldlit` (R50, R107). -/
def execLdlit (st : StreamId) (h : Hdr) (o : FI) (s : State) : Host.Outcome State Fault Refusal :=
  runWord (.ldlit st h o) st h 0 (some 3) s fun s =>
    withCode s st (relPc (s.core.str st).pc o.imm.toInt) fun w =>
      if st = .V then
        vresult s o.d 1 3 (~~~0) ((List.range 64).map fun i => if i % 2 = 0 then w &&& 0xFFFFFFFF else w >>> 32)
      else result s st o.d 2 3 (w.setWidth 128)

/-- A `pool` word is skipped with its pool and occupies no issue slot (R49). -/
def execPool (st : StreamId) (h : Hdr) (o : FI) (s : State) : Host.Outcome State Fault Refusal :=
  .next (if canRun s st && accepted (s.coreService s.core) (.pool st h o) then
      s.setCore (s.core.modStr st fun m => { m with pc := m.pc + 8 * (1 + (o.imm.extractLsb' 0 25).toNat) })
    else if canRun s st then s.setCore (s.core.modStr st fun m => { m with pc := m.pc + 8 }) else s)

/-- `br` (R108). -/
def execBr (st : StreamId) (h : Hdr) (o : FB) (s : State) : Host.Outcome State Fault Refusal :=
  runWord (.br st h o) st h 0 none s fun s =>
    match branchTaken s.core st o with
    | none => .wait s
    | some t => .done s { target := if t then some (relPc (s.core.str st).pc o.off.toInt) else none }

end Sys2Proof.Machine
end

