-- ==== Sys2Proof/Machine/Codec.lean ====
section
/-! DEFINITION. Machine/Codec.lean: the bytes in which a migration's transfer carries a context (R353). The spec gives the
transfer no layout; this one is a DESIGN CHOICE (assumption 24): fields in declaration order, numbers in 8 little-endian bytes,
bit vectors in whole bytes, lists after their length, variants after their number. -/

namespace Sys2Proof.Machine

/-- Taking a value from the front of a list of bytes. -/
abbrev Dec (α : Type) : Type := List Byte → Option (α × List Byte)

/-- A number. -/
def encNat (n : Nat) : List Byte := leBytes 8 n
/-- A number of `n` bytes. -/
def decBytes (n : Nat) : Dec Nat := fun l => if n ≤ l.length then some (leNat (l.take n), l.drop n) else none
/-- A number. -/
def decNat : Dec Nat := decBytes 8
/-- A bit vector. -/
def encBits (w : Nat) (v : BitVec w) : List Byte := leBytes ((w + 7) / 8) v.toNat
/-- A bit vector. -/
def decBits (w : Nat) : Dec (BitVec w) := fun l => (decBytes ((w + 7) / 8) l).map fun r => (BitVec.ofNat w r.1, r.2)
/-- A Bool. -/
def encBool (b : Bool) : List Byte := [if b then 1 else 0]
/-- A Bool. -/
def decBool : Dec Bool := fun l => (decBytes 1 l).map fun r => (r.1 ≠ 0, r.2)
/-- A list, after its length. -/
def encList {α : Type} (f : α → List Byte) (l : List α) : List Byte := encNat l.length ++ l.flatMap f
/-- `n` values. -/
def decMany {α : Type} (f : Dec α) : Nat → Dec (List α)
  | 0, l => some ([], l)
  | n + 1, l =>
    match f l with
    | none => none
    | some (a, l) => (decMany f n l).map fun r => (a :: r.1, r.2)
/-- A list, after its length; a length beyond the bytes left is refused. -/
def decList {α : Type} (f : Dec α) : Dec (List α) := fun l =>
  match decNat l with
  | some (n, r) => if n ≤ r.length then decMany f n r else none
  | none => none
/-- An optional value. -/
def encOption {α : Type} (f : α → List Byte) : Option α → List Byte
  | none => [0]
  | some a => 1 :: f a
/-- An optional value. -/
def decOption {α : Type} (f : Dec α) : Dec (Option α)
  | [] => none
  | b :: l => if b = 0 then some (none, l) else (f l).map fun r => (some r.1, r.2)
/-- A pair. -/
def encPair {α β : Type} (f : α → List Byte) (g : β → List Byte) (p : α × β) : List Byte := f p.1 ++ g p.2
/-- A pair. -/
def decPair {α β : Type} (f : Dec α) (g : Dec β) : Dec (α × β) := fun l =>
  match f l with
  | none => none
  | some (a, l) => (g l).map fun r => ((a, r.1), r.2)
/-- A value through a function. -/
def Dec.map {α β : Type} (f : Dec α) (g : α → β) : Dec β := fun l => (f l).map fun r => (g r.1, r.2)
/-- One value, then another that may depend on it. -/
def Dec.andThen {α β : Type} (f : Dec α) (g : α → Dec β) : Dec β := fun l =>
  match f l with
  | none => none
  | some (a, l) => g a l
/-- A value without bytes. -/
def Dec.give {α : Type} (a : α) : Dec α := fun l => some (a, l)

/-- A CtxSt. -/
def encCtxSt : CtxSt → List Byte
  | .free => [0]
  | .created => [1]
  | .runnable => [2]
  | .running => [3]
  | .switchingOut => [4]
  | .switchedOut => [5]
  | .halted => [6]
  | .migratingOut => [7]
  | .migratingIn => [8]
  | .destroying => [9]

/-- A CtxSt, after its variant. -/
def takeInCtxSt : Nat → Dec CtxSt
  | 0 => Dec.give (CtxSt.free)
  | 1 => Dec.give (CtxSt.created)
  | 2 => Dec.give (CtxSt.runnable)
  | 3 => Dec.give (CtxSt.running)
  | 4 => Dec.give (CtxSt.switchingOut)
  | 5 => Dec.give (CtxSt.switchedOut)
  | 6 => Dec.give (CtxSt.halted)
  | 7 => Dec.give (CtxSt.migratingOut)
  | 8 => Dec.give (CtxSt.migratingIn)
  | _ => Dec.give (CtxSt.destroying)

/-- A CtxSt. -/
def takeCtxSt : Dec CtxSt := Dec.andThen (decBytes 1) takeInCtxSt

/-- A OpSt. -/
def encOpSt : OpSt → List Byte
  | .created => [0]
  | .waiting => [1]
  | .queued => [2]
  | .running => [3]
  | .parked => [4]
  | .held => [5]
  | .complete => [6]
  | .failed => [7]
  | .cancelled => [8]
  | .orphaned => [9]
  | .retired => [10]

/-- A OpSt, after its variant. -/
def takeInOpSt : Nat → Dec OpSt
  | 0 => Dec.give (OpSt.created)
  | 1 => Dec.give (OpSt.waiting)
  | 2 => Dec.give (OpSt.queued)
  | 3 => Dec.give (OpSt.running)
  | 4 => Dec.give (OpSt.parked)
  | 5 => Dec.give (OpSt.held)
  | 6 => Dec.give (OpSt.complete)
  | 7 => Dec.give (OpSt.failed)
  | 8 => Dec.give (OpSt.cancelled)
  | 9 => Dec.give (OpSt.orphaned)
  | _ => Dec.give (OpSt.retired)

/-- A OpSt. -/
def takeOpSt : Dec OpSt := Dec.andThen (decBytes 1) takeInOpSt

/-- A StreamId. -/
def encStreamId : StreamId → List Byte
  | .S => [0]
  | .V => [1]
  | .A => [2]
  | .X => [3]

/-- A StreamId, after its variant. -/
def takeInStreamId : Nat → Dec StreamId
  | 0 => Dec.give (StreamId.S)
  | 1 => Dec.give (StreamId.V)
  | 2 => Dec.give (StreamId.A)
  | _ => Dec.give (StreamId.X)

/-- A StreamId. -/
def takeStreamId : Dec StreamId := Dec.andThen (decBytes 1) takeInStreamId

/-- A InstKey. -/
def encInstKey (v : InstKey) : List Byte :=
  encNat v.ctx ++ encNat v.q ++ encNat v.seq

/-- A InstKey. -/
def takeInstKey : Dec InstKey :=
  Dec.andThen decNat fun ctx_ => Dec.andThen decNat fun q_ => Dec.andThen decNat fun seq_ => 
  Dec.give { ctx := ctx_, q := q_, seq := seq_ }

/-- A Fate. -/
def encFate : Fate → List Byte
  | .undecided => [0]
  | .go => [1]
  | .cancelled h_ => 2 :: ((encBits 32) h_)
  | .failed code_ h_ => 3 :: ((encBits 8) code_ ++ (encBits 32) h_)

/-- A Fate, after its variant. -/
def takeInFate : Nat → Dec Fate
  | 0 => Dec.give (Fate.undecided)
  | 1 => Dec.give (Fate.go)
  | 2 => Dec.andThen (decBits 32) fun h_ => Dec.give (Fate.cancelled h_)
  | _ => Dec.andThen (decBits 8) fun code_ => Dec.andThen (decBits 32) fun h_ => Dec.give (Fate.failed code_ h_)

/-- A Fate. -/
def takeFate : Dec Fate := Dec.andThen (decBytes 1) takeInFate

/-- A MatArgs. -/
def encMatArgs (v : MatArgs) : List Byte :=
  encNat v.ta ++ encNat v.tout ++ encNat v.batch ++ (encBits 64) v.rm ++
  (encBits 256) v.cm ++ (encBits 2) v.rmode ++ (encBits 10) v.slot ++ (encBits 2) v.acc ++
  (encBits 5) v.et ++ (encBits 2) v.ot ++ encBool v.plane ++ (encList (encBits 32)) v.gens ++
  encNat v.core ++ (encList encBool) v.blk ++ (encOption encNat) v.arrived ++ (encOption (encList (encPair encNat (encList (encBits 32))))) v.part

/-- A MatArgs. -/
def takeMatArgs : Dec MatArgs :=
  Dec.andThen decNat fun ta_ => Dec.andThen decNat fun tout_ => Dec.andThen decNat fun batch_ => 
  Dec.andThen (decBits 64) fun rm_ => Dec.andThen (decBits 256) fun cm_ => Dec.andThen (decBits 2) fun rmode_ => 
  Dec.andThen (decBits 10) fun slot_ => Dec.andThen (decBits 2) fun acc_ => Dec.andThen (decBits 5) fun et_ => 
  Dec.andThen (decBits 2) fun ot_ => Dec.andThen decBool fun plane_ => Dec.andThen (decList (decBits 32)) fun gens_ => 
  Dec.andThen decNat fun core_ => Dec.andThen (decList decBool) fun blk_ => Dec.andThen (decOption decNat) fun arrived_ => 
  Dec.andThen (decOption (decList (decPair decNat (decList (decBits 32))))) fun part_ => 
  Dec.give { ta := ta_, tout := tout_, batch := batch_, rm := rm_, cm := cm_, rmode := rmode_, slot := slot_, acc := acc_, et := et_, ot := ot_, plane := plane_, gens := gens_, core := core_, blk := blk_, arrived := arrived_, part := part_ }

/-- A LeasePhase. -/
def encLeasePhase : LeasePhase → List Byte
  | .none => [0]
  | .waiting => [1]
  | .waking => [2]
  | .held => [3]
  | .revoking => [4]
  | .evicting => [5]
  | .ending => [6]

/-- A LeasePhase, after its variant. -/
def takeInLeasePhase : Nat → Dec LeasePhase
  | 0 => Dec.give (LeasePhase.none)
  | 1 => Dec.give (LeasePhase.waiting)
  | 2 => Dec.give (LeasePhase.waking)
  | 3 => Dec.give (LeasePhase.held)
  | 4 => Dec.give (LeasePhase.revoking)
  | 5 => Dec.give (LeasePhase.evicting)
  | _ => Dec.give (LeasePhase.ending)

/-- A LeasePhase. -/
def takeLeasePhase : Dec LeasePhase := Dec.andThen (decBytes 1) takeInLeasePhase

/-- A OpBody. -/
def encOpBody : OpBody → List Byte
  | .wlease prio_ => 0 :: (encNat prio_)
  | .wload a_ => 1 :: ((encBits 64) a_)
  | .dot transposed_ m_ => 2 :: (encBool transposed_ ++ encMatArgs m_)
  | .pairDot transposed_ ptag_ seq_ lo_ hi_ => 3 :: (encBool transposed_ ++ encNat ptag_ ++ encNat seq_ ++ (encOption encMatArgs) lo_ ++ (encOption encMatArgs) hi_)
  | .wouter m_ => 4 :: (encMatArgs m_)
  | .wdrainMem a_ => 5 :: ((encBits 64) a_)
  | .wdrainColl h_ => 6 :: ((encBits 32) h_)
  | .copy first_ n_ stage_ br_ bc_ => 7 :: (encNat first_ ++ encNat n_ ++ encNat stage_ ++ (encBits 32) br_ ++ (encBits 32) bc_)
  | .lease kind_ try__ phase_ engine_ endAt_ cancel_ => 8 :: (encNat kind_ ++ encBool try__ ++ encLeasePhase phase_ ++ (encOption encNat) engine_ ++ (encOption encNat) endAt_ ++ encBool cancel_)
  | .engine op_ lease_ desc_ res_ => 9 :: ((encBits 8) op_ ++ (encBits 32) lease_ ++ (encBits 64) desc_ ++ encBool res_)
  | .launch q_ node_ => 10 :: ((encBits 32) q_ ++ (encBits 64) node_)
  | .bdot desc_ => 11 :: ((encBits 64) desc_)
  | .glaze shard_ step_ => 12 :: ((encBits 32) shard_ ++ (encBits 32) step_)
  | .join hs_ => 13 :: ((encList (encBits 32)) hs_)

/-- A OpBody, after its variant. -/
def takeInOpBody : Nat → Dec OpBody
  | 0 => Dec.andThen decNat fun prio_ => Dec.give (OpBody.wlease prio_)
  | 1 => Dec.andThen (decBits 64) fun a_ => Dec.give (OpBody.wload a_)
  | 2 => Dec.andThen decBool fun transposed_ => Dec.andThen takeMatArgs fun m_ => Dec.give (OpBody.dot transposed_ m_)
  | 3 => Dec.andThen decBool fun transposed_ => Dec.andThen decNat fun ptag_ => Dec.andThen decNat fun seq_ => Dec.andThen (decOption takeMatArgs) fun lo_ => Dec.andThen (decOption takeMatArgs) fun hi_ => Dec.give (OpBody.pairDot transposed_ ptag_ seq_ lo_ hi_)
  | 4 => Dec.andThen takeMatArgs fun m_ => Dec.give (OpBody.wouter m_)
  | 5 => Dec.andThen (decBits 64) fun a_ => Dec.give (OpBody.wdrainMem a_)
  | 6 => Dec.andThen (decBits 32) fun h_ => Dec.give (OpBody.wdrainColl h_)
  | 7 => Dec.andThen decNat fun first_ => Dec.andThen decNat fun n_ => Dec.andThen decNat fun stage_ => Dec.andThen (decBits 32) fun br_ => Dec.andThen (decBits 32) fun bc_ => Dec.give (OpBody.copy first_ n_ stage_ br_ bc_)
  | 8 => Dec.andThen decNat fun kind_ => Dec.andThen decBool fun try__ => Dec.andThen takeLeasePhase fun phase_ => Dec.andThen (decOption decNat) fun engine_ => Dec.andThen (decOption decNat) fun endAt_ => Dec.andThen decBool fun cancel_ => Dec.give (OpBody.lease kind_ try__ phase_ engine_ endAt_ cancel_)
  | 9 => Dec.andThen (decBits 8) fun op_ => Dec.andThen (decBits 32) fun lease_ => Dec.andThen (decBits 64) fun desc_ => Dec.andThen decBool fun res_ => Dec.give (OpBody.engine op_ lease_ desc_ res_)
  | 10 => Dec.andThen (decBits 32) fun q_ => Dec.andThen (decBits 64) fun node_ => Dec.give (OpBody.launch q_ node_)
  | 11 => Dec.andThen (decBits 64) fun desc_ => Dec.give (OpBody.bdot desc_)
  | 12 => Dec.andThen (decBits 32) fun shard_ => Dec.andThen (decBits 32) fun step_ => Dec.give (OpBody.glaze shard_ step_)
  | _ => Dec.andThen (decList (decBits 32)) fun hs_ => Dec.give (OpBody.join hs_)

/-- A OpBody. -/
def takeOpBody : Dec OpBody := Dec.andThen (decBytes 1) takeInOpBody

/-- A Op. -/
def encOp (v : Op) : List Byte :=
  (encBits 32) v.handle ++ encOpSt v.st ++ (encBits 8) v.code ++ (encBits 16) v.engine ++
  (encBits 32) v.index ++ (encBits 32) v.time ++ (encBits 64) v.addr ++ (encBits 32) v.deliv ++
  (encBits 32) v.zfill ++ encBool v.attached ++ encNat v.core ++ encStreamId v.stream ++
  encInstKey v.node ++ encNat v.prio ++ encNat v.aged ++ encNat v.since ++
  encNat v.order ++ (encOption (encBits 32)) v.after ++ encFate v.fate ++ encNat v.issued ++
  encBool v.released ++ encBool v.adopted ++ encBool v.cancel ++ encNat v.entry ++
  (encBits 64) v.bitmap ++ (encOption encNat) v.collNo ++ (encList (encPair encNat (encList (encBits 8)))) v.inputs ++ (encList (encPair encNat encNat)) v.recv ++
  (encList encNat) v.notices ++ (encList (encBits 8)) v.got ++ encNat v.next ++ encOpBody v.body

/-- A Op. -/
def takeOp : Dec Op :=
  Dec.andThen (decBits 32) fun handle_ => Dec.andThen takeOpSt fun st_ => Dec.andThen (decBits 8) fun code_ => 
  Dec.andThen (decBits 16) fun engine_ => Dec.andThen (decBits 32) fun index_ => Dec.andThen (decBits 32) fun time_ => 
  Dec.andThen (decBits 64) fun addr_ => Dec.andThen (decBits 32) fun deliv_ => Dec.andThen (decBits 32) fun zfill_ => 
  Dec.andThen decBool fun attached_ => Dec.andThen decNat fun core_ => Dec.andThen takeStreamId fun stream_ => 
  Dec.andThen takeInstKey fun node_ => Dec.andThen decNat fun prio_ => Dec.andThen decNat fun aged_ => 
  Dec.andThen decNat fun since_ => Dec.andThen decNat fun order_ => Dec.andThen (decOption (decBits 32)) fun after_ => 
  Dec.andThen takeFate fun fate_ => Dec.andThen decNat fun issued_ => Dec.andThen decBool fun released_ => 
  Dec.andThen decBool fun adopted_ => Dec.andThen decBool fun cancel_ => Dec.andThen decNat fun entry_ => 
  Dec.andThen (decBits 64) fun bitmap_ => Dec.andThen (decOption decNat) fun collNo_ => Dec.andThen (decList (decPair decNat (decList (decBits 8)))) fun inputs_ => 
  Dec.andThen (decList (decPair decNat decNat)) fun recv_ => Dec.andThen (decList decNat) fun notices_ => Dec.andThen (decList (decBits 8)) fun got_ => 
  Dec.andThen decNat fun next_ => Dec.andThen takeOpBody fun body_ => 
  Dec.give { handle := handle_, st := st_, code := code_, engine := engine_, index := index_, time := time_, addr := addr_, deliv := deliv_, zfill := zfill_, attached := attached_, core := core_, stream := stream_, node := node_, prio := prio_, aged := aged_, since := since_, order := order_, after := after_, fate := fate_, issued := issued_, released := released_, adopted := adopted_, cancel := cancel_, entry := entry_, bitmap := bitmap_, collNo := collNo_, inputs := inputs_, recv := recv_, notices := notices_, got := got_, next := next_, body := body_ }

/-- A Region. -/
def encRegion (v : Region) : List Byte :=
  (encBits 64) v.base ++ (encBits 32) v.lines ++ (encBits 2) v.scope ++ encBool v.kind ++
  (encBits 64) v.sync ++ (encBits 16) v.sdev ++ (encBits 8) v.svf

/-- A Region. -/
def takeRegion : Dec Region :=
  Dec.andThen (decBits 64) fun base_ => Dec.andThen (decBits 32) fun lines_ => Dec.andThen (decBits 2) fun scope_ => 
  Dec.andThen decBool fun kind_ => Dec.andThen (decBits 64) fun sync_ => Dec.andThen (decBits 16) fun sdev_ => 
  Dec.andThen (decBits 8) fun svf_ => 
  Dec.give { base := base_, lines := lines_, scope := scope_, kind := kind_, sync := sync_, sdev := sdev_, svf := svf_ }

/-- A BarSt. -/
def encBarSt : BarSt → List Byte
  | .idle => [0]
  | .openSt => [1]
  | .complete => [2]
  | .broken => [3]

/-- A BarSt, after its variant. -/
def takeInBarSt : Nat → Dec BarSt
  | 0 => Dec.give (BarSt.idle)
  | 1 => Dec.give (BarSt.openSt)
  | 2 => Dec.give (BarSt.complete)
  | _ => Dec.give (BarSt.broken)

/-- A BarSt. -/
def takeBarSt : Dec BarSt := Dec.andThen (decBytes 1) takeInBarSt

/-- A Barrier. -/
def encBarrier (v : Barrier) : List Byte :=
  (encBits 16) v.gen ++ (encBits 8) v.epoch ++ (encBits 2) v.scope ++ encBarSt v.st ++
  (encBits 24) v.expect ++ (encBits 24) v.arrived ++ (encBits 16) v.anchor ++ (encBits 32) v.pgid ++
  (encBits 16) v.homedev ++ (encBits 8) v.brkcode ++ encBool v.mirror

/-- A Barrier. -/
def takeBarrier : Dec Barrier :=
  Dec.andThen (decBits 16) fun gen_ => Dec.andThen (decBits 8) fun epoch_ => Dec.andThen (decBits 2) fun scope_ => 
  Dec.andThen takeBarSt fun st_ => Dec.andThen (decBits 24) fun expect_ => Dec.andThen (decBits 24) fun arrived_ => 
  Dec.andThen (decBits 16) fun anchor_ => Dec.andThen (decBits 32) fun pgid_ => Dec.andThen (decBits 16) fun homedev_ => 
  Dec.andThen (decBits 8) fun brkcode_ => Dec.andThen decBool fun mirror_ => 
  Dec.give { gen := gen_, epoch := epoch_, scope := scope_, st := st_, expect := expect_, arrived := arrived_, anchor := anchor_, pgid := pgid_, homedev := homedev_, brkcode := brkcode_, mirror := mirror_ }

/-- A QueueSt. -/
def encQueueSt : QueueSt → List Byte
  | .empty => [0]
  | .active => [1]
  | .running => [2]
  | .switchedOut => [3]
  | .suspended => [4]
  | .draining => [5]
  | .dead => [6]

/-- A QueueSt, after its variant. -/
def takeInQueueSt : Nat → Dec QueueSt
  | 0 => Dec.give (QueueSt.empty)
  | 1 => Dec.give (QueueSt.active)
  | 2 => Dec.give (QueueSt.running)
  | 3 => Dec.give (QueueSt.switchedOut)
  | 4 => Dec.give (QueueSt.suspended)
  | 5 => Dec.give (QueueSt.draining)
  | _ => Dec.give (QueueSt.dead)

/-- A QueueSt. -/
def takeQueueSt : Dec QueueSt := Dec.andThen (decBytes 1) takeInQueueSt

/-- A NodeSt. -/
def encNodeSt : NodeSt → List Byte
  | .pending => [0]
  | .ready => [1]
  | .running => [2]
  | .complete => [3]
  | .failed => [4]
  | .skipped => [5]

/-- A NodeSt, after its variant. -/
def takeInNodeSt : Nat → Dec NodeSt
  | 0 => Dec.give (NodeSt.pending)
  | 1 => Dec.give (NodeSt.ready)
  | 2 => Dec.give (NodeSt.running)
  | 3 => Dec.give (NodeSt.complete)
  | 4 => Dec.give (NodeSt.failed)
  | _ => Dec.give (NodeSt.skipped)

/-- A NodeSt. -/
def takeNodeSt : Dec NodeSt := Dec.andThen (decBytes 1) takeInNodeSt

/-- A Node. -/
def encNode (v : Node) : List Byte :=
  (encList (encBits 8)) v.bytes ++ encNodeSt v.st ++ (encBits 8) v.code ++ (encBits 32) v.foff ++
  encNat v.remaining ++ encNat v.readyAt ++ encNat v.aged ++ (encOption encBool) v.chosen ++
  (encOption (encBits 8)) v.fault ++ encBool v.done ++ (encOption encNat) v.engine ++ encNat v.pieces ++
  (encOption (encBits 32)) v.waitsPg

/-- A Node. -/
def takeNode : Dec Node :=
  Dec.andThen (decList (decBits 8)) fun bytes_ => Dec.andThen takeNodeSt fun st_ => Dec.andThen (decBits 8) fun code_ => 
  Dec.andThen (decBits 32) fun foff_ => Dec.andThen decNat fun remaining_ => Dec.andThen decNat fun readyAt_ => 
  Dec.andThen decNat fun aged_ => Dec.andThen (decOption decBool) fun chosen_ => Dec.andThen (decOption (decBits 8)) fun fault_ => 
  Dec.andThen decBool fun done_ => Dec.andThen (decOption decNat) fun engine_ => Dec.andThen decNat fun pieces_ => 
  Dec.andThen (decOption (decBits 32)) fun waitsPg_ => 
  Dec.give { bytes := bytes_, st := st_, code := code_, foff := foff_, remaining := remaining_, readyAt := readyAt_, aged := aged_, chosen := chosen_, fault := fault_, done := done_, engine := engine_, pieces := pieces_, waitsPg := waitsPg_ }

/-- A Queue. -/
def encQueue (v : Queue) : List Byte :=
  encQueueSt v.st ++ (encBits 3) v.prio ++ encBool v.devapp ++ encBool v.enable ++
  (encBits 32) v.tail ++ (encBits 32) v.prog ++ encBool v.nfail ++ encBool v.xdec ++
  encBool v.badtail ++ (encBits 64) v.base ++ encNat v.log2 ++ (encList (encPair encNat encNode)) v.nodes ++
  (encList (encPair encNat encNat)) v.heldDecs ++ (encOption (encBits 32)) v.shadow ++ (encOption (encBits 32)) v.frozen ++ encBool v.markSuspend ++
  encBool v.markDrain

/-- A Queue. -/
def takeQueue : Dec Queue :=
  Dec.andThen takeQueueSt fun st_ => Dec.andThen (decBits 3) fun prio_ => Dec.andThen decBool fun devapp_ => 
  Dec.andThen decBool fun enable_ => Dec.andThen (decBits 32) fun tail_ => Dec.andThen (decBits 32) fun prog_ => 
  Dec.andThen decBool fun nfail_ => Dec.andThen decBool fun xdec_ => Dec.andThen decBool fun badtail_ => 
  Dec.andThen (decBits 64) fun base_ => Dec.andThen decNat fun log2_ => Dec.andThen (decList (decPair decNat takeNode)) fun nodes_ => 
  Dec.andThen (decList (decPair decNat decNat)) fun heldDecs_ => Dec.andThen (decOption (decBits 32)) fun shadow_ => Dec.andThen (decOption (decBits 32)) fun frozen_ => 
  Dec.andThen decBool fun markSuspend_ => Dec.andThen decBool fun markDrain_ => 
  Dec.give { st := st_, prio := prio_, devapp := devapp_, enable := enable_, tail := tail_, prog := prog_, nfail := nfail_, xdec := xdec_, badtail := badtail_, base := base_, log2 := log2_, nodes := nodes_, heldDecs := heldDecs_, shadow := shadow_, frozen := frozen_, markSuspend := markSuspend_, markDrain := markDrain_ }

/-- A InstSt. -/
def encInstSt : InstSt → List Byte
  | .admitted => [0]
  | .resident => [1]
  | .running => [2]
  | .draining => [3]

/-- A InstSt, after its variant. -/
def takeInInstSt : Nat → Dec InstSt
  | 0 => Dec.give (InstSt.admitted)
  | 1 => Dec.give (InstSt.resident)
  | 2 => Dec.give (InstSt.running)
  | _ => Dec.give (InstSt.draining)

/-- A InstSt. -/
def takeInstSt : Dec InstSt := Dec.andThen (decBytes 1) takeInInstSt

/-- A PgSt. -/
def encPgSt : PgSt → List Byte
  | .forming => [0]
  | .ready => [1]
  | .degraded => [2]
  | .dissolved => [3]

/-- A PgSt, after its variant. -/
def takeInPgSt : Nat → Dec PgSt
  | 0 => Dec.give (PgSt.forming)
  | 1 => Dec.give (PgSt.ready)
  | 2 => Dec.give (PgSt.degraded)
  | _ => Dec.give (PgSt.dissolved)

/-- A PgSt. -/
def takePgSt : Dec PgSt := Dec.andThen (decBytes 1) takeInPgSt

/-- A PgTable. -/
def encPgTable (v : PgTable) : List Byte :=
  encPgSt v.st ++ (encBits 32) v.gen ++ (encBits 32) v.sealW ++ (encList encNat) v.dims ++
  (encBits 3) v.wrap ++ (encList (encPair (encBits 15) (encBits 8))) v.members ++ encNat v.rank ++ encNat v.since ++
  encNat v.nextColl ++ (encList (encBits 64)) v.vas

/-- A PgTable. -/
def takePgTable : Dec PgTable :=
  Dec.andThen takePgSt fun st_ => Dec.andThen (decBits 32) fun gen_ => Dec.andThen (decBits 32) fun sealW_ => 
  Dec.andThen (decList decNat) fun dims_ => Dec.andThen (decBits 3) fun wrap_ => Dec.andThen (decList (decPair (decBits 15) (decBits 8))) fun members_ => 
  Dec.andThen decNat fun rank_ => Dec.andThen decNat fun since_ => Dec.andThen decNat fun nextColl_ => 
  Dec.andThen (decList (decBits 64)) fun vas_ => 
  Dec.give { st := st_, gen := gen_, sealW := sealW_, dims := dims_, wrap := wrap_, members := members_, rank := rank_, since := since_, nextColl := nextColl_, vas := vas_ }

/-- A Inst. -/
def encInst (v : Inst) : List Byte :=
  encInstSt v.st ++ (encList (encBits 8)) v.launch ++ (encList (encBits 8)) v.header ++ (encList encNat) v.cores ++
  (encList (encBits 8)) v.records ++ (encList (encBits 8)) v.sched ++ (encOption encPgTable) v.pg ++ (encList (encBits 64)) v.frames ++
  (encList encNat) v.startedCores ++ (encBits 32) v.number

/-- A Inst. -/
def takeInst : Dec Inst :=
  Dec.andThen takeInstSt fun st_ => Dec.andThen (decList (decBits 8)) fun launch_ => Dec.andThen (decList (decBits 8)) fun header_ => 
  Dec.andThen (decList decNat) fun cores_ => Dec.andThen (decList (decBits 8)) fun records_ => Dec.andThen (decList (decBits 8)) fun sched_ => 
  Dec.andThen (decOption takePgTable) fun pg_ => Dec.andThen (decList (decBits 64)) fun frames_ => Dec.andThen (decList decNat) fun startedCores_ => 
  Dec.andThen (decBits 32) fun number_ => 
  Dec.give { st := st_, launch := launch_, header := header_, cores := cores_, records := records_, sched := sched_, pg := pg_, frames := frames_, startedCores := startedCores_, number := number_ }

/-- A Halt. -/
def encHalt (v : Halt) : List Byte :=
  (encBits 8) v.code ++ (encBits 16) v.first ++ encNat v.since ++ (encList encNat) v.running ++
  (encList encNat) v.crossed ++ encBool v.broke

/-- A Halt. -/
def takeHalt : Dec Halt :=
  Dec.andThen (decBits 8) fun code_ => Dec.andThen (decBits 16) fun first_ => Dec.andThen decNat fun since_ => 
  Dec.andThen (decList decNat) fun running_ => Dec.andThen (decList decNat) fun crossed_ => Dec.andThen decBool fun broke_ => 
  Dec.give { code := code_, first := first_, since := since_, running := running_, crossed := crossed_, broke := broke_ }

/-- A StreamSt. -/
def encStreamSt : StreamSt → List Byte
  | .idle => [0]
  | .aligned => [1]
  | .frozen => [2]
  | .blocked => [3]
  | .stopped => [4]
  | .halted => [5]

/-- A StreamSt, after its variant. -/
def takeInStreamSt : Nat → Dec StreamSt
  | 0 => Dec.give (StreamSt.idle)
  | 1 => Dec.give (StreamSt.aligned)
  | 2 => Dec.give (StreamSt.frozen)
  | 3 => Dec.give (StreamSt.blocked)
  | 4 => Dec.give (StreamSt.stopped)
  | _ => Dec.give (StreamSt.halted)

/-- A StreamSt. -/
def takeStreamSt : Dec StreamSt := Dec.andThen (decBytes 1) takeInStreamSt

/-- A QVal. -/
def encQVal : QVal → List Byte
  | .scalar v_ => 0 :: ((encBits 128) v_)
  | .lanes v_ => 1 :: ((encList (encBits 64)) v_)

/-- A QVal, after its variant. -/
def takeInQVal : Nat → Dec QVal
  | 0 => Dec.andThen (decBits 128) fun v_ => Dec.give (QVal.scalar v_)
  | _ => Dec.andThen (decList (decBits 64)) fun v_ => Dec.give (QVal.lanes v_)

/-- A QVal. -/
def takeQVal : Dec QVal := Dec.andThen (decBytes 1) takeInQVal

/-- A LoopEntry. -/
def encLoopEntry (v : LoopEntry) : List Byte :=
  encNat v.count ++ encNat v.index ++ encNat v.body

/-- A LoopEntry. -/
def takeLoopEntry : Dec LoopEntry :=
  Dec.andThen decNat fun count_ => Dec.andThen decNat fun index_ => Dec.andThen decNat fun body_ => 
  Dec.give { count := count_, index := index_, body := body_ }

/-- A StopInfo. -/
def encStopInfo (v : StopInfo) : List Byte :=
  (encBits 8) v.code ++ (encBits 32) v.index ++ (encBits 64) v.addr ++ (encBits 32) v.tcode

/-- A StopInfo. -/
def takeStopInfo : Dec StopInfo :=
  Dec.andThen (decBits 8) fun code_ => Dec.andThen (decBits 32) fun index_ => Dec.andThen (decBits 64) fun addr_ => 
  Dec.andThen (decBits 32) fun tcode_ => 
  Dec.give { code := code_, index := index_, addr := addr_, tcode := tcode_ }

/-- A Stream. -/
def encStream (v : Stream) : List Byte :=
  encStreamSt v.st ++ encStreamSt v.before ++ encNat v.pc ++ encNat v.last ++
  (encOption encNat) v.atAlign ++ (encList encQVal) v.rq ++ (encList encLoopEntry) v.loops ++ (encOption encStopInfo) v.fault ++
  (encList (encPair encNat (encBits 64))) v.cache ++ (encOption encNat) v.wants

/-- A Stream. -/
def takeStream : Dec Stream :=
  Dec.andThen takeStreamSt fun st_ => Dec.andThen takeStreamSt fun before_ => Dec.andThen decNat fun pc_ => 
  Dec.andThen decNat fun last_ => Dec.andThen (decOption decNat) fun atAlign_ => Dec.andThen (decList takeQVal) fun rq_ => 
  Dec.andThen (decList takeLoopEntry) fun loops_ => Dec.andThen (decOption takeStopInfo) fun fault_ => Dec.andThen (decList (decPair decNat (decBits 64))) fun cache_ => 
  Dec.andThen (decOption decNat) fun wants_ => 
  Dec.give { st := st_, before := before_, pc := pc_, last := last_, atAlign := atAlign_, rq := rq_, loops := loops_, fault := fault_, cache := cache_, wants := wants_ }

/-- A Reg. -/
def encReg (v : Reg) : List Byte :=
  (encBits 32) v.val ++ encBool v.valid

/-- A Reg. -/
def takeReg : Dec Reg :=
  Dec.andThen (decBits 32) fun val_ => Dec.andThen decBool fun valid_ => 
  Dec.give { val := val_, valid := valid_ }

/-- A VReg. -/
def encVReg (v : VReg) : List Byte :=
  (encList (encBits 32)) v.lanes ++ encBool v.valid

/-- A VReg. -/
def takeVReg : Dec VReg :=
  Dec.andThen (decList (decBits 32)) fun lanes_ => Dec.andThen decBool fun valid_ => 
  Dec.give { lanes := lanes_, valid := valid_ }

/-- A OqElem. -/
def encOqElem (v : OqElem) : List Byte :=
  (encList (encBits 8)) v.bytes ++ encBool v.filled ++ encBool v.fresh

/-- A OqElem. -/
def takeOqElem : Dec OqElem :=
  Dec.andThen (decList (decBits 8)) fun bytes_ => Dec.andThen decBool fun filled_ => Dec.andThen decBool fun fresh_ => 
  Dec.give { bytes := bytes_, filled := filled_, fresh := fresh_ }

/-- A Dest. -/
def encDest : Dest → List Byte
  | .none => [0]
  | .named n_ regs_ => 1 :: (encNat n_ ++ encNat regs_)
  | .pred n_ => 2 :: (encNat n_)
  | .apred n_ => 3 :: (encNat n_)
  | .vec n_ wide_ mask_ => 4 :: (encNat n_ ++ encBool wide_ ++ (encBits 64) mask_)
  | .vpred n_ mask_ => 5 :: (encNat n_ ++ (encBits 64) mask_)
  | .ctl reg_ => 6 :: (encNat reg_)
  | .sys reg_ => 7 :: (encNat reg_)
  | .rowMask n_ => 8 :: (encNat n_)
  | .colMask n_ v_ => 9 :: (encNat n_ ++ (encBits 256) v_)
  | .opq q_ => 10 :: (encNat q_)

/-- A Dest, after its variant. -/
def takeInDest : Nat → Dec Dest
  | 0 => Dec.give (Dest.none)
  | 1 => Dec.andThen decNat fun n_ => Dec.andThen decNat fun regs_ => Dec.give (Dest.named n_ regs_)
  | 2 => Dec.andThen decNat fun n_ => Dec.give (Dest.pred n_)
  | 3 => Dec.andThen decNat fun n_ => Dec.give (Dest.apred n_)
  | 4 => Dec.andThen decNat fun n_ => Dec.andThen decBool fun wide_ => Dec.andThen (decBits 64) fun mask_ => Dec.give (Dest.vec n_ wide_ mask_)
  | 5 => Dec.andThen decNat fun n_ => Dec.andThen (decBits 64) fun mask_ => Dec.give (Dest.vpred n_ mask_)
  | 6 => Dec.andThen decNat fun reg_ => Dec.give (Dest.ctl reg_)
  | 7 => Dec.andThen decNat fun reg_ => Dec.give (Dest.sys reg_)
  | 8 => Dec.andThen decNat fun n_ => Dec.give (Dest.rowMask n_)
  | 9 => Dec.andThen decNat fun n_ => Dec.andThen (decBits 256) fun v_ => Dec.give (Dest.colMask n_ v_)
  | _ => Dec.andThen decNat fun q_ => Dec.give (Dest.opq q_)

/-- A Dest. -/
def takeDest : Dec Dest := Dec.andThen (decBytes 1) takeInDest

/-- A AccKind. -/
def encAccKind : AccKind → List Byte
  | .none => [0]
  | .plain => [1]
  | .acq => [2]

/-- A AccKind, after its variant. -/
def takeInAccKind : Nat → Dec AccKind
  | 0 => Dec.give (AccKind.none)
  | 1 => Dec.give (AccKind.plain)
  | _ => Dec.give (AccKind.acq)

/-- A AccKind. -/
def takeAccKind : Dec AccKind := Dec.andThen (decBytes 1) takeInAccKind

/-- A Access. -/
def encAccess : Access → List Byte
  | .load sp_ base_ va_ n_ bypass_ acq_ => 0 :: ((encBits 2) sp_ ++ (encBits 128) base_ ++ (encBits 64) va_ ++ encNat n_ ++ encBool bypass_ ++ encBool acq_)
  | .store sp_ base_ va_ bytes_ sq_ => 1 :: ((encBits 2) sp_ ++ (encBits 128) base_ ++ (encBits 64) va_ ++ (encList (encBits 8)) bytes_ ++ (encOption encNat) sq_)
  | .atomic sp_ base_ va_ op_ t_ b_ c_ => 2 :: ((encBits 2) sp_ ++ (encBits 128) base_ ++ (encBits 64) va_ ++ encNat op_ ++ (encBits 4) t_ ++ (encBits 64) b_ ++ (encBits 64) c_)
  | .failed f_ => 3 :: (encStopInfo f_)

/-- A Access, after its variant. -/
def takeInAccess : Nat → Dec Access
  | 0 => Dec.andThen (decBits 2) fun sp_ => Dec.andThen (decBits 128) fun base_ => Dec.andThen (decBits 64) fun va_ => Dec.andThen decNat fun n_ => Dec.andThen decBool fun bypass_ => Dec.andThen decBool fun acq_ => Dec.give (Access.load sp_ base_ va_ n_ bypass_ acq_)
  | 1 => Dec.andThen (decBits 2) fun sp_ => Dec.andThen (decBits 128) fun base_ => Dec.andThen (decBits 64) fun va_ => Dec.andThen (decList (decBits 8)) fun bytes_ => Dec.andThen (decOption decNat) fun sq_ => Dec.give (Access.store sp_ base_ va_ bytes_ sq_)
  | 2 => Dec.andThen (decBits 2) fun sp_ => Dec.andThen (decBits 128) fun base_ => Dec.andThen (decBits 64) fun va_ => Dec.andThen decNat fun op_ => Dec.andThen (decBits 4) fun t_ => Dec.andThen (decBits 64) fun b_ => Dec.andThen (decBits 64) fun c_ => Dec.give (Access.atomic sp_ base_ va_ op_ t_ b_ c_)
  | _ => Dec.andThen takeStopInfo fun f_ => Dec.give (Access.failed f_)

/-- A Access. -/
def takeAccess : Dec Access := Dec.andThen (decBytes 1) takeInAccess

/-- A InFlight. -/
def encInFlight (v : InFlight) : List Byte :=
  encStreamId v.stream ++ (encOption encNat) v.due ++ encNat v.seq ++ encNat v.pc ++
  encBool v.enters ++ encQVal v.val ++ encDest v.dest ++ (encBits 3) v.tokens ++
  (encOption (encBits 64)) v.fab ++ encAccKind v.kind ++ (encOption encAccess) v.acc ++ (encOption encAccess) v.asked ++
  (encBits 3) v.pops ++ (encList encLoopEntry) v.loops

/-- A InFlight. -/
def takeInFlight : Dec InFlight :=
  Dec.andThen takeStreamId fun stream_ => Dec.andThen (decOption decNat) fun due_ => Dec.andThen decNat fun seq_ => 
  Dec.andThen decNat fun pc_ => Dec.andThen decBool fun enters_ => Dec.andThen takeQVal fun val_ => 
  Dec.andThen takeDest fun dest_ => Dec.andThen (decBits 3) fun tokens_ => Dec.andThen (decOption (decBits 64)) fun fab_ => 
  Dec.andThen takeAccKind fun kind_ => Dec.andThen (decOption takeAccess) fun acc_ => Dec.andThen (decOption takeAccess) fun asked_ => 
  Dec.andThen (decBits 3) fun pops_ => Dec.andThen (decList takeLoopEntry) fun loops_ => 
  Dec.give { stream := stream_, due := due_, seq := seq_, pc := pc_, enters := enters_, val := val_, dest := dest_, tokens := tokens_, fab := fab_, kind := kind_, acc := acc_, asked := asked_, pops := pops_, loops := loops_ }

/-- A TileTarget. -/
def encTileTarget : TileTarget → List Byte
  | .tile t_ bits_ elems_ scales_ used_ usedScales_ => 0 :: (encNat t_ ++ encNat bits_ ++ (encList (encPair encNat (encBits 32))) elems_ ++ (encList (encPair encNat (encBits 8))) scales_ ++ encNat used_ ++ encNat usedScales_)
  | .spad base_ bytes_ full_ => 1 :: (encNat base_ ++ (encList (encBits 8)) bytes_ ++ encBool full_)

/-- A TileTarget, after its variant. -/
def takeInTileTarget : Nat → Dec TileTarget
  | 0 => Dec.andThen decNat fun t_ => Dec.andThen decNat fun bits_ => Dec.andThen (decList (decPair decNat (decBits 32))) fun elems_ => Dec.andThen (decList (decPair decNat (decBits 8))) fun scales_ => Dec.andThen decNat fun used_ => Dec.andThen decNat fun usedScales_ => Dec.give (TileTarget.tile t_ bits_ elems_ scales_ used_ usedScales_)
  | _ => Dec.andThen decNat fun base_ => Dec.andThen (decList (decBits 8)) fun bytes_ => Dec.andThen decBool fun full_ => Dec.give (TileTarget.spad base_ bytes_ full_)

/-- A TileTarget. -/
def takeTileTarget : Dec TileTarget := Dec.andThen (decBytes 1) takeInTileTarget

/-- A TileWrite. -/
def encTileWrite (v : TileWrite) : List Byte :=
  encStreamId v.stream ++ encNat v.due ++ encTileTarget v.target

/-- A TileWrite. -/
def takeTileWrite : Dec TileWrite :=
  Dec.andThen takeStreamId fun stream_ => Dec.andThen decNat fun due_ => Dec.andThen takeTileTarget fun target_ => 
  Dec.give { stream := stream_, due := due_, target := target_ }

/-- A TShape. -/
def encTShape (v : TShape) : List Byte :=
  encNat v.et ++ encNat v.rows ++ encNat v.cols ++ encBool v.blocked

/-- A TShape. -/
def takeTShape : Dec TShape :=
  Dec.andThen decNat fun et_ => Dec.andThen decNat fun rows_ => Dec.andThen decNat fun cols_ => 
  Dec.andThen decBool fun blocked_ => 
  Dec.give { et := et_, rows := rows_, cols := cols_, blocked := blocked_ }

/-- A TileSeq. -/
def encTileSeq : TileSeq → List Byte
  | .load q_ t_ sh_ rms_ cms_ got_ need_ next_ due_ => 0 :: (encNat q_ ++ encNat t_ ++ encTShape sh_ ++ (encBits 64) rms_ ++ (encBits 256) cms_ ++ (encList (encBits 8)) got_ ++ encNat need_ ++ encNat next_ ++ encNat due_)
  | .store q_ rest_ next_ => 1 :: (encNat q_ ++ (encList (encBits 8)) rest_ ++ encNat next_)

/-- A TileSeq, after its variant. -/
def takeInTileSeq : Nat → Dec TileSeq
  | 0 => Dec.andThen decNat fun q_ => Dec.andThen decNat fun t_ => Dec.andThen takeTShape fun sh_ => Dec.andThen (decBits 64) fun rms_ => Dec.andThen (decBits 256) fun cms_ => Dec.andThen (decList (decBits 8)) fun got_ => Dec.andThen decNat fun need_ => Dec.andThen decNat fun next_ => Dec.andThen decNat fun due_ => Dec.give (TileSeq.load q_ t_ sh_ rms_ cms_ got_ need_ next_ due_)
  | _ => Dec.andThen decNat fun q_ => Dec.andThen (decList (decBits 8)) fun rest_ => Dec.andThen decNat fun next_ => Dec.give (TileSeq.store q_ rest_ next_)

/-- A TileSeq. -/
def takeTileSeq : Dec TileSeq := Dec.andThen (decBytes 1) takeInTileSeq

/-- A Tile. -/
def encTile (v : Tile) : List Byte :=
  (encList (encPair encNat (encBits 8))) v.elems ++ (encList (encPair encNat (encBits 8))) v.scales ++ encBool v.full

/-- A Tile. -/
def takeTile : Dec Tile :=
  Dec.andThen (decList (decPair decNat (decBits 8))) fun elems_ => Dec.andThen (decList (decPair decNat (decBits 8))) fun scales_ => Dec.andThen decBool fun full_ => 
  Dec.give { elems := elems_, scales := scales_, full := full_ }

/-- A Debug. -/
def encDebug (v : Debug) : List Byte :=
  encBool v.stepEv ++ encBool v.brkEn ++ encBool v.dbgHold ++ encBool v.hold ++
  encBool v.held ++ encBool v.stepBusy ++ encBool v.stepABusy ++ encNat v.since ++
  (encBits 26) v.brkCode

/-- A Debug. -/
def takeDebug : Dec Debug :=
  Dec.andThen decBool fun stepEv_ => Dec.andThen decBool fun brkEn_ => Dec.andThen decBool fun dbgHold_ => 
  Dec.andThen decBool fun hold_ => Dec.andThen decBool fun held_ => Dec.andThen decBool fun stepBusy_ => 
  Dec.andThen decBool fun stepABusy_ => Dec.andThen decNat fun since_ => Dec.andThen (decBits 26) fun brkCode_ => 
  Dec.give { stepEv := stepEv_, brkEn := brkEn_, dbgHold := dbgHold_, hold := hold_, held := held_, stepBusy := stepBusy_, stepABusy := stepABusy_, since := since_, brkCode := brkCode_ }

/-- A AskOp. -/
def encAskOp : AskOp → List Byte
  | .gclaim => [0]
  | .barinit => [1]
  | .barrive => [2]
  | .barwait => [3]
  | .bartest => [4]
  | .barleave => [5]
  | .qsignal => [6]
  | .evpost => [7]
  | .glza => [8]

/-- A AskOp, after its variant. -/
def takeInAskOp : Nat → Dec AskOp
  | 0 => Dec.give (AskOp.gclaim)
  | 1 => Dec.give (AskOp.barinit)
  | 2 => Dec.give (AskOp.barrive)
  | 3 => Dec.give (AskOp.barwait)
  | 4 => Dec.give (AskOp.bartest)
  | 5 => Dec.give (AskOp.barleave)
  | 6 => Dec.give (AskOp.qsignal)
  | 7 => Dec.give (AskOp.evpost)
  | _ => Dec.give (AskOp.glza)

/-- A AskOp. -/
def takeAskOp : Dec AskOp := Dec.andThen (decBytes 1) takeInAskOp

/-- A Ask. -/
def encAsk (v : Ask) : List Byte :=
  encAskOp v.op ++ (encBits 32) v.a ++ (encBits 64) v.b ++ (encBits 32) v.c ++
  (encBits 2) v.m

/-- A Ask. -/
def takeAsk : Dec Ask :=
  Dec.andThen takeAskOp fun op_ => Dec.andThen (decBits 32) fun a_ => Dec.andThen (decBits 64) fun b_ => 
  Dec.andThen (decBits 32) fun c_ => Dec.andThen (decBits 2) fun m_ => 
  Dec.give { op := op_, a := a_, b := b_, c := c_, m := m_ }

/-- A Request. -/
def encRequest : Request → List Byte
  | .none => [0]
  | .sent k_ => 1 :: (encAsk k_)
  | .applied k_ => 2 :: (encAsk k_)
  | .replied value_ => 3 :: ((encBits 64) value_)
  | .failed code_ index_ addr_ => 4 :: ((encBits 8) code_ ++ (encBits 32) index_ ++ (encBits 64) addr_)

/-- A Request, after its variant. -/
def takeInRequest : Nat → Dec Request
  | 0 => Dec.give (Request.none)
  | 1 => Dec.andThen takeAsk fun k_ => Dec.give (Request.sent k_)
  | 2 => Dec.andThen takeAsk fun k_ => Dec.give (Request.applied k_)
  | 3 => Dec.andThen (decBits 64) fun value_ => Dec.give (Request.replied value_)
  | _ => Dec.andThen (decBits 8) fun code_ => Dec.andThen (decBits 32) fun index_ => Dec.andThen (decBits 64) fun addr_ => Dec.give (Request.failed code_ index_ addr_)

/-- A Request. -/
def takeRequest : Dec Request := Dec.andThen (decBytes 1) takeInRequest

/-- A LockSt. -/
def encLockSt : LockSt → List Byte
  | .none => [0]
  | .waiting => [1]
  | .granted seq_ => 2 :: ((encBits 32) seq_)

/-- A LockSt, after its variant. -/
def takeInLockSt : Nat → Dec LockSt
  | 0 => Dec.give (LockSt.none)
  | 1 => Dec.give (LockSt.waiting)
  | _ => Dec.andThen (decBits 32) fun seq_ => Dec.give (LockSt.granted seq_)

/-- A LockSt. -/
def takeLockSt : Dec LockSt := Dec.andThen (decBytes 1) takeInLockSt

/-- A OWait. -/
def encOWait : OWait → List Byte
  | .none => [0]
  | .waiting h_ consume_ => 1 :: ((encBits 32) h_ ++ encBool consume_)
  | .got status_ => 2 :: ((encBits 32) status_)

/-- A OWait, after its variant. -/
def takeInOWait : Nat → Dec OWait
  | 0 => Dec.give (OWait.none)
  | 1 => Dec.andThen (decBits 32) fun h_ => Dec.andThen decBool fun consume_ => Dec.give (OWait.waiting h_ consume_)
  | _ => Dec.andThen (decBits 32) fun status_ => Dec.give (OWait.got status_)

/-- A OWait. -/
def takeOWait : Dec OWait := Dec.andThen (decBytes 1) takeInOWait

/-- A APend. -/
def encAPend : APend → List Byte
  | .none => [0]
  | .moves count_ fn_ vas_ => 1 :: (encNat count_ ++ encNat fn_ ++ (encList (encBits 64)) vas_)
  | .dots count_ chans_ => 2 :: (encNat count_ ++ (encList encNat) chans_)

/-- A APend, after its variant. -/
def takeInAPend : Nat → Dec APend
  | 0 => Dec.give (APend.none)
  | 1 => Dec.andThen decNat fun count_ => Dec.andThen decNat fun fn_ => Dec.andThen (decList (decBits 64)) fun vas_ => Dec.give (APend.moves count_ fn_ vas_)
  | _ => Dec.andThen decNat fun count_ => Dec.andThen (decList decNat) fun chans_ => Dec.give (APend.dots count_ chans_)

/-- A APend. -/
def takeAPend : Dec APend := Dec.andThen (decBytes 1) takeInAPend

/-- A Core. -/
def encCore (v : Core) : List Byte :=
  (encOption encInstKey) v.inst ++ encNat v.gidx ++ encBool v.started ++ encNat v.clk ++
  encStream v.s ++ encStream v.v ++ encStream v.a ++ encStream v.x ++
  (encList (encPair encNat encReg)) v.named ++ (encList (encPair encNat encVReg)) v.vecs ++ (encBits 8) v.preds ++ (encBits 8) v.apreds ++
  (encList (encPair encNat (encBits 64))) v.vpreds ++ (encList (encPair encNat encNat)) v.tokens ++ (encList (encPair encNat (encList encOqElem))) v.oq ++ (encList (encPair encNat (encList (encBits 8)))) v.sq ++
  (encList encInFlight) v.flight ++ (encList encTileWrite) v.tileW ++ (encList encTileSeq) v.seqs ++ encNat v.nextSeq ++
  (encList encNat) v.calls ++ encNat v.trioAligns ++ (encList (encPair encNat (encBits 32))) v.tsh ++ (encBits 32) v.xseed ++
  (encBits 10) v.satslot ++ (encBits 2) v.rmode ++ (encBits 3) v.opprio ++ (encBits 16) v.stage ++
  encBool v.pairBound ++ (encBits 7) v.pairPartner ++ (encList (encBits 32)) v.pmc ++ (encList (encBits 4)) v.pmsel ++
  (encList (encBits 32)) v.vgen ++ (encList (encBits 32)) v.xgen ++ (encList (encPair encNat (encBits 64))) v.rowMask ++ (encList (encPair encNat (encBits 256))) v.colMask ++
  (encList (encPair encNat encTile)) v.tiles ++ (encList (encPair (encBits 32) (encList encNat))) v.busyTiles ++ (encList (encPair encNat (encBits 8))) v.spad ++ (encList (encPair encNat encBool)) v.lines ++
  (encList (encPair encNat (encList (encBits 8)))) v.l1 ++ encDebug v.dbg ++ encRequest v.req ++ encNat v.tTime ++
  encNat v.aTime ++ encLockSt v.lock ++ encOWait v.owait ++ encAPend v.aPend ++
  (encBits 8) v.qwin ++ encBool v.away

/-- A Core. -/
def takeCore : Dec Core :=
  Dec.andThen (decOption takeInstKey) fun inst_ => Dec.andThen decNat fun gidx_ => Dec.andThen decBool fun started_ => 
  Dec.andThen decNat fun clk_ => Dec.andThen takeStream fun s_ => Dec.andThen takeStream fun v_ => 
  Dec.andThen takeStream fun a_ => Dec.andThen takeStream fun x_ => Dec.andThen (decList (decPair decNat takeReg)) fun named_ => 
  Dec.andThen (decList (decPair decNat takeVReg)) fun vecs_ => Dec.andThen (decBits 8) fun preds_ => Dec.andThen (decBits 8) fun apreds_ => 
  Dec.andThen (decList (decPair decNat (decBits 64))) fun vpreds_ => Dec.andThen (decList (decPair decNat decNat)) fun tokens_ => Dec.andThen (decList (decPair decNat (decList takeOqElem))) fun oq_ => 
  Dec.andThen (decList (decPair decNat (decList (decBits 8)))) fun sq_ => Dec.andThen (decList takeInFlight) fun flight_ => Dec.andThen (decList takeTileWrite) fun tileW_ => 
  Dec.andThen (decList takeTileSeq) fun seqs_ => Dec.andThen decNat fun nextSeq_ => Dec.andThen (decList decNat) fun calls_ => 
  Dec.andThen decNat fun trioAligns_ => Dec.andThen (decList (decPair decNat (decBits 32))) fun tsh_ => Dec.andThen (decBits 32) fun xseed_ => 
  Dec.andThen (decBits 10) fun satslot_ => Dec.andThen (decBits 2) fun rmode_ => Dec.andThen (decBits 3) fun opprio_ => 
  Dec.andThen (decBits 16) fun stage_ => Dec.andThen decBool fun pairBound_ => Dec.andThen (decBits 7) fun pairPartner_ => 
  Dec.andThen (decList (decBits 32)) fun pmc_ => Dec.andThen (decList (decBits 4)) fun pmsel_ => Dec.andThen (decList (decBits 32)) fun vgen_ => 
  Dec.andThen (decList (decBits 32)) fun xgen_ => Dec.andThen (decList (decPair decNat (decBits 64))) fun rowMask_ => Dec.andThen (decList (decPair decNat (decBits 256))) fun colMask_ => 
  Dec.andThen (decList (decPair decNat takeTile)) fun tiles_ => Dec.andThen (decList (decPair (decBits 32) (decList decNat))) fun busyTiles_ => Dec.andThen (decList (decPair decNat (decBits 8))) fun spad_ => 
  Dec.andThen (decList (decPair decNat decBool)) fun lines_ => Dec.andThen (decList (decPair decNat (decList (decBits 8)))) fun l1_ => Dec.andThen takeDebug fun dbg_ => 
  Dec.andThen takeRequest fun req_ => Dec.andThen decNat fun tTime_ => Dec.andThen decNat fun aTime_ => 
  Dec.andThen takeLockSt fun lock_ => Dec.andThen takeOWait fun owait_ => Dec.andThen takeAPend fun aPend_ => 
  Dec.andThen (decBits 8) fun qwin_ => Dec.andThen decBool fun away_ => 
  Dec.give { inst := inst_, gidx := gidx_, started := started_, clk := clk_, s := s_, v := v_, a := a_, x := x_, named := named_, vecs := vecs_, preds := preds_, apreds := apreds_, vpreds := vpreds_, tokens := tokens_, oq := oq_, sq := sq_, flight := flight_, tileW := tileW_, seqs := seqs_, nextSeq := nextSeq_, calls := calls_, trioAligns := trioAligns_, tsh := tsh_, xseed := xseed_, satslot := satslot_, rmode := rmode_, opprio := opprio_, stage := stage_, pairBound := pairBound_, pairPartner := pairPartner_, pmc := pmc_, pmsel := pmsel_, vgen := vgen_, xgen := xgen_, rowMask := rowMask_, colMask := colMask_, tiles := tiles_, busyTiles := busyTiles_, spad := spad_, lines := lines_, l1 := l1_, dbg := dbg_, req := req_, tTime := tTime_, aTime := aTime_, lock := lock_, owait := owait_, aPend := aPend_, qwin := qwin_, away := away_ }

/-- A Tag. -/
def encTag (v : Tag) : List Byte :=
  encNat v.ctx ++ (encBits 32) v.id ++ (encBits 32) v.ver

/-- A Tag. -/
def takeTag : Dec Tag :=
  Dec.andThen decNat fun ctx_ => Dec.andThen (decBits 32) fun id_ => Dec.andThen (decBits 32) fun ver_ => 
  Dec.give { ctx := ctx_, id := id_, ver := ver_ }

/-- A Claim. -/
def encClaim (v : Claim) : List Byte :=
  encNat v.k ++ encNat v.ctx ++ encNat v.prio ++ (encBits 32) v.op ++
  encNat v.aged ++ (encOption encNat) v.since ++ (encOption (encPair (encBits 64) encTag)) v.lastLoad ++ (encOption encNat) v.bind ++
  encBool v.bound ++ (encList encNat) v.ptag ++ (encOption (encList (encPair encNat (encBits 32)))) v.savedAcc

/-- A Claim. -/
def takeClaim : Dec Claim :=
  Dec.andThen decNat fun k_ => Dec.andThen decNat fun ctx_ => Dec.andThen decNat fun prio_ => 
  Dec.andThen (decBits 32) fun op_ => Dec.andThen decNat fun aged_ => Dec.andThen (decOption decNat) fun since_ => 
  Dec.andThen (decOption (decPair (decBits 64) takeTag)) fun lastLoad_ => Dec.andThen (decOption decNat) fun bind_ => Dec.andThen decBool fun bound_ => 
  Dec.andThen (decList decNat) fun ptag_ => Dec.andThen (decOption (decList (decPair decNat (decBits 32)))) fun savedAcc_ => 
  Dec.give { k := k_, ctx := ctx_, prio := prio_, op := op_, aged := aged_, since := since_, lastLoad := lastLoad_, bind := bind_, bound := bound_, ptag := ptag_, savedAcc := savedAcc_ }

/-- A ArrCmd. -/
def encArrCmd : ArrCmd → List Byte
  | .op ctx_ slot_ => 0 :: (encNat ctx_ ++ encNat slot_)
  | .wclr at__ => 1 :: (encNat at__)
  | .wrel at__ => 2 :: (encNat at__)
  | .pairOff at__ => 3 :: (encNat at__)
  | .reload => [4]

/-- A ArrCmd, after its variant. -/
def takeInArrCmd : Nat → Dec ArrCmd
  | 0 => Dec.andThen decNat fun ctx_ => Dec.andThen decNat fun slot_ => Dec.give (ArrCmd.op ctx_ slot_)
  | 1 => Dec.andThen decNat fun at__ => Dec.give (ArrCmd.wclr at__)
  | 2 => Dec.andThen decNat fun at__ => Dec.give (ArrCmd.wrel at__)
  | 3 => Dec.andThen decNat fun at__ => Dec.give (ArrCmd.pairOff at__)
  | _ => Dec.give (ArrCmd.reload)

/-- A ArrCmd. -/
def takeArrCmd : Dec ArrCmd := Dec.andThen (decBytes 1) takeInArrCmd

/-- A SavedCore. -/
def encSavedCore (v : SavedCore) : List Byte :=
  encInstKey v.key ++ encNat v.gidx ++ encCore v.core ++ encNat v.old ++
  encNat v.image ++ (encOption encClaim) v.claim ++ (encList encArrCmd) v.cmds

/-- A SavedCore. -/
def takeSavedCore : Dec SavedCore :=
  Dec.andThen takeInstKey fun key_ => Dec.andThen decNat fun gidx_ => Dec.andThen takeCore fun core_ => 
  Dec.andThen decNat fun old_ => Dec.andThen decNat fun image_ => Dec.andThen (decOption takeClaim) fun claim_ => 
  Dec.andThen (decList takeArrCmd) fun cmds_ => 
  Dec.give { key := key_, gidx := gidx_, core := core_, old := old_, image := image_, claim := claim_, cmds := cmds_ }

/-- A Ctx. -/
def encCtx (v : Ctx) : List Byte :=
  encCtxSt v.st ++ (encBits 64) v.recVa ++ encNat v.fn ++ encBool v.service ++
  encNat v.cyclim ++ (encBits 64) v.satva ++ (encBits 64) v.regva ++ (encBits 64) v.opva ++
  (encBits 64) v.barva ++ (encBits 64) v.stopva ++ (encBits 64) v.evqva ++ encNat v.evqlog2 ++
  encNat v.preemptWait ++ encNat v.deadline ++ (encBits 64) v.saveva ++ (encBits 64) v.savelen ++
  (encBits 8) v.haltCode ++ (encBits 32) v.haltSeq ++ (encBits 16) v.haltFirst ++ (encBits 32) v.evtail ++
  (encBits 32) v.evlost ++ (encList (encBits 32)) v.orphans ++ (encList (encPair encNat encOp)) v.ops ++ (encList encNat) v.retired ++
  (encList (encPair encNat encRegion)) v.regions ++ (encList (encPair encNat encBarrier)) v.barriers ++ (encList (encPair encNat encQueue)) v.queues ++ (encList (encPair encInstKey encInst)) v.insts ++
  (encList (encPair (encBits 32) encPgTable)) v.pgs ++ (encBits 32) v.instCount ++ (encList encNat) v.dotSet ++ (encList encNat) v.dotSaved ++
  (encOption encHalt) v.halt ++ (encOption encNat) v.switchStart ++ (encList encSavedCore) v.saved ++ (encOption (encPair (encBits 15) encNat)) v.migr ++
  encCtxSt v.quiesced ++ encNat v.asked ++ encBool v.moved

/-- A Ctx. -/
def takeCtx : Dec Ctx :=
  Dec.andThen takeCtxSt fun st_ => Dec.andThen (decBits 64) fun recVa_ => Dec.andThen decNat fun fn_ => 
  Dec.andThen decBool fun service_ => Dec.andThen decNat fun cyclim_ => Dec.andThen (decBits 64) fun satva_ => 
  Dec.andThen (decBits 64) fun regva_ => Dec.andThen (decBits 64) fun opva_ => Dec.andThen (decBits 64) fun barva_ => 
  Dec.andThen (decBits 64) fun stopva_ => Dec.andThen (decBits 64) fun evqva_ => Dec.andThen decNat fun evqlog2_ => 
  Dec.andThen decNat fun preemptWait_ => Dec.andThen decNat fun deadline_ => Dec.andThen (decBits 64) fun saveva_ => 
  Dec.andThen (decBits 64) fun savelen_ => Dec.andThen (decBits 8) fun haltCode_ => Dec.andThen (decBits 32) fun haltSeq_ => 
  Dec.andThen (decBits 16) fun haltFirst_ => Dec.andThen (decBits 32) fun evtail_ => Dec.andThen (decBits 32) fun evlost_ => 
  Dec.andThen (decList (decBits 32)) fun orphans_ => Dec.andThen (decList (decPair decNat takeOp)) fun ops_ => Dec.andThen (decList decNat) fun retired_ => 
  Dec.andThen (decList (decPair decNat takeRegion)) fun regions_ => Dec.andThen (decList (decPair decNat takeBarrier)) fun barriers_ => Dec.andThen (decList (decPair decNat takeQueue)) fun queues_ => 
  Dec.andThen (decList (decPair takeInstKey takeInst)) fun insts_ => Dec.andThen (decList (decPair (decBits 32) takePgTable)) fun pgs_ => Dec.andThen (decBits 32) fun instCount_ => 
  Dec.andThen (decList decNat) fun dotSet_ => Dec.andThen (decList decNat) fun dotSaved_ => Dec.andThen (decOption takeHalt) fun halt_ => 
  Dec.andThen (decOption decNat) fun switchStart_ => Dec.andThen (decList takeSavedCore) fun saved_ => Dec.andThen (decOption (decPair (decBits 15) decNat)) fun migr_ => 
  Dec.andThen takeCtxSt fun quiesced_ => Dec.andThen decNat fun asked_ => Dec.andThen decBool fun moved_ => 
  Dec.give { st := st_, recVa := recVa_, fn := fn_, service := service_, cyclim := cyclim_, satva := satva_, regva := regva_, opva := opva_, barva := barva_, stopva := stopva_, evqva := evqva_, evqlog2 := evqlog2_, preemptWait := preemptWait_, deadline := deadline_, saveva := saveva_, savelen := savelen_, haltCode := haltCode_, haltSeq := haltSeq_, haltFirst := haltFirst_, evtail := evtail_, evlost := evlost_, orphans := orphans_, ops := ops_, retired := retired_, regions := regions_, barriers := barriers_, queues := queues_, insts := insts_, pgs := pgs_, instCount := instCount_, dotSet := dotSet_, dotSaved := dotSaved_, halt := halt_, switchStart := switchStart_, saved := saved_, migr := migr_, quiesced := quiesced_, asked := asked_, moved := moved_ }

end Sys2Proof.Machine
end

