-- ==== Sys2Proof/Machine/Queue.lean ====
section
/-! DEFINITION. Machine/Queue.lean: queues and nodes (R324-R332, R334-R336): slots, release, the ends of nodes, copy, signal,
wait and conditional nodes, queue states, device appends. -/

namespace Sys2Proof.Machine

/-! ## Slots (R324, R327, R328) -/

/-- The agent of the device's own accesses: its faults wait in a buffer beside the 96 benches (assumption 15). -/
def devCore : Nat := 384

/-- The key under which the dispatcher's access for a node waits. -/
def nodeKey (q seq part : Nat) : Nat := 8192 * (1 + 64 * seq + q) + 5000 + part

/-- SIZE. -/
def Queue.size (q : Queue) : Nat := 2 ^ q.log2

/-- The VA of a node's slot (R324). -/
def Queue.slotVa (q : Queue) (seq : Nat) : W64 := q.base + BitVec.ofNat 64 (64 * (seq % q.size))

/-- A sequence number of a visible node that has not finished, or lies before TAIL (R326). -/
def Queue.visible (q : Queue) (seq : Nat) : Bool := decide ((BitVec.ofNat 32 seq - q.prog).toNat < (q.tail - q.prog).toNat)

/-- Visible sequence numbers, oldest first. -/
def Queue.open_ (q : Queue) : List Nat := (List.range (q.tail - q.prog).toNat).map fun i => (q.prog + BitVec.ofNat 32 i).toNat

/-- Status codes of a node (R327). -/
def NodeSt.code : NodeSt → Nat
  | .pending => 0 | .ready => 1 | .running => 2 | .complete => 3 | .failed => 4 | .skipped => 5

/-- CONT of a node. -/
def Node.cont (n : Node) : Bool := field n.bytes 1 1 % 2 = 1
/-- A field of 8 bytes of the body. -/
def Node.word (n : Node) (off : Nat) : W64 := BitVec.ofNat 64 (field n.bytes off 8)
/-- The named offsets of set 0 or 1. -/
def succOffsets (l : List Byte) (set : Nat) : List Nat :=
  (List.range (min 4 (field l (4 + set) 1))).map fun i => field l (8 + 8 * set + 2 * i) 2
/-- The successors of set 0 or 1. -/
def Node.succs (n : Node) (seq set : Nat) : List Nat := (succOffsets n.bytes set).map fun o => (seq + o) % 2 ^ 32

/-- Bytes of the body that the KIND uses (R327). -/
def bodyEnd (kind : Nat) : Nat := match kind with | 0 | 2 => 0x28 | 1 => 0x38 | _ => 0x31

/-- What breaks R328, if anything: a field out of range, or a misaligned address. -/
def nodeBreaks (l : List Byte) (size : Nat) : Option Byte :=
  let kind := field l 0 1
  let w (o : Nat) : Nat := field l o 8
  let addrs : List Nat := match kind with | 1 => [w 0x20, w 0x28] | 0 => [] | _ => [w 0x20]
  let align := if kind = 1 then 16 else 8
  if 4 < kind || 1 < field l 1 1 || 4 < field l 4 1 || 4 < field l 5 1 || (field l 5 1 ≠ 0 && kind ≠ 2) then some cRANGE
  else if (succOffsets l 0 ++ succOffsets l 1).any fun o => o = 0 || size ≤ o then some cRANGE
  else if (l.drop (bodyEnd kind)).any (· ≠ 0) || (kind = 1 && w 0x30 % 16 ≠ 0) || (3 ≤ kind && 1 < field l 0x30 1) then some cRANGE
  else if addrs.any fun a => a % align ≠ 0 then some cALIGN
  else none

/-- The device writes STATUS, CODE, SEQ and FOFF of a slot; a write that faults is dropped (R327, R462). -/
def imageNode (s : State) (x q seq : Nat) : State :=
  let m := s.getQ x q
  match sfind m.nodes seq with
  | none => s
  | some n =>
    let fn := (s.getX x).fn
    let s := s.devWrite fn (m.slotVa seq + 6) [BitVec.ofNat 8 n.st.code, n.code]
    s.devWrite fn (m.slotVa seq + 0x18) (leBytes 4 seq ++ leBytes 4 n.foff.toNat)

/-- A node of a queue. -/
def State.getNode (s : State) (x q seq : Nat) : Option Node := sfind (s.getQ x q).nodes seq
/-- Replacing a node. -/
def State.putNode (s : State) (x q seq : Nat) (n : Node) : State := s.modQ x q fun m => { m with nodes := sput m.nodes seq n }
/-- Changing a node. -/
def State.modNode (s : State) (x q seq : Nat) (f : Node → Node) : State :=
  match s.getNode x q seq with | some n => s.putNode x q seq (f n) | none => s

/-- The node has finished (R329). -/
def NodeSt.finished : NodeSt → Bool | .complete | .failed | .skipped => true | _ => false

/-! ## The states of queues and contexts that follow from their nodes (R332, R342) -/

/-- PROG moves over finished nodes; their entries are dropped (R325). -/
def Queue.advance (q : Queue) : Nat → Queue
  | 0 => q
  | fuel + 1 =>
    if q.prog = q.tail then q
    else match sfind q.nodes q.prog.toNat with
      | some n => if n.done then Queue.advance { q with nodes := sdel q.nodes q.prog.toNat, prog := q.prog + 1 } fuel else q
      | none => q

/-- A node of the queue runs. -/
def Queue.runs (q : Queue) : Bool := q.nodes.any fun e => e.2.st = .running

/-- PROG and the state of a queue follow its nodes (R325, R332): a RUNNING queue is ACTIVE once no node runs, a queue without an unfinished
node is EMPTY, and an EMPTY one with visible nodes ACTIVE. -/
def Queue.settle (q : Queue) : Queue :=
  let q := q.advance (q.tail - q.prog).toNat
  match q.st with
  | .empty | .active | .running =>
    { q with st := if q.prog = q.tail then .empty else if q.st = .running && q.runs then .running else .active }
  | _ => q

/-- A node of the queue is bound or started (R332). -/
def Queue.start (q : Queue) : Queue := if q.st = .active then { q with st := .running } else q

/-- The state that a queue's nodes give (R332, R336). -/
def Queue.byNodes (q : Queue) : Queue := { q with st := if q.prog = q.tail then .empty else if q.runs then .running else .active }

/-- A context is CREATED, RUNNABLE or RUNNING by its nodes (R342). -/
def settleCtx (s : State) (x : Nat) : State :=
  let c := s.getX x
  match c.st with
  | .created | .runnable | .running =>
    let any (st : NodeSt) : Bool := c.queues.any fun e => e.2.nodes.any fun n => n.2.st = st
    let new : CtxSt := if any .running then .running else if any .ready then .runnable else .created
    if new = c.st then s else s.setCtxSt x new
  | _ => s

/-- Settling a queue and its context. -/
def settleQueue (s : State) (x q : Nat) : State := settleCtx (s.modQ x q Queue.settle) x

/-! ## Decrements and ends (R329) -/

/-- The key of a held mark that a not yet visible node will be skipped. -/
def skipKey (seq : Nat) : Nat := 2 ^ 32 + seq

/-- One decrement aimed at a sequence number (R329). -/
def decNode (s : State) (x q seq : Nat) : State :=
  s.modQ x q fun m =>
    match sfind m.nodes seq with
    | some n => if n.remaining = 0 then { m with xdec := true } else { m with nodes := sput m.nodes seq { n with remaining := n.remaining - 1 } }
    | none =>
      if m.visible seq || decide ((BitVec.ofNat 32 seq - m.tail).toNat < 2 ^ 31) then
        { m with heldDecs := sput m.heldDecs seq (sget 0 m.heldDecs seq + 1) }
      else { m with xdec := true }

/-- The successors whose counts a finished node's outcome decrements (R329). -/
def releasedBy (n : Node) (seq : Nat) : List Nat :=
  match n.st with
  | .skipped => n.succs seq 0 ++ n.succs seq 1
  | .complete => if n.kind = 2 && n.chosen = some false then n.succs seq 1 else n.succs seq 0
  | .failed => if !n.cont then [] else if n.kind = 2 then n.succs seq 1 else n.succs seq 0
  | _ => []

/-- The nodes that a conditional's choice skips (R329). -/
def skippedBy (n : Node) (seq : Nat) : List Nat :=
  if n.kind ≠ 2 || (n.st = .failed && !n.cont) || n.st = .skipped then []
  else
    let chosen := releasedBy n seq
    (n.succs seq 0 ++ n.succs seq 1).filter fun t => !chosen.contains t

/-- A queue's release of nodes stops (R332). -/
def Queue.suspend (q : Queue) : Queue :=
  match q.st with
  | .active | .running => { q with st := .suspended }
  | .switchedOut => { q with markSuspend := true }
  | _ => q

/-- A node takes its final status, and what R329 gives follows: counts, XDEC, NFAIL, suspension, event 4. -/
def closeNode (s : State) (x q seq : Nat) (st : NodeSt) (code : Byte) : State :=
  match s.getNode x q seq with
  | none => s
  | some n =>
    let n : Node := { n with st := st, code := code, done := true, engine := none }
    let s := imageNode (s.putNode x q seq n) x q seq
    let s := (releasedBy n seq).foldl (fun (s : State) t => decNode s x q t) s
    let s := (skippedBy n seq).foldl (fun (s : State) t => s.modQ x q fun m =>
      match sfind m.nodes t with
      | some k => if k.st = NodeSt.pending || k.st = NodeSt.ready then { m with nodes := sput m.nodes t { k with fault := some 0, chosen := none, st := .skipped } } else m
      | none => { m with heldDecs := sput m.heldDecs (skipKey t) 1 }) s
    let s := if st = NodeSt.failed && !n.cont then
        (postEvent (s.modQ x q fun m => { m.suspend with nfail := true }) x 4 code.toNat 0xFFFF (BitVec.ofNat 64 q) (BitVec.ofNat 64 seq))
      else s
    settleQueue s x q

/-- A node ends with an outcome: 0 complete, otherwise the code of its failure; its finish follows (R329). -/
def endNode (s : State) (x q seq : Nat) (code : Byte) (foff : W32 := 0) : State :=
  s.modNode x q seq fun n => if n.st.finished || n.fault.isSome then n else { n with fault := some code, foff := foff }

/-- NODE_FINISH (R329): a node whose outcome is known completes, fails or is skipped. -/
def execNodeFinish (ctx q seq : Nat) (s : State) : Host.Outcome State Fault Refusal :=
  .next (match s.getNode ctx q seq with
    | none => s
    | some n =>
      if n.done then s
      else match n.fault with
        | none => s
        | some c =>
          let s := dropFaults s fun f => f.core = devCore && f.op.any fun e => e.1 = ctx && e.2 / 8192 = 1 + 64 * seq + q
          if n.st = .skipped then closeNode s ctx q seq .skipped 0
          else closeNode s ctx q seq (if c = 0 then .complete else .failed) c)

/-! ## Becoming visible (R326, R328) -/

/-- A node whose slot has been read enters the queue; held decrements are applied. -/
def enterNode (s : State) (x q seq : Nat) (l : List Byte) (early : Option Byte) : State :=
  let m := s.getQ x q
  let held := sget 0 m.heldDecs seq
  let npred := field l 2 2
  let skip := (sfind m.heldDecs (skipKey seq)).isSome
  let early := if early.isSome then early else nodeBreaks l m.size
  let n : Node := { bytes := l, st := if skip && early.isNone then .skipped else .pending, code := 0, foff := 0,
                    remaining := npred - held, readyAt := 0, aged := 0, chosen := none,
                    fault := if skip && early.isNone then some 0 else early, done := false, engine := none, pieces := 0, waitsPg := none }
  let s := s.modQ x q fun m =>
    { m with nodes := sput m.nodes seq n, heldDecs := sdel (sdel m.heldDecs seq) (skipKey seq), xdec := m.xdec || decide (npred < held) }
  imageNode s x q seq

/-- The dispatcher reads a visible slot (R326, R328). -/
def readSlot (s : State) (x q seq : Nat) : State :=
  let k := nodeKey q seq 0
  match opRead s devCore x k ((s.getQ x q).slotVa seq) 64 with
  | .ok s l => enterNode (dropOpEntry s x k) x q seq l none
  | .wait s => s
  | .bad code _ => enterNode (dropOpEntry s x k) x q seq (List.replicate 64 0) (some code)

/-- An accepted QTAIL: nodes TAIL to T - 1 become visible (R326, R332). -/
def applyTail (s : State) (x q : Nat) (t : W32) : State :=
  let m := s.getQ x q
  let n := (t - m.tail).toNat
  let live : Bool := match m.st with | .empty | .active | .running | .suspended => true | _ => false
  if live && m.enable && !m.devapp && 0 < n && decide (n ≤ m.size - (m.tail - m.prog).toNat) then
    settleQueue (s.modQ x q fun m => { m with tail := t }) x q
  else s.modQ x q fun m => { m with badtail := true }

/-- QTAIL_WRITE (R326); during a switch-out it lands in the shadow register (R336). -/
def execQtailWrite (ctx q : Nat) (val : BitVec 32) (s : State) : Host.Outcome State Fault Refusal :=
  .next (
    if (s.getX ctx).st = .free then s
    else if (s.getQ ctx q).frozen.isSome then s.modQ ctx q fun m => { m with shadow := some val }
    else applyTail s ctx q val)

/-! ## Release (R329, R331) -/

/-- A conditional reads its word once, at the instant it is released (R331). -/
def releaseCond (s : State) (x q seq : Nat) (n : Node) : State :=
  let k := nodeKey q seq 1
  match opRead s devCore x k (n.word 0x20) 8 with
  | .wait s => s
  | .bad code _ => endNode s x q seq code
  | .ok s l => endNode (s.modNode x q seq fun n => { n with chosen := some (leNat l ≠ 0) }) x q seq 0

/-- NODE_RELEASE (R329): a visible slot is read, and a node whose count is zero becomes READY. -/
def execNodeRelease (ctx q seq : Nat) (s : State) : Host.Outcome State Fault Refusal :=
  .next (
    let m := s.getQ ctx q
    if !serves s ctx || m.frozen.isSome || !m.visible seq then s
    else match sfind m.nodes seq with
      | none => if m.st = .dead then s else settleQueue (readSlot s ctx q seq) ctx q
      | some n =>
        if n.st ≠ .pending || n.fault.isSome || n.remaining ≠ 0 || !m.releases then s
        else if n.kind = 2 then releaseCond s ctx q seq n
        else
          let n : Node := { n with st := .ready, readyAt := s.now, aged := 0 }
          settleCtx (imageNode (s.putNode ctx q seq n) ctx q seq) ctx)

/-! ## Copy, signal and wait nodes (R327, R330) -/

/-- A node starts to run. -/
def runNode (s : State) (x q seq : Nat) (engine : Option Nat) : State :=
  let s := (s.modNode x q seq fun n => { n with st := .running, engine := engine }).modQ x q Queue.start
  settleQueue (imageNode s x q seq) x q

/-- The first copy engine that a copy node of a priority may take, of any die (DESIGN CHOICE, assumption 16): none while a READY copy node
of a higher priority waits. -/
def nodeEngine (s : State) (prio : Nat) : Option Nat :=
  if nodeAhead s prio then none else (List.range 2).findSome? fun die => if copyAhead s die prio then none else freeCopyEngine s die

/-- The next 16-byte piece of a running copy node. -/
def copyPiece (s : State) (x q seq : Nat) (n : Node) : State :=
  let off := BitVec.ofNat 64 (16 * n.pieces)
  if (n.word 0x30).toNat ≤ 16 * n.pieces then endNode s x q seq 0
  else if (opEntry s devCore x (nodeKey q seq 2)).any fun f => f.failed.isNone then s
  else
    match opRead s devCore x (nodeKey q seq 1) (n.word 0x20 + off) 16 with
    | .wait s => s
    | .bad code _ => endNode s x q seq code
    | .ok s l =>
      match opWrite s devCore x (nodeKey q seq 2) (n.word 0x28 + off) l with
      | .wait s => s
      | .bad code _ => endNode s x q seq code
      | .ok s _ => s.modNode x q seq fun n => { n with pieces := n.pieces + 1 }

/-- COPY_NODE_RUN (R327): a copy node starts on a copy engine, moves a piece, or finishes. -/
def execCopyNodeRun (ctx q seq : Nat) (s : State) : Host.Outcome State Fault Refusal :=
  .next (match s.getNode ctx q seq with
    | none => s
    | some n =>
      if n.kind ≠ 1 || n.fault.isSome then s
      else if n.st = .ready then
        (if !mayStart s ctx q then s
         else match nodeEngine s (nodeEff (s.getQ ctx q) n) with
           | some e => runNode s ctx q seq (some e)
           | none => s)
      else if n.st = .running && servesOrDrains s ctx then copyPiece s ctx q seq n
      else s)

/-- The store or the atomic of a signal node. -/
def signalNode (s : State) (x q seq : Nat) (n : Node) : State :=
  let va := n.word 0x20
  let val := n.word 0x28
  let key := nodeKey q seq 1
  let put (s : State) (v : Nat) : State :=
    match opWrite s devCore x key va (leBytes 8 v) with
    | .wait s => s
    | .bad code _ => endNode s x q seq code
    | .ok s _ => endNode s x q seq 0
  if field n.bytes 0x30 1 = 0 then put s val.toNat
  else match opReadAs s .wr devCore x key va 8 with
    | .wait s => s
    | .bad code _ => endNode s x q seq code
    | .ok s l => put s (leNat l + val.toNat)

/-- SIGNAL_NODE_RUN (R327). -/
def execSignalNodeRun (ctx q seq : Nat) (s : State) : Host.Outcome State Fault Refusal :=
  .next (match s.getNode ctx q seq with
    | none => s
    | some n =>
      if n.kind ≠ 3 || n.fault.isSome then s
      else if n.st = .ready && mayStart s ctx q then signalNode (runNode s ctx q seq none) ctx q seq n
      else if n.st = .running && servesOrDrains s ctx then signalNode s ctx q seq n
      else s)

/-- COND of a wait node holds of a word (R327). -/
def waitMet (n : Node) (w : Nat) : Bool :=
  if field n.bytes 0x30 1 = 0 then decide ((n.word 0x28).toNat ≤ w) else w = (n.word 0x28).toNat

/-- WAIT_NODE_SATISFIED (R327): a wait node starts, and it finishes once its word meets its condition. -/
def execWaitNodeSatisfied (ctx q seq : Nat) (s : State) : Host.Outcome State Fault Refusal :=
  .next (match s.getNode ctx q seq with
    | none => s
    | some n =>
      if n.kind ≠ 4 || n.fault.isSome || !(servesOrDrains s ctx) then s
      else
        let s := if n.st = .ready && mayStart s ctx q then runNode s ctx q seq none else s
        if ((s.getNode ctx q seq).map (·.st)) ≠ some .running then s
        else match opRead s devCore ctx (nodeKey q seq 1) (n.word 0x20) 8 with
          | .wait s => s
          | .bad code _ => endNode s ctx q seq code
          | .ok s' l => if waitMet n (leNat l) then endNode s' ctx q seq 0 else s)

/-! ## Commands and registers of a queue (R325, R332) -/

/-- A queue starts to drain (R332). -/
def Queue.drain (q : Queue) : Queue :=
  match q.st with
  | .empty | .active | .running | .suspended => { q with st := .draining }
  | .switchedOut => { q with markDrain := true }
  | _ => q

/-- QUEUE_ENABLE_WRITE (R332): 1 makes a DEAD queue EMPTY, 0 drains a queue. -/
def execQueueEnableWrite (ctx q : Nat) (on : Bool) (s : State) : Host.Outcome State Fault Refusal :=
  .next (
    if (s.getX ctx).st = .free || (s.getX ctx).st = .destroying then s
    else s.modQ ctx q fun m =>
      let m : Queue := { m with enable := on }
      if on then
        (if m.st = .dead && m.base ≠ 0 then { m with st := .empty, tail := 0, prog := 0, nodes := [], heldDecs := [] } else m)
      else m.drain)

/-- SUSPEND (R332). -/
def execQueueSuspend (ctx q : Nat) (s : State) : Host.Outcome State Fault Refusal := .next (s.modQ ctx q Queue.suspend)

/-- RESUME (R332): a SUSPENDED queue releases again; on a SWITCHED_OUT one it clears the mark. -/
def execQueueResume (ctx q : Nat) (s : State) : Host.Outcome State Fault Refusal :=
  .next (s.modQ ctx q fun m =>
    match m.st with
    | .suspended => { m with st := if m.prog = m.tail then .empty else .active }
    | .switchedOut => { m with markSuspend := false }
    | _ => m)

/-- DRAIN (R332). -/
def execQueueDrain (ctx q : Nat) (s : State) : Host.Outcome State Fault Refusal := .next (s.modQ ctx q Queue.drain)

/-- The unfinished nodes of a queue get STATUS 4 with a code (R332); slots not yet read are written too. -/
def failOpenNodes (s : State) (x q : Nat) (code : Byte) : State :=
  let m := s.getQ x q
  let fn := (s.getX x).fn
  let s := m.open_.foldl (fun (s : State) t =>
    let done : Bool := match sfind m.nodes t with | some n => n.done | none => false
    if done then s else s.devWrite fn (m.slotVa t + 6) [4, code]) s
  s.modQ x q fun m => { m with nodes := [], heldDecs := [], prog := m.tail }

/-- QUEUE_DEAD (R332): a draining queue with no running node becomes DEAD. -/
def execQueueDead (ctx q : Nat) (s : State) : Host.Outcome State Fault Refusal :=
  .next (
    let m := s.getQ ctx q
    if m.st ≠ .draining || m.runs || m.frozen.isSome then s
    else settleCtx ((failOpenNodes s ctx q cCANCELLED).modQ ctx q fun m => { m with st := .dead }) ctx)

/-! ## Device appends (R334) -/

/-- `qlaunch` (R334). -/
def execQlaunch (h : Hdr) (o : FO) (s : State) : Host.Outcome State Fault Refusal :=
  runWord (.qlaunch h o) .S h o.g (some 2) s fun s =>
    with32 s .S o.a fun q => with64 s .S o.b fun va => withAfter s .S o fun n =>
      createOp s .S n (.launch q va) fun s hd _ =>
        result s .S o.d 1 2 (hd.setWidth 128)

/-- The queue that a launch operation names. -/
def OpBody.launchQ? : OpBody → Option (W32 × W64) | .launch q va => some (q, va) | _ => none

/-- An earlier append to the same queue has not finished (R334). -/
def appendAhead (s : State) (x slot : Nat) (o : Op) (q : W32) : Bool :=
  (s.getX x).ops.any fun e => e.1 ≠ slot && e.2.st = .running && decide (e.2.entry < o.entry) && e.2.body.launchQ?.any fun l => l.1 = q

/-- The append (R334): whole or not at all, in one step at the dispatcher. -/
def appendNode (s : State) (x slot : Nat) (q : W32) (va : W64) : State :=
  let m := s.getQ x q.toNat
  let live : Bool := match m.st with | .empty | .active | .running => true | _ => false
  if (s.getX x).st = .destroying then failOp s x slot cDYING
  else if 63 < q.toNat || !live || !m.devapp then failOp s x slot cRANGE
  else if va.toNat % 64 ≠ 0 then failOp s x slot cALIGN 0 va
  else match opRead s devCore x slot va 64 with
    | .wait s => s
    | .bad code a => failOp s x slot code 0 a
    | .ok s l =>
      match nodeBreaks l m.size with
      | some code => failOp s x slot code
      | none =>
        if (m.tail - m.prog).toNat = m.size then failOp s x slot cQOVER
        else
          let seq := m.tail.toNat
          let l := l.take 6 ++ [0, 0] ++ (l.drop 8).take 16 ++ leBytes 4 seq ++ l.drop 0x1C
          match opWrite s devCore x slot (m.slotVa seq) l with
          | .wait s => s
          | .bad code a => failOp s x slot code 0 a
          | .ok s _ =>
            let s := s.modQ x q.toNat fun m => { m with tail := m.tail + 1 }
            let s := settleQueue (enterNode s x q.toNat seq l none) x q.toNat
            finishOp s x slot .complete 0 (BitVec.ofNat 32 seq) 0

/-- LAUNCH_APPEND (R334): a running `qlaunch` operation reaches the dispatcher in its turn. -/
def execLaunchAppend (ctx slot : Nat) (s : State) : Host.Outcome State Fault Refusal :=
  .next (match s.getO ctx slot with
    | none => s
    | some o =>
      match o.body.launchQ? with
      | none => s
      | some (q, va) => if o.st ≠ .running || appendAhead s ctx slot o q then s else appendNode s ctx slot q va)

/-- A `qsignal` at the dispatcher (R335). -/
def homeSignal (s : State) (k : Nat) (a : Ask) : State :=
  let x := (s.getC k).ctx
  let q := a.a.toNat
  let m := s.getQ x q
  let seq : W32 := a.b.setWidth 32
  let live : Bool := match m.st with | .active | .running | .suspended => true | _ => false
  if live && decide ((seq - m.prog).toNat < m.size) then replyTo (decNode s x q seq.toNat) k 1 else replyTo s k 0

/-- `qsignal` (R335). -/
def execQsignal (h : Hdr) (o : FR) (s : State) : Host.Outcome State Fault Refusal :=
  runWord (.qsignal h o) .S h o.g (some 2) s fun s =>
    with32 s .S o.a fun q => with32 s .S o.b fun n =>
      if 63 < q.toNat then .fault (stopCode cRANGE)
      else requestAct s o.d 1 2 { op := .qsignal, a := q, b := n.setWidth 64, c := 0, m := 0 }

end Sys2Proof.Machine
end

