-- ==== Sys2Proof/Machine/Kernel.lean ====
section
/-! DEFINITION. Machine/Kernel.lean: kernel instances: admission (R283-R288), process-group tables (R302, R303, R305, R461),
residency (R289), the binding of groups (R300, R301), node start and node end (R89, R290), and the dispatcher's rounds
(R333, R339). -/

namespace Sys2Proof.Machine

/-! ## Reads of admission (R288) -/

/-- FOFF (R327): the structure and the offset within it. -/
def foffOf (structure_ off : Nat) : W32 := BitVec.ofNat 32 (structure_ % 16 * 2 ^ 28 + off % 2 ^ 28)

/-- What a part of admission answers. -/
inductive Adm (α : Type) where
  | ok (s : State) (a : α)
  | wait (s : State)
  | fail (s : State) (code : Byte) (foff : W32)

/-- The next part of admission. -/
def Adm.andThen {α β : Type} (r : Adm α) (f : State → α → Adm β) : Adm β :=
  match r with
  | .ok s a => f s a
  | .wait s => .wait s
  | .fail s c o => .fail s c o

/-- Reading a structure, each with an entry of its own in the fault buffer: a read that fails reports the 16-byte piece that it met (R288). -/
def readStruct (s : State) (x key structure_ : Nat) (va : W64) (n : Nat) : Adm (List Byte) :=
  match opRead s devCore x (key + structure_) va n with
  | .ok s l => .ok s l
  | .wait s => .wait s
  | .bad code a => .fail s code (foffOf structure_ ((a - va).toNat / 16 * 16))

/-- A check: the code and the offset of the first failing field. -/
def check (s : State) (code : Byte) (structure_ : Nat) (bad : Option Nat) : Adm Unit :=
  match bad with
  | none => .ok s ()
  | some o => .fail s code (foffOf structure_ o)

/-! ## The launch record (R284-R287) -/

/-- The offset of the first field that check 2 refuses. -/
def launchBreaks (l : List Byte) : Option Nat :=
  let f (o n : Nat) : Nat := field l o n
  let benches := f 6 2 % 2 = 1
  let span := f 6 2 / 2 % 2 = 1
  let hasD := (List.range 8).any fun i => f (0x44 + 8 * i) 1 = 3
  if f 0 4 ≠ 0x4B4C004C then some 0
  else if f 4 2 ≠ 1 then some 4
  else if 3 < f 6 2 then some 6
  else if f 0x10 2 < 1 || 384 < f 0x10 2 || (benches && f 0x10 2 % 4 ≠ 0) then some 0x10
  else if 3 < f 0x12 1 then some 0x12
  else if 16 < f 0x13 1 then some 0x13
  else if 1024 < f 0x14 2 then some 0x14
  else if 256 < f 0x16 2 then some 0x16
  else if f 0x18 8 % 64 ≠ 0 || (f 0x14 2 = 0 && f 0x18 8 ≠ 0) then some 0x18
  else if f 0x20 8 % 32 ≠ 0 || (f 0x16 2 = 0 && f 0x20 8 ≠ 0) then some 0x20
  else if f 0x28 8 % 64 ≠ 0 || (!span && f 0x28 8 ≠ 0) then some 0x28
  else if f 0x30 8 % 8 ≠ 0 || (!hasD && f 0x30 8 ≠ 0) then some 0x30
  else if f 0x38 8 ≠ 0 then some 0x38
  else
    (List.range 16).findSome? fun i =>
      let at_ := 0x80 + 8 * i
      if f 0x13 1 ≤ i then (if f at_ 8 ≠ 0 then some at_ else none) else if f (at_ + 2) 2 ≠ 0 then some (at_ + 2) else none

/-- The offset of the first initialiser field that check 5 refuses. -/
def initBreaks (l : List Byte) (named : Nat) : Option Nat :=
  (List.range (field l 0x13 1)).findSome? fun i =>
    if 8 * named ≤ field l (0x80 + 8 * i) 1 then some (0x80 + 8 * i)
    else if 2 < field l (0x81 + 8 * i) 1 then some (0x81 + 8 * i) else none

/-- The offset of the first field that breaks R286 (check 6). -/
def loopsBreak (l : List Byte) : Option Nat :=
  let kind (i : Nat) : Nat := field l (0x44 + 8 * i) 1
  let before (i : Nat) (p : Nat → Bool) : Bool := (List.range i).any fun j => p (kind j)
  let cd (k : Nat) : Bool := k = 2 || k = 3
  (List.range 8).findSome? fun i =>
    let k := kind i
    let g := field l (0x45 + 8 * i) 1
    if k = 0 && field l (0x40 + 8 * i) 4 ≠ 0 then some (0x40 + 8 * i)
    else if 4 < k || (cd k && before i cd) || (k = 4 && before i (· = 4)) || (k = 4 && field l 6 2 / 2 % 2 = 0) ||
        (k = 3 && field l 0x30 8 = 0) then some (0x44 + 8 * i)
    else if (k = 3) != (g ≠ 0 : Bool) then some (0x45 + 8 * i)
    else if field l (0x46 + 8 * i) 2 ≠ 0 then some (0x46 + 8 * i)
    else none

/-- The offset of the first level that exceeds LOOPMAX (check 7). -/
def loopsExceed (l hdr : List Byte) : Option Nat :=
  (List.range 8).findSome? fun i =>
    let lim := field hdr (0x70 + 4 * i) 4
    if field l (0x44 + 8 * i) 1 = 1 && decide (lim < field l (0x40 + 8 * i) 4) then some (0x40 + 8 * i)
    else if field l (0x44 + 8 * i) 1 = 3 && decide (lim < field l (0x45 + 8 * i) 1) then some (0x45 + 8 * i) else none

/-- The scanner's record of a segment for a function (R58). -/
def admissionOf (s : State) (fn : Nat) (va : W64) : Option Admission :=
  (s.admitted.find? fun e => e.1 = fn).bind fun e => e.2.findSome? fun r => match r with
    | some a => if a.va = va then some a else none
    | none => none

/-- Most cores that a node of a context may bind (R339). -/
def coreLimit (s : State) (x : Nat) : Nat :=
  let c := s.getX x
  min (dcGet s (0x00290004 + 0x10 * ringPart s c.fn)).toNat (c.savelen.toNat / 1310720)

/-- The first record of the table that fails, as an offset. -/
def recordsBreak (l : List Byte) (n : Nat) (f : List Byte → Option Nat) : Option Nat :=
  (List.range n).findSome? fun i => (f ((l.drop (64 * i)).take 64)).map fun o => 64 * i + o

/-- The first schedule entry that breaks R294, as an offset. -/
def schedBreaks (sched recs : List Byte) (n nrec spad : Nat) : Option Nat :=
  (List.range n).findSome? fun i =>
    let e := sentryOf ((sched.drop (32 * i)).take 32)
    (sentryBreaks e nrec (trecOf ((recs.drop (64 * e.tensor)).take 64)) spad).map fun o => 32 * i + o

/-- Checks 1-11 (R288), in their order: the instance that they admit, but for its process group. -/
def admitChecks (s : State) (x key : Nat) (va : W64) : Adm Inst :=
  let c := s.getX x
  (check s cALIGN 0 (if va.toNat % 256 = 0 then none else some 0)).andThen fun s _ =>
  (readStruct s x key 0 va 256).andThen fun s l =>
  (check s cRANGE 0 (launchBreaks l)).andThen fun s _ =>
  let segva : W64 := BitVec.ofNat 64 (field l 8 8)
  match admissionOf s c.fn segva with
  | none => .fail s cPERM (foffOf 0 8)
  | some a =>
    (readStruct s x key 1 segva 0x90).andThen fun s hdr =>
    (check s cRANGE 0 (if coreLimit s x < field l 0x10 2 then some 0x10 else none)).andThen fun s _ =>
    (check s cRANGE 0 (initBreaks l (field hdr 0x20 1))).andThen fun s _ =>
    (check s cRANGE 0 (loopsBreak l)).andThen fun s _ =>
    (check s cLOOP 0 (loopsExceed l hdr)).andThen fun s _ =>
    (check s cRANGE 1 (if c.cyclim < field hdr 0x0C 4 then some 0x0C else none)).andThen fun s _ =>
    let nrec := field l 0x14 2
    let nsched := field l 0x16 2
    let inst : Inst := { st := .admitted, launch := l, header := hdr, cores := [], records := [], sched := [], pg := none,
                         frames := a.frames, startedCores := [], number := 0 }
    (readStruct s x key 2 (BitVec.ofNat 64 (field l 0x18 8)) (64 * nrec)).andThen fun s recs =>
    (check s cSEAL 2 (recordsBreak recs nrec fun r => if sealOk r then none else some 0x3C)).andThen fun s _ =>
    (check s cRANGE 2 (recordsBreak recs nrec trecBreaks)).andThen fun s _ =>
    (readStruct s x key 3 (BitVec.ofNat 64 (field l 0x20 8)) (32 * nsched)).andThen fun s sched =>
    (check s cRANGE 3 (schedBreaks sched recs nsched nrec inst.spadSize)).andThen fun s _ =>
    .ok s { inst with records := recs, sched := sched }

/-! ## Process-group tables (R302, R303, R305, R461) -/

/-- The offset of the first field of the table's head that R303 refuses. -/
def pgHeadBreaks (l : List Byte) : Option Nat :=
  let f (o n : Nat) : Nat := field l o n
  if f 0 4 ≠ 0x4B4C0050 then some 0
  else if f 4 2 ≠ 1 then some 4
  else if 7 < f 6 2 then some 6
  else if f 0x0C 4 = 0 then some 0x0C
  else if f 0x10 4 = 0 || 24608 < f 0x10 4 then some 0x10
  else if f 0x14 2 = 0 then some 0x14
  else if f 0x16 2 = 0 then some 0x16
  else if f 0x18 2 = 0 || f 0x14 2 * f 0x16 2 * f 0x18 2 ≠ f 0x10 4 then some 0x18
  else if (l.drop 0x1A).take 34 ≠ List.replicate 34 0 then some 0x1A
  else none

/-- The seal of a table holds (R302). -/
def pgSealOk (l : List Byte) : Bool :=
  BitVec.ofNat 32 (field l 0x3C 4) = crc32c (l.take 0x3C ++ [0, 0, 0, 0] ++ l.drop 0x40)

/-- The member entry of rank r. -/
def pgMember (l : List Byte) (r : Nat) : BitVec 15 × Byte :=
  (BitVec.ofNat 15 (field l (0x40 + 8 * r) 2), BitVec.ofNat 8 (field l (0x42 + 8 * r) 1))

/-- The offset of the first member entry field that R302 refuses. -/
def pgEntriesBreak (l : List Byte) (p : Nat) : Option Nat :=
  (List.range p).findSome? fun r =>
    let vf := field l (0x42 + 8 * r) 1
    if 2 ^ 15 ≤ field l (0x40 + 8 * r) 2 then some (0x40 + 8 * r)
    else if 128 ≤ vf && vf ≠ 0xFF then some (0x42 + 8 * r)
    else if field l (0x43 + 8 * r) 5 ≠ 0 then some (0x43 + 8 * r)
    else none

/-- The table that a launch names, read and checked (R303). -/
def readPg (s : State) (x key : Nat) (va : W64) : Adm (W32 × PgTable) :=
  let vf := fnVf (s.getX x).fn
  (readStruct s x key 4 va 64).andThen fun s head =>
  (check s cRANGE 4 (pgHeadBreaks head)).andThen fun s _ =>
  let p := field head 0x10 4
  (readStruct s x key 4 va (64 + 8 * p)).andThen fun s l =>
  (check s cSEAL 4 (if pgSealOk l then none else some 0x3C)).andThen fun s _ =>
  (check s cRANGE 4 (pgEntriesBreak l p)).andThen fun s _ =>
  let members := (List.range p).map (pgMember l)
  match members.zipIdx.filter fun e => e.1 = (Config.devId, vf) with
  | [e] =>
    .ok s (BitVec.ofNat 32 (field l 8 4),
      { st := .forming, gen := BitVec.ofNat 32 (field l 0x0C 4), sealW := BitVec.ofNat 32 (field l 0x3C 4),
        dims := [field l 0x14 2, field l 0x16 2, field l 0x18 2], wrap := BitVec.ofNat 3 (field l 6 2), members := members,
        rank := e.2, since := s.now, nextColl := 0, vas := [va] })
  | _ :: e :: _ => .fail s cRANGE (foffOf 4 (0x40 + 8 * e.2))
  | [] => .fail s cRANGE (foffOf 4 0x40)

/-- Changing a registered table. -/
def State.modPg (s : State) (x : Nat) (id : W32) (f : PgTable → PgTable) : State :=
  s.modX x fun c => { c with pgs := c.pgs.map fun e => if e.1 = id then (e.1, f e.2) else e }

/-- The announcement kept from a member for a table (R461): its GEN and SEAL. -/
def announced (s : State) (fn : Nat) (m : BitVec 15 × Byte) (id : W32) : Option (W32 × W32) :=
  (s.announces.find? fun e => e.1 = fn && e.2.1 = m.1 && e.2.2.1 = m.2 && e.2.2.2.1 = id).map fun e => (e.2.2.2.2.1, e.2.2.2.2.2)

/-- A FORMING table becomes READY once every other member announced the same GEN and SEAL (R461). -/
def formPg (s : State) (x : Nat) (id : W32) : State :=
  let fn := (s.getX x).fn
  s.modPg x id fun t =>
    if t.st = .forming && (t.members.zipIdx.all fun e => e.2 = t.rank || announced s fn e.1 id = some (t.gen, t.sealW)) then
      { t with st := .ready }
    else t

/-- The code of an announcement among connection-control payloads (DESIGN CHOICE, assumption 17). -/
def annPayload (id : W32) (t : PgTable) : List Byte :=
  [8, 0, 0, 0] ++ leBytes 4 id.toNat ++ leBytes 4 t.gen.toNat ++ leBytes 4 t.sealW.toNat

/-- A table is registered: it is FORMING and announced to every other member (R305, R461). -/
def registerPg (s : State) (x : Nat) (id : W32) (t : PgTable) : State :=
  let s := s.modX x fun c => { c with pgs := c.pgs.filter (fun e => e.1 ≠ id) ++ [(id, t)] }
  formPg (s.sendMembers (s.getX x).fn t 8 (id.setWidth 64) (annPayload id t)) x id

/-- READY launch nodes that wait for a table's formation fail (R305). -/
def failWaiting (s : State) (x : Nat) (id : W32) : State :=
  ((s.getX x).queues.flatMap fun q => (q.2.nodes.filter fun n => n.2.waitsPg = some id && n.2.st = .ready).map fun n => (q.1, n.1)).foldl
    (fun s e => endNode s x e.1 e.2 cREFUSED) s

/-- A table dissolves (R305): nodes waiting on it fail, its barriers break (R316). -/
def dissolvePg (s : State) (x : Nat) (id : W32) : State :=
  failWaiting (breakTable (s.modPg x id fun t => { t with st := .dissolved }) x id) x id

/-- The registered table that a READY node waits for (R303, R305): the table in memory is not read again. -/
def Ctx.awaitedPg (c : Ctx) (n : Node) : Option PgTable := (n.waitsPg.bind c.pg?).bind fun t => if t.st = .dissolved then none else some t

/-- The process group of a spanning launch (R303, R305): none while its table forms. -/
def admitPg (s : State) (x q seq key : Nat) (n : Node) (inst : Inst) : Adm (Option PgTable) :=
  if field inst.launch 6 2 / 2 % 2 = 0 then .ok s none
  else match (s.getX x).awaitedPg n with
  | some u => (match u.st with
    | .ready => .ok s (some u)
    | .degraded => .fail s cREFUSED 0
    | _ => .wait s)
  | none =>
    let forming (s : State) (id : W32) : Adm (Option PgTable) := .wait (s.modNode x q seq fun n => { n with waitsPg := some id })
    (readPg s x key (BitVec.ofNat 64 (field inst.launch 0x28 8))).andThen fun s r =>
      let (id, t) := r
      let fresh (s : State) : Adm (Option PgTable) :=
        if 16 ≤ ((s.getX x).pgs.filter fun e => e.1 ≠ id && e.2.st ≠ .dissolved).length then .fail s cRANGE (foffOf 4 8)
        else
          let s := registerPg s x id t
          match (s.getX x).pg? id with
          | some u => if u.st = .ready then .ok s (some u) else forming s id
          | none => .wait s
      match (s.getX x).pg? id with
      | none => fresh s
      | some u =>
        let s := s.modPg x id fun t => { t with vas := if u.gen = r.2.gen && u.sealW = r.2.sealW then t.vas.filter (fun v => !r.2.vas.contains v) ++ r.2.vas else t.vas }
        if u.st = .dissolved then fresh s
        else if u.gen ≠ t.gen || u.sealW ≠ t.sealW then
          fresh (dissolvePg (s.modNode x q seq fun n => { n with waitsPg := none }) x id)
        else match u.st with
          | .ready => .ok s (some u)
          | .degraded => .fail s cREFUSED 0
          | _ => forming s id

/-- FORMATION_TIMEOUT (R305): 10 ms after its registration a table that still forms dissolves. -/
def execFormationTimeout (ctx : Nat) (id : BitVec 32) (s : State) : Host.Outcome State Fault Refusal :=
  .next (match (s.getX ctx).pg? id with
    | some t => if t.st = .forming && decide (t.since + 12000000 ≤ s.now) then dissolvePg s ctx id else s
    | none => s)

/-! ## Selecting and binding a node (R283, R300, R301, R333, R339) -/

/-- The instance of a node. -/
def State.getInst (s : State) (key : InstKey) : Option Inst := (s.getX key.ctx).inst? key

/-- The dispatcher selects a READY launch node: its instance is ADMITTED, or the node fails or waits (R283). -/
def selectNode (s : State) (x q seq : Nat) (n : Node) : State :=
  let key : InstKey := { ctx := x, q := q, seq := seq }
  if (s.getInst key).isSome then s
  else
    let k := nodeKey q seq 16
    let done (s : State) : State := dropFaults s fun f => f.op.any fun e => e.1 = x && decide (k ≤ e.2) && decide (e.2 < k + 5)
    let r := (admitChecks s x k (n.word 0x20)).andThen fun s i =>
      (admitPg s x q seq k n i).andThen fun s t => .ok s { i with pg := t }
    match r with
    | .wait s => s
    | .fail s code foff => endNode (done s) x q seq code foff
    | .ok s i => (done s).modX x fun c => { c with insts := c.insts ++ [(key, i)] }

/-- Core k is FREE (R301): bound to no instance, its claim released. -/
def coreFree (s : State) (k : Nat) : Bool :=
  (s.getC k).inst.isNone && !(s.getB (benchOf k)).claims.any (fun c => c.k = k % 4)

/-- The cores that a group of `n` takes among those not set aside (R300): the lowest free ones, whole benches, or whole
pairs of benches. -/
def chooseCores (s : State) (n : Nat) (benches : Bool) (aside : List Nat) : Option (List Nat) :=
  let free (k : Nat) : Bool := coreFree s k && !aside.contains k
  let unit := if !benches then 1 else if n % 8 = 0 then 8 else 4
  let l := (((List.range (384 / unit)).filter fun u => (List.range unit).all fun i => free (unit * u + i)).take (n / unit)).flatMap
    fun u => (List.range unit).map fun i => unit * u + i
  if l.length = n then some l else none

/-- Cores that RUNNING nodes of a partition hold (R339). -/
def partCores (s : State) (p : Nat) : Nat :=
  (s.cores.filter fun e => e.2.inst.any fun i => ringPart s (s.getX i.ctx).fn = p).length

/-- Binding cores to an instance: each takes its index by core number (R300, R301). -/
def bindCores (s : State) (key : InstKey) (l : List Nat) : State :=
  let s := l.zipIdx.foldl (fun (s : State) e => s.modC e.1 fun c => { c with inst := some key, gidx := e.2, started := false }) s
  let s := s.modInst key fun i => { i with cores := l }
  let s := (s.modNode key.ctx key.q key.seq fun n => { n with st := .running }).modQ key.ctx key.q Queue.start
  settleQueue (imageNode s key.ctx key.q key.seq) key.ctx key.q

/-- One candidate of a round. -/
structure Cand where
  x : Nat
  q : Nat
  seq : Nat
  part : Nat
  eff : Nat
  readyAt : Nat
  deriving DecidableEq, Repr

/-- The READY launch nodes that a round may choose from. -/
def candidates (s : State) : List Cand :=
  s.ctxs.flatMap fun e => e.2.queues.flatMap fun q =>
    if !mayStart s e.1 q.1 then []
    else (q.2.nodes.filter fun n => n.2.st = .ready && n.2.kind = 0 && n.2.fault.isNone).map fun n =>
      { x := e.1, q := q.1, seq := n.1, part := ringPart s e.2.fn, eff := min 7 (q.2.prio.toNat + n.2.aged), readyAt := n.2.readyAt }

/-- The order of a round (R333): share, priority, age, then the lower context, queue and sequence number. -/
def candBefore (s : State) (a b : Cand) : Bool :=
  let da := (sget 0 s.deficit a.part).toInt
  let db := (sget 0 s.deficit b.part).toInt
  let off (c : Cand) : Nat := (BitVec.ofNat 32 c.seq - (s.getQ c.x c.q).prog).toNat
  if da ≠ db then decide (db < da)
  else if a.part ≠ b.part then decide (a.part < b.part)
  else if a.eff ≠ b.eff then decide (b.eff < a.eff)
  else if a.readyAt ≠ b.readyAt then decide (a.readyAt < b.readyAt)
  else if a.x ≠ b.x then decide (a.x < b.x)
  else if a.q ≠ b.q then decide (a.q < b.q)
  else decide (off a < off b)

/-- Inserting into a list that an order sorts. -/
def insertBy {α : Type} (before : α → α → Bool) (a : α) : List α → List α
  | [] => [a]
  | b :: l => if before a b then a :: b :: l else b :: insertBy before a l

/-- A list in an order. -/
def sortBy {α : Type} (before : α → α → Bool) (l : List α) : List α := l.foldr (insertBy before) []

/-- A partition's share of a round's credit (R333): `sum` is the weight of the partitions with READY work. -/
def roundCredit (s : State) (p sum : Nat) : Int := ((dcGet s (0x00290000 + 0x10 * p)).toNat * (2400 * 96) / max 1 sum : Nat)

/-- A round's credits (R333); a partition without READY work is capped at one round's credit. -/
def creditRound (s : State) (parts : List Nat) : State :=
  let weight (p : Nat) : Nat := (dcGet s (0x00290000 + 0x10 * p)).toNat
  let sum := (parts.map weight).sum
  let new (p : Nat) : Int :=
    let d := (sget 0 s.deficit p).toInt
    if parts.contains p then d + roundCredit s p sum else min d (roundCredit s p (sum + weight p))
  { s with deficit := (List.range 24).foldl (fun m p => sset 0 m p (BitVec.ofInt 32 (new p))) s.deficit }

/-- One choice of a round: admission, then the binding; a node that has waited 1 ms sets the cores it needs aside. -/
def chooseNode (parts : List Nat) (a : State × List Nat) (c : Cand) : State × List Nat :=
  let (s, aside) := a
  match s.getNode c.x c.q c.seq with
  | none => a
  | some n =>
    let key : InstKey := { ctx := c.x, q := c.q, seq := c.seq }
    if (dcGet s (0x00290000 + 0x10 * c.part)).toNat = 0 && parts.any (· ≠ c.part) then a
    else
      let s := selectNode s c.x c.q c.seq n
      match s.getInst key with
      | none => (s, aside)
      | some i =>
        let benches := field i.launch 6 2 % 2 = 1
        let fits := decide (partCores s c.part + i.size ≤ (dcGet s (0x00290004 + 0x10 * c.part)).toNat)
        match (if fits then chooseCores s i.size benches aside else none) with
        | some l => (bindCores s key l, aside)
        | none =>
          let free := ((List.range 384).filter fun k => coreFree s k && !aside.contains k).take i.size
          (s, if fits && decide (c.readyAt + 1200000 ≤ s.now) then aside ++ free else aside)

/-- DISPATCHER_ROUND (R333): a round takes at most 2,400 clocks. The nodes that have waited 1 ms come first, so that no other node is bound to
cores that they set aside. -/
def execDispatcherRound (s : State) : Host.Outcome State Fault Refusal :=
  .next (
    if s.now < s.lastRound + atMost 2400 s.lastRound 0 then s
    else
      let cs := candidates s
      let parts := (cs.map (·.part)).eraseDups
      let s := creditRound { s with lastRound := s.now } parts
      let old (c : Cand) : Bool := decide (c.readyAt + 1200000 ≤ s.now)
      let l := sortBy (candBefore s) cs
      ((l.filter old ++ l.filter fun c => !old c).foldl (chooseNode parts) (s, [])).1)

/-! ## Residency (R289, R308) -/

/-- A core as a node leaves it: only its debug block, its queue window and its counters' selections stay. -/
def Core.blank (c : Core) : Core := { Core.reset with dbg := c.dbg, qwin := c.qwin, pmsel := c.pmsel }

/-- The claims of a core end as by `wrel` (R230). -/
def releaseClaim (s : State) (k : Nat) : State :=
  if (s.claimOf k).isSome then { pushCmd { s with cur := k } (.wrel s.now) with cur := s.cur } else s

/-- The cores of an instance are FREE of it (R301). -/
def freeCores (s : State) (l : List Nat) : State :=
  l.foldl (fun s k =>
    let s := releaseClaim (withdrawAcq s k) k
    dropFaults (s.putC k (s.getC k).blank) fun f => f.core = k && f.op.isNone) s

/-- An instance is gone: its cores are free. -/
def dropInst (s : State) (key : InstKey) : State :=
  match s.getInst key with
  | none => s
  | some i => (freeCores s i.cores).modX key.ctx fun c => { c with insts := c.insts.filter fun e => e.1 ≠ key }

/-- An instance is FAULTED before its start: its node fails with a code and a FOFF (R283). -/
def failInst (s : State) (key : InstKey) (code : Byte) (foff : W32) : State :=
  endNode (dropInst s key) key.ctx key.q key.seq code foff

/-- The code pages of an instance, as residency brings them in. -/
def codePages (x fn key : Nat) (i : Inst) : List (W64 × Nat) → State → Adm Unit
  | [], s => .ok s ()
  | (f, j) :: l, s =>
    let va : W64 := BitVec.ofNat 64 (i.segva.toNat / 65536 * 65536 + 65536 * j)
    let off := va.toNat - i.segva.toNat
    match opEntry s devCore x key with
    | some e => (match e.failed with | some code => .fail s code (foffOf 1 off) | none => .wait s)
    | none =>
      match translate s .device fn va .fetch false with
      | .wait => .wait (enterFault s devCore .S (some (x, key)) fn va false)
      | .bad code => .fail s (if code = cECC then cECC else cPERM) (foffOf 1 off)
      | .ok pa _ =>
        let skip := i.segva.toNat - va.toNat
        let n := min 65536 (i.segva.toNat + field i.header 8 4 - va.toNat) - skip
        if f ≠ BitVec.ofNat 64 (pa / 65536 * 65536) then .fail s cPERM (foffOf 1 off)
        else match firstErr s.errs (pa + skip) n with
          | some (d, code) => .fail s code (foffOf 1 ((off + d) / 16 * 16))
          | none => codePages x fn key i l s

/-- RESIDENCY_DONE (R289): code, records and schedule are resident; the counter of a D level is cleared (R308). -/
def execResidencyDone (ctx q seq : Nat) (s : State) : Host.Outcome State Fault Refusal :=
  .next (
    let key : InstKey := { ctx := ctx, q := q, seq := seq }
    match s.getInst key with
    | none => s
    | some i =>
      if i.st ≠ .admitted || i.cores = [] || !serves s ctx then s
      else
        let k := nodeKey q seq 2
        match codePages ctx (s.getX ctx).fn k i i.frames.zipIdx s with
        | .wait s => s
        | .fail s code foff => failInst (dropOpEntry s ctx k) key code foff
        | .ok s _ =>
          let done (s : State) : State := (dropOpEntry s ctx k).modInst key fun i => { i with st := .resident }
          if i.dLevel.isNone then done s
          else match opWrite s devCore ctx k i.dctr (leBytes 8 0) with
            | .ok s _ => done s
            | .wait s => s
            | .bad code _ => failInst (dropOpEntry s ctx k) key code (foffOf 0 0x30))

/-! ## Node start (R290) -/

/-- The bytes of the word offsets that a stream's instruction cache takes at residency: the first 4,096 words (R93). -/
def cacheFill (s : State) (k : Nat) (i : Inst) : Sparse W64 :=
  let n := min 4096 ((field i.header 8 4 - 0x90) / 8)
  (List.range n).filterMap fun j =>
    match fetchCode s k (0x90 + 8 * j) with
    | .ok l => some (0x90 + 8 * j, BitVec.ofNat 64 (leNat l))
    | _ => none

/-- A stream at node start (R89). -/
def startStream (entry now : Nat) (cache : Sparse W64) : Stream :=
  if entry = 0xFFFFFFFF then { Stream.reset with st := .stopped } else { Stream.reset with st := .aligned, pc := entry, last := now, cache := cache }

/-- The value of initialiser j (R287). -/
def initValue (i : Inst) (gidx j : Nat) : W32 :=
  match field i.launch (0x81 + 8 * j) 1 with
  | 0 => BitVec.ofNat 32 (field i.launch (0x84 + 8 * j) 4)
  | 1 => BitVec.ofNat 32 gidx
  | _ => BitVec.ofNat 32 i.size

/-- The state in which a core starts a node (R290). -/
def startedCore (c : Core) (i : Inst) (cache : Sparse W64) (now : Nat) : Core :=
  let entry (j : Nat) : Nat := field i.header (0x10 + 4 * j) 4
  let n : Core := { c.blank with inst := c.inst, gidx := c.gidx, started := true, tTime := now, aTime := now,
                                 s := startStream (entry 0) 0 cache, v := startStream (entry 1) 0 cache,
                                 a := startStream (entry 2) 0 cache, x := startStream (entry 3) 0 cache }
  (List.range (field i.launch 0x13 1)).foldl (fun n j => n.setReg (field i.launch (0x80 + 8 * j) 1) (initValue i c.gidx j)) n

/-- NODE_START (R290): the core of a group index starts; the last one makes the instance RUNNING. -/
def execNodeStart (ctx q seq gidx : Nat) (s : State) : Host.Outcome State Fault Refusal :=
  .next (
    let key : InstKey := { ctx := ctx, q := q, seq := seq }
    match s.getInst key with
    | none => s
    | some i =>
      match i.cores[gidx]? with
      | none => s
      | some k =>
        if i.st ≠ .resident || i.startedCores.contains k || !serves s ctx || ((s.getX ctx).departs && i.startedCores = []) then s
        else
          let s := if i.startedCores = [] then
              (s.modX ctx fun c => { c with instCount := c.instCount + 1 }).modInst key fun i => { i with number := (s.getX ctx).instCount + 1 }
            else s
          let s := s.putC k (startedCore (s.getC k) i (cacheFill s k i) s.now)
          s.modInst key fun i =>
            { i with startedCores := i.startedCores ++ [k], st := if i.startedCores.length + 1 = i.cores.length then .running else .resident })

/-! ## Node end (R89, R199, R230, R239, R240) -/

/-- Every stream of a core is STOPPED. -/
def Core.allStopped (c : Core) : Bool := c.s.st = .stopped && c.v.st = .stopped && c.a.st = .stopped && c.x.st = .stopped

/-- The operations that a node's words created. -/
def nodeOps (s : State) (key : InstKey) : List (Nat × Op) := (s.getX key.ctx).ops.filter fun e => e.2.node = key && e.2.attached

/-- An unfinished pair operation whose upper half a core of the node created (R228). -/
def upperOpen (s : State) (key : InstKey) : Bool :=
  (s.getX key.ctx).ops.any fun e => !e.2.st.finished && e.2.attached && e.2.body.upperCore.any fun k => (s.getC k).inst = some key

/-- What becomes of the attached operations of a node that ended (R239, R240). -/
def settleNodeOps (s : State) (key : InstKey) : State :=
  (nodeOps s key).foldl (fun s e =>
    match e.2.st with
    | .complete | .cancelled => retireOp s key.ctx e.1
    | .failed => orphanOp s key.ctx e.1
    | _ => s) s

/-- NODE_END (R89): the instance drains, then retires, and its node completes. -/
def execNodeEnd (ctx q seq : Nat) (s : State) : Host.Outcome State Fault Refusal :=
  .next (
    let key : InstKey := { ctx := ctx, q := q, seq := seq }
    match s.getInst key with
    | none => s
    | some i =>
      if (i.st ≠ .running && i.st ≠ .draining) || (s.getX ctx).halt.isSome then s
      else if i.cores = [] || !(i.cores.all fun k => (s.getC k).allStopped && !(s.getC k).away) then s
      else if (nodeOps s key).any (fun e => !e.2.st.finished) || upperOpen s key || i.cores.any (fun k => (s.getC k).flight.any fun f => f.stream = .A) then
        s.modInst key fun i => { i with st := .draining }
      else endNode (dropInst (settleNodeOps s key) key) ctx q seq 0)

end Sys2Proof.Machine
end

