-- ==== Sys2Proof/Machine/Shard.lean ====
section
/-! DEFINITION. Machine/Shard.lean: update shards (R402-R413): arming, contributions, the update of a chunk, and the glaze
words. -/

namespace Sys2Proof.Machine

/-! ## The shard table (R402, R403) -/

/-- The key of shard n of a function. -/
def shardKey (fn n : Nat) : Nat := 1024 * fnIdx fn + n
/-- The live fields of a shard. -/
def State.getShard (s : State) (fn n : Nat) : Shard := sget Shard.reset s.shards (shardKey fn n)
/-- The VA of a function's shard table; 0 where it has none. -/
def shardTable (s : State) (fn : Nat) : W64 := dcGet64 s (0x002C0000 + 8 * fnIdx fn)
/-- The VA of a shard's entry. -/
def shardVa (s : State) (fn n : Nat) : W64 := shardTable s fn + BitVec.ofNat 64 (128 * n)

/-- State codes (R403). -/
def ShardSt.code : ShardSt → Nat
  | .configured => 0 | .armed => 1 | .gathering => 2 | .applying => 3 | .published => 4 | .faulted => 5

/-- The shard is armed and not finished. -/
def ShardSt.open_ : ShardSt → Bool | .armed | .gathering | .applying => true | _ => false

/-- The device writes the D fields of an entry; the S bits of a shared byte stay (R403). -/
def imageShard (s : State) (fn n : Nat) : State :=
  let h := s.getShard fn n
  let va := shardVa s fn n
  let s := (s.devMerge fn (va + 1) 0xF8 (BitVec.ofNat 8 h.st.code)).devWrite fn (va + 2) [h.code]
  let s := s.devWrite fn (va + 0x0C) (leBytes 4 h.step.toNat)
  s.devWrite fn (va + 0x64) (leBytes 4 h.narrived.toNat ++ leBytes 4 h.ndone.toNat ++ leBytes 4 h.dupdrop.toNat ++
    leBytes 4 h.handle.toNat ++ leBytes 4 h.fchunk.toNat)

/-- Changing a shard; its entry follows. -/
def State.putShard (s : State) (fn n : Nat) (h : Shard) : State :=
  imageShard { s with shards := sput s.shards (shardKey fn n) h } fn n

/-- The S fields of an entry, by name. -/
structure ShardCfg where
  alg : Nat
  ncontrib : Nat
  stack : Nat
  chlog : Nat
  pubet : Nat
  pubrm : BitVec 2
  slot : Nat
  nparam : Nat
  w : W64
  m : W64
  v : W64
  grad : W64
  bm : W64
  pub : W64
  pubScale : W64
  seed : W32
  lr : W32
  beta1 : W32
  beta2 : W32
  eps : W32
  wd : W32
  gscale : W32
  deriving DecidableEq, Repr

/-- The S fields that 128 bytes hold. -/
def shardCfg (l : List Byte) : ShardCfg :=
  let ctl := field l 0 4
  let fmt := field l 4 4
  let w64 (o : Nat) : W64 := BitVec.ofNat 64 (field l o 8)
  let w32 (o : Nat) : W32 := BitVec.ofNat 32 (field l o 4)
  { alg := ctl / 2 % 8, ncontrib := ctl / 16 % 16 + 1, stack := ctl / 4096 % 8, chlog := fmt % 16, pubet := fmt / 16 % 32,
    pubrm := BitVec.ofNat 2 (fmt / 512), slot := fmt / 65536 % 1024, nparam := field l 8 4, w := w64 0x10, m := w64 0x18,
    v := w64 0x20, grad := w64 0x28, bm := w64 0x30, pub := w64 0x38, pubScale := w64 0x40, seed := w32 0x48, lr := w32 0x4C,
    beta1 := w32 0x50, beta2 := w32 0x54, eps := w32 0x58, wd := w32 0x5C, gscale := w32 0x60 }

/-- CHUNK. -/
def ShardCfg.chunk (c : ShardCfg) : Nat := 2 ^ c.chlog
/-- Chunks of the shard. -/
def ShardCfg.chunks (c : ShardCfg) : Nat := c.nparam / c.chunk
/-- The copy is a square-block type. -/
def ShardCfg.sb (c : ShardCfg) : Bool := (etTy c.pubet).2
/-- Bytes of the bitmap. -/
def ShardCfg.bmBytes (c : ShardCfg) : Nat := (c.ncontrib * c.chunks + 7) / 8

/-- VALID of an entry. -/
def shardValid (l : List Byte) : Bool := field l 0 1 % 2 = 1

/-- The S fields of an entry obey R403. -/
def shardGood (l : List Byte) : Bool :=
  let c := shardCfg l
  let ctl := field l 0 4
  let fmt := field l 4 4
  c.alg ≤ 2 && ctl / 2048 % 2 = 0 && ctl / 32768 % 2 = 0 && ctl / 2 ^ 24 = 0 &&
  6 ≤ c.chlog && c.chlog ≤ 10 && [0x08, 0x09, 0x0B, 0x0C, 0x10, 0x11, 0x12].contains c.pubet &&
  fmt / 2048 % 32 = 0 && fmt / 2 ^ 26 = 0 &&
  c.nparam % c.chunk = 0 && 64 ≤ c.nparam && decide (c.nparam ≤ 2 ^ 24) &&
  [c.w, c.m, c.v, c.grad, c.bm, c.pub, c.pubScale].all (fun a => a.toNat % 16 = 0) &&
  (c.alg = 0 || c.v = 0) && (c.pubet ≠ 8 || c.pub = 0) && (c.sb || c.pubScale = 0) && field l 0x78 8 = 0

/-- The areas of a shard: where each lies and its length. -/
def ShardCfg.areas (c : ShardCfg) : List (W64 × Nat) :=
  [(c.w, 4 * c.nparam), (c.m, 4 * c.nparam), (c.grad, 4 * c.ncontrib * c.nparam), (c.bm, c.bmBytes)] ++
  (if c.alg = 0 then [(c.v, 4 * c.nparam)] else []) ++
  (if c.pubet = 8 then [] else [(c.pub, c.nparam * etBits c.pubet / 8)]) ++
  (if c.sb then [(c.pubScale, c.nparam / 64)] else [])

/-- The 64 KiB pages of a shard's areas. -/
def ShardCfg.pages (c : ShardCfg) : List W64 :=
  (c.areas.flatMap fun e => (List.range ((e.1.toNat % 65536 + e.2 + 65535) / 65536)).map fun i =>
    BitVec.ofNat 64 (e.1.toNat / 65536 * 65536 + 65536 * i)).eraseDups

/-- A page is RESIDENT_HBM in a stack (R411). -/
def pageInStack (s : State) (fn stack : Nat) (va : W64) : Bool :=
  match walk s fn va with
  | .leaf _ e => eState e = sHBM && stackOf (eFrame e + va.toNat % 2 ^ pageBits e) = stack
  | .bad _ => false

/-! ## Arming (R404, R407, R411) -/

/-- pow(β, t) (R407). -/
def powBits (t : W32) : Nat → Nat → W32 → W32 → W32
  | 0, _, p, _ => p
  | n + 1, i, p, b => powBits t n (i + 1) (if t.getLsbD i then mulR p b else p) (mulR b b)

/-- pow(β, t) (R407), over the bits of t. -/
def fpow (b : W32) (t : W32) : W32 := powBits t 32 0 0x3F800000 b

/-- f32 one. -/
def f32One : W32 := 0x3F800000
/-- 1 - x. -/
def oneMinus (x : W32) : W32 := fsub 0 0 f32One x

/-- The constants c1, c2, r1, r2 of R407. -/
def shardConsts (c : ShardCfg) (t : W32) : List W32 :=
  match c.alg with
  | 0 => [oneMinus c.beta1, oneMinus c.beta2, fdiv 0 0 f32One (oneMinus (fpow c.beta1 t)), fdiv 0 0 f32One (oneMinus (fpow c.beta2 t))]
  | 1 => []
  | _ => [oneMinus c.beta1, oneMinus c.beta2]

/-- A `glzs` operation starts (R404, R411). -/
def startGlaze (s : State) (x slot : Nat) (o : Op) (sh step : W32) : State :=
  let fn := (s.getX x).fn
  let n := sh.toNat
  let refuse (s : State) : State := failOp s x slot cRANGE
  if 1023 < n || shardTable s fn = 0 then refuse s
  else match opRead s o.core x slot (shardVa s fn n) 128 with
    | .wait s => s
    | .bad code a => failOp s x slot code 0 a
    | .ok s l =>
      let c := shardCfg l
      let h := s.getShard fn n
      if !shardValid l || !shardGood l || h.st.open_ || decide (step.toNat ≤ h.step.toNat) then refuse s
      else if !c.pages.all (pageInStack s fn c.stack) then refuse s
      else
        let h : Shard := { h with st := .armed, step := step, narrived := 0, ndone := 0, dupdrop := if h.cleared then 0 else h.dupdrop,
                                  handle := o.handle, ctx := x, capture := l, consts := shardConsts c step, bitmap := [], done := [],
                                  pinned := c.pages, cleared := false }
        let s := s.devWrite fn c.bm (List.replicate c.bmBytes 0)
        setOpSt ((s.putShard fn n h).modO x slot fun p => { p with engine := BitVec.ofNat 16 (0x9000 + 16 * c.stack) }) x slot .running

/-- A shard faults (R404): its pages are unpinned and its operation fails. -/
def faultShard (s : State) (fn n : Nat) (code : Byte) (chunk : Nat) (va : W64) : State :=
  let h := s.getShard fn n
  let s := s.putShard fn n { h with st := .faulted, code := code, fchunk := BitVec.ofNat 32 chunk, pinned := [] }
  failOp s h.ctx (hSlot h.handle) code 0 va

/-! ## Arrivals (R405) -/

/-- How a contribution is met (R405). -/
inductive Arrival where
  | accepted | dropped | refused
  deriving DecidableEq, Repr

/-- The bitmap index of (chunk, contributor). -/
def bmIndex (c : ShardCfg) (chunk k : Nat) : Nat := chunk * c.ncontrib + k

/-- Every contribution of a chunk has arrived. -/
def chunkFull (c : ShardCfg) (h : Shard) (chunk : Nat) : Bool :=
  (List.range c.ncontrib).all fun k => h.bitmap.contains (bmIndex c chunk k)

/-- A contribution arrives at the base die (R405). A staging write that faults fails the shard (DEDUCED, assumption 18). -/
def contribute (s : State) (fn n : Nat) (step : W32) (chunk k : Nat) (vals : List Byte) : State × Arrival :=
  let h := s.getShard fn n
  let c := shardCfg h.capture
  let have_ := h.capture ≠ [] && h.bitmap.contains (bmIndex c chunk k) && decide (k < c.ncontrib)
  if h.st = .faulted && step = h.step then (s, .dropped)
  else if step.toNat < h.step.toNat || (step = h.step && have_) then
    (s.putShard fn n { h with dupdrop := satPlus h.dupdrop 1 }, .dropped)
  else if (h.st ≠ .armed && h.st ≠ .gathering) || step ≠ h.step || c.chunks ≤ chunk || c.ncontrib ≤ k then (s, .refused)
  else
    let va := c.grad + BitVec.ofNat 64 (4 * (k * c.nparam + chunk * c.chunk))
    match writeVa s .device fn va (vals.take (4 * c.chunk)) with
    | .wait _ => (s, .refused)
    | .bad code a => (faultShard s fn n code chunk a, .dropped)
    | .ok s =>
      let j := bmIndex c chunk k
      let h : Shard := { h with bitmap := j :: h.bitmap, narrived := h.narrived + 1 }
      let all := decide (h.bitmap.length = c.ncontrib * c.chunks)
      let h : Shard := { h with st := if all then .applying else .gathering }
      let byte := (List.range 8).map fun i => if h.bitmap.contains (8 * (j / 8) + i) then 2 ^ i else 0
      let s := s.devWrite fn (c.bm + BitVec.ofNat 64 (j / 8)) [BitVec.ofNat 8 byte.sum]
      (s.putShard fn n h, .accepted)

/-! ## The update of a chunk (R406-R409) -/

/-- a + c × b with the product rounded first (R407). -/
def mulAdd (a c b : W32) : W32 := addR a (mulR c b)

/-- sign(u) (R407). -/
def fsign (u : W32) : W32 :=
  match f32v u with
  | .nan => f32NaN
  | .fin neg m _ => if m = 0 then u else if neg then 0xBF800000 else f32One
  | .inf neg => if neg then 0xBF800000 else f32One

/-- The update of one parameter (R407): the new w, m and v. -/
def updateParam (c : ShardCfg) (k : List W32) (w m v g : W32) : W32 × W32 × W32 :=
  let c1 := k.getD 0 0
  let c2 := k.getD 1 0
  match c.alg with
  | 0 =>
    let m := mulAdd (mulR c.beta1 m) c1 g
    let v := mulAdd (mulR c.beta2 v) c2 (mulR g g)
    let den := addR (fsqrt 0 0 (mulR v (k.getD 3 0))) c.eps
    let u := fdiv 0 0 (mulR m (k.getD 2 0)) den
    let u := mulAdd u c.wd w
    (fsub 0 0 w (mulR c.lr u), m, v)
  | 1 =>
    let m := addR (mulR c.beta1 m) g
    let u := mulAdd m c.wd w
    (fsub 0 0 w (mulR c.lr u), m, v)
  | _ =>
    let u := fsign (mulAdd (mulR c.beta1 m) c1 g)
    let u := mulAdd u c.wd w
    (fsub 0 0 w (mulR c.lr u), mulAdd (mulR c.beta2 m) c2 g, v)

/-- The words of a run of bytes. -/
def wordsOf (l : List Byte) : List W32 := (List.range (l.length / 4)).map fun i => BitVec.ofNat 32 (field l (4 * i) 4)
/-- The bytes of words. -/
def bytesOf (l : List W32) : List Byte := l.flatMap fun (x : W32) => leBytes 4 x.toNat

/-- g of each parameter (R406): the contributions summed in the pairwise tree, times GSCALE. -/
def gradients (c : ShardCfg) (ls : List (List W32)) : List W32 :=
  (List.range c.chunk).map fun i => mulR (tree addR 0 (ls.map fun l => l.getD i 0)) c.gscale

/-- Codes of less than 32 bits as packed bytes. -/
def packCodes (bits : Nat) (l : List Nat) : List Byte :=
  if bits = 4 then (List.range (l.length / 2)).map fun i => BitVec.ofNat 8 (l.getD (2 * i) 0 % 16 + l.getD (2 * i + 1) 0 % 16 * 16)
  else l.flatMap fun c => leBytes (bits / 8) c

/-- Publishing square blocks (R408): codes, scales, the generators after, the events. -/
def pubBlocks (f : FFmt) (rm : BitVec 2) : List (List Num) → List W32 → List Nat × List Byte × Nat × Nat
  | [], _ => ([], [], 0, 0)
  | b :: l, g =>
    let g' := if rm = 3 && !blockBad b then g.map genNext else g
    let q := quantBlock f rm (if rm = 3 then g'.map genR else []) b
    let r := pubBlocks f rm l g'
    (q.codes.map (·.toNat) ++ r.1, q.scale :: r.2.1, q.sats + r.2.2.1, q.nans + r.2.2.2)

/-- Publishing single values (R408). -/
def pubValues (ty : NTy) (rm : BitVec 2) : List (Num × Nat) → List W32 → List Nat × Nat × Nat
  | [], _ => ([], 0, 0)
  | (v, i) :: l, g =>
    let (d, g) := drawIf rm g (i % 64)
    let n := narrow ty rm d v
    let r := pubValues ty rm l g
    (n.code :: r.1, r.2.1 + (if n.sat then 1 else 0), r.2.2 + if n.nan then 1 else 0)

/-- The generators of a chunk (R77). -/
def chunkGens (c : ShardCfg) (step : W32) (chunk : Nat) : List W32 :=
  seedGens (c.seed ^^^ (step * 0x85EBCA6B) ^^^ (BitVec.ofNat 32 chunk * 0xC2B2AE35))

/-- What a chunk publishes (R408): the bytes at PUBVA, the bytes at PUBSCALE, the events. -/
def publish (c : ShardCfg) (step : W32) (chunk : Nat) (ws : List W32) : List Byte × List Byte × Nat × Nat :=
  if c.pubet = 8 then ([], [], 0, 0)
  else
    let vals := ws.map f32v
    let g := chunkGens c step chunk
    match etTy c.pubet with
    | (.flt f, true) =>
      let blocks := (List.range (c.chunk / 64)).map fun i => (vals.drop (64 * i)).take 64
      let r := pubBlocks f c.pubrm blocks g
      (packCodes (etBits c.pubet) r.1, r.2.1, r.2.2.1, r.2.2.2)
    | (ty, _) =>
      let r := pubValues ty c.pubrm vals.zipIdx g
      (packCodes ty.bits r.1, [], r.2.1, r.2.2)

/-- Writing several areas in order, whole or not at all. -/
def writeAreas (fn : Nat) : List (W64 × List Byte) → State → Wr
  | [], s => .ok s
  | (va, l) :: r, s =>
    if l = [] then writeAreas fn r s
    else match writeVa s .device fn va l with
      | .ok s => writeAreas fn r s
      | e => e

/-- Reading several areas in order. -/
def readAreas (s : State) (fn n : Nat) : List W64 → Rd ⊕ List (List Byte)
  | [] => .inr []
  | va :: r =>
    match readVa s .device fn va n with
    | .ok l => (match readAreas s fn n r with | .inr ls => .inr (l :: ls) | e => e)
    | e => .inl e

/-- A chunk whose contributions are all present is applied (R406). -/
def applyChunk (s : State) (fn n chunk : Nat) (h : Shard) (c : ShardCfg) : State :=
  let size := 4 * c.chunk
  let at_ (va : W64) : W64 := va + BitVec.ofNat 64 (size * chunk)
  let grads := (List.range c.ncontrib).map fun k => c.grad + BitVec.ofNat 64 (4 * (k * c.nparam + chunk * c.chunk))
  match readAreas s fn size ([at_ c.w, at_ c.m] ++ grads ++ if c.alg = 0 then [at_ c.v] else []) with
  | .inl (.bad code va) => faultShard s fn n code chunk va
  | .inl _ => s
  | .inr ls =>
    let ls := ls.map wordsOf
    let gs := gradients c ((ls.drop 2).take c.ncontrib)
    let out := (List.range c.chunk).map fun i =>
      updateParam c h.consts ((ls.getD 0 []).getD i 0) ((ls.getD 1 []).getD i 0) ((ls.getD (2 + c.ncontrib) []).getD i 0) (gs.getD i 0)
    let ws := out.map (·.1)
    let (el, sc, sat, nan) := publish c h.step chunk ws
    let dst := [(at_ c.w, bytesOf ws), (at_ c.m, bytesOf (out.map (·.2.1)))] ++
      (if c.alg = 0 then [(at_ c.v, bytesOf (out.map (·.2.2)))] else []) ++
      [(c.pub + BitVec.ofNat 64 (el.length * chunk), el), (c.pubScale + BitVec.ofNat 64 (sc.length * chunk), sc)]
    match writeAreas fn dst s with
    | .bad code va => faultShard s fn n code chunk va
    | .wait _ => s
    | .ok s =>
      let s := (opSat s h.ctx (hSlot h.handle) c.slot sat nan 0xFFFF).1
      let h : Shard := { h with done := chunk :: h.done, ndone := h.ndone + 1 }
      if h.st = .applying && h.done.length = c.chunks then
        completeOp (s.putShard fn n { h with st := .published, pinned := [] }) h.ctx (hSlot h.handle)
      else s.putShard fn n h

/-- CHUNK_APPLY (R406). -/
def execChunkApply (fn shard chunk : Nat) (s : State) : Host.Outcome State Fault Refusal :=
  .next (
    let h := s.getShard fn shard
    let c := shardCfg h.capture
    if (h.st ≠ .gathering && h.st ≠ .applying) || c.chunks ≤ chunk || h.done.contains chunk || !chunkFull c h chunk then s
    else applyChunk s fn shard chunk h c)

/-- VALID of an armed shard's entry has been written 0 (R403). -/
def watchShards (s : State) : State :=
  { s with shards := s.shards.map fun e =>
      let fn := if e.1 / 1024 = 128 then 0x80 else e.1 / 1024
      match s.devRead fn (shardVa s fn (e.1 % 1024)) 1 with
      | some l => if shardValid l then e else (e.1, { e.2 with cleared := true })
      | none => e }

/-! ## The words (R410-R413) -/

/-- `glzs` (R411). -/
def execGlzs (h : Hdr) (o : FO) (s : State) : Host.Outcome State Fault Refusal :=
  runWord (.glzs h o) .S h o.g (some 2) s fun s =>
    with32 s .S o.a fun sh => with32 s .S o.b fun step => withAfter s .S o fun n =>
      createOp s .S n (.glaze sh step) fun s hd _ =>
        result s .S o.d 1 2 (hd.setWidth 128)

/-- A `glza` at the shard's base die (R405, R412). -/
def homeGlaze (s : State) (k : Nat) (a : Ask) : State :=
  let fn := s.coreFn (s.getC k)
  let n := a.a.toNat
  let h := s.getShard fn n
  let c := shardCfg h.capture
  let out (r : State × Arrival) : State := replyTo r.1 k (match r.2 with | .accepted => 1 | .dropped => 0 | .refused => 2)
  if 1023 < n || shardTable s fn = 0 then replyTo s k 2
  else if a.b.toNat % 16 ≠ 0 then failTo s k cALIGN a.b
  else if h.capture = [] then replyTo s k 2
  else match (s.getB (benchOf k)).faults.find? fun f => f.core = k && f.stream = .S && f.op.isNone with
    | some f => (match f.failed with
      | some code => failTo (dropFaults s fun g => g = f) k code f.va
      | none => s)
    | none =>
      match readVa s (.core k) fn a.b (4 * c.chunk) with
      | .wait va => enterFault s k .S none fn va false
      | .bad code va => failTo s k code va
      | .ok l => out (contribute s fn n h.step (a.c.extractLsb' 0 18).toNat (a.c.extractLsb' 28 4).toNat l)

/-- `glza` (R412). -/
def execGlza (h : Hdr) (o : FR) (s : State) : Host.Outcome State Fault Refusal :=
  runWord (.glza h o) .S h o.g (some 2) s fun s =>
    with32 s .S o.a fun sh => with64 s .S o.b fun src => with32 s .S o.c fun key =>
      requestAct s o.d 1 2 { op := .glza, a := sh, b := src, c := key, m := 0 }

/-- Word k of a live entry (R413). -/
def shardWord (h : Shard) (k : Nat) : W32 :=
  match k with
  | 0 => BitVec.ofNat 32 (h.code.toNat * 256 + h.st.code)
  | 1 => h.step
  | 2 => h.ndone
  | _ => h.dupdrop

/-- `glzq` (R413). -/
def execGlzq (h : Hdr) (o : FR) (s : State) : Host.Outcome State Fault Refusal :=
  runWord (.glzq h o) .S h o.g (some 4) s fun s =>
    with32 s .S o.a fun sh => with32 s .S o.b fun k =>
      let fn := s.coreFn s.core
      let valid : Bool := decide (sh.toNat ≤ 1023) && shardTable s fn ≠ 0 &&
        match s.devRead fn (shardVa s fn sh.toNat) 1 with | some l => shardValid l | none => false
      result s .S o.d 1 4 ((if valid then shardWord (s.getShard fn sh.toNat) (k.toNat % 4) else 0xFFFFFFFF : W32).setWidth 128)

/-! ## Requests of S words (R311) -/

/-- The word's entry gives it a release (R311, R318, R335, R348, R412). -/
def askReleases : AskOp → Bool | .barrive | .barleave | .qsignal | .evpost | .glza => true | _ => false

/-- Stores of the core that have not been performed: those that wait, and fabric stores whose acknowledgement is awaited. -/
def Core.storesOpen (c : Core) : Bool := c.aFlight.any fun f => f.unpassed && !f.produces

/-- `evpost` at its home (R346, R348): the event is written or dropped; it waits for its entry's page, and behind an earlier event of the
context. -/
def askEvent (s : State) (k : Nat) (a : Ask) : State :=
  let x := (s.getC k).ctx
  match ((s.getB (benchOf k)).faults.find? fun f => f.core = k && f.stream = .S && f.op.isNone) with
  | some f =>
    if f.failed.isSome then replyTo (eventLost (dropFaults s fun g => g.core = k && g.stream = .S && g.op.isNone) x) k 0 else s
  | none =>
    if eventsWait s x then s
    else match tryEvent s x 6 0 k (a.a.setWidth 64) a.b s.coldClock with
      | .written s => replyTo s k 1
      | .dropped s => replyTo s k 0
      | .wait page => enterFault s k .S none (s.getX x).fn page true

/-- A request is performed at its home (R311). -/
def performAsk (s : State) (k : Nat) (a : Ask) : State :=
  match a.op with
  | .gclaim => homeClaim s k a
  | .barinit => homeInit s k a
  | .barrive | .barleave => homeArrive s k a
  | .barwait | .bartest => homeWait s k a
  | .qsignal => homeSignal s k a
  | .evpost =>
    askEvent s k a
  | .glza => homeGlaze s k a

/-- HOME_REQUEST_ARRIVAL (R311): a request of core k arrives at its home, or the reply that it awaits has come about. -/
def execHomeRequestArrival (core : Nat) (s : State) : Host.Outcome State Fault Refusal :=
  .next (match (s.getC core).req with
    | .sent a => if askReleases a.op && (s.getC core).storesOpen then s else performAsk s core a
    | .applied a =>
      (match a.op with
       | .barinit => finishInit s core a
       | _ => s)
    | _ => s)

end Sys2Proof.Machine
end

