-- ==== Sys2Proof/Machine/Near.lean ====
section
/-! DEFINITION. Machine/Near.lean: compute in the memory stacks (R371-R380): dot mode, `bdmode`, `bdot`, the droop guard, page
moves by `pmig`, and the steps of pages, translations and access counters (R364-R369). -/

namespace Sys2Proof.Machine

/-! ## Dot mode (R374) -/

/-- The channels that some context's set holds. -/
def setChannels (s : State) : List Nat := (s.ctxs.flatMap fun e => e.2.dotSet).eraseDups

/-- The channels whose mode differs between two states. -/
def modeChanges (before after : State) : List Nat :=
  ((setChannels before ++ setChannels after).eraseDups).filter fun ch => dotWanted before ch != dotWanted after ch

/-- Every channel whose mode changed begins its change, at most 2,048 DRAM clocks long. -/
def applyDot (before after : State) : State :=
  let l := modeChanges before after
  let kept := after.chanChange.filter fun e => !l.contains e.1
  { after with chanChange := kept ++ l.map fun ch => (ch, dotWanted after ch, after.now + atMost 2458 after.now ch) }

/-- DOT_MODE_CHANGE_DONE (R374): a channel's change of mode is complete. -/
def execDotModeChangeDone (chan : Nat) (s : State) : Host.Outcome State Fault Refusal :=
  .next { s with chanChange := s.chanChange.filter fun e => !(e.1 = chan && decide (e.2.2 ≤ s.now)) }

/-- Changing the contexts of the machine, with the modes that follow. -/
def withDot (s : State) (f : State → State) : State := applyDot s (f s)

/-! ## Pages named by a word (R376, R377) -/

/-- The pages from `a` on. -/
def pageList (a : W64) (n : Nat) : List W64 := (List.range n).map fun i => a + BitVec.ofNat 64 (65536 * i)

/-- The checks of the operands of `pmig` and `bdmode`. -/
def withPages (a : W64) (n : W32) (k : List W64 → Act) : Act :=
  if a.toNat % 65536 ≠ 0 then .fault { stopCode cALIGN with addr := a }
  else if n = 0 || decide (2 ^ 55 < a.toNat + 65536 * n.toNat) then .fault { stopCode cRANGE with addr := a }
  else k (pageList a n.toNat)

/-- The first page that faults; waiting pages pass where `waits` is unset. -/
inductive PageChk where
  | pass
  | wait (va : W64)
  | bad (code : Byte) (va : W64)
  deriving DecidableEq, Repr

/-- Translating pages in order. -/
def checkPages (s : State) (b : Via) (fn : Nat) (p : Perm) (waits : Bool) (f : W64 → Nat → W64 → Option Byte) : List W64 → PageChk
  | [] => .pass
  | va :: l =>
    match translate s b fn va p false with
    | .bad c => .bad c va
    | .wait => if waits then .wait va else checkPages s b fn p waits f l
    | .ok pa e => match f va pa e with | some c => .bad c va | none => checkPages s b fn p waits f l

/-- Every row of the COMPUTE frame at PA is the function's. -/
def frameOwned (s : State) (fn pa : Nat) : Bool := (List.range 64).all fun r => rowOwned s fn (pa / 65536 * 65536 + 1024 * r)

/-- `bdmode` (R377): its checks, the change of the context's set, and the wait for every change of mode. -/
def execBdmode (h : Hdr) (o : FR) (s : State) : Host.Outcome State Fault Refusal :=
  runWord (.bdmode h o) .A h o.g (some 1) s fun s =>
    match s.core.aPend with
    | .dots n chans =>
      if chans.any fun ch => s.chanChange.any fun e => e.1 = ch then .wait s
      else result (s.setCore { s.core with aPend := .none }) .A o.d 1 1 (BitVec.ofNat 128 n)
    | _ =>
      with64 s .A o.a fun a => with32 s .A o.b fun n => whenPassed s <| withPages a n fun pages =>
        let fn := s.coreFn s.core
        let row (_ : W64) (pa : Nat) (e : W64) : Option Byte :=
          if eState e ≠ sCOMP then some cRANGE else if frameOwned s fn pa then none else some cROW
        if waitsFault s s.cur .A then .wait s
        else match checkPages s (.core s.cur) fn .rd true row pages with
          | .bad c va => .fault { stopCode c with addr := va }
          | .wait va => .wait (enterFault s s.cur .A none fn va false)
          | .pass =>
            let chans := (pages.filterMap (pageChannel s fn)).eraseDups
            let on := o.m.getLsbD 0
            let set (l : List Nat) : List Nat := if on then (l ++ chans).eraseDups else l.filter fun ch => !chans.contains ch
            let s' := s.modX s.core.ctx fun c => { c with dotSet := set c.dotSet }
            let changed := modeChanges s s'
            let s := applyDot s s'
            if changed = [] then result s .A o.d 1 1 0
            else .wait (s.setCore { s.core with aPend := .dots changed.length changed })

/-! ## Bank dot operations (R378-R380) -/

/-- A bank dot descriptor. -/
structure BDesc where
  row : W64
  x : W64
  out : W64
  n : Nat
  len : Nat
  stride : Nat
  fmt : Nat
  scale : W32
  deriving DecidableEq, Repr

/-- The descriptor that 64 bytes hold. -/
def bdescOf (l : List Byte) : BDesc :=
  { row := BitVec.ofNat 64 (field l 0 8), x := BitVec.ofNat 64 (field l 8 8), out := BitVec.ofNat 64 (field l 0x10 8), n := field l 0x18 4,
    len := field l 0x1C 4, stride := field l 0x20 4, fmt := field l 0x24 1, scale := BitVec.ofNat 32 (field l 0x28 4) }

/-- Bytes of an element. -/
def BDesc.esz (d : BDesc) : Nat := if d.fmt = 2 then 2 else 1

/-- The fields of a descriptor are in range (R378, R380); a misaligned OUTVA breaks its field. -/
def bdescOk (l : List Byte) : Bool :=
  let d := bdescOf l
  d.fmt ≤ 3 && 1 ≤ d.n && decide (d.n ≤ 2 ^ 20) && 1 ≤ d.len && decide (d.len ≤ if d.fmt = 2 then 512 else 1024) &&
  d.stride ≠ 0 && d.stride % d.esz = 0 && !(d.fmt = 3 && d.scale ≠ 0) && d.out.toNat % 4 = 0 &&
  (l.drop 0x25).take 3 = [0, 0, 0] && (l.drop 0x2C).take 20 = List.replicate 20 0

/-- The VA of row r. -/
def BDesc.rowVa (d : BDesc) (r : Nat) : W64 := d.row + BitVec.ofNat 64 (r * d.stride)

/-- The descriptor's VA of a bank dot operation. -/
def OpBody.bdot? : OpBody → Option W64 | .bdot d => some d | _ => none

/-- `bdot` (R378). -/
def execBdot (h : Hdr) (o : FO) (s : State) : Host.Outcome State Fault Refusal :=
  runWord (.bdot h o) .A h o.g (some 2) s fun s =>
    with64 s .A o.a fun desc => withAfter s .A o fun n => whenPassed s <|
      createOp s .A n (.bdot desc) fun s hd _ =>
        result s .A o.d 1 2 (hd.setWidth 128)

/-- A bank dot operation starts (R380): its descriptor is read and checked. -/
def startBdot (s : State) (x slot : Nat) (o : Op) (desc : W64) : State :=
  if desc.toNat % 64 ≠ 0 then failOp s x slot cALIGN 0 desc
  else match opRead s o.core x slot desc 64 with
    | .wait s => s
    | .bad code va => failOp s x slot code 0 va
    | .ok s l => if bdescOk l then startOp (s.modO x slot fun o => { o with got := l, entry := 0 }) x slot else failOp s x slot cRANGE

/-- The unit of row r: its page's channel; rows without a COMPUTE page have one of their own. -/
def rowUnit (s : State) (fn : Nat) (d : BDesc) (r : Nat) : Nat := (pageChannel s fn (d.rowVa r)).getD 3072

/-- The next row of a unit. -/
def nextRow (s : State) (fn : Nat) (d : BDesc) (o : Op) (chan : Nat) : Option Nat :=
  let lo := sget 0 o.recv chan
  ((List.range (d.n - lo)).map (· + lo)).find? fun r => rowUnit s fn d r = chan

/-- An element's value. -/
def bankValue (fmt code : Nat) : Num :=
  match fmt with
  | 0 => FFmt.e4m3.value code
  | 1 => FFmt.e5m2.value code
  | _ => FFmt.bf16.value code

/-- The result of a row (R379). -/
def bankDot (d : BDesc) (w x : List Byte) : W32 :=
  let code (l : List Byte) (i : Nat) : Nat := field l (d.esz * i) d.esz
  if d.fmt = 3 then
    BitVec.ofInt 32 ((List.range d.len).map fun i => intOf true 8 (code w i) * intOf true 8 (code x i)).sum
  else
    let p (i : Nat) : Num := if i < d.len then (bankValue d.fmt (code w i)).mul (bankValue d.fmt (code x i)) else .zero
    let g := (List.range ((d.len + 7) / 8)).map fun j => toF32 0 0 (sumExact ((List.range 8).map fun i => p (8 * j + i)))
    mulR (tree addR 0 g) d.scale

/-- A product of a group with the residue that the unit carries for it (R372): its sign, its significand, that residue, its exponent. -/
structure BankTerm where
  neg : Bool
  m : Int
  r : Int
  e : Int
  deriving DecidableEq, Repr

/-- The sign and the exponent of a float's significand; NaN and infinity have M = 0. -/
def bankSign (fmt code : Nat) : Bool × Int := match bankValue fmt code with | .fin neg _ e => (neg, e) | _ => (false, 0)

/-- Product i of a row with the vector: the row's element comes with its stored residue. -/
def bankTerm (s : State) (d : BDesc) (pa : Nat) (w x : List Byte) (i : Nat) : BankTerm :=
  let code (l : List Byte) : Nat := field l (d.esz * i) d.esz
  let sg (l : List Byte) : Bool × Int := if d.fmt = 3 then (false, 0) else bankSign d.fmt (code l)
  { neg := (sg w).1 != (sg x).1, m := sigM d.fmt (code w) * sigM d.fmt (code x),
    r := (s.residueAt d.fmt (pa + d.esz * i) * residueOf d.fmt (code x) : Nat) % residueMod d.fmt, e := (sg w).2 + (sg x).2 }

/-- The exact aligned sum of a group's terms, each taken by `f`. -/
def alignedSum (l : List BankTerm) (f : BankTerm → Int) : Int :=
  let lo := (l.map (·.e)).foldl min ((l.map (·.e)).headD 0)
  (l.map fun t => (if t.neg then -1 else 1) * f t * 2 ^ (t.e - lo).toNat).sum

/-- A unit's checks of a row (R372): each product, and each group's exact aligned sum, against its residue. -/
def residuesHold (s : State) (d : BDesc) (pa : Nat) (w x : List Byte) : Bool :=
  let m : Int := residueMod d.fmt
  let group (j : Nat) : List BankTerm := ((List.range 8).map (8 * j + ·)).filterMap fun i => if i < d.len then some (bankTerm s d pa w x i) else none
  (List.range ((d.len + 7) / 8)).all fun j =>
    (group j).all (fun t => t.m % m = t.r) && alignedSum (group j) (·.m) % m = alignedSum (group j) (·.r) % m

/-- Row activations of a stack in its window (R375). -/
def droopUsed (s : State) (stack : Nat) : Nat := (sget (0, 0) s.droop stack).2

/-- A row activation in a stack (R375): counted in its window, or delayed beyond LIMIT. -/
def activate (s : State) (stack : Nat) : State :=
  let w := sget (s.now, 0) s.droop stack
  { s with droop := sput s.droop stack (w.1, w.2 + 1) }

/-- The row of a unit is computed (R379, R380). -/
def runRow (s : State) (x slot chan r : Nat) (o : Op) (d : BDesc) : State :=
  let va := d.rowVa r
  let n := d.len * d.esz
  let fn := (s.getX x).fn
  let k := o.core
  let index := BitVec.ofNat 32 r
  let fail (s : State) (code : Byte) (at_ : W64) : State :=
    failOp (if chan < 3072 then s.modO x slot fun o => { o with engine := BitVec.ofNat 16 (0x8000 + chan) } else s) x slot code index at_
  if 1024 < va.toNat % 1024 + n then fail s cRANGE va
  else match opRead s k x slot va n with
    | .wait s => s
    | .bad code _ => fail s code va
    | .ok s w =>
      let good : Bool := match walk s fn va with | .leaf _ e => eState e = sCOMP && eCfmt e = d.fmt | .bad _ => false
      if !good || !inDot s chan then fail s cRANGE va
      else
        let write (s : State) (xv : List Byte) : State :=
          if !residuesHold s d ((paOf s fn va).getD 0) w xv then fail s cRESIDUE va
          else match opWrite s k x slot (d.out + BitVec.ofNat 64 (4 * r)) (leBytes 4 (bankDot d w xv).toNat) with
          | .wait s => s
          | .bad code a => fail s code a
          | .ok s _ =>
            ((activate s (chan / 384)).modO x slot fun o =>
              { o with entry := o.entry + 1, recv := sput o.recv chan (r + 1), inputs := sput o.inputs chan xv, deliv := satPlus o.deliv n,
                       notices := o.notices.filter (· ≠ chan) }).imageOp x slot
        match sfind o.inputs chan with
        | some xv => write s xv
        | none => match opRead s k x slot d.x n with
          | .wait s => s
          | .bad code _ => fail s code va
          | .ok s xv => write s xv

/-- A unit of a cancelled operation stops after its row in progress (R251, R380); once every unit has stopped the operation is CANCELLED,
unless that was its last row. -/
def stopUnit (s : State) (x slot chan : Nat) (d : BDesc) : State :=
  let s := s.modO x slot fun o => { o with recv := sput o.recv chan d.n }
  match s.getO x slot with
  | none => s
  | some o =>
    let fn := (s.getX x).fn
    if o.st ≠ .running || o.entry = d.n || (List.range d.n).any (fun r => decide (sget 0 o.recv (rowUnit s fn d r) ≤ r)) then s
    else cancelOp s x slot

/-- BANK_DOT_ROW (R379): a unit computes its next row; it waits while its channel changes mode (R374), and in the next window
where the stack's limit is reached (R375). -/
def execBankDotRow (ctx slot chan : Nat) (s : State) : Host.Outcome State Fault Refusal :=
  .next (match s.getO ctx slot with
    | none => s
    | some o =>
      if o.st ≠ .running || o.body.bdot?.isNone || o.got = [] || !servesOrDrains s ctx then s
      else
        let d := bdescOf o.got
        match nextRow s (s.getX ctx).fn d o chan with
        | none => s
        | some r =>
          let changing := s.chanChange.any fun e => e.1 = chan
          if o.cancel then
            let s' := if changing then s else runRow s ctx slot chan r o d
            let done := changing || (s'.getO ctx slot).any fun p => p.entry ≠ o.entry
            if done then stopUnit s' ctx slot chan d else s'
          else if changing then s
          else if chan < 3072 && decide ((dcGet s (0x002B2000 + 0x800 * (chan / 384))).toNat ≤ droopUsed s (chan / 384)) then
            (if o.notices.contains chan then s
             else dcCount (s.modO ctx slot fun o => { o with notices := chan :: o.notices }) (0x002B2004 + 0x800 * (chan / 384)) 1)
          else runRow s ctx slot chan r o d)

/-- DROOP_WINDOW (R375): a window of 32 DRAM clocks ends. -/
def execDroopWindow (stack : Nat) (s : State) : Host.Outcome State Fault Refusal :=
  .next (match sfind s.droop stack with
    | some w => if w.1 + 39 ≤ s.now then { s with droop := sdel s.droop stack } else s
    | none => s)

/-- ROWVAL (R373): an owner is written for the rows that ROWADDR names. -/
def execRowval (stack : Nat) (val : BitVec 32) (s : State) : Host.Outcome State Fault Refusal :=
  let a := dcGet s (0x002B2018 + 0x800 * stack)
  let base := (dcGet64 s (0x002B2010 + 0x800 * stack)).toNat + 64 * (a.extractLsb' 6 20).toNat
  let b : Byte := val.setWidth 8
  .next (if a.getLsbD 26 then s.paStore base (List.replicate 64 b) else s.paStore (base + (a.extractLsb' 0 6).toNat) [b])

/-! ## Page moves by `pmig` (R376) -/

/-- The target state of a mode. -/
def pmigTo (cached : Bool) (mode : Nat) : Nat :=
  match mode with | 0 => sPOOL | 1 => sHBM | 2 => sCOMP | 3 => if cached then sPOOL else sHBM | _ => sABSENT

/-- The From states of a mode. -/
def pmigFrom (mode : Nat) : List Nat :=
  match mode with | 0 => [sHBM] | 1 => [sPOOL] | 2 => [sHBM, sPOOL] | 3 => [sCOMP] | _ => [sHBM, sPOOL, sCOMP]

/-- The ring that gives the new frame. -/
def pmigRing (cached : Bool) (mode : Nat) : Option Nat :=
  match mode with | 0 => some 1 | 1 => some 0 | 2 => some 0 | 3 => some (if cached then 1 else 0) | _ => none

/-- The CFMT of a type code (R361, R376). -/
def cfmtOf (t : BitVec 4) : Nat := match (tyOf t.toNat) with | .flt .e5m2 => 1 | .flt .bf16 => 2 | .flt _ => 0 | _ => 3

/-- The frame at the head of HFREE is in an EXCL channel of another function (R373). -/
def headBarred (s : State) (fn : Nat) : Bool :=
  match ringHead s (ringPart s fn) 0 with
  | some pa =>
    let ex := dcGet s (0x002B2100 + 0x800 * stackOf pa + 4 * (frameIdx pa % 384))
    ex.getLsbD 8 && (ex &&& 0xFF).toNat ≠ fn
  | none => false

/-- The new frame of a move: a bad entry is skipped over, a barred one stays at the head. -/
def pmigFrame (s : State) (fn mode : Nat) (ring : Nat) : State × Option W64 :=
  let s := ringSkip s (ringPart s fn) ring (2 ^ 20)
  if mode = 2 && headBarred s fn then (s, none) else ringTake s (ringPart s fn) ring

/-- A bank dot operation may name rows of a page: its rows lie between the first and the last of its descriptor. -/
def bdotNames (s : State) (x : Nat) (o : Op) (va : W64) : Bool :=
  match o.body.bdot? with
  | none => false
  | some desc =>
    match (if o.got = [] then s.devRead (s.getX x).fn desc 64 else some o.got) with
    | none => true
    | some l =>
      let d := bdescOf l
      decide (d.row.toNat < va.toNat + 65536) && decide (va.toNat < d.row.toNat + (d.n - 1) * d.stride + d.len * d.esz)

/-- The unfinished bank dot operations that name rows of a page. -/
def bdotsOn (s : State) (fn : Nat) (va : W64) : List (Nat × W32) :=
  ((allOps s).filter fun e => (s.getX e.1).fn = fn && !e.2.2.st.finished && bdotNames s e.1 e.2.2 va).map fun e => (e.1, e.2.2.handle)

/-- An armed shard holds the page (R404). -/
def pinnedPage (s : State) (fn : Nat) (va : W64) : Bool := s.shards.any fun e => e.1 / 1024 = fnIdx fn && e.2.pinned.contains (pageOf va)

/-- One page of a `pmig`, which skips a pinned page as one in no From state (R404): whether it is counted, and the page whose move is queued. -/
def pmigPage (fn mode cfmt : Nat) (s : State) (va : W64) : State × Bool × Option W64 :=
  let cached := cachedMode s fn
  match walk s fn va with
  | .bad _ => (s, false, none)
  | .leaf pa e =>
    let moving := s.moves.any fun m => m.fn = fn && m.va = va
    if eState e = pmigTo cached mode && !moving then (s, true, none)
    else if eSize e ≠ 0 || eHost e || moving || pinnedPage s fn va || !(pmigFrom mode).contains (eState e) || (cached && mode ≤ 1) then (s, false, none)
    else
      let (s, frame, ok) : State × Option W64 × Bool := match pmigRing cached mode with
        | none => (s, none, true)
        | some k => let r := pmigFrame s fn mode k; (r.1, r.2, r.2.isSome)
      if !ok then (s, false, none)
      else
        let s := match frame with | some f => if mode = 2 then ownRows s fn f.toNat else s | none => s
        let target := eWithFmt (eSet e (pmigTo cached mode) (frame.getD 0)) (if mode = 2 then cfmt else 0)
        let after := if eState e = sCOMP then some (bdotsOn s fn va) else none
        (moveQueue s { fn := fn, va := va, entryPa := pa, before := e, target := target,
                       oldFrame := some (BitVec.ofNat 64 (eFrame e)), newFrame := frame, after := after }, true, some va)

/-- `pmig` (R376). -/
def execPmig (h : Hdr) (o : FR) (s : State) : Host.Outcome State Fault Refusal :=
  runWord (.pmig h o) .A h o.g (some 1) s fun s =>
    let fn := s.coreFn s.core
    match s.core.aPend with
    | .moves n f vas =>
      if s.moves.any fun m => m.fn = f && vas.contains m.va then .wait s
      else result (s.setCore { s.core with aPend := .none }) .A o.d 1 1 (BitVec.ofNat 128 n)
    | _ =>
      with64 s .A o.a fun a => with32 s .A o.b fun n => whenPassed s <| withPages a n fun pages =>
        match checkPages s (.core s.cur) fn .wr false (fun _ _ _ => none) pages with
        | .bad c va => .fault { stopCode c with addr := va }
        | _ =>
          let step (a : State × Nat × List W64) (va : W64) : State × Nat × List W64 :=
            let r := pmigPage fn (immNat o.c) (cfmtOf o.t) a.1 va
            (r.1, a.2.1 + (if r.2.1 then 1 else 0), a.2.2 ++ r.2.2.toList)
          let (s, count, vas) := pages.foldl step (s, 0, [])
          if o.m.getLsbD 0 && vas ≠ [] then .wait (s.setCore { s.core with aPend := .moves count fn vas })
          else result s .A o.d 1 1 (BitVec.ofNat 128 count)

/-! ## Steps of pages (R366-R369) -/

/-- The queued move of a page starts, or its new frame goes back where software has rewritten the entry. -/
def startMove (s : State) (m : PageMove) : State :=
  let s := { s with moves := s.moves.filter fun n => n ≠ m }
  if s.pa64 m.entryPa = m.before then moveBegin s { m with after := none } else giveBack s m.fn m.newFrame

/-- PAGE_MOVE_DONE (R366, R367, R376): a begun move is done; a move that follows bank dot operations begins once they have
finished. -/
def execPageMoveDone (fn : Nat) (va : BitVec 64) (s : State) : Host.Outcome State Fault Refusal :=
  .next (match s.moves.find? fun m => m.fn = fn && m.va = va with
    | none => s
    | some m =>
      match m.after with
      | none => moveEnd s m
      | some l => if l.any fun e => match (s.getX e.1).op? e.2 with | some o => !o.st.finished | none => false then s else startMove s m)

/-- A frame for an ABSENT page (R366): of HFREE in main mode, otherwise of PFREE. -/
def touchFrame (s : State) (fn : Nat) : State × Option (Nat × W64) :=
  let r := if cachedMode s fn then (s, none) else ringTake s (ringPart s fn) 0
  match r with
  | (s, some f) => (s, some (sHBM, f))
  | (s, none) => match ringTake s (ringPart s fn) 1 with
    | (s, some f) => (s, some (sPOOL, f))
    | (s, none) => (s, none)

/-- The waiters of lock words on a page that has a frame again wait there, and take the words that are free (R192, R193). -/
def lockRegain (s : State) (fn : Nat) (va : W64) (frame : Nat) : State :=
  let s := moveLocks s fn va (some frame)
  ((s.lockQ.filter fun w => w.home = fn && pageOf w.va = pageOf va).map (·.pa)).eraseDups.foldl grantLock s

/-- An access waits for a page of a function: one of a fault buffer, one of the device itself (R462), or a waiter of a lock word whose page
has no frame. -/
def pageWanted (s : State) (fn : Nat) (va : W64) : Bool :=
  (s.benches.any fun e => e.2.faults.any fun f => f.fn = fn && pageOf f.va = pageOf va && f.failed.isNone) ||
  (s.devQ.any fun e => e.fn = fn && pageOf e.page = pageOf va && !e.failed) ||
  s.lockQ.any fun w => w.gone && w.home = fn && pageOf w.va = pageOf va

/-- An ABSENT page is touched (R366, R363). -/
def touchAbsent (s : State) (fn : Nat) (va : W64) (pa : Nat) (e : W64) : State :=
  if eSize e ≠ 0 then failPage s fn va cABSENT
  else match touchFrame s fn with
    | (s, none) => failPage s fn va cABSENT
    | (s, some (st, f)) =>
      let e' := eSet e st f
      let s := (zeroFill s (keyOf s fn) f.toNat).paStore pa (leBytes 8 e'.toNat)
      let s := if st = sPOOL then counterTake s fn (pageOf va) e' else s
      lockRegain s fn va f.toNat

/-- The payload of a request for a page (R354; DESIGN CHOICE, assumption 21). -/
def pullCode : Byte := 5

/-- A REMOTE page is touched: it is pulled from its owner, once (R354). -/
def pullPage (s : State) (fn : Nat) (va : W64) (e : W64) : State :=
  let p : W64 := BitVec.ofNat 64 (va.toNat / 65536 * 65536)
  if s.pulled.contains (fn, p) then s
  else
    let w := remoteOwner e
    { s with pulled := s.pulled ++ [(fn, p)] }.send fn w.1 w.2 12 p 0 [pullCode]

/-- PAGE_TOUCH (R366): a waiting access touches its page. -/
def execPageTouch (fn : Nat) (va : BitVec 64) (s : State) : Host.Outcome State Fault Refusal :=
  .next (
    if !pageWanted s fn va then s
    else match walk s fn va with
      | .bad _ => s
      | .leaf pa e =>
        if eState e = sABSENT then touchAbsent s fn va pa e
        else if eState e = sREMOTE then pullPage s fn va e
        else if touchMoves s fn e then moveToHbm s fn va pa e
        else s)

/-- DECAY_PERIOD (R369): the counters of a partition's pages are halved. -/
def execDecayPeriod (part : Nat) (s : State) : Host.Outcome State Fault Refusal :=
  let d := (dcGet s (0x002B1038 + 0x40 * part)).toNat / 65536
  .next (if d = 0 || s.now < sget 0 s.decayAt part + 1024 * d then s
    else { s with decayAt := sput s.decayAt part s.now,
                  counters := s.counters.map fun (e : Nat × Byte) => if partOf s (keyFn e.1) = some part then (e.1, e.2 >>> (1 : Nat)) else e })

/-- RCONS_WRITE (R368): software has consumed entries of RET; held frames follow while there is room. -/
def execRconsWrite (part : Nat) (val : BitVec 32) (s : State) : Host.Outcome State Fault Refusal :=
  let s := dcPut s (0x002B102C + 0x40 * part) val
  let mine := s.heldFrames.filter fun e => e.1 = part
  .next (mine.foldl (fun (s : State) e => ringReturn s part e.2) { s with heldFrames := s.heldFrames.filter fun e => e.1 ≠ part })

/-! ## Translations (R364, R365) -/

/-- The walkers of a die, which serve its benches' buffers in arrival order (R364). -/
def walkers : Nat := 64

/-- The walk of a bench that a walker of its die performs, oldest first (R364). -/
def walking (s : State) (bench : Nat) : Option (Nat × W64) :=
  (((s.walks.filter fun w => dieOf w.1 = dieOf bench).take walkers).find? fun w => w.1 = bench).map (·.2)

/-- WALK_RETURN (R364): a walk for a coalesced miss of a bench returns; every miss that its page covers is satisfied. -/
def execWalkReturn (bench : Nat) (s : State) : Host.Outcome State Fault Refusal :=
  .next (match walking s bench with
    | none => s
    | some (fn, va) =>
      let ends (s : State) (covers : Nat × W64 → Bool) : State :=
        { s with walks := s.walks.filter fun w => !(w.1 = bench && covers w.2) }.modB bench fun b => { b with misses := b.misses.filter fun m => !covers m }
      match walk s fn va with
      | .bad _ => ends s fun m => m = (fn, va)
      | .leaf _ e =>
        let z := pageBits e
        let t : TlbEntry := { fn := fn, base := BitVec.ofNat 64 (va.toNat / 2 ^ z * 2 ^ z), size := z, leaf := e }
        let s := ends s fun m => m.1 = fn && decide (m.2.toNat / 2 ^ z = va.toNat / 2 ^ z)
        if eState e = sHBM || eState e = sPOOL || eState e = sCOMP then s.modB bench fun b => { b with tlb := tlbFill tlbSize t b.tlb } else s)

/-- An invalidation is done. -/
def tlbiDone (s : State) (p : Nat → W64 → Nat → Bool) : Host.Outcome State Fault Refusal := .next { purgeTlb s p with tlbiBusy := false }

/-- TLBI_PAGE (R365): the page that TLBIVA names. -/
def execTlbiPage (fn : Nat) (s : State) : Host.Outcome State Fault Refusal :=
  let va := dcGet64 s 0x002B0800
  tlbiDone s fun f base size => f = fn && decide (va.toNat / 2 ^ (max size 16) = base.toNat / 2 ^ (max size 16))

/-- TLBI_FUNCTION (R365). -/
def execTlbiFunction (fn : Nat) (s : State) : Host.Outcome State Fault Refusal := tlbiDone s fun f _ _ => f = fn

/-- TLBI_ALL (R365). -/
def execTlbiAll (s : State) : Host.Outcome State Fault Refusal := tlbiDone s fun _ _ _ => true

end Sys2Proof.Machine
end

