-- ==== Sys2Proof/Machine/Engine.lean ====
section
/-! DEFINITION. Machine/Engine.lean: engine commands: descriptors (R272), the units of the ROUTE, SORT, GATH, SFN and CODEC
commands (R278-R282), and collectives (R275-R277, R392-R395, R440, R449-R452). -/

namespace Sys2Proof.Machine

/-! ## Descriptors (R272) -/

/-- A descriptor. -/
structure Desc where
  cmd : Nat
  flags : Nat
  slot : Nat
  count : Nat
  src : W64
  dst : W64
  aux : W64
  body : List Byte
  deriving DecidableEq, Repr

/-- The descriptor that 64 bytes hold. -/
def descOf (l : List Byte) : Desc :=
  { cmd := field l 0 1, flags := field l 1 1, slot := field l 2 2, count := field l 4 4, src := BitVec.ofNat 64 (field l 8 8),
    dst := BitVec.ofNat 64 (field l 0x10 8), aux := BitVec.ofNat 64 (field l 0x18 8), body := (l.drop 0x20).take 32 }

/-- The descriptor that an operation's engine has read. -/
def Op.desc (o : Op) : Desc := descOf o.got

/-- A field of the body, by its offset in the descriptor. -/
def Desc.f (d : Desc) (off n : Nat) : Nat := field d.body (off - 0x20) n

/-- The body is zero but for the given fields (offset, size). -/
def Desc.zeroBut (d : Desc) (l : List (Nat × Nat)) : Bool :=
  d.body.zipIdx.all fun e => e.1 = 0 || l.any fun r => decide (r.1 ≤ e.2 + 0x20) && decide (e.2 + 0x20 < r.1 + r.2)

/-- DRAININ. -/
def Desc.drain (d : Desc) : Bool := d.flags % 2 = 1

/-- An ET that the copying collectives take (R275): a 1-, 2- or 4-byte code. -/
def copiedEt (et : Nat) : Bool := etAssigned et && !(etTy et).2 && [8, 16, 32].contains (etBits et)

/-- The body's fields are in their ranges and its unused bytes zero (R272, R275-R282). -/
def Desc.bodyOk (d : Desc) : Bool :=
  let et := d.f 0x20 1
  let k := d.f 0x20 1
  let e := d.f 0x24 4
  let reduced (deliv : Bool) : Bool :=
    let op := d.f 0x21 1
    let wire := d.f 0x22 1
    [8, 9, 2].contains et && op ≤ 2 && wire ≤ 1 && (wire = 0 || (et = 8 && op = 0 && d.count % 64 = 0)) &&
    (!d.drain || et = 8) && (!deliv || (et = 8 && decide (d.f 0x30 4 ≤ 1023))) &&
    d.zeroBut ((if deliv then [(0x20, 4), (0x30, 8)] else [(0x20, 3)]) ++ if wire = 1 then [(0x28, 8)] else [])
  match d.cmd with
  | 0x58 => d.f 0x23 1 ≤ 1 && reduced (d.f 0x23 1 = 1)
  | 0x5A => reduced false
  | 0x59 | 0x5B => copiedEt et && d.zeroBut [(0x20, 1)]
  | 0x5C => copiedEt et && d.zeroBut [(0x20, 1), (0x30, 4)]
  | 0x5D => et = 8 && d.zeroBut [(0x20, 1)]
  | 0x5E => 1 ≤ k && k ≤ 8 && decide (k ≤ e) && decide (e ≤ 4096) && d.zeroBut [(0x20, 1), (0x24, 4)]
  | 0x5F =>
    1 ≤ k && k ≤ 8 && decide (k ≤ e) && decide (e ≤ 4096) && decide (1 ≤ d.f 0x28 4) && decide (d.f 0x28 4 ≤ 2 ^ 24) &&
    d.zeroBut [(0x20, 1), (0x24, 4), (0x28, 4)]
  | 0x60 =>
    [6, 2, 8].contains k && d.f 0x21 1 ≤ 1 && decide (d.count ≤ 2 ^ 24) && d.zeroBut [(0x20, 2)] &&
    (decide (d.src.toNat + 8 * d.count ≤ d.dst.toNat) || decide (d.dst.toNat + 8 * d.count ≤ d.src.toNat))
  | 0x61 | 0x62 =>
    let rb := e
    (d.cmd = 0x62 || k = 0) && k ≤ 1 && rb % 16 = 0 && 16 ≤ rb && decide (rb ≤ 65536) && 1 ≤ d.f 0x28 4 &&
    d.zeroBut [(0x20, 1), (0x24, 4), (0x28, 4)]
  | 0x63 => k ≤ 6 && 1 ≤ e && decide (e ≤ 65536) && d.zeroBut [(0x20, 1), (0x24, 4), (0x28, 4)]
  | _ => d.zeroBut []

/-- The header obeys R272 for an opcode. -/
def Desc.headOk (d : Desc) (op : Nat) : Bool :=
  d.cmd = op && d.flags ≤ 1 && (d.flags = 0 || op = 0x58 || op = 0x5A) && decide (d.slot < 1024) && 1 ≤ d.count

/-- The opcode, the lease and the descriptor's VA of a command's body. -/
def OpBody.engine? : OpBody → Option (Byte × W32 × W64 × Bool)
  | .engine op l d r => some (op, l, d, r)
  | _ => none

/-- A command ends: its engine runs nothing, and a lease that waits for it may end (R270, R274). -/
def endCommand (s : State) (x slot : Nat) (st : OpSt) (code : Byte) (index : W32) (addr : W64) : State :=
  match (s.getO x slot).bind fun o => o.body.engine? with
  | none => s
  | some (_, l, _) =>
    let s := finishOp s x slot st code index addr
    let idle (g : Engine) : Engine := if g.cmd = some (x, slot) then { g with cmd := none } else g
    settleLease { s with engines := s.engines.map fun e => (e.1, idle e.2) } x (hSlot l)

/-! ## Units of the ROUTE, SORT, GATH, SFN and CODEC commands (R274, R278-R282) -/

/-- What a unit answers: the state after it, the bytes it was delivered and zero-filled, and the stream position. -/
inductive UnitOut where
  | done (s : State) (deliv zfill pos : Nat)
  | wait (s : State)
  | bad (code : Byte) (va : W64)

/-- A unit goes on with the bytes of a read. -/
def OpRd.then_ (r : OpRd) (f : State → List Byte → UnitOut) : UnitOut :=
  match r with
  | .ok s l => f s l
  | .wait s => .wait s
  | .bad c a => .bad c a

/-- VA plus a number of bytes. -/
def vaPlus (a : W64) (n : Nat) : W64 := a + BitVec.ofNat 64 n

/-- a < b of f32 values with every NaN at one end (R278, R279): below −∞ or above +∞. -/
def f32lt (nanLow : Bool) (a b : W32) : Bool :=
  match f32v a, f32v b with
  | .nan, .nan => false
  | .nan, _ => nanLow
  | _, .nan => !nanLow
  | u, v => u.cmp v = some .lt

/-- A row of `rtopk` (R278). -/
def topk (k : Nat) (row : List W32) : List Byte :=
  ((sortBy (fun (a b : W32 × Nat) => !f32lt true a.1 b.1) row.zipIdx).take k).flatMap fun e => leBytes 4 e.2 ++ leBytes 4 e.1.toNat

/-- The assignments of `rplan` in order (R278): the counts by expert, the words written, the number of refused. -/
def planRun (e cap : Nat) : List Nat → Sparse Nat → List Nat × Sparse Nat × Nat
  | [], c => ([], c, 0)
  | x :: l, c =>
    let n := sget 0 c x
    if x < e && n < cap then
      let r := planRun e cap l (sput c x (n + 1))
      ((x * cap + n) :: r.1, r.2.1, r.2.2)
    else
      let r := planRun e cap l c
      (0xFFFFFFFF :: r.1, r.2.1, r.2.2 + 1)

/-- The order of sort keys of a type (R279). -/
def keyLt (kt : Nat) (a b : W32) : Bool :=
  match kt with
  | 6 => decide (a.toNat < b.toNat)
  | 2 => decide (a.toInt < b.toInt)
  | _ => f32lt false a b

/-- The records of 8 bytes. -/
def records8 (l : List Byte) : List (List Byte) := (List.range (l.length / 8)).map fun i => (l.drop (8 * i)).take 8

/-- `sortkv` (R279): a stable sort in either direction. -/
def sortRecords (kt : Nat) (down : Bool) (l : List Byte) : List Byte :=
  let key (r : List Byte) : W32 := BitVec.ofNat 32 (field r 0 4)
  (sortBy (fun a b => if down then !keyLt kt (key a) (key b) else !keyLt kt (key b) (key a)) (records8 l)).flatten

/-- A row of `sfnap` (R281), with the gamma vector where there is one. -/
def sfnRow (fn n : Nat) (eps : W32) (gamma : Option (List W32)) (x : List W32) : List W32 :=
  let sum (l : List W32) : W32 := tree addR 0 l
  let nf := toF32 0 0 (Num.ofInt n)
  let scale (l : List W32) (r : W32) : List W32 :=
    let y := l.map fun v => mulR v r
    match gamma with | some g => (y.zip g).map fun e => mulR e.1 e.2 | none => y
  match fn with
  | 0 =>
    let m := x.tail.foldl (fminmax true) (x.headD 0)
    let e := x.map fun v => vexp2 (fsub 0 0 v m)
    let t := sum e
    e.map fun v => fdiv 0 0 v t
  | 1 => scale x (vrsqrt (addR (fdiv 0 0 (sum (x.map fun v => mulR v v)) nf) eps))
  | 2 =>
    let mu := fdiv 0 0 (sum x) nf
    let d := x.map fun v => fsub 0 0 v mu
    scale d (vrsqrt (addR (fdiv 0 0 (sum (d.map fun v => mulR v v)) nf) eps))
  | 3 => x.map vexp2
  | 4 => x.map vlog2
  | 5 => x.map vrcp
  | _ => x.map vrsqrt

/-- The form of a block of 128 bytes (R282). -/
def packBlock (l : List Byte) : List Byte :=
  let nz := l.filter (· ≠ 0)
  let bits := (List.range 16).map fun j => BitVec.ofNat 8 ((List.range 8).map fun i => if l.getD (8 * j + i) 0 = 0 then 0 else 2 ^ i).sum
  if nz = [] then [0] else if nz.length < 112 then 1 :: bits ++ nz else 2 :: l

/-- The block that a bitmap and its bytes stand for (R282). -/
def spreadBlock (bits : List Byte) : List Nat → List Byte → List Byte
  | [], _ => []
  | j :: r, nz => if (bits.getD (j / 8) 0).getLsbD (j % 8) then nz.headD 0 :: spreadBlock bits r nz.tail else 0 :: spreadBlock bits r nz

/-- Set bits of a bitmap. -/
def bitCount (bits : List Byte) : Nat := (bits.map fun (b : Byte) => ((List.range 8).filter b.getLsbD).length).sum

/-- A block of `cdunpk` (R282): the stream at `pos`, its stated length `len`. -/
def unpackUnit (s : State) (k x slot : Nat) (d : Desc) (i pos len : Nat) : UnitOut :=
  let at_ (n : Nat) : W64 := vaPlus d.src (pos + n)
  let put (s : State) (l : List Byte) (used : Nat) : UnitOut :=
    (opWrite s k x slot (vaPlus d.dst (128 * i)) l).then_ fun s _ => .done s (used + if i = 0 then 8 else 0) 0 (pos + used)
  if len < pos + 1 then .bad cRANGE 0
  else (opRead s k x slot (at_ 0) 1).then_ fun s c =>
    match (c.headD 0).toNat with
    | 0 => put s (List.replicate 128 0) 1
    | 1 =>
      if len < pos + 17 then .bad cRANGE 0
      else (opRead s k x slot (at_ 1) 16).then_ fun s bits =>
        let z := bitCount bits
        if len < pos + 17 + z then .bad cRANGE 0
        else if z = 0 then put s (List.replicate 128 0) 17
        else (opRead s k x slot (at_ 17) z).then_ fun s nz => put s (spreadBlock bits (List.range 128) nz) (17 + z)
    | 2 =>
      if len < pos + 129 then .bad cRANGE 0
      else (opRead s k x slot (at_ 1) 128).then_ fun s l => put s l 129
    | _ => .bad cRANGE 0

/-- Unit i of a command (R278-R282). -/
def engineUnit (s : State) (k x slot : Nat) (d : Desc) (i pos : Nat) : UnitOut :=
  let rd (s : State) (va : W64) (n : Nat) (f : State → List Byte → UnitOut) : UnitOut := (opRead s k x slot va n).then_ f
  let wr (s : State) (va : W64) (l : List Byte) (f : State → UnitOut) : UnitOut := (opWrite s k x slot va l).then_ fun s _ => f s
  let kk := d.f 0x20 1
  let e := d.f 0x24 4
  match d.cmd with
  | 0x5E => rd s (vaPlus d.src (4 * e * i)) (4 * e) fun s l =>
      wr s (vaPlus d.dst (8 * kk * i)) (topk kk (wordsOf l)) fun s => .done s (4 * e) 0 0
  | 0x5F => rd s d.src (8 * kk * d.count) fun s l =>
      let r := planRun e (d.f 0x28 4) ((records8 l).map fun r => field r 0 4) []
      wr s d.dst (r.1.flatMap (leBytes 4)) fun s =>
        wr s d.aux (((List.range e).map fun j => sget 0 r.2.1 j).flatMap (leBytes 4) ++ leBytes 4 r.2.2) fun s => .done s l.length 0 0
  | 0x60 => rd s d.src (8 * d.count) fun s l => wr s d.dst (sortRecords kk (d.f 0x21 1 = 1) l) fun s => .done s l.length 0 0
  | 0x61 => rd s (vaPlus d.aux (4 * i)) 4 fun s l =>
      let row := leNat l
      if d.f 0x28 4 ≤ row then wr s (vaPlus d.dst (e * i)) (List.replicate e 0) fun s => .done s 4 e 0
      else rd s (vaPlus d.src (e * row)) e fun s b => wr s (vaPlus d.dst (e * i)) b fun s => .done s (4 + e) 0 0
  | 0x62 => rd s (vaPlus d.aux (4 * i)) 4 fun s l =>
      let row := leNat l
      if d.f 0x28 4 ≤ row then .done s 4 0 0
      else rd s (vaPlus d.src (e * i)) e fun s b =>
        if kk = 0 then wr s (vaPlus d.dst (e * row)) b fun s => .done s (4 + e) 0 0
        else rd s (vaPlus d.dst (e * row)) e fun s old =>
          wr s (vaPlus d.dst (e * row)) (bytesOf (((wordsOf old).zip (wordsOf b)).map fun v => addR v.1 v.2)) fun s => .done s (4 + 2 * e) 0 0
  | 0x63 => rd s (vaPlus d.src (4 * e * i)) (4 * e) fun s l =>
      let out (s : State) (g : Option (List W32)) (n : Nat) : UnitOut :=
        wr s (vaPlus d.dst (4 * e * i)) (bytesOf (sfnRow kk e (BitVec.ofNat 32 (d.f 0x28 4)) g (wordsOf l))) fun s => .done s n 0 0
      if (kk = 1 || kk = 2) && d.aux ≠ 0 then rd s d.aux (4 * e) fun s g => out s (some (wordsOf g)) (8 * e) else out s none (4 * e)
  | 0x64 => rd s (vaPlus d.src (128 * i)) 128 fun s l =>
      let b := packBlock l
      wr s (vaPlus d.dst pos) b fun s =>
        if i + 1 = d.count then wr s d.aux (leBytes 8 (pos + b.length)) fun s => .done s 128 0 (pos + b.length)
        else .done s 128 0 (pos + b.length)
  | 0x65 => rd s d.aux 8 fun s n => unpackUnit s k x slot d i pos (leNat n)
  | _ => .wait s

/-- The units of a command (R274). -/
def Desc.units (d : Desc) : Nat := if d.cmd = 0x5F || d.cmd = 0x60 then 1 else d.count

/-- Clocks from one unit of a command to the next, a free value of at least 1 (assumption 14). -/
def unitLat (s : State) (x slot : Nat) : Nat := 1 + Config.unitLat s.now x slot

/-- One unit of a RUNNING command is done (R274); a cancelled one stops at the boundary (R251). -/
def unitStep (s : State) (x slot : Nat) (o : Op) : State :=
  let d := o.desc
  if d.units ≤ o.entry || s.now < o.next then s
  else match engineUnit s o.core x slot d o.entry o.bitmap.toNat with
    | .wait s => s
    | .bad code va => endCommand s x slot .failed code (BitVec.ofNat 32 o.entry) va
    | .done s deliv zfill pos =>
      let s := s.modO x slot fun o => { o with entry := o.entry + 1, deliv := satPlus o.deliv deliv, zfill := satPlus o.zfill zfill, bitmap := BitVec.ofNat 64 pos, next := s.now + unitLat s x slot }
      if o.cancel && decide (o.entry + 1 < d.units) then endCommand s x slot .cancelled cCANCELLED 0 0 else s.imageOp x slot

/-! ## Collectives: what one is (R275, R392, R393) -/

/-- A started collective: its table's ID, the table, its descriptor. -/
structure Coll where
  id : W32
  t : PgTable
  d : Desc
  deriving DecidableEq, Repr

/-- A started collective whose table is still the one it started on, and READY. -/
def collOf (s : State) (x : Nat) (o : Op) : Option Coll :=
  match (s.getX x).pg? o.collTable.1 with
  | some t => if t.st = .ready && t.gen = o.collTable.2 then some { id := o.collTable.1, t := t, d := o.desc } else none
  | none => none

/-- P. -/
def Coll.size (c : Coll) : Nat := c.t.members.length
/-- Bytes of an element. -/
def Coll.esz (c : Coll) : Nat := etBits (c.d.f 0x20 1) / 8
/-- Bytes of COUNT elements. -/
def Coll.blk (c : Coll) : Nat := c.d.count * c.esz
/-- The reductions and the gather, whose leaves meet at rank 0. -/
def Coll.tree_ (c : Coll) : Bool := [0x58, 0x59, 0x5A, 0x5D].contains c.d.cmd
/-- WIRE. -/
def Coll.wire (c : Coll) : Bool := c.tree_ && c.d.f 0x22 1 = 1
/-- DELIV. -/
def Coll.deliv (c : Coll) : Bool := c.d.cmd = 0x58 && c.d.f 0x23 1 = 1
/-- ROOT of `colbc`. -/
def Coll.root (c : Coll) : Nat := c.d.f 0x30 4

/-- Bytes of a member's input at SRC. -/
def Coll.input (c : Coll) : Nat :=
  match c.d.cmd with
  | 0x58 | 0x5A | 0x5B => c.size * c.blk
  | 0x5D => 8 + 4 * c.d.count
  | _ => c.blk

/-- Bytes of a leaf as it is sent (R276). -/
def Coll.leaf (c : Coll) : Nat := if c.wire then c.size * c.d.count + c.size * c.d.count / 64 else c.input

/-- Bytes of the result that rank 0 sends to another member. -/
def Coll.result (c : Coll) : Nat :=
  match c.d.cmd with
  | 0x58 => c.blk
  | 0x5D => 8 + 4 * c.d.count
  | _ => c.size * c.blk

/-- The members whose messages this one awaits. -/
def Coll.senders (c : Coll) : List Nat :=
  let others := (List.range c.size).filter (· ≠ c.t.rank)
  if c.tree_ then (if c.t.rank = 0 then others else if c.deliv then [] else [0])
  else if c.d.cmd = 0x5B || c.t.rank = c.root then others
  else [c.root]

/-- Bytes that this member awaits from another. -/
def Coll.awaited (c : Coll) : Nat :=
  if c.tree_ then (if c.t.rank = 0 then c.leaf else c.result)
  else if c.d.cmd = 0x5C && c.t.rank = c.root then 0
  else c.blk

/-- Where the bytes of member q go from DST on. -/
def Coll.place (c : Coll) (q : Nat) : Nat := if c.d.cmd = 0x5B then q * c.blk else 0

/-- The fields that the first message carries (R392), in VA (DESIGN CHOICE, assumption 19). -/
def Coll.info (c : Coll) : W64 :=
  let d := c.d
  let op := if d.cmd = 0x58 || d.cmd = 0x5A then d.f 0x21 3 else 0
  BitVec.ofNat 64 (d.count + 2 ^ 32 * (d.cmd + 2 ^ 8 * d.f 0x20 1) + 2 ^ 48 * (op % 4 + 4 * (op / 2 ^ 8 % 2) + 8 * (op / 2 ^ 16 % 2)))

/-- VA of a park notice and of a resume notice (R395; DESIGN CHOICE, assumption 19). -/
def parkVa : W64 := 1#64 <<< 60
/-- VA of a resume notice. -/
def resumeVa : W64 := 2#64 <<< 60

/-- The rank of a message's sender. -/
def PgTable.rankOf (t : PgTable) (m : Msg) : Option Nat :=
  t.members.findIdx? fun e => e.1 = m.src && vfFn e.2 = m.svf.toNat

/-! ## Failures (R394) -/

/-- Messages kept for collectives that no member here awaits any more are dropped. -/
def sweepHeld (s : State) : State :=
  let wanted (m : Msg) : Bool :=
    let id : W32 := m.aux.extractLsb' 32 32
    let k := (m.aux.extractLsb' 0 16 : BitVec 16)
    let tabs := s.ctxs.filterMap fun e => if e.2.st ≠ .free && e.2.fn = m.dvf.toNat then (e.2.pg? id).map fun t => (e.2, t) else none
    tabs = [] || tabs.any fun e =>
      e.2.gen.extractLsb' 0 16 = m.aux.extractLsb' 16 16 &&
      (decide ((k - BitVec.ofNat 16 e.2.nextColl).toNat < 2 ^ 15) ||
       e.1.ops.any fun o => !o.2.st.finished && o.2.collTable.1 = id && o.2.collNo.any fun n => BitVec.ofNat 16 n = k)
  { s with collHeld := s.collHeld.filter wanted }

/-- What the fabric fails a collective with (R394); another fault is the engine's own (R244, R259). -/
def routerCode (code : Byte) : Bool := [cREFUSED, cCONN, cLINK, cCANCELLED].contains code

/-- A collective fails on this member; for a failure of the fabric ENGINE names the router (R394). -/
def failColl (s : State) (x slot : Nat) (code : Byte) (va : W64 := 0) : State :=
  let s := if routerCode code then s.modO x slot fun o => { o with engine := 0xB000 } else s
  sweepHeld (endCommand s x slot .failed code 0 va)

/-- The unfinished started collectives of a function's contexts. -/
def collsOf (s : State) (fn : Nat) : List (Nat × Nat × Op) :=
  (allOps s).filter fun e => e.2.2.collNo.isSome && !e.2.2.st.finished && (s.getX e.1).fn = fn

/-- The collective that a message's key names. -/
def collByKey (s : State) (fn : Nat) (key : W64) : Option (Nat × Nat × Op) :=
  (collsOf s fn).find? fun e => e.2.2.collNo.any fun k => collKey e.2.2.collTable.1 e.2.2.collTable.2 k = key

/-- The collectives that run on a table fail (R394). -/
def failTable (s : State) (x : Nat) (id : W32) (code : Byte) : State :=
  ((collsOf s (s.getX x).fn).filter fun e => e.1 = x && e.2.2.collTable.1 = id).foldl (fun s e => failColl s e.1 e.2.1 code) s

/-! ## Deliveries to shards (R405, R440) -/

/-- The key of a shard delivery (R405); its chunk counts units of 64 parameters, the smallest CHUNK (DESIGN CHOICE,
assumption 20). -/
def shardKeyOf (step shard unit : Nat) : W64 := BitVec.ofNat 64 (step % 2 ^ 32 * 2 ^ 32 + shard % 1024 * 2 ^ 18 + unit % 2 ^ 18)

/-- Consecutive chunks of contributor 0 from `chunk` on; whether one is refused. -/
def contributeAll (fn n : Nat) (step : W32) (size : Nat) : Nat → Nat → List Byte → State → State × Bool
  | 0, _, _, s => (s, false)
  | c + 1, chunk, l, s =>
    let r := contribute s fn n step chunk 0 (l.take size)
    if r.2 = .refused then (r.1, true) else contributeAll fn n step size c (chunk + 1) (l.drop size) r.1

/-- A delivery of part of a reduced share at its shard (R405): COUNT of the share, the key, the values. -/
def deliverShare (s : State) (fn : Nat) (count : Nat) (key : W64) (vals : List Byte) : State × Bool :=
  let n := (key.extractLsb' 18 10).toNat
  let step : W32 := key.extractLsb' 32 32
  let c := shardCfg (s.getShard fn n).capture
  let size := 4 * c.chunk
  let at_ := 64 * (key.extractLsb' 0 18).toNat
  if shardTable s fn = 0 || (s.getShard fn n).capture = [] || count ≠ c.nparam || at_ % c.chunk ≠ 0 || vals.length % size ≠ 0 then (s, true)
  else contributeAll fn n step size (vals.length / size) (at_ / c.chunk) vals s

/-- The collective delivers to the shard and at the step of a key (R405). -/
def delivers (o : Op) (key : W64) : Bool :=
  let d := o.desc
  d.cmd = 0x58 && d.f 0x23 1 = 1 && d.f 0x30 4 = (key.extractLsb' 18 10).toNat && d.f 0x34 4 = (key.extractLsb' 32 32).toNat

/-- A shard delivery of a collective that has not completed on this member (R440). -/
def undelivered (s : State) (fn : Nat) (m : Msg) : Bool := m.kind = 9 && (collsOf s fn).any fun e => delivers e.2.2 m.aux

/-- The collective that delivered to a shard at a step fails on this member (R405). -/
def failDelivered (s : State) (fn : Nat) (key : W64) : State :=
  ((collsOf s fn).filter fun e => delivers e.2.2 key).foldl (fun s e => failColl s e.1 e.2.1 cREFUSED) s

/-! ## Messages of a collective (R392, R449) -/

/-- Payloads of at most 4,096 bytes; one empty payload where there is nothing to send. -/
def payloads (l : List Byte) : List (List Byte) :=
  (List.range (max 1 ((l.length + 4095) / 4096))).map fun i => (l.drop (4096 * i)).take 4096

/-- Sending bytes to the member of a rank: the first message carries the fields. -/
def sendColl (s : State) (fn : Nat) (c : Coll) (key : W64) (q : Nat) (l : List Byte) : State :=
  match c.t.members[q]? with
  | none => s
  | some m => (payloads l).zipIdx.foldl (fun s e => s.send fn m.1.toNat (vfFn m.2) 6 (if e.2 = 0 then c.info else 0) key e.1) s

/-- Sending a share to the shard of another member: REPLAYABLE (R390). -/
def sendShare (s : State) (fn : Nat) (c : Coll) (q : Nat) (l : List Byte) : State :=
  match c.t.members[q]? with
  | none => s
  | some m =>
    (payloads l).zipIdx.foldl (fun (s : State) e =>
      let msg : Msg := { dst := m.1, dvf := BitVec.ofNat 8 (vfFn m.2), kind := 9, src := Config.devId, svf := BitVec.ofNat 8 fn, epoch := 0,
                         cseq := 0, cack := 0, flags := 1, va := BitVec.ofNat 64 c.d.count,
                         aux := shardKeyOf (c.d.f 0x34 4) (c.d.f 0x30 4) (16 * e.2), payload := e.1 }
      { s with outbox := s.outbox ++ [msg] }) s

/-! ## Values (R275-R277, R393) -/

/-- The encoding of one run of 64 elements (R276): codes, scale, residuals, events. -/
def wireBlock (w : List W32) : List Byte × Byte × List W32 × Nat × Nat :=
  let q := quantBlock .e4m3 0 [] (w.map f32v)
  let res (e : W32 × Byte) : W32 := toF32 0 0 ((f32v e.1).add false (dequant .e4m3 q.scale e.2.toNat).neg)
  (q.codes.map fun c => c.setWidth 8, q.scale, (w.zip (q.codes.map fun c => c.setWidth 8)).map res, q.sats, q.nans)

/-- The encoding of a sender's elements (R276): bytes to send, residuals, events, NaNs among them. -/
def wireEncode (x res : List W32) : List Byte × List W32 × Nat × Nat :=
  let w := (x.zip res).map fun e => addR e.1 e.2
  let bs := (List.range (w.length / 64)).map fun i => wireBlock ((w.drop (64 * i)).take 64)
  (bs.flatMap (·.1) ++ bs.map (·.2.1), bs.flatMap (·.2.2.1), (bs.map (·.2.2.2.1)).sum, (bs.map (·.2.2.2.2)).sum)

/-- The values with which a leaf enters the tree. -/
def Coll.values (c : Coll) (l : List Byte) : List W32 :=
  let n := c.size * c.d.count
  if c.wire then (List.range n).map fun i => toF32 0 0 (dequant .e4m3 (l.getD (n + i / 64) 0) (l.getD i 0).toNat)
  else if c.d.f 0x20 1 = 9 then (List.range n).map fun i => BitVec.ofNat 32 (field l (2 * i) 2 * 65536)
  else wordsOf l

/-- The operator of a reduction and its identity (R275). -/
def redOperator (et op : Nat) : (W32 → W32 → W32) × W32 :=
  if et = 2 then
    match op with
    | 0 => ((· + ·), 0)
    | 1 => (fun a b => if a.toInt < b.toInt then b else a, 0x80000000)
    | _ => (fun a b => if b.toInt < a.toInt then b else a, 0x7FFFFFFF)
  else match op with
    | 0 => (addR, 0)
    | 1 => (fminmax true, 0xFF800000)
    | _ => (fminmax false, 0x7F800000)

/-- Reduced values as they are stored: bf16 rounds once (R275), a NaN of f32 is the canonical one, also where one member's own value is the
whole sum (R65). -/
def Coll.stored (c : Coll) (l : List W32) : List Byte :=
  if c.d.f 0x20 1 = 9 then l.flatMap fun v => leBytes 2 (FFmt.bf16.round 0 0 (f32v v))
  else bytesOf (if c.d.f 0x20 1 = 2 then l else l.map oneNaN)

/-- The merge of two triples m, s, v (R277). -/
def mergeTriple (a b : List W32) : List W32 :=
  let minf : W32 := 0xFF800000
  if a.headD minf = minf then b
  else if b.headD minf = minf then a
  else
    let m := fminmax true (a.headD 0) (b.headD 0)
    let fa := vexp2 (fsub 0 0 (a.headD 0) m)
    let fb := vexp2 (fsub 0 0 (b.headD 0) m)
    m :: (a.tail.zip b.tail).map fun e => addR (mulR e.1 fa) (mulR e.2 fb)

/-- The result over the leaves in rank order (R273, R275, R277, R393). -/
def Coll.reduce (c : Coll) (leaves : List (List Byte)) : List Byte :=
  match c.d.cmd with
  | 0x59 => leaves.flatten
  | 0x5D => bytesOf ((tree mergeTriple (0xFF800000 :: List.replicate (c.d.count + 1) 0) (leaves.map wordsOf)).map oneNaN)
  | _ =>
    let r := redOperator (c.d.f 0x20 1) (c.d.f 0x21 1)
    let vs := leaves.map c.values
    c.stored ((List.range (c.size * c.d.count)).map fun i => tree r.1 r.2 (vs.map fun l => l.getD i 0))

/-! ## A running collective -/

/-- This member's input is in hand: it is sent on (R449). -/
def collSend (s : State) (x slot : Nat) (c : Coll) (key : W64) (own : List Byte) (deliv : Nat) : State :=
  let fn := (s.getX x).fn
  let r := c.t.rank
  let s := (s.modO x slot fun o =>
    { o with entry := 1, deliv := satPlus o.deliv deliv, inputs := sput (skeep o.inputs fun k => decide (k < drainKey)) r own }).imageOp x slot
  let others := (List.range c.size).filter (· ≠ r)
  if c.tree_ then (if r = 0 then s else sendColl s fn c key 0 own)
  else if c.d.cmd = 0x5B then others.foldl (fun s q => sendColl s fn c key q ((own.drop (q * c.blk)).take c.blk)) s
  else if r = c.root then s
  else sendColl s fn c key c.root []

/-- The input of a collective with WIRE = 1 is encoded, and its residual updated once (R276). -/
def collEncode (s : State) (x slot : Nat) (o : Op) (c : Coll) (key : W64) (own : List Byte) (deliv : Nat) : State :=
  let res := BitVec.ofNat 64 (c.d.f 0x28 8)
  match opRead s o.core x slot res (4 * c.size * c.d.count) with
  | .wait s => s
  | .bad code va => failColl s x slot code va
  | .ok s l =>
    let (bytes, new, sat, nan) := wireEncode (wordsOf own) (wordsOf l)
    match opWrite s o.core x slot res (bytesOf new) with
    | .wait s => s
    | .bad code va => failColl s x slot code va
    | .ok s _ => collSend (opSat s x slot c.d.slot sat nan 0xFFFF).1 x slot c key bytes deliv

/-- A started collective takes its input: from SRC, or from the rows of a drain (R223, R275). -/
def collBegin (s : State) (x slot : Nat) (o : Op) (c : Coll) (key : W64) : State :=
  let go (s : State) (l : List Byte) (n : Nat) : State :=
    if c.wire then collEncode s x slot o c key l n else collSend s x slot c key l n
  if c.d.drain then
    let rows := (List.range 256).map fun i => sfind o.inputs (drainKey + i)
    if rows.all (·.isSome) then go s (rows.flatMap fun r => r.getD []) 0 else s
  else if c.d.cmd = 0x5C && c.t.rank ≠ c.root then collSend s x slot c key [] 0
  else match opRead s o.core x slot c.d.src c.input with
    | .wait s => s
    | .bad code va => failColl s x slot code va
    | .ok s l => go s l c.input

/-- A kept message of a RUNNING collective is taken in: a leaf enters the tree, other bytes are written at DST (R450). -/
def takeMsg (s : State) (x slot : Nat) (c : Coll) (m : Msg) : OpRd :=
  match s.getO x slot, c.t.rankOf m with
  | some o, some q =>
    let n := sget 0 o.recv q
    let got (s : State) : State :=
      (s.modO x slot fun o => { o with recv := sput o.recv q (n + m.payload.length), deliv := satPlus o.deliv m.payload.length }).imageOp x slot
    if c.tree_ && c.t.rank = 0 then
      .ok (got (s.modO x slot fun o => { o with inputs := sput o.inputs q (sget [] o.inputs q ++ m.payload) })) []
    else if m.payload = [] then .ok (got s) []
    else match opWrite s o.core x slot (vaPlus c.d.dst (c.place q + n)) m.payload with
      | .ok s _ => .ok (got s) []
      | r => r
  | _, _ => .ok s []

/-- Taking in the kept messages of a collective in arrival order; a write that waits holds the rest. -/
def takeAll (x slot : Nat) (c : Coll) : List Msg → State → State
  | [], s => s
  | m :: l, s =>
    match takeMsg s x slot c m with
    | .wait s => s
    | .bad code va => failColl s x slot code va
    | .ok s _ => takeAll x slot c l { s with collHeld := s.collHeld.erase m }

/-- Notices among the kept messages of a collective (R395): who parked; who resumed counts from 2^20 on. -/
def takeNotices (s : State) (x slot : Nat) (c : Coll) (l : List Msg) : State :=
  l.foldl (fun (s : State) m =>
    match c.t.rankOf m with
    | some q =>
      let note := if m.va = parkVa then q else 2 ^ 20 + q
      { s.modO x slot (fun o => { o with notices := o.notices ++ [note] }) with collHeld := s.collHeld.erase m }
    | none => s) s

/-- The messages kept for a collective meet it (R392, R394, R450): an abort fails it, fields that differ fail it with
RECORD_RANGE, and once the first message of every sender has agreed the messages are taken in. -/
def meetHeld (s : State) (x slot : Nat) (o : Op) (c : Coll) (key : W64) : State :=
  let fn := (s.getX x).fn
  let mine (s : State) : List Msg := s.collHeld.filter fun m => m.aux = key && m.dvf.toNat = fn
  match (mine s).find? fun m => m.kind = 13 with
  | some m => failColl s x slot (m.payload.headD cREFUSED)
  | none =>
    let s := takeNotices s x slot c ((mine s).filter fun m => m.va = parkVa || m.va = resumeVa)
    let firsts := (mine s).filter fun m => m.va ≠ 0
    if firsts.any fun m => m.va ≠ c.info then failColl s x slot cRANGE
    else
      let mark (r : Sparse Nat) (m : Msg) : Sparse Nat :=
        match c.t.rankOf m with | some q => if (sfind r q).isSome then r else sput r q 0 | none => r
      let recv := firsts.foldl mark o.recv
      let s := if firsts = [] then s else s.modO x slot fun o => { o with recv := recv }
      if o.st = .running && c.senders.all fun q => (sfind recv q).isSome then takeAll x slot c (mine s) s else s

/-- Every sender's bytes have arrived. -/
def Coll.arrived (c : Coll) (o : Op) : Bool := c.senders.all fun q => (sfind o.recv q).any fun n => decide (c.awaited ≤ n)

/-- Every sender's first message has agreed. -/
def Coll.agreed (c : Coll) (o : Op) : Bool := c.senders.all fun q => (sfind o.recv q).isSome

/-- Writing this member's own part at DST, then sending on. -/
def ownThen (s : State) (x slot : Nat) (o : Op) (va : W64) (l : List Byte) (f : State → State) : State :=
  let next (s : State) : State := (f s).modO x slot fun o => { o with entry := 2 }
  match opWrite s o.core x slot va l with
  | .wait s => s
  | .bad code v => failColl s x slot code v
  | .ok s _ => next s

/-- Rank 0 has every leaf: the trees are formed, and each member or shard gets its part (R275, R393, R440). -/
def collForm (s : State) (x slot : Nat) (o : Op) (c : Coll) (key : W64) : State :=
  let fn := (s.getX x).fn
  let out := c.reduce ((List.range c.size).map fun q => sget [] o.inputs q)
  let part (q : Nat) : List Byte := if c.d.cmd = 0x58 then (out.drop (q * c.blk)).take c.blk else out
  let others := (List.range c.size).filter (· ≠ 0)
  if c.deliv then
    let own := (payloads (part 0)).zipIdx.foldl (fun (a : State × Bool) e =>
      if a.2 then a else deliverShare a.1 fn c.d.count (shardKeyOf (c.d.f 0x34 4) (c.d.f 0x30 4) (16 * e.2)) e.1) (s, false)
    if own.2 then failColl own.1 x slot cREFUSED
    else (others.foldl (fun s q => sendShare s fn c q (part q)) own.1).modO x slot fun o => { o with entry := 2, inputs := [] }
  else ownThen s x slot o c.d.dst (part 0) fun s => others.foldl (fun s q => sendColl s fn c key q (part q)) s

/-- The middle of a collective: rank 0 of a tree forms it, a root sends, and own blocks are copied (R449). -/
def collMiddle (s : State) (x slot : Nat) (o : Op) (c : Coll) (key : W64) : State :=
  let r := c.t.rank
  let own := sget [] o.inputs r
  if c.tree_ then
    (if r ≠ 0 then s.modO x slot fun o => { o with entry := 2, inputs := [] }
     else if c.arrived o then collForm s x slot o c key else s)
  else if !c.agreed o then s
  else if c.d.cmd = 0x5B then ownThen s x slot o (vaPlus c.d.dst (r * c.blk)) ((own.drop (r * c.blk)).take c.blk) id
  else if r = c.root then
    ownThen s x slot o c.d.dst own fun s =>
      ((List.range c.size).filter (· ≠ r)).foldl (fun s q => sendColl s (s.getX x).fn c key q own) s
  else s.modO x slot fun o => { o with entry := 2 }

/-- The key of an operation's collective. -/
def Op.collKey? (o : Op) : Option W64 := o.collNo.map fun k => collKey o.collTable.1 o.collTable.2 k

/-- One action of a RUNNING collective. -/
def collStep (s : State) (x slot : Nat) (o : Op) : State :=
  match collOf s x o, o.collKey? with
  | some c, some key =>
    if o.entry = 0 then collBegin s x slot o c key
    else
      let s := meetHeld s x slot o c key
      match s.getO x slot with
      | some o => if o.st = .running && o.entry = 1 then collMiddle s x slot o c key else s
      | none => s
  | _, _ => failColl s x slot cREFUSED

/-- Every collective message of a key that a function sent has been acknowledged (R440, R452). -/
def collQuiet (s : State) (fn : Nat) (key : W64) : Bool :=
  let mine (m : Msg) : Bool := m.kind = 6 && m.aux = key
  !(s.outbox.any fun m => mine m && m.svf.toNat = fn) &&
  !(s.conns.any fun c => c.fn = fn && (c.unacked.any mine || c.waiting.any mine)) &&
  !(s.collHeld.any fun m => mine m && m.src = Config.devId && m.svf.toNat = fn)

/-- A share of a collective has not been placed in the retransmit store yet (R440). -/
def shareWaits (s : State) (fn : Nat) (o : Op) : Bool :=
  let mine (m : Msg) : Bool := m.kind = 9 && m.svf.toNat = fn && delivers o m.aux
  s.outbox.any mine || s.conns.any fun c => c.fn = fn && c.waiting.any mine

/-- The work of a RUNNING operation is done (R237, R440, R452): every unit of a command, every line of a copy. -/
def workDone (s : State) (x : Nat) (o : Op) : Bool :=
  match o.body with
  | .copy _ n _ _ _ => decide (n ≤ o.entry)
  | .bdot _ => o.got ≠ [] && decide ((bdescOf o.got).n ≤ o.entry)
  | .engine op .. =>
    if o.got = [] then false
    else if cmdKind op.toNat ≠ 0 then decide (o.desc.units ≤ o.entry)
    else match collOf s x o, o.collKey? with
      | some c, some key => decide (2 ≤ o.entry) && c.arrived o && collQuiet s (s.getX x).fn key &&
          !(c.deliv && shareWaits s (s.getX x).fn o)
      | _, _ => false
  | _ => false

/-- OPERATION_COMPLETE (R237, R270): the last unit of a RUNNING operation is done, or the last command of a lease that is to end. -/
def execOperationComplete (ctx slot : Nat) (s : State) : Host.Outcome State Fault Refusal :=
  .next (match s.getO ctx slot with
    | none => s
    | some o =>
      if o.st = .running && o.body.lease?.isSome then settleLease s ctx slot
      else if o.st ≠ .running || !servesOrDrains s ctx || !workDone s ctx o then s
      else match o.body with
        | .engine .. => endCommand s ctx slot .complete 0 0 0
        | _ => completeOp s ctx slot)

/-- An operation fails; an engine's command leaves its engine. -/
def failAny (s : State) (x slot : Nat) (code : Byte) (index : W32) (addr : W64) : State :=
  if (s.getO x slot).any fun o => o.body.engine?.isSome then endCommand (countResidue s (s.getX x).fn code addr) x slot .failed code index addr
  else failOp s x slot code index addr

/-- OPERATION_FAILURE (R244, R245): a fault that the memory or the fabric reports fails a RUNNING operation. -/
def execOperationFailure (ctx slot : Nat) (why : OpFault) (s : State) : Host.Outcome State Fault Refusal :=
  .next (match s.getO ctx slot with
    | none => s
    | some o =>
      if o.st ≠ .running then s
      else failAny s ctx slot why.code why.index why.addr)

/-! ## Starting a command (R272, R275, R392) -/

/-- A collective starts on its table: it takes the next number (R392). -/
def startColl (s : State) (x slot : Nat) (l : List Byte) (id : W32) : State :=
  let d := descOf l
  let refuse (s : State) (code : Byte) : State := failColl s x slot code
  match (s.getX x).pg? id with
  | none => refuse s cREFUSED
  | some t =>
    if t.st ≠ .ready then refuse s cREFUSED
    else
      let k := t.nextColl
      let s := s.modPg x id fun t => { t with nextColl := t.nextColl + 1 }
      let s := s.modO x slot fun o => { o with got := l ++ leBytes 4 id.toNat ++ leBytes 4 t.gen.toNat, collNo := some k, entry := 0 }
      let p := t.members.length
      if (d.drain && p * d.count ≠ 65536) || (d.cmd = 0x5C && decide (p ≤ d.f 0x30 4)) then refuse s cRANGE else s

/-- The engine reads and checks the descriptor of a command that has started (R272). -/
def readDesc (s : State) (x slot : Nat) (o : Op) (op : Nat) (va : W64) : State :=
  let fail (s : State) (code : Byte) (a : W64) : State := endCommand s x slot .failed code 0 a
  if va.toNat % 64 ≠ 0 then fail s cALIGN va
  else match opRead s o.core x slot va 64 with
    | .wait s => s
    | .bad code a => fail s code a
    | .ok s l =>
      let d := descOf l
      if !d.headOk op || !d.bodyOk then fail s cRANGE 0
      else if cmdKind op ≠ 0 then s.modO x slot fun o => { o with got := l, entry := 0, bitmap := 0 }
      else match (s.getX x).pgAt? d.aux with
        | none => failColl s x slot cREFUSED
        | some id => startColl s x slot l id

/-- An earlier HELD command of the same stream holds this one back (R248). -/
def heldBack (s : State) (x : Nat) (o : Op) (kind : Nat) : Bool :=
  (s.getX x).ops.any fun e => e.2.st = .held && e.2.core = o.core && e.2.stream = o.stream && e.2.node = o.node && decide (e.2.order < o.order) &&
    e.2.body.engine?.any fun b => cmdKind b.1.toNat = kind

/-- Higher effective priority first, then the earlier created (R242). -/
def classBefore (a b : Nat × Op) : Bool := decide (b.2.eff < a.2.eff) || (a.2.eff = b.2.eff && decide (a.2.order < b.2.order))

/-- Every member has sent a resume notice for a parked collective (R395). -/
def resumedAll (s : State) (x : Nat) (o : Op) : Bool :=
  match collOf s x o with
  | some c => (List.range c.size).all fun q => o.notices.contains (2 ^ 20 + q)
  | none => true

/-- The command that an engine starts next, of the lease that holds it (R242, R263, R266). -/
def nextCommand (s : State) (e : Nat) : Option (Nat × Nat × Op) :=
  match holder s e with
  | none => none
  | some (x, slot, _, l) =>
    let ready (f : Nat × Op) : Bool :=
      ((f.2.st = .queued || f.2.st = .parked) && !heldBack s x f.2 (engKind e)) &&
      (f.2.collNo.isNone || f.2.notices = [] || resumedAll s x f.2)
    if (s.getE e).st ≠ .leased || (s.getE e).cmd.isSome || !serves s x || !(l.phase = .held || (l.phase = .ending && !l.cancel)) then none
    else (bestOf classBefore ((leaseCommands s x slot).filter ready)).map fun f => (x, f.1, f.2)

/-- ENGINE_COMMAND_START (R272): a leased engine without a command starts the next one, or resumes a parked one. -/
def execEngineCommandStart (engine : Nat) (s : State) : Host.Outcome State Fault Refusal :=
  .next (match nextCommand s engine with
    | none => s
    | some (x, slot, o) =>
      match o.body.engine? with
      | none => s
      | some (op, _, va, _) =>
        let s := s.modE engine fun g => { g with cmd := some (x, slot) }
        let s := setOpSt (s.modO x slot fun o => { o with aged := 0, engine := engineField engine, notices := [], next := s.now + unitLat s x slot }) x slot .running
        if o.got = [] then readDesc s x slot o op.toNat va else s)

/-- ENGINE_UNIT_DONE (R274): the engine's command goes on by a unit. -/
def execEngineUnitDone (engine : Nat) (s : State) : Host.Outcome State Fault Refusal :=
  .next (match (s.getE engine).cmd with
    | none => s
    | some (x, slot) =>
      match s.getO x slot with
      | none => s
      | some o =>
        match o.body.engine? with
        | none => s
        | some (op, _, va, _) =>
          if o.st ≠ .running || !servesOrDrains s x then s
          else if o.got = [] then readDesc s x slot o op.toNat va
          else if cmdKind op.toNat = 0 then collStep s x slot o
          else unitStep s x slot o)

/-! ## Messages (R392, R394, R395, R405) -/

/-- A message of a collective is kept until the collective that it belongs to takes it in (R450). -/
def keepColl (s : State) (m : Msg) : State :=
  let s := sweepHeld { s with collHeld := s.collHeld ++ [m] }
  match collByKey s m.dvf.toNat m.aux with
  | none => s
  | some (x, slot, o) =>
    match collOf s x o with
    | some c => meetHeld s x slot o c m.aux
    | none => s

/-- COLLECTIVE (R392). -/
def execMsgCollective (m : Msg) (s : State) : Host.Outcome State Fault Refusal := .next (keepColl s m)

/-- PARK_NOTICE (R395). -/
def execParkNotice (m : Msg) (s : State) : Host.Outcome State Fault Refusal := .next (keepColl s { m with va := parkVa })

/-- RESUME_NOTICE (R395). -/
def execResumeNotice (m : Msg) (s : State) : Host.Outcome State Fault Refusal := .next (keepColl s { m with va := resumeVa })

/-- ABORT (R394, R405): of a collective, or with VA 1 of the collective that delivered under a shard key. -/
def execMsgAbort (m : Msg) (s : State) : Host.Outcome State Fault Refusal :=
  .next (if m.va = 1 then failDelivered s m.dvf.toNat m.aux else keepColl s m)

/-- SHARD_DELIVERY (R405): a refused one fails its collective on every member. -/
def execMsgShardDelivery (m : Msg) (s : State) : Host.Outcome State Fault Refusal :=
  .next (
    let fn := m.dvf.toNat
    let r := deliverShare s fn m.va.toNat m.aux m.payload
    if r.2 then (failDelivered r.1 fn m.aux).send fn m.src.toNat m.svf.toNat 13 1 m.aux [cREFUSED] else r.1)

end Sys2Proof.Machine
end

