-- ==== Sys2Proof/Machine/Events.lean ====
section
/-! DEFINITION. Machine/Events.lean: deliveries (R96, R153, R202), instruction fetch (R93), the debug hold and steps (R127,
R128), the release of HELD operations (R248), predecessors (R237), the class queues (R242), ageing, the replay of faults (R343),
and the end of a halt (R344, R345). -/

namespace Sys2Proof.Machine

/-! ## Deliveries -/

/-- Nothing of A is in flight. -/
def Core.aQuiet (c : Core) : Bool := !c.flight.any fun f => f.stream = .A

/-- A step is complete (R126, R128): with STEPEV it posts event 7. -/
def stepDone (s : State) (k : Nat) : State :=
  let c := s.getC k
  if c.dbg.stepEv then (postEvent s c.ctx 7 cSTEP.toNat k (BitVec.ofNat 64 k) (BitVec.ofNat 64 (c.clk % 2 ^ 32))) else s

/-- A step of A is complete once its word has finished (R128). -/
def settleStepA (s : State) (k : Nat) : State :=
  let c := s.getC k
  if c.dbg.stepABusy && c.aQuiet then stepDone (s.putC k { c with dbg := { c.dbg with stepABusy := false } }) k else s

/-- RESULT_DELIVERY (R96, R97, R101, R153): every result of a core that is due is delivered. -/
def execResultDelivery (core : Nat) (s : State) : Host.Outcome State Fault Refusal :=
  .next (
    let c := s.getC core
    if c.trioDue = [] && c.aDue s.now = [] then s
    else
      let a := !c.aQuiet
      let s := s.putC core (c.settle s.now)
      if a then settleStepA s core else s)

/-- A core has a tile write that is due (R202). -/
def Core.tileWritesDue (c : Core) : Bool := c.tileDue ≠ [] || c.seqs.any (seqDue c.clk)

/-- TILE_WRITE_DELIVERY (R202, R208). -/
def execTileWriteDelivery (core : Nat) (s : State) : Host.Outcome State Fault Refusal :=
  .next (if (s.getC core).tileWritesDue then s.modC core Core.settleTiles else s)

/-! ## Instruction fetch (R93) -/

/-- The stream with a number (R100). -/
def streamOf (n : Nat) : StreamId := match n with | 0 => .S | 1 => .V | 2 => .A | _ => .X

/-- Words of an instruction cache (R93). -/
def icacheWords : Nat := 4096

/-- The offset of the word that a stream misses in its instruction cache: that at its pc, or a pool word that its word reads (R93, R107). -/
def Stream.missing (m : Stream) : Option Nat := if (sfind m.cache m.pc).isNone then some m.pc else m.wants

/-- A stream that may issue words misses one. -/
def missesFetch (c : Core) (st : StreamId) : Bool :=
  c.inst.isSome && c.started && !c.away && (c.str st).st.live && (c.str st).missing.isSome

/-- A word enters an instruction cache; where the cache is full, a word other than the one at the pc makes room. -/
def Stream.cachePut (m : Stream) (off : Nat) (w : W64) : Stream :=
  let room : Sparse W64 :=
    if icacheWords ≤ m.cache.length then (match m.cache.find? fun e => e.1 ≠ m.pc with | some e => sdel m.cache e.1 | none => m.cache) else m.cache
  { m with cache := sput room off w, wants := none }

/-- FETCH_MISS_ARRIVAL (R53, R93, R107, R125): a missing word arrives, waits for its page, or faults. -/
def execFetchMissArrival (core stream : Nat) (s : State) : Host.Outcome State Fault Refusal :=
  .next (
    let st := streamOf stream
    let c := s.getC core
    if !missesFetch c st || waitsFault s core st then s
    else match (c.str st).missing with
      | none => s
      | some off =>
        match fetchCode s core off with
        | .wait va => enterFault s core st none (s.coreFn c) va false
        | .bad code va => if st = .A && c.aUnpassed then s else haltAt s core st { stopCode code with addr := va }
        | .ok l => s.putC core ((c.modStr st fun m => m.cachePut off (BitVec.ofNat 64 (leNat l))).pmcAdd 7 1))

/-! ## Debug hold and steps (R126-R128) -/

/-- DEBUG_HOLD (R127): the hold is in effect once A has finished its current word. -/
def execDebugHold (core : Nat) (s : State) : Host.Outcome State Fault Refusal :=
  .next (
    let c := s.getC core
    if !c.dbg.hold || c.dbg.held || !c.aQuiet || s.now < c.dbg.since then s
    else
      let trio (m : Stream) : Stream := if m.st = .aligned then { m with st := .frozen } else m
      let a : Stream := if c.a.st = .aligned then { c.a with st := .blocked } else c.a
      s.putC core { c with dbg := { c.dbg with held := true }, s := trio c.s, v := trio c.v, x := trio c.x, a := a })

/-- STEP (R128). -/
def execDebugStep (core : Nat) (s : State) : Host.Outcome State Fault Refusal :=
  .next (
    let c := s.getC core
    if c.dbg.held && !c.dbg.stepBusy then s.putC core { c with dbg := { c.dbg with stepBusy := true }, tTime := s.now } else s)

/-- STEPA (R128). -/
def execDebugStepA (core : Nat) (s : State) : Host.Outcome State Fault Refusal :=
  .next (
    let c := s.getC core
    if c.dbg.held && !c.dbg.stepABusy then s.putC core { c with dbg := { c.dbg with stepABusy := true }, aTime := s.now } else s)

/-- OPDBGREL (R248): the debugger releases a HELD operation. -/
def execOpdbgrel (handle : BitVec 32) (s : State) : Host.Outcome State Fault Refusal :=
  .next (
    let x := s.opdbgCtx.toNat
    match (s.getX x).op? handle with
    | none => { s with opdbgResult := 3 }
    | some o => if o.st = .held then advanceOp { s with opdbgResult := 1 } x (hSlot handle) else { s with opdbgResult := 2 })

/-! ## Predecessors and class queues (R237, R242, R243) -/

/-- PREDECESSOR_FINISHED (R237, R252). -/
def execPredecessorFinished (ctx slot : Nat) (s : State) : Host.Outcome State Fault Refusal :=
  .next (match s.getO ctx slot with
    | some o => if o.st = .waiting then advanceOp s ctx slot else s
    | none => s)

/-- The operation that a class queue starts next (R242). -/
def classHead (s : State) (cls : Nat × Nat) : Option (Nat × Nat × Op) :=
  bestOf (fun (a b : Nat × Nat × Op) => classBefore (a.1, a.2.2) (b.1, b.2.2))
    ((allOps s).filter fun e => classOf e.2.2 = some cls && mayBegin s e.1 e.2.1 e.2.2)

/-- A launch operation starts; it reaches the dispatcher after those started before it (R334). -/
def startLaunch (s : State) (x slot : Nat) : State :=
  let s := s.modO x slot fun o => { o with entry := s.opCount, engine := 0xA000 }
  startOp { s with opCount := s.opCount + 1 } x slot

/-- OPERATION_START (R237, R242): the head of a class queue starts where its agent can take it; a `wlease` reaches its array. -/
def execOperationStart (ctx slot : Nat) (s : State) : Host.Outcome State Fault Refusal :=
  .next (match s.getO ctx slot with
    | none => s
    | some o =>
      let head : Bool := match classOf o with
        | some cls => (classHead s cls).any fun e => e.1 = ctx && e.2.1 = slot
        | none => false
      match o.body with
      | .wlease prio => if o.st = .queued && serves s ctx then startWlease s ctx slot o prio else s
      | .copy .. => if head then startCopy s ctx slot o else s
      | .launch .. => if head && !(s.getX ctx).departs then startLaunch s ctx slot else s
      | .bdot desc => if head then startBdot s ctx slot o desc else s
      | .glaze sh step => if head then startGlaze s ctx slot o sh step else s
      | _ => s)

/-- One step of priority per 1 ms waited (R242, R264, R333). -/
def agePeriod : Nat := 1200000

/-- PRIORITY_AGING (R213, R242, R264, R333): 1 ms more of waiting raises the effective priority by one step, up to 7. -/
def execPriorityAging (who : Waiter) (s : State) : Host.Outcome State Fault Refusal :=
  .next (match who with
    | .op x slot =>
      (match s.getO x slot with
       | some o =>
         if o.waits && decide (o.since + agePeriod ≤ s.now) && decide (o.prio + o.aged < 7) then
           s.putO x slot { o with aged := o.aged + 1, since := s.now }
         else s
       | none => s)
    | .claim b k => ageClaim s b k
    | .node x q seq =>
      (match s.getNode x q seq with
       | some n =>
         if n.st = .ready && decide (n.readyAt + agePeriod * (n.aged + 1) ≤ s.now) && decide ((s.getQ x q).prio.toNat + n.aged < 7) then
           s.putNode x q seq { n with aged := n.aged + 1 }
         else s
       | none => s))

/-! ## The replay of faults (R343) -/

/-- Benches whose fault buffer is a hardware one (R343); the buffers above serve the device's agents and the fabric (assumption 15), whose accesses
wait for one another in no order. -/
def hwBenches : Nat := 96

/-- The oldest access of core k's A that waits has found its fault, which is taken once earlier words have passed their checks (R165). -/
def failPending (s : State) (k : Nat) (f : StopInfo) : State :=
  match (s.getC k).aFlight.find? fun g => g.acc.isSome with
  | some g => settleAccess s k g.seq fun e => { e with acc := some (.failed f) }
  | none => s

/-- REPLAY (R343): the oldest entry of a fault buffer replays once its page is resolved; a failed one becomes its stream's
halting fault, or is taken in by the agent that waits for it. -/
def execReplay (bench : Nat) (s : State) : Host.Outcome State Fault Refusal :=
  .next (
    if hwBenches ≤ bench then
      let s := if ((s.getB bench).faults.all fun f => f.failed.isSome || pageWaits s f.fn f.va) then s
        else s.modB bench fun b => { b with faults := b.faults.filter fun f => f.failed.isSome || pageWaits s f.fn f.va }
      if bench = benchOf devCore then drainDev s.devQ { s with devQ := [] } else s
    else match (s.getB bench).faults with
    | [] => s
    | f :: l =>
      let drop := s.modB bench fun b => { b with faults := l }
      let c := s.getC f.core
      let asks : Bool := f.stream = .S && match c.req with | .sent _ => true | _ => false
      if f.op.isNone && !((c.str f.stream).st.live) then drop
      else match f.failed with
        | none => if pageWaits s f.fn f.va then s else drop
        | some code =>
          if f.op.isSome || asks then s
          else
            let info : StopInfo := { stopCode code with addr := f.va }
            if f.stream = .A && c.aPending then failPending drop f.core info else haltAt drop f.core f.stream info)

/-! ## The end of a halt (R344, R345) -/

/-- The cores that a context holds. -/
def ctxCores (s : State) (x : Nat) : List (Nat × Core) := s.cores.filter fun e => e.2.inst.any fun i => i.ctx = x

/-- The word at a byte offset of the segment that a core runs, where it can be read. -/
def wordRead (s : State) (k : Nat) (st : StreamId) (pc : Nat) : W64 :=
  match sfind ((s.getC k).str st).cache pc with
  | some w => w
  | none => match fetchCode s k pc with | .ok l => BitVec.ofNat 64 (leNat l) | _ => 0

/-- The 64 bytes of a stop record (R345). -/
def stopRecord (s : State) (seq : W32) (type : Nat) (code st : Byte) (who : Nat) (core : BitVec 16) (c : Core) (pc : Nat) (word addr : W64)
    (index handle tcode : W32) (node : InstKey) : List Byte :=
  leBytes 4 seq.toNat ++ [BitVec.ofNat 8 type, code, st, BitVec.ofNat 8 who] ++ leBytes 2 core.toNat ++ leBytes 2 c.gidx ++ leBytes 4 pc ++
  leBytes 8 word.toNat ++ leBytes 8 addr.toNat ++ leBytes 4 index.toNat ++ leBytes 4 handle.toNat ++ leBytes 4 c.clk ++ leBytes 4 tcode.toNat ++
  leBytes 8 s.coldClock ++ leBytes 4 node.seq ++ leBytes 2 node.q ++ [0, 0]

/-- The stop record of a stream. -/
def streamRecord (s : State) (seq : W32) (k : Nat) (c : Core) (st : StreamId) : List Byte :=
  let m := c.str st
  let f : StopInfo := m.fault.getD (stopCode 0)
  stopRecord s seq 0 f.code (BitVec.ofNat 8 m.before.code) (streamNo st) (BitVec.ofNat 16 k) c m.pc (wordRead s k st m.pc) f.addr f.index 0 f.tcode
    (c.inst.getD { ctx := 0, q := 0, seq := 0 })

/-- The stop record of an operation; `code` is its own fault. -/
def opStopRecord (s : State) (seq : W32) (o : Op) (code : Byte) : List Byte :=
  stopRecord s seq 1 code (BitVec.ofNat 8 o.st.code) (kindOf o.body) o.engine (s.getC o.core) 0 0 o.addr o.index o.handle 0 o.node

/-- Writing the stop record at an index (R345, R462). -/
def putStop (s : State) (x i : Nat) (l : List Byte) : State := s.devWrite (s.getX x).fn ((s.getX x).stopva + BitVec.ofNat 64 (64 * i)) l

/-- How the line stops an operation that is RUNNING (R344). -/
def stopOp (s : State) (x slot : Nat) (code : Byte) : State :=
  match s.getO x slot with
  | none => s
  | some o =>
    if o.st ≠ .running then s
    else match o.body with
      | .copy .. => parkOp s x slot
      | .engine op _ _ res => if res && cmdKind op.toNat ≠ 0 then parkOp s x slot else failAny s x slot code o.unit 0
      | .lease .. | .glaze .. => s
      | _ => failAny s x slot code 0 0

/-- What is in flight on the agents of a context: results of its words, and commands of its arrays. -/
def ctxBusy (s : State) (x : Nat) : Bool :=
  ((ctxCores s x).any fun e => e.2.flight ≠ [] || e.2.tileW ≠ []) ||
  s.benches.any fun b => b.2.active.any fun a => match a.cmd with | .op y _ => y = x | _ => false

/-- The device answers the command in progress for a context (R341). -/
def endCmd (s : State) (x : Nat) (result : Byte) : State :=
  if s.cmd.busy && s.cmd.cmd ≠ 1 && s.cmd.ctx.toNat = x then { s with cmd := { s.cmd with busy := false, result := result } } else s

/-- A switch-out that will not be completed: its queues stay SWITCHED_OUT, with their QPROG frozen and their QTAIL held, until a switch-in
(R332, R336). -/
def thaw (s : State) (x : Nat) : State := s.modX x fun c => { c with switchStart := none }

/-- The stop records of a halt: of the streams, and of the operations that were RUNNING when the line rose. -/
def stopRecords (s : State) (x : Nat) (seq : W32) (h : Halt) : State :=
  let s := (ctxCores s x).foldl (fun s e =>
    [StreamId.S, .V, .A, .X].foldl (fun s st => putStop s x (4 * e.1 + streamNo st) (streamRecord s seq e.1 e.2 st)) s) s
  h.running.foldl (fun s slot =>
    match s.getO x slot with
    | none => s
    | some o =>
      let own := if h.first.toNat = 1536 + slot then h.code else if h.crossed.contains slot then cSAT else if o.st.finished && o.code ≠ h.code then o.code else 0
      putStop s x (1536 + slot) (opStopRecord s seq o own)) s

/-- The members of a context's tables are told that it is halted or torn down (R305; payload code 10, assumption 17). -/
def reportDown (s : State) (x : Nat) : State :=
  (s.getX x).pgs.foldl (fun s e =>
    if e.2.st = .dissolved then s else s.sendMembers (s.getX x).fn e.2 8 (e.1.setWidth 64) ([10, 0, 0, 0] ++ leBytes 4 e.1.toNat)) s

/-- What a halt means for a migration (R357): the other contexts of a quiescing function halt with the same code; a target's halt is
reported to its source (payload code 6, assumption 21). -/
def haltMigr (s : State) (x : Nat) (code : Byte) : State :=
  let c := s.getX x
  match c.migr with
  | none => s
  | some (dev, fn) =>
    if c.st = .migratingOut then
      (s.ctxs.filter fun e => e.2.fn = c.fn && e.2.st = .migratingOut && e.2.halt.isNone && e.1 ≠ x).foldl (fun s e => raiseHalt s e.1 0xFFFF code) s
    else s.send c.fn dev.toNat fn 12 0 0 [6]

/-- The barriers of a context break as its halt line rises (R316), after what arrives in the same clock (R313). -/
def State.haltBars (s : State) (x : Nat) (h : Halt) : State :=
  (s.modX x fun c => { c with halt := some { h with broke := true } }).breakBarriers x h.code fun _ => true

/-- A halt ends the wait for a migration's target (R352): the function's other contexts keep no target either. -/
def forgetMigr (s : State) (x : Nat) : State :=
  let c := s.getX x
  if c.migr.isNone || c.st = .migratingOut || c.st = .migratingIn then s
  else { s with ctxs := s.ctxs.map fun e => if e.2.fn = c.fn then (e.1, { e.2 with migr := none }) else e }

/-- HALT_FINISH (R344): the barriers break in the clock in which the line rises; once the issued words and the arrays' commands have ended, at the latest after 2,400 clocks, the halt
is written and posted, and the context is HALTED. -/
def execHaltFinish (ctx : Nat) (s : State) : Host.Outcome State Fault Refusal :=
  .next (match (s.getX ctx).halt with
    | none => s
    | some h =>
      if !h.broke then s.haltBars ctx h
      else if ctxBusy s ctx && s.now < h.since + 2400 then s
      else
        let s := h.running.foldl (fun s slot => stopOp s ctx slot h.code) s
        let seq := (s.getX ctx).haltSeq + 1
        let s := forgetMigr (haltMigr (reportDown (stopRecords s ctx seq h) ctx) ctx h.code) ctx
        let migr := (s.getX ctx).st = .migratingOut || (s.getX ctx).st = .migratingIn
        let s := if (s.getX ctx).switchStart.isSome then thaw s ctx else s
        let s := endCmd s ctx (if migr then 6 else 4)
        let s := s.modX ctx fun c => { c with haltCode := h.code, haltSeq := seq, haltFirst := h.first, halt := none, migr := none, moved := false }
        let s := (postEvent s ctx 5 h.code.toNat 0xFFFF (seq.setWidth 64) (h.first.setWidth 64))
        s.setCtxSt ctx .halted)

end Sys2Proof.Machine
end

