-- ==== Sys2Proof/Machine/Context.lean ====
section
/-! DEFINITION. Machine/Context.lean: contexts (R340-R342, R345, R349-R351): creation, switch-out and switch-in, recovery, teardown. -/

namespace Sys2Proof.Machine

/-! ## Creation (R340, R342) -/

/-- The areas that a context record names: the field's offset, the size and the alignment (R340). -/
def ctxAreas (l : List Byte) : List (Nat × Nat × Nat) :=
  let ev := 2 ^ (field l 0x40 4 + 5)
  [(0x10, 2 ^ 14, 2 ^ 14), (0x18, 2 ^ 13, 2 ^ 13), (0x20, 2 ^ 17, 2 ^ 17), (0x28, 2 ^ 15, 2 ^ 15), (0x30, 360448, 2 ^ 19), (0x38, ev, max 4096 ev),
   (0x50, field l 0x58 8, 4096)]

/-- A context record that R340 accepts for a function. -/
def ctxRecordOk (fn : Nat) (l : List Byte) : Bool :=
  let zero (off n : Nat) : Bool := (l.drop off).take n = List.replicate n 0
  field l 0 4 = 0x4B4C0043 && field l 4 2 = 1 && decide (field l 6 2 ≤ 1) && (field l 6 2 = 0 || fn = 0x80) && decide (field l 8 1 ≤ 15) &&
  field l 9 1 = fn && zero 0x0B 1 && zero 0x4C 4 && zero 0x6A 6 && zero 0x7C 4 && zero 0xC0 64 && decide (field l 0x0C 4 ≤ 2 ^ 24) &&
  decide (6 ≤ field l 0x40 4) && decide (field l 0x40 4 ≤ 16) &&
  (ctxAreas l).all fun a => field l a.1 8 % a.2.2 = 0 && decide (field l a.1 8 + a.2.1 ≤ 2 ^ 55)

/-- The context that a record describes. -/
def ctxOf (fn : Nat) (va : W64) (l : List Byte) : Ctx :=
  let w (off : Nat) : W64 := BitVec.ofNat 64 (field l off 8)
  let orIf (off d : Nat) : Nat := if field l off 4 = 0 then d else field l off 4
  let pre := orIf 0x44 60000
  { Ctx.reset with
    st := .created, recVa := va, fn := fn, service := field l 6 2 = 1, cyclim := orIf 0x0C (2 ^ 20), satva := w 0x10, regva := w 0x18, opva := w 0x20,
    barva := w 0x28, stopva := w 0x30, evqva := w 0x38, evqlog2 := field l 0x40 4, preemptWait := pre,
    deadline := if field l 0x48 4 = 0 then 240000 else max (field l 0x48 4) (pre + 4096), saveva := w 0x50, savelen := w 0x58,
    haltCode := BitVec.ofNat 8 (field l 0x60 1), haltSeq := BitVec.ofNat 32 (field l 0x64 4), haltFirst := BitVec.ofNat 16 (field l 0x68 2) }

/-- The device writes bytes into an area, page by page (R462). -/
def devFill (s : State) (fn : Nat) (va : W64) : List (List Byte) → State
  | [] => s
  | l :: r => devFill (s.devWrite fn va l) fn (va + BitVec.ofNat 64 l.length) r

/-- The images that CREATE writes (R340, R462). -/
def imageAll (s : State) (x : Nat) : State :=
  let c := s.getX x
  let free : List Byte := [0, 0, 0, 0, 0x0C] ++ List.replicate 27 0
  let s := devFill s c.fn c.opva (List.replicate 2 (List.replicate 2048 free).flatten)
  let s := devFill s c.fn c.regva [List.replicate 8192 0]
  let s := devFill s c.fn c.barva [List.replicate 32768 0]
  let s := devFill s c.fn c.stopva (List.replicate 11 (List.replicate 32768 0))
  s.imageCtx x

/-- The function may hold contexts (R342). -/
def fnEnabled (s : State) (fn : Nat) : Bool :=
  fn = 0x80 || match partOf s fn with | some p => (dcGet s (0x00290008 + 0x10 * p)).getLsbD 0 | none => false

/-- A tombstone stands for a function (R356). -/
def entombed (s : State) (fn : Nat) : Bool := s.tombstones.any fun t => t.1 = fn

/-- The command block's own accesses wait in the device's buffer under this context and key (assumption 15). -/
def cmdCtx : Nat := 4096

/-- A read by the command block through a function's table. -/
def cmdRead (s : State) (fn : Nat) (va : W64) (n : Nat) : OpRd :=
  match opEntry s devCore cmdCtx 0 with
  | some f => (match f.failed with | some c => .bad c f.va | none => .wait s)
  | none => match readVa s .device fn va n with
    | .ok l => .ok s l
    | .wait a => .wait (enterFault s devCore .S (some (cmdCtx, 0)) fn a false)
    | .bad c a => .bad c a

/-- The command in progress ends with a result. -/
def cmdEnd (s : State) (result : Byte) : State := { dropOpEntry s cmdCtx 0 with cmd := { s.cmd with busy := false, result := result } }

/-- Creating a context from the record at `va` in a function: the state, and the result of R341. -/
def makeCtx (s : State) (fn : Nat) (va : W64) (st : CtxSt) (l : List Byte) : State × Byte × Nat :=
  let x := ctxId fn (field l 8 1)
  if !ctxRecordOk fn l || !fnEnabled s fn then (s, 2, x)
  else if (s.getX x).st ≠ .free || entombed s fn then (s, 3, x)
  else
    let c : Ctx := { ctxOf fn va l with st := st }
    (imageAll { s with ctxs := sput s.ctxs x c } x, 0, x)

/-- CREATE (R340, R342). -/
def execCtxCreate (s : State) : Host.Outcome State Fault Refusal :=
  .next (
    if !s.cmd.busy || s.cmd.cmd ≠ 1 then s
    else
      let fn := (s.cmd.carg.extractLsb' 56 8).toNat
      let va := s.cmd.carg &&& 0x007FFFFFFFFFFFFF
      if 0x80 < fn || s.cmd.carg.getLsbD 55 || va.toNat % 512 ≠ 0 then cmdEnd s 2
      else match cmdRead s fn va 512 with
        | .wait s => s
        | .bad _ _ => cmdEnd s 2
        | .ok s l =>
          let (s, r, x) := makeCtx s fn va .created l
          let s := cmdEnd s r
          if r = 2 then s else { s with cmd := { s.cmd with ctx := BitVec.ofNat 16 x } })

/-! ## Leaving the cores (R349, R175) -/

/-- An instance whose node has not started is DESCRIBED again, its cores FREE, its node READY (R301). -/
def unbindInst (s : State) (key : InstKey) : State :=
  (dropInst s key).modNode key.ctx key.q key.seq fun n => { n with st := .ready }

/-- The dispatcher stops for a context (R283, R336, R349): queues are SWITCHED_OUT, QPROG freezes, instances that do not run yet are
DESCRIBED again. -/
def departBegin (s : State) (x : Nat) (st : CtxSt) : State :=
  let s := (s.modX x fun c => { c with switchStart := some s.now }).setCtxSt x st
  let s := ((s.getX x).insts.filter fun e => e.2.st = .admitted || e.2.st = .resident).foldl (fun s e => unbindInst s e.1) s
  s.modX x fun c => { c with queues := c.queues.map fun e =>
    (e.1, { e.2 with frozen := some (e.2.frozen.getD e.2.prog),
                     st := match e.2.st with | .empty | .active | .running => QueueSt.switchedOut | t => t }) }

/-- The word due is an `owait` or a `barwait` that waits (R349). -/
def yieldWord (c : Core) (st : StreamId) : Bool :=
  match sfind (c.str st).cache (c.str st).pc with
  | some w => (match decode st w with
    | .ok (.owait ..) | .ok (.barwait ..) => true
    | _ => false)
  | none => false

/-- A trio stream has a word due in this trio clock (R90). -/
def dueNow (c : Core) (st : StreamId) : Bool :=
  let m := c.str st
  m.st.live && match sfind m.cache m.pc with
    | some w => decide (m.last + (hdrOf w).idle.toNat + 1 ≤ c.clk)
    | none => true

/-- A core may be switched out heavy in this clock (R349). -/
def quietCore (c : Core) : Bool :=
  let trio := [StreamId.S, .V, .X]
  let yields (st : StreamId) : Bool := dueNow c st && yieldWord c st && (c.str st).st = .frozen
  let rests (st : StreamId) : Bool := (c.str st).st = .stopped || (c.str st).atAlign.isSome
  let ok (st : StreamId) : Bool :=
    rests st || yields st || (!dueNow c st && (trio.any yields || (trio.filter (· ≠ st)).all fun u => rests u || yields u))
  (c.a.st = .blocked || c.a.st = .stopped) && trio.all ok

/-- A core is switched out heavy (R175, R311, R349): nothing more starts; waits that have performed nothing are abandoned, and the reply to a
request that S has sent is awaited. -/
def leaveCore (s : State) (k : Nat) : State :=
  let s := recallWaiting s k
  let c := (s.getC k).abandonA
  let frozen (m : Stream) : Stream := if m.st.live then { m with st := .frozen } else m
  let req := match c.req with
    | .sent a | .applied a => if a.op = .barwait || a.op = .bartest then Request.none else c.req
    | r => r
  let lock := match c.lock with | .waiting => LockSt.none | l => l
  let owait := match c.owait with | .waiting .. => OWait.none | w => w
  let c := { c with away := true, s := frozen c.s, v := frozen c.v, x := frozen c.x,
                    a := if c.a.st.live then { c.a with st := .blocked } else c.a, req := req, lock := lock, owait := owait }
  let s := dropFaults (s.putC k c) fun f => f.core = k && f.op.isNone
  withdrawAcq s k

/-- PREEMPT_WAIT_EXPIRY (R349): past PREEMPT_WAIT a core is switched out heavy where it is quiet, and in any case 4,096 clocks
before DEADLINE. -/
def execPreemptWaitExpiry (ctx core : Nat) (s : State) : Host.Outcome State Fault Refusal :=
  .next (
    let x := s.getX ctx
    let c := s.getC core
    match x.switchStart with
    | none => s
    | some t =>
      if !x.departs || x.halt.isSome || c.away || c.dbg.held || !(c.inst.any fun i => i.ctx = ctx) then s
      else if t + x.deadline ≤ s.now + 4096 || (decide (t + x.preemptWait ≤ s.now) && quietCore c) then leaveCore s core
      else s)

/-! ## Draining and parking (R247, R267, R349) -/

/-- A lease gives up its engine and waits PARKED, its age kept (R267); a request that has not entered its queue stays so. -/
def parkLease (s : State) (x slot : Nat) (l : LeaseInfo) : State :=
  let s := modLease (setParked s x slot) x slot fun l => { l with phase := if l.phase = .none then LeasePhase.none else .waiting, engine := none }
  match l.engine with
  | none => s
  | some e =>
    match (s.getE e).st with
    | .leased => passEngine s e
    | _ => s.modE e fun g => { g with lease := none }

/-- An operation of the context runs under a lease. -/
def leaseBusy (s : State) (x slot : Nat) : Bool := (leaseCommands s x slot).any fun e => e.2.st = .running

/-- Park notices for a running collective, once (R395). -/
def sendPark (s : State) (x slot : Nat) (o : Op) : State :=
  match collOf s x o, o.collKey? with
  | some c, some key =>
    if o.notices.contains c.t.rank then s
    else
      let s := s.modO x slot fun o => { o with notices := c.t.rank :: o.notices }
      (c.t.members.zipIdx.filter fun e => e.2 ≠ c.t.rank).foldl (fun s e => s.send (s.getX x).fn e.1.1.toNat (vfFn e.1.2) 6 parkVa key []) s
  | _, _ => s

/-- Every member has sent a park notice for a collective (R395). -/
def parkedAll (s : State) (x : Nat) (o : Op) : Bool :=
  match collOf s x o with
  | some c => (List.range c.size).all fun q => o.notices.contains q
  | none => false

/-- What a departing context's operation does (R247): copies and `.res` commands park, collectives park together, a `wlease` that waits
parks; the others drain. -/
def departOp (s : State) (x slot : Nat) (o : Op) : State :=
  match o.body with
  | .copy .. => if o.st = .running then parkOp s x slot else s
  | .engine op _ _ res =>
    if o.st ≠ .running then s
    else if cmdKind op.toNat ≠ 0 then (if res then parkOp s x slot else s)
    else
      let s := sendPark s x slot o
      match s.getO x slot with
      | some p => if parkedAll s x p && ((s.getX x).switchStart.any fun t => decide (s.now + 4096 < t + (s.getX x).deadline)) then parkOp s x slot else s
      | none => s
  | .wlease _ => if o.st = .queued then setParked s x slot else s
  | _ => s

/-- What a departing context's lease does once its commands have drained or parked (R247, R267): a waiting one parks, and one that holds an
engine gives it up; one whose end has been accepted ends. -/
def departLease (s : State) (x slot : Nat) (o : Op) : State :=
  match o.body.lease? with
  | none => s
  | some l =>
    if !(o.st = .queued || o.st = .running) || leaseBusy s x slot then s
    else if l.ends && leaseCommands s x slot = [] then settleLease s x slot
    else parkLease s x slot l

/-- A matrix, bank dot, launch or engine operation that still drains (R247, R349). -/
def drains (o : Op) : Bool :=
  o.st = .running && match o.body with | .glaze .. | .lease .. | .copy .. => false | _ => true

/-- DEADLINE has passed. -/
def pastDeadline (s : State) (x : Nat) : Bool := (s.getX x).switchStart.any fun t => decide (t + (s.getX x).deadline ≤ s.now)

/-- A command that a switched core created may still start (R231). -/
def arrayWaits (s : State) (x : Nat) : Bool :=
  s.cores.any fun e => e.2.away && (e.2.inst.any fun i => i.ctx = x) &&
    ((waitingCmds s (benchOf e.1) (e.1 % 4)).head?.any fun c => match c with | .op y t => (s.getO y t).any opReady | _ => true)

/-- A core that has left still awaits what it began: A's replies, the answer to a request (R175, R311, R322). -/
def awaitsMore (s : State) (x : Nat) : Bool :=
  s.cores.any fun e => (e.2.inst.any fun i => i.ctx = x) && (!e.2.aQuiet || match e.2.req with | .sent _ | .applied _ => true | _ => false)

/-- A lease of the context has not ended or parked yet. -/
def leasesHeld (s : State) (x : Nat) : Bool := (s.getX x).ops.any fun e => e.2.st = .running && e.2.body.lease?.isSome

/-- The device's own accesses of a context's areas wait (R343). -/
def actsWait (s : State) (x : Nat) : Bool :=
  s.devQ.any fun e => e.fn = (s.getX x).fn && match e.act with | .write .. | .merge .. => true | .event y .. | .sat y .. => y = x

/-- DEADLINE_EXPIRY (R349): what still drains at DEADLINE fails: a collective with OP_CANCELLED, a non-resumable engine command
with LEASE_EVICTED; each posts event 9. -/
def execDeadlineExpiry (ctx : Nat) (s : State) : Host.Outcome State Fault Refusal :=
  .next (
    if !(s.getX ctx).departs || (s.getX ctx).halt.isSome || coresOn s ctx || !pastDeadline s ctx then s
    else
      let late := (s.getX ctx).ops.filter fun e => e.2.st = .running && e.2.body.engine?.isSome
      late.foldl (fun s e =>
        let op := e.2.body.engine?.any fun b => cmdKind b.1.toNat = 0
        let code := if op then cCANCELLED else cEVICTED
        let s := failAny s ctx e.1 code e.2.unit 0
        (postEvent s ctx 9 code.toNat 0xFFFF (e.2.handle.setWidth 64) 0)) s)

/-! ## Saving (R350) -/

/-- The bytes of a heavy image. -/
def imageBytes : Nat := 1310720

/-- Where the image of a group index lies. -/
def imageVa (c : Ctx) (gidx : Nat) : W64 := c.saveva + BitVec.ofNat 64 (imageBytes * gidx)

/-- The bytes of the image that has a number: the layout is the device's own, its bytes are free values (assumption 22). -/
def imageOf (n : Nat) : List Byte := (List.range imageBytes).map (Config.freeByte n)

/-- The images of the tables that a save writes whole (R186, R244, R312, R350): the entries that were never used are as at CREATE. -/
def lightState (c : Ctx) : List (W64 × List Byte) :=
  let free : List Byte := [0, 0, 0, 0, 0x0C] ++ List.replicate 27 0
  let entry {α : Type} (m : Sparse α) (f : α → List Byte) (d : List Byte) (i : Nat) : List Byte := match sfind m i with | some a => f a | none => d
  [(c.regva, (List.range 256).flatMap (entry c.regions (fun r => regionBytes r true) (List.replicate 32 0))),
   (c.opva, (List.range 4096).flatMap (entry c.ops opRecord free)),
   (c.barva, (List.range 1024).flatMap (entry c.barriers barrierBytes (List.replicate 32 0)))]

/-- What a save writes (R350), in bytes from a VA: the record, the tables, a heavy image for each switched core. -/
def saveAreas (c : Ctx) (l : List (Nat × Core)) : List (W64 × Nat) :=
  [(c.recVa, 512), (c.regva, 8192), (c.opva, 131072), (c.barva, 32768)] ++ l.map fun e => (imageVa c e.2.gidx, imageBytes)

/-- The first of a list of areas that cannot be written: it waits for a page, or faults (R462). -/
def areasFault (s : State) (fn : Nat) : List (W64 × Nat) → Rd
  | [] => .ok []
  | (va, n) :: l => match checkFrom s .device fn .wr false (n / 65536 + 2) va n with
    | .ok _ => areasFault s fn l
    | r => r

/-- A core's claim leaves its array: its ACCUMULATING accumulators are saved and cleared, and the run passes (R231). -/
def leaveClaim (s : State) (k : Nat) : State × Option Claim × List ArrCmd :=
  let b := benchOf k
  let d := s.getB b
  match d.claim? (k % 4) with
  | none => (s, none, [])
  | some c =>
    let mine := d.run.any fun r => r.k = k % 4
    let c := if mine && d.st = .accumulating then { c with savedAcc := some d.acc, since := none } else { c with since := none }
    let claims := d.claims.filter fun e => e.k ≠ k % 4
    let d := { d with claims := claims, cmds := sdel d.cmds (k % 4), run := if mine then none else d.run,
                      lastHolder := if mine then some (k % 4) else d.lastHolder,
                      acc := if mine then [] else d.acc,
                      st := if claims = [] then ArrSt.idle else if mine then d.heldSt else d.st }
    (s.modB b fun _ => d, some c, sget [] (s.getB b).cmds (k % 4))

/-- A switched core is saved under its group index and becomes FREE (R301, R350). -/
def saveCore (s : State) (x : Nat) (e : Nat × Core) : State :=
  match e.2.inst with
  | none => s
  | some key =>
    let (s, claim, cmds) := leaveClaim s e.1
    let img : SavedCore := { key := key, gidx := e.2.gidx, core := s.getC e.1, old := e.1, image := s.free, claim := claim, cmds := cmds }
    let s := { s with free := s.free + 1 }.devWrite (s.getX x).fn (imageVa (s.getX x) e.2.gidx) (imageOf s.free)
    let s := s.modX x fun c => { c with saved := c.saved ++ [img] }
    (s.modInst key fun i => { i with cores := [] }).putC e.1 (s.getC e.1).blank

/-- One event per ORPHANED operation (R241). -/
def reportOrphans (s : State) (x : Nat) : State :=
  (s.getX x).orphans.foldl (fun s h =>
    let code : Nat := match (s.getX x).op? h with | some o => o.code.toNat | none => 0
    (postEvent s x 2 code 0xFFFF (h.setWidth 64) 0)) s

/-- The light state is written (R350). -/
def saveLight (s : State) (x : Nat) : State :=
  ((lightState (s.getX x)).foldl (fun (s : State) a => s.devWrite (s.getX x).fn a.1 a.2) s).imageCtx x

/-- What is left of a departing context is saved (R349, R350, R462): the state after it, and whether that is all; a page that is absent or
moves is waited for, and a fault halts the context. -/
def departSave (s : State) (x : Nat) : State × Bool :=
  let l := ctxCores s x
  let key := nodeKey 0 0 4
  match (opEntry s devCore x key).map (·.failed) with
  | some (some code) => (raiseHalt (dropOpEntry s x key) x 0xFFFF code, false)
  | some none => (s, false)
  | none =>
    match areasFault s (s.getX x).fn (saveAreas (s.getX x) l) with
    | .wait va => (enterFault s devCore .S (some (x, key)) (s.getX x).fn va true, false)
    | .bad code _ => (raiseHalt s x 0xFFFF code, false)
    | .ok _ => (reportOrphans (saveLight (l.foldl (fun s e => saveCore s x e) s) x) x, true)

/-- Copy nodes drain; at DEADLINE they keep their progress. -/
def copyNodesRun (s : State) (x : Nat) : Bool :=
  (s.getX x).queues.any fun q => q.2.nodes.any fun n => n.2.st = .running && n.2.engine.isSome && n.2.fault.isNone

/-- A step of a departing context whose cores have all left (R349, steps 4 to 6): the state, and whether it is switched out. -/
def departStep (s : State) (x : Nat) : State × Bool :=
  if coresOn s x then (s, false)
  else
    let s := (s.getX x).ops.foldl (fun s e => departOp s x e.1 e.2) s
    let s := (s.getX x).ops.foldl (fun s e => departLease s x e.1 e.2) s
    let c := s.getX x
    let late := pastDeadline s x
    if (c.ops.any fun e => drains e.2) || leasesHeld s x || (arrayWaits s x && !late) || awaitsMore s x || (copyNodesRun s x && !late) || actsWait s x then
      (s, false)
    else if c.dotSet ≠ [] then (withDot s fun s => s.modX x fun c => { c with dotSaved := c.dotSet, dotSet := [] }, false)
    else if s.chanChange.any fun e => c.dotSaved.contains e.1 && !dotWanted s e.1 then (s, false)
    else departSave s x

/-- The connections of a function drain: no new message is sent (R389). -/
def drainConns (s : State) (fn : Nat) : State :=
  { s with conns := s.conns.map fun c => if c.fn = fn && !c.closed && c.st = .openSt then { c with st := .draining, idleDrain := false } else c }

/-! ## SWITCH_OUT (R349) -/

/-- A switched-out context keeps nothing running. -/
def departEnd (s : State) (x : Nat) : State :=
  let still (q : Queue) : Queue := { q with nodes := q.nodes.map fun n => (n.1, { n.2 with engine := none }) }
  s.modX x fun c => { c with switchStart := none, queues := c.queues.map fun e => (e.1, still e.2) }

/-- SWITCH_OUT (R342, R349): the command, and each later step of its sequence. -/
def execSwitchOut (ctx : Nat) (s : State) : Host.Outcome State Fault Refusal :=
  .next (
    let c := s.getX ctx
    let asked : Bool := s.cmd.busy && s.cmd.cmd = 2 && s.cmd.ctx.toNat = ctx
    if c.st = .switchingOut then
      (if c.halt.isSome then s
       else
         let r := departStep s ctx
         if r.2 then
           let s := ((departEnd r.1 ctx).setCtxSt ctx .switchedOut)
           endCmd (postEvent s ctx 8 0 0xFFFF 5 0) ctx 0
         else r.1)
    else if !asked then s
    else if c.halt.isSome then s
    else match c.st with
      | .created =>
        let r := departStep (departBegin s ctx .switchingOut) ctx
        if r.2 then endCmd ((departEnd r.1 ctx).setCtxSt ctx .switchedOut) ctx 0 else r.1
      | .runnable | .running => departBegin s ctx .switchingOut
      | _ => endCmd s ctx 1)

/-! ## SWITCH_IN (R351) -/

/-- The saved images of an instance. -/
def savedOf (c : Ctx) (key : InstKey) : List SavedCore := c.saved.filter fun v => v.key = key

/-- A core number of an old group in the new one. -/
def mapCore (m : List (Nat × Nat)) (k : Nat) : Nat := match m.find? fun e => e.1 = k with | some e => e.2 | none => k

/-- The captured operands name the new core. -/
def MatArgs.moved (f : Nat → Nat) (m : MatArgs) : MatArgs := { m with core := f m.core }

/-- A body after its core has moved. -/
def OpBody.moved (f : Nat → Nat) : OpBody → OpBody
  | .dot t m => .dot t (m.moved f)
  | .pairDot t p q lo hi => .pairDot t p q (lo.map (·.moved f)) (hi.map (·.moved f))
  | .wouter m => .wouter (m.moved f)
  | b => b

/-- The operations of a node follow their cores. -/
def moveOps (s : State) (key : InstKey) (f : Nat → Nat) : State :=
  s.modX key.ctx fun c => { c with ops := c.ops.map fun e =>
    (e.1, if e.2.node = key then { e.2 with core := f e.2.core, body := e.2.body.moved f } else e.2) }

/-- A saved core is restored on core k (R301, R351): the L1 is invalid, the claim re-enters the array, the streams go on. -/
def restoreCore (s : State) (f : Nat → Nat) (v : SavedCore) (k : Nat) : State :=
  let go (m : Stream) : Stream := if m.st = .frozen then { m with st := .aligned } else m
  let c := { v.core with away := false, l1 := [], s := go v.core.s, v := go v.core.v, x := go v.core.x, tTime := s.now, aTime := s.now,
                         pairPartner := if v.core.pairBound then BitVec.ofNat 7 (benchOf (f (4 * v.core.pairPartner.toNat + v.old % 4))) else v.core.pairPartner,
                         qwin := (s.getC k).qwin }
  let s := s.putC k c
  match v.claim with
  | none => s
  | some cl =>
    s.modB (benchOf k) fun d =>
      let d := { d with claims := d.claims ++ [{ cl with k := k % 4, bind := cl.bind.map f }], cmds := sput d.cmds (k % 4) v.cmds }
      if d.st ≠ .idle then d
      else if d.tag.any (·.ctx ≠ cl.ctx) then { d.clearCells with st := ArrSt.leased }
      else { d with st := d.heldSt }

/-- The group of an instance is bound again (R301), or none where it cannot be. -/
def rebindInst (s : State) (key : InstKey) (i : Inst) : Option State :=
  let l := savedOf (s.getX key.ctx) key
  if l = [] then some s
  else
    let p := ringPart s (s.getX key.ctx).fn
    let fits := decide (partCores s p + l.length ≤ (dcGet s (0x00290004 + 0x10 * p)).toNat)
    match (if fits then chooseCores s l.length (field i.launch 6 2 % 2 = 1) [] else none) with
    | none => none
    | some ks =>
      let pairs : List (Nat × Nat) := l.filterMap fun v => (ks[v.gidx]?).map fun k => (v.old, k)
      let f := mapCore pairs
      let s := l.foldl (fun s v => restoreCore s f v (f v.old)) s
      some ((moveOps s key f).modInst key fun i => { i with cores := ks })

/-- Every saved group is bound, or none of them. -/
def rebindAll (s : State) (x : Nat) : Option State :=
  (s.getX x).insts.foldl (fun (r : Option State) e => r.bind fun s => rebindInst s e.1 e.2) (some s)

/-- A parked operation re-enters its queue with its age (R237, R267); a collective sends its resume notices (R395). -/
def unparkOp (s : State) (x slot : Nat) (o : Op) : State :=
  if o.st ≠ .parked then s
  else
    let s := setOpSt (s.modO x slot fun o => { o with since := s.now - o.since }) x slot .queued
    match o.body.lease? with
    | some l => if l.phase = .none then s else queueLease s x slot false
    | none =>
      match collOf s x o, o.collKey? with
      | some c, some key =>
        let s := s.modO x slot fun o => { o with notices := (2 ^ 20 + c.t.rank) :: o.notices }
        (c.t.members.zipIdx.filter fun e => e.2 ≠ c.t.rank).foldl (fun s e => s.send (s.getX x).fn e.1.1.toNat (vfFn e.1.2) 6 resumeVa key []) s
      | _, _ => s

/-- The queues of a context return (R332, R336): a saved QTAIL is applied; a mark takes effect in place of the state that the nodes give. -/
def returnQueue (s : State) (x q : Nat) : State :=
  let m := s.getQ x q
  let base : Queue := if m.st = .switchedOut then m.byNodes else m
  let s := s.modQ x q fun _ => { base with frozen := none, shadow := none, markSuspend := false, markDrain := false }
  let s := match m.shadow with | some t => applyTail s x q t | none => s
  s.modQ x q fun n =>
    let n := n.settle
    let n := if m.markSuspend && m.st = .switchedOut then { n with st := .suspended } else n
    if m.markDrain then n.drain else n

/-- A context's cores, channels, operations and queues are restored (R351). -/
def restoreCtx (s : State) (x : Nat) : State :=
  let s := s.modX x fun c => { c with saved := [] }
  let s := withDot s fun s => s.modX x fun c => { c with dotSet := c.dotSaved, dotSaved := [], st := .created }
  let s := (s.getX x).ops.foldl (fun s e => unparkOp s x e.1 e.2) s
  let s := (s.getX x).queues.foldl (fun (s : State) e => returnQueue s x e.1) s
  (settleCtx s x).imageCtx x

/-- What an image that software has changed restores (R350): a free value of the image's bytes, as the device's own layout gives them
(assumption 22); the group and its place stay as the device keeps them. -/
def reimage (v : SavedCore) (l : List Byte) : SavedCore :=
  match takeSavedCore (Config.unimage l) with
  | some (w, _) =>
    { v with core := { w.core with inst := v.core.inst, gidx := v.core.gidx, started := v.core.started, away := v.core.away },
             claim := w.claim.map fun c => { c with ctx := v.key.ctx }, cmds := w.cmds }
  | none => v

/-- The number of the image that the device wrote last for a group index. -/
def Ctx.lastImage (c : Ctx) (gidx : Nat) : Option Nat := (c.saved.reverse.find? fun v => v.gidx = gidx).map (·.image)

/-- The images of a context's saved cores, read back (R350, R351): an image as the device wrote it restores its core. -/
def readImages (s : State) (c : Ctx) : List SavedCore → List SavedCore → Adm (List SavedCore)
  | [], acc => .ok s acc
  | v :: l, acc =>
    match cmdRead s c.fn (imageVa c v.gidx) imageBytes with
    | .wait s => .wait s
    | .bad code _ => .fail s code 0
    | .ok s b => readImages s c l (acc ++ [if (c.lastImage v.gidx).any fun n => b = imageOf n then v else reimage v b])

/-- SWITCH_IN (R342, R351): where an image cannot be read or a saved group cannot be bound, nothing changes and the result is 1. -/
def execSwitchIn (ctx : Nat) (s : State) : Host.Outcome State Fault Refusal :=
  .next (
    if !(s.cmd.busy && s.cmd.cmd = 3 && s.cmd.ctx.toNat = ctx) then s
    else if (s.getX ctx).st ≠ .switchedOut then endCmd s ctx 1
    else match readImages s (s.getX ctx) (s.getX ctx).saved [] with
      | .wait s => s
      | .fail s _ _ => endCmd (dropOpEntry s cmdCtx 0) ctx 1
      | .ok s l => match rebindAll ((dropOpEntry s cmdCtx 0).modX ctx fun c => { c with saved := l }) ctx with
        | none => endCmd s ctx 1
        | some s => endCmd (restoreCtx s ctx) ctx 0)

/-! ## RECOVER (R345) -/

/-- The RUNNING nodes of a context (R345). -/
def haltedNodes (s : State) (x : Nat) : List InstKey :=
  (s.getX x).queues.flatMap fun q => (q.2.nodes.filter fun n => n.2.st = .running).map fun n => { ctx := x, q := q.1, seq := n.1 }

/-- The operations of a node that has failed at a halt (R239, R240, R345): parked attached ones end CANCELLED, other unfinished
ones have no owner any more (assumption 23). -/
def recoverOps (s : State) (key : InstKey) : State :=
  let s := settleNodeOps s key
  (nodeOps s key).foldl (fun s e =>
    if e.2.st.finished then s
    else if e.2.st = .parked then retireOp (cancelOp s key.ctx e.1) key.ctx e.1
    else s.modO key.ctx e.1 fun o => { o with attached := false, released := true }) s

/-- A halted node finishes failed, and its queue is SUSPENDED (R345). -/
def recoverNode (s : State) (key : InstKey) : State :=
  let s := recoverOps s key
  let s := endNode (dropInst s key) key.ctx key.q key.seq (s.getX key.ctx).haltCode
  s.modQ key.ctx key.q Queue.suspend

/-- RECOVER (R342, R345). -/
def execCtxRecover (ctx : Nat) (s : State) : Host.Outcome State Fault Refusal :=
  .next (
    if !(s.cmd.busy && s.cmd.cmd = 4 && s.cmd.ctx.toNat = ctx) then s
    else if (s.getX ctx).st ≠ .halted then endCmd s ctx 1
    else
      let s := (haltedNodes s ctx).foldl recoverNode s
      let s := (s.getX ctx).ops.foldl (fun s e => if e.2.attached then s else unparkOp s ctx e.1 e.2) s
      let s := s.modX ctx fun c => { c with saved := [], st := .created }
      endCmd ((settleCtx s ctx).imageCtx ctx) ctx 0)

/-! ## DESTROY (R342) -/

/-- An operation at teardown (R237, R266): one that does not run fails with CONTEXT_DYING; a running one completes or stops at
its next unit boundary; leases are evicted. -/
def dyingOp (s : State) (x slot : Nat) : State :=
  match s.getO x slot with
  | none => s
  | some o =>
    if o.st.finished then s
    else match o.body with
      | .engine .. => failAny s x slot cDYING o.unit 0
      | .lease .. =>
        (match o.body.lease? with
         | some l =>
           let s := modLease s x slot fun l => { l with phase := .none, engine := none }
           let s := finishOp s x slot .failed cDYING 0 0
           (match l.engine with
            | some e =>
              if (s.getE e).st = .leased then
                dcCount (s.modE e fun g => { g with st := .evicting, since := s.now, lease := none, cmd := none, revoke := none, budgetCut := false }) 0x00270018 1
              else s.modE e fun g => { g with lease := none }
            | none => s)
         | none => s)
      | _ =>
        if o.st ≠ .running then failAny s x slot cDYING 0 0
        else if stopsEarly o.body then s.modO x slot fun o => { o with cancel := true }
        else s

/-- The glaze operations of a function's last context fault their shards (R404). -/
def dyingShards (s : State) (x : Nat) : State :=
  let fn := (s.getX x).fn
  if s.ctxs.any fun e => e.1 ≠ x && e.2.st ≠ .free && e.2.fn = fn then s
  else (List.range 1024).foldl (fun s n => if (s.getShard fn n).st.open_ then faultShard s fn n cDYING 0 0 else s) s

/-- The context's share of the arrays ends (R233): its cells are zeroed. -/
def dyingArrays (s : State) (x : Nat) : State :=
  let s := (List.range 384).foldl (fun s k => match s.claimOf k with | some c => if c.ctx = x then endClaim s k cDYING else s | none => s) s
  { s with benches := s.benches.map fun e => (e.1, if e.2.tag.any fun t => t.ctx = x then { e.2.clearCells with st := if e.2.st = .loaded then ArrSt.leased else e.2.st } else e.2) }

/-- DESTROY (R342): the context's cores stop, its nodes and operations end, its tables dissolve. -/
def destroyBegin (s : State) (x : Nat) : State :=
  let s := s.modX x fun c => { c with halt := none, switchStart := none, saved := [], migr := none }
  let s := { s with lockQ := s.lockQ.filter fun w => match w.core with | some k => (s.getC k).ctx ≠ x | none => true }
  let s := reportDown s x
  let s := (s.getX x).pgs.foldl (fun s e => s.modPg x e.1 fun t => { t with st := .dissolved }) s
  let s := (s.getX x).insts.foldl (fun s e => dropInst s e.1) s
  let s := (s.getX x).queues.foldl (fun (s : State) e =>
    if e.2.st = .dead then s else (failOpenNodes s x e.1 cDYING).modQ x e.1 fun m => { m with st := .dead, frozen := none, shadow := none }) s
  let s := s.setCtxSt x .destroying
  let s := (s.getX x).ops.foldl (fun s e => dyingOp s x e.1) s
  let s := dyingShards s x
  let s := withDot s fun s => s.modX x fun c => { c with dotSet := [], dotSaved := [], barriers := [], regions := [] }
  dropFaults s fun f => f.op.any fun e => e.1 = x && 4096 ≤ e.2 % 8192

/-- DESTROY (R341, R342). -/
def execCtxDestroy (ctx : Nat) (s : State) : Host.Outcome State Fault Refusal :=
  .next (
    if !(s.cmd.busy && s.cmd.cmd = 5 && s.cmd.ctx.toNat = ctx) then s
    else match (s.getX ctx).st with
      | .free => endCmd s ctx 1
      | .destroying => s
      | _ => destroyBegin s ctx)

/-- TEARDOWN_DONE (R237, R241, R342): when no operation runs, orphans are reported; once the device's own writes for the context are made every
slot is retired and the context is FREE. -/
def execTeardownDone (ctx : Nat) (s : State) : Host.Outcome State Fault Refusal :=
  .next (
    let c := s.getX ctx
    let active := s.benches.any fun b => b.2.active.any fun a => match a.cmd with | .op y _ => y = ctx | _ => false
    if c.st ≠ .destroying || (c.ops.any fun e => e.2.st = .running) || active then s
    else
      let s := (reportOrphans (dyingArrays s ctx) ctx).modX ctx fun c => { c with orphans := [] }
      if actsWait s ctx then s
      else
        let s := s.devWrite c.fn (c.recVa + 0x0A) [0]
        let s := { s with ctxs := sdel s.ctxs ctx }
        let s := if fnHasCtx s c.fn then s else drainConns s c.fn
        if s.cmd.busy && s.cmd.cmd ≠ 1 && s.cmd.ctx.toNat = ctx then { s with cmd := { s.cmd with busy := false } } else s)

end Sys2Proof.Machine
end

