-- ==== Sys2Proof/Machine/Link.lean ====
section
/-! DEFINITION. Machine/Link.lean: messages as bytes (R385), flits and link-layer replay (R383, R384), ports and training (R381,
R382), routes (R386), the scheduled optical mode (R396, R397) and the rings (R399-R401). -/

namespace Sys2Proof.Machine

/-! ## Messages and flits (R383, R385) -/

/-- The bytes of a message (R385). -/
def msgBytes (m : Msg) : List Byte :=
  leBytes 2 m.dst.toNat ++ [m.dvf, m.kind] ++ leBytes 2 m.src.toNat ++ [m.svf, m.epoch] ++ leBytes 2 m.cseq.toNat ++ leBytes 2 m.cack.toNat ++
  leBytes 2 m.payload.length ++ leBytes 2 m.flags.toNat ++ leBytes 8 m.va.toNat ++ leBytes 8 m.aux.toNat ++ m.payload

/-- The message that bytes hold; none where they are fewer than its header and LEN. -/
def msgOf (l : List Byte) : Option Msg :=
  let n := field l 0x0C 2
  if l.length < 32 + n || 4096 < n then none
  else some { dst := BitVec.ofNat 15 (field l 0 2), dvf := BitVec.ofNat 8 (field l 2 1), kind := BitVec.ofNat 8 (field l 3 1),
              src := BitVec.ofNat 15 (field l 4 2), svf := BitVec.ofNat 8 (field l 6 1), epoch := BitVec.ofNat 8 (field l 7 1),
              cseq := BitVec.ofNat 16 (field l 8 2), cack := BitVec.ofNat 16 (field l 0x0A 2), flags := BitVec.ofNat 16 (field l 0x0E 2),
              va := BitVec.ofNat 64 (field l 0x10 8), aux := BitVec.ofNat 64 (field l 0x18 8), payload := (l.drop 32).take n }

/-- Flits of a message (R385). -/
def msgFlits (m : Msg) : Nat := (32 + m.payload.length + 55) / 56

/-- Clocks of a message on an optical port (R396). -/
def msgClocks (m : Msg) : Nat := (3 * msgFlits m + 4) / 5

/-- The 64 bytes of a flit (R383): CTL, ACKSEQ, BODY, CRC-32C. -/
def flitBytes (type lseq ack : Nat) (body : List Byte) : List Byte :=
  let l := leBytes 2 (type % 16 * 4096 + lseq % 4096) ++ leBytes 2 (ack % 4096) ++ (body ++ List.replicate (56 - body.length) 0)
  l ++ leBytes 4 (crc32c l).toNat

/-- A flit, byte 0 in the lowest bits. -/
def mkFlit (type lseq ack : Nat) (body : List Byte) : BitVec 512 := BitVec.ofNat 512 (leNat (flitBytes type lseq ack body))

/-- The bytes of a flit. -/
def flitList (f : BitVec 512) : List Byte := leBytes 64 f.toNat

/-- TYPE of a flit. -/
def flitType (f : BitVec 512) : Nat := (f.extractLsb' 12 4).toNat
/-- LSEQ of a flit. -/
def flitSeq (f : BitVec 512) : BitVec 12 := f.extractLsb' 0 12
/-- ACKSEQ of a flit. -/
def flitAck (f : BitVec 512) : BitVec 12 := f.extractLsb' 16 12
/-- The CRC of a flit is correct, and its TYPE is one that R383 gives. -/
def flitOk (f : BitVec 512) : Bool :=
  let l := flitList f
  flitType f ≤ 6 && decide (crc32c (l.take 60) = BitVec.ofNat 32 (field l 60 4))

/-! ## A port (R382, R384) -/

/-- A port that carries flits. -/
def PortSt.carries : PortSt → Bool | .up | .degraded => true | _ => false

/-- A port that routes avoid: it is DOWN, or on its way from there (R386). -/
def PortSt.avoided : PortSt → Bool | .down | .training => true | _ => false

/-- Flits that a replay buffer holds (R384). -/
def replayRoom : Nat := 2048

/-- A data flit leaves, and is kept until it is acknowledged. -/
def Port.sendFlit (p : Port) (now type : Nat) (body : List Byte) : Port :=
  let f := mkFlit type p.nextSeq.toNat p.acked.toNat body
  { p with buffer := p.buffer ++ [(p.nextSeq, f)], nextSeq := p.nextSeq + 1, sent := p.sent ++ [f], lastAck := if p.buffer = [] then now else p.lastAck }

/-- A flit without data: 5 ack, 6 nak. -/
def Port.sendCtl (p : Port) (type : Nat) : Port := { p with sent := p.sent ++ [mkFlit type p.nextSeq.toNat p.acked.toNat []] }

/-- The bodies of a message with their TYPE codes. -/
def flitBodies (l : List Byte) : List (Nat × List Byte) :=
  let n := (l.length + 55) / 56
  (List.range n).map fun i => (if n = 1 then 3 else if i = 0 then 0 else if i + 1 = n then 2 else 1, (l.drop (56 * i)).take 56)

/-- A port takes a message when its replay buffer has room for all its flits. -/
def Port.takes (p : Port) (m : Msg) : Bool := p.st.carries && decide (p.buffer.length + msgFlits m ≤ replayRoom)

/-- A message leaves through a port. -/
def Port.sendMsg (p : Port) (now : Nat) (m : Msg) : Port := (flitBodies (msgBytes m)).foldl (fun p e => p.sendFlit now e.1 e.2) p

/-- The device's own position in its group (R381). -/
def myMember : Nat := Config.devId.toNat % 32
/-- The device's own group. -/
def myGroup : Nat := Config.devId.toNat / 32

/-- The member beyond torus port q (R381). -/
def neighbour (m q : Nat) : Nat :=
  let x := m % 4
  let y := m / 4
  match q with
  | 0 => (x + 1) % 4 + 4 * y
  | 1 => (x + 3) % 4 + 4 * y
  | 2 => x + 4 * ((y + 1) % 8)
  | _ => x + 4 * ((y + 7) % 8)

/-- The device that a torus port must reach (R381). -/
def peerGood (q : Nat) (peer : BitVec 15) : Bool := 4 ≤ q || decide (peer.toNat = 32 * myGroup + neighbour myMember q)

/-- Some ring of fibre f carries wavelength w. -/
def carried (s : State) (f w : Nat) : Bool := (List.range 18).any fun k => (s.ring f k).mode = 2 && (s.ring f k).wave.toNat = w

/-- The lanes or wavelengths of port q that fail a training (R382, R401). -/
def trainedBad (s : State) (q : Nat) (bad : BitVec 34) : BitVec 34 :=
  if q < 4 then bad
  else
    let g := q - 4
    BitVec.ofNat 34 ((List.range 16).map fun w => if bad.getLsbD w || !carried s (2 * g) w || !carried s (2 * g + 1) w then 2 ^ w else 0).sum

/-- Bits set among the first n. -/
def badCount (b : BitVec 34) (n : Nat) : Nat := ((List.range n).filter b.getLsbD).length

/-- The lanes or wavelengths in use after training: full width, half width, or none (R382). -/
def trainedWidth (q : Nat) (bad : BitVec 34) : Nat :=
  if q < 4 then (let good := 34 - badCount bad 34; if 32 ≤ good then 32 else if 16 ≤ good then 16 else 0)
  else (let good := 16 - badCount bad 16; if good = 16 then 16 else if 8 ≤ good then 8 else 0)

/-- Clocks that training may take (R382). -/
def trainBound (q : Nat) : Nat := if q < 4 then 240000 else 1200000

/-- A port goes DOWN: its replay buffer is discarded (R382). -/
def Port.goDown (p : Port) : Port := { p with st := .down, buffer := [], asm := [], width := 0, fruitless := 0 }

/-- Every unacknowledged flit is sent again, byte for byte (R384). -/
def Port.resend (p : Port) (now : Nat) : Port :=
  if p.buffer = [] then p
  else { p with sent := p.sent ++ p.buffer.map (·.2), replays := p.replays + 1, fruitless := p.fruitless + 1, lastAck := now }

/-- SIGNAL_DETECTED (R382): an enabled port that is DOWN begins to train. -/
def execSignalDetected (port : Nat) (s : State) : Host.Outcome State Fault Refusal :=
  .next (
    let p := s.port port
    if 28 ≤ port || p.st ≠ .down || !p.enable then s
    else s.modPort port fun p => { p with st := .training, since := s.now })

/-- TRAINING_END (R381, R382, R401): training or retraining ends, or its bound passes. -/
def execTrainingEnd (port : Nat) (r : TrainResult) (s : State) : Host.Outcome State Fault Refusal :=
  .next (
    let p := s.port port
    if p.st ≠ .training && p.st ≠ .retraining then s
    else if !r.inBound && s.now < p.since + trainBound port then s
    else
      let bad := trainedBad s port r.bad
      let w := trainedWidth port bad
      let ok := peerGood port r.peer
      s.modPort port fun p =>
        let p := { p with laneBad := bad, peer := if r.inBound then r.peer else p.peer, miscable := r.inBound && !ok }
        if !r.inBound || !ok || w = 0 then p.goDown
        else
          let st := if w = 32 || (4 ≤ port && w = 16) then PortSt.up else .degraded
          if p.st = .retraining then { (p.resend s.now) with st := st, width := BitVec.ofNat 6 w, fruitless := 0 }
          else { p with st := st, width := BitVec.ofNat 6 w, buffer := [], nextSeq := 0, expect := 0, acked := 0xFFF, asm := [], fruitless := 0,
                        lastAck := s.now })

/-- RETRAINING begins: sending stops, the replay buffer is kept (R382). -/
def retrainPort (s : State) (q : Nat) : State :=
  if (s.port q).st.carries then s.modPort q fun p => { p with st := .retraining, since := s.now, retrains := p.retrains + 1, fruitless := 0 } else s

/-- RETRAIN_TRIGGER (R382): 16 replays without progress, or loss of signal on a lane in use. -/
def execRetrainTrigger (port : Nat) (lossOfSignal : Bool) (s : State) : Host.Outcome State Fault Refusal :=
  .next (if lossOfSignal || 16 ≤ (s.port port).fruitless then retrainPort s port else s)

/-- RETRAIN (R382, R398). -/
def execRetrain (port : Nat) (s : State) : Host.Outcome State Fault Refusal := .next (retrainPort s port)

/-- PORT_ENABLE_WRITE (R382, R398). -/
def execPortEnableWrite (port : Nat) (on : Bool) (s : State) : Host.Outcome State Fault Refusal :=
  .next (if 28 ≤ port then s
    else if on then s.modPort port fun p => { p with enable := true }
    else s.modPort port fun p => { p.goDown with enable := false })

/-- ACKSEQ covers flits of the replay buffer (R384). -/
def Port.ackTo (p : Port) (now : Nat) (ack : BitVec 12) : Port :=
  match p.buffer with
  | [] => p
  | (q, _) :: _ =>
    let n := (ack - q).toNat + 1
    if n ≤ p.buffer.length then { p with buffer := p.buffer.drop n, lastAck := now, fruitless := 0 } else p

/-- NAK_RECEIVED (R384): what is not acknowledged is sent again. -/
def execNakReceived (port : Nat) (ackseq : BitVec 12) (s : State) : Host.Outcome State Fault Refusal :=
  .next (if (s.port port).st.carries then s.modPort port fun p => (p.ackTo s.now ackseq).resend s.now else s)

/-- REPLAY_TIMEOUT (R384): 2,048 clocks without progress of ACKSEQ. -/
def execReplayTimeout (port : Nat) (s : State) : Host.Outcome State Fault Refusal :=
  .next (
    let p := s.port port
    if p.st.carries && p.buffer ≠ [] && decide (p.lastAck + 2048 ≤ s.now) then s.modPort port fun p => p.resend s.now else s)

/-! ## Routes (R386) -/

/-- Where a message goes next: a port, the send queue of a group, or nowhere yet. -/
inductive Hop where
  | port (q : Nat)
  | queue (g : Nat)
  | none
  deriving DecidableEq, Repr

/-- One dimension of the torus: the ports by preference for a distance d of n, the shorter way first, a tie the + way. -/
def torusWays (plus minus d n : Nat) : List Nat := if d = 0 then [] else if 2 * d ≤ n then [plus, minus] else [minus, plus]

/-- The port toward a member of the group: X, then Y, each the shorter way; Y before X where both X ports are DOWN. -/
def torusHop (s : State) (member : Nat) : Hop :=
  let m := myMember
  let xs := torusWays 0 1 ((member % 4 + 4 - m % 4) % 4) 4
  let ys := torusWays 2 3 ((member / 4 + 8 - m / 4) % 8) 8
  match (xs ++ ys).find? fun q => !(s.port q).st.avoided with
  | some q => .port q
  | none => .none

/-- The port toward a member's optical port (R386, R398). -/
def globalHop (s : State) (member p : Nat) : Hop :=
  if member = myMember then (if (s.port (4 + p)).st.avoided then .none else .port (4 + p)) else torusHop s member

/-- The next hop of a message for a device (R386, R396). -/
def hopTo (s : State) (dst : BitVec 15) : Hop :=
  let g := dst.toNat / 32
  if g = myGroup then torusHop s (dst.toNat % 32)
  else if s.slots.activeSched then .queue g
  else
    let l := dcGet s (0x00501000 + 4 * g)
    let one := if l.getLsbD 31 then globalHop s (l.extractLsb' 26 5).toNat (l.extractLsb' 21 5).toNat else .none
    if one ≠ .none then one
    else if l.getLsbD 15 then globalHop s (l.extractLsb' 10 5).toNat (l.extractLsb' 5 5).toNat else .none

/-- Where the messages for one device wait for a route or for room (R386): the key of the queue. -/
def waitKey (dst : BitVec 15) : Nat := 4096 + dst.toNat

/-- Bytes of the send queues of the scheduled mode (R396). -/
def queuedBytes (s : State) : Nat := ((s.sendq.filter fun e => e.1 < 4096).map fun e => (e.2.map fun m => 32 + m.payload.length).sum).sum

/-- A message crosses a global hop (R385): its virtual channel is 1 from here on. -/
def crossedMsg (m : Msg) : Msg := { m with flags := m.flags ||| 2 }

/-- A message of this device has been sent: its retransmission clock starts (R388). -/
def noteSent (s : State) (m : Msg) : State :=
  if m.src ≠ Config.devId then s
  else { s with conns := s.conns.map fun c =>
    if c.fn = m.svf.toNat && c.peer = m.dst.toNat && c.epoch = m.epoch && (c.unacked.any fun u => u.cseq = m.cseq) then
      { c with sentAt := sput c.sentAt m.cseq.toNat s.now } else c }

/-- The head of a waiting queue goes to its next hop, where it can. -/
def advanceHead (s : State) (dst : BitVec 15) (m : Msg) : Option State :=
  match hopTo s dst with
  | .port q =>
    if (s.port q).takes m then
      let m := if 4 ≤ q then crossedMsg m else m
      some (noteSent (s.modPort q fun p => p.sendMsg s.now m) m)
    else none
  | .queue g => if queuedBytes s + 32 + m.payload.length ≤ 2 ^ 23 then some { s with sendq := sset [] s.sendq g (sget [] s.sendq g ++ [m]) } else none
  | .none => none

/-- The messages that wait for one device leave in order while they can; fuel bounds them. -/
def advanceQueue (key : Nat) : Nat → State → State
  | 0, s => s
  | n + 1, s =>
    match sget [] s.sendq key with
    | [] => s
    | m :: l => match advanceHead s m.dst m with
      | some s => advanceQueue key n { s with sendq := sset [] s.sendq key l }
      | none => s

/-- A message goes on its way (R386). -/
def emit (s : State) (m : Msg) : State :=
  let k := waitKey m.dst
  let l := sget [] s.sendq k ++ [m]
  advanceQueue k l.length (noteSent { s with sendq := sset [] s.sendq k l } m)

/-- Every waiting message that can leave does. -/
def advanceAll (s : State) : State :=
  (s.sendq.filter fun e => 4096 ≤ e.1).foldl (fun s e => advanceQueue e.1 e.2.length s) s

/-! ## The scheduled mode (R396, R397) -/

/-- The active slot. -/
def Slots.now_ (t : Slots) : Slot := sget Slot.reset t.active t.cur

/-- The ports of the current slot that serve a group, free ones first in number order. -/
def servingPort (s : State) (g : Nat) : Option Nat :=
  (List.range 24).find? fun p =>
    let d := s.slots.now_.dest.getD p 0
    d.getLsbD 15 && decide ((d.extractLsb' 0 15).toNat / 32 = g) && (s.port (4 + p)).st.carries && decide ((s.port (4 + p)).busy ≤ s.now)

/-- The head of queue g starts on a free port where it ends within the slot (R396). -/
def serveQueue (s : State) (g : Nat) : State :=
  match s.slots.slotStart, sget [] s.sendq g with
  | some t, m :: l =>
    (match servingPort s g with
     | some p =>
       if inGuard s || t + s.slots.now_.len.toNat < s.now + msgClocks m || !(s.port (4 + p)).takes m then s
       else
         let m := crossedMsg m
         noteSent ({ s with sendq := sset [] s.sendq g l }.modPort (4 + p) fun q => { (q.sendMsg s.now m) with busy := s.now + msgClocks m }) m
     | none => s)
  | _, _ => s

/-- In static mode GLINK governs (R397): what the queues of the groups still hold goes its way ahead of later messages. -/
def toStatic (s : State) : State :=
  if s.slots.activeSched then s
  else (s.sendq.filter fun e => e.1 < 4096).foldl (fun s e =>
    e.2.foldr (fun (m : Msg) (s : State) => { s with sendq := sset [] s.sendq (waitKey m.dst) (m :: sget [] s.sendq (waitKey m.dst)) })
      { s with sendq := sset [] s.sendq e.1 [] }) s

/-- Every queue's head that can start does. -/
def serveAll (s : State) : State :=
  if !s.slots.activeSched then s else (s.sendq.filter fun e => e.1 < 4096).foldl (fun s e => serveQueue s e.1) s

/-- Flits in flight on the optical ports are lost (R397). -/
def loseFlights (s : State) : State :=
  { s with ports := s.ports.map fun e =>
      if e.1 < 4 || e.2.busy ≤ s.now then e
      else (e.1, { e.2 with sent := e.2.sent.take (e.2.sent.length - (5 * (e.2.busy - s.now) + 2) / 3), busy := s.now }) }

/-- OSYNC_EDGE (R397): the current slot ends at once; a rotation starts SLOTOFS clocks later. -/
def execOsyncEdge (s : State) : Host.Outcome State Fault Refusal :=
  .next (
    let s := if s.slots.slotStart.isSome then loseFlights s else s
    { s with slots := { s.slots with synced := true, rot := 0, slotStart := none, cur := 0, next := some (s.now + s.slots.ofs.toNat) } })

/-- A rotation starts: a committed table and SCHED take effect (R397). -/
def startRotation (t : Slots) (now : Nat) : Slots :=
  let t := if t.commit then { t with active := t.staged, activeN := t.nslot, commit := false } else t
  { t with activeSched := t.sched, cur := 0, slotStart := some now, next := none }

/-- SLOT_START (R397): the rotation that an edge announced, the next slot, or the next rotation. -/
def execSlotStart (s : State) : Host.Outcome State Fault Refusal :=
  .next (
    let t := s.slots
    match t.next, t.slotStart with
    | some n, _ => if n ≤ s.now then { s with slots := startRotation t s.now } else s
    | none, some b =>
      if s.now < b + t.now_.len.toNat then s
      else if t.cur + 1 < t.activeN then { s with slots := { t with cur := t.cur + 1, slotStart := some s.now } }
      else { s with slots := { startRotation t s.now with rot := t.rot + 1 } }
    | none, none => s)

/-- COMMIT (R397). -/
def execSlotCommit (s : State) : Host.Outcome State Fault Refusal := .next { s with slots := { s.slots with commit := true } }

/-! ## Rings (R399-R401) -/

/-- Changing ring k of fibre f. -/
def State.modRing (s : State) (f k : Nat) (g : Ring → Ring) : State := { s with rings := sput s.rings (ringKey f k) (g (s.ring f k)) }

/-- RING_HEAT_WRITE (R400). -/
def execRingHeatWrite (fibre ring : Nat) (val : BitVec 32) (s : State) : Host.Outcome State Fault Refusal :=
  .next (if 48 ≤ fibre || 18 ≤ ring then s
    else s.modRing fibre ring fun g => { g with dac := val.extractLsb' 0 12, settled := false, valid := false, since := s.now })

/-- Clocks from a RING_HEAT write until the ring has settled (R400). -/
def settleClocks : Nat := 12000

/-- RING_SETTLED (R400): 12,000 clocks after the write the ring has settled, and 1,024 clocks later a sample has been taken; later samples follow. -/
def execRingSettled (fibre ring : Nat) (adc : BitVec 12) (s : State) : Host.Outcome State Fault Refusal :=
  .next (
    let g := s.ring fibre ring
    if 48 ≤ fibre || 18 ≤ ring then s
    else if !g.settled then (if g.since + settleClocks ≤ s.now then s.modRing fibre ring fun g => { g with settled := true } else s)
    else if g.since ≠ 0 && decide (g.since + settleClocks + 1024 ≤ s.now) then s.modRing fibre ring fun g => { g with valid := true, adc := adc, since := s.now - settleClocks }
    else s)

/-- RING_MAP_WRITE (R400, R401): the wavelength's lane moves to the ring at once; any other ring that carried it probes. -/
def execRingMapWrite (fibre ring : Nat) (val : BitVec 32) (s : State) : Host.Outcome State Fault Refusal :=
  .next (
    let mode : BitVec 2 := if val.extractLsb' 4 2 = (3 : BitVec 2) then 0 else val.extractLsb' 4 2
    let w : BitVec 4 := val.extractLsb' 0 4
    let g := s.ring fibre ring
    if 48 ≤ fibre || 18 ≤ ring || (g.mode = mode && g.wave = w) then s
    else
      let s := if mode = 2 then (List.range 18).foldl (fun (s : State) k =>
          if k ≠ ring && (s.ring fibre k).mode = 2 && (s.ring fibre k).wave = w then s.modRing fibre k fun r => { r with mode := 1, carry := false } else s) s
        else s
      s.modRing fibre ring fun r => { r with mode := mode, wave := w, carry := mode = 2 })

/-- A flit of an optical port failed its check: the rings that carry its lanes count it (R400). -/
def countRings (s : State) (q : Nat) : State :=
  if q < 4 then s
  else (List.range 18).foldl (fun (s : State) k =>
    if (s.ring (2 * (q - 4) + 1) k).mode = 2 then s.modRing (2 * (q - 4) + 1) k fun r => { r with err := r.err + 1 } else s) s

end Sys2Proof.Machine
end

