-- ==== Sys2Proof/Machine/Conn.lean ====
section
/-! DEFINITION. Machine/Conn.lean: connections (R388-R391), the delivery of messages (R385), fabric accesses at their target and
their replies (R172, R173, R192, R387), and connection control (R389, R461). -/

namespace Sys2Proof.Machine

/-! ## Parts -/

/-- A connection that does not exist yet: CLOSED with epoch 0 (R389). -/
def Conn.fresh (fn peer : Nat) : Conn :=
  { fn := fn, peer := peer, st := .openSt, closed := true, epoch := 0, svf := 0, snxt := 0, unacked := [], waiting := [], sentAt := [],
    retries := 0, lastUsed := 0, since := 0, idleDrain := false, afterReset := false }

/-- The connection between a function and a peer device. -/
def State.conn (s : State) (fn peer : Nat) : Conn := (s.conns.find? fun c => c.fn = fn && c.peer = peer).getD (Conn.fresh fn peer)

/-- Changing a connection, which comes to exist where it did not. -/
def State.modConn (s : State) (fn peer : Nat) (f : Conn → Conn) : State :=
  if s.conns.any fun c => c.fn = fn && c.peer = peer then
    { s with conns := s.conns.map fun c => if c.fn = fn && c.peer = peer then f c else c }
  else { s with conns := s.conns ++ [f (Conn.fresh fn peer)] }

/-- A connection's record is on die (R388). -/
def Conn.onDie (c : Conn) : Bool := !c.closed && c.st ≠ .spilled

/-- On-die records in use (R388, R398). -/
def onDie (s : State) : Nat := (s.conns.filter Conn.onDie).length

/-- On-die records that the engine holds (R388). -/
def onDieMax : Nat := 1024

/-- What is kept of the messages from a peer's function. -/
def State.recv? (s : State) (src : BitVec 15) (svf : Byte) : Option Recv := s.recvs.find? fun r => r.src = src && r.svf = svf

/-- Changing it. -/
def State.modRecv (s : State) (src : BitVec 15) (svf : Byte) (f : Recv → Recv) : State :=
  { s with recvs := s.recvs.map fun r => if r.src = src && r.svf = svf then f r else r }

/-- The last CSEQ of a stream that is acknowledged: collective messages that no collective has taken in hold it back (R450). -/
def cackOf (s : State) (r : Recv) : BitVec 16 :=
  let held := (s.collHeld.filter fun m => m.src = r.src && m.svf = r.svf).map fun m => (r.rnxt - m.cseq).toNat
  r.rnxt - 1 - BitVec.ofNat 16 (held.foldl max 0)

/-- A message carries the acknowledgement that is owed to its target (R385, R451). -/
def stampAck (s : State) (m : Msg) : State × Msg :=
  match s.recv? m.dst m.dvf with
  | none => (s, { m with cack := 0xFFFF })
  | some r => (s.modRecv m.dst m.dvf fun r => { r with acked := cackOf s r, owed := false }, { m with cack := cackOf s r })

/-- A message takes its way. -/
def emitStamped (s : State) (m : Msg) : State := let r := stampAck s m; emit r.1 r.2

/-- Connection-control messages outside the sequence (DESIGN CHOICE, assumption 17): 1 OPEN, 2 ACCEPT, 4 RESET, 5 refusal of an
OPEN; an acknowledgement has no payload (R451). -/
def control (s : State) (fn peer : Nat) (svf epoch : Byte) (payload : List Byte) : State :=
  emitStamped s { dst := BitVec.ofNat 15 peer, dvf := svf, kind := 8, src := Config.devId, svf := BitVec.ofNat 8 fn, epoch := epoch, cseq := 0,
                  cack := 0, flags := 0, va := 0, aux := 0, payload := payload }

/-- REPLAYABLE (R385). -/
def replayableMsg (m : Msg) : Bool := m.flags.getLsbD 0

/-! ## Tables and the words that wait (R305, R394, R172) -/

/-- A READY table becomes DEGRADED (R305): its collectives fail with a code, its barriers break (R316, R394). -/
def degradePg (s : State) (x : Nat) (id : W32) (code : Byte) : State :=
  match (s.getX x).pg? id with
  | some t =>
    if t.st ≠ .ready then s
    else breakTable ((failTable s x id code).modPg x id fun t => { t with st := .degraded }) x id
  | none => s

/-- The tables of a function's contexts that have a device as a member. -/
def tablesWith (s : State) (fn peer : Nat) : List (Nat × W32) :=
  (s.ctxs.filter fun e => e.2.st ≠ .free && e.2.fn = fn).flatMap fun e =>
    (e.2.pgs.filter fun t => t.2.members.any fun m => m.1.toNat = peer).map fun t => (e.1, t.1)

/-- The core whose A word a tag names (assumption 12). -/
def tagCore (tag : W64) : Nat := tag.toNat % 512

/-- The result of A that awaits the reply with a tag. -/
def Core.awaits (c : Core) (tag : W64) : Option InFlight := c.flight.find? fun f => f.fab = some tag

/-- A fabric access has been answered: it is no longer kept. -/
def dropRequest (s : State) (tag : W64) : State := { s with fabOut := s.fabOut.filter fun m => m.aux ≠ tag }

/-- A reply completes its word (R154, R155, R172). -/
def answerWord (s : State) (tag : W64) (l : List Byte) : State :=
  let s := dropRequest s tag
  let k := tagCore tag
  let c := s.getC k
  if (c.awaits tag).isNone then s
  else
    let fill (f : InFlight) : InFlight :=
      if f.fab ≠ some tag then f else { f with fab := none, asked := none, due := some s.now, val := accessVal f l }
    s.putC k { c with flight := c.flight.map fill }

/-- A fabric access fails: its word is A's halting fault, taken once every earlier word has passed its checks (R165, R172). An atomic
forwarded to the source of a migration that cannot be reached fails with PAGE_MOVED (R357). -/
def failWord (s : State) (tag va : W64) (code : Byte) : State :=
  let code := if forwarded tag && (code = cLINK || code = cCONN || code = cREFUSED) then cMOVED else code
  let s := dropRequest s tag
  let k := tagCore tag
  let c := s.getC k
  match c.awaits tag with
  | none => s
  | some f =>
    let info : StopInfo := { stopCode code with addr := va }
    if c.aFlight.any fun g => decide (g.seq < f.seq) && g.unpassed then
      s.putC k { c with flight := c.flight.map fun g => if g.fab = some tag then { g with fab := none, asked := none, acc := some (.failed info) } else g }
    else faultFlight s k f info

/-- A withdrawn acquire is abandoned (R175, R192): its word will start again, its tokens return. -/
def abandonWord (s : State) (tag : W64) : State :=
  let s := dropRequest s tag
  let k := tagCore tag
  let c := s.getC k
  match c.awaits tag with
  | none => s
  | some f =>
    s.putC k (abandonFrom c { f with loops := c.a.loops })

/-! ## Failing messages (R389, R394) -/

/-- A page that cannot be pulled: its accesses fail with PAGE_MOVED (R343, R357). -/
def failPull (s : State) (fn : Nat) (va : W64) : State := failPage { s with pulled := s.pulled.filter fun e => e ≠ (fn, va) } fn va cMOVED

/-- A message fails: what waited for it fails with the code. -/
def failMsg (s : State) (m : Msg) (code : Byte) : State :=
  let fn := m.svf.toNat
  match m.kind.toNat with
  | 0 | 2 | 4 => if m.payload.headD 0 = 12 && m.kind = 4 then s else failWord s m.aux m.va code
  | 6 | 13 => (match collByKey s fn m.aux with | some (x, slot, _) => failColl s x slot code | none => s)
  | 7 => if m.payload.headD 0 = 2 || m.payload.headD 0 = 3 then lostArrive s (field m.payload 4 4) else s
  | 9 => failDelivered s fn m.aux
  | 12 => if m.payload.headD 0 = 5 then failPull s fn m.va else s.post (.migrationAbort fn)
  | _ => s

/-! ## The states of a connection (R389) -/

/-- Why a connection could not be opened. -/
def openCode (s : State) (peer : Nat) : Byte := if hopTo s (BitVec.ofNat 15 peer) = .none then cLINK else cREFUSED

/-- A connection opens: its epoch rises, an OPEN request goes out. -/
def openConn (s : State) (fn peer : Nat) (epoch : Byte) : State :=
  let s := s.modConn fn peer fun c => { c with st := .opening, closed := false, epoch := epoch, snxt := 0, since := s.now, retries := 0,
                                                svf := match c.waiting with | m :: _ => m.dvf | [] => c.svf }
  control s fn peer (s.conn fn peer).svf epoch [1, epoch]

/-- OPENING ends CLOSED: waiting messages fail (R389). -/
def closeOpening (s : State) (fn peer : Nat) : State :=
  let c := s.conn fn peer
  let code := openCode s peer
  let s := s.modConn fn peer fun c => { c with st := .openSt, closed := true, waiting := [], unacked := [], sentAt := [], afterReset := false }
  c.waiting.foldl (fun s m => failMsg s m (if c.afterReset && replayableMsg m then cCONN else code)) s

/-- A connection resets (R389): outstanding messages fail but for REPLAYABLE ones, tables with the peer degrade (R305, R394), arrivals that
await its reply are lost (R322), deliveries of collectives that had not completed are not sent again (R440), pulled pages fail and a migration to or from the peer ends (R357). -/
def resetConn (s : State) (fn peer : Nat) : State :=
  let c := s.conn fn peer
  let kept (l : List Msg) : List Msg := l.filter fun m => !undelivered s fn m
  let s := s.modConn fn peer fun c =>
    { c with st := .reset, epoch := c.epoch + 1, since := s.now, unacked := (kept c.unacked).filter replayableMsg, waiting := kept c.waiting, sentAt := [], retries := 0, idleDrain := false }
  let s := (c.unacked.filter fun m => !replayableMsg m).foldl (fun s m => failMsg s m cCONN) s
  let s := lostArrivals ((tablesWith s fn peer).foldl (fun s e => degradePg s e.1 e.2 cCONN) s) fn peer
  let pulls := s.pulled.filter fun e => e.1 = fn && match walk s fn e.2 with | .leaf _ l => eState l = sREMOTE && (remoteOwner l).1 = peer | .bad _ => false
  let s := pulls.foldl (fun s e => failPull s fn e.2) s
  if s.ctxs.any fun e => e.2.fn = fn && e.2.st = .migratingOut && (e.2.migr.any fun m => m.1.toNat = peer) then s.post (.migrationAbort fn) else s

/-- Bytes of the retransmit store in use (R388). -/
def storedBytes (s : State) : Nat := (s.conns.map fun c => (c.unacked.map fun m => 32 + m.payload.length).sum).sum

/-- The oldest waiting messages of an OPEN connection are sent while fewer than 256 are unacknowledged and the store has room
(R388); fuel bounds them. -/
def sendWaiting (fn peer : Nat) : Nat → State → State
  | 0, s => s
  | n + 1, s =>
    let c := s.conn fn peer
    match c.waiting with
    | [] => s
    | m :: l =>
      if 256 ≤ c.unacked.length || 2 ^ 24 < storedBytes s + 32 + m.payload.length then s
      else
        let m := { m with epoch := c.epoch, cseq := c.snxt }
        let r := stampAck s m
        let s := r.1.modConn fn peer fun c =>
          { c with waiting := l, unacked := c.unacked ++ [r.2], snxt := c.snxt + 1, svf := m.dvf, lastUsed := s.now, sentAt := sput c.sentAt m.cseq.toNat s.now }
        sendWaiting fn peer n (emit s r.2)

/-- The spill record of a peer lies at this PA (R391, R398). -/
def spillPa (s : State) (fn peer : Nat) : Nat := (dcGet64 s (0x00502100 + 8 * fnIdx fn)).toNat + 32 * peer

/-- A spilled record is read back (R389, R391). -/
def readBack (s : State) (fn peer : Nat) : State :=
  let l := s.mem.bytes (spillPa s fn peer) 32
  s.modConn fn peer fun c => { c with st := .openSt, epoch := BitVec.ofNat 8 (field l 3 1), snxt := BitVec.ofNat 16 (field l 4 2), lastUsed := s.now }

/-- What a connection with waiting messages does next (R389). -/
def driveConn (s : State) (fn peer : Nat) : State :=
  let c := s.conn fn peer
  if c.waiting = [] then s
  else if c.closed then
    (if onDie s < onDieMax then openConn s fn peer (c.epoch + 1) else s)
  else match c.st with
    | .openSt => sendWaiting fn peer c.waiting.length s
    | .spilled => if onDie s < onDieMax then sendWaiting fn peer c.waiting.length (readBack s fn peer) else s
    | .draining => if c.idleDrain then sendWaiting fn peer c.waiting.length (s.modConn fn peer fun c => { c with st := .openSt }) else s
    | _ => s

/-- The event of a message that has arrived (R385). -/
def msgEvent (m : Msg) : Option Ev :=
  match m.kind.toNat with
  | 0 => some (.msgLoad m)
  | 1 => some (.msgLoadReply m)
  | 2 => some (.msgStore m)
  | 3 => some (.msgStoreAck m)
  | 4 => some (.msgAtomic m)
  | 5 => some (.msgAtomicReply m)
  | 6 => some (if m.va = parkVa then .parkNotice m else if m.va = resumeVa then .resumeNotice m else .msgCollective m)
  | 7 => some (.msgBarrier m)
  | 8 => some (.msgConnectionControl m)
  | 9 => some (.msgShardDelivery m)
  | 10 => some (.msgMoved m)
  | 11 => some (.msgRefusal m)
  | 12 => some (.msgContextTransfer m)
  | 13 => some (.msgAbort m)
  | _ => none

/-- A message from the device's own agents: to this device it loops back (R172); to a group beyond 768 it fails (R21); otherwise
it waits at its connection. -/
def takeOut (s : State) (m : Msg) : State :=
  if m.dst = Config.devId then (match msgEvent m with | some e => s.post e | none => s)
  else if 768 < m.dst.toNat / 32 then failMsg s m cREFUSED
  else s.modConn m.svf.toNat m.dst.toNat fun c => { c with waiting := c.waiting ++ [m] }

/-- An acknowledgement is owed to a peer's function and no message takes it there (R451). -/
def ackPeer (s : State) (r : Recv) : State :=
  if !r.owed && r.acked = cackOf s r then s
  else control s r.dvf.toNat r.src.toNat r.svf r.epoch []

/-- The connection engine and the ports do what they can at once: messages of the agents, connections, acknowledgements, queues. -/
def pump (s : State) : State :=
  let out := s.outbox
  let s := out.foldl takeOut { s with outbox := [] }
  let s := s.conns.foldl (fun s c => driveConn s c.fn c.peer) s
  let s := s.recvs.foldl ackPeer s
  serveAll (advanceAll (toStatic s))

/-! ## Timeouts (R388, R389, R391) -/

/-- CONNOPEN_TIMEOUT (R389). -/
def execConnopenTimeout (fn peer : Nat) (s : State) : Host.Outcome State Fault Refusal :=
  .next (
    let c := s.conn fn peer
    if c.closed || c.st ≠ .opening || s.now < c.since + (dcGet s 0x00502000).toNat then s else closeOpening s fn peer)

/-- The oldest unacknowledged message still waits in a send queue of the scheduled mode: it has not been sent (R388, R396). -/
def oldestQueued (s : State) (c : Conn) : Bool :=
  match c.unacked with
  | [] => false
  | m :: _ => s.sendq.any fun e => e.1 < 4096 && e.2.any fun q => q.src = m.src && q.dst = m.dst && q.svf = m.svf && q.cseq = m.cseq && q.epoch = m.epoch

/-- A copy of the message waits for its way already. -/
def stillWaits (s : State) (m : Msg) : Bool := s.sendq.any fun e => e.2.any fun q => q.src = m.src && q.dst = m.dst && q.svf = m.svf && q.cseq = m.cseq && q.epoch = m.epoch

/-- RETRANSMISSION (R388, R389): CONNRTO clocks after the oldest unacknowledged message was last sent, every one is sent again from
its stored copy; after CONNRETRY times without progress the connection resets. -/
def execRetransmission (fn peer : Nat) (s : State) : Host.Outcome State Fault Refusal :=
  .next (
    let c := s.conn fn peer
    match c.unacked with
    | [] => s
    | m :: _ =>
      if c.closed || !(c.st = .openSt || c.st = .draining) || oldestQueued s c || s.now < sget 0 c.sentAt m.cseq.toNat + (dcGet s 0x00502004).toNat then s
      else if max 1 (dcGet s 0x00502008).toNat ≤ c.retries then control (resetConn s fn peer) fn peer c.svf c.epoch [4, c.epoch]
      else
        let s := s.modConn fn peer fun c => { c with retries := c.retries + 1, sentAt := c.unacked.foldl (fun t m => sput t m.cseq.toNat s.now) c.sentAt }
        c.unacked.foldl (fun s m => if stillWaits s m then s else emit s m) s)

/-- CONNIDLE_TIMEOUT (R389). -/
def execConnidleTimeout (fn peer : Nat) (s : State) : Host.Outcome State Fault Refusal :=
  .next (
    let c := s.conn fn peer
    if c.closed || c.st ≠ .openSt || c.waiting ≠ [] || s.now < c.lastUsed + (dcGet s 0x0050200C).toNat then s
    else s.modConn fn peer fun c => { c with st := .draining, idleDrain := true })

/-- CONNBACKOFF_EXPIRY (R389): REPLAYABLE messages are queued first, with new CSEQ values. -/
def execConnbackoffExpiry (fn peer : Nat) (s : State) : Host.Outcome State Fault Refusal :=
  .next (
    let c := s.conn fn peer
    if c.closed || c.st ≠ .reset || s.now < c.since + (dcGet s 0x00502010).toNat then s
    else openConn (s.modConn fn peer fun c => { c with waiting := c.unacked ++ c.waiting, unacked := [], sentAt := [], afterReset := true }) fn peer c.epoch)

/-- CONNECTION_DRAINED (R389). -/
def execConnectionDrained (fn peer : Nat) (s : State) : Host.Outcome State Fault Refusal :=
  .next (
    let c := s.conn fn peer
    if c.closed || c.st ≠ .draining || c.unacked ≠ [] then s else s.modConn fn peer fun c => { c with st := .openSt, closed := true, sentAt := [], retries := 0 })

/-- A record may be spilled: OPEN, nothing unacknowledged or waiting, a spill table (R389, R398). -/
def Conn.spillable (s : State) (c : Conn) : Bool :=
  !c.closed && c.st = .openSt && c.unacked = [] && c.waiting = [] && dcGet64 s (0x00502100 + 8 * fnIdx c.fn) ≠ 0

/-- A connection waits for an on-die record. -/
def wantsRecord (s : State) : Bool := decide (onDieMax ≤ onDie s) && s.conns.any fun c => c.waiting ≠ [] && !c.onDie

/-- The spill record (R391). -/
def spillBytes (s : State) (c : Conn) : List Byte :=
  let rnxt := match s.recv? (BitVec.ofNat 15 c.peer) c.svf with | some r => r.rnxt.toNat | none => 0
  leBytes 2 c.peer ++ [3, c.epoch] ++ leBytes 2 c.snxt.toNat ++ leBytes 2 rnxt ++ List.replicate 24 0

/-- CONNECTION_SPILL (R389, R391): the least recently used record that may be spilled makes room. -/
def execConnectionSpill (fn peer : Nat) (s : State) : Host.Outcome State Fault Refusal :=
  .next (
    let c := s.conn fn peer
    let older := s.conns.any fun d => Conn.spillable s d && decide (d.lastUsed < c.lastUsed)
    if !wantsRecord s || !Conn.spillable s c || older then s
    else (s.paStore (spillPa s fn peer) (spillBytes s c)).modConn fn peer fun c => { c with st := .spilled })

/-! ## Messages that arrive (R385, R388) -/

/-- CACK covers messages (R388). -/
def coverTo (s : State) (fn peer : Nat) (cack : BitVec 16) : State :=
  match (s.conn fn peer).unacked with
  | [] => s
  | m :: _ =>
    let n := (cack - m.cseq).toNat + 1
    if n ≤ (s.conn fn peer).unacked.length then
      s.modConn fn peer fun c =>
        { c with unacked := c.unacked.drop n, retries := 0, sentAt := (c.unacked.take n).foldl (fun t m => sdel t m.cseq.toNat) c.sentAt }
    else s

/-- A message outside the sequence (assumption 17). -/
def outOfSequence (m : Msg) : Bool := m.kind = 8 && (m.payload = [] || (m.payload.length = 2 && decide ((m.payload.headD 0).toNat ≤ 5)))

/-- A message for this device arrives (R388). -/
def acceptMsg (s : State) (m : Msg) : State :=
  if outOfSequence m then s.post (.msgConnectionControl m)
  else match s.recv? m.src m.svf with
    | none => s
    | some r =>
      if r.epoch ≠ m.epoch then s
      else
        let s := coverTo s m.dvf.toNat m.src.toNat m.cack
        let s := if (s.conn m.dvf.toNat m.src.toNat).closed then s else s.modConn m.dvf.toNat m.src.toNat fun c => { c with lastUsed := s.now }
        if m.cseq = r.rnxt then
          let s := s.modRecv m.src m.svf fun r => { r with rnxt := r.rnxt + 1, dvf := m.dvf, owed := true }
          (match msgEvent m with | some e => s.post e | none => s)
        else if 2 ^ 15 ≤ (m.cseq - r.rnxt).toNat then s.modRecv m.src m.svf fun r => { r with owed := true }
        else s

/-- A whole message has crossed port q (R385, R386). -/
def arriveMsg (s : State) (q : Nat) (l : List Byte) : State :=
  match msgOf l with
  | none => s
  | some m =>
    if m.dst ≠ Config.devId then emit s m
    else if 13 < m.kind.toNat then s.modPort q fun p => { p with crcs := p.crcs + 1 }
    else acceptMsg s m

/-- A data flit is accepted: its bytes join the message, and it is acknowledged. -/
def takeFlit (s : State) (q : Nat) (f : BitVec 512) : State :=
  let body := (flitList f).drop 4 |>.take 56
  let asm := if flitType f = 0 || flitType f = 3 then body else (s.port q).asm ++ body
  let whole := flitType f = 2 || flitType f = 3
  let s := s.modPort q fun p => { p with expect := p.expect + 1, acked := flitSeq f, asm := if whole then [] else asm }.sendCtl 5
  if whole then arriveMsg s q asm else s

/-- FLIT_RECEIVED (R383, R384). -/
def execFlitReceived (port : Nat) (flit : BitVec 512) (s : State) : Host.Outcome State Fault Refusal :=
  .next (
    if 28 ≤ port || !(s.port port).st.carries then s
    else if !flitOk flit then countRings (s.modPort port fun p => { p with crcs := p.crcs + 1 }.sendCtl 6) port
    else
      let s := s.modPort port fun p => p.ackTo s.now (flitAck flit)
      if flitType flit = 6 then s.post (.nakReceived port (flitAck flit))
      else if 4 ≤ flitType flit then s
      else if flitSeq flit ≠ (s.port port).expect then s.modPort port fun p => p.sendCtl 6
      else takeFlit s port flit)

/-! ## Fabric accesses at their target (R172, R354-R356, R362) -/

/-- Fabric accesses that wait for a page do so in a buffer of their own (assumption 15). -/
def fabCore : Nat := 388
/-- The context that stands for them there. -/
def fabCtx : Nat := 8192
/-- The entry of a message. -/
def msgKey (m : Msg) : Nat := ((m.src.toNat * 256 + m.svf.toNat) * 65536 + m.cseq.toNat) * 2 ^ 64 + m.aux.toNat

/-- An answer to a request. -/
def replyMsg (s : State) (m : Msg) (kind : Nat) (l : List Byte) : State := s.send m.dvf.toNat m.src.toNat m.svf.toNat kind m.va m.aux l

/-- A request is done with: it waits for nothing. -/
def endRequest (s : State) (m : Msg) : State := { dropOpEntry s fabCtx (msgKey m) with fabWait := s.fabWait.filter fun w => w ≠ m }

/-- A refusal (KIND 11) carries the code that the access fails with. -/
def refuseMsg (s : State) (m : Msg) (code : Byte) : State := replyMsg (endRequest s m) m 11 [code]

/-- MOVED (KIND 10) carries the new pair, the KIND and the payload of what it answers. -/
def movedMsg (s : State) (m : Msg) (dev fn : Nat) : State :=
  replyMsg (endRequest s m) m 10 (leBytes 2 dev ++ [BitVec.ofNat 8 fn, m.kind] ++ m.payload)

/-- Where a function has gone, while its tombstone stands (R356). -/
def tombOf (s : State) (fn : Nat) : Option (Nat × Nat) := (s.tombstones.find? fun t => t.1 = fn).map fun t => (t.2.1.toNat, t.2.2.1)

/-- Where the barriers of a function are once its execution state has left (R317, R356). -/
def movedAway (s : State) (fn : Nat) : Option (Nat × Nat) :=
  match tombOf s fn with
  | some t => some t
  | none => (s.ctxs.find? fun e => e.2.fn = fn && e.2.st = .migratingOut && e.2.moved).bind fun e => e.2.migr.map fun m => (m.1.toNat, m.2)

/-- An arrival of a member reaches the home (R313, R315, R322). It is performed among the requests of its clock, in their order; after a
hand-over it is answered MOVED (R317). -/
def fabArrive (s : State) (m : Msg) (isLeave : Bool) : State :=
  let fn := m.dvf.toNat
  let id : W32 := m.aux.setWidth 32
  let b := field m.payload 8 4
  let answer (s : State) (code : Byte) (w : W32) : State :=
    s.send fn m.src.toNat m.svf.toNat 7 m.va (id.setWidth 64) (barPayload 4 code 0 w (BitVec.ofNat 32 (field m.payload 4 4)))
  if !s.fabWait.contains m then { s with fabWait := s.fabWait ++ [m] }
  else
    let s := { s with fabWait := s.fabWait.filter fun w => w ≠ m }
    match (barHome s fn b id).bind fun x => homeEvent s x b isLeave with
    | some (s, w) => answer s 0 w
    | none => answer s cRANGE 0

/-- The reply to an arrival reaches the core that sent it (R322). -/
def arrivalReply (s : State) (m : Msg) : State :=
  let k := field m.payload 8 4
  match (s.getC k).req with
  | .applied q =>
    if (q.op = .barrive || q.op = .barleave) && s.coreFn (s.getC k) = m.dvf.toNat && q.b = m.va then
      (if m.payload.getD 1 0 = 0 then replyTo s k (BitVec.ofNat 64 (field m.payload 4 4)) else failTo s k (m.payload.getD 1 0) 0)
    else s
  | _ => s

/-- A barrier message (KIND 7) for a function of this device. -/
def execMsgBarrier (m : Msg) (s : State) : Host.Outcome State Fault Refusal :=
  .next (
    let fn := m.dvf.toNat
    let id : W32 := m.aux.setWidth 32
    let epoch : Byte := m.payload.getD 1 0
    let gen : BitVec 16 := BitVec.ofNat 16 (field m.payload 2 2)
    let a : W32 := BitVec.ofNat 32 (field m.payload 4 4)
    let b := field m.payload 8 4
    let code := (m.payload.headD 0xFF).toNat
    let mirrors (u : BarUpdate) : State := (s.tableContexts fn id 0xFFFF).foldl (fun s y => s.post (.barrierMulticast y b u)) s
    match movedAway s fn with
    | some (dev, tfn) => if code = 4 then arrivalReply s m else movedMsg s m dev tfn
    | none =>
      match code with
      | 0 => mirrors (.setup a id m.src epoch gen)
      | 1 => mirrors (.complete epoch gen)
      | 2 | 3 => fabArrive s m (code = 3)
      | 4 => arrivalReply s m
      | 5 => messageBreak s fn id epoch gen (a.setWidth 8) b
      | _ => s)

/-- An earlier access of the same stream waits here: the accesses of one A stream are performed at their target in program order (R170). -/
def waitsBehind (s : State) (m : Msg) : Bool :=
  (s.fabWait.takeWhile (· ≠ m)).any fun w => w.src = m.src && w.svf = m.svf && tagCore w.aux = tagCore m.aux

/-- The requester is the target that a function migrates to, so that its atomics are the function's own (R354). -/
def ownForward (s : State) (m : Msg) : Bool :=
  s.ctxs.any fun e => e.2.fn = m.dvf.toNat && e.2.st = .migratingOut && e.2.migr = some (m.src, m.svf.toNat)

/-- What an access by a peer meets: an answer that it was sent away, a wait, or the bytes; an access to a page that has been handed over is
answered MOVED (R355). -/
def fabAccess (s : State) (m : Msg) (p : Perm) (n : Nat) (k : State → List Byte → State) : State :=
  let fn := m.dvf.toNat
  match tombOf s fn with
  | some (dev, tfn) => movedMsg s m dev tfn
  | none =>
    if !fnHasCtx s fn then refuseMsg s m cREFUSED
    else if waitsBehind s m then (if s.fabWait.contains m then s else { s with fabWait := s.fabWait ++ [m] })
    else match opEntry s fabCore fabCtx (msgKey m) with
      | some f => (match f.failed with | some c => refuseMsg s m c | none => s)
      | none =>
        if n = 0 || vaBad m.va then refuseMsg s m cUNMAPPED
        else match (if p = .rd || m.kind = 4 then readFrom else checkFrom) s .device fn p (!ownForward s m) (n / 65536 + 2) m.va n with
          | .bad c _ => refuseMsg s m c
          | .ok l => k (endRequest s m) l
          | .wait a =>
            match walk s fn a with
            | .leaf _ e =>
              if eState e = sREMOTE then movedMsg s m (remoteOwner e).1 (remoteOwner e).2
              else
                let s := enterFault s fabCore .A (some (fabCtx, msgKey m)) fn a (p ≠ .rd)
                if s.fabWait.contains m then s else { s with fabWait := s.fabWait ++ [m] }
            | .bad _ => s

/-- A write by a peer, after the same checks. -/
def fabWrite (s : State) (m : Msg) (l : List Byte) : State :=
  let fn := m.dvf.toNat
  match writePerm s .device fn .wr (!ownForward s m) m.va l with
  | .ok s' =>
    let s' := match paOf s fn m.va with | some pa => if s.lockQ = [] then s' else lockCheck s' pa l.length | none => s'
    countLines s' fn m.va l.length
  | _ => s

/-- LOAD (R172). -/
def execMsgLoad (m : Msg) (s : State) : Host.Outcome State Fault Refusal :=
  .next (fabAccess s m .rd (field m.payload 0 2) fun s l => replyMsg (countLines s m.dvf.toNat m.va l.length) m 1 l)

/-- STORE (R172, R388): acknowledged once it is performed. -/
def execMsgStore (m : Msg) (s : State) : Host.Outcome State Fault Refusal :=
  .next (fabAccess s m .wr m.payload.length fun s _ => replyMsg (fabWrite s m m.payload) m 3 [])

/-- An acquire by a peer (R192). -/
def fabAcquire (s : State) (m : Msg) (try_ : Bool) (holder : W64) (old : List Byte) : State :=
  let w : W64 := BitVec.ofNat 64 (leNat old)
  let ctx := (holder.extractLsb' 0 16).toNat
  let core := (holder.extractLsb' 16 9).toNat
  if !lockHeld w then
    replyMsg (fabWrite s m (leBytes 8 (lockWord (lockSeq w) m.src ctx core).toNat)) m 5 (leBytes 8 (acqResult try_ w).toNat)
  else if try_ then replyMsg s m 5 (leBytes 8 0)
  else match paOf s m.dvf.toNat m.va with
    | some pa => { s with lockQ := s.lockQ ++ [{ pa := pa, home := m.dvf.toNat, va := m.va, gone := false, core := none, dev := m.src, fn := m.svf, tag := m.aux, ctx := ctx, holder := core }] }
    | none => s

/-- An acquire that a switch-out withdraws (R192): abandoned where it still waits. -/
def withdrawHere (s : State) (m : Msg) : State :=
  let waits := s.lockQ.filter fun w => w.core = none && w.dev = m.src && w.fn = m.svf && w.tag = m.aux
  let parked := s.fabWait.filter fun w => w.kind = 4 && w.src = m.src && w.svf = m.svf && w.aux = m.aux
  if waits = [] && parked = [] then s
  else replyMsg { parked.foldl endRequest s with lockQ := s.lockQ.filter fun w => !waits.contains w } m 11 [0]

/-- ATOMIC (R173, R192, R193): performed at its home in one step. -/
def execMsgAtomic (m : Msg) (s : State) : Host.Outcome State Fault Refusal :=
  .next (
    let op := field m.payload 0 1
    let t : BitVec 4 := BitVec.ofNat 4 (field m.payload 1 1)
    let b : W64 := BitVec.ofNat 64 (field m.payload 2 8)
    let c : W64 := BitVec.ofNat 64 (field m.payload 10 8)
    if op = 12 then withdrawHere s m
    else
      let n := amoSize op t
      fabAccess s m .wr n fun s old =>
        match op with
        | 9 => fabAcquire s m false b old
        | 10 => fabAcquire s m true b old
        | _ => replyMsg (match amoBytes op t old b c with | some l => fabWrite s m l | none => countLines s m.dvf.toNat m.va n) m 5 old)

/-! ## Replies (R172, R387) -/

/-- LOAD_REPLY (R154, R172). -/
def execMsgLoadReply (m : Msg) (s : State) : Host.Outcome State Fault Refusal := .next (answerWord s m.aux m.payload)

/-- STORE_ACK (R155, R172). -/
def execMsgStoreAck (m : Msg) (s : State) : Host.Outcome State Fault Refusal := .next (answerWord s m.aux [])

/-- ATOMIC_REPLY (R173). -/
def execMsgAtomicReply (m : Msg) (s : State) : Host.Outcome State Fault Refusal := .next (answerWord s m.aux m.payload)

/-- Entries of the fabric translation cache (R387). -/
def ftcSize : Nat := 4096

/-- MOVED enters a translation; the least recently used one makes room (R387). -/
def ftcPut (s : State) (old new : BitVec 15 × Byte) : State :=
  let l := s.ftc.filter fun e => e.1 ≠ old
  { s with ftc := (if ftcSize ≤ l.length then l.drop 1 else l) ++ [(old, new)] }

/-- An atomic that was forwarded is performed here: the page has come to its own function (R355). -/
def performHere (s : State) (m : Msg) : State :=
  let l := m.payload.drop 4
  let acc : Access := .atomic 0 0 m.va (field l 0 1) (BitVec.ofNat 4 (field l 1 1)) (BitVec.ofNat 64 (field l 2 8)) (BitVec.ofNat 64 (field l 10 8))
  (dropRequest s m.aux).modC (tagCore m.aux) fun c =>
    { c with flight := c.flight.map fun f => if f.fab = some m.aux then { f with fab := none, asked := none, acc := some acc } else f }

/-- MOVED (R355, R356, R387): the pair that answered is replaced, and the access is retried at the new one. -/
def execMsgMoved (m : Msg) (s : State) : Host.Outcome State Fault Refusal :=
  .next (
    let dev := field m.payload 0 2
    let fn := field m.payload 2 1
    let kind := field m.payload 3 1
    let home : Bool := forwarded m.aux && dev = Config.devId.toNat && fn = m.dvf.toNat
    let s := if home then s else ftcPut s (m.src, m.svf) (BitVec.ofNat 15 dev, BitVec.ofNat 8 fn)
    let again (s : State) : State := s.send m.dvf.toNat dev fn kind m.va m.aux (m.payload.drop 4)
    if kind = 0 || kind = 2 || kind = 4 then
      (if ((s.getC (tagCore m.aux)).awaits m.aux).isNone then dropRequest s m.aux
       else if home then performHere s m
       else
         let s := again s
         { s with fabOut := (s.fabOut.filter fun q => q.aux ≠ m.aux) ++ s.outbox.getLast?.toList })
    else if kind = 7 then again s
    else s)

/-- REFUSAL (R164, R461): a word fails with the code, or is abandoned with code 0; an announcement that is refused dissolves its
FORMING table. -/
def execMsgRefusal (m : Msg) (s : State) : Host.Outcome State Fault Refusal :=
  .next (
    let code := m.payload.headD cREFUSED
    if 1 < m.payload.length then
      (let id : W32 := m.aux.setWidth 32
       (s.ctxs.filter fun e => e.2.st ≠ .free && e.2.fn = m.dvf.toNat).foldl (fun s e =>
         match (s.getX e.1).pg? id with
         | some t => if t.st = .forming && t.members.any (fun q => q.1 = m.src && vfFn q.2 = m.svf.toNat) then dissolvePg s e.1 id else s
         | none => s) s)
    else if code = 0 then abandonWord s m.aux
    else failWord s m.aux m.va code)

/-! ## Connection control (R389, R461) -/

/-- An OPEN request: a new epoch discards the receive state of the peer's function, and the request is accepted. -/
def acceptOpen (s : State) (m : Msg) : State :=
  let r : Recv := { src := m.src, svf := m.svf, dvf := m.dvf, epoch := m.epoch, rnxt := 0, acked := 0xFFFF, owed := false }
  let s := match s.recv? m.src m.svf with
    | some o => if o.epoch = m.epoch then s else s.modRecv m.src m.svf fun _ => r
    | none => { s with recvs := s.recvs ++ [r] }
  control s m.dvf.toNat m.src.toNat m.svf m.epoch [2, m.epoch]

/-- The announcement of a member is kept as its latest (R461). -/
def keepAnnounce (s : State) (fn : Nat) (m : Msg) (id gen seal_ : W32) : State :=
  let vf := fnVf m.svf.toNat
  { s with announces := (s.announces.filter fun e => !(e.1 = fn && e.2.1 = m.src && e.2.2.1 = vf && e.2.2.2.1 = id)) ++ [(fn, m.src, vf, id, gen, seal_)] }

/-- An announcement meets a registered table: a differing answer dissolves a FORMING one (R305, R461). -/
def meetAnnounce (s : State) (x : Nat) (id gen seal_ : W32) : State :=
  match (s.getX x).pg? id with
  | some t =>
    if t.st ≠ .forming then s
    else if (gen = t.gen && seal_ ≠ t.sealW) || t.gen.toNat < gen.toNat then dissolvePg s x id
    else formPg s x id
  | none => s

/-- An announcement (R461), which is kept even where it is refused: `ask` where it wants an answer. -/
def takeAnnounce (s : State) (m : Msg) (ask : Bool) : State :=
  let fn := m.dvf.toNat
  let id : W32 := BitVec.ofNat 32 (field m.payload 4 4)
  let gen : W32 := BitVec.ofNat 32 (field m.payload 8 4)
  let seal_ : W32 := BitVec.ofNat 32 (field m.payload 12 4)
  let s := keepAnnounce s fn m id gen seal_
  if !fnHasCtx s fn then s.send fn m.src.toNat m.svf.toNat 11 0 (id.setWidth 64) (cREFUSED :: m.payload)
  else
    let mine := (s.ctxs.filter fun e => e.2.st ≠ .free && e.2.fn = fn).filterMap fun e => (e.2.pg? id).bind fun t => if t.st = .dissolved then none else some (e.1, t)
    let s := match mine with
      | (_, t) :: _ => if ask then s.send fn m.src.toNat m.svf.toNat 8 0 (id.setWidth 64) ((annPayload id t).set 0 9) else s
      | [] => s
    mine.foldl (fun s e => meetAnnounce s e.1 id gen seal_) s

/-- A member reports its context halted or torn down (R305). -/
def takeDown (s : State) (m : Msg) : State :=
  let id : W32 := BitVec.ofNat 32 (field m.payload 4 4)
  let member (x : Nat) : Bool := ((s.getX x).pg? id).any fun t => t.members.any fun q => q.1 = m.src && vfFn q.2 = m.svf.toNat
  (tablesWith s m.dvf.toNat m.src.toNat).foldl (fun s e => if e.2 = id && member e.1 then degradePg s e.1 id cREFUSED else s) s

/-- CONNECTION_CONTROL (R389, R451, R461). -/
def execMsgConnectionControl (m : Msg) (s : State) : Host.Outcome State Fault Refusal :=
  .next (
    let fn := m.dvf.toNat
    let peer := m.src.toNat
    let c := s.conn fn peer
    let mine : Bool := !c.closed && c.epoch = m.payload.getD 1 0
    match m.payload with
    | [] => if !c.closed && c.epoch = m.epoch then coverTo s fn peer m.cack else s
    | code :: _ =>
      match code.toNat with
      | 1 => acceptOpen s m
      | 2 => if mine && c.st = .opening then s.modConn fn peer fun c => { c with st := .openSt, afterReset := false, lastUsed := s.now, retries := 0 } else s
      | 4 => if !c.closed && (c.st = .openSt || c.st = .draining) then resetConn s fn peer else s
      | 5 => if mine && c.st = .opening then closeOpening s fn peer else s
      | 8 => takeAnnounce s m true
      | 9 => takeAnnounce s m false
      | 10 => takeDown s m
      | _ => s)

end Sys2Proof.Machine
end

