-- ==== Sys2Proof/Machine/Migrate.lean ====
section
/-! DEFINITION. Machine/Migrate.lean: migration of a function (R352-R357). The payloads of context transfers (KIND 12) begin with a
code (DESIGN CHOICE, assumption 21): 0 request, 1 answer, 2 part of the execution state, 3 its last part, 4 owner token, 5 pull of a
page, 6 the target has halted, 7 part of a page, 8 pull refused, 9 the last page has left. -/

namespace Sys2Proof.Machine

/-! ## Parts -/

/-- The contexts of a function. -/
def fnCtxs (s : State) (fn : Nat) : List (Nat × Ctx) := s.ctxs.filter fun e => e.2.st ≠ .free && e.2.fn = fn

/-- Its contexts that are migrating out. -/
def leaving (s : State) (fn : Nat) : List (Nat × Ctx) := (fnCtxs s fn).filter fun e => e.2.st = .migratingOut

/-- The 64 KiB table at a PA: its valid entries by index. -/
def tableEntries (s : State) (pa : Nat) : List (Nat × W64) :=
  (List.range 8192).filterMap fun i => let e := s.pa64 (pa + 8 * i); if e.getLsbD 0 && (paFault s (pa + 8 * i)).isNone then some (i, e) else none

/-- The leaves under a table, in VA order: the VA, the entry's PA, the entry (R360). -/
def leavesFrom (s : State) : Nat → Nat → Nat → List (W64 × Nat × W64)
  | 0, _, _ => []
  | n + 1, pa, va =>
    (tableEntries s pa).flatMap fun e =>
      let v := va + e.1 * 2 ^ (13 * n + 16)
      if e.2.getLsbD 1 then [(BitVec.ofNat 64 v, pa + 8 * e.1, e.2)] else leavesFrom s n (eFrame e.2) v

/-- The leaves of a function. -/
def leaves (s : State) (fn : Nat) : List (W64 × Nat × W64) := leavesFrom s 3 (ptRoot s fn) 0

/-- A page from `va` on, of `bits` of offset, holds the record or the event ring of a context of the function. -/
def holdsRing (s : State) (fn : Nat) (va : W64) (bits : Nat) : Bool :=
  let meets (a n : Nat) : Bool := decide (a < va.toNat + 2 ^ bits) && decide (va.toNat < a + n)
  (leaving s fn).any fun e => meets e.2.recVa.toNat 512 || meets e.2.evqva.toNat (32 * 2 ^ e.2.evqlog2)

/-- The pages that are still at the source, in the order in which the pusher hands them over: those that the last event 8 needs come last
(assumption 51). -/
def pagesLeft (s : State) (fn : Nat) : List (W64 × Nat × W64) :=
  let l := (leaves s fn).filter fun e => eState e.2.2 ≠ sREMOTE
  let ring (e : W64 × Nat × W64) : Bool := holdsRing s fn e.1 (pageBits e.2.2)
  l.filter (fun e => !ring e) ++ l.filter ring

/-- Event 8 of a migration (R346): the code of the new state, and the pages still remote for the target. -/
def migrEvent (s : State) (fn : Nat) (new : CtxSt) (left : Nat) : State :=
  (leaving s fn).foldl (fun s e => (postEvent s e.1 8 0 0xFFFF (BitVec.ofNat 64 new.code) (BitVec.ofNat 64 left))) s

/-- Cutting bytes into payloads after a code: `mid` for all but the last. -/
def sendParts (s : State) (fn dev tfn : Nat) (va : W64) (mid last : Byte) (l : List Byte) : State :=
  let n := max 1 ((l.length + 4094) / 4095)
  (List.range n).foldl (fun s i => s.send fn dev tfn 12 va 0 ((if i + 1 = n then last else mid) :: (l.drop (4095 * i)).take 4095)) s

/-! ## MIGRATE_OUT (R352, R353) -/

/-- A context may leave (R342). -/
def mayLeave (c : Ctx) : Bool := c.halt.isNone && (c.st = .created || c.st = .runnable || c.st = .running || c.st = .switchedOut)

/-- The source asks the target (R352). -/
def askTarget (s : State) (fn : Nat) (dev : BitVec 15) (tfn : Nat) : State :=
  let l := fnCtxs s fn
  let bits := (l.map fun e => 2 ^ (e.1 % 16)).sum
  let s := l.foldl (fun s e => s.modX e.1 fun c => { c with migr := some (dev, tfn), asked := s.now, moved := false }) s
  s.send fn dev.toNat tfn 12 0 0 (0 :: leBytes 2 bits)

/-- The target has answered: every context quiesces (R349, R353), the function's connections drain (R389). -/
def quiesceFn (s : State) (fn : Nat) : State :=
  let s := (fnCtxs s fn).foldl (fun s e =>
    let s := s.modX e.1 fun c => { c with quiesced := c.st }
    if e.2.st = .switchedOut then reportOrphans (s.setCtxSt e.1 .migratingOut) e.1 else departBegin s e.1 .migratingOut) s
  drainConns s fn

/-- A list of bytes with its length. -/
def encBytes (l : List Byte) : List Byte := encNat l.length ++ l
/-- Taking one. -/
def decBytesList : Dec (List Byte) := Dec.andThen decNat fun n => fun l => if n ≤ l.length then some (l.take n, l.drop n) else none

/-- Reading the areas that a transfer carries, one after another (R353, R462). -/
def carriedAreas (fn : Nat) : List (W64 × Nat) → State → List Byte → Adm (List Byte)
  | [], s, acc => .ok s acc
  | (va, n) :: l, s, acc =>
    match cmdRead s fn va n with
    | .wait s => .wait s
    | .bad code _ => .fail s code 0
    | .ok s b => carriedAreas fn l s (acc ++ encBytes b)

/-- A context as it is sent: its operations with the clocks that they have waited (R242, R267). -/
def Ctx.sent (now : Nat) (c : Ctx) : Ctx :=
  { c with ops := c.ops.map fun e => (e.1, if e.2.st = .parked then e.2 else { e.2 with since := now - e.2.since }) }

/-- The execution state of contexts of a function (R353): each with its CARRY words, EVHEAD, its saturation table and stop-record area, and
its heavy images as memory holds them. -/
def carriedCtxs (fn : Nat) : List (Nat × Ctx) → State → List Byte → Adm (List Byte)
  | [], s, acc => .ok s acc
  | (x, c) :: l, s, acc =>
    (carriedAreas fn [(c.recVa + 0x80, 64), (c.recVa + 0x70, 4), (c.satva, 16384), (c.stopva, 360448)] s []).andThen fun s b =>
    (readImages s c c.saved []).andThen fun s saved =>
    carriedCtxs fn l s (acc ++ encNat (x % 16) ++ b ++ encCtx (({ c with saved := saved } : Ctx).sent s.now))

/-- The connection records of a function (R353, R391). -/
def connRecords (s : State) (fn : Nat) : List Byte :=
  encList (fun c : Conn => encNat c.peer ++ [c.epoch]) (s.conns.filter fun c => c.fn = fn)

/-- The transfer is sent once every context is quiet (R353); it waits for pages, and a fault halts the function (R462). -/
def sendState (s : State) (fn : Nat) (dev : BitVec 15) (tfn : Nat) : State :=
  match carriedCtxs fn (fnCtxs s fn) s [] with
  | .wait s => s
  | .fail s code _ => (leaving s fn).foldl (fun s e => raiseHalt s e.1 0xFFFF code) (dropOpEntry s cmdCtx 0)
  | .ok s b =>
    let s := sendParts (dropOpEntry s cmdCtx 0) fn dev.toNat tfn 0 2 3 (encNat (fnCtxs s fn).length ++ b ++ connRecords s fn)
    let s := (leaving s fn).foldl (fun s e => s.modX e.1 fun c => { c with moved := true }) s
    migrEvent s fn .migratingOut (pagesLeft s fn).length

/-- A step of the quiesce of a function. -/
def quiesceStep (s : State) (fn : Nat) : State :=
  let l := leaving s fn
  if l = [] || l.any fun e => e.2.moved || e.2.halt.isSome then s
  else
    let s := l.foldl (fun s e =>
      if e.2.switchStart.isNone || (s.getX e.1).halt.isSome then s
      else
        let r := departStep s e.1
        if r.2 then departEnd r.1 e.1 else r.1) s
    let l := leaving s fn
    if l.any fun e => e.2.switchStart.isSome || e.2.halt.isSome then s
    else match (l.head?.bind fun e => e.2.migr) with
      | some (dev, tfn) => sendState s fn dev tfn
      | none => s

/-- MIGRATE_OUT (R341, R342, R352, R353): the command, and each later step of its quiesce. -/
def execMigrateOut (ctx : Nat) (s : State) : Host.Outcome State Fault Refusal :=
  .next (
    let c := s.getX ctx
    if c.st = .migratingOut then quiesceStep s c.fn
    else if !(s.cmd.busy && s.cmd.cmd = 6 && s.cmd.ctx.toNat = ctx) || c.migr.isSome then s
    else if c.st = .free || (fnCtxs s c.fn).any fun e => !mayLeave e.2 then endCmd s ctx 1
    else askTarget s c.fn (s.cmd.carg.extractLsb' 0 15) (s.cmd.carg.extractLsb' 16 8).toNat)

/-- MIGRATION_TARGET_TIMEOUT (R352): 10 ms without an answer end the command and change nothing. -/
def execMigrationTargetTimeout (fn : Nat) (s : State) : Host.Outcome State Fault Refusal :=
  .next (
    let l := (fnCtxs s fn).filter fun e => e.2.migr.isSome && mayLeave e.2 && s.cmd.busy && s.cmd.cmd = 6 && (s.getX s.cmd.ctx.toNat).fn = fn
    if l = [] || l.any fun e => decide (s.now < e.2.asked + 12000000) then s
    else
      let s := l.foldl (fun s e => s.modX e.1 fun c => { c with migr := none }) s
      { s with cmd := { s.cmd with busy := false, result := 6 } })

/-! ## Pages (R353-R355) -/

/-- The channel of a COMPUTE page is in dot mode for the function: the owner token says so. -/
def pageDot (s : State) (fn : Nat) (e : W64) : Bool :=
  eState e = sCOMP && (fnCtxs s fn).any fun x => x.2.dotSaved.contains (channelOf (eFrame e)) || x.2.dotSet.contains (channelOf (eFrame e))

/-- The entry of a page that another device owns (R361). -/
def remoteEntry (e : W64) (dev : BitVec 15) (fn : Nat) : W64 :=
  eSet (eWithFmt e 0) sREMOTE ((dev.setWidth 64 <<< 16) ||| (BitVec.ofNat 64 fn <<< 31))

/-- Waiters of a lock word on a page that leaves are answered MOVED (R355). -/
def bounceLocks (s : State) (fn : Nat) (va : W64) (e : W64) (dev : BitVec 15) (tfn : Nat) : State :=
  let here (w : LockWait) : Bool := w.core.isNone && decide (eFrame e ≤ w.pa) && decide (w.pa < eFrame e + 2 ^ pageBits e)
  (s.lockQ.filter here).foldl (fun s w =>
    s.send fn w.dev.toNat w.fn.toNat 10 (va + BitVec.ofNat 64 (w.pa - eFrame e)) w.tag
      (leBytes 2 dev.toNat ++ [BitVec.ofNat 8 tfn, 4] ++ atomicPayload 9 7 (BitVec.ofNat 64 (w.ctx + 65536 * w.holder)) 0))
    { s with lockQ := s.lockQ.filter fun w => !here w }

/-- Frames that a function's handed pages held go back once the last page has left. -/
def returnHanded (s : State) (fn : Nat) : State :=
  let mine := s.handed.filter fun h => h.1 = fn
  mine.foldl (fun s h =>
    let e := h.2.2.2
    if eState e = sABSENT || eHost e || eSize e ≠ 0 then s else giveBack s fn (some (BitVec.ofNat 64 (eFrame e))))
    { s with handed := s.handed.filter fun h => h.1 ≠ fn }

/-- The last page has left (R342, R353, R356): the contexts are FREE, the tombstone stands, the command is done. -/
def finishLeaving (s : State) (fn : Nat) (dev : BitVec 15) (tfn : Nat) : State :=
  let l := leaving s fn
  let s := returnHanded (s.send fn dev.toNat tfn 12 0 0 [9]) fn
  let s := { s with tombstones := s.tombstones ++ [(fn, dev, tfn, s.now)], devQ := s.devQ.filter fun e => e.fn ≠ fn }
  l.foldl (fun s e => let s := endCmd s e.1 0; { s with ctxs := sdel s.ctxs e.1 }) s

/-- A page and its owner token leave (R355). -/
def sendPage (s : State) (fn : Nat) (va : W64) (pa : Nat) (e : W64) (dev : BitVec 15) (tfn : Nat) : State :=
  let state := eState e
  let bytes := if state = sABSENT then [] else s.mem.readKey (leafKey s fn e) (eFrame e) (2 ^ pageBits e)
  let s := (List.range ((bytes.length + 2047) / 2048)).foldl (fun s i =>
    s.send fn dev.toNat tfn 12 va 0 (7 :: leBytes 4 (2048 * i) ++ (bytes.drop (2048 * i)).take 2048)) s
  let s := s.send fn dev.toNat tfn 12 va 0 [4, BitVec.ofNat 8 state, BitVec.ofNat 8 (eCfmt e), if pageDot s fn e then 1 else 0]
  let s := bounceLocks s fn va e dev tfn
  let s := s.paStore pa (leBytes 8 (remoteEntry e dev tfn).toNat)
  let s := if state = sPOOL then counterDrop s fn va else s
  purgePage { s with handed := s.handed ++ [(fn, va, pa, e)] } fn va

/-- The last event 8 of a function's contexts has been posted (R353): `quiesced` is not needed any more once the state has been sent. -/
def lastPosted (s : State) (fn : Nat) : Bool := (leaving s fn).all fun e => e.2.quiesced = .free

/-- The last event 8, with FREE for the new state (R342, R346, R353), posted where only the pages that it needs are left (assumption 51). -/
def postLast (s : State) (fn : Nat) : State :=
  (leaving s fn).foldl (fun s e => s.modX e.1 fun c => { c with quiesced := .free }) (migrEvent s fn .free 0)

/-- A page leaves; with the last one the source is done. -/
def handPage (s : State) (fn : Nat) (va : W64) (pa : Nat) (e : W64) (dev : BitVec 15) (tfn : Nat) : State :=
  let last : Bool := (pagesLeft s fn).length = 1
  let s := sendPage s fn (BitVec.ofNat 64 (va.toNat / 2 ^ pageBits e * 2 ^ pageBits e)) pa e dev tfn
  if last then finishLeaving s fn dev tfn else s

/-- PAGE_HANDOVER (R353, R355): a page leaves, those of the event rings after all others, once the last event 8 is written. -/
def execPageHandover (fn : Nat) (va : BitVec 64) (s : State) : Host.Outcome State Fault Refusal :=
  .next (match (leaving s fn).find? fun e => e.2.moved && e.2.halt.isNone with
    | none => s
    | some x =>
      match x.2.migr, walk s fn va with
      | some (dev, tfn), .leaf pa e =>
        let others : Bool := (pagesLeft s fn).any fun p => !holdsRing s fn p.1 (pageBits p.2.2)
        let ring : Bool := holdsRing s fn (BitVec.ofNat 64 (va.toNat / 2 ^ pageBits e * 2 ^ pageBits e)) (pageBits e)
        if eState e = sREMOTE || eState e = sMIGR || (ring && others) then s
        else if ring && !lastPosted s fn then postLast s fn
        else if ring && (leaving s fn).any fun y => actsWait s y.1 then s
        else handPage s fn va pa e dev tfn
      | some (dev, tfn), .bad _ => if pagesLeft s fn = [] then finishLeaving s fn dev tfn else s
      | none, _ => s)

/-- The frame that an owner token's page takes (R355, R366): of the tier that the page had at the source, in a cached partition the pool. -/
def tokenFrame (s : State) (fn st : Nat) : State × Option (Nat × W64) :=
  let p := ringPart s fn
  let take (ring st : Nat) : State × Option (Nat × W64) := let r := ringTake s p ring; (r.1, r.2.map fun f => (st, f))
  if st = sCOMP then take 0 sCOMP else if st = sPOOL || cachedMode s fn then take 1 sPOOL else take 0 sHBM

/-- The code of a running instance that lies in a page follows it to its new frame (assumption 26). -/
def moveCode (s : State) (fn : Nat) (va f : W64) : State :=
  (fnCtxs s fn).foldl (fun s x => x.2.insts.foldl (fun s e =>
    s.modInst e.1 fun i =>
      let n := va.toNat / 65536 - i.segva.toNat / 65536
      if i.segva.toNat / 65536 ≤ va.toNat / 65536 && decide (n < i.frames.length) then { i with frames := i.frames.set n f } else i) s) s

/-- Sparse bytes as a list. -/
def spreadBytes (m : Sparse Byte) (n : Nat) : List Byte := (List.range n).map fun i => sget 0 m i

/-- The page of a token is resident (R355). -/
def landPage (s : State) (fn : Nat) (va : W64) (pa : Nat) (e : W64) (tok : OwnerToken) (st : Nat) (f : W64) : State :=
  let e' := eSet (eWithFmt e (if st = sCOMP then tok.cfmt.toNat else 0)) st f
  let s := zeroFill s (leafKey s fn e') f.toNat
  let s := { s with mem := s.mem.storeList f.toNat (spreadBytes tok.bytes 65536) }
  let s := s.paStore pa (leBytes 8 e'.toNat)
  let s := if st = sPOOL then counterTake s fn va e' else if st = sCOMP then ownRows s fn f.toNat else s
  let s := moveCode (purgePage s fn va) fn va f
  if st = sCOMP && tok.dotmode then
    withDot s fun s => (fnCtxs s fn).foldl (fun s x =>
      s.modX x.1 fun c => if c.dotSet.contains (channelOf f.toNat) then c else { c with dotSet := c.dotSet ++ [channelOf f.toNat] }) s
  else s

/-- OWNER_TOKEN_ARRIVAL (R355): the target owns the page, which becomes resident; without a frame the accesses that wait fail and the
token stays. -/
def execOwnerTokenArrival (fn : Nat) (va : BitVec 64) (tok : OwnerToken) (s : State) : Host.Outcome State Fault Refusal :=
  .next (
    let keep : Nat × W64 × OwnerToken := (fn, va, tok)
    let gone (s : State) : State := { s with arrived := s.arrived.filter (fun t => t ≠ keep), pulled := s.pulled.filter fun e => e ≠ (fn, va) }
    match walk s fn va with
    | .bad _ => gone s
    | .leaf pa e =>
      if eState e ≠ sREMOTE then gone s
      else if tok.state.toNat = sABSENT then purgePage ((gone s).paStore pa (leBytes 8 (eSet e sABSENT 0).toNat)) fn va
      else
        let stay (s : State) : State := failPage (if s.arrived.contains keep then s else { s with arrived := s.arrived ++ [keep] }) fn va cABSENT
        if eSize e ≠ 0 then stay s
        else match tokenFrame s fn tok.state.toNat with
          | (s, some (st, f)) => landPage (gone s) fn va pa e tok st f
          | (s, none) => stay s)

/-! ## MIGRATE_IN (R341, R342, R352) -/

/-- MIGRATE_IN: the fresh record makes a context that awaits its state. -/
def execMigrateIn (ctx : Nat) (s : State) : Host.Outcome State Fault Refusal :=
  .next (
    if !(s.cmd.busy && s.cmd.cmd = 7 && s.cmd.ctx.toNat = ctx) then s
    else
      let tfn := (s.cmd.carg.extractLsb' 24 8).toNat
      if (s.getX ctx).st ≠ .free then endCmd s ctx 1
      else if 0x80 < tfn then cmdEnd s 2
      else match cmdRead s tfn s.cmd.carg2 512 with
        | .wait s => s
        | .bad _ _ => cmdEnd s 2
        | .ok s l =>
          if ctxId tfn (field l 8 1) ≠ ctx then cmdEnd s 2
          else
            let (s, r, x) := makeCtx s tfn s.cmd.carg2 .migratingIn l
            let s := if r = 0 then s.modX x fun c => { c with migr := some (s.cmd.carg.extractLsb' 0 15, (s.cmd.carg.extractLsb' 16 8).toNat) } else s
            cmdEnd s r)

/-- Every LOCAL in use at the source has its context waiting (R352). -/
def readyFor (s : State) (m : Msg) : Bool :=
  let bits : BitVec 16 := BitVec.ofNat 16 (field m.payload 1 2)
  (List.range 16).all fun l => !bits.getLsbD l ||
    (let c := s.getX (ctxId m.dvf.toNat l); c.st = .migratingIn && c.migr = some (m.src, m.svf.toNat))

/-- A claim of a context that has moved: its array's tags never match (R214, R353). -/
def Claim.movedTo (x : Nat) (c : Claim) : Claim := { c with ctx := x, lastLoad := c.lastLoad.map fun l => (l.1, { l.2 with ctx := x }) }

/-- A saved core of a context that has moved. -/
def SavedCore.movedTo (x : Nat) (v : SavedCore) : SavedCore :=
  let cmd : ArrCmd → ArrCmd := fun c => match c with | .op _ t => .op x t | c => c
  { v with key := { v.key with ctx := x }, core := { v.core with inst := v.core.inst.map fun k => { k with ctx := x } },
           claim := v.claim.map (·.movedTo x), cmds := v.cmds.map cmd }

/-- A context as the source sent it, in the context that awaits it: the fresh record's areas, this device's names (R353). -/
def Ctx.landed (s : State) (x : Nat) (fresh c : Ctx) : Ctx :=
  { c with st := .switchedOut, recVa := fresh.recVa, fn := fresh.fn, service := fresh.service, satva := fresh.satva, regva := fresh.regva, opva := fresh.opva,
           barva := fresh.barva, stopva := fresh.stopva, evqva := fresh.evqva, evqlog2 := fresh.evqlog2, saveva := fresh.saveva, savelen := fresh.savelen, migr := fresh.migr,
           halt := none, switchStart := none, moved := false, dotSet := [], dotSaved := [], asked := 0, quiesced := .free,
           ops := c.ops.map fun e => (e.1, { e.2 with node := { e.2.node with ctx := x }, since := if e.2.st = .parked then e.2.since else s.now - e.2.since,
                                                      issued := 0 }),
           barriers := c.barriers.map fun e => (e.1, if e.2.scope = 3 && !e.2.mirror then { e.2 with homedev := Config.devId.setWidth 16 } else e.2),
           insts := c.insts.map fun e => ({ e.1 with ctx := x }, { e.2 with frames := e.2.frames.map fun _ => (BitVec.allOnes 64) }),
           pgs := c.pgs.map fun e => (e.1, { e.2 with since := s.now }),
           saved := c.saved.map (·.movedTo x) }

/-- One context of a transfer: its LOCAL, CARRY, EVHEAD, saturation table, stop records, state. -/
abbrev MovedCtx : Type := Nat × List Byte × List Byte × List Byte × List Byte × Ctx

/-- What a transfer holds. -/
def decTransfer : Dec (List MovedCtx × List (Nat × Nat)) :=
  let one : Dec MovedCtx := decPair decNat (decPair decBytesList (decPair decBytesList (decPair decBytesList (decPair decBytesList takeCtx))))
  decPair (decList one) (decList (decPair decNat (decBytes 1)))

/-- The images of a context that has landed (R340, R350, R353, R462). -/
def imageLanded (s : State) (x : Nat) : State :=
  let heavy (s : State) (v : SavedCore) : State × SavedCore :=
    ({ s with free := s.free + 1 }.devWrite (s.getX x).fn (imageVa (s.getX x) v.gidx) (imageOf s.free), { v with image := s.free })
  let r := (s.getX x).saved.foldl (fun (r : State × List SavedCore) v => let h := heavy r.1 v; (h.1, r.2 ++ [h.2])) (s, [])
  saveLight (r.1.modX x fun c => { c with saved := r.2 }) x

/-- A context of a transfer is restored and resumes (R342, R353, R354). -/
def installCtx (s : State) (tfn : Nat) (e : MovedCtx) : State :=
  let x := ctxId tfn e.1
  let fresh := s.getX x
  if fresh.st ≠ .migratingIn then s
  else
    let c := Ctx.landed s x fresh e.2.2.2.2.2
    let s := { s.modX x (fun _ => c) with opCount := (c.ops.map fun (o : Nat × Op) => o.2.order + 1).foldl max s.opCount }
    let s := s.devWrite tfn (c.recVa + 0x80) e.2.1
    let s := s.devWrite tfn (c.recVa + 0x70) e.2.2.1
    let s := s.devWrite tfn c.satva e.2.2.2.1
    let s := s.devWrite tfn c.stopva e.2.2.2.2.1
    let s := imageLanded s x
    match rebindAll s x with
    | some s => restoreCtx s x
    | none => s

/-- The execution state has arrived (R353). -/
def installAll (s : State) (tfn : Nat) : State :=
  let l := ((s.xfer.find? fun e => e.1 = tfn).map (·.2)).getD []
  let s := { s with xfer := s.xfer.filter fun e => e.1 ≠ tfn }
  match decTransfer l with
  | none => s
  | some ((ctxs, conns), _) =>
    let s := ctxs.foldl (fun s e => installCtx s tfn e) s
    conns.foldl (fun s e => if (s.conn tfn e.1).closed then s.modConn tfn e.1 fun c => { c with epoch := BitVec.ofNat 8 e.2 } else s) s

/-- Bytes of a transfer that have arrived, under the function, or under the function and page of a token. -/
def xferAdd (s : State) (key : Nat) (l : List Byte) : State :=
  { s with xfer := (s.xfer.filter fun e => e.1 ≠ key) ++ [(key, ((s.xfer.find? fun e => e.1 = key).map (·.2)).getD [] ++ l)] }

/-- The key of a page's bytes. -/
def pageXfer (fn : Nat) (va : W64) : Nat := 256 + fn + 256 * va.toNat

/-- The nonzero bytes of a list. -/
def sparseBytes (l : List Byte) : Sparse Byte := (l.zipIdx.filter fun e => e.1 ≠ 0).map fun e => (e.2, e.1)

/-! ## Messages and ends -/

/-- CONTEXT_TRANSFER (R353-R357). -/
def execMsgContextTransfer (m : Msg) (s : State) : Host.Outcome State Fault Refusal :=
  .next (
    let fn := m.dvf.toNat
    let from_ (c : Ctx) : Bool := c.migr = some (m.src, m.svf.toNat)
    match (m.payload.headD 255).toNat with
    | 0 => if readyFor s m then s.send fn m.src.toNat m.svf.toNat 12 0 0 [1] else s
    | 1 => if (fnCtxs s fn) ≠ [] && (fnCtxs s fn).all fun e => from_ e.2 && mayLeave e.2 then quiesceFn s fn else s
    | 2 => xferAdd s fn (m.payload.drop 1)
    | 3 => installAll (xferAdd s fn (m.payload.drop 1)) fn
    | 4 =>
      let key := pageXfer fn m.va
      let l := ((s.xfer.find? fun e => e.1 = key).map (·.2)).getD []
      { s with xfer := s.xfer.filter fun e => e.1 ≠ key }.post
        (.ownerTokenArrival fn m.va { state := BitVec.ofNat 3 (field m.payload 1 1), cfmt := BitVec.ofNat 2 (field m.payload 2 1),
                                      dotmode := field m.payload 3 1 = 1, bytes := sparseBytes l })
    | 5 =>
      (match walk s fn m.va with
       | .leaf _ e =>
         if (leaving s fn).any fun x => x.2.moved && x.2.halt.isNone then (if eState e = sREMOTE then s else s.post (.pageHandover fn m.va))
         else s.send fn m.src.toNat m.svf.toNat 12 m.va 0 [8]
       | .bad _ => s.send fn m.src.toNat m.svf.toNat 12 m.va 0 [8])
    | 6 => if (leaving s fn).any fun e => from_ e.2 then s.post (.migrationAbort fn) else s
    | 7 => xferAdd s (pageXfer fn m.va) (m.payload.drop 5)
    | 8 => failPull s fn m.va
    | 9 => (fnCtxs s fn).foldl (fun s e => if from_ e.2 then s.modX e.1 fun c => { c with migr := none } else s) s
    | _ => s)

/-- A handed page is restored from the copy that the source kept (R357). -/
def restoreHanded (s : State) (fn : Nat) : State :=
  (s.handed.filter fun h => h.1 = fn).foldl (fun s h =>
    let s := s.paStore h.2.2.1 (leBytes 8 h.2.2.2.toNat)
    let s := if eState h.2.2.2 = sPOOL then counterTake s fn h.2.1 h.2.2.2 else s
    purgePage s fn h.2.1) { s with handed := s.handed.filter fun h => h.1 ≠ fn }

/-- MIGRATION_ABORT (R357): the function halts on the source, which owns every page again. -/
def execMigrationAbort (fn : Nat) (s : State) : Host.Outcome State Fault Refusal :=
  .next (
    let l := leaving s fn
    if l = [] then s
    else l.foldl (fun s e => raiseHalt s e.1 0xFFFF cMIGR) (restoreHanded s fn))

/-- TOMBSTONE_LAPSE (R356): after TOMBSTONE ms. -/
def execTombstoneLapse (fn : Nat) (s : State) : Host.Outcome State Fault Refusal :=
  .next { s with tombstones := s.tombstones.filter fun t => !(t.1 = fn && decide (t.2.2.2 + 1200000 * (dcGet s 0x002A0018).toNat ≤ s.now)) }

end Sys2Proof.Machine
end

