-- ==== Sys2Proof/Machine/Device.lean ====
section
/-! DEFINITION. Machine/Device.lean: the device as a whole: resets, boot and self-test (R414-R419, R422), freeze (R416), power and heat (R420,
R421), keys (R423), the mailbox (R424, R425), virtual functions (R426), a failed CXL port (R428), and plain register writes (R9). -/

namespace Sys2Proof.Machine

/-! ## Resets, boot and self-test (R414, R415, R418, R419, R422) -/

/-- The bytes of a wide value, most significant first. -/
def beBytes (n : Nat) {w : Nat} (v : BitVec w) : List Byte := (leBytes n v.toNat).reverse

/-- The measurement register after a stage (R422). -/
def extendMeas (meas digest : BitVec 384) : BitVec 384 :=
  (sha384 (beBytes 48 meas ++ beBytes 48 digest)).foldl (fun m b => (m <<< 8) ||| b.setWidth 384) 0

/-- BOOT verifies each stage (R422): the measurement, the version that runs, and the first stage that fails. -/
def bootStages : Nat → List BootStage → BitVec 384 → W32 → BitVec 384 × W32 × Option Nat
  | _, [], m, v => (m, v, none)
  | i, b :: l, m, v =>
    if b.sigOk && decide (Config.minVersion.toNat ≤ b.version.toNat) then bootStages (i + 1) l (extendMeas m b.digest) b.version else (m, v, some i)

/-- Memory outside the device's HBM: what it holds in clear stays; what was stored under a key reads unpredictably (R423, R427). -/
def poolOnly (m : Memory) (n : Nat) : Memory :=
  let pool (e : Nat) : Bool := decide (2 ^ 47 ≤ e)
  let m : Memory := { cells := m.cells.filter (fun c => pool c.1), scrambled := m.scrambled.filter (fun e => pool (65536 * e.1)),
                      owner := m.owner.filter (fun e => pool (65536 * e.1)), units := m.units.filter fun e => pool (128 * e.1) }
  let m := m.loseKeys (· ≠ plainKey) n
  { m with owner := m.owner.filter (fun e => e.2 = plainKey), units := m.units.filter fun e => e.2 = plainKey }

/-- The device in RESET: only the pool's memory, the data errors there, and the numbering of free values outlast it. -/
def resetDevice (s : State) : State :=
  { State.reset with mem := poolOnly s.mem s.free, free := s.free + 1, errs := s.errs.filter fun e => decide (2 ^ 47 ≤ 16 * e.1) }

/-- COLD_RESET (R414, R415, R422): RESET, then BOOT; a stage that fails leads to SAFE. -/
def execColdReset (stages : List BootStage) (s : State) : Host.Outcome State Fault Refusal :=
  .next (
    let s := { resetDevice s with fwImage := none }
    match bootStages 0 stages 0 0 with
    | (m, v, none) => { s with dev := .selftest, meas := m, svn := v }
    | (m, v, some i) => { s with dev := .safe, failClass := 1, failUnit := BitVec.ofNat 16 i, meas := m, svn := v })

/-- The register offset of PWRLIM, the one RWS field (R417). -/
def pwrLim : Nat := 0x00700008

/-- WARM_RESET (R414): every context is destroyed, RWS fields are kept, and the verified firmware boots again. -/
def execWarmReset (s : State) : Host.Outcome State Fault Refusal :=
  .next (
    if s.dev ≠ .ready then s
    else
      let s := s.ctxs.foldl (fun s e => if e.2.st = .free || e.2.st = .destroying then s else destroyBegin s e.1) s
      let s := s.ctxs.foldl (fun s e => s.devWrite e.2.fn (e.2.recVa + 0x0A) [0]) s
      dcPut { resetDevice s with dev := .selftest, meas := s.meas, svn := s.svn, qcount := s.qcount, fwImage := s.fwImage, clock0 := s.coldClock } pwrLim (dcGet s pwrLim))

/-- Numbers of a list among the n from lo on. -/
def countIn (l : List Nat) (lo n : Nat) : Nat := ((List.range n).filter fun i => l.contains (lo + i)).length

/-- A mask of the numbers of a list among the n from lo on. -/
def maskIn (l : List Nat) (lo n : Nat) : Nat := ((List.range n).map fun i => if l.contains (lo + i) then 2 ^ i else 0).sum

/-- Physical benches of a die (R417). -/
def physBenches : Nat := 50

/-- The first failure of self-test (R415, R419): its class and unit. -/
def selfTestFails (r : SelfTest) : Option (Byte × Nat) :=
  match (List.range 2).find? fun d => decide (countIn r.badBench (physBenches * d) physBenches > physBenches - 48) with
  | some d => some (2, d)
  | none =>
    match (List.range 8).find? fun k => decide ((r.badChan.filter fun c => c.1 = k).eraseDups.length > 8) with
    | some k => some (3, k)
    | none => r.gluFail.map fun g => (4, g)

/-- Storing a 64-bit register of two words (R460). -/
def dcPut64 (s : State) (a : Nat) (v : W64) : State := dcPut (dcPut s a (v.setWidth 32)) (a + 4) ((v >>> 32).setWidth 32)

/-- The retirement registers (R417, R418). -/
def retire (s : State) (r : SelfTest) : State :=
  let s := (List.range 2).foldl (fun s d => dcPut64 s (0x00700100 + 8 * d) (BitVec.ofNat 64 (maskIn r.badBench (physBenches * d) physBenches))) s
  let s := r.rowSpares.foldl (fun s e => if e.1 < 96 then dcPut64 s (0x00700200 + 16 * e.1) e.2 else s) s
  let s := r.colSpares.foldl (fun s e => if e.1 < 96 then dcPut64 s (0x00700208 + 16 * e.1) e.2 else s) s
  let s := (List.range 8).foldl (fun s k =>
    ((r.badChan.filter fun c => c.1 = k).eraseDups.take 8).zipIdx.foldl (fun s c =>
      dcPut s (0x00700800 + 0x20 * k + 4 * c.2) (BitVec.ofNat 32 (0x8000 + c.1.2 % 512))) s) s
  let s := (List.range 6).foldl (fun s w => dcPut s (0x00700A00 + 4 * w) (BitVec.ofNat 32 (maskIn r.badEngine (32 * w) 32))) s
  r.badEngine.foldl (fun s e => if e < 192 then s.modE e fun g => { g with st := .retired } else s) s

/-- SELFTEST_END (R414, R418, R419): retirements are applied and HBM is zero; READY, or SAFE. -/
def execSelftestEnd (r : SelfTest) (s : State) : Host.Outcome State Fault Refusal :=
  .next (
    if s.dev ≠ .selftest then s
    else
      let s := retire s r
      match selfTestFails r with
      | some (c, u) => { s with dev := .safe, failClass := c, failUnit := BitVec.ofNat 16 u }
      | none => { s with dev := .ready })

/-- Freezing (R416): every clock stops; a mailbox command in progress is abandoned. -/
def freezeDev (s : State) : State := { s with dev := .frozen, agenda := [], mbox := { s.mbox with busy := false } }

/-- FREEZE (R416, R417). -/
def execFreeze (s : State) : Host.Outcome State Fault Refusal := .next (freezeDev s)

/-- FREEZE_N (R416). -/
def execFreezeN (s : State) : Host.Outcome State Fault Refusal := .next (freezeDev s)

/-! ## Power and heat (R420, R421) -/

/-- Firmware throttles: PALBUDGET falls, to no less than 32 (R261, R420); by how much is a free value. -/
def throttle (s : State) : State :=
  let s := { s with throttled := true, coolSince := none }
  if s.budget ≤ 32 then s
  else setBudget { s with free := s.free + 1 } (32 + (Config.free s.free).toNat % (s.budget - 32))

/-- The budget that firmware restores (R420). -/
def restoredBudget : Nat := clampN 32 64 Config.policyBudget

/-- Milliseconds in clocks. -/
def msClocks : Nat := 1200000

/-- POWER_CONTROL (R420): the draw is measured; above the limit firmware throttles, and after 10 ms below it less 100 W the budget
returns. -/
def execPowerControl (watts : BitVec 12) (s : State) : Host.Outcome State Fault Refusal :=
  .next (
    let s := dcPut s 0x0070000C (watts.setWidth 32)
    let lim := (dcGet s pwrLim).toNat
    if lim < watts.toNat then throttle s
    else if !s.throttled || 105 ≤ (dcGet s 0x00700010).toNat || lim ≤ watts.toNat + 100 then { s with coolSince := none }
    else match s.coolSince with
      | none => { s with coolSince := some s.now }
      | some t => if t + 10 * msClocks ≤ s.now then setBudget { s with throttled := false, coolSince := none } restoredBudget else s)

/-- TEMPERATURE_LIMIT (R421): at 105 °C firmware throttles; at 115 °C the device freezes and HBM loses its contents. -/
def execTemperatureLimit (degc : BitVec 8) (s : State) : Host.Outcome State Fault Refusal :=
  .next (
    let s := dcPut s 0x00700010 (degc.setWidth 32)
    if 115 ≤ degc.toNat then freezeDev { s with mem := poolOnly s.mem s.free, free := s.free + 1 }
    else if 105 ≤ degc.toNat then throttle s
    else s)

/-! ## Keys, functions, ports (R423, R426, R428) -/

/-- What is stored under a key reads as unpredictable bytes from here on (R423). -/
def loseKey (s : State) (key : Nat) : State :=
  { s with mem := s.mem.loseKeys (· = key) s.free, free := s.free + 1 }

/-- PARTITION_ENABLE (R423): PCTL.ENABLE goes from 0 to 1, and a fresh key pair is drawn. -/
def execPartitionEnable (part : Nat) (s : State) : Host.Outcome State Fault Refusal := .next (loseKey s (part + 1))

/-- VF_ENABLE (R426): refused outside READY. -/
def execVfEnable (count : Nat) (s : State) : Host.Outcome State Fault Refusal :=
  .next (if s.dev = .ready then { s with vfs := min count 128 } else s)

/-- CXL_PORT_FAILURE (R428). -/
def execCxlPortFailure (port : Nat) (s : State) : Host.Outcome State Fault Refusal :=
  .next (if 2 ≤ port || s.cxlFailed.contains port then s else { s with cxlFailed := s.cxlFailed ++ [port] })

/-! ## The mailbox (R424, R425) -/

/-- Bytes of MBDATA. -/
def mbGet (s : State) (off n : Nat) : List Byte := sgetList 0 s.mbox.data off n

/-- A number in MBDATA. -/
def mbNum (s : State) (off n : Nat) : Nat := leNat (mbGet s off n)

/-- A command ends with a result, and bytes from the start of MBDATA. -/
def mbEnd (s : State) (result : Byte) (out : List Byte) : State :=
  { s with mbox := { busy := false, result := result, data := ssetList 0 s.mbox.data 0 out } }

/-- A command that the device refuses in its state (R415, R416). -/
def mbRefused (s : State) (ok : Bool) (f : State → State) : Host.Outcome State Fault Refusal := .next (if ok then f s else mbEnd s 2 [])

/-- DCREAD (R425). -/
def execDcread (s : State) : Host.Outcome State Fault Refusal :=
  mbRefused s (s.dev ≠ .frozen) fun s =>
    match regRead s none (mbNum s 0 4) with
    | some v => mbEnd s 0 (leBytes 4 v.toNat)
    | none => mbEnd s 3 []

/-- DCWRITE (R415, R425). -/
def execDcwrite (s : State) : Host.Outcome State Fault Refusal :=
  mbRefused s (s.dev ≠ .frozen && s.dev ≠ .safe) fun s =>
    match regWrite s none (mbNum s 0 4) (BitVec.ofNat 32 (mbNum s 4 4)) with
    | some s => mbEnd s 0 []
    | none => mbEnd s 3 []

/-- IDCERT (R424, R425): a chunk beyond the chain is a bad address. -/
def execIdcert (s : State) : Host.Outcome State Fault Refusal :=
  mbRefused s (s.dev ≠ .frozen) fun s =>
    let at_ := 256 * mbNum s 0 4
    if Config.certLen ≤ at_ then mbEnd s 3 []
    else mbEnd s 0 ((List.range 256).map fun i => if at_ + i < Config.certLen then Config.certByte (at_ + i) else 0)

/-- A word with bit p set where the partition has a bit of PCTL. -/
def partMask (s : State) (bit : Nat) : Nat := ((List.range 24).map fun p => if (dcGet s (0x00290008 + 0x10 * p)).getLsbD bit then 2 ^ p else 0).sum

/-- The report that QUOTE signs (R424). -/
def quoteBytes (s : State) : List Byte :=
  mbGet s 0 48 ++ beBytes 48 s.meas ++ leBytes 16 Config.serial.toNat ++ leBytes 4 s.svn.toNat ++ leBytes 4 (devStat s).toNat ++ leBytes 8 s.qcount.toNat ++
  leBytes 4 (partMask s 0) ++ leBytes 4 (partMask s 1) ++ List.replicate 24 0

/-- QUOTE (R424). -/
def execQuote (s : State) : Host.Outcome State Fault Refusal :=
  mbRefused s (s.dev ≠ .frozen) fun s =>
    let l := quoteBytes s
    let digest : BitVec 384 := (sha384 l).foldl (fun m b => (m <<< 8) ||| b.setWidth 384) 0
    mbEnd { s with qcount := s.qcount + 1 } 0 (l ++ beBytes 96 (Config.sign digest))

/-- FWSTAGE (R422, R425): the image takes effect at the next cold reset. -/
def execFwstage (s : State) : Host.Outcome State Fault Refusal :=
  mbRefused s (s.dev ≠ .frozen) fun s =>
    mbEnd { s with fwImage := some (BitVec.ofNat 64 (4096 * mbNum s 0 4), BitVec.ofNat 32 (mbNum s 4 4)) } 0 []

/-- SCANRD (R416, R425): FROZEN only. -/
def execScanrd (s : State) : Host.Outcome State Fault Refusal :=
  mbRefused s (s.dev = .frozen) fun s =>
    let chain := mbNum s 0 4
    let off := mbNum s 4 4
    mbEnd s 0 ((List.range 256).map fun i => BitVec.ofNat 8 ((List.range 8).map fun j => if Config.scanBit chain (off + 8 * i + j) then 2 ^ j else 0).sum)

/-- REGISTER_WRITE (R9, R10, R325, R425): a write to a register without behaviour of its own; other registers act as their entries say. The
address is one of device-control space, or names an offset in the host's register window of a context's function and LOCAL (R426). -/
def execRegisterWrite (addr val : BitVec 32) (s : State) : Host.Outcome State Fault Refusal :=
  .next (match windowOf addr.toNat with
    | some (x, o) => hostWrite s x o val
    | none => if s.dev = .frozen then s else (regWrite s none addr.toNat val).getD s)

end Sys2Proof.Machine
end

