-- ==== Sys2Proof/Machine/Segment.lean ====
section
/-! DEFINITION. Machine/Segment.lean: a code segment (R51), its words and pools (R49), and the checks 1 to 11 of the scanner
(R54). Words are named by their index: word i stands at byte offset 8 i of the segment. -/

namespace Sys2Proof.Machine

/-! ## The segment -/

/-- A segment: its words (the header's among them), and the header fields that the checks use (R51). -/
structure Seg where
  words : Array W64
  info : SegInfo
  bound : Nat
  loopMax : List Nat
  entries : List Nat

/-- The words that a run of bytes holds (R28). -/
def segWords : List Byte → List W64
  | a :: b :: c :: d :: e :: f :: g :: h :: l => wordOfBytes [a, b, c, d, e, f, g, h] :: segWords l
  | _ => []

/-- What a segment header says of registers, tiles and SERVICE (R51, R52). -/
def segInfo (l : List Byte) : SegInfo :=
  { named := field l 0x20 1, vnamed := field l 0x21 1, tiles := field l 0x22 1, owner := BitVec.ofNat 128 (field l 0x28 16), service := field l 6 2 % 2 = 1 }

/-- The segment that bytes hold. -/
def segOf (l : List Byte) : Seg :=
  { words := (segWords l).toArray, info := segInfo l, bound := field l 0x0C 4, loopMax := (List.range 8).map fun i => field l (0x70 + 4 * i) 4,
    entries := (List.range 4).map fun i => field l (0x10 + 4 * i) 4 }

/-- Words of a segment. -/
def Seg.size (g : Seg) : Nat := g.words.size
/-- Word i. -/
def Seg.at (g : Seg) (i : Nat) : W64 := g.words.getD i 0
/-- The first word after the header. -/
def firstWord : Nat := 18

/-- Pages of 64 KiB that `n` bytes from `va` touch (R58). -/
def pagesOf (va : W64) (n : Nat) : Nat := (va.toNat + n - 1) / 65536 - va.toNat / 65536 + 1

/-! ## Check 1 -/

/-- The header field out of its range, as an offset, lowest first; DIGEST is left (R51, R54, R58). -/
def headerBreaks (va : W64) (l : List Byte) : Option Nat :=
  let n := field l 8 4
  let entry (i : Nat) : Bool :=
    let e := field l (0x10 + 4 * i) 4
    e = 0xFFFFFFFF || (e % 8 = 0 && decide (0x90 ≤ e) && decide (e < n))
  if field l 0 4 ≠ 0x4B4C0009 then some 0
  else if field l 4 2 ≠ 1 then some 4
  else if 2 ≤ field l 6 2 then some 6
  else if n % 8 ≠ 0 || n < 0x98 || 504 < pagesOf va n then some 8
  else if field l 0x0C 4 = 0 || 2 ^ 24 < field l 0x0C 4 then some 0x0C
  else match (List.range 4).find? fun i => !entry i with
    | some i => some (0x10 + 4 * i)
    | none =>
      if 8 < field l 0x20 1 then some 0x20
      else if 8 < field l 0x21 1 then some 0x21
      else if 16 < field l 0x22 1 then some 0x22
      else if field l 0x23 5 ≠ 0 then some 0x23
      else if field l 0x38 8 ≠ 0 then some 0x38
      else ((List.range 8).find? fun i => decide (2 ^ 24 < field l (0x70 + 4 * i) 4)).map fun i => 0x70 + 4 * i

/-- DIGEST is the SHA-384 of the segment with the field itself zero (R51). -/
def digestOk (l : List Byte) : Bool :=
  decide (sha384 (l.take 0x40 ++ List.replicate 48 0 ++ l.drop 0x70) = (l.drop 0x40).take 48)

/-! ## Pools (R49) and control flow -/

/-- A word with the opcode of `pool`. -/
def isPoolWord (w : W64) : Bool := w.extractLsb' 40 8 = 7
/-- LENGTH of a `pool` word. -/
def poolLen (w : W64) : Nat := (w.extractLsb' 0 25).toNat
/-- TABLE of a `pool` word. -/
def poolTable (w : W64) : Bool := w.getLsbD 25

/-- The word after the body of the pool at a, no further than the segment's end. -/
def Seg.poolEnd (g : Seg) (a : Nat) : Nat :=
  let n := poolLen (g.at a)
  if n < 1 || 4096 < n then a + 1 else min (a + 1 + n) g.size

/-- How a word goes on (R54, R108, R117, R118): at its next address, nowhere, at a branch target, into a routine, out of one,
or through a target table. Offsets count words. -/
inductive Flow where
  | seq
  | ends
  | ret
  | branch (off : Int) (always : Bool)
  | call (off : Int) (always : Bool)
  | table (off : Int)
  deriving DecidableEq, Repr

/-- The flow of a word in a stream. -/
def flowOf (st : StreamId) (w : W64) : Flow :=
  match decode st w with
  | .ok (.stop ..) => .ends
  | .ok (.trap ..) => .ends
  | .ok (.ret ..) => .ret
  | .ok (.br _ _ o) => .branch o.off.toInt (o.p = 0 && o.n = 0)
  | .ok (.call _ o) => .call o.off.toInt (o.p = 0 && o.n = 0)
  | .ok (.jmp _ o) => .table o.imm.toInt
  | .ok (.swt _ o) => .table o.imm.toInt
  | _ => .seq

/-- Word i plus an offset, if it is a word of the segment after the header. -/
def Seg.rel (g : Seg) (i : Nat) (off : Int) : Option Nat :=
  let t := (i : Int) + off
  if (firstWord : Int) ≤ t && t < (g.size : Int) then some t.toNat else none

/-- The head of the target table whose first entry a word names (R50, R118). -/
def Seg.tableAt (g : Seg) (i : Nat) (off : Int) : Option Nat :=
  match g.rel i (off - 1) with
  | some h => if isPoolWord (g.at h) && poolTable (g.at h) && decide (h + 1 < g.size) then some h else none
  | none => none

/-- The targets of a table's entries, each with its entry (R49); none outside the segment. -/
def Seg.tableTargets (g : Seg) (h : Nat) : List (Nat × Option Nat) :=
  (List.range (g.poolEnd h - (h + 1))).map fun k => (h + 1 + k, g.rel (h + 1 + k) ((g.at (h + 1 + k)).extractLsb' 0 32).toInt)

/-- The word goes on at its next address (R54). -/
def Flow.goesOn : Flow → Bool
  | .seq | .call .. => true
  | .branch _ always => !always
  | _ => false

/-- The targets of a word besides its next address. -/
def Seg.targets (g : Seg) (st : StreamId) (i : Nat) : List Nat :=
  match flowOf st (g.at i) with
  | .branch off _ | .call off _ => (g.rel i off).toList
  | .table off => (match g.tableAt i off with
    | some h => (g.tableTargets h).filterMap fun e => e.2
    | none => [])
  | _ => []

/-! ## Reachability (R49, check 2) -/

/-- What a stream's walk has found: instruction words, and pools reached as a next address. -/
structure Reach where
  inst : List Nat
  pools : List Nat
  deriving DecidableEq, Repr

/-- The walk of one stream; an item is a word and whether it is reached as a next address or an entry. A branch into a pool is not followed: it
fails check 9, and the pool counts as reached only as a next address (DESIGN CHOICE, assumption 63). -/
def reachFrom (g : Seg) (st : StreamId) : Nat → List (Nat × Bool) → Reach → Reach
  | 0, _, r => r
  | _, [], r => r
  | k + 1, (a, sq) :: l, r =>
    if g.size ≤ a || r.inst.contains a then reachFrom g st k l r
    else if isPoolWord (g.at a) then
      if !sq || r.pools.contains a then reachFrom g st k l r
      else reachFrom g st k ((g.poolEnd a, true) :: l) { r with pools := a :: r.pools }
    else
      let next := if (flowOf st (g.at a)).goesOn then [(a + 1, true)] else []
      reachFrom g st k (next ++ (g.targets st a).map (fun t => (t, false)) ++ l) { r with inst := a :: r.inst }

/-- What a stream reaches from its entry (R51). -/
def Seg.reach (g : Seg) (st : StreamId) : Reach :=
  let e := g.entries.getD (streamNo st) 0xFFFFFFFF
  if e = 0xFFFFFFFF then { inst := [], pools := [] }
  else reachFrom g st ((g.size + 1) * (g.size + 4)) [(e / 8, true)] { inst := [], pools := [] }

/-- The four streams. -/
def allStreams : List StreamId := [.S, .V, .A, .X]

/-- A pool: its head, the word after its body, whether a stream reaches it, and its stream (R49). -/
structure PoolAt where
  head : Nat
  stop : Nat
  reached : Bool
  owner : Option StreamId
  deriving DecidableEq, Repr

/-- The layout of a segment: its pools and its instruction words in address order, and the words that fail check 2. -/
structure Layout where
  pools : List PoolAt
  inst : List (Nat × StreamId)
  bad : List Nat
  deriving DecidableEq, Repr

/-- The layout from word a on (R49, check 2); `last` is the stream of the nearest instruction word below. -/
def layoutFrom (g : Seg) (rs : List (StreamId × Reach)) : Nat → Nat → Option StreamId → Layout → Layout
  | 0, _, _, y => y
  | k + 1, a, last, y =>
    if g.size ≤ a then y
    else
      let who := (rs.filter fun r => r.2.inst.contains a).map fun r => r.1
      let via := (rs.filter fun r => r.2.pools.contains a).map fun r => r.1
      if via ≠ [] || (who = [] && isPoolWord (g.at a)) then
        let owner : Option StreamId := match via with | [] => last | [st] => some st | _ => none
        let p : PoolAt := { head := a, stop := g.poolEnd a, reached := decide (via ≠ []), owner := owner }
        layoutFrom g rs k p.stop last { y with pools := y.pools ++ [p], bad := if owner.isNone then y.bad ++ [a] else y.bad }
      else match who with
        | [st] => layoutFrom g rs k (a + 1) (some st) { y with inst := y.inst ++ [(a, st)] }
        | [] => layoutFrom g rs k (a + 1) last { y with bad := y.bad ++ [a] }
        | st :: _ => layoutFrom g rs k (a + 1) (some st) { y with bad := y.bad ++ [a] }

/-- The layout of a segment. -/
def Seg.layout (g : Seg) : Layout :=
  layoutFrom g (allStreams.map fun st => (st, g.reach st)) g.size firstWord none { pools := [], inst := [], bad := [] }

/-- Word t is an instruction word of a stream. -/
def Layout.isInst (y : Layout) (st : StreamId) (t : Nat) : Bool := y.inst.contains (t, st)

/-- The pool whose body holds word t. -/
def Layout.poolWith (y : Layout) (t : Nat) : Option PoolAt := y.pools.find? fun p => decide (p.head < t) && decide (t < p.stop)

/-! ## Checks 3 to 11 (R54) -/

/-- Check 3: the words whose opcode is unassigned. -/
def fails3 (g : Seg) (y : Layout) : List Nat :=
  (y.inst.filter fun e => match decode e.2 (g.at e.1) with | .ok _ => false | .error _ => true).map fun e => e.1

/-- Checks 4, 5, 6, 7, 8 and 11 of the instruction words. -/
def failsWord (g : Seg) (y : Layout) (chk : Nat) : List Nat :=
  (y.inst.filter fun e => match decode e.2 (g.at e.1) with | .ok i => !wordPasses g.info i chk | .error _ => false).map fun e => e.1

/-- Check 4 of the pools (R43, R49): IDLE, POP, PUSH and the unused fields of `pool`, and the upper halves of table entries. -/
def fails4 (g : Seg) (y : Layout) : List Nat :=
  y.pools.flatMap fun p =>
    let w := g.at p.head
    (if w.extractLsb' 48 16 = 0 && w.extractLsb' 26 14 = 0 then [] else [p.head]) ++
    (if poolTable w then (List.range (p.stop - (p.head + 1))).filterMap fun k =>
      if (g.at (p.head + 1 + k)).extractLsb' 32 32 = 0 then none else some (p.head + 1 + k) else [])

/-- The pools whose LENGTH is not 1 to 4,096; the table of R54 names no check for them, and the model reports check 5 (DESIGN CHOICE, assumption
63). -/
def fails5 (g : Seg) (y : Layout) : List Nat :=
  (y.pools.filter fun p => let n := poolLen (g.at p.head); decide (n < 1) || decide (4096 < n)).map fun p => p.head

/-- Check 9 of one instruction word: its next address, its targets, its table, its literal (R50, R54, R118). -/
def fails9 (g : Seg) (y : Layout) (a : Nat) (st : StreamId) : Bool :=
  let f := flowOf st (g.at a)
  (f.goesOn && decide (g.size ≤ a + 1)) ||
  (match f with
    | .branch off _ | .call off _ => (match g.rel a off with
      | some t => !y.isInst st t
      | none => true)
    | .table off => (match g.tableAt a off with
      | some h => !y.pools.any fun p => p.head = h && p.owner = some st
      | none => true)
    | _ => false) ||
  (match decode st (g.at a) with
    | .ok (.ldlit _ _ o) => (match g.rel a o.imm.toInt with
      | some t => (match y.poolWith t with
        | some p => p.owner ≠ some st || poolTable (g.at p.head)
        | none => true)
      | none => true)
    | _ => false)

/-- Check 9 of one pool: its body lies in the segment, a reached pool is followed by a word, and the entries of a table name
instruction words of its stream. -/
def poolFails9 (g : Seg) (y : Layout) (p : PoolAt) : List Nat :=
  let w := g.at p.head
  let n := poolLen w
  (if (decide (1 ≤ n) && decide (n ≤ 4096) && decide (g.size < p.head + 1 + n)) || (p.reached && decide (g.size ≤ p.stop)) then [p.head] else []) ++
  (if poolTable w then (g.tableTargets p.head).filterMap fun e =>
    match e.2, p.owner with
    | some t, some st => if y.isInst st t then none else some e.1
    | _, _ => some e.1
  else [])

/-- A hardware loop (R105): the words `loop` and `endl`, the level, and the iterations it makes at most and at least. -/
structure HwLoop where
  head : Nat
  tail : Nat
  level : Nat
  most : Nat
  least : Nat
  deriving DecidableEq, Repr

/-- The most and the least iterations of a `loop` word (R55): exact for a constant, LOOPMAX for a register, queue or loop-table count. A constant
above LOOPMAX faults before the loop is entered (R105), so no path goes past that word. -/
def loopTrips (g : Seg) (st : StreamId) (o : FL) : Nat × Nat :=
  let most := g.loopMax.getD o.level.toNat 0
  let exact (n : Nat) : Nat × Nat := if n ≤ most then (n, n) else (0, 1)
  match immOf o.count with
  | some i => exact (BitVec.ofInt 32 i).toNat
  | none =>
    if o.count = 0b1011001 then exact 1
    else if o.count = 0b1011010 then exact (if st = .V then 0 else streamNo st)
    else if o.count = 0b1011011 then exact (2 ^ 32 - 1)
    else (most, 0)

/-- Check 10 of one stream, in address order: the failing words and the loops; `open_` lists the loops begun, innermost first. -/
def loopsFrom (g : Seg) (st : StreamId) : List Nat → List (Nat × FL) → List Nat × List HwLoop → List Nat × List HwLoop
  | [], open_, r => (r.1 ++ open_.map fun e => e.1, r.2)
  | a :: l, open_, r =>
    match decode st (g.at a) with
    | .ok (.loop _ _ o) =>
      let bad := decide (8 ≤ open_.length) || g.loopMax.getD o.level.toNat 0 = 0
      loopsFrom g st l ((a, o) :: open_) (if bad then r.1 ++ [a] else r.1, r.2)
    | .ok (.endl _ _ o) =>
      (match open_ with
      | (b, f) :: rest =>
        if f.level = o.level then
          let (most, least) := loopTrips g st f
          loopsFrom g st l rest (r.1, r.2 ++ [{ head := b, tail := a, level := o.level.toNat, most := most, least := least }])
        else loopsFrom g st l open_ (r.1 ++ [a], r.2)
      | [] => loopsFrom g st l open_ (r.1 ++ [a], r.2))
    | _ => loopsFrom g st l open_ r

/-- The instruction words of a stream, in address order. -/
def Layout.words (y : Layout) (st : StreamId) : List Nat := (y.inst.filter fun e => e.2 = st).map fun e => e.1

/-- The loops of a stream, and the words that fail check 10. -/
def Seg.loops (g : Seg) (y : Layout) (st : StreamId) : List Nat × List HwLoop := loopsFrom g st (y.words st) [] ([], [])

/-- The words that fail a check from 2 to 11. -/
def failsOf (g : Seg) (y : Layout) (chk : Nat) : List Nat :=
  match chk with
  | 2 => y.bad
  | 3 => fails3 g y
  | 4 => fails4 g y ++ failsWord g y 4
  | 5 => fails5 g y ++ failsWord g y 5
  | 9 => ((y.inst.filter fun e => fails9 g y e.1 e.2).map fun e => e.1) ++ y.pools.flatMap (poolFails9 g y)
  | 10 => allStreams.flatMap fun st => (g.loops y st).1
  | _ => failsWord g y chk

/-- The least of a list of numbers. -/
def leastOf : List Nat → Option Nat
  | [] => none
  | a :: l => some (l.foldl min a)

/-- The first of the checks 2 to 11 that fails, with the lowest failing word's offset. -/
def firstFail (g : Seg) (y : Layout) : Option (Nat × Nat) :=
  [2, 3, 4, 5, 6, 7, 8, 9, 10, 11].findSome? fun chk => (leastOf (failsOf g y chk)).map fun a => (chk, 8 * a)

end Sys2Proof.Machine
end

