-- ==== Sys2Proof/Machine/ScanPath.lean ====
section
/-! DEFINITION. Machine/ScanPath.lean: the scanner's checks 12 and 13 (R54, R55): cycles without a yield check, and the longest path between
yield checks. They are applied to a segment that has passed the checks 2 to 11. -/

namespace Sys2Proof.Machine

/-! ## Lengths -/

/-- A length: the longest run, and the longest run among those that hold one chosen word. -/
structure Len where
  any : Nat
  withW : Option Nat
  deriving DecidableEq, Repr

/-- The larger of two runs that may be absent. -/
def maxOpt (a b : Option Nat) : Option Nat :=
  match a, b with
  | some x, some y => some (max x y)
  | some x, none => some x
  | none, y => y

/-- One run after another. -/
def Len.cat (a b : Len) : Len :=
  { any := a.any + b.any, withW := maxOpt (a.withW.map fun x => x + b.any) (b.withW.map fun x => a.any + x) }

/-- The best of two runs. -/
def Len.best (a b : Len) : Len := { any := max a.any b.any, withW := maxOpt a.withW b.withW }

/-- n runs one after another. -/
def Len.rep (n : Nat) (a : Len) : Len :=
  { any := n * a.any, withW := if n = 0 then none else a.withW.map fun x => (n - 1) * a.any + x }

/-- Nothing. -/
def Len.zero : Len := { any := 0, withW := none }

/-- The best of two runs that may be absent. -/
def bestOpt (a b : Option Len) : Option Len :=
  match a, b with
  | some x, some y => some (x.best y)
  | some x, none => some x
  | none, y => y

/-! ## One stream's words -/

/-- A stream of a segment as checks 12 and 13 see it: its words, its pools and its loops. -/
structure Prog where
  seg : Seg
  st : StreamId
  words : List Nat
  pools : List PoolAt
  loops : List HwLoop

/-- The stream of a segment. -/
def progOf (g : Seg) (y : Layout) (st : StreamId) : Prog :=
  { seg := g, st := st, words := y.words st, pools := y.pools, loops := (g.loops y st).2 }

/-- The word after any pools that stand at a (R49). -/
def Prog.skip (p : Prog) (a : Nat) : Nat := p.pools.foldl (fun a q => if q.head = a then q.stop else a) a

/-- The next word of a word. -/
def Prog.next (p : Prog) (a : Nat) : Nat := p.skip (a + 1)

/-- The flow of a word. -/
def Prog.flow (p : Prog) (a : Nat) : Flow := flowOf p.st (p.seg.at a)

/-- A yield check: `stop`, `owait` and `barwait` (R55). -/
def Prog.yields (p : Prog) (a : Nat) : Bool :=
  match decode p.st (p.seg.at a) with
  | .ok (.stop ..) | .ok (.owait ..) | .ok (.barwait ..) => true
  | _ => false

/-- A word's clocks (R55). -/
def Prog.cost (p : Prog) (a : Nat) : Nat := if p.st = .A then 1 else (hdrOf (p.seg.at a)).idle.toNat + 1

/-- The loop that begins at a word. -/
def Prog.loopAt (p : Prog) (a : Nat) : Option HwLoop := p.loops.find? fun l => l.head = a
/-- The loop that ends at a word. -/
def Prog.endlAt (p : Prog) (a : Nat) : Option HwLoop := p.loops.find? fun l => l.tail = a

/-- The routine that a `call` names. -/
def Prog.callee (p : Prog) (a : Nat) : Option (Nat × Bool) :=
  match p.flow a with
  | .call off always => (p.seg.rel a off).map fun t => (t, always)
  | _ => none

/-- The words that can follow a word within its routine, without the way back of `endl` and past a call: a `call` is followed by its next
word where it need not be taken. -/
def Prog.plain (p : Prog) (a : Nat) : List Nat :=
  match p.flow a with
  | .seq =>
    (match p.loopAt a with
    | some l => (if 0 < l.most then [p.next a] else []) ++ (if l.least = 0 then [p.next l.tail] else [])
    | none => [p.next a])
  | .branch _ always => (if always then [] else [p.next a]) ++ p.seg.targets p.st a
  | .call _ always => if always then [] else [p.next a]
  | .table _ => p.seg.targets p.st a
  | _ => []

/-! ## Check 12 -/

/-- The words that a relation reaches from a list of words, the list among them. -/
def closure (succ : Nat → List Nat) : Nat → List Nat → List Nat → List Nat
  | 0, _, seen => seen
  | _, [], seen => seen
  | k + 1, a :: l, seen => if seen.contains a then closure succ k l seen else closure succ k (succ a ++ l) (a :: seen)

/-- Fuel for a closure over the stream's words. -/
def Prog.fuel (p : Prog) : Nat := (p.seg.size + 2) * (p.seg.size + 4)

/-- The routines that a `ret` can end without a yield check on the way, found in rounds; `known` are those found before. -/
def Prog.returning (p : Prog) : Nat → List Nat → List Nat
  | 0, known => known
  | k + 1, known =>
    let succ (a : Nat) : List Nat :=
      if p.yields a then [] else p.plain a ++ (match p.callee a with | some (t, _) => if known.contains t then [p.next a] else [] | none => [])
    let found := ((p.words.filterMap p.callee).map fun e => e.1).eraseDups.filter fun t =>
      (closure succ p.fuel [t] []).any fun a => p.flow a = .ret && !p.yields a
    if found = known then known else p.returning k found

/-- The words that can follow a word within its routine with no yield check between them. -/
def Prog.steps (p : Prog) (rets : List Nat) (a : Nat) : List Nat :=
  if p.yields a then []
  else (p.plain a ++ (match p.callee a with | some (t, _) => if rets.contains t then [p.next a] else [] | none => [])).filter fun t => !p.yields t

/-- The same with the way into a called routine. -/
def Prog.stepsIn (p : Prog) (rets : List Nat) (a : Nat) : List Nat :=
  p.steps rets a ++ (match p.callee a with | some (t, _) => if p.yields a || p.yields t then [] else [t] | none => [])

/-- Word b can be reached from word a in at least one step. -/
def follows (p : Prog) (succ : Nat → List Nat) (a b : Nat) : Bool := (closure succ p.fuel (succ a) []).contains b

/-- The words that a routine passes on its way to `ret` without a yield check, its own calls' words among them. -/
def Prog.routineWords (p : Prog) (rets : List Nat) (t : Nat) : List Nat :=
  let from_ := closure (p.stepsIn rets) p.fuel [t] []
  from_.filter fun a => (closure (p.steps rets) p.fuel [a] []).any fun b => p.flow b = .ret

/-- Check 12 of one stream: the words of a cycle without a yield check that is no hardware loop, or of a recursive call chain without
one; a routine passed inside a cycle belongs to it. -/
def Prog.fails12 (p : Prog) : List Nat :=
  let rets := p.returning (p.words.length + 1) []
  let cyc := p.words.filter fun a => follows p (p.stepsIn rets) a a
  let inner := cyc.filter fun a => match p.callee a with
    | some (t, _) => rets.contains t && (closure (p.stepsIn rets) p.fuel [p.next a] []).contains a
    | none => false
  cyc ++ inner.flatMap fun a => match p.callee a with | some (t, _) => p.routineWords rets t | none => []

/-! ## Check 13 -/

/-- A place of a path: the word, the loops whose `endl` ends the path (the last iteration has begun), and whether a `ret` goes on to the
words after the calls. -/
structure Place where
  word : Nat
  dead : List Nat
  up : Bool
  deriving DecidableEq, Repr

/-- What is known of whole bodies and whole routines: their longest run without a yield check. -/
structure Known where
  bodies : List (Nat × Option Len)
  routines : List (Nat × Option Len)

/-- The body of the loop that ends at word e. -/
def Known.body (k : Known) (e : Nat) : Option Len := (k.bodies.find? fun b => b.1 = e).bind fun b => b.2
/-- The routine at word t. -/
def Known.routine (k : Known) (t : Nat) : Option Len := (k.routines.find? fun b => b.1 = t).bind fun b => b.2

/-- The words from which the `endl` of a loop is reached without passing its `loop`. -/
def Prog.bodyWords (p : Prog) (l : HwLoop) : List Nat :=
  let succ (a : Nat) : List Nat := if a = l.head then [] else
    p.plain a ++ (match p.callee a with | some _ => [p.next a] | none => []) ++ (match p.endlAt a with | some m => if m.tail = l.tail then [] else [p.next m.head] | none => [])
  p.words.filter fun a => a ≠ l.head && (closure succ p.fuel [a] []).contains l.tail

/-- The routines and the words from which each `ret` is reached: the words after the calls that a `ret` may go on to. -/
def Prog.afterRet (p : Prog) (r : Nat) : List Nat :=
  let succ (a : Nat) : List Nat := p.plain a ++ (match p.callee a with | some _ => [p.next a] | none => []) ++
    (match p.endlAt a with | some l => [p.next l.head] | none => [])
  p.words.filterMap fun c => match p.callee c with
    | some (t, _) => if (closure succ p.fuel [t] []).contains r then some (p.next c) else none
    | none => none

/-- What a path search looks for: the end of the path at a yield check, or arrival at a word, or a `ret` of the routine. -/
inductive Goal where
  | yield
  | word (a : Nat)
  | ret
  deriving DecidableEq, Repr

/-- The edges of a place: what the run gains before the next place. -/
def Prog.edges (p : Prog) (k : Known) (goal : Goal) (bodies : List (Nat × List Nat)) (x : Place) : List (Len × Place) :=
  let at_ (t : Nat) (dead : List Nat) : Place :=
    { word := t, dead := dead.filter fun e => (bodies.any fun b => b.1 = e && b.2.contains t), up := x.up }
  let go (t : Nat) : Len × Place := (Len.zero, at_ t x.dead)
  let a := x.word
  (match p.endlAt a with
    | some l =>
      if x.dead.contains a then []
      else
        let again (n : Nat) : Option Len := if n = 0 then some .zero else (k.body a).map fun b => b.rep n
        let exit_ : List (Len × Place) := [((again (l.most - 1)).getD .zero, at_ (p.next a) x.dead)]
        let last := if l.most < 2 then [] else
          [((again (l.most - 2)).getD .zero, at_ (p.next l.head) (a :: x.dead.filter fun e => !decide (l.head < e && e < a)))]
        exit_ ++ last
    | none => (p.plain a).map go) ++
  (match p.callee a with
    | some (t, _) =>
      (match k.routine t with | some r => [(r, at_ (p.next a) x.dead)] | none => []) ++
      [(Len.zero, { word := t, dead := [], up := false })]
    | none => []) ++
  (if p.flow a = .ret && x.up && goal ≠ .ret then (p.afterRet a).map fun t => (Len.zero, { word := t, dead := [], up := true }) else [])

/-- The longest run from a place to the goal, with what has been found of other places; `first` marks the word that begins the path, which
may itself be a yield check. `w` is the chosen word. -/
def Prog.search (p : Prog) (k : Known) (w : Option Nat) (goal : Goal) (bodies : List (Nat × List Nat)) :
    Nat → Bool → Place → List (Place × Option Len) → Option Len × List (Place × Option Len)
  | 0, _, _, memo => (none, memo)
  | n + 1, first, x, memo =>
    match (if first then none else memo.find? fun m => m.1 = x) with
    | some m => (m.2, memo)
    | none =>
      if p.yields x.word && !first then
        let r : Option Len := if goal = Goal.yield then some { any := 0, withW := if w = some x.word then some 0 else none } else none
        (r, (x, r) :: memo)
      else
        let c := p.cost x.word
        let here : Len := { any := c, withW := if w = some x.word then some c else none }
        let arrived : Bool := match goal with
          | .word a => decide (x.word = a)
          | .ret => p.flow x.word = Flow.ret && x.up
          | .yield => false
        if arrived then (some here, (x, some here) :: memo)
        else
          let step (acc : Option Len × List (Place × Option Len)) (e : Len × Place) : Option Len × List (Place × Option Len) :=
            let (r, memo) := p.search k w goal bodies n false e.2 acc.2
            (bestOpt acc.1 (r.map fun v => e.1.cat v), memo)
          let es := p.edges k goal bodies x
          let (r, memo) := es.foldl step (none, memo)
          let r := if goal = Goal.yield && es.isEmpty then some Len.zero else r
          let r := r.map fun v => here.cat v
          (r, if first then memo else (x, r) :: memo)

/-- Places of a stream: a bound on the length of a search without repetition. -/
def Prog.depth (p : Prog) : Nat := 2 * (p.words.length + 1) * (2 ^ min p.loops.length 8) + 2

/-- One round: the longest runs of whole bodies and whole routines from what is known of the others. -/
def Prog.round (p : Prog) (w : Option Nat) (bodies : List (Nat × List Nat)) (k : Known) : Known :=
  { bodies := p.loops.map fun l =>
      let around := (p.loops.filter fun m => decide (m.head < l.head && l.tail < m.tail)).map fun m => m.tail
      (l.tail, (p.search k w (.word l.tail) bodies p.depth false { word := p.next l.head, dead := around, up := false } []).1)
    routines := ((p.words.filterMap p.callee).map fun e => e.1).eraseDups.map fun t =>
      (t, (p.search k w .ret bodies p.depth false { word := t, dead := [], up := true } []).1) }

/-- The rounds until nothing changes. -/
def Prog.rounds (p : Prog) (w : Option Nat) (bodies : List (Nat × List Nat)) : Nat → Known → Known
  | 0, k => k
  | n + 1, k =>
    let k' := p.round w bodies k
    if k'.bodies = k.bodies && k'.routines = k.routines then k else p.rounds w bodies n k'

/-- The longest path of a stream between yield checks, any and through a chosen word (R55): from its entry, and from every yield check that goes
on. -/
def Prog.longest (p : Prog) (w : Option Nat) : Len :=
  let bodies := p.loops.map fun l => (l.tail, p.bodyWords l)
  let k := p.rounds w bodies (p.words.length + 2) { bodies := [], routines := [] }
  let e := p.skip (p.seg.entries.getD (streamNo p.st) 0 / 8)
  let run (first : Bool) (x : Place) : Len := ((p.search k w .yield bodies p.depth first x []).1).getD .zero
  let starts := p.words.filter fun a => p.yields a && (p.flow a).goesOn
  (starts.map fun a => run true { word := a, dead := [], up := true }).foldl Len.best
    (if p.words = [] then .zero else run false { word := e, dead := [], up := false })

/-- Check 13 of one stream: the words on a path longer than CYCLE_BOUND. -/
def Prog.fails13 (p : Prog) : List Nat :=
  if (p.longest none).any ≤ p.seg.bound then []
  else match p.words.find? fun a => ((p.longest (some a)).withW).any fun n => decide (p.seg.bound < n) with
    | some a => [a]
    | none => p.words.take 1

/-! ## The scan -/

/-- The first check of R54 after check 1 that a segment fails, with the offset that SCANOFF gives. -/
def scanFails (g : Seg) : Option (Nat × Nat) :=
  let y := g.layout
  match firstFail g y with
  | some r => some r
  | none =>
    match leastOf (allStreams.flatMap fun st => (progOf g y st).fails12) with
    | some a => some (12, 8 * a)
    | none => (leastOf (allStreams.flatMap fun st => (progOf g y st).fails13)).map fun a => (13, 8 * a)

end Sys2Proof.Machine
end

