-- ==== Sys2Proof/Machine/Scan.lean ====
section
/-! DEFINITION. Machine/Scan.lean: the scanner's commands (R53, R58): ADMIT, WITHDRAW and WITHDRAW_ALL. -/

namespace Sys2Proof.Machine

/-- The scanner's own accesses wait in the device's buffer under this context (assumption 15). -/
def scanCtx : Nat := 4097

/-- What the scanner finds at a page of the segment (R58). -/
inductive ScanPage where
  | ok (frame : W64)
  | wait
  | refused
  | error
  deriving DecidableEq, Repr

/-- The page that holds `va`. A read of the header (step 1 of ADMIT) asks for RD first, as every access does. A page of code is translated
first, absent and remote pages replaying (step 3), and only then is its leaf judged: RD, EXEC and no W (step 4). -/
def scanPage (s : State) (fn : Nat) (code : Bool) (va : W64) : ScanPage :=
  match walk s fn va with
  | .bad c => if c = cUNMAPPED then .refused else .error
  | .leaf _ e =>
    if !code && !permits e .rd false then .refused
    else if eState e = sABSENT || eState e = sMIGR || eState e = sREMOTE || touchMoves s fn e then .wait
    else if !permits e .rd false || (code && (!eExec e || eW e)) then .refused
    else .ok (BitVec.ofNat 64 ((eFrame e + va.toNat % 2 ^ pageBits e) / 65536 * 65536))

/-- The command in progress ends. -/
def scanEnd (s : State) (result : Byte) (check off : Nat) : State :=
  let b : ScanBlock := { s.scan with busy := false, result := result, check := BitVec.ofNat 4 check, off := BitVec.ofNat 32 off }
  { dropOpEntry s scanCtx 0 with scan := b }

/-- The bases of a segment's pages (R58). -/
def segPages (va : W64) (n : Nat) : List W64 :=
  (List.range (pagesOf va n)).map fun i => BitVec.ofNat 64 ((va.toNat / 65536 + i) * 65536)

/-- The pages of a list: every page is translated before any is refused, the lowest refused page is the one reported (R58). The state in which
the command waits or has ended, or the frames. -/
def scanPages (s : State) (fn : Nat) (code : Bool) (va : W64) (pages : List W64) : Except State (List W64) :=
  match pages.find? fun p => scanPage s fn code p = .wait || scanPage s fn code p = .error with
  | some p =>
    if scanPage s fn code p = .wait then .error (enterFault s devCore .S (some (scanCtx, 0)) fn p false)
    else .error (scanEnd s 5 0 (p.toNat - va.toNat))
  | none =>
    match pages.find? fun p => scanPage s fn code p = .refused with
    | some p => .error (scanEnd s 2 0 (p.toNat - va.toNat))
    | none => .ok (pages.filterMap fun p => match scanPage s fn code p with | .ok f => some f | _ => none)

/-- The records of a function (R58). -/
def scanRecords (s : State) (fn : Nat) : List (Option Admission) := sget [] s.admitted fn

/-- SCANTAB of a function. -/
def scanTab (s : State) (fn : Nat) : W64 := dcGet64 s (0x002D0100 + 8 * fnIdx fn)

/-- The record in which a segment is entered: the VALID one with its SEGVA, else the first that is not VALID (R58). -/
def scanSlot (l : List (Option Admission)) (va : W64) : Option Nat :=
  match (l.findIdx? fun r => match r with | some a => a.va = va | none => false) with
  | some i => some i
  | none => match l.findIdx? fun r => r.isNone with
    | some i => some i
    | none => if l.length < 1024 then some l.length else none

/-- The image of a record (R58). -/
def admissionBytes (a : Admission) : List Byte :=
  leBytes 8 a.va.toNat ++ leBytes 4 a.length.toNat ++ [1, 0, 0, 0] ++ List.replicate 48 0 ++ a.frames.flatMap fun f => leBytes 8 f.toNat

/-- Entering a record, with its image in the table. -/
def scanEnter (s : State) (fn i : Nat) (a : Admission) : State :=
  let l := scanRecords s fn
  let l' := if i < l.length then l.set i (some a) else l ++ [some a]
  { s.paStore ((scanTab s fn).toNat + 4096 * i) (admissionBytes a) with admitted := sput s.admitted fn l' }

/-- ADMIT (R53, R54, R58). -/
def execScanAdmit (fn : Nat) (s : State) : Host.Outcome State Fault Refusal :=
  .next (
    if !s.scan.busy then s
    else
      let va := s.scan.va
      match opEntry s devCore scanCtx 0 with
      | some f => if f.failed.isSome then scanEnd s 2 0 (f.va.toNat / 65536 * 65536 - va.toNat) else s
      | none =>
        match scanPages s fn false va (segPages va 0x90) with
        | .error s => s
        | .ok _ =>
          match readVa s .device fn va 0x90 with
          | .wait _ => s
          | .bad _ a => scanEnd s 5 0 (a.toNat / 16 * 16 - va.toNat)
          | .ok h =>
            match headerBreaks va h with
            | some off => scanEnd s 1 1 off
            | none =>
              let n := field h 8 4
              match scanPages s fn true va (segPages va n) with
              | .error s => s
              | .ok frames =>
                match readVa s .device fn va n with
                | .wait _ => s
                | .bad _ a => scanEnd s 5 0 (a.toNat / 16 * 16 - va.toNat)
                | .ok l =>
                  if !digestOk l then scanEnd s 1 1 0x40
                  else match scanFails (segOf l) with
                    | some (c, off) => scanEnd s 1 c off
                    | none =>
                      if scanTab s fn = 0 then scanEnd s 3 0 0
                      else match scanSlot (scanRecords s fn) va with
                        | none => scanEnd s 3 0 0
                        | some i => scanEnd (scanEnter s fn i { va := va, length := BitVec.ofNat 32 n, frames := frames }) 0 0 0)

/-- The record's VALID bit is cleared, in the device and in the image: of the 4 KiB image only the CTL word becomes zero, SEGVA, LENGTH and the
FRAME entries stay (DESIGN CHOICE: R58 does not say what a cleared record's image holds, assumption 64). -/
def scanClear (s : State) (fn i : Nat) : State :=
  let s := if scanTab s fn = 0 then s else s.paStore ((scanTab s fn).toNat + 4096 * i + 0x0C) [0, 0, 0, 0]
  { s with admitted := sput s.admitted fn ((scanRecords s fn).set i none) }

/-- WITHDRAW (R58). -/
def execWithdraw (fn : Nat) (s : State) : Host.Outcome State Fault Refusal :=
  .next (
    if !s.scan.busy then s
    else match ((scanRecords s fn).findIdx? fun r => match r with | some a => a.va = s.scan.va | none => false) with
      | none => scanEnd s 4 0 0
      | some i => scanEnd (scanClear s fn i) 0 0 0)

/-- WITHDRAW_ALL (R58). -/
def execWithdrawAll (fn : Nat) (s : State) : Host.Outcome State Fault Refusal :=
  .next (
    if !s.scan.busy then s
    else
      let l := scanRecords s fn
      let s := ((List.range l.length).filter fun i => ((l.getD i none).isSome)).foldl (fun s i => scanClear s fn i) s
      scanEnd { s with admitted := sdel s.admitted fn } 0 0 0)

end Sys2Proof.Machine
end

