-- ==== Sys2Proof/Machine/Dispatch.lean ====
section
/-! DEFINITION. Machine/Dispatch.lean: one arm per constructor of Instr, each one direct call of its meaning. -/

namespace Sys2Proof.Machine

/-- The meaning of every instruction. -/
def exec (i : Instr) (s : State) : Host.Outcome State Fault Refusal :=
  match i with
  | .nop st h o => Sys2Proof.Machine.execNop st h o s
  | .align st h o => Sys2Proof.Machine.execAlign st h o s
  | .stop st h o => Sys2Proof.Machine.execStop st h o s
  | .loop st h o => Sys2Proof.Machine.execLoop st h o s
  | .endl st h o => Sys2Proof.Machine.execEndl st h o s
  | .brk st h o => Sys2Proof.Machine.execBrk st h o s
  | .ldlit st h o => Sys2Proof.Machine.execLdlit st h o s
  | .pool st h o => Sys2Proof.Machine.execPool st h o s
  | .br st h o => Sys2Proof.Machine.execBr st h o s
  | .add h o => Sys2Proof.Machine.execAdd h o s
  | .sub h o => Sys2Proof.Machine.execSub h o s
  | .mul h o => Sys2Proof.Machine.execMul h o s
  | .mulh h o => Sys2Proof.Machine.execMulh h o s
  | .div h o => Sys2Proof.Machine.execDiv h o s
  | .rem h o => Sys2Proof.Machine.execRem h o s
  | .mad h o => Sys2Proof.Machine.execMad h o s
  | .min h o => Sys2Proof.Machine.execMin h o s
  | .max h o => Sys2Proof.Machine.execMax h o s
  | .and h o => Sys2Proof.Machine.execAnd h o s
  | .or h o => Sys2Proof.Machine.execOr h o s
  | .xor h o => Sys2Proof.Machine.execXor h o s
  | .andn h o => Sys2Proof.Machine.execAndn h o s
  | .shl h o => Sys2Proof.Machine.execShl h o s
  | .shr h o => Sys2Proof.Machine.execShr h o s
  | .sar h o => Sys2Proof.Machine.execSar h o s
  | .rot h o => Sys2Proof.Machine.execRot h o s
  | .clz h o => Sys2Proof.Machine.execClz h o s
  | .ctz h o => Sys2Proof.Machine.execCtz h o s
  | .popc h o => Sys2Proof.Machine.execPopc h o s
  | .bfx h o => Sys2Proof.Machine.execBfx h o s
  | .bfi h o => Sys2Proof.Machine.execBfi h o s
  | .ext h o => Sys2Proof.Machine.execExt h o s
  | .sel h o => Sys2Proof.Machine.execSel h o s
  | .cmp h o => Sys2Proof.Machine.execCmp h o s
  | .movi h o => Sys2Proof.Machine.execMovi h o s
  | .movh h o => Sys2Proof.Machine.execMovh h o s
  | .mov h o => Sys2Proof.Machine.execMov h o s
  | .keep h o => Sys2Proof.Machine.execKeep h o s
  | .pand h o => Sys2Proof.Machine.execPand h o s
  | .por h o => Sys2Proof.Machine.execPor h o s
  | .pxor h o => Sys2Proof.Machine.execPxor h o s
  | .pnot h o => Sys2Proof.Machine.execPnot h o s
  | .fadd h o => Sys2Proof.Machine.execFadd h o s
  | .fsub h o => Sys2Proof.Machine.execFsub h o s
  | .fmul h o => Sys2Proof.Machine.execFmul h o s
  | .ffma h o => Sys2Proof.Machine.execFfma h o s
  | .fdiv h o => Sys2Proof.Machine.execFdiv h o s
  | .fsqrt h o => Sys2Proof.Machine.execFsqrt h o s
  | .fmin h o => Sys2Proof.Machine.execFmin h o s
  | .fmax h o => Sys2Proof.Machine.execFmax h o s
  | .fcmp h o => Sys2Proof.Machine.execFcmp h o s
  | .fcvt h o => Sys2Proof.Machine.execFcvt h o s
  | .fclass h o => Sys2Proof.Machine.execFclass h o s
  | .call h o => Sys2Proof.Machine.execCall h o s
  | .ret h o => Sys2Proof.Machine.execRet h o s
  | .jmp h o => Sys2Proof.Machine.execJmp h o s
  | .swt h o => Sys2Proof.Machine.execSwt h o s
  | .mvcr h o => Sys2Proof.Machine.execMvcr h o s
  | .mvrc h o => Sys2Proof.Machine.execMvrc h o s
  | .clk h o => Sys2Proof.Machine.execClk h o s
  | .trap h o => Sys2Proof.Machine.execTrap h o s
  | .evpost h o => Sys2Proof.Machine.execEvpost h o s
  | .sysr h o => Sys2Proof.Machine.execSysr h o s
  | .sysw h o => Sys2Proof.Machine.execSysw h o s
  | .owait h o => Sys2Proof.Machine.execOwait h o s
  | .otest h o => Sys2Proof.Machine.execOtest h o s
  | .ojoin h o => Sys2Proof.Machine.execOjoin h o s
  | .ocancel h o => Sys2Proof.Machine.execOcancel h o s
  | .odetach h o => Sys2Proof.Machine.execOdetach h o s
  | .oadopt h o => Sys2Proof.Machine.execOadopt h o s
  | .orelease h o => Sys2Proof.Machine.execOrelease h o s
  | .oprio h o => Sys2Proof.Machine.execOprio h o s
  | .ofault h o => Sys2Proof.Machine.execOfault h o s
  | .lease h o => Sys2Proof.Machine.execLease h o s
  | .unlease h o => Sys2Proof.Machine.execUnlease h o s
  | .lquery h o => Sys2Proof.Machine.execLquery h o s
  | .colrs h o => Sys2Proof.Machine.execColrs h o s
  | .colag h o => Sys2Proof.Machine.execColag h o s
  | .colar h o => Sys2Proof.Machine.execColar h o s
  | .cola2a h o => Sys2Proof.Machine.execCola2a h o s
  | .colbc h o => Sys2Proof.Machine.execColbc h o s
  | .colcmb h o => Sys2Proof.Machine.execColcmb h o s
  | .rtopk h o => Sys2Proof.Machine.execRtopk h o s
  | .rplan h o => Sys2Proof.Machine.execRplan h o s
  | .sortkv h o => Sys2Proof.Machine.execSortkv h o s
  | .gathr h o => Sys2Proof.Machine.execGathr h o s
  | .scatr h o => Sys2Proof.Machine.execScatr h o s
  | .sfnap h o => Sys2Proof.Machine.execSfnap h o s
  | .cdpack h o => Sys2Proof.Machine.execCdpack h o s
  | .cdunpk h o => Sys2Proof.Machine.execCdunpk h o s
  | .qlaunch h o => Sys2Proof.Machine.execQlaunch h o s
  | .qsignal h o => Sys2Proof.Machine.execQsignal h o s
  | .gid h o => Sys2Proof.Machine.execGid h o s
  | .grank h o => Sys2Proof.Machine.execGrank h o s
  | .gsize h o => Sys2Proof.Machine.execGsize h o s
  | .gpeer h o => Sys2Proof.Machine.execGpeer h o s
  | .gshare h o => Sys2Proof.Machine.execGshare h o s
  | .gclaim h o => Sys2Proof.Machine.execGclaim h o s
  | .barinit h o => Sys2Proof.Machine.execBarinit h o s
  | .barrive h o => Sys2Proof.Machine.execBarrive h o s
  | .barwait h o => Sys2Proof.Machine.execBarwait h o s
  | .bartest h o => Sys2Proof.Machine.execBartest h o s
  | .barleave h o => Sys2Proof.Machine.execBarleave h o s
  | .glzs h o => Sys2Proof.Machine.execGlzs h o s
  | .glza h o => Sys2Proof.Machine.execGlza h o s
  | .glzq h o => Sys2Proof.Machine.execGlzq h o s
  | .vadd h o => Sys2Proof.Machine.execVadd h o s
  | .vsub h o => Sys2Proof.Machine.execVsub h o s
  | .vmul h o => Sys2Proof.Machine.execVmul h o s
  | .vfma h o => Sys2Proof.Machine.execVfma h o s
  | .vmin h o => Sys2Proof.Machine.execVmin h o s
  | .vmax h o => Sys2Proof.Machine.execVmax h o s
  | .vabs h o => Sys2Proof.Machine.execVabs h o s
  | .vneg h o => Sys2Proof.Machine.execVneg h o s
  | .vdiv h o => Sys2Proof.Machine.execVdiv h o s
  | .vsqrt h o => Sys2Proof.Machine.execVsqrt h o s
  | .vrcp h o => Sys2Proof.Machine.execVrcp h o s
  | .vrsqrt h o => Sys2Proof.Machine.execVrsqrt h o s
  | .vexp2 h o => Sys2Proof.Machine.execVexp2 h o s
  | .vlog2 h o => Sys2Proof.Machine.execVlog2 h o s
  | .vand h o => Sys2Proof.Machine.execVand h o s
  | .vor h o => Sys2Proof.Machine.execVor h o s
  | .vxor h o => Sys2Proof.Machine.execVxor h o s
  | .vshl h o => Sys2Proof.Machine.execVshl h o s
  | .vshr h o => Sys2Proof.Machine.execVshr h o s
  | .vsar h o => Sys2Proof.Machine.execVsar h o s
  | .vcmp h o => Sys2Proof.Machine.execVcmp h o s
  | .vsel h o => Sys2Proof.Machine.execVsel h o s
  | .vwadd h o => Sys2Proof.Machine.execVwadd h o s
  | .vwmul h o => Sys2Proof.Machine.execVwmul h o s
  | .vscan h o => Sys2Proof.Machine.execVscan h o s
  | .vred h o => Sys2Proof.Machine.execVred h o s
  | .vperm h o => Sys2Proof.Machine.execVperm h o s
  | .vbcast h o => Sys2Proof.Machine.execVbcast h o s
  | .vrot h o => Sys2Proof.Machine.execVrot h o s
  | .vcomp h o => Sys2Proof.Machine.execVcomp h o s
  | .vcvt h o => Sys2Proof.Machine.execVcvt h o s
  | .vmxq h o => Sys2Proof.Machine.execVmxq h o s
  | .vmxd h o => Sys2Proof.Machine.execVmxd h o s
  | .vsatr h o => Sys2Proof.Machine.execVsatr h o s
  | .vseed h o => Sys2Proof.Machine.execVseed h o s
  | .vrand h o => Sys2Proof.Machine.execVrand h o s
  | .vpop h o => Sys2Proof.Machine.execVpop h o s
  | .vpush h o => Sys2Proof.Machine.execVpush h o s
  | .vtrd h o => Sys2Proof.Machine.execVtrd h o s
  | .vtwr h o => Sys2Proof.Machine.execVtwr h o s
  | .vmov h o => Sys2Proof.Machine.execVmov h o s
  | .vext h o => Sys2Proof.Machine.execVext h o s
  | .vins h o => Sys2Proof.Machine.execVins h o s
  | .vpand h o => Sys2Proof.Machine.execVpand h o s
  | .vpor h o => Sys2Proof.Machine.execVpor h o s
  | .vpnot h o => Sys2Proof.Machine.execVpnot h o s
  | .vpcnt h o => Sys2Proof.Machine.execVpcnt h o s
  | .aAdd h o => Sys2Proof.Machine.execAAdd h o s
  | .aSub h o => Sys2Proof.Machine.execASub h o s
  | .aShl h o => Sys2Proof.Machine.execAShl h o s
  | .aMul h o => Sys2Proof.Machine.execAMul h o s
  | .aMovi h o => Sys2Proof.Machine.execAMovi h o s
  | .aMov h o => Sys2Proof.Machine.execAMov h o s
  | .bcmp h o => Sys2Proof.Machine.execBcmp h o s
  | .ld h o => Sys2Proof.Machine.execLd h o s
  | .ldq h o => Sys2Proof.Machine.execLdq h o s
  | .ldx h o => Sys2Proof.Machine.execLdx h o s
  | .st h o => Sys2Proof.Machine.execSt h o s
  | .stq h o => Sys2Proof.Machine.execStq h o s
  | .stx h o => Sys2Proof.Machine.execStx h o s
  | .pf h o => Sys2Proof.Machine.execPf h o s
  | .amo h o => Sys2Proof.Machine.execAmo h o s
  | .amoswp h o => Sys2Proof.Machine.execAmoswp h o s
  | .amocas h o => Sys2Proof.Machine.execAmocas h o s
  | .fence h o => Sys2Proof.Machine.execFence h o s
  | .acq h o => Sys2Proof.Machine.execAcq h o s
  | .rel h o => Sys2Proof.Machine.execRel h o s
  | .bind h o => Sys2Proof.Machine.execBind h o s
  | .unbind h o => Sys2Proof.Machine.execUnbind h o s
  | .cpy h o => Sys2Proof.Machine.execCpy h o s
  | .cstage h o => Sys2Proof.Machine.execCstage h o s
  | .lfe h o => Sys2Proof.Machine.execLfe h o s
  | .oqst h o => Sys2Proof.Machine.execOqst h o s
  | .bdot h o => Sys2Proof.Machine.execBdot h o s
  | .bdmode h o => Sys2Proof.Machine.execBdmode h o s
  | .pmig h o => Sys2Proof.Machine.execPmig h o s
  | .tzero h o => Sys2Proof.Machine.execTzero h o s
  | .tld h o => Sys2Proof.Machine.execTld h o s
  | .tst h o => Sys2Proof.Machine.execTst h o s
  | .tmov h o => Sys2Proof.Machine.execTmov h o s
  | .tfill h o => Sys2Proof.Machine.execTfill h o s
  | .tcvt h o => Sys2Proof.Machine.execTcvt h o s
  | .tadd h o => Sys2Proof.Machine.execTadd h o s
  | .tmul h o => Sys2Proof.Machine.execTmul h o s
  | .tscale h o => Sys2Proof.Machine.execTscale h o s
  | .trmax h o => Sys2Proof.Machine.execTrmax h o s
  | .trsum h o => Sys2Proof.Machine.execTrsum h o s
  | .rmset h o => Sys2Proof.Machine.execRmset h o s
  | .cmset h o => Sys2Proof.Machine.execCmset h o s
  | .wlease h o => Sys2Proof.Machine.execWlease h o s
  | .wload h o => Sys2Proof.Machine.execWload h o s
  | .wdot h o => Sys2Proof.Machine.execWdot h o s
  | .wtdot h o => Sys2Proof.Machine.execWtdot h o s
  | .wouter h o => Sys2Proof.Machine.execWouter h o s
  | .wdrain h o => Sys2Proof.Machine.execWdrain h o s
  | .wclr h o => Sys2Proof.Machine.execWclr h o s
  | .wrel h o => Sys2Proof.Machine.execWrel h o s
  | .wpair h o => Sys2Proof.Machine.execWpair h o s
  | .resultDelivery core => Sys2Proof.Machine.execResultDelivery core s
  | .tileWriteDelivery core => Sys2Proof.Machine.execTileWriteDelivery core s
  | .haltFinish ctx => Sys2Proof.Machine.execHaltFinish ctx s
  | .debugHold core => Sys2Proof.Machine.execDebugHold core s
  | .debugStep core => Sys2Proof.Machine.execDebugStep core s
  | .debugStepA core => Sys2Proof.Machine.execDebugStepA core s
  | .opdbgrel handle => Sys2Proof.Machine.execOpdbgrel handle s
  | .scanAdmit fn => Sys2Proof.Machine.execScanAdmit fn s
  | .withdraw fn => Sys2Proof.Machine.execWithdraw fn s
  | .withdrawAll fn => Sys2Proof.Machine.execWithdrawAll fn s
  | .residencyDone ctx q seq => Sys2Proof.Machine.execResidencyDone ctx q seq s
  | .nodeStart ctx q seq gidx => Sys2Proof.Machine.execNodeStart ctx q seq gidx s
  | .nodeEnd ctx q seq => Sys2Proof.Machine.execNodeEnd ctx q seq s
  | .dispatcherRound => Sys2Proof.Machine.execDispatcherRound s
  | .nodeRelease ctx q seq => Sys2Proof.Machine.execNodeRelease ctx q seq s
  | .nodeFinish ctx q seq => Sys2Proof.Machine.execNodeFinish ctx q seq s
  | .waitNodeSatisfied ctx q seq => Sys2Proof.Machine.execWaitNodeSatisfied ctx q seq s
  | .qtailWrite ctx q val => Sys2Proof.Machine.execQtailWrite ctx q val s
  | .queueEnableWrite ctx q on => Sys2Proof.Machine.execQueueEnableWrite ctx q on s
  | .queueSuspend ctx q => Sys2Proof.Machine.execQueueSuspend ctx q s
  | .queueResume ctx q => Sys2Proof.Machine.execQueueResume ctx q s
  | .queueDrain ctx q => Sys2Proof.Machine.execQueueDrain ctx q s
  | .queueDead ctx q => Sys2Proof.Machine.execQueueDead ctx q s
  | .launchAppend ctx slot => Sys2Proof.Machine.execLaunchAppend ctx slot s
  | .homeRequestArrival core => Sys2Proof.Machine.execHomeRequestArrival core s
  | .barrierMulticast ctx b u => Sys2Proof.Machine.execBarrierMulticast ctx b u s
  | .predecessorFinished ctx slot => Sys2Proof.Machine.execPredecessorFinished ctx slot s
  | .operationStart ctx slot => Sys2Proof.Machine.execOperationStart ctx slot s
  | .operationComplete ctx slot => Sys2Proof.Machine.execOperationComplete ctx slot s
  | .operationFailure ctx slot why => Sys2Proof.Machine.execOperationFailure ctx slot why s
  | .priorityAging who => Sys2Proof.Machine.execPriorityAging who s
  | .arrayRunStart bench => Sys2Proof.Machine.execArrayRunStart bench s
  | .arrayRunLimit bench => Sys2Proof.Machine.execArrayRunLimit bench s
  | .arrayCommandStart bench => Sys2Proof.Machine.execArrayCommandStart bench s
  | .arrayCommandComplete bench => Sys2Proof.Machine.execArrayCommandComplete bench s
  | .drainRowAccepted bench => Sys2Proof.Machine.execDrainRowAccepted bench s
  | .pairTimeout bench => Sys2Proof.Machine.execPairTimeout bench s
  | .leaseQueueEntry ctx slot => Sys2Proof.Machine.execLeaseQueueEntry ctx slot s
  | .leaseGrant kind => Sys2Proof.Machine.execLeaseGrant kind s
  | .wakeDone engine => Sys2Proof.Machine.execWakeDone engine s
  | .quantumEnd engine => Sys2Proof.Machine.execQuantumEnd engine s
  | .engineYield engine => Sys2Proof.Machine.execEngineYield engine s
  | .forcedEviction engine => Sys2Proof.Machine.execForcedEviction engine s
  | .scrubDone engine => Sys2Proof.Machine.execScrubDone engine s
  | .drowsyTimeout engine => Sys2Proof.Machine.execDrowsyTimeout engine s
  | .sleepTimeout engine => Sys2Proof.Machine.execSleepTimeout engine s
  | .engineCommandStart engine => Sys2Proof.Machine.execEngineCommandStart engine s
  | .engineUnitDone engine => Sys2Proof.Machine.execEngineUnitDone engine s
  | .copyLineDelivery ctx slot line => Sys2Proof.Machine.execCopyLineDelivery ctx slot line s
  | .copyNodeRun ctx q seq => Sys2Proof.Machine.execCopyNodeRun ctx q seq s
  | .signalNodeRun ctx q seq => Sys2Proof.Machine.execSignalNodeRun ctx q seq s
  | .replay bench => Sys2Proof.Machine.execReplay bench s
  | .walkReturn bench => Sys2Proof.Machine.execWalkReturn bench s
  | .pageTouch fn va => Sys2Proof.Machine.execPageTouch fn va s
  | .pageMoveDone fn va => Sys2Proof.Machine.execPageMoveDone fn va s
  | .decayPeriod part => Sys2Proof.Machine.execDecayPeriod part s
  | .dotModeChangeDone chan => Sys2Proof.Machine.execDotModeChangeDone chan s
  | .bankDotRow ctx slot chan => Sys2Proof.Machine.execBankDotRow ctx slot chan s
  | .droopWindow stack => Sys2Proof.Machine.execDroopWindow stack s
  | .tlbiPage fn => Sys2Proof.Machine.execTlbiPage fn s
  | .tlbiFunction fn => Sys2Proof.Machine.execTlbiFunction fn s
  | .tlbiAll => Sys2Proof.Machine.execTlbiAll s
  | .rowval stack val => Sys2Proof.Machine.execRowval stack val s
  | .ctxCreate => Sys2Proof.Machine.execCtxCreate s
  | .switchOut ctx => Sys2Proof.Machine.execSwitchOut ctx s
  | .preemptWaitExpiry ctx core => Sys2Proof.Machine.execPreemptWaitExpiry ctx core s
  | .deadlineExpiry ctx => Sys2Proof.Machine.execDeadlineExpiry ctx s
  | .switchIn ctx => Sys2Proof.Machine.execSwitchIn ctx s
  | .ctxRecover ctx => Sys2Proof.Machine.execCtxRecover ctx s
  | .ctxDestroy ctx => Sys2Proof.Machine.execCtxDestroy ctx s
  | .teardownDone ctx => Sys2Proof.Machine.execTeardownDone ctx s
  | .migrateOut ctx => Sys2Proof.Machine.execMigrateOut ctx s
  | .migrateIn ctx => Sys2Proof.Machine.execMigrateIn ctx s
  | .migrationTargetTimeout fn => Sys2Proof.Machine.execMigrationTargetTimeout fn s
  | .pageHandover fn va => Sys2Proof.Machine.execPageHandover fn va s
  | .ownerTokenArrival fn va tok => Sys2Proof.Machine.execOwnerTokenArrival fn va tok s
  | .migrationAbort fn => Sys2Proof.Machine.execMigrationAbort fn s
  | .tombstoneLapse fn => Sys2Proof.Machine.execTombstoneLapse fn s
  | .formationTimeout ctx id => Sys2Proof.Machine.execFormationTimeout ctx id s
  | .signalDetected port => Sys2Proof.Machine.execSignalDetected port s
  | .trainingEnd port r => Sys2Proof.Machine.execTrainingEnd port r s
  | .retrainTrigger port lossOfSignal => Sys2Proof.Machine.execRetrainTrigger port lossOfSignal s
  | .retrain port => Sys2Proof.Machine.execRetrain port s
  | .portEnableWrite port on => Sys2Proof.Machine.execPortEnableWrite port on s
  | .flitReceived port flit => Sys2Proof.Machine.execFlitReceived port flit s
  | .nakReceived port ackseq => Sys2Proof.Machine.execNakReceived port ackseq s
  | .replayTimeout port => Sys2Proof.Machine.execReplayTimeout port s
  | .msgLoad m => Sys2Proof.Machine.execMsgLoad m s
  | .msgLoadReply m => Sys2Proof.Machine.execMsgLoadReply m s
  | .msgStore m => Sys2Proof.Machine.execMsgStore m s
  | .msgStoreAck m => Sys2Proof.Machine.execMsgStoreAck m s
  | .msgAtomic m => Sys2Proof.Machine.execMsgAtomic m s
  | .msgAtomicReply m => Sys2Proof.Machine.execMsgAtomicReply m s
  | .msgCollective m => Sys2Proof.Machine.execMsgCollective m s
  | .msgBarrier m => Sys2Proof.Machine.execMsgBarrier m s
  | .msgConnectionControl m => Sys2Proof.Machine.execMsgConnectionControl m s
  | .msgShardDelivery m => Sys2Proof.Machine.execMsgShardDelivery m s
  | .msgMoved m => Sys2Proof.Machine.execMsgMoved m s
  | .msgRefusal m => Sys2Proof.Machine.execMsgRefusal m s
  | .msgContextTransfer m => Sys2Proof.Machine.execMsgContextTransfer m s
  | .msgAbort m => Sys2Proof.Machine.execMsgAbort m s
  | .parkNotice m => Sys2Proof.Machine.execParkNotice m s
  | .resumeNotice m => Sys2Proof.Machine.execResumeNotice m s
  | .connopenTimeout fn peer => Sys2Proof.Machine.execConnopenTimeout fn peer s
  | .retransmission fn peer => Sys2Proof.Machine.execRetransmission fn peer s
  | .connidleTimeout fn peer => Sys2Proof.Machine.execConnidleTimeout fn peer s
  | .connbackoffExpiry fn peer => Sys2Proof.Machine.execConnbackoffExpiry fn peer s
  | .connectionDrained fn peer => Sys2Proof.Machine.execConnectionDrained fn peer s
  | .connectionSpill fn peer => Sys2Proof.Machine.execConnectionSpill fn peer s
  | .osyncEdge => Sys2Proof.Machine.execOsyncEdge s
  | .slotStart => Sys2Proof.Machine.execSlotStart s
  | .slotCommit => Sys2Proof.Machine.execSlotCommit s
  | .ringHeatWrite fibre ring val => Sys2Proof.Machine.execRingHeatWrite fibre ring val s
  | .ringSettled fibre ring adc => Sys2Proof.Machine.execRingSettled fibre ring adc s
  | .ringMapWrite fibre ring val => Sys2Proof.Machine.execRingMapWrite fibre ring val s
  | .chunkApply fn shard chunk => Sys2Proof.Machine.execChunkApply fn shard chunk s
  | .coldReset stages => Sys2Proof.Machine.execColdReset stages s
  | .warmReset => Sys2Proof.Machine.execWarmReset s
  | .selftestEnd r => Sys2Proof.Machine.execSelftestEnd r s
  | .freeze => Sys2Proof.Machine.execFreeze s
  | .freezeN => Sys2Proof.Machine.execFreezeN s
  | .powerControl watts => Sys2Proof.Machine.execPowerControl watts s
  | .temperatureLimit degc => Sys2Proof.Machine.execTemperatureLimit degc s
  | .partitionEnable part => Sys2Proof.Machine.execPartitionEnable part s
  | .vfEnable count => Sys2Proof.Machine.execVfEnable count s
  | .cxlPortFailure port => Sys2Proof.Machine.execCxlPortFailure port s
  | .dcread => Sys2Proof.Machine.execDcread s
  | .dcwrite => Sys2Proof.Machine.execDcwrite s
  | .idcert => Sys2Proof.Machine.execIdcert s
  | .quote => Sys2Proof.Machine.execQuote s
  | .fwstage => Sys2Proof.Machine.execFwstage s
  | .scanrd => Sys2Proof.Machine.execScanrd s
  | .registerWrite addr val => Sys2Proof.Machine.execRegisterWrite addr val s
  | .rconsWrite part val => Sys2Proof.Machine.execRconsWrite part val s
  | .fetchMissArrival core stream => Sys2Proof.Machine.execFetchMissArrival core stream s

end Sys2Proof.Machine
end

