-- ==== Sys2Proof/Machine/Own.lean ====
section
/-! DEFINITION. Machine/Own.lean: an event of the machine (R11, R12) takes effect by the meaning of its row of the table. -/

namespace Sys2Proof.Machine

/-- The meaning of an event, the same as that of its row in `exec`. -/
def runEv (e : Ev) (s : State) : Host.Outcome State Fault Refusal :=
  match e with
  | .resultDelivery core => execResultDelivery core s
  | .tileWriteDelivery core => execTileWriteDelivery core s
  | .haltFinish ctx => execHaltFinish ctx s
  | .debugHold core => execDebugHold core s
  | .debugStep core => execDebugStep core s
  | .debugStepA core => execDebugStepA core s
  | .opdbgrel handle => execOpdbgrel handle s
  | .scanAdmit fn => execScanAdmit fn s
  | .withdraw fn => execWithdraw fn s
  | .withdrawAll fn => execWithdrawAll fn s
  | .residencyDone ctx q seq => execResidencyDone ctx q seq s
  | .nodeStart ctx q seq gidx => execNodeStart ctx q seq gidx s
  | .nodeEnd ctx q seq => execNodeEnd ctx q seq s
  | .dispatcherRound => execDispatcherRound s
  | .nodeRelease ctx q seq => execNodeRelease ctx q seq s
  | .nodeFinish ctx q seq => execNodeFinish ctx q seq s
  | .waitNodeSatisfied ctx q seq => execWaitNodeSatisfied ctx q seq s
  | .qtailWrite ctx q val => execQtailWrite ctx q val s
  | .queueEnableWrite ctx q on => execQueueEnableWrite ctx q on s
  | .queueSuspend ctx q => execQueueSuspend ctx q s
  | .queueResume ctx q => execQueueResume ctx q s
  | .queueDrain ctx q => execQueueDrain ctx q s
  | .queueDead ctx q => execQueueDead ctx q s
  | .launchAppend ctx slot => execLaunchAppend ctx slot s
  | .homeRequestArrival core => execHomeRequestArrival core s
  | .barrierMulticast ctx b u => execBarrierMulticast ctx b u s
  | .predecessorFinished ctx slot => execPredecessorFinished ctx slot s
  | .operationStart ctx slot => execOperationStart ctx slot s
  | .operationComplete ctx slot => execOperationComplete ctx slot s
  | .operationFailure ctx slot why => execOperationFailure ctx slot why s
  | .priorityAging who => execPriorityAging who s
  | .arrayRunStart bench => execArrayRunStart bench s
  | .arrayRunLimit bench => execArrayRunLimit bench s
  | .arrayCommandStart bench => execArrayCommandStart bench s
  | .arrayCommandComplete bench => execArrayCommandComplete bench s
  | .drainRowAccepted bench => execDrainRowAccepted bench s
  | .pairTimeout bench => execPairTimeout bench s
  | .leaseQueueEntry ctx slot => execLeaseQueueEntry ctx slot s
  | .leaseGrant kind => execLeaseGrant kind s
  | .wakeDone engine => execWakeDone engine s
  | .quantumEnd engine => execQuantumEnd engine s
  | .engineYield engine => execEngineYield engine s
  | .forcedEviction engine => execForcedEviction engine s
  | .scrubDone engine => execScrubDone engine s
  | .drowsyTimeout engine => execDrowsyTimeout engine s
  | .sleepTimeout engine => execSleepTimeout engine s
  | .engineCommandStart engine => execEngineCommandStart engine s
  | .engineUnitDone engine => execEngineUnitDone engine s
  | .copyLineDelivery ctx slot line => execCopyLineDelivery ctx slot line s
  | .copyNodeRun ctx q seq => execCopyNodeRun ctx q seq s
  | .signalNodeRun ctx q seq => execSignalNodeRun ctx q seq s
  | .replay bench => execReplay bench s
  | .walkReturn bench => execWalkReturn bench s
  | .pageTouch fn va => execPageTouch fn va s
  | .pageMoveDone fn va => execPageMoveDone fn va s
  | .decayPeriod part => execDecayPeriod part s
  | .dotModeChangeDone chan => execDotModeChangeDone chan s
  | .bankDotRow ctx slot chan => execBankDotRow ctx slot chan s
  | .droopWindow stack => execDroopWindow stack s
  | .tlbiPage fn => execTlbiPage fn s
  | .tlbiFunction fn => execTlbiFunction fn s
  | .tlbiAll => execTlbiAll s
  | .rowval stack val => execRowval stack val s
  | .ctxCreate => execCtxCreate s
  | .switchOut ctx => execSwitchOut ctx s
  | .preemptWaitExpiry ctx core => execPreemptWaitExpiry ctx core s
  | .deadlineExpiry ctx => execDeadlineExpiry ctx s
  | .switchIn ctx => execSwitchIn ctx s
  | .ctxRecover ctx => execCtxRecover ctx s
  | .ctxDestroy ctx => execCtxDestroy ctx s
  | .teardownDone ctx => execTeardownDone ctx s
  | .migrateOut ctx => execMigrateOut ctx s
  | .migrateIn ctx => execMigrateIn ctx s
  | .migrationTargetTimeout fn => execMigrationTargetTimeout fn s
  | .pageHandover fn va => execPageHandover fn va s
  | .ownerTokenArrival fn va tok => execOwnerTokenArrival fn va tok s
  | .migrationAbort fn => execMigrationAbort fn s
  | .tombstoneLapse fn => execTombstoneLapse fn s
  | .formationTimeout ctx id => execFormationTimeout ctx id s
  | .signalDetected port => execSignalDetected port s
  | .trainingEnd port r => execTrainingEnd port r s
  | .retrainTrigger port lossOfSignal => execRetrainTrigger port lossOfSignal s
  | .retrain port => execRetrain port s
  | .portEnableWrite port on => execPortEnableWrite port on s
  | .flitReceived port flit => execFlitReceived port flit s
  | .nakReceived port ackseq => execNakReceived port ackseq s
  | .replayTimeout port => execReplayTimeout port s
  | .msgLoad m => execMsgLoad m s
  | .msgLoadReply m => execMsgLoadReply m s
  | .msgStore m => execMsgStore m s
  | .msgStoreAck m => execMsgStoreAck m s
  | .msgAtomic m => execMsgAtomic m s
  | .msgAtomicReply m => execMsgAtomicReply m s
  | .msgCollective m => execMsgCollective m s
  | .msgBarrier m => execMsgBarrier m s
  | .msgConnectionControl m => execMsgConnectionControl m s
  | .msgShardDelivery m => execMsgShardDelivery m s
  | .msgMoved m => execMsgMoved m s
  | .msgRefusal m => execMsgRefusal m s
  | .msgContextTransfer m => execMsgContextTransfer m s
  | .msgAbort m => execMsgAbort m s
  | .parkNotice m => execParkNotice m s
  | .resumeNotice m => execResumeNotice m s
  | .connopenTimeout fn peer => execConnopenTimeout fn peer s
  | .retransmission fn peer => execRetransmission fn peer s
  | .connidleTimeout fn peer => execConnidleTimeout fn peer s
  | .connbackoffExpiry fn peer => execConnbackoffExpiry fn peer s
  | .connectionDrained fn peer => execConnectionDrained fn peer s
  | .connectionSpill fn peer => execConnectionSpill fn peer s
  | .osyncEdge => execOsyncEdge s
  | .slotStart => execSlotStart s
  | .slotCommit => execSlotCommit s
  | .ringHeatWrite fibre ring val => execRingHeatWrite fibre ring val s
  | .ringSettled fibre ring adc => execRingSettled fibre ring adc s
  | .ringMapWrite fibre ring val => execRingMapWrite fibre ring val s
  | .chunkApply fn shard chunk => execChunkApply fn shard chunk s
  | .coldReset stages => execColdReset stages s
  | .warmReset => execWarmReset s
  | .selftestEnd r => execSelftestEnd r s
  | .freeze => execFreeze s
  | .freezeN => execFreezeN s
  | .powerControl watts => execPowerControl watts s
  | .temperatureLimit degc => execTemperatureLimit degc s
  | .partitionEnable part => execPartitionEnable part s
  | .vfEnable count => execVfEnable count s
  | .cxlPortFailure port => execCxlPortFailure port s
  | .dcread => execDcread s
  | .dcwrite => execDcwrite s
  | .idcert => execIdcert s
  | .quote => execQuote s
  | .fwstage => execFwstage s
  | .scanrd => execScanrd s
  | .registerWrite addr val => execRegisterWrite addr val s
  | .rconsWrite part val => execRconsWrite part val s
  | .fetchMissArrival core stream => execFetchMissArrival core stream s

end Sys2Proof.Machine
end

