-- ==== Sys2Proof/Machine/Sched.lean ====
section
/-! DEFINITION. Machine/Sched.lean: which action of the machine comes next (R11, R12, R90-R92; assumption 2): within one core clock the
deliveries that are due, then the words of the cores, then the machine's own events and the connection engine; then the clock. -/

namespace Sys2Proof.Machine

/-! ## Words -/

/-- The word at a stream's pc, as the run-time decoder takes it (R57, R58): an unassigned opcode issues as `nop`. -/
def wordAt (c : Core) (st : StreamId) : Option Instr :=
  (sfind (c.str st).cache (c.str st).pc).map fun w =>
    match decode st w with
    | .ok i => i
    | .error _ => .nop st (hdrOf w) (noOf w)

/-- A `pool` word, which occupies no issue slot (R49). -/
def isPool : Instr → Bool
  | .pool .. => true
  | _ => false

/-- A trio stream's word is due (R30, R90); a missing word is due at once, and a `pool` word is skipped at once. -/
def trioWordDue (c : Core) (st : StreamId) : Bool :=
  let m := c.str st
  m.st.live && match wordAt c st with
    | none => decide (m.last < c.clk)
    | some i => isPool i || match wordHdr i with
      | some h => decide (m.last + h.idle.toNat + 1 ≤ c.clk)
      | none => true

/-- What a step does next: a word, an event, or a change that is neither. -/
inductive Pick where
  | word (i : Instr) (s : State)
  | ev (e : Ev) (s : State)
  | to (s : State)
  | none

/-- The state that a word leaves. -/
def execState (i : Instr) (s : State) : State := match exec i s with | .next s' => s' | _ => s

/-- The state that an event leaves. -/
def evState (e : Ev) (s : State) : State := match runEv e s with | .next s' => s' | _ => s

/-- The trio of a core. -/
def trio : List StreamId := [.S, .V, .X]

/-- The freeze line of core k is high in this clock (R91): no word of the trio issues, and the trio clock holds. -/
def freezeCore (s : State) (k : Nat) : State :=
  let fr (m : Stream) : Stream := if m.st = .aligned then { m with st := .frozen } else m
  s.modC k fun c => ({ c with s := fr c.s, v := fr c.v, x := fr c.x, tTime := s.now + 1 }).pmcAdd 5 1

/-- A debug hold keeps the trio from issuing from the clock after it is asked for (R127), but for a step in progress (R128). -/
def holdsTrio (now : Nat) (c : Core) : Bool := c.dbg.hold && !c.dbg.stepBusy && decide (c.dbg.since ≤ now)

/-- The trio with the freeze line low (R89). -/
def Core.lineLow (c : Core) : Core :=
  let low (m : Stream) : Stream := if m.st = .frozen then { m with st := .aligned } else m
  { c with s := low c.s, v := low c.v, x := low c.x }

/-- The moves of a core's tile sequencers that are due (R91, R208). -/
def pickMoves (s : State) (k : Nat) : Pick :=
  let c := s.getC k
  if !c.seqs.any (seqNeeds c.clk) then .none
  else match ({ c with seqs := [] }).seqMoves c.seqs with
    | .ok c' => .to (s.putC k c')
    | .freeze => .to (freezeCore s k)
    | .dead q => .to (haltAt s k .X { stopCode cREG with index := 0x110 + BitVec.ofNat 32 q })

/-- The trio of core k (R90, R91): a cause of R91 for any due word freezes all three; otherwise the first due word that
does not go on waiting at `align` issues, S before V before X. -/
def pickTrio (s : State) (k : Nat) : Pick :=
  let c := s.getC k
  if s.now < c.tTime then .none
  else if holdsTrio s.now c then (if trio.any fun st => (c.str st).st.live then .to (freezeCore s k) else .none)
  else match pickMoves s k with
    | .none =>
      let due := trio.filter (trioWordDue c)
      if due.any fun st => (wordAt c st).isNone then .to (freezeCore s k)
      else
        let s0 := { s with cur := k }.modC k Core.lineLow
        let words := due.filterMap fun st => (wordAt c st).map fun i => (st, i)
        let stalled := words.filter fun e => (((execState e.2 s0).getC k).str e.1).st = .frozen
        if !stalled.isEmpty then .to (freezeCore (stalled.foldl (fun s e => execState e.2 s) s0) k)
        else
          match words.find? fun e => !((c.str e.1).atAlign = some 0 && (((execState e.2 s0).getC k).str e.1).atAlign = some 0) with
          | some e => .word e.2 { s with cur := k }
          | none => .none
    | p => p

/-- An acquire of A by a message of the fabric is open (assumption 12): later words of A wait for it (R154). -/
def acquireOpen (c : Core) : Bool := c.flight.any fun f => f.fab.any fun t => t.getLsbD 62

/-- A does not start a word in this clock: it stays BLOCKED. -/
def blockA (s : State) (k : Nat) : State := s.modC k fun c => { c with a := { c.a with st := .blocked }, aTime := s.now + 1 }

/-- The A word of core k: at most one per clock (R152). A fetch miss or a debug hold blocks A (R93, R127). -/
def pickA (s : State) (k : Nat) : Pick :=
  let c := s.getC k
  if s.now < c.aTime || !c.a.st.live then .none
  else match wordAt c .A with
    | none => .to (blockA s k)
    | some i =>
      if (c.dbg.hold && !(c.dbg.stepABusy && c.aQuiet)) || acquireOpen c then .to (blockA s k)
      else .word i { s with cur := k }

/-- What A of core k does in this clock: an access that waits is tried before another word starts. -/
def pickAcc (s : State) (k : Nat) : Pick :=
  match advanceAcc s k with
  | some s' => .to s'
  | none => pickA s k

/-- The first action that some core takes in this clock, A before the trio (R92). -/
def pickCore (s : State) : List Nat → Pick
  | [] => .none
  | k :: l =>
    let c := s.getC k
    if c.inst.isNone || !c.started || c.away then pickCore s l
    else match pickAcc s k with
      | .none => match pickTrio s k with
        | .none => pickCore s l
        | p => p
      | p => p

/-! ## The machine's own events -/

/-- The deliveries that are due (R96, R153, R202). -/
def dueDelivery (s : State) : Option Ev :=
  (s.cores.findSome? fun e =>
    if !(e.2.trioDue).isEmpty || !(e.2.aDue s.now).isEmpty then some (Ev.resultDelivery e.1)
    else if e.2.tileWritesDue && !e.2.away then some (Ev.tileWriteDelivery e.1)
    else none)

/-- The events of a core: fetches (R93), a hold that takes effect (R127). -/
def coreEvents (k : Nat) (c : Core) : List Ev :=
  (((List.range 4).filter fun st => missesFetch c (streamOf st)).map fun st => Ev.fetchMissArrival k st) ++
  (if c.dbg.hold && !c.dbg.held then [Ev.debugHold k] else [])

/-- Inserting an event into a list by its key, after those of the same key. -/
def insertKeyed (e : Nat × Ev) : List (Nat × Ev) → List (Nat × Ev)
  | [] => [e]
  | f :: l => if e.1 < f.1 then e :: f :: l else f :: insertKeyed e l

/-- Events in the order of their keys. -/
def keyed (l : List (Nat × Ev)) : List Ev := (l.foldl (fun l e => insertKeyed e l) []).map (·.2)

/-- The key of a request by its core, then its device (R313). -/
def askKey (core : Nat) (dev : BitVec 15) : Nat := core * 2 ^ 15 + dev.toNat

/-- The requests that reach their homes in this clock (R311, R313): those of this device's cores and the arrivals of other members, the lower
core first, then by device. -/
def homeEvents (s : State) : List Ev :=
  keyed ((s.cores.filterMap fun e => match e.2.req with
      | .sent _ | .applied _ => some (askKey e.1 Config.devId, Ev.homeRequestArrival e.1)
      | _ => none) ++
    (s.fabWait.filter fun m => m.kind = 7).map fun m => (askKey (field m.payload 4 4) m.src, Ev.msgBarrier m))

/-- The events of an operation (R237, R242, R262, R296, R334, R379). -/
def opEvents (s : State) (x slot : Nat) (o : Op) : List Ev :=
  match o.st with
  | .waiting => [.predecessorFinished x slot]
  | .queued => [.priorityAging (.op x slot), .operationStart x slot]
  | .running =>
    [.priorityAging (.op x slot)] ++
    (match o.body with
      | .launch .. => [Ev.launchAppend x slot]
      | .copy .. => (List.range 64).map fun l => Ev.copyLineDelivery x slot l
      | .bdot _ => if o.got = [] then [] else
        let d := bdescOf o.got
        (((List.range d.n).map fun r => rowUnit s (s.getX x).fn d r).eraseDups).map fun c => Ev.bankDotRow x slot c
      | _ => []) ++ [.operationComplete x slot]
  | _ => []

/-- The events of a queue's nodes (R327, R329, R332, R333). -/
def queueEvents (x q : Nat) (m : Queue) : List Ev :=
  (m.nodes.flatMap fun e =>
    let n := e.2
    if n.done then []
    else if n.fault.isSome then [Ev.nodeFinish x q e.1]
    else if n.st = .ready || n.st = .running then
      [Ev.priorityAging (.node x q e.1)] ++
      (match n.kind with | 1 => [Ev.copyNodeRun x q e.1] | 3 => [Ev.signalNodeRun x q e.1] | 4 => [Ev.waitNodeSatisfied x q e.1] | _ => [])
    else []) ++
  (m.open_.map fun seq => Ev.nodeRelease x q seq) ++ (if m.st = .draining then [.queueDead x q] else [])

/-- The events of a kernel instance (R289, R290, R89). -/
def instEvents (key : InstKey) (i : Inst) : List Ev :=
  match i.st with
  | .admitted => [.residencyDone key.ctx key.q key.seq]
  | .resident => (List.range i.cores.length).map fun g => .nodeStart key.ctx key.q key.seq g
  | _ => [.nodeEnd key.ctx key.q key.seq]

/-- The events of a context (R305, R342-R353). -/
def ctxEvents (s : State) (x : Nat) (c : Ctx) : List Ev :=
  (if c.halt.isSome then [.haltFinish x] else []) ++
  (c.insts.flatMap fun e => instEvents e.1 e.2) ++
  (c.ops.flatMap fun e => opEvents s x e.1 e.2) ++
  (c.queues.flatMap fun e => queueEvents x e.1 e.2) ++
  (c.pgs.map fun e => Ev.formationTimeout x e.1) ++
  (if c.departs then (s.cores.filter fun e => e.2.inst.any fun i => i.ctx = x).map fun e => Ev.preemptWaitExpiry x e.1 else []) ++
  (match c.st with
    | .switchingOut => [Ev.deadlineExpiry x, .switchOut x]
    | .migratingOut => [Ev.deadlineExpiry x, .migrateOut x] ++
      (if c.moved then [.pageHandover c.fn (((pagesLeft s c.fn).head?.map fun e => e.1).getD (1#64 <<< 60))] else [])
    | .destroying => [.teardownDone x]
    | _ => []) ++
  (if c.migr.isSome then [.migrationTargetTimeout c.fn] else [])

/-- The command of the context command block that is in progress (R341). -/
def cmdEvents (s : State) : List Ev :=
  if !s.cmd.busy then []
  else
    let x := s.cmd.ctx.toNat
    match s.cmd.cmd.toNat with
    | 1 => [.ctxCreate]
    | 2 => [.switchOut x]
    | 3 => [.switchIn x]
    | 4 => [.ctxRecover x]
    | 5 => [.ctxDestroy x]
    | 6 => [.migrateOut x]
    | 7 => [.migrateIn x]
    | _ => []

/-- The events of a bench (R213, R215, R226, R229, R343, R364, R366). -/
def benchEvents (b : Nat) (d : Bench) : List Ev :=
  [.replay b, .walkReturn b] ++ (d.faults.map fun f => Ev.pageTouch f.fn f.va) ++
  (d.claims.map fun c => Ev.priorityAging (.claim b c.k)) ++
  [.arrayCommandComplete b, .drainRowAccepted b, .pairTimeout b, .arrayRunLimit b, .arrayRunStart b, .arrayCommandStart b]

/-- The events of a palette engine (R260-R266, R272). -/
def engineEvents (e : Nat) : List Ev :=
  [.wakeDone e, .scrubDone e, .forcedEviction e, .engineYield e, .quantumEnd e, .drowsyTimeout e, .sleepTimeout e, .engineUnitDone e,
   .engineCommandStart e]

/-- The leases that enter their queues, the lower core first (R264, R268). -/
def leaseEntries (s : State) : List Ev :=
  keyed (((allOps s).filter fun e => e.2.2.st = .queued && e.2.2.body.lease?.isSome).map fun e => (e.2.2.core, Ev.leaseQueueEntry e.1 e.2.1))

/-- The events of memory (R343, R366, R369, R374, R375): the device's own accesses and the waiters of a dropped page touch their pages. -/
def memEvents (s : State) : List Ev :=
  (if s.devQ = [] then [] else [.replay (benchOf devCore)]) ++
  ((s.devQ.filter fun e => !e.failed).map fun e => Ev.pageTouch e.fn e.page) ++
  ((s.lockQ.filter (·.gone)).map fun w => Ev.pageTouch w.home w.va) ++
  (s.moves.map fun m => Ev.pageMoveDone m.fn m.va) ++ (s.chanChange.map fun e => Ev.dotModeChangeDone e.1) ++
  (s.droop.map fun e => Ev.droopWindow e.1) ++ (if s.counters = [] then [] else (List.range 24).map fun p => Ev.decayPeriod p) ++
  (s.arrived.map fun e => Ev.ownerTokenArrival e.1 e.2.1 e.2.2) ++ (s.tombstones.map fun t => Ev.tombstoneLapse t.1)

/-- A request of a peer function whose page waits is tried again (R172). -/
def waitingMsg (m : Msg) : Ev := match m.kind.toNat with | 0 => .msgLoad m | 2 => .msgStore m | _ => .msgAtomic m

/-- The events of the ports, the connections, the slots and the rings (R382-R400). A ring's sample is a free value (assumption 1). -/
def linkEvents (s : State) : List Ev :=
  (s.ports.flatMap fun e =>
    (match e.2.st with
      | .training | .retraining => [Ev.trainingEnd e.1 { peer := 0, bad := 0, inBound := false }]
      | _ => []) ++ [Ev.retrainTrigger e.1 false, .replayTimeout e.1]) ++
  (s.conns.flatMap fun c => [.connopenTimeout c.fn c.peer, .retransmission c.fn c.peer, .connidleTimeout c.fn c.peer,
    .connbackoffExpiry c.fn c.peer, .connectionDrained c.fn c.peer, .connectionSpill c.fn c.peer]) ++
  ((s.fabWait.filter fun m => m.kind ≠ 7).map waitingMsg) ++ [.slotStart] ++
  (s.rings.map fun e => Ev.ringSettled (e.1 / 32) (e.1 % 32) ((Config.free s.free).setWidth 12))

/-- The applications of a device's shards (R404, R406). -/
def shardEvents (s : State) : List Ev :=
  s.shards.flatMap fun e =>
    if e.2.st = .gathering || e.2.st = .applying then
      (List.range (shardCfg e.2.capture).chunks).map fun c => Ev.chunkApply (if e.1 / 1024 = 128 then 0x80 else e.1 / 1024) (e.1 % 1024) c
    else []

/-- The machine's own events that may be enabled, in the order in which they are tried (assumption 2). -/
def ownEvents (s : State) : List Ev :=
  homeEvents s ++ (s.cores.flatMap fun e => coreEvents e.1 e.2) ++ leaseEntries s ++
  (s.benches.flatMap fun e => benchEvents e.1 e.2) ++
  (s.engines.flatMap fun e => engineEvents e.1) ++ ((List.range 6).map Ev.leaseGrant) ++
  (s.ctxs.flatMap fun e => ctxEvents s e.1 e.2) ++
  memEvents s ++ shardEvents s ++ cmdEvents s ++ (if s.scan.busy then [.scanAdmit s.scan.fn] else []) ++ linkEvents s ++ [.dispatcherRound]

/-- An event is enabled when it changes the machine. -/
def enabled (s : State) (e : Ev) : Bool := decide (evState e s ≠ s)

/-- A ring's sample draws a free value. -/
def drawn (s : State) : Ev → State
  | .ringSettled .. => { s with free := s.free + 1 }
  | _ => s

/-! ## The clock -/

/-- A step of the trio ends with its trio clock; a step of A ends once its word has finished, or where A has nothing to run (R128). `ran` and
`busy` tell of the clock that ends: the trio clock advanced, and A had a word in flight. -/
def endSteps (s : State) (k : Nat) (ran busy : Bool) : State :=
  let c := s.getC k
  let s := if c.dbg.stepBusy && ran then stepDone (s.putC k { c with dbg := { c.dbg with stepBusy := false } }) k else s
  let c := s.getC k
  if c.dbg.stepABusy && (busy || !c.a.st.live) then settleStepA s k else s

/-- The trio clock of a core advances in this clock (R90). -/
def advances (now : Nat) (c : Core) : Bool := c.started && !c.away && decide (c.tTime ≤ now)

/-- A core's next clock (R89, R90, R101, R158): tokens are added, bytes that have filled can be popped; where the freeze line was low the
trio clock advances and no stream is FROZEN. -/
def tickCore (now : Nat) (c : Core) : Core :=
  let c := ({ c with oq := c.oq.map fun e => (e.1, e.2.map fun x => { x with fresh := false }) } : Core).settleTokens now
  let c' := if advances now c then { c.lineLow with clk := c.clk + 1 } else c
  if c.a.st = .blocked then c'.pmcAdd 6 1 else c'

/-- While a core of a departing context is HELD, the times of its switch-out do not advance (R127). -/
def holdSwitch (s : State) : State :=
  let held (x : Nat) : Bool := s.cores.any fun e => e.2.dbg.held && e.2.inst.any fun i => i.ctx = x
  { s with ctxs := s.ctxs.map fun e => if e.2.switchStart.isSome && held e.1 then (e.1, { e.2 with switchStart := e.2.switchStart.map fun t => t + 1 }) else e }

/-- The partitions to which benches are bound, one entry per bench (R333). -/
def boundParts (s : State) : List Nat :=
  ((s.cores.filterMap fun e => e.2.inst.map fun i => (benchOf e.1, i.ctx)).foldl
    (fun (l : List (Nat × Nat)) e => if l.any fun f => f.1 = e.1 then l else l ++ [e]) []).map fun e => ringPart s (s.getX e.2).fn

/-- Every clock in which a bench is bound to a partition subtracts one from its deficit (R333). -/
def chargeParts (s : State) : State :=
  { s with deficit := (boundParts s).foldl (fun m p => sset 0 m p (sget 0 m p - 1)) s.deficit }

/-- One core clock passes. -/
def tick (s : State) : State :=
  let ran := s.cores.map fun e => (e.1, advances s.now e.2, !e.2.aQuiet)
  let s' := { s with cores := s.cores.map fun e => (e.1, tickCore s.now e.2) }
  let s' := ran.foldl (fun s e => endSteps s e.1 e.2.1 e.2.2) s'
  let s' := chargeParts (holdSwitch s')
  let s' := if s'.shards = [] then s' else watchShards s'
  let s' := if s'.throttled && (s'.now + 1) % 1200000 = 0 then dcCount s' 0x00700014 1 else s'
  { s' with now := s'.now + 1 }

/-! ## The choice -/

/-- What comes next where the agenda is empty. -/
def pick (s : State) : Pick :=
  match dueDelivery s with
  | some e => .ev e s
  | none => match pickCore s (s.cores.map (·.1)) with
    | .none =>
      if pump s ≠ s then .to (pump s)
      else match (ownEvents s).find? (enabled s) with
        | some e => .ev e (drawn s e)
        | none => .none
    | p => p

end Sys2Proof.Machine
end

