-- ==== Sys2Proof/Machine/Step.lean ====
section
/-! DEFINITION. Machine/Step.lean: one step of the machine, and the state in which a given word runs next. -/

namespace Sys2Proof.Machine

/-- An event that the management processor serves: its clock runs while the device is FROZEN (R416, R425), and a cold reset ends that. -/
def Ev.managed : Ev → Bool
  | .coldReset _ | .dcread | .dcwrite | .idcert | .quote | .fwstage | .scanrd | .registerWrite .. => true
  | _ => false

/-- One step: the oldest event of the agenda, or what `pick` chooses, or one core clock (assumption 2). A FROZEN device takes no step of
its own; its management processor serves the oldest event that is its own (R416). -/
def step (s : State) : Host.Outcome State Fault Refusal :=
  if s.dev = .frozen then
    match s.agenda.find? Ev.managed with
    | some e => runEv e { s with agenda := s.agenda.erase e }
    | none => .next s
  else match s.agenda with
  | e :: l => runEv e { s with agenda := l }
  | [] =>
    match pick s with
    | .word i s' => exec i s'
    | .ev e s' => runEv e s'
    | .to s' => .next s'
    | .none => .next (tick s)

/-- The kernel instance that a placed word runs in: one core, every register usable, SERVICE (assumption 10). -/
def placedInst : Inst :=
  { st := .running, launch := List.replicate 256 0, header := List.replicate 6 0 ++ [1, 0] ++ List.replicate 136 0,
    cores := [0], records := [], sched := [], pg := none, frames := [], startedCores := [0], number := 1 }

/-- The state with a word of the table in the instruction cache of core 0, in the stream whose map has it, due in this
clock: what CREATE, ENABLE, QTAIL and the dispatcher bring about for a program (assumption 10). -/
def State.withFetchWord (s : State) (nbits w : Nat) : State :=
  let word : W64 := BitVec.ofNat 64 (w % 2 ^ nbits)
  match streamOfWord word with
  | none => s
  | some st =>
    let key : InstKey := { ctx := 2048, q := 0, seq := 1 }
    let idle := (hdrOf word).idle.toNat
    let c := Core.reset
    let c := { c with inst := some key, started := true, clk := idle + 1 }
    let c := c.setStr st { Stream.reset with st := .aligned, cache := [(0, word)] }
    let s := s.modX 2048 fun x => { x with st := .running, fn := 0x80, service := true, insts := [(key, placedInst)] }
    { s with agenda := [], dev := .ready, cores := [(0, c)], cur := 0 }

end Sys2Proof.Machine
end

