-- ==== Sys2Proof/Safety.lean ====
section
/-! DEFINITION. Safety.lean: the terms that claims use: the invariants, when a word starts, and what a word leaves alone. -/

namespace Sys2Proof.Machine

/-- Memory keeps its canonical form. -/
def State.memOk (s : State) : Prop := s.mem.wf = true

/-- The word i of stream st, with its header h and guard g, starts in this clock (R37, R58, R89, R91, R102): the core of
`s.cur` runs a node and the stream may issue, its tokens are there, its fields are ones its opcode accepts and its guard is
true. -/
structure Starts (i : Instr) (st : StreamId) (h : Hdr) (g : BitVec 4) (s : State) : Prop where
  runs : canRun s st = true
  tokens : s.core.tokState st h = .ok
  codes : accepted (s.coreService s.core) i = true
  guard : guardTrue s.core st g = some true

/-- The word i starts and gives a scalar result of w registers (R33, R96): v, due `lat` clocks later, for the destination of
specifier d. -/
def Gives (i : Instr) (st : StreamId) (h : Hdr) (d : BitVec 7) (w lat : Nat) (v : W128) (pred : Bool) (s : State) : Prop :=
  exec i s = .next (finishWord st h
    { res := some { val := .scalar v, dest := dstOf st d w pred, lat := lat } } (startWord st s))

/-- The word i of V starts and gives a result in every lane (R32, R37, R96): lane k of `l` where the guard is true and 0
elsewhere, due `lat` clocks later, for the destination of specifier d. -/
def GivesLanes (i : Instr) (h : Hdr) (d : BitVec 7) (w lat : Nat) (mask : W64) (l : List W64) (pred : Bool) (s : State) : Prop :=
  exec i s = .next (finishWord .V h
    { res := some { val := .lanes ((List.range 64).map fun k =>
                            if mask.getLsbD k then (if w = 1 then l.getD k 0 &&& 0xFFFFFFFF else l.getD k 0) else 0)
                    dest := vdstOf d (w = 2) pred mask, lat := lat } } (startWord .V s))

/-- The word i starts and only takes its slot, beyond what s' has already (R90, R101). -/
def Passes (i : Instr) (st : StreamId) (h : Hdr) (target : Option Nat) (s s' : State) : Prop :=
  exec i s = .next (finishWord st h { target := target } s')

/-- Nothing but the core whose word executes differs between two states. -/
def OnlyCore (s t : State) : Prop := { t with cores := s.cores } = s ∧ ∀ k, k ≠ s.cur → t.getC k = s.getC k

end Sys2Proof.Machine
end

