-- ==== Sys2Proof/Certificates/Slice0/Obligations.lean ====
section
/-! DEFINITION. Certificates/Slice0/Obligations.lean: the statements for the provers, each from numbered rules of spec/. -/

open Sys2Proof Sys2Proof.Machine

/-- The number that the bits of an integer of type T stand for (R38, R60): i types, codes 0 to 3, are signed. -/
def Sys2Proof.Machine.tnum (t : BitVec 4) {w : Nat} (x : BitVec w) : Int := if t.toNat < 4 then x.toInt else x.toNat

/-- The rational number that an exact value stands for, zeros included. -/
def Sys2Proof.Machine.Num.rat : Sys2Proof.Machine.Num → Option ℚ
  | .fin neg m e => some ((if neg then -1 else 1) * (m * 2 ^ e))
  | _ => none

/-! ## Encoding and the step -/

/-- Words of the spec's own examples decode to the instructions that stand beside them (R28, R36, R43-R47, R105-R117). -/
def Obligations.SpecWordsDecode : Prop :=
  decode .S 0x00A1100A0E080200 = .ok (.add { idle := 2, pop := 4, push := 1 } { d := 5, a := 3, b := 0b1000001, c := 0, t := 2, rm := 0, g := 0, m := 0 }) ∧
  decode .S 0x000028A40F2E2200 = .ok (.cmp { idle := 0, pop := 0, push := 0 } { d := 0b1010010, a := 3, b := 0b1100101, c := 0b1100010, t := 2, rm := 0, g := 0, m := 0 }) ∧
  decode .S 0x00400840FFFFFFFD = .ok (.br .S { idle := 1, pop := 0, push := 0 } { p := 2, n := 0, k := 0, off := 0xFFFFFFFD }) ∧
  decode .S 0x0000430000000123 = .ok (.trap { idle := 0, pop := 0, push := 0 } { d := 0, a := 0, imm := 0x123 }) ∧
  decode .V 0x00C0130C052408C8 = .ok (.vfma { idle := 3, pop := 0, push := 0 } { d := 6, a := 1, b := 0b0100100, c := 0b1000000, t := 8, rm := 3, g := 2, m := 0 }) ∧
  decode .A 0x0000171210001044 = .ok (.ld { idle := 0, pop := 0, push := 0 } { data := 9, base := 4, off := 16, sz := 2, sp := 0, bypass := 1, ord := 0 }) ∧
  decode .S 0x0000511588000600 = .ok (.lease { idle := 0, pop := 0, push := 0 } { d := 10, a := 0b1100010, b := 0, c := 0, pr := 3, dt := 0, af := 0, g := 0, m := 0 }) ∧
  decode .A 0x00001800000000A0 = .ok (.ldq { idle := 0, pop := 0, push := 0 } { data := 0, base := 0, off := 0, sz := 5, sp := 0, bypass := 0, ord := 0 }) ∧
  decode .X 0x0000132100800001 = .ok (.tmov { idle := 0, pop := 0, push := 0 } { td := 2, ta := 1, tb := 0, rms := 0, cms := 0, et := 0x10, s := 0, g := 0, m := 1 }) ∧
  decode .A 0x00001A0E18000058 = .ok (.st { idle := 0, pop := 0, push := 0 } { data := 7, base := 6, off := 0, sz := 2, sp := 3, bypass := 0, ord := 0 }) ∧
  (decode .S 0x0000470000000000).toOption = none ∧ (decode .A 0x0000300000000000).toOption = none

/-- Decoding the word of an instruction gives that instruction back, with every field (R28, R36, R42-R47). -/
def Obligations.DecodeEncode : Prop :=
  ∀ (i : Instr) (st : StreamId) (w : W64), wordStream i = some st → encode i = some w → decode st w = .ok i

/-- A word that decodes is the encoding of what it decodes to, in the map of the stream it was decoded for: no bit of a word
is dropped, and no two instructions share a word of one stream (R28, R36, R42). -/
def Obligations.DecodeKeepsEveryBit : Prop :=
  ∀ (i : Instr) (st : StreamId) (w : W64), decode st w = .ok i → wordStream i = some st ∧ encode i = some w

/-- A step in which the A word of the first running core is due, with no earlier access of A waiting, or the word of the only live stream of its
trio, is exec of the instruction that the word decodes to: nothing is added around it but naming the core (R28, R58, R90, R93). -/
def Sys2Proof.Machine.StepRunsTheDueWordRule : Prop :=
  ∀ (s : State) (k : Nat) (c : Core) (l : List (Nat × Core)) (w : W64) (i : Instr),
    s.dev ≠ .frozen → s.agenda = [] → s.cores = (k, c) :: l → dueDelivery s = none → c.inst.isSome = true → c.started = true →
    c.away = false → c.dbg.hold = false → c.aPending = false →
    (c.aTime ≤ s.now → c.a.st.live = true → acquireOpen c = false → sfind c.a.cache c.a.pc = some w → decode .A w = .ok i →
      step s = exec i { s with cur := k }) ∧
    (∀ st, st ≠ .A → c.a.st.live = false → (∀ st', st' ≠ st → (c.str st').st.live = false) → c.tTime ≤ s.now → c.seqs = [] →
      trioWordDue c st = true → (c.str st).atAlign ≠ some 0 → sfind (c.str st).cache (c.str st).pc = some w → decode st w = .ok i →
      (((execState i ({ s with cur := k }.modC k Core.lineLow)).getC k).str st).st ≠ .frozen →
      step s = exec i { s with cur := k })

/-- Right after cold reset (R414, R382, R397, R398, R400, R342): the device is in RESET, no core runs a node, every context is
FREE, every byte of HBM reads zero, every port is DOWN and enabled, a slot lasts 12,000 clocks with 600 of guard, one slot
makes a rotation, rings 0 to 15 carry their own wavelength, and every engine is asleep.
Where the spec leaves a point open it follows the model's own readings: notes/assumptions, entries 3, 4. -/
def Obligations.ResetState : Prop :=
  State.reset.dev = .reset ∧ (∀ k, (State.reset.getC k).inst = none) ∧ (∀ x, (State.reset.getX x).st = .free) ∧
  (∀ pa, pa < 2 ^ 39 → State.reset.mem.byte pa = 0) ∧
  (∀ q, (State.reset.port q).st = .down ∧ (State.reset.port q).enable = true) ∧
  (∀ n, (sget Slot.reset State.reset.slots.active n).len = 12000 ∧ (sget Slot.reset State.reset.slots.active n).guard = 600) ∧
  State.reset.slots.activeN = 1 ∧ State.reset.slots.activeSched = false ∧
  (∀ f k, k < 16 → (State.reset.ring f k).mode = 2 ∧ (State.reset.ring f k).wave = BitVec.ofNat 4 k) ∧
  (∀ e, (State.reset.getE e).st = .asleep)

/-- Memory right after reset has its canonical form: rising addresses, and nothing listed that reads as an unlisted byte does
(the form is the model's own, notes/assumptions/3.md and 6.md). -/
def Obligations.ResetMemoryCanonical : Prop := State.reset.memOk

/-- Every step from a state whose memory is canonical leaves it canonical: rising addresses, no byte listed that an unlisted one
would read as, frames under keys in order (the form is the model's own; the bytes are those of R163, R165, R366, R414, R423). -/
def Obligations.StepKeepsMemoryCanonical : Prop := ∀ s t : State, s.memOk → step s = .next t → t.memOk

/-- No instruction and no event ends in a fault or a refusal of the model: exec answers a next state for every one in every
state, since the spec gives each an effect, a halting fault among them (R42, R98, R344). -/
def Obligations.NoInstructionStops : Prop := ∀ (i : Instr) (s : State), ∃ t, exec i s = .next t

/-- In FROZEN the device takes no step of its own; its management processor serves the oldest of its events (R416, R425). -/
def Sys2Proof.Machine.FrozenDeviceStandsRule : Prop :=
  ∀ s : State, s.dev = .frozen →
    (s.agenda.find? Ev.managed = none → step s = .next s) ∧
    (∀ e, s.agenda.find? Ev.managed = some e → step s = runEv e { s with agenda := s.agenda.erase e })

/-- A step runs the word that is due, and a FROZEN device stands.
Where the spec leaves a point open it follows the model's own readings: notes/assumptions, entries 2. -/
def Obligations.StepRunsTheDueWord : Prop := Sys2Proof.Machine.StepRunsTheDueWordRule ∧ Sys2Proof.Machine.FrozenDeviceStandsRule

/-! ## The issue of a word -/

/-- What a word that has started leaves (R90, R96, R101): only its core changes, and no byte of memory; the PC of its stream
stands at the next word or at the word's target, the other streams stand where they stood; its POP tokens are taken; its result
and its PUSH tokens are in flight behind those of earlier words; no register, predicate, vector, mask, tile, operand or store
queue, no byte of scratchpad and no control register has changed, for a result is delivered later. -/
def Sys2Proof.Machine.StartedWordFrameRule : Prop :=
  ∀ (st : StreamId) (h : Hdr) (d : Done) (s : State),
    let t := finishWord st h d s
    let c := s.core
    let e := t.core
    OnlyCore s t ∧ (∀ pa, t.mem.byte pa = s.mem.byte pa) ∧
    (∀ st', st' ≠ st → e.str st' = c.str st') ∧
    ((c.str st).st ≠ .halted → (e.str st).pc = d.target.getD ((c.str st).pc + 8) ∧ (e.str st).rq = (c.str st).rq ∧
      (e.str st).loops = (c.str st).loops ∧ (e.str st).st = (c.str st).st) ∧
    (∀ q, sget 0 e.tokens q = if q ∈ tokenQueues st true h.pop then sget 0 c.tokens q - 1 else sget 0 c.tokens q) ∧
    e.flight = c.flight ++ inFlightOf st h (s.clockOf st) c.nextSeq (c.str st).pc (c.str st).loops d ∧
    e.named = c.named ∧ e.vecs = c.vecs ∧ e.preds = c.preds ∧ e.apreds = c.apreds ∧ e.vpreds = c.vpreds ∧
    e.rowMask = c.rowMask ∧ e.colMask = c.colMask ∧ e.tiles = c.tiles ∧ e.oq = c.oq ∧ e.sq = c.sq ∧ e.spad = c.spad ∧
    e.calls = c.calls ∧ e.tsh = c.tsh ∧ e.xseed = c.xseed ∧ e.satslot = c.satslot ∧ e.rmode = c.rmode ∧ e.opprio = c.opprio ∧
    e.vgen = c.vgen ∧ e.xgen = c.xgen ∧ e.dbg = c.dbg ∧ e.inst = c.inst

/-- A word whose guard is false takes its slot, its POP and its PUSH tokens and nothing else: no memory, no register, no
operation; where its opcode gives a result it pushes zero (R37). Stated for one word of each unit of S. -/
def Sys2Proof.Machine.GuardFalseWordRule : Prop :=
  ∀ (h : Hdr) (o : FR) (s : State), canRun s .S = true → s.core.tokState .S h = .ok →
    let zero (lat : Nat) : Host.Outcome State Fault Refusal :=
      .next (finishWord .S h { res := some { val := .scalar 0, dest := .none, lat := lat } } (startWord .S s))
    (accepted (s.coreService s.core) (.add h o) = true → guardTrue s.core .S o.g = some false → exec (.add h o) s = zero 1) ∧
    (accepted (s.coreService s.core) (.cmp h o) = true → guardTrue s.core .S o.g = some false → exec (.cmp h o) s = zero 1) ∧
    (accepted (s.coreService s.core) (.fdiv h o) = true → guardTrue s.core .S o.g = some false → exec (.fdiv h o) s = zero 14) ∧
    (accepted (s.coreService s.core) (.evpost h o) = true → guardTrue s.core .S o.g = some false → exec (.evpost h o) s = zero 2) ∧
    (accepted (s.coreService s.core) (.barrive h o) = true → guardTrue s.core .S o.g = some false → exec (.barrive h o) s = zero 2) ∧
    (accepted (s.coreService s.core) (.otest h o) = true → guardTrue s.core .S o.g = some false → exec (.otest h o) s = zero 2)

/-- A word that pops from an empty token queue waits: a stream of the trio is FROZEN at it and A is BLOCKED, and no byte of
memory, no token and no register has changed (R91, R102). The same where a queue it pushes to is full. Stated for `nop`,
which every stream has. -/
def Sys2Proof.Machine.TokensHoldAWordRule : Prop :=
  ∀ (st : StreamId) (h : Hdr) (o : NO) (s : State), canRun s st = true → (s.core.str st).atAlign = none →
    (s.core.tokState st h = .absent ∨ s.core.tokState st h = .full) →
    ∃ t, exec (.nop st h o) s = .next t ∧ OnlyCore s t ∧ (∀ pa, t.mem.byte pa = s.mem.byte pa) ∧
      (t.core.str st).st = (if st = .A then .blocked else .frozen) ∧ (t.core.str st).pc = (s.core.str st).pc ∧
      t.core.tokens = s.core.tokens ∧ t.core.named = s.core.named ∧ t.core.flight = s.core.flight

/-- Guards and tokens. -/
def Obligations.GuardsAndTokens : Prop := Sys2Proof.Machine.GuardFalseWordRule ∧ Sys2Proof.Machine.TokensHoldAWordRule

/-- A read of an invalid register is the precise halting fault REG_INVALID: the word has no effect of its own, its PC stays
for the stop record, and the context's halt line rises with that code and this stream first, unless it is up already (R98,
R344). In A the fault is taken once every started word has passed its checks, and until then the word waits (R165). Stated for `mov` and
`aMov`, the register moves of S and A. -/
def Sys2Proof.Machine.InvalidRegisterFaultsRule : Prop :=
  ∀ (h : Hdr) (o : FR) (s : State),
    let raised (st : StreamId) : Host.Outcome State Fault Refusal :=
      .next (haltWord s st { code := 0x01, index := 0, addr := 0, tcode := 0 })
    (Starts (.mov h o) .S h o.g s → s.core.src .S o.a (wideT o.t) = .bad → exec (.mov h o) s = raised .S) ∧
    (Starts (.aMov h o) .A h o.g s → s.core.src .A o.a (wideT o.t) = .bad →
      (s.core.aUnpassed = false → exec (.aMov h o) s = raised .A) ∧
      (s.core.aUnpassed = true → s.core.a.atAlign = none → ∃ t, exec (.aMov h o) s = .next t ∧ OnlyCore s t ∧ t.core.a.st = .blocked ∧
        t.core.a.pc = s.core.a.pc ∧ t.core.flight = s.core.flight)) ∧
    (∀ st f, let t := haltWord s st f
      (st ≠ .A ∨ (s.core.aPending = false ∧ connWaits s s.cur = []) → (t.core.str st).pc = (s.core.str st).pc) ∧ (t.core.str st).fault = some f ∧
      ((s.getX s.core.ctx).halt = none → f.code ≠ 0x41 → (s.getX s.core.ctx).st.halts = true →
        (t.getX s.core.ctx).halt.map (fun a => (a.code, a.first, a.since)) = some (f.code, BitVec.ofNat 16 (4 * s.cur + streamNo st), s.now)))

/-- What a started word leaves, and what one leaves that faults. -/
def Obligations.StartedWordFrame : Prop := Sys2Proof.Machine.StartedWordFrameRule ∧ Sys2Proof.Machine.InvalidRegisterFaultsRule

/-! ## S: integers, predicates and floats -/

/-- The two-operand words of the integer group, at every type (R109, R110, R111, R33): w is 32 or 64 by T, i types signed and
n types unsigned, the result due after 1 clock, 3 or 4 for products, 18 or 34 for quotients. -/
def Obligations.IntegerTwoOperand : Prop :=
  ∀ (h : Hdr) (o : FR) (s : State) (a b : W128),
    s.core.src .S o.a (wideT o.t) = .ok a → s.core.src .S o.b (wideT o.t) = .ok b →
    let w := 32 * wideT o.t
    let x : BitVec w := a.setWidth w
    let y : BitVec w := b.setWidth w
    let gives (i : Instr) (lat : Nat) (v : BitVec w) : Prop :=
      Starts i .S h o.g s → Gives i .S h o.d (wideT o.t) lat (v.setWidth 128) false s
    let of (n : Int) : BitVec w := BitVec.ofInt w n
    let prodLat := if wideT o.t = 2 then 4 else 3
    let divLat := if wideT o.t = 2 then 34 else 18
    gives (.add h o) 1 (x + y) ∧ gives (.sub h o) 1 (x - y) ∧
    gives (.mul h o) prodLat (of (tnum o.t x * tnum o.t y)) ∧
    gives (.mulh h o) prodLat (of (tnum o.t x * tnum o.t y / 2 ^ w)) ∧
    gives (.div h o) divLat (if y = 0 then ~~~0 else of ((tnum o.t x).tdiv (tnum o.t y))) ∧
    gives (.rem h o) divLat (if y = 0 then x else of ((tnum o.t x).tmod (tnum o.t y))) ∧
    gives (.min h o) 1 (of (min (tnum o.t x) (tnum o.t y))) ∧ gives (.max h o) 1 (of (max (tnum o.t x) (tnum o.t y))) ∧
    gives (.and h o) 1 (x &&& y) ∧ gives (.or h o) 1 (x ||| y) ∧ gives (.xor h o) 1 (x ^^^ y) ∧ gives (.andn h o) 1 (x &&& ~~~y)

/-- Shifts, rotates, bit fields, counts and extensions of the integer group (R109, R111): a shift count of w or more gives 0,
or the sign fill for `sar`; a field is clipped to the value; `clz` and `ctz` of 0 give w. -/
def Sys2Proof.Machine.IntegerBitsRule : Prop :=
  ∀ (h : Hdr) (o : FR) (s : State) (a b : W128),
    s.core.src .S o.a (wideT o.t) = .ok a → s.core.src .S o.b 1 = .ok b →
    let w := 32 * wideT o.t
    let x : BitVec w := a.setWidth w
    let n := (b.setWidth 32).toNat
    let pos := n % 64
    let len := min (n / 256 % 128) (w - pos)
    let gives (i : Instr) (v : BitVec w) : Prop := Starts i .S h o.g s → Gives i .S h o.d (wideT o.t) 1 (v.setWidth 128) false s
    gives (.shl h o) (BitVec.ofNat w (x.toNat * 2 ^ min n w)) ∧
    gives (.shr h o) (BitVec.ofNat w (x.toNat / 2 ^ min n w)) ∧
    gives (.sar h o) (BitVec.ofInt w (x.toInt / 2 ^ min n w)) ∧
    gives (.rot h o) (x.rotateLeft (n % w)) ∧
    gives (.bfx h o) (if len = 0 then 0 else
      let f : BitVec len := BitVec.ofNat len (x.toNat / 2 ^ pos)
      if o.t.toNat < 4 then BitVec.ofInt w f.toInt else BitVec.ofNat w f.toNat) ∧
    (x = 0 → gives (.clz h o) (BitVec.ofNat w w) ∧ gives (.ctz h o) (BitVec.ofNat w w)) ∧
    (∀ k, k < w → x.toNat / 2 ^ k = 1 → gives (.clz h o) (BitVec.ofNat w (w - 1 - k))) ∧
    (∀ k, k < w → x.getLsbD k = true → (∀ j, j < k → x.getLsbD j = false) → gives (.ctz h o) (BitVec.ofNat w k)) ∧
    gives (.popc h o) (BitVec.ofNat w ((List.range w).countP fun k => x.getLsbD k)) ∧
    gives (.mov h o) x

/-- The other words of the integer group and the predicate group (R109, R111-R113): `mad`, `bfi`, `ext`, `sel`, `cmp` with
its conditions, `movi`, `movh`, `keep` and the predicate words, whose results are 0 or 1 and may go to p1 to p7. -/
def Sys2Proof.Machine.IntegerSelectAndCompareRule : Prop :=
  ∀ (h : Hdr) (o : FR) (f : FI) (s : State) (a b c : W128),
    let w := 32 * wideT o.t
    let cut (v : W128) : BitVec w := v.setWidth w
    let bit (p : Bool) : W128 := if p then 1 else 0
    let gives (i : Instr) (n lat : Nat) (v : W128) (pred : Bool) : Prop := Starts i .S h o.g s → Gives i .S h o.d n lat v pred s
    (s.core.src .S o.a (wideT o.t) = .ok a → s.core.src .S o.b (wideT o.t) = .ok b → s.core.src .S o.c (wideT o.t) = .ok c →
      gives (.mad h o) (wideT o.t) (if wideT o.t = 2 then 4 else 3) ((cut a * cut b + cut c).setWidth 128) false) ∧
    (s.core.src .S o.a (wideT o.t) = .ok a → s.core.src .S o.b (wideT o.t) = .ok b → s.core.src .S o.c 1 = .ok c →
      let n := (c.setWidth 32).toNat
      let pos := n % 64
      let len := min (n / 256 % 128) (w - pos)
      let field : BitVec w := BitVec.ofNat w (2 ^ len - 1) <<< pos
      gives (.bfi h o) (wideT o.t) 1 (((cut a &&& ~~~field) ||| (cut b <<< pos &&& field)).setWidth 128) false) ∧
    (s.core.src .S o.a 1 = .ok c → s.core.src .S o.b (wideT o.t) = .ok a → s.core.src .S o.c (wideT o.t) = .ok b →
      gives (.sel h o) (wideT o.t) 1 ((cut (if c.setWidth 32 ≠ (0 : W32) then a else b)).setWidth 128) false) ∧
    (s.core.src .S o.a (wideT o.t) = .ok a → s.core.src .S o.b 1 = .ok c → c.setWidth 32 ≠ (0 : W32) →
      gives (.keep h o) (wideT o.t) 1 ((cut a).setWidth 128) false) ∧
    (s.core.src .S o.a (wideT o.t) = .ok a → s.core.src .S o.b 1 = .ok c → c.setWidth 32 = (0 : W32) →
      o.d.extractLsb' 6 1 = 0 → s.core.src .S o.d (wideT o.t) = .ok b → gives (.keep h o) (wideT o.t) 1 ((cut b).setWidth 128) false) ∧
    (s.core.src .S o.a 1 = .ok a → o.t = 0 → gives (.ext h o) (if o.m.getLsbD 0 then 2 else 1) 1
      (if o.m.getLsbD 0 then ((BitVec.ofInt 64 (a.setWidth 8 : BitVec 8).toInt).setWidth 128) else ((BitVec.ofInt 32 (a.setWidth 8 : BitVec 8).toInt).setWidth 128)) false) ∧
    (s.core.src .S o.a (wideT o.t) = .ok a → s.core.src .S o.b (wideT o.t) = .ok b →
      let x := tnum o.t (cut a)
      let y := tnum o.t (cut b)
      let holds (n : Nat) : Bool := match n with | 0 => x = y | 1 => x ≠ y | 2 => x < y | 3 => x ≤ y | 4 => y < x | _ => y ≤ x
      ∀ n : Nat, n ≤ 5 → immOf o.c = some (n : Int) → gives (.cmp h o) 1 1 (bit (holds n)) true) ∧
    (s.core.src .S o.a 1 = .ok a → s.core.src .S o.b 1 = .ok b →
      let p := a.setWidth 32 ≠ (0 : W32)
      let q := b.setWidth 32 ≠ (0 : W32)
      gives (.pand h o) 1 1 (bit (p && q)) true ∧ gives (.por h o) 1 1 (bit (p || q)) true ∧
      gives (.pxor h o) 1 1 (bit (p != q)) true) ∧
    (s.core.src .S o.a 1 = .ok a → gives (.pnot h o) 1 1 (bit (a.setWidth 32 = (0 : W32))) true) ∧
    (Starts (.movi h f) .S h 0 s → Gives (.movi h f) .S h f.d 1 1 ((f.imm.signExtend 32).setWidth 128) false s) ∧
    (s.core.src .S f.a 1 = .ok a → Starts (.movh h f) .S h 0 s →
      Gives (.movh h f) .S h f.d 1 1 ((f.imm.extractLsb' 0 16 ++ a.extractLsb' 0 16 : BitVec 32).setWidth 128) false s)

/-- Shifts, bit fields, counts, selects, compares, immediates and predicates of S. -/
def Obligations.IntegerBits : Prop := Sys2Proof.Machine.IntegerBitsRule ∧ Sys2Proof.Machine.IntegerSelectAndCompareRule

/-- The float group of S on f32 codes (R111, R114, R115): `fadd`, `fsub`, `fmul`, `ffma` give the sum, the difference, the product, the
product plus a third number, after 4 clocks, `fdiv` and `fsqrt` the quotient and the root, after 14: what the exact operations of the model
answer, rounded once by `FFmt.round` in the word's mode (Obligations.RoundingRule says what that function gives). Sums, differences and products of finite
numbers are exact. After 2 clocks `fmin` and `fmax` give the smaller and the larger operand, `fcmp` the truth of its condition, `fclass` one bit
of ten. Every one of the ten answers a next state wherever its operands are readable. -/
def Sys2Proof.Machine.FloatWordsRule : Prop :=
  ∀ (h : Hdr) (o : FR) (s : State) (a : W128), s.core.src .S o.a 1 = .ok a →
    let x := f32v (a.setWidth 32)
    let rm : BitVec 2 := if o.rm = 3 then 0 else o.rm
    let gives (i : Instr) (lat : Nat) (v : W32) : Prop := Starts i .S h o.g s → Gives i .S h o.d 1 lat (v.setWidth 128) false s
    let rounded (n : Sys2Proof.Machine.Num) : W32 := BitVec.ofNat 32 (FFmt.f32.round rm 0 n)
    gives (.fsqrt h o) 14 (rounded x.sqrt) ∧
    (∀ f, tyOf o.t.toNat = .flt f → ∃ b < 10, gives (.fclass h o) 2 (BitVec.ofNat 32 (2 ^ b))) ∧
    (∀ b, s.core.src .S o.b 1 = .ok b →
      let y := f32v (b.setWidth 32)
      gives (.fadd h o) 4 (rounded (x.add (rm = 2) y)) ∧ gives (.fsub h o) 4 (rounded (x.add (rm = 2) y.neg)) ∧
      gives (.fmul h o) 4 (rounded (x.mul y)) ∧ gives (.fdiv h o) 14 (rounded (x.div y)) ∧
      (∀ c, s.core.src .S o.c 1 = .ok c → gives (.ffma h o) 4 (rounded ((x.mul y).add (rm = 2) (f32v (c.setWidth 32))))) ∧
      gives (.fmin h o) 2 (fminmax false (a.setWidth 32) (b.setWidth 32)) ∧ gives (.fmax h o) 2 (fminmax true (a.setWidth 32) (b.setWidth 32)) ∧
      (∀ n : Nat, n ≤ 7 → immOf o.c = some (n : Int) → gives (.fcmp h o) 2 (if condHolds n (x.cmp y) then 1 else 0)) ∧
      (∀ p q, x.rat = some p → y.rat = some q →
        (x.add (rm = 2) y).rat = some (p + q) ∧ (x.add (rm = 2) y.neg).rat = some (p - q) ∧ (x.mul y).rat = some (p * q) ∧
        (f32v (fminmax false (a.setWidth 32) (b.setWidth 32))).rat = some (min p q) ∧
        (f32v (fminmax true (a.setWidth 32) (b.setWidth 32))).rat = some (max p q)))


/-! ## The common block, control flow, control and system registers -/

/-- The byte offset `off` words away from a word at pc, modulo 2^32 (R40). -/
def Sys2Proof.Machine.awayFrom (pc : Nat) (off : Int) (k : Nat) : Prop := k < 2 ^ 32 ∧ ∃ n : Int, (k : Int) = pc + 8 * off + n * 2 ^ 32

/-- The common block (R94, R104-R108, R49): `nop` only takes its slot; `stop` leaves STOPPED; `br` goes to its target where its
condition holds, on V for any lane or for all; `loop` with a count enters its body, `endl` goes back to the body while an
iteration is left and otherwise leaves the loop; the last `align` of the trio releases the others and is counted for A; `brk`
with BRKEN puts the core in debug hold, without it is the halting fault SW_TRAP; a `pool` word is passed over with its pool. -/
def Sys2Proof.Machine.CommonBlockRule : Prop :=
  ∀ (st : StreamId) (h : Hdr) (no : NO) (fl : FL) (fi : FI) (fb : FB) (s : State),
    let c := s.core
    let m := c.str st
    let s1 := startWord st s
    let withLoops (l : List LoopEntry) : State := s1.setCore (s1.core.modStr st fun m => { m with loops := l })
    (Starts (.nop st h no) st h 0 s → Passes (.nop st h no) st h none s s1) ∧
    (Starts (.stop st h no) st h 0 s → (st = .A → c.aPending = false) → Passes (.stop st h no) st h none s (s1.setCore (s1.core.modStr st fun m => { m with st := .stopped }))) ∧
    (Starts (.br st h fb) st h 0 s → (st = .A → ∀ f ∈ c.flight, f.dest ≠ .apred fb.p.toNat) →
      let lanes : W64 := if fb.p = 0 then ~~~0 else sget 0 c.vpreds fb.p.toNat
      let holds : Bool := match st with
        | .V => if fb.k.getLsbD 0 then lanes = ~~~0 else lanes ≠ 0
        | .A => fb.p = 0 || c.apreds.getLsbD fb.p.toNat
        | _ => fb.p = 0 || c.preds.getLsbD fb.p.toNat
      (holds = (fb.n = 1) → Passes (.br st h fb) st h none s s1) ∧
      (holds ≠ (fb.n = 1) → ∀ k, awayFrom m.pc fb.off.toInt k → Passes (.br st h fb) st h (some k) s s1)) ∧
    (∀ n i, Starts (.loop st h fl) st h 0 s → st ≠ .V → fl.count ≠ 0b1011000 → c.src st fl.count 1 = .ok n → s.coreInst c = some i →
      (n.setWidth 32 : W32).toNat ≤ i.loopMax fl.level.toNat → (n.setWidth 32 : W32) ≠ 0 → m.loops.length < 8 →
      Passes (.loop st h fl) st h none s (withLoops ({ count := (n.setWidth 32 : W32).toNat, index := 0, body := m.pc + 8 } :: m.loops))) ∧
    (∀ n i, Starts (.loop st h fl) st h 0 s → st ≠ .V → fl.count ≠ 0b1011000 → c.src st fl.count 1 = .ok n → s.coreInst c = some i →
      (st = .A → c.aUnpassed = false) → i.loopMax fl.level.toNat < (n.setWidth 32 : W32).toNat → exec (.loop st h fl) s = .next (haltWord s st (stopCode 0x04))) ∧
    (∀ e l, Starts (.endl st h fl) st h 0 s → m.loops = e :: l →
      (e.index + 1 < e.count → Passes (.endl st h fl) st h (some e.body) s (withLoops ({ e with index := e.index + 1 } :: l))) ∧
      (e.count ≤ e.index + 1 → Passes (.endl st h fl) st h none s (withLoops l))) ∧
    (Starts (.align st h no) st h 0 s → st ≠ .A → m.atAlign ≠ some 1 →
      (∀ o, o ≠ st → o ≠ .A → (c.str o).st = .stopped ∨ (c.str o).st = .halted ∨ (c.str o).atAlign = some 0) →
      ∃ s', Passes (.align st h no) st h none s s' ∧ s'.core.trioAligns = c.trioAligns + 1 ∧
        ∀ o, o ≠ .A → (c.str o).atAlign = some 0 → (s'.core.str o).atAlign = some 1) ∧
    (Starts (.align .A h no) .A h 0 s → c.aPending = false → 0 < c.trioAligns → (c.s.st.live || c.v.st.live || c.x.st.live) = true →
      Passes (.align .A h no) .A h none s
        ((startWord .A s).setCore { (startWord .A s).core with trioAligns := c.trioAligns - 1 })) ∧
    (Starts (.brk st h fi) st h 0 s → (st = .A → c.aUnpassed = false) → c.dbg.brkEn = true → Passes (.brk st h fi) st h none s
      (s1.setCore { s1.core with dbg := { c.dbg with brkCode := fi.imm, hold := true, held := true, since := s.now } })) ∧
    (Starts (.brk st h fi) st h 0 s → (st = .A → c.aUnpassed = false) → c.dbg.brkEn = false →
      exec (.brk st h fi) s = .next (haltWord s st { code := 0x06, index := 0, addr := 0, tcode := fi.imm.setWidth 32 })) ∧
    (canRun s st = true → accepted (s.coreService c) (.pool st h fi) = true →
      exec (.pool st h fi) s = .next (s.setCore (c.modStr st fun m => { m with pc := m.pc + 8 * (1 + (fi.imm.extractLsb' 0 25).toNat) })))

/-- `ldlit` (R50, R107): the 64-bit literal at its signed word offset, 3 clocks later; on V its low half in the even lanes and
its high half in the odd ones. Stated for a literal in the instruction cache. -/
def Sys2Proof.Machine.LiteralWordRule : Prop :=
  ∀ (st : StreamId) (h : Hdr) (o : FI) (s : State) (k : Nat) (w : W64),
    Starts (.ldlit st h o) st h 0 s → awayFrom (s.core.str st).pc o.imm.toInt k → sfind (s.core.str st).cache k = some w →
    (st ≠ .V → Gives (.ldlit st h o) st h o.d 2 3 (w.setWidth 128) false s) ∧
    (st = .V → GivesLanes (.ldlit st h o) h o.d 1 3 (~~~0)
      ((List.range 64).map fun i => if i % 2 = 0 then (w.extractLsb' 0 32).setWidth 64 else (w.extractLsb' 32 32).setWidth 64) false s)

/-- The common block whole: its words, and `ldlit`. -/
def Obligations.CommonBlock : Prop := Sys2Proof.Machine.CommonBlockRule ∧ Sys2Proof.Machine.LiteralWordRule

/-- `call`, `ret`, `jmp` and `swt` (R117, R118, R49): `call` leaves the address of the word after it on the return stack and
goes to its target; `ret` goes to the last address left; a ninth call and a return from an empty stack are the halting fault
CALL_STACK; `jmp` goes to the entry that its index names and faults with INDEX_RANGE past the last, where `swt` takes the last. The
entries stand in the instruction cache after a pool word whose low 25 bits give their number. -/
def Sys2Proof.Machine.CallsAndTablesRule : Prop :=
  ∀ (h : Hdr) (no : NO) (fi : FI) (fb : FB) (s : State),
    let c := s.core
    let s1 := startWord .S s
    let holds : Bool := (fb.p = 0 || c.preds.getLsbD fb.p.toNat) != (fb.n = 1)
    (Starts (.call h fb) .S h 0 s → holds = true →
      (c.calls.length < 8 → ∀ k, awayFrom c.s.pc fb.off.toInt k →
        Passes (.call h fb) .S h (some k) s (s1.setCore { s1.core with calls := (c.s.pc + 8) :: c.calls })) ∧
      (8 ≤ c.calls.length → exec (.call h fb) s = .next (haltWord s .S (stopCode 0x03)))) ∧
    (Starts (.call h fb) .S h 0 s → holds = false → Passes (.call h fb) .S h none s s1) ∧
    (Starts (.ret h no) .S h 0 s →
      (∀ pc l, c.calls = pc :: l → Passes (.ret h no) .S h (some pc) s (s1.setCore { s1.core with calls := l })) ∧
      (c.calls = [] → exec (.ret h no) s = .next (haltWord s .S (stopCode 0x03)))) ∧
    (∀ i first p e k n, 8 ≤ first → awayFrom c.s.pc fi.imm.toInt first → c.src .S fi.a 1 = .ok i → sfind c.s.cache (first - 8) = some p →
      let count := (p.extractLsb' 0 25).toNat
      let idx := (i.setWidth 32 : W32)
      sfind c.s.cache (first + 8 * n) = some e → awayFrom (first + 8 * n) (e.setWidth 32 : W32).toInt k →
      (Starts (.jmp h fi) .S h 0 s → idx.toNat = n → n < count → Passes (.jmp h fi) .S h (some k) s s1) ∧
      (Starts (.jmp h fi) .S h 0 s → count ≤ idx.toNat →
        exec (.jmp h fi) s = .next (haltWord s .S { code := 0x21, index := idx, addr := 0, tcode := 0 })) ∧
      (Starts (.swt h fi) .S h 0 s → n = min idx.toNat (count - 1) → Passes (.swt h fi) .S h (some k) s s1))

/-- Control and system registers, the clocks, `trap` and `evpost` (R119-R125, R347, R348): a write is delivered one trio clock
later; a read gives the register's value after 2 or 4 clocks; `clk` gives the trio clock, or the device clock with M = 1; `trap` is
the halting fault SW_TRAP with its code; `evpost` gives what its context's ring answered, 2 clocks after. -/
def Sys2Proof.Machine.ControlRegistersRule : Prop :=
  ∀ (h : Hdr) (fi : FI) (o : FR) (s : State),
    let c := s.core
    let s1 := startWord .S s
    let n := (fi.imm.extractLsb' 0 12).toNat
    let late (d : Dest) (v : W128) : Host.Outcome State Fault Refusal :=
      .next (finishWord .S h { res := some { val := .scalar ((v.setWidth 32).setWidth 128), dest := d, lat := 1, enters := false } } s1)
    let reads (v : W32) : Prop := Gives (.mvrc h fi) .S h fi.d 1 2 (v.setWidth 128) false s
    let readsSys (v : W32) : Prop := Gives (.sysr h fi) .S h fi.d 1 4 (v.setWidth 128) false s
    (∀ v, c.src .S fi.a 1 = .ok v → n ≠ 0x010 → Starts (.mvcr h fi) .S h 0 s → exec (.mvcr h fi) s = late (.ctl n) v) ∧
    (∀ v, c.src .S fi.a 1 = .ok v → Starts (.sysw h fi) .S h 0 s → exec (.sysw h fi) s = late (.sys n) v) ∧
    (Starts (.mvrc h fi) .S h 0 s →
      (n ≤ 0x00F → reads (sget 0 c.tsh n)) ∧ (n = 0x010 → reads c.xseed) ∧ (n = 0x011 → reads (c.satslot.setWidth 32)) ∧
      (n = 0x012 → reads (c.rmode.setWidth 32)) ∧ (n = 0x018 → reads (c.opprio.setWidth 32)) ∧
      (n = 0x020 → reads (BitVec.ofNat 32 s.cur)) ∧ (n = 0x021 → reads (BitVec.ofNat 32 (s.cur / 4))) ∧
      (n = 0x022 → reads (BitVec.ofNat 32 (s.cur / 4 / 48))) ∧ (n = 0x024 → reads (BitVec.ofNat 32 c.ctx)) ∧
      (∀ q l, n = 0x040 + q → q < 2 → sget [] c.oq (6 + q) = [{ bytes := l, filled := true, fresh := false }] → l.length = 4 →
        ∃ s', s'.core.oq = sset [] c.oq (6 + q) [] ∧ exec (.mvrc h fi) s = .next (finishWord .S h
          { res := some { val := .scalar (BitVec.ofNat 128 (leNat l)), dest := dstOf .S fi.d 1 false, lat := 2 } } s'))) ∧
    (Starts (.sysr h fi) .S h 0 s →
      (∀ k, k < 4 → (n = 0x010 + k → readsSys (c.pmc.getD k 0)) ∧ (n = 0x018 + k → readsSys ((c.pmsel.getD k 0).setWidth 32)))) ∧
    (Starts (.clk h o) .S h o.g s →
      (o.m = 1 → Gives (.clk h o) .S h o.d 2 1 ((BitVec.ofNat 64 s.coldClock).setWidth 128) false s) ∧
      (o.m ≠ 1 → Gives (.clk h o) .S h o.d 1 1 ((BitVec.ofNat 32 c.clk).setWidth 128) false s)) ∧
    (Starts (.trap h fi) .S h 0 s →
      exec (.trap h fi) s = .next (haltWord s .S { code := 0x06, index := 0, addr := 0, tcode := (fi.imm.extractLsb' 0 25).setWidth 32 })) ∧
    (∀ a b v, c.src .S o.a 1 = .ok a → c.src .S o.b 2 = .ok b → Starts (.evpost h o) .S h o.g s → c.req = .replied v →
      exec (.evpost h o) s = .next (finishWord .S h
        { res := some { val := .scalar ((v.setWidth 32).setWidth 128), dest := dstOf .S o.d 1 false, lat := 2 } }
        (s1.setCore { s1.core with req := .none })))

/-- Calls, tables, control and system registers. -/
def Obligations.CallsAndTables : Prop := Sys2Proof.Machine.CallsAndTablesRule ∧ Sys2Proof.Machine.ControlRegistersRule

/-! ## Numbers -/

/-- Rounding of arithmetic results (R73, R74, R72, R63): u is the spacing at |x|, subnormal range included; k whole spacings
and the fraction φ decide by the mode, SR by its draw of 24 bits; the chosen multiple is what the code stands for, with the
sign of x, zero included; a result beyond the largest finite code is the infinity or that code, as the mode has it. -/
def Sys2Proof.Machine.RoundingRuleRule : Prop :=
  ∀ (f : FFmt) (rm : BitVec 2) (draw : Nat) (neg : Bool) (m : Nat) (e : Int),
    f = .f32 ∨ f = .f16 ∨ f = .bf16 → m ≠ 0 → draw < 2 ^ 24 →
    let x : ℚ := m * 2 ^ e
    let u : ℚ := 2 ^ max (Int.log 2 x - f.fbits) (1 - f.bias - f.fbits)
    let k := ⌊x / u⌋.toNat
    let φ : ℚ := x / u - k
    let up : Prop := match rm.toNat with
      | 0 => 1 / 2 < φ ∨ (φ = 1 / 2 ∧ k % 2 = 1)
      | 1 => False
      | 2 => neg = true ∧ 0 < φ
      | _ => (draw : Int) < ⌊φ * 2 ^ 24⌋
    let top : ℚ := (2 - 2 ^ (-(f.fbits : Int))) * 2 ^ f.bias
    let code := f.round rm draw (.fin neg m e)
    ∀ k' : Nat, (up → k' = k + 1) → (¬ up → k' = k) →
      (k' * u ≤ top → (f.value code).rat = some ((if neg then -1 else 1) * (k' * u)) ∧ (2 ^ (f.ebits + f.fbits) ≤ code ↔ neg = true)) ∧
      (top < k' * u →
        f.value code = if rm = 0 ∨ (rm = 2 ∧ neg = true) ∨ (rm = 3 ∧ k' = k + 1) then .inf neg
          else f.value (f.maxCode + if neg then 2 ^ (f.ebits + f.fbits) else 0))

/-- Narrowing to an integer type (R71, R66): NaN gives the largest value and counts both events, an infinity the end of the
range and one saturation; a number is rounded to an integer in the word's mode and, outside the range, gives its nearest
end and counts one saturation. -/
def Sys2Proof.Machine.NarrowToIntegerRule : Prop :=
  ∀ (sg : Bool) (w : Nat) (rm : BitVec 2) (draw : Nat) (neg : Bool) (m : Nat) (e : Int), w ∈ [8, 16, 32, 64] → draw < 2 ^ 24 →
    let lo : Int := if sg then -2 ^ (w - 1) else 0
    let hi : Int := if sg then 2 ^ (w - 1) - 1 else 2 ^ w - 1
    let coded (n : Int) (c : Nat) : Prop := c < 2 ^ w ∧ ∃ j : Int, (c : Int) = n + j * 2 ^ w
    let at_ (x : Sys2Proof.Machine.Num) := narrow (.int sg w) rm draw x
    let x : ℚ := (if neg then -1 else 1) * (m * 2 ^ e)
    (coded hi (at_ .nan).code ∧ (at_ .nan).sat = true ∧ (at_ .nan).nan = true) ∧
    (coded (if neg then lo else hi) (at_ (.inf neg)).code ∧ (at_ (.inf neg)).sat = true ∧ (at_ (.inf neg)).nan = false) ∧
    (∀ n : Int,
      (rm = 0 → |x - n| ≤ 1 / 2 ∧ (|x - n| = 1 / 2 → n % 2 = 0)) → (rm = 1 → |(n : ℚ)| ≤ |x| ∧ |x| < |(n : ℚ)| + 1 ∧ 0 ≤ x * n) →
      (rm = 2 → (n : ℚ) ≤ x ∧ x < n + 1) → rm ≠ 3 →
      (at_ (.fin neg m e)).nan = false ∧ ((at_ (.fin neg m e)).sat = true ↔ n < lo ∨ hi < n) ∧
      coded (max lo (min n hi)) (at_ (.fin neg m e)).code)

/-- Rounding to a float format and to an integer. -/
def Obligations.RoundingRule : Prop := Sys2Proof.Machine.NarrowToIntegerRule ∧ Sys2Proof.Machine.RoundingRuleRule

/-- `fcvt` and `fclass` (R115, R116, R71): `fcvt` answers a next state for every source type and destination, with a result of the
destination's width after 3 clocks; a conversion between two types narrows the exact value of the source in the word's mode, and its events are
counted in the slot of SATSLOT; one to the same type copies the code of an integer, and of a float that is no NaN, and counts nothing. `fclass` of
each float type gives one bit of ten after 2 clocks. -/
def Sys2Proof.Machine.ConversionWordsRule : Prop :=
  ∀ (h : Hdr) (o : FR) (s : State) (a : W128) (src : Nat),
    immOf o.c = some (src : Int) → src ≤ 13 → s.core.src .S o.a (if src = 3 ∨ src = 7 then 2 else 1) = .ok a →
    let rm : BitVec 2 := if o.rm = 3 then 0 else o.rm
    let r := narrow (tyOf o.t.toNat) rm 0 ((tyOf src).value a.toNat)
    (Starts (.fcvt h o) .S h o.g s →
      (∃ v s', exec (.fcvt h o) s = .next (finishWord .S h { res := some { val := .scalar v, dest := dstOf .S o.d (wideT o.t) false, lat := 3 } } s')) ∧
      (o.t.toNat ≠ src → exec (.fcvt h o) s = .next (finishWord .S h
        { res := some { val := .scalar (BitVec.ofNat 128 (r.code % 2 ^ (32 * wideT o.t))), dest := dstOf .S o.d (wideT o.t) false, lat := 3 } }
        (satWord (startWord .S s) .S s.core.satslot.toNat (if r.sat then 1 else 0) (if r.nan then 1 else 0)))) ∧
      (o.t.toNat = src → ∀ sg w, tyOf src = .int sg w → Gives (.fcvt h o) .S h o.d (wideT o.t) 3 (BitVec.ofNat 128 (a.toNat % 2 ^ w)) false s) ∧
      (o.t.toNat = src → ∀ f, tyOf src = .flt f → f.value a.toNat ≠ .nan →
        Gives (.fcvt h o) .S h o.d 1 3 (BitVec.ofNat 128 (a.toNat % 2 ^ (f.sbits + 1))) false s)) ∧
    (Starts (.fclass h o) .S h o.g s → s.core.src .S o.a 1 = .ok a → ∀ f, tyOf o.t.toNat = .flt f →
      ∃ b < 10, Gives (.fclass h o) .S h o.d 1 2 (BitVec.ofNat 128 (2 ^ b)) false s)

/-- The float words of S whole. -/
def Obligations.FloatWords : Prop := Sys2Proof.Machine.FloatWordsRule ∧ Sys2Proof.Machine.ConversionWordsRule

/-! ## Deliveries -/

/-- RESULT_DELIVERY (R33, R34, R96-R98, R113, R119, R123): the one due result of a core enters its stream's result queue, at
its head, where it is one of those that enter, and goes to its destination, which becomes valid; nothing else changes. -/
def Sys2Proof.Machine.ResultDeliveredRule : Prop :=
  ∀ (k : Nat) (f : InFlight) (s : State) (d : Nat),
    let c := s.getC k
    c.flight = [f] → f.tokens = 0 → f.due = some d → (f.stream ≠ .A → d ≤ c.clk) → (f.stream = .A → d ≤ s.now ∧ f.fab = none ∧ f.acc = none ∧ c.dbg.stepABusy = false) →
    ∃ t, exec (.resultDelivery k) s = .next t ∧
      let e := t.getC k
      { t with cores := s.cores } = s ∧ (∀ j, j ≠ k → t.getC j = s.getC j) ∧ e.flight = [] ∧ e.tokens = c.tokens ∧
      (∀ st, (e.str st).rq = if f.enters = true ∧ st = f.stream then (f.val :: (c.str st).rq).take 16 else (c.str st).rq) ∧
      (∀ st, (e.str st).pc = (c.str st).pc ∧ (e.str st).st = (c.str st).st ∧ (e.str st).loops = (c.str st).loops) ∧
      (∀ n, f.dest = .named n 1 → e.reg n = { val := f.val.bits.setWidth 32, valid := true } ∧ (∀ m, m ≠ n → e.reg m = c.reg m) ∧
        e.vecs = c.vecs ∧ e.preds = c.preds) ∧
      (∀ n, f.dest = .named n 2 → e.reg n = { val := f.val.bits.setWidth 32, valid := true } ∧
        e.reg (n + 1) = { val := (f.val.bits >>> 32).setWidth 32, valid := true } ∧ (∀ m, m ≠ n → m ≠ n + 1 → e.reg m = c.reg m)) ∧
      (∀ n : Nat, n < 8 → f.dest = .pred n → ∀ j : Nat, j < 8 →
        e.preds.getLsbD j = if j = n then decide (f.val.bits ≠ 0) else c.preds.getLsbD j) ∧
      (∀ n mask, f.dest = .vec n false mask → (e.vec n).valid = true ∧
        ∀ i, i < 64 → (e.vec n).lane i = if mask.getLsbD i then (f.val.toLanes.getD i 0).setWidth 32 else (c.vec n).lane i) ∧
      (∀ n, n ≤ 0x00F → f.dest = .ctl n → sget 0 e.tsh n = f.val.bits.setWidth 32 &&& 0x000FFFFF) ∧
      (f.dest = .ctl 0x012 → e.rmode = f.val.bits.setWidth 2) ∧
      (f.dest = .none → e.named = c.named ∧ e.vecs = c.vecs ∧ e.preds = c.preds ∧ e.apreds = c.apreds)

/-- Two due results of one stream enter its queue in the order of their clocks, so that q0 is the later one (R96, R97). -/
def Sys2Proof.Machine.ResultsInClockOrderRule : Prop :=
  ∀ (k : Nat) (f g : InFlight) (s : State) (d1 d2 : Nat),
    let c := s.getC k
    (c.flight = [f, g] ∨ c.flight = [g, f]) → f ≠ g → f.tokens = 0 → g.tokens = 0 → f.enters = true → g.enters = true →
    f.stream ≠ .A → g.stream = f.stream → f.due = some d1 → g.due = some d2 → d1 < d2 → d2 ≤ c.clk →
    ∃ t, exec (.resultDelivery k) s = .next t ∧ (t.getC k).flight = [] ∧
      ((t.getC k).str f.stream).rq = (g.val :: f.val :: (c.str f.stream).rq).take 16

/-- The other deliveries of a core: a due tile write lands in its tile (R202), and a missing word arrives in its stream's
instruction cache (R93, R53), where another core, memory and the stream's PC stay. -/
def Sys2Proof.Machine.TilesAndWordsArriveRule : Prop :=
  ∀ (k : Nat) (s : State),
    let c := s.getC k
    (∀ w, c.tileW = [w] → c.seqs = [] → w.due ≤ c.clk →
      ∃ t, exec (.tileWriteDelivery k) s = .next t ∧ (t.getC k).tileW = [] ∧ (t.getC k).tiles = (c.applyTarget w.target).tiles ∧
        { t with cores := s.cores } = s ∧ ∀ j, j ≠ k → t.getC j = s.getC j) ∧
    (∀ n l, let st := streamOf n
      c.inst.isSome = true → c.started = true → c.away = false → (c.str st).st.live = true → sfind (c.str st).cache (c.str st).pc = none →
      waitsFault s k st = false → fetchCode s k (c.str st).pc = .ok l →
      ∃ t, exec (.fetchMissArrival k n) s = .next t ∧
        sfind ((t.getC k).str st).cache (c.str st).pc = some (BitVec.ofNat 64 (leNat l)) ∧
        ((t.getC k).str st).pc = (c.str st).pc ∧ (t.getC k).named = c.named ∧ { t with cores := s.cores } = s)

/-- Results of one stream in order; tile writes and fetched words. -/
def Sys2Proof.Machine.LaterDeliveriesRule : Prop := Sys2Proof.Machine.ResultsInClockOrderRule ∧ Sys2Proof.Machine.TilesAndWordsArriveRule

/-- The deliveries of a core: results, tile writes, fetched words. -/
def Obligations.ResultDelivered : Prop := Sys2Proof.Machine.ResultDeliveredRule ∧ Sys2Proof.Machine.LaterDeliveriesRule

/-! ## V: the words on lanes -/

/-- The lanes where a guard field is true (R37): vector predicate 0 is all true, and bit 3 of the field turns it round. -/
def Sys2Proof.Machine.guardLanes (c : Core) (g : BitVec 4) : W64 :=
  let p : W64 := if g.extractLsb' 0 3 = 0 then ~~~0 else sget 0 c.vpreds (g.extractLsb' 0 3).toNat
  if g.getLsbD 3 then ~~~p else p

/-- 64 lanes of 32 bits from a function of the lane's number. -/
def Sys2Proof.Machine.lanes32 (f : Nat → W32) : List W64 := (List.range 64).map fun i => (f i).setWidth 64

/-- Lane i of a source as 32 bits. -/
def Sys2Proof.Machine.lane32 (l : List W64) (i : Nat) : W32 := (l.getD i 0).setWidth 32

/-- The arithmetic words of V on 32-bit integers and on f32 with a rounding mode other than SR (R134, R129, R37, R72, R88): lane i of
the result comes from lanes i of the sources; lanes whose guard is false give 0 and keep the destination; 4 clocks, 2 for
minimum, maximum, absolute value and negation, 14 for quotients and roots. -/
def Obligations.LaneArithmetic : Prop :=
  ∀ (h : Hdr) (o : FR) (s : State) (a b c : List W64),
    s.core.vsrc o.a 1 = some a → s.core.vsrc o.b 1 = some b →
    let x (i : Nat) := lane32 a i
    let y (i : Nat) := lane32 b i
    let z (i : Nat) := lane32 c i
    let gives (i : Instr) (lat : Nat) (f : Nat → W32) : Prop :=
      Starts i .V h 0 s → GivesLanes i h o.d 1 lat (guardLanes s.core o.g) (lanes32 f) false s
    let of (n : Int) : W32 := BitVec.ofInt 32 n
    ((o.t = 2 ∨ o.t = 6) →
      gives (.vadd h o) 4 (fun i => x i + y i) ∧ gives (.vsub h o) 4 (fun i => x i - y i) ∧
      gives (.vmul h o) 4 (fun i => of (tnum o.t (x i) * tnum o.t (y i))) ∧
      (s.core.vsrc o.c 1 = some c → gives (.vfma h o) 4 (fun i => of (tnum o.t (x i) * tnum o.t (y i) + tnum o.t (z i)))) ∧
      gives (.vmin h o) 2 (fun i => of (min (tnum o.t (x i)) (tnum o.t (y i)))) ∧
      gives (.vmax h o) 2 (fun i => of (max (tnum o.t (x i)) (tnum o.t (y i))))) ∧
    (o.t = 2 → gives (.vabs h o) 2 (fun i => of |(x i).toInt|) ∧ gives (.vneg h o) 2 (fun i => of (-(x i).toInt))) ∧
    (o.t = 8 → o.rm ≠ 3 →
      gives (.vadd h o) 4 (fun i => fadd o.rm 0 (x i) (y i)) ∧ gives (.vsub h o) 4 (fun i => fsub o.rm 0 (x i) (y i)) ∧
      gives (.vmul h o) 4 (fun i => fmul o.rm 0 (x i) (y i)) ∧
      (s.core.vsrc o.c 1 = some c → gives (.vfma h o) 4 (fun i => ffma o.rm 0 (x i) (y i) (z i))) ∧
      gives (.vdiv h o) 14 (fun i => fdiv o.rm 0 (x i) (y i)) ∧ gives (.vsqrt h o) 14 (fun i => fsqrt o.rm 0 (x i)) ∧
      gives (.vmin h o) 2 (fun i => fminmax false (x i) (y i)) ∧ gives (.vmax h o) 2 (fun i => fminmax true (x i) (y i)) ∧
      gives (.vabs h o) 2 (fun i => if f32v (x i) = .nan then 0x7FC00000 else x i &&& 0x7FFFFFFF) ∧
      gives (.vneg h o) 2 (fun i => if f32v (x i) = .nan then 0x7FC00000 else x i ^^^ 0x80000000)) ∧
    gives (.vrcp h o) 6 (fun i => Sys2Proof.Machine.vrcp (x i)) ∧ gives (.vrsqrt h o) 6 (fun i => Sys2Proof.Machine.vrsqrt (x i)) ∧
    gives (.vexp2 h o) 6 (fun i => Sys2Proof.Machine.vexp2 (x i)) ∧ gives (.vlog2 h o) 6 (fun i => Sys2Proof.Machine.vlog2 (x i))

/-- Bits, comparisons, selections and widening words of V (R136, R137): logic; shifts, where a count of 32 or more gives 0 or the sign
fill; `vcmp` under the conditions of R112, its truth values to a vector predicate, a vector or the queue; `vsel` by lane;
`vwadd` and `vwmul` to 64 bits. -/
def Sys2Proof.Machine.LaneBitsAndCompareRule : Prop :=
  ∀ (h : Hdr) (o : FR) (s : State) (a b c : List W64),
    let mask := guardLanes s.core o.g
    let x (i : Nat) := lane32 a i
    let y (i : Nat) := lane32 b i
    let ext (v : W32) : W64 := BitVec.ofInt 64 (tnum o.t v)
    let gives (i : Instr) (f : Nat → W32) : Prop := Starts i .V h 0 s → GivesLanes i h o.d 1 1 mask (lanes32 f) false s
    let holds (n : Nat) (u v : Int) : Bool := match n with | 0 => u = v | 1 => u ≠ v | 2 => u < v | 3 => u ≤ v | 4 => v < u | _ => v ≤ u
    (s.core.vsrc o.a 1 = some a → s.core.vsrc o.b 1 = some b →
      gives (.vand h o) (fun i => x i &&& y i) ∧ gives (.vor h o) (fun i => x i ||| y i) ∧ gives (.vxor h o) (fun i => x i ^^^ y i) ∧
      gives (.vshl h o) (fun i => BitVec.ofNat 32 ((x i).toNat * 2 ^ min (y i).toNat 32)) ∧
      gives (.vshr h o) (fun i => BitVec.ofNat 32 ((x i).toNat / 2 ^ min (y i).toNat 32)) ∧
      gives (.vsar h o) (fun i => BitVec.ofInt 32 ((x i).toInt / 2 ^ min (y i).toNat 32)) ∧
      (s.core.vsrc o.c 1 = some c → gives (.vsel h o) (fun i => if x i ≠ 0 then y i else lane32 c i)) ∧
      (∀ n : Nat, n ≤ 5 → immOf o.c = some (n : Int) → (o.t = 2 ∨ o.t = 6) → Starts (.vcmp h o) .V h 0 s →
        GivesLanes (.vcmp h o) h o.d 1 2 mask (lanes32 fun i => if holds n (tnum o.t (x i)) (tnum o.t (y i)) then 1 else 0) true s) ∧
      (∀ n : Nat, n ≤ 7 → immOf o.c = some (n : Int) → o.t = 8 → Starts (.vcmp h o) .V h 0 s →
        GivesLanes (.vcmp h o) h o.d 1 2 mask (lanes32 fun i => if condHolds n ((f32v (x i)).cmp (f32v (y i))) then 1 else 0) true s) ∧
      (Starts (.vwmul h o) .V h 0 s → GivesLanes (.vwmul h o) h o.d 2 4 mask ((List.range 64).map fun i => ext (x i) * ext (y i)) false s) ∧
      (o.m.getLsbD 0 = false → Starts (.vwadd h o) .V h 0 s →
        GivesLanes (.vwadd h o) h o.d 2 2 mask ((List.range 64).map fun i => ext (x i) + ext (y i)) false s)) ∧
    (s.core.vsrc o.a 2 = some a → s.core.vsrc o.b 1 = some b → o.m.getLsbD 0 = true → Starts (.vwadd h o) .V h 0 s →
      GivesLanes (.vwadd h o) h o.d 2 2 mask ((List.range 64).map fun i => a.getD i 0 + ext (y i)) false s)

/-- Scans and reductions (R138, R82): lane i of `vscan` is the carry-in, lane 63 of B, with the lanes up to i, or below i with
`.x` (its lane 0 the carry-in alone, a NaN of f32 as the canonical one), taken in order, a guard-false lane entering as the operator's identity; `vred` is the carry-in with the pairwise tree
over the lanes, the same in every lane. -/
def Sys2Proof.Machine.LaneScansRule : Prop :=
  ∀ (h : Hdr) (o : FR) (s : State) (a b : List W64) (n : Nat),
    s.core.vsrc o.a 1 = some a → s.core.vsrc o.b 1 = some b → n ≤ 5 → immOf o.c = some (n : Int) →
    let mask := guardLanes s.core o.g
    let small : W32 := if o.t = 8 then 0x7F800000 else if o.t = 2 then 0x7FFFFFFF else 0xFFFFFFFF
    let large : W32 := if o.t = 8 then 0xFF800000 else if o.t = 2 then 0x80000000 else 0
    let op (u v : W32) : W32 := match n with
      | 0 => if o.t = 8 then fadd (if o.rm = 3 then 0 else o.rm) 0 u v else u + v
      | 1 => if o.t = 8 then fminmax false u v else BitVec.ofInt 32 (if o.t = 2 then min u.toInt v.toInt else min (u.toNat : Int) v.toNat)
      | 2 => if o.t = 8 then fminmax true u v else BitVec.ofInt 32 (if o.t = 2 then max u.toInt v.toInt else max (u.toNat : Int) v.toNat)
      | 3 => u &&& v
      | 4 => u ||| v
      | _ => u ^^^ v
    let unit : W32 := match n with | 1 => small | 2 => large | 3 => 0xFFFFFFFF | _ => 0
    let enters (i : Nat) : W32 := if mask.getLsbD i then lane32 a i else unit
    let upTo (k : Nat) : W32 := ((List.range k).map enters).foldl op (lane32 b 63)
    (Starts (.vscan h o) .V h 0 s →
      GivesLanes (.vscan h o) h o.d 1 8 mask (lanes32 fun i => if !o.m.getLsbD 0 then upTo (i + 1)
        else if i = 0 ∧ o.t = 8 ∧ f32v (lane32 b 63) = .nan then 0x7FC00000 else upTo i) false s) ∧
    (Starts (.vred h o) .V h 0 s →
      GivesLanes (.vred h o) h o.d 1 8 mask (lanes32 fun _ => op (lane32 b 63) (tree op unit ((List.range 64).map enters))) false s) ∧
    (o.t ≠ 8 → n = 0 → Starts (.vred h o) .V h 0 s →
      GivesLanes (.vred h o) h o.d 1 8 mask
        (lanes32 fun _ => BitVec.ofNat 32 ((lane32 b 63).toNat + ((List.range 64).map fun i => (enters i).toNat).sum)) false s)

/-- Bits, compares, wide words, scans and reductions of V. -/
def Obligations.LaneBitsAndCompare : Prop := Sys2Proof.Machine.LaneBitsAndCompareRule ∧ Sys2Proof.Machine.LaneScansRule

/-- Words that move lanes (R139, R149, R150): `vperm`, `vbcast`, `vrot`, `vcomp`, `vmov`, `vext`, `vins`, and the words on truth
values `vpand`, `vpor`, `vpnot`, `vpcnt`. -/
def Obligations.LaneMoves : Prop :=
  ∀ (h : Hdr) (o : FR) (s : State) (a b c : List W64),
    let mask := guardLanes s.core o.g
    let at_ (l : List W64) (i : Nat) : W32 := lane32 l i
    let idx (i n : Nat) : Nat := (b.getD i 0).toNat % n
    let gives (i : Instr) (lat : Nat) (f : Nat → W32) : Prop := Starts i .V h 0 s → GivesLanes i h o.d 1 lat mask (lanes32 f) false s
    let truth (i : Instr) (f : Nat → Bool) : Prop :=
      Starts i .V h 0 s → GivesLanes i h o.d 1 1 mask (lanes32 fun k => if f k then 1 else 0) true s
    (s.core.vsrc o.a 1 = some a → s.core.vsrc o.b 1 = some b →
      (o.m.getLsbD 0 = false → gives (.vperm h o) 3 (fun i => at_ a (idx i 64))) ∧
      (o.m.getLsbD 0 = true → s.core.vsrc o.c 1 = some c →
        gives (.vperm h o) 3 (fun i => if idx i 128 < 64 then at_ a (idx i 128) else at_ c (idx i 128 - 64))) ∧
      gives (.vbcast h o) 3 (fun _ => at_ a (idx 0 64)) ∧
      (o.m.getLsbD 0 = false → gives (.vrot h o) 3 (fun i => at_ a ((i + 64 - idx 0 64) % 64))) ∧
      (o.m.getLsbD 0 = true → gives (.vrot h o) 3 (fun i => if i < idx 0 64 then 0 else at_ a (i - idx 0 64))) ∧
      (Starts (.vcomp h o) .V h 0 s →
        let kept := (List.range 64).filter fun i => at_ b i ≠ 0 && mask.getLsbD i
        GivesLanes (.vcomp h o) h o.d 1 3 (~~~0) (lanes32 fun i => if i < kept.length then at_ a (kept.getD i 0) else 0) false s) ∧
      (Starts (.vext h o) .V h 0 s → mask.getLsbD 0 = true → o.d.extractLsb' 6 1 = 0 →
        ∃ l : List W64, l.length = 64 ∧ (∀ v ∈ l, v = a.getD (idx 0 64) 0) ∧ exec (.vext h o) s = .next (finishWord .V h
          { res := some { val := .lanes l, dest := .named (o.d.extractLsb' 0 6).toNat 1, lat := 2 } } (startWord .V s))) ∧
      truth (.vpand h o) (fun i => at_ a i ≠ 0 && at_ b i ≠ 0) ∧ truth (.vpor h o) (fun i => at_ a i ≠ 0 || at_ b i ≠ 0)) ∧
    (s.core.vsrc o.a 1 = some a → s.core.vsrc o.b 1 = some c → s.core.vsrc o.c 1 = some b → a.length = 64 →
      gives (.vins h o) 2 (fun i => if i = idx 0 64 then at_ c 0 else at_ a i)) ∧
    (s.core.vsrc o.a 1 = some a →
      (o.m.getLsbD 0 = false → gives (.vmov h o) 1 (at_ a)) ∧ truth (.vpnot h o) (fun i => at_ a i = 0) ∧
      gives (.vpcnt h o) 3 (fun _ => BitVec.ofNat 32 ((List.range 64).filter fun i => at_ a i ≠ 0 && mask.getLsbD i).length)) ∧
    (s.core.vsrc o.a 2 = some a → a.length = 64 → o.m.getLsbD 0 = true → Starts (.vmov h o) .V h 0 s → GivesLanes (.vmov h o) h o.d 2 1 mask a false s)

/-- Conversions of V without SR (R140-R143, R70, R71, R133): each guard-true lane is narrowed and its events are counted in the slot
of SATSLOT; `vmxq` takes X of R70 from the largest magnitude and gives each lane its code with the scale above it; `vmxd`
multiplies an element by its scale; `vsatr` narrows lane A divided by 2^(B mod 32). -/
def Obligations.LaneConversions : Prop :=
  ∀ (h : Hdr) (o : FR) (s : State) (a b : List W64) (src : Nat),
    let mask := guardLanes s.core o.g
    let slot := s.core.satslot.toNat
    let live (f : Nat → Narrowed) (p : Narrowed → Bool) : Nat := ((List.range 64).filter fun i => mask.getLsbD i && p (f i)).length
    let converts (i : Instr) (w : Nat) (f : Nat → Narrowed) : Prop :=
      exec i s = .next (finishWord .V h
        { res := some { val := .lanes ((List.range 64).map fun k => if mask.getLsbD k then BitVec.ofNat 64 ((f k).code % 2 ^ (32 * w)) else 0)
                        dest := vdstOf o.d (w = 2) false mask, lat := 3 } }
        (satWord (startWord .V s) .V slot (live f (·.sat)) (live f (·.nan))))
    let num (i : Nat) : Sys2Proof.Machine.Num := f32v (lane32 a i)
    let fmt : FFmt := if o.t = 12 then .e5m2 else if o.t = 13 then .e2m1 else .e4m3
    (s.core.vsrc o.a (wideT (BitVec.ofNat 4 src)) = some a → src ≤ 13 → immOf o.c = some (src : Int) → o.rm ≠ 3 → o.m.getLsbD 0 = false →
      Starts (.vcvt h o) .V h 0 s →
      converts (.vcvt h o) (wideT o.t) fun i => narrow (tyOf o.t.toNat) o.rm 0 ((tyOf src).value (a.getD i 0).toNat)) ∧
    (s.core.vsrc o.a 1 = some a → s.core.vsrc o.b 1 = some b → o.rm ≠ 3 → o.m.getLsbD 0 = false → Starts (.vsatr h o) .V h 0 s →
      converts (.vsatr h o) 1 fun i =>
        narrow (tyOf o.t.toNat) o.rm 0 ((Sys2Proof.Machine.Num.ofInt (lane32 a i).toInt).scale2 (-(((b.getD i 0).toNat % 32 : Nat) : Int)))) ∧
    (s.core.vsrc o.a 1 = some a → Starts (.vmxd h o) .V h 0 s →
      let scale := ((lane32 a 0).toNat / 256) % 256
      GivesLanes (.vmxd h o) h o.d 1 3 mask (lanes32 fun i =>
        if scale = 255 then 0x7FC00000
        else toF32 0 0 ((fmt.value ((lane32 a i).toNat % 256 % 2 ^ (fmt.ebits + fmt.fbits + 1))).scale2 ((scale : Int) - 127))) false s) ∧
    (s.core.vsrc o.a 1 = some a → o.rm ≠ 3 → o.m.getLsbD 0 = false → mask = ~~~0 → Starts (.vmxq h o) .V h 0 s →
      ∀ (r : Nat → ℚ) (m : ℚ) (j : Nat) (X : Int), (∀ i, i < 64 → (num i).rat = some (r i)) → j < 64 → |r j| = m → (∀ i, i < 64 → |r i| ≤ m) →
        X = (if m = 0 then -127 else min (max (Int.log 2 m - (if fmt = .e5m2 then 15 else if fmt = .e2m1 then 2 else 8)) (-127)) 127) →
        let q (i : Nat) := narrow (.flt fmt) o.rm 0 ((num i).scale2 (-X))
        exec (.vmxq h o) s = .next (finishWord .V h
          { res := some { val := .lanes ((List.range 64).map fun i => BitVec.ofNat 64 ((q i).code + 256 * (X + 127).toNat))
                          dest := vdstOf o.d false false mask, lat := 6 } }
          (satWord (startWord .V s) .V slot (live q (·.sat)) (live q (·.nan)))))

/-- The generators of V (R74, R76, R77, R133, R144): a draw replaces a guard-true lane's generator by the three xor-shifts and gives the
upper 24 bits; `vrand` gives the draw, or the whole state with `.u`; `vadd` under SR draws once for each guard-true lane and
leaves the others; `vseed` seeds guard-true lanes from lane 0 of A, never to zero. -/
def Sys2Proof.Machine.LaneGeneratorsRule : Prop :=
  ∀ (h : Hdr) (o : FR) (s : State) (a b : List W64), s.core.vgen.length = 64 →
    let mask := guardLanes s.core o.g
    let s1 := startWord .V s
    let shifted (x : W32) : W32 :=
      let x := x ^^^ BitVec.ofNat 32 (x.toNat * 2 ^ 13)
      let x := x ^^^ BitVec.ofNat 32 (x.toNat / 2 ^ 17)
      x ^^^ BitVec.ofNat 32 (x.toNat * 2 ^ 5)
    let gen (i : Nat) : W32 := s.core.vgen.getD i 0
    let drawn : State := s1.setCore { s1.core with vgen := (List.range 64).map fun i => if mask.getLsbD i then shifted (gen i) else gen i }
    let gives (i : Instr) (lat : Nat) (f : Nat → W32) : Prop := exec i s = .next (finishWord .V h
      { res := some { val := .lanes (lanes32 fun i => if mask.getLsbD i then f i else 0), dest := vdstOf o.d false false mask, lat := lat } } drawn)
    (Starts (.vrand h o) .V h 0 s → o.m.getLsbD 0 = false → gives (.vrand h o) 2 (fun i => BitVec.ofNat 32 ((shifted (gen i)).toNat / 256))) ∧
    (Starts (.vrand h o) .V h 0 s → o.m.getLsbD 0 = true → gives (.vrand h o) 2 (fun i => shifted (gen i))) ∧
    (Starts (.vadd h o) .V h 0 s → o.t = 8 → o.rm = 3 → s.core.vsrc o.a 1 = some a → s.core.vsrc o.b 1 = some b →
      gives (.vadd h o) 4 (fun i => fadd 3 ((shifted (gen i)).toNat / 256) (lane32 a i) (lane32 b i))) ∧
    (Starts (.vseed h o) .V h 0 s → s.core.vsrc o.a 1 = some a →
      let seeded (i : Nat) : W32 := let x := lane32 a 0 ^^^ BitVec.ofNat 32 (0x9E3779B9 * (i + 1)); if x = 0 then 1 else x
      Passes (.vseed h o) .V h none s (s1.setCore { s1.core with vgen := (List.range 64).map fun i => if mask.getLsbD i then seeded i else gen i }))

/-- V and its queues (R145, R157, R158): `vpop` takes 256 filled bytes from the head of an operand queue as 64 little-endian lanes;
`vpush` appends the 256 bytes of a vector to a store queue that has room. -/
def Sys2Proof.Machine.LaneQueuesRule : Prop :=
  ∀ (h : Hdr) (o : FI) (s : State) (l : List Byte) (a : List W64),
    let k := (o.imm.extractLsb' 0 3).toNat
    let s1 := startWord .V s
    (Starts (.vpop h o) .V h 0 s → l.length = 256 → sget [] s.core.oq k = [{ bytes := l, filled := true, fresh := false }] →
      ∃ s', s'.core.oq = sset [] s.core.oq k [] ∧ s'.core.sq = s.core.sq ∧ s'.mem = s.mem ∧
        exec (.vpop h o) s = .next (finishWord .V h
          { res := some { val := .lanes ((List.range 64).map fun i => BitVec.ofNat 64 (leNat [l.getD (4 * i) 0, l.getD (4 * i + 1) 0, l.getD (4 * i + 2) 0, l.getD (4 * i + 3) 0]))
                          dest := vdstOf o.d false false (~~~0), lat := 1 } } s')) ∧
    (Starts (.vpush h o) .V h 0 s → s.core.vsrc o.a 1 = some a → (sget [] s.core.sq k).length + 256 ≤ 2048 →
      Passes (.vpush h o) .V h none s (s1.setCore { s1.core with sq := sput s1.core.sq k (sget [] s.core.sq k ++ a.flatMap fun x => leBytes 4 x.toNat) }))

/-- The lane generators and the queues of V. -/
def Obligations.LaneGenerators : Prop := Sys2Proof.Machine.LaneGeneratorsRule ∧ Sys2Proof.Machine.LaneQueuesRule

/-! ## X: tiles and masks -/

/-- The word i of X starts, takes `lat` clocks and leaves one write of tile TD, EMPTY until then (R202): once delivered, each element
that `on` selects holds its value, cut to the element's width, every other one what it held, and the tile is FULL. -/
def Sys2Proof.Machine.WritesTile (i : Instr) (h : Hdr) (t : Nat) (lat : Nat) (sh : TShape) (on : Nat → Nat → Bool) (val : Nat → Nat → Nat)
    (s s' : State) : Prop :=
  ∃ w : TileWrite, w.due = s.core.clk + lat ∧
    exec i s = .next (finishWord .X h { lat := lat } (s'.setCore ({ s'.core with tileW := s'.core.tileW ++ [w] }.setFull t false))) ∧
    ∀ (c : Core) (r k : Nat), r < sh.rows → k < sh.cols →
      let d := (c.applyTarget w.target).tile t
      d.full = true ∧ d.elem sh r k = if on r k then val r k % 2 ^ sh.bits else (c.tile t).elem sh r k

/-- The tile words of X on whole tiles (R200-R204, R206, R207, R209, R210): `tzero`, `tfill`, `tmov` and its transpose, `tadd` and `tmul`
with row and column broadcast, `tscale`, `tcvt` to a type without scales, `trmax` and `trsum`, under the masks that the word
selects and, for f32, in the mode of RMODE where that is not SR; a source whose SRAM errs is SRAM_ECC. -/
def Sys2Proof.Machine.TileWordsRule : Prop :=
  ∀ (h : Hdr) (o : FT) (s : State),
    let c := s.core
    let t := o.td.toNat
    let sh := s.shape t
    let sa := s.shape o.ta.toNat
    let sb := s.shape o.tb.toNat
    let va := c.tile o.ta.toNat
    let vb := c.tile o.tb.toNat
    let on (r k : Nat) : Bool := (s.rowM o.rms).getLsbD r && (s.colM o.cms).getLsbD k
    let f (n : Nat) : W32 := BitVec.ofNat 32 n
    sh.usable = true → sh.et = o.et.toNat → c.tileBusy t = false → (c.tile t).full = true ∨ c.tileInFlight t = false →
    let writes (i : Instr) (lat : Nat) (on : Nat → Nat → Bool) (val : Nat → Nat → Nat) (s' : State) : Prop :=
      Starts i .X h o.g s → WritesTile i h t lat sh on val s s'
    let s1 := startWord .X s
    let sound (n : Nat) : Prop := n ∉ sget [] s.tileErrs s.cur
    let same : Prop := sa.usable = true ∧ va.full = true ∧ sa.et = sh.et ∧ sound o.ta.toNat
    writes (.tzero h o) (sh.rows + 2) on (fun _ _ => 0) s1 ∧
    (∀ v, c.src .X o.s 1 = .ok v → writes (.tfill h o) (sh.rows + 2) on (fun _ _ => (v.setWidth 32 : W32).toNat) s1) ∧
    (same → o.m.getLsbD 0 = false → sa.rows = sh.rows → sa.cols = sh.cols →
      writes (.tmov h o) (sh.rows + 2) on (fun r k => va.elem sa r k) s1) ∧
    (same → o.m.getLsbD 0 = true → sa.rows = sh.cols → sa.cols = sh.rows →
      writes (.tmov h o) (sh.rows + 2) on (fun r k => va.elem sa k r) s1) ∧
    (same → sa.rows = sh.rows → sa.cols = sh.cols → sb.usable = true → vb.full = true → sound o.tb.toNat → sb.et = sh.et →
      sb.rows = (if o.m.getLsbD 0 then 1 else sh.rows) → sb.cols = (if o.m.getLsbD 1 then 1 else sh.cols) →
      let y (r k : Nat) : Nat := vb.elem sb (if o.m.getLsbD 0 then 0 else r) (if o.m.getLsbD 1 then 0 else k)
      (sh.et = 8 → c.rmode ≠ 3 →
        writes (.tadd h o) (sh.rows + 2) on (fun r k => (fadd c.rmode 0 (f (va.elem sa r k)) (f (y r k))).toNat) s1 ∧
        writes (.tmul h o) (sh.rows + 2) on (fun r k => (fmul c.rmode 0 (f (va.elem sa r k)) (f (y r k))).toNat) s1) ∧
      (sh.et = 2 ∨ sh.et = 6 →
        writes (.tadd h o) (sh.rows + 2) on (fun r k => va.elem sa r k + y r k) s1 ∧
        writes (.tmul h o) (sh.rows + 2) on (fun r k => va.elem sa r k * y r k) s1)) ∧
    (∀ v, c.src .X o.s 1 = .ok v → same → sa.rows = sh.rows → sa.cols = sh.cols → sh.et = 8 → c.rmode ≠ 3 →
      writes (.tscale h o) (sh.rows + 2) on (fun r k => (fmul c.rmode 0 (f (va.elem sa r k)) (v.setWidth 32)).toNat) s1) ∧
    (∀ ty, etTy sh.et = (ty, false) → sa.usable = true → va.full = true → sound o.ta.toNat → sa.rows = sh.rows → sa.cols = sh.cols → o.m.getLsbD 3 = false →
      let rm := if o.m.getLsbD 2 then o.m.extractLsb' 0 2 else c.rmode
      let n (r k : Nat) := narrow ty rm 0 (va.value sa r k)
      rm ≠ 3 → (∀ r k, r < sh.rows → k < sh.cols → (n r k).sat = false) →
      writes (.tcvt h o) (sh.rows + 2) on (fun r k => (n r k).code) s1) ∧
    (sa.usable = true → va.full = true → ¬ sound o.ta.toNat → Starts (.tmov h o) .X h o.g s → exec (.tmov h o) s = .next (haltWord s .X (stopCode cSRAM))) ∧
    (∀ v, c.src .X o.s 1 = .ok v → same → sa.rows = sh.rows → ((v.setWidth 32 : W32).toNat % 256) < sh.cols →
      let col := (v.setWidth 32 : W32).toNat % 256
      let at_ (r k : Nat) (unit : W32) : W32 := if k < sa.cols ∧ (s.colM o.cms).getLsbD k = true then f (va.elem sa r k) else unit
      let row (op : W32 → W32 → W32) (unit : W32) (r : Nat) : Nat := (tree op unit ((List.range 256).map fun k => at_ r k unit)).toNat
      let red (i : Instr) (op : W32 → W32 → W32) (unit : W32) : Prop :=
        writes i (sa.rows + 6) (fun r k => (s.rowM o.rms).getLsbD r && k = col) (fun r _ => row op unit r) s1
      (o.et = 8 → red (.trmax h o) (fminmax true) 0xFF800000 ∧ red (.trsum h o) (fadd 0 0) 0) ∧
      (o.et = 2 → red (.trmax h o) (fun u v => BitVec.ofInt 32 (max u.toInt v.toInt)) 0x80000000 ∧ red (.trsum h o) (fun u v => u + v) 0) ∧
      (o.et = 6 → red (.trmax h o) (fun u v => BitVec.ofNat 32 (max u.toNat v.toNat)) 0 ∧ red (.trsum h o) (fun u v => u + v) 0))

/-- `tld` and `tst` through the scratchpad (R194, R206-R208, R285): the image at a 16-byte aligned address is read into the elements that
the masks select, or written from the tile when the word is done; elsewhere the address is ALIGN or UNMAPPED, both precise. -/
def Sys2Proof.Machine.TileImagesRule : Prop :=
  ∀ (h : Hdr) (o : FT) (s : State) (v : W128),
    let c := s.core
    let a := (v.setWidth 32 : W32).toNat
    c.src .X o.s 1 = .ok v → o.m.getLsbD 0 = true →
    (let sh := s.shape o.td.toNat
      let lat := (sh.imageBytes + 255) / 256 + 2
      let img (i : Nat) : Byte := sget 0 c.spad (a + i)
      sh.usable = true → sh.et = o.et.toNat → c.tileBusy o.td.toNat = false → (c.tile o.td.toNat).full = true → Starts (.tld h o) .X h o.g s →
      (a % 16 = 0 → a + sh.imageBytes ≤ s.spadSize → c.linesFull a sh.imageBytes = true → spadErr s s.cur a sh.imageBytes = false → o.m.getLsbD 2 = false →
        WritesTile (.tld h o) h o.td.toNat lat sh (fun r k => (s.rowM o.rms).getLsbD r && (s.colM o.cms).getLsbD k)
          (fun r k => elemAt img sh.bits (sh.idx r k)) s (startWord .X s)) ∧
      (a % 16 ≠ 0 → exec (.tld h o) s = .next (haltWord s .X { code := cALIGN, index := 0, addr := BitVec.ofNat 64 a, tcode := 0 })) ∧
      (a % 16 = 0 → s.spadSize < a + sh.imageBytes →
        exec (.tld h o) s = .next (haltWord s .X { code := cUNMAPPED, index := 0, addr := BitVec.ofNat 64 a, tcode := 0 }))) ∧
    (let sh := s.shape o.ta.toNat
      let lat := (sh.imageBytes + 255) / 256 + 2
      sh.usable = true → sh.et = o.et.toNat → (c.tile o.ta.toNat).full = true → o.ta.toNat ∉ sget [] s.tileErrs s.cur → Starts (.tst h o) .X h o.g s → a % 16 = 0 → a + sh.imageBytes ≤ s.spadSize →
      let s1 := startWord .X s
      ∃ w : TileWrite, w.due = c.clk + lat ∧
        exec (.tst h o) s = .next (finishWord .X h { lat := lat } (s1.setCore { s1.core with tileW := s1.core.tileW ++ [w] })) ∧
        ∀ (e : Core) (j : Nat), sget 0 (e.applyTarget w.target).spad j =
          if a ≤ j ∧ j < a + sh.imageBytes then ((c.tile o.ta.toNat).image sh).getD (j - a) 0 else sget 0 e.spad j)

/-- The tile words of X, and tile images in the scratchpad.
Where the spec leaves a point open it follows the model's own readings: notes/assumptions, entries 11, 59. -/
def Obligations.TileWords : Prop := Sys2Proof.Machine.TileWordsRule ∧ Sys2Proof.Machine.TileImagesRule

/-- `rmset` and `cmset` (R204, R205): one trio clock later a mask holds the 64 bits given, for columns a quarter of it, or with `.range` ones
from a first bit on. -/
def Sys2Proof.Machine.MaskWordsRule : Prop :=
  ∀ (h : Hdr) (o : FT) (s : State) (v : W128),
    let late (d : Dest) (x : W128) : Host.Outcome State Fault Refusal :=
      .next (finishWord .X h { res := some { val := .scalar x, dest := d, lat := 1, enters := false } } (startWord .X s))
    let u : W32 := v.setWidth 32
    (s.core.src .X o.s 1 = .ok v → o.m.getLsbD 0 = true →
      (Starts (.rmset h o) .X h o.g s → ∃ x : W64, exec (.rmset h o) s = late (.rowMask o.rms.toNat) (x.setWidth 128) ∧
        ∀ j, j < 64 → x.getLsbD j = decide (u.toNat % 64 ≤ j ∧ j < u.toNat % 64 + u.toNat / 256 % 128)) ∧
      (Starts (.cmset h o) .X h o.g s → ∃ x : BitVec 256, exec (.cmset h o) s = late (.colMask o.cms.toNat x) 0 ∧
        ∀ j, j < 256 → x.getLsbD j = decide (u.toNat % 256 ≤ j ∧ j < u.toNat % 256 + u.toNat / 256 % 512))) ∧
    (s.core.src .X o.s 2 = .ok v → o.m.getLsbD 0 = false →
      (Starts (.rmset h o) .X h o.g s → exec (.rmset h o) s = late (.rowMask o.rms.toNat) ((v.setWidth 64).setWidth 128)) ∧
      (Starts (.cmset h o) .X h o.g s → (∀ f ∈ s.core.flight, ∀ m x, f.dest ≠ .colMask m x) →
        let q := (o.m.extractLsb' 1 2).toNat
        ∃ x : BitVec 256, exec (.cmset h o) s = late (.colMask o.cms.toNat x) 0 ∧
          ∀ j, j < 256 → x.getLsbD j = if j / 64 = q then v.getLsbD (j % 64) else (s.colM o.cms).getLsbD j))

/-- `vtrd` and `vtwr` (R146-R148): the elements of a row from a column on, of a column, or of a block with its scale above each code; a lane
that falls outside the tile reads 0 and writes nothing; the writes land one trio clock after issue. -/
def Sys2Proof.Machine.TileLanesRule : Prop :=
  ∀ (h : Hdr) (o : FT) (s : State) (p a : List W64),
    let c := s.core
    let t := o.ta.toNat
    let sh := s.shape t
    let pos := lane32 p 0
    let mode := (o.m.extractLsb' 6 2).toNat
    let r (i : Nat) : Nat := match mode with | 0 => pos.toNat % 64 | 1 => i | _ => 8 * (pos.toNat % 8) + i / 8
    let k (i : Nat) : Nat := match mode with | 0 => pos.toNat / 256 % 256 + i | 1 => pos.toNat % 256 | _ => 8 * (pos.toNat / 256 % 32) + i % 8
    let mask := guardLanes c o.g
    let inside (i : Nat) : Bool := r i < sh.rows && k i < sh.cols
    sh.usable = true → sh.et = o.et.toNat → c.vsrc o.s 1 = some p → mode < 3 → (mode = 2 → sh.sb = true) →
    ((c.tile t).full = true → t ∉ sget [] s.tileErrs s.cur → Starts (.vtrd h o) .V h 0 s →
      GivesLanes (.vtrd h o) h (if o.m.getLsbD 5 then 0x7F else (o.m.extractLsb' 0 5).setWidth 7) 1 3 mask
        (lanes32 fun i => if inside i then BitVec.ofNat 32 ((c.tile t).elem sh (r i) (k i) + if mode = 2 then 256 * ((c.tile t).scale sh (r i) (k i)).toNat else 0) else 0)
        false s) ∧
    (c.vsrc ((o.m.extractLsb' 0 5).setWidth 7) 1 = some a → c.tileBusy t = false → (c.tile t).full = true → Starts (.vtwr h o) .V h 0 s →
      let s1 := startWord .V s
      ∃ w : TileWrite, w.stream = .V ∧ w.due = c.clk + 1 ∧
        exec (.vtwr h o) s = .next (finishWord .V h {} (s1.setCore { s1.core with tileW := s1.core.tileW ++ [w] })) ∧
        ∀ (e : Core) (i : Nat), i < 64 → mask.getLsbD i = true → inside i = true →
          ((e.applyTarget w.target).tile t).elem sh (r i) (k i) = ((lane32 a i).toNat % (if mode = 2 then 256 else 2 ^ 32)) % 2 ^ sh.bits)

/-- Tile lanes of V and the mask words of X. -/
def Obligations.TileLanes : Prop := Sys2Proof.Machine.TileLanesRule ∧ Sys2Proof.Machine.MaskWordsRule

/-! ## Operations: the words that create them -/

/-- The slot and generation that a context's next operation takes (R236): a slot never used, at generation 1; with all 4,096 used, the one
retired longest, its generation one up from 1 to 4,095. -/
def Sys2Proof.Machine.FreeSlot (c : Ctx) (slot gen : Nat) : Prop :=
  (c.ops.length < 4096 ∧ slot = c.ops.length ∧ gen = 1) ∨
  (4096 ≤ c.ops.length ∧ ∃ l o, c.retired = slot :: l ∧ sfind c.ops slot = some o ∧
    gen = if (o.handle.extractLsb' 20 12).toNat = 4095 then 1 else (o.handle.extractLsb' 20 12).toNat + 1)

/-- The word i of stream st starts and creates an operation of kind `kind` with a body that `body` describes (R48, R234, R236-R238,
R242-R244): its handle, GEN, SLOT and KIND, is the word's result after 2 clocks; its owner is the word's core, unless detached; its
record says which unit serves it, and is written to its 32 bytes of the operation table, the only memory that is; it is QUEUED;
no other operation, no other context and no register has changed. -/
def Sys2Proof.Machine.Creates (i : Instr) (st : StreamId) (h : Hdr) (d : BitVec 7) (prio : Nat) (det : Bool) (kind : Nat) (unit : BitVec 16)
    (body : OpBody → Prop) (s : State) : Prop :=
  ∀ slot gen, FreeSlot (s.getX s.core.ctx) slot gen → slot < 4096 → gen < 4096 → s.core.dbg.dbgHold = false →
    let x := s.core.ctx
    let hd : W32 := BitVec.ofNat 32 (gen * 2 ^ 20 + slot * 2 ^ 8 + kind * 2 ^ 4)
    ∃ t, exec i s = .next (finishWord st h { res := some { val := .scalar (hd.setWidth 128), dest := dstOf st d 1 false, lat := 2 } } t) ∧
      (∃ p, t.getO x slot = some p ∧ p.handle = hd ∧ p.st = .queued ∧ p.code = 0 ∧ p.attached = !det ∧ p.core = s.cur ∧ p.stream = st ∧
        p.prio = (if prio = 0 then s.core.opprio.toNat else prio) ∧ p.after = none ∧ p.engine = unit ∧ p.entry = 0 ∧ body p.body) ∧
      (∀ y, y ≠ x → t.getX y = s.getX y) ∧ (∀ j, j ≠ slot → t.getO x j = s.getO x j) ∧
      (∃ l1 l2 : List Byte, l1.length = 32 ∧ l2.length = 32 ∧
        let va := (s.getX x).opva + BitVec.ofNat 64 (32 * slot)
        t.mem = ((s.devWrite (s.getX x).fn va l1).devWrite (s.getX x).fn va l2).mem) ∧
      t.core.named = s.core.named ∧ t.core.vecs = s.core.vecs ∧ t.core.flight = s.core.flight ∧ t.core.spad = s.core.spad ∧
      ∀ j, j ≠ s.cur → t.getC j = s.getC j

/-- The words of S that create operations without an after-handle (R270, R271, R334, R411): `lease` of a kind, the fourteen commands of
palette engines under a good lease of their kind, `qlaunch` of a node at an address to a queue, `glzs` of a shard for a step. -/
def Sys2Proof.Machine.CreatingWordsOfSRule : Prop :=
  ∀ (h : Hdr) (o : FO) (s : State) (a b : W128), o.af = 0 →
    let creates (i : Instr) (kind : Nat) (unit : BitVec 16) (body : OpBody) : Prop :=
      Starts i .S h o.g s → Creates i .S h o.d o.pr.toNat (o.dt = 1) kind unit (· = body) s
    let command (i : Instr) (op engKind : Nat) : Prop :=
      leaseOperand s s.core.ctx op (a.setWidth 32) = none → creates i (if engKind = 0 then 2 else 3) (BitVec.ofNat 16 ((engKind + 2) * 4096)) (.engine (BitVec.ofNat 8 op) (a.setWidth 32) (b.setWidth 64) (o.m.getLsbD 0))
    (∀ k : Nat, immOf o.a = some (k : Int) → creates (.lease h o) 4 0 (.lease k (o.m.getLsbD 0) .none none none false)) ∧
    (s.core.src .S o.a 1 = .ok a → s.core.src .S o.b 2 = .ok b →
      (command (.colrs h o) 0x58 0 ∧ command (.colag h o) 0x59 0 ∧ command (.colar h o) 0x5A 0 ∧ command (.cola2a h o) 0x5B 0 ∧
        command (.colbc h o) 0x5C 0 ∧ command (.colcmb h o) 0x5D 0 ∧ command (.rtopk h o) 0x5E 1 ∧ command (.rplan h o) 0x5F 1 ∧
        command (.sortkv h o) 0x60 2 ∧ command (.gathr h o) 0x61 3 ∧ command (.scatr h o) 0x62 3 ∧ command (.sfnap h o) 0x63 4 ∧
        command (.cdpack h o) 0x64 5 ∧ command (.cdunpk h o) 0x65 5) ∧
      creates (.qlaunch h o) 5 0xA000 (.launch (a.setWidth 32) (b.setWidth 64))) ∧
    (s.core.src .S o.a 1 = .ok a → s.core.src .S o.b 1 = .ok b → creates (.glzs h o) 7 0x9000 (.glaze (a.setWidth 32) (b.setWidth 32)))

/-- The words of A and X that create operations without an after-handle (R298, R378, R218-R223, R217): `cpy` of entries of the launch's
schedule with a bias and the stage of the core, `bdot` of a descriptor, both once every earlier word of A has passed its checks; `wlease` with its priority, `wload` and `wdrain` of an
address or under a collective's handle, which name no tiles. -/
def Sys2Proof.Machine.CreatingWordsOfAXRule : Prop :=
  ∀ (h : Hdr) (o : FO) (s : State) (a b : W128) (inst : Inst), o.af = 0 → s.core.aUnpassed = false → s.coreInst s.core = some inst →
    let creates (i : Instr) (st : StreamId) (kind : Nat) (unit : BitVec 16) (body : OpBody) : Prop :=
      Starts i st h o.g s → Creates i st h o.d o.pr.toNat (o.dt = 1) kind unit (· = body) s
    let array := BitVec.ofNat 16 (s.cur / 4)
    (s.core.src .A o.a 1 = .ok a → s.core.src .A o.b 2 = .ok b →
      let first := (a.extractLsb' 0 16).toNat
      let n := (a.extractLsb' 16 16).toNat
      n ≠ 0 → first + n ≤ field inst.launch 0x16 2 →
      creates (.cpy h o) .A 1 0x1000 (.copy first n s.core.stage.toNat (b.extractLsb' 0 32) (b.extractLsb' 32 32))) ∧
    (s.core.src .A o.a 2 = .ok a → creates (.bdot h o) .A 6 0x8000 (.bdot (a.setWidth 64))) ∧
    creates (.wlease h o) .X 4 array (.wlease (if o.pr = 0 then s.core.opprio.toNat else o.pr.toNat)) ∧
    (s.core.src .X o.a 2 = .ok a → creates (.wload h o) .X 0 array (.wload (a.setWidth 64))) ∧
    (s.core.src .X o.a 2 = .ok a → o.m.getLsbD 0 = false → creates (.wdrain h o) .X 0 array (.wdrainMem (a.setWidth 64))) ∧
    (s.core.src .X o.a 1 = .ok a → o.m.getLsbD 0 = true → creates (.wdrain h o) .X 0 array (.wdrainColl (a.setWidth 32)))

/-- The words that create operations. -/
def Obligations.CreatingWords : Prop := Sys2Proof.Machine.CreatingWordsOfSRule ∧ Sys2Proof.Machine.CreatingWordsOfAXRule

/-- The matrix words (R211, R212, R217, R219-R221, R203, R225): with FULL source tiles of equal shape and free destination tiles, `wdot`,
`wtdot` and `wouter` each create an operation of their array that captures masks, mode, slot and generators, stands last in its
core's order, names its tiles and leaves its outputs EMPTY; a group of another shape is TILE_TYPE. Stated for i8 and e4m3
activations with one input tile, four output tiles, and no pair.
Where the spec leaves a point open it follows the model's own readings: notes/assumptions, entries 39. -/
def Obligations.MatrixWords : Prop :=
  ∀ (h : Hdr) (o : FW) (s : State),
    let c := s.core
    let ta := o.ta.toNat
    let tout := o.tout.toNat
    let outs := [tout, tout + 1, tout + 2, tout + 3]
    let rows := (s.shape ta).rows
    let oneIn : Prop := (o.et = 0x00 ∨ o.et = 0x0B) ∧ o.m.extractLsb' 0 2 = 0
    let inOk (t : Nat) : Prop := (s.shape t).usable = true ∧ (s.shape t).et = o.et.toNat ∧ (s.shape t).rows = rows ∧ (s.shape t).cols = 256
    let outOk : Prop := ∀ t ∈ outs, (s.shape t).usable = true ∧ (s.shape t).et = (if o.et = 0 then 2 else 8) ∧ (s.shape t).rows = rows ∧
      (s.shape t).cols = 64 ∧ c.tileBusy t = false ∧ (c.tile t).full = true
    let captures (m : MatArgs) : Prop := m.ta = ta ∧ m.tout = tout ∧ m.batch = rows ∧ m.rm = s.rowM o.rms ∧ m.cm = s.colM o.cms ∧
      m.rmode = c.rmode ∧ m.slot = c.satslot ∧ m.acc = o.acc ∧ m.et = o.et ∧ m.gens = c.xgen ∧ m.core = s.cur
    let creates (i : Instr) (body : OpBody → Prop) : Prop := Creates i .X h o.d o.pr.toNat (o.dt = 1) 0 (BitVec.ofNat 16 (s.cur / 4)) body s
    (oneIn → inOk ta → (c.tile ta).full = true → outOk → o.acc = 0 →
      (Starts (.wdot h o) .X h o.g s → creates (.wdot h o) fun b => ∃ m, b = .dot false m ∧ captures m) ∧
      (Starts (.wtdot h o) .X h o.g s → creates (.wtdot h o) fun b => ∃ m, b = .dot true m ∧ captures m) ∧
      (Starts (.wdot h o) .X h o.g s → ∀ slot gen, FreeSlot (s.getX c.ctx) slot gen → slot < 4096 → gen < 4096 → c.dbg.dbgHold = false →
        ∃ t, exec (.wdot h o) s = .next t ∧ (∀ k ∈ outs, (t.core.tile k).full = false) ∧
          (∀ k, k ∉ outs → t.core.tile k = c.tile k) ∧
          t.core.busyTiles = c.busyTiles ++ [(BitVec.ofNat 32 (gen * 2 ^ 20 + slot * 2 ^ 8), ta :: outs)] ∧
          sget [] (t.getB (s.cur / 4)).cmds (s.cur % 4) = sget [] (s.getB (s.cur / 4)).cmds (s.cur % 4) ++ [.op c.ctx slot])) ∧
    (oneIn → inOk ta → inOk tout → (c.tile ta).full = true → (c.tile tout).full = true → Starts (.wouter h o) .X h o.g s →
      creates (.wouter h o) fun b => ∃ m, b = .wouter m ∧ captures m) ∧
    (oneIn → (s.shape ta).cols ≠ 256 → Starts (.wdot h o) .X h o.g s → exec (.wdot h o) s = .next (haltWord s .X (stopCode cTILE)))

/-! ## Operations, leases and arrays: the words that act on them -/

/-- The word i of S starts and gives the 32-bit result v after `lat` clocks, leaving t before its slot is taken. -/
def Sys2Proof.Machine.Answers (i : Instr) (h : Hdr) (d : BitVec 7) (lat : Nat) (v : W32) (s t : State) : Prop :=
  exec i s = .next (finishWord .S h { res := some { val := .scalar (v.setWidth 128), dest := dstOf .S d 1 false, lat := lat } } t)

/-- Waiting, testing and joining (R235, R239, R246, R250, R252, R258): `owait` waits until the operation finishes, gives its status word,
and retires it where its core is entitled and `.peek` is not asked; `otest` never waits; a stale handle reads 0x0000300F; `ojoin`
creates an operation that waits while one it names is unfinished. -/
def Sys2Proof.Machine.WaitingWordsRule : Prop :=
  ∀ (h : Hdr) (o : FR) (f : FO) (s : State) (a : W128),
    let x := s.core.ctx
    let s1 := startWord .S s
    let hd : W32 := a.setWidth 32
    let slot := (hd.extractLsb' 8 12).toNat
    let calm : State := s1.setCore { s1.core with owait := .none }
    (s.core.src .S o.a 1 = .ok a →
      (Starts (.owait h o) .S h o.g s → s.core.owait = .none →
        ((s.getX x).op? hd = none → Answers (.owait h o) h o.d 2 0x0000300F s calm) ∧
        (∀ p, (s.getX x).op? hd = some p → kindOf p.body ≠ 0 →
          (p.st = .complete → o.m.getLsbD 0 = true → Answers (.owait h o) h o.d 2 (BitVec.ofNat 32 (p.code.toNat * 256 + 8)) s calm) ∧
          (p.st = .complete → o.m.getLsbD 0 = false → p.attached = true → p.core ≠ s.cur →
            Answers (.owait h o) h o.d 2 (BitVec.ofNat 32 (p.code.toNat * 256 + 8)) s calm) ∧
          (p.st = .complete → o.m.getLsbD 0 = false → p.attached = false ∨ p.core = s.cur →
            ∃ t, Answers (.owait h o) h o.d 2 (BitVec.ofNat 32 (p.code.toNat * 256 + 8)) s t ∧
              (∃ r, t.getO x slot = some r ∧ r.st = .retired ∧ r.handle = p.handle ∧ r.code = p.code) ∧
              (t.getX x).retired = (s.getX x).retired ++ [slot] ∧ (∀ j, j ≠ slot → t.getO x j = s.getO x j) ∧ t.core.named = s.core.named) ∧
          (p.st = .running → s.core.s.atAlign = none → ∃ t, exec (.owait h o) s = .next t ∧ t.core.owait = .waiting hd (!o.m.getLsbD 0) ∧ t.core.s.st = .frozen ∧
            t.core.s.pc = s.core.s.pc ∧ t.ctxs = s.ctxs ∧ t.mem = s.mem))) ∧
      (Starts (.owait h o) .S h o.g s → ∀ v, s.core.owait = .got v → Answers (.owait h o) h o.d 2 v s calm) ∧
      (Starts (.otest h o) .S h o.g s →
        ((s.getX x).op? hd = none → Answers (.otest h o) h o.d 2 0x0000300F s s1) ∧
        (∀ p, (s.getX x).op? hd = some p → kindOf p.body ≠ 0 →
          Answers (.otest h o) h o.d 2 (BitVec.ofNat 32 (p.code.toNat * 256 + p.st.code)) s s1))) ∧
    (∀ b c, s.core.src .S f.a 1 = .ok a → s.core.src .S f.b 1 = .ok b → s.core.src .S f.c 1 = .ok c → f.m.getLsbD 0 = false →
      Starts (.ojoin h f) .S h f.g s → s.core.dbg.dbgHold = false →
      ∀ slot gen, FreeSlot (s.getX x) slot gen → slot < 4096 → gen < 4096 →
        ∃ t, Answers (.ojoin h f) h f.d 2 (BitVec.ofNat 32 (gen * 2 ^ 20 + slot * 2 ^ 8 + 8 * 2 ^ 4)) s t ∧
          ∃ p, t.getO x slot = some p ∧ p.body = .join [hd, b.setWidth 32, c.setWidth 32] ∧ p.attached = !(f.dt = 1) ∧
            (∀ q, (s.getX x).op? hd = some q → q.st = .running → hd ≠ BitVec.ofNat 32 (gen * 2 ^ 20 + slot * 2 ^ 8 + 8 * 2 ^ 4) →
              slot ≠ (hd.extractLsb' 8 12).toNat → p.st = .waiting))

/-- Ownership, priority and records (R238, R240, R253-R257, R244): `odetach`, `oadopt`, `orelease`, `oprio` give 1, or the handle, where they
act and 0 where the handle is stale; `ofault` reads a word of the live record. -/
def Sys2Proof.Machine.OwnershipWordsRule : Prop :=
  ∀ (h : Hdr) (o : FR) (s : State) (a b : W128),
    let x := s.core.ctx
    let s1 := startWord .S s
    let hd : W32 := a.setWidth 32
    let slot := (hd.extractLsb' 8 12).toNat
    let only (t : State) : Prop := (∀ j, j ≠ slot → t.getO x j = s.getO x j) ∧ t.core.named = s.core.named ∧ ∀ y, y ≠ x → t.getX y = s.getX y
    s.core.src .S o.a 1 = .ok a → s.core.src .S o.b 1 = .ok b →
    ((s.getX x).op? hd = none →
      (Starts (.odetach h o) .S h o.g s → Answers (.odetach h o) h o.d 2 0 s s1) ∧
      (Starts (.orelease h o) .S h o.g s → Answers (.orelease h o) h o.d 2 0 s s1) ∧
      (Starts (.oadopt h o) .S h o.g s → hd ≠ 0 → Answers (.oadopt h o) h o.d 2 0 s s1) ∧
      (Starts (.oprio h o) .S h o.g s → Answers (.oprio h o) h o.d 2 0 s s1)) ∧
    (∀ p, (s.getX x).op? hd = some p →
      (Starts (.odetach h o) .S h o.g s → p.attached = true → p.core = s.cur → p.st ≠ .failed → p.st ≠ .orphaned →
        ∃ t, Answers (.odetach h o) h o.d 2 1 s t ∧ t.getO x slot = some { p with attached := false } ∧ only t ∧ t.mem = s.mem) ∧
      (Starts (.odetach h o) .S h o.g s → p.attached = false ∨ p.core ≠ s.cur ∨ p.st = .orphaned → Answers (.odetach h o) h o.d 2 0 s s1) ∧
      (Starts (.orelease h o) .S h o.g s → p.st = .running → p.attached = false ∨ p.core = s.cur →
        ∃ t, Answers (.orelease h o) h o.d 2 1 s t ∧ t.getO x slot = some { p with attached := false, released := true } ∧ only t ∧ t.mem = s.mem) ∧
      (Starts (.orelease h o) .S h o.g s → p.st = .complete → p.attached = false ∨ p.core = s.cur →
        ∃ t, Answers (.orelease h o) h o.d 2 1 s t ∧ only t ∧ ∃ r, t.getO x slot = some r ∧ r.st = .retired) ∧
      (Starts (.oadopt h o) .S h o.g s → hd ≠ 0 → p.st = .orphaned →
        ∃ t, Answers (.oadopt h o) h o.d 2 hd s t ∧ only t ∧
          (∃ r, t.getO x slot = some r ∧ r.st = .failed ∧ r.attached = false ∧ r.adopted = true ∧ r.code = p.code) ∧
          (t.getX x).orphans = (s.getX x).orphans.filter (· ≠ hd)) ∧
      (Starts (.oprio h o) .S h o.g s → p.st = .queued → kindOf p.body ≠ 0 →
        ∃ t, Answers (.oprio h o) h o.d 2 1 s t ∧ only t ∧ t.mem = s.mem ∧
          t.getO x slot = some { p with prio := ((b.setWidth 32 : W32).toNat % 8), aged := 0, since := s.now, body := p.body.withPrio ((b.setWidth 32 : W32).toNat % 8) }) ∧
      (Starts (.oprio h o) .S h o.g s → p.st = .running ∨ kindOf p.body = 0 → Answers (.oprio h o) h o.d 2 0 s s1)) ∧
    (Starts (.ofault h o) .S h o.g s →
      (∀ p, s.getO x slot = some p → p.handle = hd →
        let k := (b.setWidth 32 : W32).toNat % 8
        (k = 0 → Answers (.ofault h o) h o.d 4 hd s s1) ∧ (k = 2 → Answers (.ofault h o) h o.d 4 p.index s s1) ∧
        (k = 3 → Answers (.ofault h o) h o.d 4 p.time s s1) ∧ (k = 6 → Answers (.ofault h o) h o.d 4 p.deliv s s1) ∧
        (k = 1 → Answers (.ofault h o) h o.d 4 (BitVec.ofNat 32 (p.st.code + 256 * p.code.toNat + 65536 * p.engine.toNat)) s s1)) ∧
      (s.getO x slot = none → Answers (.ofault h o) h o.d 4 0x0000300F s s1))

/-- Cancelling, and ending and asking after a lease (R251, R268, R270): `ocancel` of an operation that has not started ends it CANCELLED, of a
RUNNING copy asks it to stop at a unit; `unlease` of a HELD lease lets its commands finish; `lquery` gives phase, instance and commands. -/
def Sys2Proof.Machine.CancelAndLeaseWordsRule : Prop :=
  ∀ (h : Hdr) (o : FR) (s : State) (a : W128),
    let x := s.core.ctx
    let s1 := startWord .S s
    let hd : W32 := a.setWidth 32
    let slot := (hd.extractLsb' 8 12).toNat
    s.core.src .S o.a 1 = .ok a →
    ((s.getX x).op? hd = none →
      (Starts (.ocancel h o) .S h o.g s → Answers (.ocancel h o) h o.d 2 0 s s1) ∧
      (Starts (.unlease h o) .S h o.g s → Answers (.unlease h o) h o.d 2 0 s s1) ∧
      (Starts (.lquery h o) .S h o.g s → o.m.getLsbD 0 = false → Answers (.lquery h o) h o.d 2 0x0000FF00 s s1)) ∧
    (∀ p, (s.getX x).op? hd = some p →
      (Starts (.ocancel h o) .S h o.g s → p.st = .queued → p.released = false → (∀ e ∈ s.cores, e.2.owait = .none) →
        ∃ t, Answers (.ocancel h o) h o.d 2 1 s t ∧ ∃ r, t.getO x slot = some r ∧ r.st = .cancelled ∧ r.code = cCANCELLED ∧ r.handle = p.handle) ∧
      (∀ n m e b c, Starts (.ocancel h o) .S h o.g s → p.st = .running → p.body = .copy n m e b c →
        ∃ t, Answers (.ocancel h o) h o.d 2 1 s t ∧ t.getO x slot = some { p with cancel := true } ∧ t.mem = s.mem) ∧
      (Starts (.ocancel h o) .S h o.g s → p.st = .complete → Answers (.ocancel h o) h o.d 2 0 s s1) ∧
      (∀ k tr e, p.body = .lease k tr .held (some e) none false → p.st = .running →
        (Starts (.unlease h o) .S h o.g s →
          ∃ t, Answers (.unlease h o) h o.d 2 1 s t ∧ ∃ r, t.getO x slot = some r ∧ r.body = .lease k tr .ending (some e) (some s.now) false ∧ r.st = .running) ∧
        (Starts (.lquery h o) .S h o.g s → o.m.getLsbD 0 = false →
          Answers (.lquery h o) h o.d 2
            (BitVec.ofNat 32 (min 255 (leaseCommands s x slot).length * 65536 + (e - (kindSpan (engKind e)).1) * 256 + LeasePhase.held.code)) s s1))) ∧
    (∀ k : Nat, Starts (.lquery h o) .S h o.g s → o.m.getLsbD 0 = true → immOf o.a = some (k : Int) →
      Answers (.lquery h o) h o.d 2 (BitVec.ofNat 32 (((kindEngines k).filter fun e => (s.getE e).st ≠ .retired).length * 2 ^ 24 + s.budget * 2 ^ 16 +
        min 255 (leaseQueue s k).length * 2 ^ 8 + ((kindEngines k).filter fun e => (s.getE e).st.counts).length)) s s1)

/-- The words of S about an operation and a lease. -/
def Obligations.OperationWords : Prop := Sys2Proof.Machine.CancelAndLeaseWordsRule ∧ Sys2Proof.Machine.OwnershipWordsRule

/-- The words of an array that create no operation (R224, R227): `wclr` and `wrel` stand in their core's order where the core has a claim and
do nothing where it has none; `wpair` binds a claimant to a core of the other bench of its pair, which becomes bound once it
has named this core, and gives 0 where it cannot. -/
def Sys2Proof.Machine.ClaimWordsRule : Prop :=
  ∀ (h : Hdr) (t : FT) (o : FR) (s : State),
    let s1 := startWord .X s
    let b := s.cur / 4
    let ordered (c : ArrCmd) (e : State) : Prop :=
      sget [] (e.getB b).cmds (s.cur % 4) = sget [] (s.getB b).cmds (s.cur % 4) ++ [c] ∧ (e.getB b).claims = (s.getB b).claims ∧ e.mem = s.mem ∧
        e.ctxs = s.ctxs ∧ e.core.tiles = s.core.tiles
    let gives (v : W32) (e : State) : Prop := exec (.wpair h o) s = .next (finishWord .X h
      { res := some { val := .scalar (v.setWidth 128), dest := dstOf .X o.d 1 false, lat := 2 } } e)
    (s.claimOf s.cur = none → (Starts (.wclr h t) .X h t.g s → Passes (.wclr h t) .X h none s s1) ∧
      (Starts (.wrel h t) .X h t.g s → Passes (.wrel h t) .X h none s s1) ∧
      (∀ a, s.core.src .X o.a 1 = .ok a → Starts (.wpair h o) .X h o.g s → gives 0 s1)) ∧
    (∀ c, s.claimOf s.cur = some c →
      (Starts (.wclr h t) .X h t.g s → ∃ e, Passes (.wclr h t) .X h none s e ∧ ordered (.wclr s.now) e) ∧
      (Starts (.wrel h t) .X h t.g s → ∃ e, Passes (.wrel h t) .X h none s e ∧ ordered (.wrel s.now) e) ∧
      (Starts (.wpair h o) .X h o.g s → o.m.getLsbD 0 = true → c.bind.isSome = true → ∃ e, gives 1 e ∧ ordered (.pairOff s.now) e) ∧
      (Starts (.wpair h o) .X h o.g s → o.m.getLsbD 0 = true → c.bind = none → gives 0 s1) ∧
      (∀ a p, Starts (.wpair h o) .X h o.g s → o.m.getLsbD 0 = false → s.core.src .X o.a 1 = .ok a → (a.setWidth 32 : W32).toNat = p →
        (384 ≤ p ∨ p / 4 ≠ b ^^^ 1 ∨ c.bind.isSome = true → gives 0 s1) ∧
        (p < 384 → p / 4 = b ^^^ 1 → c.bind = none → ∃ e, gives 1 e ∧ (e.claimOf s.cur).any (fun d => d.bind = some p) = true ∧
          (∀ d, s.claimOf p = some d → d.bind = some s.cur → d.bound = false → d.ctx = c.ctx →
            (e.claimOf s.cur).any (·.bound) = true ∧ (e.claimOf p).any (·.bound) = true))))

/-- The words that wait for an operation, and those of an array claim.
Where the spec leaves a point open it follows the model's own readings: notes/assumptions, entries 35, 37, 38. -/
def Obligations.WaitingWords : Prop := Sys2Proof.Machine.WaitingWordsRule ∧ Sys2Proof.Machine.ClaimWordsRule

/-! ## Groups, requests and barriers -/

/-- The words of core groups and process groups (R304, R306, R307, R309, R310): index, rank and sizes; a neighbour, a member, a core of
the group; a core's share of n items in parts as first index and count, the first n mod parts of them one longer. -/
def Obligations.GroupWords : Prop :=
  ∀ (h : Hdr) (o : FR) (s : State) (i : Inst) (a b c : W128),
    let word (x : Instr) (lat : Nat) (v : W32) : Prop := Starts x .S h o.g s → Gives x .S h o.d 1 lat (v.setWidth 128) false s
    let n := (a.setWidth 32 : W32).toNat
    let first (n parts j : Nat) : Nat := j * (n / parts) + min j (n % parts)
    let share (parts j : Nat) : Prop :=
      Starts (.gshare h o) .S h o.g s → j < parts → 0 < parts →
        Gives (.gshare h o) .S h o.d 2 4 (BitVec.ofNat 128 ((first n parts (j + 1) - first n parts j) * 2 ^ 32 + first n parts j)) false s
    s.coreInst s.core = some i →
    word (.gid h o) 1 (BitVec.ofNat 32 s.core.gidx) ∧
    word (.grank h o) 1 (BitVec.ofNat 32 (match i.pg with | some t => t.rank | none => 0)) ∧
    (o.m.getLsbD 0 = false → word (.gsize h o) 1 (BitVec.ofNat 32 (field i.launch 0x10 2))) ∧
    (o.m.getLsbD 0 = true → word (.gsize h o) 1 (BitVec.ofNat 32 (match i.pg with | some t => t.members.length | none => 1))) ∧
    (s.core.src .S o.a 1 = .ok a →
      (∀ t, o.m = 1 → i.pg = some t → word (.gpeer h o) 2 (match t.members[n]? with | some m => BitVec.ofNat 32 (m.1.toNat + 65536 * m.2.toNat) | none => 0xFFFFFFFF)) ∧
      (o.m = 2 → word (.gpeer h o) 2 (match i.cores[n]? with | some k => BitVec.ofNat 32 k | none => 0xFFFFFFFF)) ∧
      (o.m = 1 → share (field i.launch 0x10 2) s.core.gidx) ∧
      (∀ t, o.m = 2 → i.pg = some t → share t.members.length t.rank) ∧
      (o.m = 0 → s.core.src .S o.b 1 = .ok b → s.core.src .S o.c 1 = .ok c → share (b.setWidth 32 : W32).toNat (c.setWidth 32 : W32).toNat)) ∧
    (∀ (t : PgTable) (d : Nat) (up : Bool) (d0 d1 d2 : Nat), o.m = 0 → i.pg = some t → immOf o.a = some (d : Int) → d < 3 →
      immOf o.b = some (if up then 1 else -1) → t.dims = [d0, d1, d2] → 0 < d0 → 0 < d1 → 0 < d2 → t.rank < d0 * d1 * d2 →
      let x := [t.rank % d0, t.rank / d0 % d1, t.rank / (d0 * d1)].getD d 0
      let n := [d0, d1, d2].getD d 1
      let w := [1, d0, d0 * d1].getD d 1
      (up = true → x + 1 < n → word (.gpeer h o) 2 (BitVec.ofNat 32 (t.rank + w))) ∧
      (up = false → 0 < x → word (.gpeer h o) 2 (BitVec.ofNat 32 (t.rank - w))) ∧
      (up = true → x + 1 = n → word (.gpeer h o) 2 (if t.wrap.getLsbD d then BitVec.ofNat 32 (t.rank - x * w) else 0xFFFFFFFF)) ∧
      (up = false → x = 0 → word (.gpeer h o) 2 (if t.wrap.getLsbD d then BitVec.ofNat 32 (t.rank + (n - 1) * w) else 0xFFFFFFFF)))

/-- The words of S that ask their home (R308, R311, R318-R321, R335, R348, R412): a word that becomes due sends its request and
freezes the trio until the reply is present; then it starts and the reply is its result, of two registers for `gclaim`. -/
def Obligations.RequestWords : Prop :=
  ∀ (h : Hdr) (o : FR) (s : State) (a b b2 c : W128) (i : Inst) (count grain : Nat),
    s.core.src .S o.a 1 = .ok a → s.core.src .S o.b 1 = .ok b → s.core.src .S o.b 2 = .ok b2 → s.core.src .S o.c 1 = .ok c → s.coreInst s.core = some i →
    s.core.s.atAlign = none →
    let x : W32 := a.setWidth 32
    let y : W64 := (b.setWidth 32 : W32).setWidth 64
    let asks (w : Instr) (wide : Nat) (k : Ask) : Prop :=
      Starts w .S h o.g s →
      (s.core.req = .none → ∃ t, exec w s = .next t ∧ t.core.req = .sent k ∧ t.core.s.st = .frozen ∧ t.core.s.pc = s.core.s.pc ∧
        t.core.named = s.core.named ∧ t.core.flight = s.core.flight ∧ t.mem = s.mem ∧ t.ctxs = s.ctxs) ∧
      (s.core.req = .sent k → ∃ t, exec w s = .next t ∧ t.core.req = .sent k ∧ t.core.s.pc = s.core.s.pc ∧ t.mem = s.mem) ∧
      (∀ v : W64, s.core.req = .replied v → exec w s = .next (finishWord .S h
        { res := some { val := .scalar (if wide = 2 then v.setWidth 128 else (v.setWidth 32).setWidth 128), dest := dstOf .S o.d wide false, lat := 2 } }
        ((startWord .S s).setCore { (startWord .S s).core with req := .none }))) ∧
      (∀ code index addr, s.core.req = .failed code index addr →
        exec w s = .next (haltWord s .S { code := code, index := index, addr := addr, tcode := 0 }))
    asks (.evpost h o) 1 { op := .evpost, a := x, b := b2.setWidth 64, c := 0, m := 0 } ∧
    (x.toNat < 1024 →
      asks (.barrive h o) 1 { op := .barrive, a := x, b := 0, c := 0, m := o.m } ∧
      asks (.barleave h o) 1 { op := .barleave, a := x, b := 0, c := 0, m := o.m } ∧
      asks (.barwait h o) 1 { op := .barwait, a := x, b := y, c := 0, m := o.m } ∧
      asks (.bartest h o) 1 { op := .bartest, a := x, b := y, c := 0, m := o.m } ∧
      (o.m ≠ 3 → 0 < y.toNat → y.toNat < 2 ^ 24 → asks (.barinit h o) 1 { op := .barinit, a := x, b := y, c := 0, m := o.m })) ∧
    (1024 ≤ x.toNat → Starts (.barrive h o) .S h o.g s → exec (.barrive h o) s = .next (haltWord s .S (stopCode cRANGE))) ∧
    (x.toNat < 64 → asks (.qsignal h o) 1 { op := .qsignal, a := x, b := y, c := 0, m := 0 }) ∧
    asks (.glza h o) 1 { op := .glza, a := x, b := b2.setWidth 64, c := c.setWidth 32, m := 0 } ∧
    (i.dLevel = some (count, grain) →
      asks (.gclaim h o) 2 { op := .gclaim, a := BitVec.ofNat 32 count, b := BitVec.ofNat 64 (field i.launch 0x30 8), c := BitVec.ofNat 32 grain, m := 0 })

/-- HOME_REQUEST_ARRIVAL for claims, events and barriers of one device (R308, R312-R315, R321, R323, R346): a claim adds GRAIN to the counter
in one access and yields the items it took; the last expected arrival completes a generation, and the one after begins the
next; a wait for a pending generation stays and is answered when that generation completes; `bartest` is answered at once. -/
def Sys2Proof.Machine.HomeRequestsRule : Prop :=
  ∀ (k : Nat) (a : Ask) (s : State),
    let c := s.getC k
    let x := c.ctx
    let b := a.a.toNat
    let e := s.getBar x b
    let word (e : Barrier) (n : Nat) : W64 := BitVec.ofNat 64 (e.gen.toNat * 65536 + e.epoch.toNat * 256 + n)
    let home : Prop := e.mirror = false ∧ e.scope.toNat < 3 ∧ (e.scope = 0 → e.anchor.toNat = k / 4) ∧ (e.scope = 1 → e.anchor.toNat = k / 4 / 48)
    let changed (t : State) (f : Barrier) : Prop := t.getBar x b = f ∧
      t.mem = (s.devWrite (s.getX x).fn ((s.getX x).barva + BitVec.ofNat 64 (32 * b)) (barrierBytes f)).mem ∧ ∀ j, j ≠ b → t.getBar x j = s.getBar x j
    c.req = .sent a → (s.getC k).storesOpen = false →
    (a.op = .gclaim → (dcGet s (0x002B1038 + 0x40 * ringPart s (s.coreFn c)) &&& 0xFF) = 0 → (∀ f ∈ (s.getB (k / 4)).faults, f.core ≠ k) →
      ∀ l s', readFrom s (.core k) (s.coreFn c) .wr false 2 a.b 8 = .ok l →
        writePerm s (.core k) (s.coreFn c) .wr false a.b (leBytes 8 (leNat l + a.c.toNat)) = .ok s' →
        ∃ t, exec (.homeRequestArrival k) s = .next t ∧ t.mem = s'.mem ∧
          (t.getC k).req = .replied (if a.a.toNat ≤ leNat l then BitVec.ofNat 64 a.a.toNat
            else BitVec.ofNat 64 (min a.c.toNat (a.a.toNat - leNat l) * 2 ^ 32 + leNat l))) ∧
    (a.op = .barrive → home → e.st = .openSt → e.arrived.toNat + 1 < 2 ^ 24 →
      let f : Barrier := { e with arrived := e.arrived + 1, st := if e.arrived.toNat + 1 < e.expect.toNat then .openSt else .complete }
      ∃ t, exec (.homeRequestArrival k) s = .next t ∧ changed t f ∧ (t.getC k).req = .replied (word f f.st.code) ∧
        ∀ j q, j ≠ k → (s.getC j).req = .applied q → q.op = .barwait → q.a = a.a → (s.getC j).ctx = x → (e.epoch = (q.b.setWidth 32 : W32).extractLsb' 8 8) →
          (e.gen = (q.b.setWidth 32 : W32).extractLsb' 16 16) →
          (t.getC j).req = if e.arrived.toNat + 1 < e.expect.toNat then .applied q else .replied (word f 2)) ∧
    (a.op = .barrive → home → e.st = .complete →
      let f : Barrier := { e with gen := e.gen + 1, arrived := 1, st := if 1 < e.expect.toNat then .openSt else .complete }
      ∃ t, exec (.homeRequestArrival k) s = .next t ∧ changed t f ∧ (t.getC k).req = .replied (word f f.st.code)) ∧
    (a.op = .barleave → home → e.st = .openSt → e.expect.toNat > 1 → e.arrived.toNat < e.expect.toNat - 1 →
      ∃ t, exec (.homeRequestArrival k) s = .next t ∧ changed t { e with expect := e.expect - 1 } ∧ (t.getC k).req = .replied (word e 1)) ∧
    (a.op = .barinit → a.m.toNat < 3 → e.st ≠ .openSt ∨ e.arrived = 0 →
      ∃ t, exec (.homeRequestArrival k) s = .next t ∧ (t.getC k).req = .replied 1 ∧
        changed t { gen := 0, epoch := e.epoch + 1, scope := a.m, st := .openSt, expect := (a.b.setWidth 24), arrived := 0,
                    anchor := BitVec.ofNat 16 (if a.m = 0 then k / 4 else if a.m = 1 then k / 4 / 48 else 0), pgid := 0, homedev := 0, brkcode := 0, mirror := false }) ∧
    ((a.op = .barwait ∨ a.op = .bartest) → (a.b.setWidth 32 : W32).extractLsb' 8 8 = e.epoch → (a.b.setWidth 32 : W32).extractLsb' 16 16 = e.gen →
      ∃ t, exec (.homeRequestArrival k) s = .next t ∧ t.mem = s.mem ∧ t.ctxs = s.ctxs ∧
        (e.st = .complete → (t.getC k).req = .replied (word e 2)) ∧
        (e.st = .openSt → (t.getC k).req = if a.op = .bartest then .replied (word e 1) else .applied a)) ∧
    (a.op = .evpost → eventsWait s x = false → (∀ f ∈ (s.getB (k / 4)).faults, f.core ≠ k) → ∀ l s', s.devRead (s.getX x).fn ((s.getX x).recVa + 0x70) 4 = some l →
      ((s.getX x).evtail - BitVec.ofNat 32 (leNat l)).toNat < 2 ^ (s.getX x).evqlog2 →
      writeVa s .device (s.getX x).fn ((s.getX x).evqva + BitVec.ofNat 64 (32 * ((s.getX x).evtail.toNat % 2 ^ (s.getX x).evqlog2)))
        (leBytes 4 ((s.getX x).evtail + 1).toNat ++ [6, 0] ++ leBytes 2 k ++ leBytes 8 a.a.toNat ++ leBytes 8 a.b.toNat ++ leBytes 8 s.coldClock) = .ok s' →
      ∃ t, exec (.homeRequestArrival k) s = .next t ∧ (t.getC k).req = .replied 1 ∧ (t.getX x).evtail = (s.getX x).evtail + 1 ∧
        (t.getX x).evlost = (s.getX x).evlost ∧ t.msix = s.msix ++ [((s.getX x).fn, x % 16)])

/-- Barrier messages (R313, R316, R322): a member's mirror entry is set up, completed and broken as its home says; an arrival that reaches
the home joins the arrivals of its clock, is performed there and answered. -/
def Sys2Proof.Machine.BarrierMessagesRule : Prop :=
  ∀ (x b : Nat) (s : State),
    let e := s.getBar x b
    (s.getX x).st ≠ .free → b < 1024 →
    (∀ expect pgid homedev epoch gen, ∃ t, exec (.barrierMulticast x b (.setup expect pgid homedev epoch gen)) s = .next t ∧
      t.getBar x b = { gen := gen, epoch := epoch, scope := 3, st := .openSt, expect := expect.setWidth 24, arrived := 0, anchor := 0, pgid := pgid,
                       homedev := homedev.setWidth 16, brkcode := 0, mirror := true } ∧ ∀ j, j ≠ b → t.getBar x j = s.getBar x j) ∧
    (∀ gen, e.mirror = true → e.st = .openSt ∨ e.st = .complete →
      (∃ t, exec (.barrierMulticast x b (.complete e.epoch gen)) s = .next t ∧ t.getBar x b = { e with gen := gen, st := .complete }) ∧
      (∀ code, ∃ t, exec (.barrierMulticast x b (.broken e.epoch gen code)) s = .next t ∧ t.getBar x b = { e with gen := gen, st := .broken, brkcode := code })) ∧
    (∀ (m : Msg) (gen : BitVec 16) (core : W32), e.mirror = false → e.scope = 3 → e.st = .openSt → e.arrived.toNat + 1 < e.expect.toNat → m.kind = 7 →
      m.aux = e.pgid.setWidth 64 → m.payload = barPayload 2 e.epoch gen core (BitVec.ofNat 32 b) →
      barHome s m.dvf.toNat b e.pgid = some x → movedAway s m.dvf.toNat = none →
      (s.fabWait.contains m = false → exec (.msgBarrier m) s = .next { s with fabWait := s.fabWait ++ [m] }) ∧
      (s.fabWait.contains m = true → ∃ t, exec (.msgBarrier m) s = .next t ∧ t.getBar x b = { e with arrived := e.arrived + 1 } ∧ t.outbox.length = s.outbox.length + 1 ∧
        ∃ r, t.outbox.getLast? = some r ∧ r.kind = 7 ∧ r.dst = m.src ∧ r.dvf = m.svf ∧ r.va = m.va ∧
          r.payload = barPayload 4 0 0 (BitVec.ofNat 32 (e.gen.toNat * 65536 + e.epoch.toNat * 256 + 1)) core))

/-- Requests at their home, and barrier messages.
Where the spec leaves a point open it follows the model's own readings: notes/assumptions, entries 7, 41. -/
def Obligations.HomeRequests : Prop := Sys2Proof.Machine.HomeRequestsRule ∧ Sys2Proof.Machine.BarrierMessagesRule

/-! ## A: addresses, accesses and their order -/

/-- The address arithmetic of A and `bcmp` (R154, R161, R162): results modulo 2^32 or 2^64 after 1 clock, products after 3 or 4; a
narrow `mov` extends its source by the sign or zeros; a comparison gives 0 or 1 and may go to an A predicate. -/
def Sys2Proof.Machine.AddressWordsRule : Prop :=
  ∀ (h : Hdr) (o : FR) (f : FI) (s : State) (a b : W128),
    let w := 32 * wideT o.t
    let x : BitVec w := a.setWidth w
    let y : BitVec w := b.setWidth w
    let gives (i : Instr) (n lat : Nat) (v : W128) (pred : Bool) : Prop := Starts i .A h o.g s → Gives i .A h o.d n lat v pred s
    (s.core.src .A o.a (wideT o.t) = .ok a → s.core.src .A o.b (wideT o.t) = .ok b →
      gives (.aAdd h o) (wideT o.t) 1 ((x + y).setWidth 128) false ∧ gives (.aSub h o) (wideT o.t) 1 ((x - y).setWidth 128) false ∧
      gives (.aMul h o) (wideT o.t) (if wideT o.t = 2 then 4 else 3) ((x * y).setWidth 128) false ∧
      (let p := tnum o.t x
       let q := tnum o.t y
       let holds (n : Nat) : Bool := match n with | 0 => p = q | 1 => p ≠ q | 2 => p < q | 3 => p ≤ q | 4 => q < p | _ => q ≤ p
       ∀ n : Nat, n ≤ 5 → immOf o.c = some (n : Int) → gives (.bcmp h o) 1 1 (if holds n then 1 else 0) true)) ∧
    (s.core.src .A o.a (wideT o.t) = .ok a → s.core.src .A o.b 1 = .ok b →
      gives (.aShl h o) (wideT o.t) 1 ((BitVec.ofNat w (x.toNat * 2 ^ min (b.setWidth 32 : W32).toNat w)).setWidth 128) false) ∧
    (s.core.src .A o.a (wideT o.t) = .ok a → o.t.toNat < 8 → 2 ≤ o.t.toNat % 4 → gives (.aMov h o) (wideT o.t) 1 (x.setWidth 128) false) ∧
    (s.core.src .A o.a 1 = .ok a →
      (o.t = 0 → gives (.aMov h o) 1 1 ((BitVec.ofInt 32 (a.setWidth 8 : BitVec 8).toInt).setWidth 128) false) ∧
      (o.t = 1 → gives (.aMov h o) 1 1 ((BitVec.ofInt 32 (a.setWidth 16 : BitVec 16).toInt).setWidth 128) false) ∧
      (o.t = 4 → gives (.aMov h o) 1 1 ((a.setWidth 8 : BitVec 8).setWidth 128) false) ∧
      (o.t = 5 → gives (.aMov h o) 1 1 ((a.setWidth 16 : BitVec 16).setWidth 128) false)) ∧
    (Starts (.aMovi h f) .A h 0 s → Gives (.aMovi h f) .A h f.d 1 1 ((f.imm.signExtend 32).setWidth 128) false s)

/-- The base value and the address of a word of the memory format (R39, R163): base plus the signed offset, or the signed index,
times the size, in the space's own width. -/
def Sys2Proof.Machine.Names (s : State) (o : FM) (indexed : Bool) (base : W128) (va : W64) : Prop :=
  let space := spaceOf o.sp
  s.core.src .A o.base (baseRegs space) = .ok base ∧
  ∃ off : Int, va = (if o.sp = 0 ∨ o.sp = 2 then base.setWidth 64 + BitVec.ofInt 64 off
                     else ((base.setWidth 32 : W32) + BitVec.ofInt 32 off).setWidth 64) ∧
    if indexed then ∃ v, s.core.src .A (o.off.extractLsb' 11 7) 1 = .ok v ∧ off = (v.setWidth 32 : W32).toInt * szBytes o.sz
    else off = o.off.toInt * szBytes o.sz

/-- An address that passes the checks of R164 before translation: aligned to the size, inside the scratchpad of the launch, below
2^55 in the global and fabric spaces. -/
def Sys2Proof.Machine.AddrOk (s : State) (sp : BitVec 2) (va : W64) (n : Nat) : Prop :=
  va.toNat % n = 0 ∧ (sp = 1 → va.toNat + n ≤ s.spadSize) ∧ (sp = 0 ∨ sp = 2 → va.toNat < 2 ^ 55)

/-- The bytes of l stand in the scratchpad of t's core from `at_`, and every other byte of it is as in s. -/
def Sys2Proof.Machine.SpadStored (s t : State) (at_ : Nat) (l : List Byte) : Prop :=
  ∀ k, t.core.spadRead k 1 = if at_ ≤ k ∧ k < at_ + l.length then [l.getD (k - at_) 0] else s.core.spadRead k 1

/-- The bytes of l stand in t's memory from pa, stored under a key; every other byte is as in s, but for those of a 128-byte unit that l
touches and that was held under another key (R359; the model's reading, notes/assumptions/6.md). -/
def Sys2Proof.Machine.MemStored (s t : State) (key pa : Nat) (l : List Byte) : Prop :=
  (∀ j, j < l.length → t.mem.byte (pa + j) = l.getD j 0) ∧
  ∀ a, a < pa ∨ pa + l.length ≤ a → a / 128 < pa / 128 ∨ (pa + l.length - 1) / 128 < a / 128 ∨ s.mem.keyOk key a = true →
    t.mem.byte a = s.mem.byte a

/-- A's next access may start and be performed (R152, R165, R171): every earlier word has passed its checks, fewer than 32 accesses are in
flight, no acquiring load precedes it, and the core waits in no fault buffer. -/
def Sys2Proof.Machine.Ready (s : State) : Prop :=
  s.core.aUnpassed = false ∧ s.core.acqOpen = false ∧ s.core.accOpen s.now < 32 ∧ waitsFault s s.cur .A = false

/-- The function's pages are promoted by no count of their accesses, and neither the core nor its bench holds a translation: what an
access does is its own effect alone (R364, R369). -/
def Sys2Proof.Machine.Alone (s : State) : Prop :=
  dcGet s (0x002B1038 + 0x40 * ringPart s (s.coreFn s.core)) &&& 0xFF = 0 ∧ (s.getB (benchOf s.cur)).tlb = [] ∧
  sget [] (s.getB (benchOf s.cur)).utlb (s.cur % 4) = []

/-- The access is ready, alone, and no acquire waits. -/
def Sys2Proof.Machine.Plain (s : State) : Prop := Sys2Proof.Machine.Ready s ∧ Sys2Proof.Machine.Alone s ∧ s.lockQ = []

/-- Loads (R154, R163, R164, R166-R169, R184, R196, R158): `ld` and `ldx` give the bytes at their address as a value of their size, `ldq`
an element at the tail of an operand queue; from the scratchpad after 4 clocks, from global memory after 10 through the L1 and at an open clock
beyond it (the clocks are the model's, the last a free value, notes/assumptions/14.md); an unaligned address is ALIGN with no effect; a load of an EMPTY line of
the scratchpad starts and stays in flight until it can be performed; `pf` fills the L1 with a line that can be read; a fabric load sends its request.
Where the spec leaves a point open it follows the model's own readings: notes/assumptions, entries 13, 34. -/
def Obligations.LoadWords : Prop :=
  ∀ (h : Hdr) (o : FM) (s : State) (base : W128) (va : W64),
    let n := szBytes o.sz
    let b : Via := .core s.cur
    let fn := s.coreFn s.core
    let kind : AccKind := if o.ord = 1 then .acq else .plain
    let q := (o.data.extractLsb' 0 3).toNat
    let still (t : State) : Prop := t.mem = s.mem ∧ t.core.named = s.core.named ∧ t.core.spad = s.core.spad
    let value (i : Instr) (lat : Nat) (l : List Byte) (t : State) : Prop := exec i s = .next (finishWord .A h
      { res := some { val := .scalar (BitVec.ofNat 128 (leNat l)), dest := dstOf .A o.data (szRegs o.sz) false, lat := lat }, kind := kind } t)
    let element (lat : Nat) (l : List Byte) (t : State) : Prop :=
      exec (.ldq h o) s = .next (finishWord .A h { res := some { val := elemBytes q l, dest := .opq q, lat := lat, enters := false }, kind := kind } t) ∧
      sget [] t.core.oq q = sget [] s.core.oq q ++ [{ bytes := List.replicate (if 6 ≤ q then max 4 n else n) 0, filled := false, fresh := false }]
    let absent : Prop := ∀ k, k < (n + 127) / 128 → sfind s.core.l1 (va.toNat / 128 + k) = none
    (∀ idx : Bool, let i : Instr := if idx then .ldx h o else .ld h o
      Starts i .A h 0 s → Names s o idx base va → s.core.aUnpassed = false →
      (va.toNat % n ≠ 0 → exec i s = .next (haltWord s .A { code := 0x15, index := 0, addr := va, tcode := 0 })) ∧
      (AddrOk s o.sp va n → Plain s →
        (o.sp = 1 → s.core.linesFull va.toNat n = true → spadErr s s.cur va.toNat n = false →
          value i 4 (s.core.spadRead va.toNat n) (startWord .A s)) ∧
        (o.sp = 1 → s.core.linesFull va.toNat n = false → exec i s = .next (finishWord .A h { res := some { val := .scalar 0, dest := dstOf .A o.data (szRegs o.sz) false, lat := 0, acc := some (.load o.sp base va n (o.bypass = 1) (o.ord = 1)) }, kind := kind } (startWord .A s))) ∧
        (o.sp = 3 → o.sz = 2 → ∀ v, regRead (startWord .A s) (some s.cur) va.toNat = some v → value i (farLat s) (leBytes 4 v.toNat) (startWord .A s)) ∧
        (o.sp = 0 → ∀ l, readVa s b fn va n = .ok l → o.bypass = 1 ∨ absent → ∃ t, value i (if o.bypass = 1 then farLat s else 10) l t ∧ still t) ∧
        (o.sp = 2 → s.ftc = [] → ∃ t tag m, exec i s = .next (finishWord .A h
            { res := some { val := .scalar 0, dest := dstOf .A o.data (szRegs o.sz) false, lat := 0, fab := some tag }, kind := kind } t) ∧ still t ∧
          t.outbox = s.outbox ++ [m] ∧ m.kind = 0 ∧ m.va = va ∧ m.aux = tag ∧ m.dst = base.extractLsb' 64 15 ∧ m.dvf = base.extractLsb' 96 8))) ∧
    (Starts (.ldq h o) .A h 0 s → Names s o false base va → AddrOk s o.sp va n → Plain s →
      oqReserved (sget [] s.core.oq q) + (if 6 ≤ q then max 4 n else n) ≤ oqCap q →
      (o.sp = 1 → s.core.linesFull va.toNat n = true → spadErr s s.cur va.toNat n = false → ∃ t, element 4 (s.core.spadRead va.toNat n) t ∧ still t) ∧
      (o.sp = 0 → ∀ l, readVa s b fn va n = .ok l → o.bypass = 1 ∨ absent → ∃ t, element (if o.bypass = 1 then farLat s else 10) l t ∧ still t)) ∧
    (Starts (.pf h o) .A h 0 s → s.core.src .A o.base 2 = .ok base → Plain s →
      ∃ t, Passes (.pf h o) .A h none s t ∧ still t ∧
        ∀ l, o.bypass = 0 → va = base.setWidth 64 + BitVec.ofInt 64 (o.off.toInt * n) → va.toNat < 2 ^ 55 → readVa s b fn (va &&& ~~~0x7F) 128 = .ok l →
          hostPage s (va &&& ~~~0x7F) = false → sfind s.core.l1 (va.toNat / 128) = none → sfind t.core.l1 (va.toNat / 128) = some l)

/-- Stores (R155, R159, R163-R168, R174): `st`, `stx` and `stq` write the low bytes of their source, or bytes of a store queue, to their
address and nothing else; an unaligned address is ALIGN with no effect; `oqst` appends an element to an operand queue, zeros where
its guard is false. -/
def Obligations.StoreWords : Prop :=
  ∀ (h : Hdr) (o : FM) (r : FR) (s : State) (base v : W128) (va : W64),
    let n := szBytes o.sz
    let fn := s.coreFn s.core
    let k := (o.data.extractLsb' 0 1).toNat
    let sq := sget [] s.core.sq k
    let same (t : State) : Prop := t.core.named = s.core.named ∧ t.core.preds = s.core.preds ∧ t.core.apreds = s.core.apreds ∧ t.core.tsh = s.core.tsh
    let stored (i : Instr) (lat : Nat) (t : State) : Prop := exec i s = .next (finishWord .A h { lat := lat, kind := .plain } t)
    let lands (i : Instr) (l : List Byte) (more : State → Prop) : Prop := AddrOk s o.sp va n → Plain s →
      (o.sp = 1 → ∃ t, stored i 1 t ∧ SpadStored s t va.toNat l ∧ t.mem = s.mem ∧ t.core.lines = s.core.lines ∧ same t ∧ more t) ∧
      (o.sp = 0 → ∀ pa e, translate s (.core s.cur) fn va .wr false = .ok pa e →
        ∃ t, stored i (farLat s) t ∧ MemStored s t (leafKey s fn e) pa l ∧ t.core.spad = s.core.spad ∧ same t ∧ more t) ∧
      (o.sp = 2 → s.ftc = [] → ∃ t tag m, exec i s = .next (finishWord .A h
          { res := some { val := .scalar 0, dest := .none, lat := 0, enters := false, fab := some tag }, kind := .plain } t) ∧
        t.outbox = s.outbox ++ [m] ∧ m.kind = 2 ∧ m.va = va ∧ m.payload = l ∧ m.dst = base.extractLsb' 64 15 ∧ t.mem = s.mem ∧ same t ∧ more t)
    (∀ idx : Bool, let i : Instr := if idx then .stx h o else .st h o
      Starts i .A h 0 s → s.core.src .A o.data (szRegs o.sz) = .ok v → Names s o idx base va → s.core.aUnpassed = false →
      (va.toNat % n ≠ 0 → exec i s = .next (haltWord s .A { code := 0x15, index := 0, addr := va, tcode := 0 })) ∧
      lands i (leBytes n v.toNat) (fun _ => True) ∧
      (o.sp = 3 → o.sz = 2 → AddrOk s o.sp va n → Plain s → ∀ t, regWrite (startWord .A s) (some s.cur) va.toNat (v.setWidth 32) = some t →
        stored i (farLat t) t)) ∧
    (Starts (.stq h o) .A h 0 s → Names s o false base va → n ≤ sq.length →
      lands (.stq h o) (sq.take n) fun t => sget [] t.core.sq k = sq.drop n ∧ ∀ j, j ≠ k → sget [] t.core.sq j = sget [] s.core.sq j) ∧
    (∀ q : Nat, q ≤ 7 → immOf r.c = some (q : Int) → Starts (.oqst h r) .A h 0 s →
      let m := 4 * wideT r.t
      let size := if 6 ≤ q then max 4 m else m
      oqReserved (sget [] s.core.oq q) + size ≤ oqCap q →
      let appends (x : W128) : Prop := ∃ t, exec (.oqst h r) s = .next (finishWord .A h
          { res := some { val := elemBytes q (leBytes m x.toNat), dest := .opq q, lat := 0, enters := false } } t) ∧ t.mem = s.mem ∧ same t ∧
        sget [] t.core.oq q = sget [] s.core.oq q ++ [{ bytes := List.replicate size 0, filled := false, fresh := false }] ∧ ∀ j, j ≠ q → sget [] t.core.oq j = sget [] s.core.oq j
      (guardTrue s.core .A r.g = some true → s.core.src .A r.a (wideT r.t) = .ok v → appends v) ∧
      (guardTrue s.core .A r.g = some false → appends 0))

/-- Atomics (R164, R173): each gives the old value and stores the new one, in the scratchpad or in global memory, with no access between
the two: the sum, the three bit operations, the smaller, the larger, the f32 sum rounded to nearest, the operand, or the third
operand where the old value equals the second, and otherwise nothing is written; an atomic of the fabric sends its request. -/
def Sys2Proof.Machine.AtomicWordsRule : Prop :=
  ∀ (h : Hdr) (o : FR) (s : State) (base b c : W128),
    let n := 4 * wideT o.t
    let w := 8 * n
    let sp := spaceOf o.m
    let va := effAddr sp base 0
    let fn := s.coreFn s.core
    let y : BitVec w := b.setWidth w
    let new (op : Nat) (x : BitVec w) : BitVec w :=
      match op with
      | 0 => x + y | 1 => x &&& y | 2 => x ||| y | 3 => x ^^^ y
      | 4 => if tnum o.t y < tnum o.t x then y else x
      | 5 => if tnum o.t x < tnum o.t y then y else x
      | 6 => (fadd 0 0 (x.setWidth 32) (y.setWidth 32)).setWidth w
      | 7 => y
      | _ => if x = y then c.setWidth w else x
    let acts (i : Instr) (op : Nat) : Prop :=
      Starts i .A h o.g s → s.core.aUnpassed = false →
      (va.toNat % n ≠ 0 → exec i s = .next (haltWord s .A { code := 0x15, index := 0, addr := va, tcode := 0 })) ∧
      (AddrOk s o.m va n → Plain s →
        (o.m = 1 → s.core.linesFull va.toNat n = true → spadErr s s.cur va.toNat n = false →
          let old : BitVec w := BitVec.ofNat w (leNat (s.core.spadRead va.toNat n))
          ∃ t, exec i s = .next (finishWord .A h { res := some { val := .scalar (old.setWidth 128), dest := dstOf .A o.d (wideT o.t) false, lat := 4 }, kind := .plain } t) ∧
            SpadStored s t va.toNat (leBytes n (new op old).toNat) ∧ t.mem = s.mem ∧ t.core.named = s.core.named) ∧
        (o.m = 0 → remotePage s va = none → ∀ pa e l, translate s (.core s.cur) fn va .wr false = .ok pa e →
          readFrom s (.core s.cur) fn .wr false 2 va n = .ok l →
          let old : BitVec w := BitVec.ofNat w (leNat l)
          ∃ t, exec i s = .next (finishWord .A h { res := some { val := .scalar (old.setWidth 128), dest := dstOf .A o.d (wideT o.t) false, lat := farLat s }, kind := .plain } t) ∧
            (if op = 8 ∧ old ≠ y then t.mem = s.mem else MemStored s t (leafKey s fn e) pa (leBytes n (new op old).toNat)) ∧
            t.core.spad = s.core.spad ∧ t.core.named = s.core.named) ∧
        (o.m = 2 → s.ftc = [] → ∃ t tag m, exec i s = .next (finishWord .A h
            { res := some { val := .scalar 0, dest := dstOf .A o.d (wideT o.t) false, lat := 0, fab := some tag }, kind := .plain } t) ∧
          t.outbox = s.outbox ++ [m] ∧ m.kind = 4 ∧ m.va = va ∧ m.aux = tag ∧ m.dst = base.extractLsb' 64 15 ∧ m.dvf = base.extractLsb' 96 8 ∧
          m.payload.take 2 = [BitVec.ofNat 8 op, BitVec.ofNat 8 o.t.toNat] ∧ t.mem = s.mem ∧ t.core.spad = s.core.spad ∧ t.core.named = s.core.named))
    s.core.src .A o.a (baseRegs sp) = .ok base → s.core.src .A o.b (wideT o.t) = .ok b →
    (∀ op : Nat, op ≤ 6 → immOf o.c = some (op : Int) → acts (.amo h o) op) ∧ acts (.amoswp h o) 7 ∧
    (s.core.src .A o.c (wideT o.t) = .ok c → acts (.amocas h o) 8)

/-- Order and locks (R182, R185, R191-R193, R195): `fence` passes once nothing of A is in flight, and `.inv` drops the L1; `acq` takes a FREE lock
word for its context and core and gives its SEQ, or 1 for `.try`; a HELD one gives 0 to `.try` and otherwise queues the
core; `rel` frees the word with SEQ one up, which the oldest waiter then holds; `lfe` sets or awaits a scratchpad line. -/
def Sys2Proof.Machine.OrderWordsRule : Prop :=
  ∀ (h : Hdr) (o : FR) (f : FM) (s : State) (base : W128),
    let va : W64 := base.setWidth 64
    let fn := s.coreFn s.core
    let via : Via := .core s.cur
    let same (t : State) : Prop := t.core.named = s.core.named ∧ t.core.spad = s.core.spad ∧ t.core.apreds = s.core.apreds
    let gives (lat : Nat) (v : W32) (t : State) : Prop :=
      exec (.acq h o) s = .next (finishWord .A h { res := some { val := .scalar (v.setWidth 128), dest := dstOf .A o.d 1 false, lat := lat }, kind := .plain } t)
    let released (t : State) : Prop := exec (.rel h o) s = .next (finishWord .A h { lat := farLat s, kind := .plain } t)
    let word (seq : BitVec 16) (holder : W64) : List Byte := leBytes 8 (seq.toNat * 2 ^ 48 + holder.toNat)
    let mine : W64 := BitVec.ofNat 64 (Config.devId.toNat * 2 ^ 33 + 2 ^ 32 + s.core.ctx % 65536 * 2 ^ 16 + s.cur % 512)
    (Starts (.fence h o) .A h o.g s →
      ((∀ x ∈ s.core.flight, x.stream ≠ .A) → ∃ t, Passes (.fence h o) .A h none s t ∧ same t ∧ t.mem = s.mem ∧
        t.core.l1 = if immOf o.b = some 1 then [] else s.core.l1) ∧
      ((∃ x ∈ s.core.flight, x.stream = .A) → s.core.a.atAlign = none → ∃ t, exec (.fence h o) s = .next t ∧ t.core.a.st = .blocked ∧ t.core.a.pc = s.core.a.pc ∧ same t ∧
        t.mem = s.mem)) ∧
    (o.m = 0 → s.core.src .A o.a 2 = .ok base → AddrOk s 0 va 8 → Ready s → Alone s →
      ∀ pa e l, translate s via fn va .wr false = .ok pa e → readFrom s via fn .wr false 2 va 8 = .ok l →
      let w : W64 := BitVec.ofNat 64 (leNat l)
      let seq : BitVec 16 := w.extractLsb' 48 16
      (Starts (.acq h o) .A h o.g s → s.core.lock = .none →
        (w.getLsbD 32 = false → s.lockQ = [] → ∃ t, gives (farLat s) (if immOf o.b = some 1 then 1 else seq.setWidth 32) t ∧ same t ∧
          MemStored s t (leafKey s fn e) pa (word seq mine)) ∧
        (w.getLsbD 32 = true → immOf o.b = some 1 → ∃ t, gives (farLat s) 0 t ∧ same t ∧ t.mem = s.mem) ∧
        (w.getLsbD 32 = true → immOf o.b = some 0 → s.core.a.atAlign = none → ∃ t, exec (.acq h o) s = .next t ∧ t.core.lock = .waiting ∧ t.core.a.st = .blocked ∧
          t.core.a.pc = s.core.a.pc ∧ t.mem = s.mem ∧ same t ∧ ∃ q, t.lockQ = s.lockQ ++ [q] ∧ q.pa = pa ∧ q.core = some s.cur ∧ q.ctx = s.core.ctx ∧ q.holder = s.cur)) ∧
      (Starts (.acq h o) .A h o.g s → ∀ v, s.core.lock = .granted v → ∃ t, gives (farLat s) v t ∧ same t ∧ t.core.lock = .none ∧ t.mem = s.mem) ∧
      (Starts (.rel h o) .A h o.g s →
        (s.lockQ = [] → ∃ t, released t ∧ same t ∧ MemStored s t (leafKey s fn e) pa (word (seq + 1) 0)) ∧
        (∀ q k rest, s.lockQ = q :: rest → q.pa = pa → q.gone = false → q.core = some k →
          ∃ t, released t ∧ t.lockQ = rest ∧ (t.getC k).lock = .granted ((seq + 1).setWidth 32) ∧
            MemStored s t (leafKey s fn e) pa
              (word (seq + 1) (BitVec.ofNat 64 (q.dev.toNat * 2 ^ 33 + 2 ^ 32 + q.ctx % 65536 * 2 ^ 16 + q.holder % 512)))))) ∧
    (∀ a : W64, Starts (.lfe h f) .A h 0 s → Names s f false base a → AddrOk s 1 a (szBytes f.sz) → f.sp = 1 → s.core.aUnpassed = false →
      let line := a.toNat / 128
      let full := sget false s.core.lines line
      let sets (b : Bool) : Prop := ∃ t, Passes (.lfe h f) .A h none s t ∧ same t ∧ t.mem = s.mem ∧ sget false t.core.lines line = b ∧
        ∀ k, k ≠ line → sget false t.core.lines k = sget false s.core.lines k
      let waits : Prop := s.core.a.atAlign = none → ∃ t, exec (.lfe h f) s = .next t ∧ t.core.a.st = .blocked ∧ t.core.a.pc = s.core.a.pc ∧ t.core.lines = s.core.lines
      (immOf f.data = some 0 → sets false) ∧ (immOf f.data = some 1 → sets true) ∧
      (immOf f.data = some 2 → (full = true → Passes (.lfe h f) .A h none s (startWord .A s)) ∧ (full = false → waits)) ∧
      (immOf f.data = some 3 → (full = false → Passes (.lfe h f) .A h none s (startWord .A s)) ∧ (full = true → waits)))

/-- Atomics, fences, acquires and releases of A. -/
def Obligations.AtomicWords : Prop := Sys2Proof.Machine.AtomicWordsRule ∧ Sys2Proof.Machine.OrderWordsRule

/-- Regions and the copy stage (R186-R189, R298): `bind` of an aligned range that meets no bound one takes the first free entry and gives its index, or
0xFFFFFFFF where all 256 are bound; `unbind` frees an entry; `cstage` sets or advances the stage and gives it. -/
def Sys2Proof.Machine.RegionWordsRule : Prop :=
  ∀ (h : Hdr) (o : FR) (s : State) (a b c : W128),
    let x := s.core.ctx
    let base : W64 := a.setWidth 64
    let lines : W32 := b.setWidth 32
    let w : W64 := c.setWidth 64
    let regs := (s.getX x).regions
    let gives (i : Instr) (v : W32) (t : State) : Prop :=
      exec i s = .next (finishWord .A h { res := some { val := .scalar (v.setWidth 128), dest := dstOf .A o.d 1 false, lat := 1 } } t)
    let same (t : State) : Prop := t.core.named = s.core.named ∧ t.core.spad = s.core.spad ∧ ∀ y, y ≠ x → t.getX y = s.getX y
    (s.core.src .A o.a 2 = .ok a → s.core.src .A o.b 1 = .ok b → s.core.src .A o.c (if o.m = 3 then 4 else 2) = .ok c → s.core.aUnpassed = false →
      Starts (.bind h o) .A h o.g s →
      (base.toNat % 128 ≠ 0 → exec (.bind h o) s = .next (haltWord s .A { code := 0x15, index := 0, addr := base, tcode := 0 })) ∧
      (base.toNat % 128 = 0 → lines = 0 ∨ syncOk w = false ∨ (∃ e r, (e, r) ∈ regs ∧ base.toNat < r.base.toNat + 128 * r.lines.toNat ∧ r.base.toNat < base.toNat + 128 * lines.toNat) →
        exec (.bind h o) s = .next (haltWord s .A { code := 0x21, index := 0, addr := base, tcode := 0 })) ∧
      (base.toNat % 128 = 0 → lines ≠ 0 → base.toNat + 128 * lines.toNat ≤ 2 ^ 55 → syncOk w = true →
        (∀ e r, (e, r) ∈ regs → r.base.toNat + 128 * r.lines.toNat ≤ base.toNat ∨ base.toNat + 128 * lines.toNat ≤ r.base.toNat) →
        ((∀ e, e < 256 → (sfind regs e).isSome = true) → gives (.bind h o) 0xFFFFFFFF (startWord .A s)) ∧
        (∀ e, e < 256 → sfind regs e = none → (∀ j, j < e → (sfind regs j).isSome = true) →
          ∃ t, gives (.bind h o) (BitVec.ofNat 32 e) t ∧ same t ∧ (∀ j, j ≠ e → sfind (t.getX x).regions j = sfind regs j) ∧
            ∃ r, sfind (t.getX x).regions e = some r ∧ r.base = base ∧ r.lines = lines ∧ r.scope = o.m ∧ r.kind = w.getLsbD 63 ∧ r.sync = w))) ∧
    (s.core.src .A o.a 1 = .ok a → s.core.aUnpassed = false → Starts (.unbind h o) .A h o.g s →
      let e := (a.setWidth 32 : W32).toNat
      (255 < e → exec (.unbind h o) s = .next (haltWord s .A (stopCode cRANGE))) ∧
      (e ≤ 255 → sfind regs e = none → Passes (.unbind h o) .A h none s (startWord .A s)) ∧
      (∀ r, e ≤ 255 → sfind regs e = some r → ∃ t, Passes (.unbind h o) .A h none s t ∧ same t ∧ sfind (t.getX x).regions e = none ∧
        ∀ j, j ≠ e → sfind (t.getX x).regions j = sfind regs j)) ∧
    (Starts (.cstage h o) .A h o.g s → s.core.aUnpassed = false →
      let moves (v : BitVec 16) : Prop := ∃ t, gives (.cstage h o) (v.setWidth 32) t ∧ t.core.stage = v ∧ same t ∧ t.mem = s.mem
      (o.m.getLsbD 0 = true → s.core.src .A o.a 1 = .ok a → moves (a.setWidth 16)) ∧ (o.m.getLsbD 0 = false → moves (s.core.stage + 1)))

/-- The address words and the region words of A. -/
def Obligations.AddressWords : Prop := Sys2Proof.Machine.AddressWordsRule ∧ Sys2Proof.Machine.RegionWordsRule

/-! ## Pages, translations and replays; compute in the memory stacks; shards and copies -/

/-- Ring k of partition p holds frame f at its head, a frame that it may hold (R368). -/
def Sys2Proof.Machine.RingGives (s : State) (p k f : Nat) : Prop := ringHead s p k = some f ∧ frameGood k f = true

/-- Pages (R366-R369, R376): a touch of an ABSENT page maps a zeroed frame of HFREE and changes no other byte; `pmig` of a pool page
into HBM takes a frame and leaves the entry MIGRATING, and skips a page that a shard pins; the move's end copies the 64 KiB, names the new frame, and holds the old
one where RET is full; counters halve each period; RCONS makes room for a held frame.
Where the spec leaves a point open it follows the model's own readings: notes/assumptions, entries 33, 48. -/
def Obligations.PageMoves : Prop :=
  ∀ (s : State) (fn : Nat) (va : W64),
    let ret (p : Nat) : Nat := 0x002B1000 + 0x40 * p + 0x20
    let room (p : Nat) : Nat := 2 ^ ((dcGet64 s (ret p)) &&& 0x1F).toNat
    (∀ pa e f, walk s fn va = .leaf pa e → eState e = 0 → eSize e = 0 → cachedMode s fn = false → RingGives s (ringPart s fn) 0 f →
      (∃ b ∈ s.benches, ∃ x ∈ b.2.faults, x.fn = fn ∧ x.va.toNat / 65536 = va.toNat / 65536 ∧ x.failed = none) →
      (∀ j, j < 8 → (pa + j) / 65536 ≠ f / 65536) → s.lockQ = [] →
      ∃ t, exec (.pageTouch fn va) s = .next t ∧ t.pa64 pa = eSet e 1 (BitVec.ofNat 64 f) ∧ (∀ a, a / 65536 = f / 65536 → t.mem.byte a = 0) ∧
        (∀ a, a / 65536 ≠ f / 65536 → (∀ j, j < 8 → a ≠ pa + j) → t.mem.byte a = s.mem.byte a) ∧ t.cores = s.cores) ∧
    (∀ (h : Hdr) (o : FR) (a b : W128), fn = s.coreFn s.core → Starts (.pmig h o) .A h o.g s →
      let gives (n : Nat) (t : State) : Prop := exec (.pmig h o) s = .next (finishWord .A h
        { res := some { val := .scalar ((BitVec.ofNat 32 n).setWidth 128), dest := dstOf .A o.d 1 false, lat := 1 } } t)
      (∀ pa e f, va = a.setWidth 64 → s.core.src .A o.a 2 = .ok a → s.core.src .A o.b 1 = .ok b → s.core.aPend = .none → s.core.aUnpassed = false →
        va.toNat % 65536 = 0 → va.toNat + 65536 ≤ 2 ^ 55 → b.setWidth 32 = (1 : W32) → immOf o.c = some 1 → o.m.getLsbD 0 = false →
        walk s fn va = .leaf pa e → (∀ c, translate s (.core s.cur) fn va .wr false ≠ .bad c) → eState e = 2 → eSize e = 0 → eHost e = false →
        (∀ m ∈ s.moves, m.fn = fn → m.va ≠ va) → cachedMode s fn = false → pinnedPage s fn va = false → RingGives s (ringPart s fn) 0 f →
        ∃ t m, gives 1 t ∧ eState (t.pa64 pa) = 3 ∧ t.moves = s.moves ++ [m] ∧ m.fn = fn ∧ m.va = va ∧ m.entryPa = pa ∧ m.before = e ∧ eState m.target = 1 ∧
          eFrame m.target = f ∧ m.oldFrame = some (BitVec.ofNat 64 (eFrame e)) ∧ m.newFrame = some (BitVec.ofNat 64 f) ∧ m.after = none ∧
          t.core.named = s.core.named) ∧
      (∀ pa e, va = a.setWidth 64 → s.core.src .A o.a 2 = .ok a → s.core.src .A o.b 1 = .ok b → s.core.aPend = .none → s.core.aUnpassed = false →
        va.toNat % 65536 = 0 → va.toNat + 65536 ≤ 2 ^ 55 → b.setWidth 32 = (1 : W32) → immOf o.c = some 1 → o.m.getLsbD 0 = false →
        walk s fn va = .leaf pa e → (∀ c, translate s (.core s.cur) fn va .wr false ≠ .bad c) → eState e = 2 → pinnedPage s fn va = true →
        ∃ t, gives 0 t ∧ t.moves = s.moves ∧ t.mem = s.mem) ∧
      (∀ n f vas, s.core.aPend = .moves n f vas → (∀ m ∈ s.moves, m.fn = f → m.va ∉ vas) → ∃ t, gives n t ∧ t.core.aPend = .none ∧ t.mem = s.mem)) ∧
    (∀ m f g, s.moves.find? (fun m => m.fn = fn && m.va = va) = some m → m.after = none → m.newFrame = some f → m.oldFrame = some g →
      s.pa64 m.entryPa = eMigrating m.before → (∀ j, j < 8 → m.entryPa + j < f.toNat ∨ f.toNat + 65536 ≤ m.entryPa + j) →
      ((dcGet s (ret (ringPart s fn) + 8)) - (dcGet s (ret (ringPart s fn) + 12))).toNat ≥ room (ringPart s fn) →
      ∃ t, exec (.pageMoveDone fn va) s = .next t ∧ t.pa64 m.entryPa = m.target ∧ m ∉ t.moves ∧ t.heldFrames = s.heldFrames ++ [(ringPart s fn, g)] ∧
        ∀ i, i < 65536 → t.mem.byte (f.toNat + i) = (s.mem.readKey (leafKey s fn m.before) (eFrame m.before) 65536).getD i 0) ∧
    (∀ part, (dcGet s (0x002B1038 + 0x40 * part)).toNat / 65536 ≠ 0 →
      sget 0 s.decayAt part + 1024 * ((dcGet s (0x002B1038 + 0x40 * part)).toNat / 65536) ≤ s.now →
      ∃ t, exec (.decayPeriod part) s = .next t ∧ t.mem = s.mem ∧
        ∀ k, sfind t.counters k = (sfind s.counters k).map fun (n : Byte) => if partOf s (keyFn k) = some part then n >>> (1 : Nat) else n) ∧
    (∀ part val, ((∀ e ∈ s.heldFrames, e.1 ≠ part) → ∃ t, exec (.rconsWrite part val) s = .next t ∧ dcGet t (ret part + 12) = val ∧ t.mem = s.mem) ∧
      (∀ g, s.heldFrames = [(part, g)] → (dcGet s (ret part + 8) - val).toNat < room part →
        ∃ t, exec (.rconsWrite part val) s = .next t ∧ dcGet t (ret part + 12) = val ∧ dcGet t (ret part + 8) = dcGet s (ret part + 8) + 1 ∧ t.heldFrames = [] ∧
          t.pa64 ((dcGet64 s (ret part) &&& 0x0000FFFFFFFF0000).toNat + 8 * ((dcGet s (ret part + 8)).toNat % room part)) = g))

/-- Translations, replays and fetches (R93, R343, R364, R365): an invalidation drops exactly what it names from every bench's TLB and every
micro-TLB; a walk's return fills the bench TLB and satisfies its miss; a replayed access leaves its fault buffer once its page no longer waits, a
failed one faults its stream, or the oldest access of A that waits; a missing word arrives in its stream's cache.
Where the spec leaves a point open it follows the model's own readings: notes/assumptions, entries 32, 50. -/
def Obligations.TranslationEvents : Prop :=
  ∀ (s : State),
    let drops (i : Instr) (gone : TlbEntry → Prop) : Prop := ∃ t, exec i s = .next t ∧ t.tlbiBusy = false ∧ t.mem = s.mem ∧ ∀ b e,
      (e ∈ (t.getB b).tlb ↔ e ∈ (s.getB b).tlb ∧ ¬gone e) ∧ ∀ k, e ∈ sget [] (t.getB b).utlb k ↔ e ∈ sget [] (s.getB b).utlb k ∧ ¬gone e
    (∀ fn, drops (.tlbiFunction fn) fun e => e.fn = fn) ∧
    (∀ fn, drops (.tlbiPage fn) fun e => e.fn = fn ∧ (dcGet64 s 0x002B0800).toNat / 2 ^ max e.size 16 = e.base.toNat / 2 ^ max e.size 16) ∧
    drops .tlbiAll (fun _ => True) ∧
    (∀ bench fn va pa e, walking s bench = some (fn, va) → walk s fn va = .leaf pa e → eState e = 1 →
      ∃ t, exec (.walkReturn bench) s = .next t ∧ (fn, va) ∉ (t.getB bench).misses ∧ t.mem = s.mem ∧
        ∃ x ∈ (t.getB bench).tlb, x.fn = fn ∧ x.leaf = e ∧ x.size = pageBits e ∧ va.toNat / 2 ^ pageBits e = x.base.toNat / 2 ^ pageBits e) ∧
    (∀ bench f l, bench < 96 → (s.getB bench).faults = f :: l →
      (f.failed = none → pageWaits s f.fn f.va = false → ∃ t, exec (.replay bench) s = .next t ∧ (t.getB bench).faults = l ∧ t.mem = s.mem ∧ t.cores = s.cores) ∧
      (f.failed = none → pageWaits s f.fn f.va = true → (f.op.isSome = true ∨ ((s.getC f.core).str f.stream).st = .blocked) → exec (.replay bench) s = .next s) ∧
      (∀ code g, f.failed = some code → f.op = none → f.stream = .A → (s.getC f.core).a.st = .blocked → (s.getC f.core).aFlight.find? (fun e => e.acc.isSome) = some g →
        ∃ t, exec (.replay bench) s = .next t ∧ (t.getB bench).faults = l ∧ t.mem = s.mem ∧
          ∃ e ∈ (t.getC f.core).flight, e.seq = g.seq ∧ e.acc = some (.failed { code := code, index := 0, addr := f.va, tcode := 0 })) ∧
      (∀ code, f.failed = some code → f.op = none → f.stream ≠ .S → (f.stream = .A → (s.getC f.core).aPending = false) →
        ((s.getC f.core).str f.stream).st = .blocked ∨ ((s.getC f.core).str f.stream).st = .frozen →
        ∃ t, exec (.replay bench) s = .next t ∧ (t.getB bench).faults = l ∧
          ((t.getC f.core).str f.stream).fault = some { code := code, index := 0, addr := f.va, tcode := 0 })) ∧
    (∀ core n l, n < 4 → let c := s.getC core
      let st := ([StreamId.S, .V, .A, .X].getD n .S)
      c.inst.isSome = true → c.started = true → c.away = false → (c.str st).st = .aligned → sfind (c.str st).cache (c.str st).pc = none → waitsFault s core st = false →
      fetchCode s core (c.str st).pc = .ok l →
      ∃ t, exec (.fetchMissArrival core n) s = .next t ∧ sfind ((t.getC core).str st).cache (c.str st).pc = some (BitVec.ofNat 64 (leNat l)) ∧ t.mem = s.mem ∧
        ((t.getC core).str st).pc = (c.str st).pc ∧ (t.getC core).named = c.named)

/-- Compute in the memory stacks (R373-R375, R377, R379, R380): `bdmode` of one page puts its channel into, or takes it out of, the context's set and
gives the number of channels that changed once all have; a unit's row whose residues hold is the exact sum of its products in the integer format
and goes to OUTVA; a droop window ends; ROWVAL writes an owner of one row or of all 64 of a frame.
Where the spec leaves a point open it follows the model's own readings: notes/assumptions, entries 48. -/
def Obligations.NearMemory : Prop :=
  ∀ (s : State),
    (∀ (h : Hdr) (o : FR) (a b : W128), Starts (.bdmode h o) .A h o.g s →
      let x := s.core.ctx
      let va : W64 := a.setWidth 64
      (∀ n chans, s.core.aPend = .dots n chans → (∀ ch ∈ chans, ∀ e ∈ s.chanChange, e.1 ≠ ch) →
        ∃ t, exec (.bdmode h o) s = .next (finishWord .A h { res := some { val := .scalar ((BitVec.ofNat 32 n).setWidth 128), dest := dstOf .A o.d 1 false, lat := 1 } } t) ∧
          t.core.aPend = .none ∧ t.mem = s.mem ∧ t.ctxs = s.ctxs) ∧
      (s.core.src .A o.a 2 = .ok a → s.core.src .A o.b 1 = .ok b → s.core.aPend = .none → s.core.aUnpassed = false →
        (va.toNat % 65536 ≠ 0 → exec (.bdmode h o) s = .next (haltWord s .A { code := 0x15, index := 0, addr := va, tcode := 0 })) ∧
        (va.toNat % 65536 = 0 → b.setWidth 32 = (0 : W32) → exec (.bdmode h o) s = .next (haltWord s .A { code := 0x21, index := 0, addr := va, tcode := 0 })) ∧
        (∀ pa e, va.toNat % 65536 = 0 → va.toNat + 65536 ≤ 2 ^ 55 → b.setWidth 32 = (1 : W32) → waitsFault s s.cur .A = false → (s.getB (benchOf s.cur)).tlb = [] →
          sget [] (s.getB (benchOf s.cur)).utlb (s.cur % 4) = [] → translate s (.core s.cur) (s.coreFn s.core) va .rd false = .ok pa e →
          (eState e ≠ 5 → exec (.bdmode h o) s = .next (haltWord s .A { code := 0x21, index := 0, addr := va, tcode := 0 })) ∧
          (eState e = 5 → frameOwned s (s.coreFn s.core) pa = true →
            ∃ t, exec (.bdmode h o) s = .next t ∧ t.mem = s.mem ∧ (∀ y, y ≠ x → t.getX y = s.getX y) ∧
              (∀ ch, ch ∈ (t.getX x).dotSet ↔ (if ch = channelOf pa then o.m.getLsbD 0 = true else ch ∈ (s.getX x).dotSet)))))) ∧
    (∀ chan, ∃ t, exec (.dotModeChangeDone chan) s = .next t ∧ t.mem = s.mem ∧ t.ctxs = s.ctxs ∧
      ∀ e, e ∈ t.chanChange ↔ e ∈ s.chanChange ∧ ¬(e.1 = chan ∧ e.2.2 ≤ s.now)) ∧
    (∀ x slot chan o r desc w xv s2 pa e,
      let d := bdescOf o.got
      let fn := (s.getX x).fn
      let n := d.len * d.esz
      let row := d.rowVa r
      let via : Via := .bench (benchOf o.core)
      s.getO x slot = some o → o.st = .running → o.body = .bdot desc → o.got ≠ [] → servesOrDrains s x = true → nextRow s fn d o chan = some r → o.cancel = false →
      (∀ c ∈ s.chanChange, c.1 ≠ chan) → chan < 3072 → droopUsed s (chan / 384) < (dcGet s (0x002B2000 + 0x800 * (chan / 384))).toNat →
      row.toNat % 1024 + n ≤ 1024 → opEntry s o.core x slot = none → dcGet s (0x002B1038 + 0x40 * ringPart s fn) &&& 0xFF = 0 → (s.getB (benchOf o.core)).tlb = [] →
      s.lockQ = [] → readVa s via fn row n = .ok w → residuesHold s d ((paOf s fn row).getD 0) w xv = true →
      walk s fn row = .leaf pa e → eState e = 5 → eCfmt e = d.fmt → inDot s chan = true → sfind o.inputs chan = some xv →
      writeVa { s with free := s.free + 1 } via fn (d.out + BitVec.ofNat 64 (4 * r)) (leBytes 4 (bankDot d w xv).toNat) = .ok s2 →
      ∃ t p rec, exec (.bankDotRow x slot chan) s = .next t ∧ t.getO x slot = some p ∧ p.entry = o.entry + 1 ∧ sget 0 p.recv chan = r + 1 ∧ p.st = .running ∧
        p.deliv.toNat = min (o.deliv.toNat + n) 0xFFFFFFFF ∧ rec.length = 32 ∧ t.cores = s.cores ∧
        t.mem = (({ s2 with free := s2.free + 1 } : State).devWrite fn ((s.getX x).opva + BitVec.ofNat 64 (32 * slot)) rec).mem ∧
        droopUsed t (chan / 384) = droopUsed s (chan / 384) + 1 ∧
        (d.fmt = 3 → bankDot d w xv = BitVec.ofInt 32 ((List.range d.len).map fun i => (w.getD i 0).toInt * (xv.getD i 0).toInt).sum)) ∧
    (∀ stack t0 n, sfind s.droop stack = some (t0, n) → t0 + 39 ≤ s.now → ∃ t, exec (.droopWindow stack) s = .next t ∧ sfind t.droop stack = none ∧ t.mem = s.mem) ∧
    (∀ (stack : Nat) (val : BitVec 32),
      let a := dcGet s (0x002B2018 + 0x800 * stack)
      let base := (dcGet64 s (0x002B2010 + 0x800 * stack)).toNat + 64 * (a.extractLsb' 6 20).toNat
      ∃ t, exec (.rowval stack val) s = .next t ∧ t.cores = s.cores ∧
        (∀ i, i < 64 → (a.getLsbD 26 = true ∨ i = (a.extractLsb' 0 6).toNat) → t.mem.byte (base + i) = val.setWidth 8) ∧
        (∀ p, (a.getLsbD 26 = true → p < base ∨ base + 64 ≤ p) → (a.getLsbD 26 = false → p ≠ base + (a.extractLsb' 0 6).toNat) → t.mem.byte p = s.mem.byte p))

/-- Shards and copies (R297, R405-R407, R413): `glzq` reads the live fields of a valid shard; a chunk with all its contributions is updated
once, here by the momentum rule without a published copy, and the last one publishes; a line of a load arrives whole in an EMPTY
line of the scratchpad, which becomes FULL.
Where the spec leaves a point open it follows the model's own readings: notes/assumptions, entries 45. -/
def Obligations.ShardAndCopyUnits : Prop :=
  ∀ (s : State),
    (∀ (h : Hdr) (o : FR) (a b : W128), s.core.src .S o.a 1 = .ok a → s.core.src .S o.b 1 = .ok b → Starts (.glzq h o) .S h o.g s →
      let n := (a.setWidth 32 : W32).toNat
      let k := (b.setWidth 32 : W32).toNat % 4
      let fn := s.coreFn s.core
      let g := s.getShard fn n
      let word (v : W32) : Prop := Gives (.glzq h o) .S h o.d 1 4 (v.setWidth 128) false s
      (∀ v, n ≤ 1023 → shardTable s fn ≠ 0 → s.devRead fn (shardVa s fn n) 1 = some [v] → v.getLsbD 0 = true →
        (k = 0 → word (BitVec.ofNat 32 (g.code.toNat * 256 + g.st.code))) ∧ (k = 1 → word g.step) ∧ (k = 2 → word g.ndone) ∧ (k = 3 → word g.dupdrop)) ∧
      (1023 < n ∨ shardTable s fn = 0 → word 0xFFFFFFFF) ∧
      (∀ v, s.devRead fn (shardVa s fn n) 1 = some [v] → v.getLsbD 0 = false → word 0xFFFFFFFF)) ∧
    (∀ fn n chunk ls s0 s1,
      let g := s.getShard fn n
      let c := shardCfg g.capture
      let size := 4 * c.chunk
      let at_ (va : W64) : W64 := va + BitVec.ofNat 64 (size * chunk)
      let grads := (List.range c.ncontrib).map fun k => c.grad + BitVec.ofNat 64 (4 * (k * c.nparam + chunk * c.chunk))
      let val (j i : Nat) : W32 := (wordsOf (ls.getD j [])).getD i 0
      let grad (i : Nat) : W32 := mulR (tree addR 0 ((List.range c.ncontrib).map fun k => val (2 + k) i)) c.gscale
      let m' (i : Nat) : W32 := addR (mulR c.beta1 (val 1 i)) (grad i)
      let w' (i : Nat) : W32 := fsub 0 0 (val 0 i) (mulR c.lr (addR (m' i) (mulR c.wd (val 0 i))))
      let g' : Shard := { g with done := chunk :: g.done, ndone := g.ndone + 1 }
      g.st = .gathering ∨ g.st = .applying → chunk < c.chunks → chunk ∉ g.done → (∀ k, k < c.ncontrib → chunk * c.ncontrib + k ∈ g.bitmap) → c.alg = 1 → c.pubet = 8 →
      readAreas s fn size ([at_ c.w, at_ c.m] ++ grads) = .inr ls →
      writeVa s .device fn (at_ c.w) (bytesOf ((List.range c.chunk).map w')) = .ok s0 → writeVa s0 .device fn (at_ c.m) (bytesOf ((List.range c.chunk).map m')) = .ok s1 →
      (g.st = .gathering ∨ g.done.length + 1 ≠ c.chunks → exec (.chunkApply fn n chunk) s = .next (s1.putShard fn n g')) ∧
      (∀ o, g.st = .applying → g.done.length + 1 = c.chunks → s.getO g.ctx (hSlot g.handle) = some o → o.st = .running →
        ∃ t, exec (.chunkApply fn n chunk) s = .next t ∧ t.getShard fn n = { g' with st := .published, pinned := [] } ∧
          ∃ p, t.getO g.ctx (hSlot g.handle) = some p ∧ (p.st = .complete ∨ p.st = .retired))) ∧
    (∀ (x slot line : Nat) (o : Op) (first n stage : Nat) (br bc : W32) (l : List Byte) (s1 : State),
      let e := (o.entryOf o.entry).1
      let r := (o.entryOf o.entry).2
      let row0 : Int := e.row0 + stage * e.drow + br.toInt
      let col0 : Int := e.col0 + stage * e.dcol + bc.toInt
      let at_ := e.spoff + stage % e.nbuf * e.bstride + 128 * line
      let c := s.getC o.core
      s.getO x slot = some o → o.st = .running → o.body = .copy first n stage br bc → servesOrDrains s x = true → o.cancel = false → r.sb = false → e.dir = 0 →
      line < e.lines r → o.bitmap.getLsbD line = false → o.next ≤ s.now → opEntry s o.core x (lineSlot slot line) = none → c.inst = some o.node →
      sget false c.lines (at_ / 128) = false → at_ % 128 = 0 →
      readPieces s (benchOf o.core) (s.getX x).fn ((List.range 128).map fun i => e.pieces r row0 col0 (128 * line + i)) [] = .ok s1 l →
      ∃ t, exec (.copyLineDelivery x slot line) s = .next t ∧ (t.getC o.core).spadRead at_ 128 = l ∧ sget false (t.getC o.core).lines (at_ / 128) = true ∧
        (∀ k, k < at_ ∨ at_ + 128 ≤ k → (t.getC o.core).spadRead k 1 = c.spadRead k 1) ∧ (t.getC o.core).named = c.named ∧
        ∃ p, t.getO x slot = some p ∧ (p.st = .running ∨ p.st = .complete ∨ p.st = .retired))

/-! ## Debug, halts and the course of an operation -/

/-- An operation has ended for good with a code (R237, R240): FAILED, or where no core is its owner ORPHANED, or RETIRED from a full list. -/
def Sys2Proof.Machine.EndedWith (t : State) (x slot : Nat) (o : Op) (code : Byte) : Prop :=
  ∃ p, t.getO x slot = some p ∧ p.code = code ∧ p.handle = o.handle ∧ (p.st = .failed ∨ p.st = .orphaned ∨ p.st = .retired)

/-- Halts and debug (R126-R128, R248, R316, R344, R345): the context's barriers break as its line rises; once nothing of the context is in flight, or 2,400 clocks after the line rose, its halt is
written and the context is HALTED; a hold takes effect when A is quiet and freezes the streams where they stand; a step is taken
under a hold; OPDBGREL releases a HELD operation and says 1, of another 2, of none 3.
Where the spec leaves a point open it follows the model's own readings: notes/assumptions, entries 49, 50. -/
def Obligations.HaltAndDebug : Prop :=
  ∀ (s : State),
    (∀ x h, (s.getX x).halt = some h → h.broke = false → exec (.haltFinish x) s = .next (s.haltBars x h)) ∧
    (∀ x h, (s.getX x).halt = some h → h.broke = true → ctxBusy s x = false ∨ h.since + 2400 ≤ s.now →
      ∃ t, exec (.haltFinish x) s = .next t ∧ (t.getX x).st = .halted ∧ (t.getX x).halt = none ∧ (t.getX x).haltCode = h.code ∧
        (t.getX x).haltSeq = (s.getX x).haltSeq + 1 ∧ (t.getX x).haltFirst = h.first) ∧
    (∀ x h, (s.getX x).halt = some h → h.broke = true → ctxBusy s x = true → s.now < h.since + 2400 → exec (.haltFinish x) s = .next s) ∧
    (∀ k, let c := s.getC k
      (c.dbg.hold = true → c.dbg.held = false → c.dbg.since ≤ s.now → (∀ f ∈ c.flight, f.stream ≠ .A) →
        ∃ t, exec (.debugHold k) s = .next t ∧ (t.getC k).dbg.held = true ∧ t.mem = s.mem ∧ (t.getC k).named = c.named ∧ (t.getC k).flight = c.flight ∧
          (∀ st, ((t.getC k).str st).pc = (c.str st).pc ∧ ((t.getC k).str st).st ≠ .aligned) ∧ ∀ j, j ≠ k → t.getC j = s.getC j) ∧
      (c.dbg.held = true → c.dbg.stepBusy = false → ∃ t, exec (.debugStep k) s = .next t ∧ (t.getC k).dbg.stepBusy = true ∧ t.mem = s.mem ∧
        (t.getC k).named = c.named ∧ ∀ st, (t.getC k).str st = c.str st) ∧
      (c.dbg.held = true → c.dbg.stepABusy = false → ∃ t, exec (.debugStepA k) s = .next t ∧ (t.getC k).dbg.stepABusy = true ∧ t.mem = s.mem ∧
        (t.getC k).named = c.named ∧ ∀ st, (t.getC k).str st = c.str st)) ∧
    (∀ hd : W32, let x := s.opdbgCtx.toNat
      let slot := (hd.extractLsb' 8 12).toNat
      ((s.getX x).op? hd = none → exec (.opdbgrel hd) s = .next { s with opdbgResult := 3 }) ∧
      (∀ o, (s.getX x).op? hd = some o → o.st ≠ .held → exec (.opdbgrel hd) s = .next { s with opdbgResult := 2 }) ∧
      (∀ o, (s.getX x).op? hd = some o → o.st = .held → o.after = none → o.fate = .undecided → kindOf o.body ≠ 8 →
        ∃ t p, exec (.opdbgrel hd) s = .next t ∧ t.opdbgResult = 1 ∧ t.getO x slot = some p ∧ p.st = .queued ∧ p.body = o.body ∧ p.handle = hd ∧
          ∀ j, j ≠ slot → t.getO x j = s.getO x j))

/-- The course of an operation (R237, R242-R245, R252): a WAITING one is QUEUED when its predecessor is COMPLETE and CANCELLED where that failed, also
where the predecessor was consumed as it finished; the head of a class starts on a free engine; a claim follows a `wlease`; the last unit completes it; a reported fault fails it with its
code, index and address; 1 ms of waiting adds a step of priority, up to 7.
Where the spec leaves a point open it follows the model's own readings: notes/assumptions, entries 2, 16. -/
def Obligations.OperationEvents : Prop :=
  ∀ (s : State) (x slot : Nat) (o : Op), s.getO x slot = some o →
    let others (t : State) : Prop := (∀ y, y ≠ x → t.getX y = s.getX y) ∧ ∀ j, j ≠ slot → t.getO x j = s.getO x j
    (∀ hd, o.st = .waiting → kindOf o.body ≠ 8 →
      (o.fate = .go → ∃ t q, exec (.predecessorFinished x slot) s = .next t ∧ t.getO x slot = some q ∧ q.st = .queued ∧ q.since = s.now ∧ others t) ∧
      (o.fate = .cancelled hd → ∃ t q, exec (.predecessorFinished x slot) s = .next t ∧ t.getO x slot = some q ∧ (q.st = .cancelled ∨ q.st = .retired) ∧
        q.code = 0x31 ∧ q.addr = hd.setWidth 64)) ∧
    (∀ hd p, o.st = .waiting → o.fate = .undecided → o.after = some hd → (s.getX x).op? hd = some p → kindOf o.body ≠ 8 →
      (p.st = .complete → ∃ t q, exec (.predecessorFinished x slot) s = .next t ∧ t.getO x slot = some q ∧ q.st = .queued ∧ q.since = s.now ∧ others t) ∧
      (p.st = .running → exec (.predecessorFinished x slot) s = .next s) ∧
      (p.st = .failed ∨ p.st = .cancelled →
        ∃ t q, exec (.predecessorFinished x slot) s = .next t ∧ t.getO x slot = some q ∧ (q.st = .cancelled ∨ q.st = .retired) ∧ q.code = 0x31 ∧ q.addr = hd.setWidth 64)) ∧
    (∀ first n stage br bc e, o.body = .copy first n stage br bc → classHead s (1, o.core / 4 / 48) = some (x, slot, o) → freeCopyEngine s (o.core / 4 / 48) = some e →
      nodeAhead s o.eff = false →
      ∃ t q, exec (.operationStart x slot) s = .next t ∧ t.getO x slot = some q ∧ q.st = .running ∧ q.engine = BitVec.ofNat 16 (0x1000 + e) ∧ q.aged = 0 ∧ others t) ∧
    (∀ q node, o.body = .launch q node → classHead s (5, 0) = some (x, slot, o) → (s.getX x).departs = false →
      ∃ t p, exec (.operationStart x slot) s = .next t ∧ t.getO x slot = some p ∧ p.st = .running ∧ p.entry = s.opCount ∧ t.opCount = s.opCount + 1 ∧ others t) ∧
    (∀ prio, o.body = .wlease prio → o.st = .queued → serves s x = true → s.claimOf o.core = none →
      ∃ t c, exec (.operationStart x slot) s = .next t ∧ (t.getB (o.core / 4)).claims = (s.getB (o.core / 4)).claims ++ [c] ∧ c.k = o.core % 4 ∧ c.ctx = x ∧
        c.prio = prio ∧ c.op = o.handle ∧ c.bind = none ∧ (t.getB (o.core / 4)).st ≠ .idle ∧ t.mem = s.mem ∧ t.ctxs = s.ctxs) ∧
    (∀ first n stage br bc, o.body = .copy first n stage br bc → o.st = .running → servesOrDrains s x = true → n ≤ o.entry →
      ∃ t q, exec (.operationComplete x slot) s = .next t ∧ t.getO x slot = some q ∧ (q.st = .complete ∨ q.st = .retired) ∧ q.code = 0) ∧
    (∀ why : OpFault, o.st = .running → ∃ t, exec (.operationFailure x slot why) s = .next t ∧ EndedWith t x slot o why.code ∧
      ∀ q, t.getO x slot = some q → q.index = why.index ∧ q.addr = why.addr) ∧
    (o.waits = true → o.since + 1200000 ≤ s.now → o.prio + o.aged < 7 →
      ∃ t, exec (.priorityAging (.op x slot)) s = .next t ∧ t.getO x slot = some { o with aged := o.aged + 1, since := s.now } ∧ others t ∧ t.mem = s.mem) ∧
    (o.waits = false ∨ s.now < o.since + 1200000 ∨ 7 ≤ o.prio + o.aged → exec (.priorityAging (.op x slot)) s = .next s)

/-! ## Weight arrays -/

/-- Runs and commands of an array (R83, R213-R215, R217, R220-R224, R226, R229): a run starts for the next holder and cells of another context are zeroed;
at a limit it passes, is renewed or extended; a dot command takes its weights, for integers exact sums modulo 2^32, and later commits
them to its output tiles; `wclr` clears the accumulators; a drained row leaves them; a half not joined in PAIRWAIT clocks fails.
Where the spec leaves a point open it follows the model's own readings: notes/assumptions, entries 39. -/
def Obligations.ArrayEvents : Prop :=
  ∀ (b : Nat) (s : State),
    let d := s.getB b
    (∀ c, runFree s b = true → claimsToCome s b = false → nextHolder s b = some c → c.bound = false → leasePending s c = false → c.savedAcc = none →
      ∃ t r, exec (.arrayRunStart b) s = .next t ∧ (t.getB b).run = some r ∧ r.k = c.k ∧ r.start = s.now ∧ r.cmds = 0 ∧ t.mem = s.mem ∧ t.cores = s.cores ∧
        (t.getB b).acc = d.acc ∧
        (∀ g, d.tag = some g → g.ctx ≠ c.ctx → (t.getB b).cells = [] ∧ (t.getB b).scales = [] ∧ (t.getB b).tag = none) ∧
        (∀ g, d.tag = some g → g.ctx = c.ctx → (t.getB b).cells = d.cells ∧ (t.getB b).scales = d.scales ∧ (t.getB b).tag = some g)) ∧
    (∀ r, d.run = some r →
      (mayPass s b = true → ((d.claim? r.k).bind fun c => c.partner) = none →
        ∃ t, exec (.arrayRunLimit b) s = .next t ∧ (t.getB b).run = none ∧ (t.getB b).lastHolder = some r.k ∧ t.mem = s.mem ∧ t.cores = s.cores) ∧
      (mayPass s b = false → atLimit s r = true → (∀ c ∈ d.claims, c.k ≠ r.k → pairWants s b c = false) →
        ∃ t, exec (.arrayRunLimit b) s = .next t ∧ (t.getB b).run = some { r with cmds := 0, start := s.now, ext := false } ∧ (t.getB b).overs = d.overs) ∧
      (∀ c, mayPass s b = false → atLimit s r = true → c ∈ d.claims → c.k ≠ r.k → pairWants s b c = true → d.st = .accumulating → r.ext = false →
        ∃ t, exec (.arrayRunLimit b) s = .next t ∧ (t.getB b).run = some { r with ext := true } ∧ (t.getB b).overs = d.overs + 1)) ∧
    (∀ r rest, d.run = some r → r.pending = false → r.reload = none → d.occupied s.now = false → drainOf s b = none →
      (List.range 4).foldl (fun s k => looseCmd s b k) s = s →
      (∀ at_, waitingCmds s b r.k = .wclr at_ :: rest → at_ + 2 ≤ s.now →
        ∃ t, exec (.arrayCommandStart b) s = .next t ∧ (t.getB b).acc = [] ∧ (t.getB b).st ≠ .accumulating ∧ (t.getB b).cells = d.cells ∧ t.mem = s.mem ∧ t.cores = s.cores) ∧
      (∀ x slot o m, waitingCmds s b r.k = .op x slot :: rest → s.getO x slot = some o → o.st = .queued → o.since + 2 ≤ s.now → servesOrDrains s x = true →
        (o.body = .dot false m → d.tag.isSome = true → weightFits d.wtype.toNat m.et = true → m.sramErr s b false = false →
          ∃ t p part a, exec (.arrayCommandStart b) s = .next t ∧ t.getO x slot = some p ∧ p.st = .running ∧ p.body = .dot false { m with part := some part } ∧
            (t.getB b).active = d.active ++ [a] ∧ a.cmd = .op x slot ∧ a.due = some (s.now + m.batch + 36) ∧ (t.getB b).freeAt = s.now + m.batch ∧ t.cores = s.cores ∧
            (∀ row l, (row, l) ∈ part → row < m.batch ∧ m.rm.getLsbD row = true) ∧
            (m.et = 0 → ∀ row l, (row, l) ∈ part → ∀ i, i < 256 → l.getD i 0 = BitVec.ofInt 32 ((List.range 256).map fun p =>
              if m.cm.getLsbD p then (BitVec.ofNat 8 (d.wcode i p)).toInt * (BitVec.ofNat 8 (actAt (s.getC (4 * b + r.k)) m m.ta 0 256 row p).1).toInt else 0).sum)) ∧
        (o.body = .dot false m → d.tag = none → ∃ t, exec (.arrayCommandStart b) s = .next t ∧ EndedWith t x slot o 0x16))) ∧
    (∀ a x slot o m part k, d.active.find? (cmdDue s) = some a → a.cmd = .op x slot → s.getO x slot = some o → o.st = .running → o.body = .dot false m → m.part = some part →
      actKind m.et = some k → m.ot = 0 → m.acc = 0 → (part.map (·.1)).Nodup → (∀ e ∈ part, e.1 < m.batch ∧ e.2.length = 256) →
      let sh : TShape := { et := if k = .int then 2 else 8, rows := m.batch, cols := 64, blocked := false }
      ∃ t p, exec (.arrayCommandComplete b) s = .next t ∧ t.getO x slot = some p ∧ (p.st = .complete ∨ p.st = .retired) ∧ a ∉ (t.getB b).active ∧
        ∀ row l i, (row, l) ∈ part → i < 256 → ((t.getC m.core).tile (m.tout + i / 64)).elem sh row (i % 64) = (l.getD i 0).toNat) ∧
    (∀ a x slot o va s2, drainOf s b = some (a, x, slot, o) → o.body = .wdrainMem va → o.st = .running → d.freeAt ≤ s.now → a.k < 4 → a.row < 255 →
      opEntry s (4 * b + a.k) x slot = none → s.lockQ = [] → d.tlb = [] → sget [] d.utlb a.k = [] →
      dcGet s (0x002B1038 + 0x40 * ringPart s (s.getX x).fn) &&& 0xFF = 0 → writeVa s (.core (4 * b + a.k)) (s.getX x).fn (va + BitVec.ofNat 64 (1024 * a.row)) (((List.range 256).map fun j => sget 0 d.acc (256 * a.row + j)).flatMap fun (v : W32) => leBytes 4 v.toNat) = .ok s2 →
      ∃ t, exec (.drainRowAccepted b) s = .next t ∧ t.mem = s2.mem ∧ (∀ j, j < 256 → sget 0 (t.getB b).acc (256 * a.row + j) = 0) ∧
        (∀ key, key / 256 ≠ a.row → sget 0 (t.getB b).acc key = sget 0 d.acc key) ∧ { a with row := a.row + 1 } ∈ (t.getB b).active) ∧
    (∀ r x slot o rest t0 trans q n m, d.run = some r → waitingCmds s b r.k = .op x slot :: rest → s.getO x slot = some o → o.body = .pairDot trans q n (some m) none →
      o.st = .queued → m.arrived = some t0 → t0 + d.pairWait.toNat ≤ s.now → ∃ t, exec (.pairTimeout b) s = .next t ∧ EndedWith t x slot o 0x32) ∧
    (∀ k c t0, d.claim? k = some c → (∀ r, d.run = some r → r.k ≠ k) → claimWants s b c = true → c.since = some t0 → t0 + 1200000 ≤ s.now → c.prio + c.aged < 7 →
      ∃ t, exec (.priorityAging (.claim b k)) s = .next t ∧ (t.getB b).claim? k = some { c with aged := c.aged + 1, since := some s.now } ∧ t.mem = s.mem)

/-! ## Leases and palette engines -/

/-- The course of a lease (R260, R262, R264-R266, R269): a request waits, or is denied; a grant holds an AWAKE engine or wakes one; a quantum restarts or
the lease is revoked for a better waiter; a yielding lease waits again; a late command of a revoked engine is evicted, parked under
`.res`; a scrubbed engine is AWAKE, or asleep after a cut; an idle engine becomes DROWSY, then ASLEEP. -/
def Sys2Proof.Machine.LeaseEventsRule : Prop :=
  ∀ (s : State) (e x slot : Nat) (o : Op) (k : Nat) (tr : Bool), s.getO x slot = some o →
    let g := s.getE e
    let holds (t : State) : Prop := (t.getE e).st = .leased ∧ (t.getE e).lease = some (x, slot) ∧ (t.getE e).quantum = s.now ∧
      ∃ p, t.getO x slot = some p ∧ p.st = .running ∧ p.body = .lease k tr .held (some e) none false ∧ p.aged = 0 ∧ p.engine = engineField e
    (o.st = .queued → o.body = .lease k tr .none none none false → o.issued + 4 ≤ s.now → serves s x = true →
      ((∃ f ∈ kindEngines k, (s.getE f).st ≠ .retired) → tr = false →
        ∃ t p, exec (.leaseQueueEntry x slot) s = .next t ∧ t.getO x slot = some p ∧ p.body = .lease k tr .waiting none none false ∧ p.st = .queued ∧ p.entry = s.now ∧
          t.engines = s.engines ∧ t.mem = s.mem) ∧
      ((∀ f ∈ kindEngines k, (s.getE f).st = .retired) → ∃ t, exec (.leaseQueueEntry x slot) s = .next t ∧ EndedWith t x slot o 0x35 ∧ t.engines = s.engines)) ∧
    (∀ ph, leaseHead s k = some (x, slot, o) → o.body = .lease k tr ph none none false → o.st = .queued →
      (grantChoice s k = some (e, 0) → ∃ t, exec (.leaseGrant k) s = .next t ∧ holds t) ∧
      (∀ w, w ≠ 0 → grantChoice s k = some (e, w) → ∃ t p, exec (.leaseGrant k) s = .next t ∧ (t.getE e).st = .waking ∧ (t.getE e).wake = s.now + w ∧
        (t.getE e).lease = some (x, slot) ∧ t.getO x slot = some p ∧ p.st = .running ∧ p.body = .lease k tr .waking (some e) none false)) ∧
    (g.st = .waking → g.wake ≤ s.now →
      (g.lease = some (x, slot) → o.body = .lease k tr .waking (some e) none false → o.st = .running → ∃ t, exec (.wakeDone e) s = .next t ∧ holds t) ∧
      (g.lease = none → leaseHead s (engKind e) = none → ∃ t, exec (.wakeDone e) s = .next t ∧ (t.getE e).st = .awake ∧ t.mem = s.mem ∧ t.ctxs = s.ctxs)) ∧
    (g.st = .leased → g.lease = some (x, slot) → o.body = .lease k tr .held (some e) none false → g.quantum + (dcGet s 0x00270008).toNat ≤ s.now →
      ((∀ j, j < 6 → qualifies s e o j = false) → ∃ t, exec (.quantumEnd e) s = .next t ∧ (t.getE e) = { g with quantum := s.now } ∧ t.ctxs = s.ctxs) ∧
      (∀ j, j < 6 → qualifies s e o j = true → ∃ t p, exec (.quantumEnd e) s = .next t ∧ (t.getE e).revoke = some s.now ∧ t.getO x slot = some p ∧
        p.body = .lease k tr .revoking (some e) none false)) ∧
    (g.st = .leased → g.lease = some (x, slot) → o.body = .lease k tr .revoking (some e) none false → g.cmd = none → leaseHead s (engKind e) = none →
      (∀ j, j < 6 → j ≠ engKind e → qualifies s e o j = false) →
      ∃ t p, exec (.engineYield e) s = .next t ∧ (t.getE e).st = .awake ∧ (t.getE e).lease = none ∧ t.getO x slot = some p ∧ p.body = .lease k tr .waiting none none false ∧
        dcGet t 0x0027001C = dcGet s 0x0027001C + 1) ∧
    (∀ y n q op l va t0, g.st = .leased → g.lease = some (x, slot) → o.body = .lease k tr .revoking (some e) none false → g.revoke = some t0 →
      t0 + (dcGet s 0x0027000C).toNat ≤ s.now → g.cmd = some (y, n) → (y, n) ≠ (x, slot) → s.getO y n = some q → q.body = .engine op l va true → q.cancel = false →
      ∃ t p r, exec (.forcedEviction e) s = .next t ∧ (t.getE e).st = .evicting ∧ (t.getE e).cmd = none ∧ t.getO y n = some p ∧ p.st = .parked ∧ p.entry = q.entry ∧
        t.getO x slot = some r ∧ r.body = .lease k tr .evicting (some e) none false ∧ dcGet t 0x00270018 = dcGet s 0x00270018 + 1) ∧
    (g.st = .evicting → g.since + 2400 ≤ s.now → g.lease = none →
      (g.budgetCut = true → ∃ t, exec (.scrubDone e) s = .next t ∧ (t.getE e).st = .asleep ∧ (t.getE e).budgetCut = false ∧ t.ctxs = s.ctxs) ∧
      (g.budgetCut = false → leaseHead s (engKind e) = none → ∃ t, exec (.scrubDone e) s = .next t ∧ (t.getE e).st = .awake ∧ t.ctxs = s.ctxs)) ∧
    (g.st = .awake → g.since + (dcGet s 0x00270010).toNat ≤ s.now → ∃ t, exec (.drowsyTimeout e) s = .next t ∧ (t.getE e).st = .drowsy ∧ (t.getE e).since = s.now ∧
      t.mem = s.mem ∧ ∀ f, f ≠ e → t.getE f = s.getE f) ∧
    (g.st = .drowsy → g.since + (dcGet s 0x00270014).toNat ≤ s.now → ∃ t, exec (.sleepTimeout e) s = .next t ∧ (t.getE e).st = .asleep ∧
      t.mem = s.mem ∧ ∀ f, f ≠ e → t.getE f = s.getE f)

/-- Commands of palette engines (R263, R272, R274): a leased engine without a command takes its lease's next one and names itself in the record
(a collective that has yet to find its table aside);
a command with its descriptor read goes on where it parked; each unit that is done counts its bytes. -/
def Sys2Proof.Machine.EngineCommandsRule : Prop :=
  ∀ (s : State) (e x slot : Nat) (o : Op) (op : Byte) (l : W32) (va : W64) (res : Bool), s.getO x slot = some o → o.body = .engine op l va res →
    (nextCommand s e = some (x, slot, o) →
      (o.got ≠ [] ∨ cmdKind op.toNat ≠ 0 → ∃ t p, exec (.engineCommandStart e) s = .next t ∧ t.getO x slot = some p ∧ p.engine = engineField e ∧ p.handle = o.handle) ∧
      (o.got ≠ [] → ∃ t p, exec (.engineCommandStart e) s = .next t ∧ t.getO x slot = some p ∧ p.st = .running ∧ p.entry = o.entry ∧ p.got = o.got ∧ p.aged = 0 ∧
        (t.getE e).cmd = some (x, slot))) ∧
    (nextCommand s e = none → exec (.engineCommandStart e) s = .next s) ∧
    (∀ s1 deliv zfill pos, (s.getE e).cmd = some (x, slot) → o.st = .running → servesOrDrains s x = true → o.got ≠ [] → cmdKind op.toNat ≠ 0 → o.entry < o.desc.units →
      o.next ≤ s.now → o.cancel = false → engineUnit s o.core x slot o.desc o.entry o.bitmap.toNat = .done s1 deliv zfill pos → s1.getO x slot = some o →
      ∃ t p, exec (.engineUnitDone e) s = .next t ∧ t.getO x slot = some p ∧ p.entry = o.entry + 1 ∧ p.st = .running ∧
        p.deliv.toNat = min (o.deliv.toNat + deliv) 0xFFFFFFFF ∧ p.zfill.toNat = min (o.zfill.toNat + zfill) 0xFFFFFFFF ∧ t.cores = s1.cores) ∧
    (o.st ≠ .running → (s.getE e).cmd = some (x, slot) → exec (.engineUnitDone e) s = .next s)

/-- Leases, and the commands of their engines.
Where the spec leaves a point open it follows the model's own readings: notes/assumptions, entries 36. -/
def Obligations.LeaseEvents : Prop := Sys2Proof.Machine.LeaseEventsRule ∧ Sys2Proof.Machine.EngineCommandsRule

/-! ## Queues, nodes and kernel instances -/

/-- Only queue q of context x differs among queues and contexts, and memory is as before. -/
def Sys2Proof.Machine.OnlyQueue (s t : State) (x q : Nat) : Prop :=
  (∀ j, j ≠ q → t.getQ x j = s.getQ x j) ∧ (∀ y, y ≠ x → t.getX y = s.getX y) ∧ t.mem = s.mem ∧ t.cores = s.cores

/-- Queue commands and registers (R325, R326, R332, R336): an accepted QTAIL makes nodes visible, any other only sets BADTAIL, and a frozen
queue keeps it in the shadow register; SUSPEND, RESUME, DRAIN and ENABLE move the queue as R332 says; a draining queue
without a running node is DEAD. -/
def Sys2Proof.Machine.QueueCommandsRule : Prop :=
  ∀ (s : State) (x q : Nat),
    let m := s.getQ x q
    (∀ v : W32, (s.getX x).st ≠ .free →
      (∀ f, m.frozen = some f → ∃ t, exec (.qtailWrite x q v) s = .next t ∧ t.getQ x q = { m with shadow := some v } ∧ OnlyQueue s t x q) ∧
      (m.frozen = none →
        (m.st = .empty ∨ m.st = .active ∨ m.st = .running ∨ m.st = .suspended → m.enable = true → m.devapp = false → v ≠ m.tail →
          (v - m.tail).toNat ≤ m.size - (m.tail - m.prog).toNat →
          ∃ t, exec (.qtailWrite x q v) s = .next t ∧ (t.getQ x q).tail = v ∧ (t.getQ x q).badtail = m.badtail ∧ (t.getQ x q).xdec = m.xdec ∧
            ∀ j, j ≠ q → t.getQ x j = s.getQ x j) ∧
        (m.enable = false ∨ m.devapp = true ∨ v = m.tail ∨ m.size - (m.tail - m.prog).toNat < (v - m.tail).toNat ∨ m.st = .draining ∨ m.st = .dead →
          ∃ t, exec (.qtailWrite x q v) s = .next t ∧ t.getQ x q = { m with badtail := true } ∧ OnlyQueue s t x q))) ∧
    (∃ t, exec (.queueSuspend x q) s = .next t ∧ OnlyQueue s t x q ∧
      (m.st = .active ∨ m.st = .running → t.getQ x q = { m with st := .suspended }) ∧ (m.st = .switchedOut → t.getQ x q = { m with markSuspend := true }) ∧
      (m.st = .empty ∨ m.st = .suspended ∨ m.st = .draining ∨ m.st = .dead → t.getQ x q = m)) ∧
    (∃ t, exec (.queueResume x q) s = .next t ∧ OnlyQueue s t x q ∧
      (m.st = .suspended → t.getQ x q = { m with st := if m.prog = m.tail then .empty else .active }) ∧
      (m.st = .switchedOut → t.getQ x q = { m with markSuspend := false }) ∧ (m.st ≠ .suspended → m.st ≠ .switchedOut → t.getQ x q = m)) ∧
    (∃ t, exec (.queueDrain x q) s = .next t ∧ OnlyQueue s t x q ∧
      (m.st = .empty ∨ m.st = .active ∨ m.st = .running ∨ m.st = .suspended → t.getQ x q = { m with st := .draining }) ∧
      (m.st = .switchedOut → t.getQ x q = { m with markDrain := true }) ∧ (m.st = .draining ∨ m.st = .dead → t.getQ x q = m)) ∧
    ((s.getX x).st ≠ .free → (s.getX x).st ≠ .destroying →
      (m.st = .dead → m.base ≠ 0 → ∃ t, exec (.queueEnableWrite x q true) s = .next t ∧ (t.getQ x q).st = .empty ∧ (t.getQ x q).tail = 0 ∧ (t.getQ x q).prog = 0 ∧
        (t.getQ x q).enable = true ∧ OnlyQueue s t x q) ∧
      (m.st = .empty ∨ m.st = .active ∨ m.st = .running ∨ m.st = .suspended →
        ∃ t, exec (.queueEnableWrite x q false) s = .next t ∧ t.getQ x q = { m with st := .draining, enable := false } ∧ OnlyQueue s t x q)) ∧
    (m.st = .draining → m.frozen = none → m.runs = false → ∃ t, exec (.queueDead x q) s = .next t ∧ (t.getQ x q).st = .dead ∧ (t.getQ x q).nodes = [] ∧
      (t.getQ x q).prog = m.tail ∧ (t.getQ x q).tail = m.tail ∧ t.cores = s.cores) ∧
    (m.runs = true → exec (.queueDead x q) s = .next s)

/-- The course of a node (R326-R331, R334): a slot is read as R328 checks it; a count of zero releases; a conditional reads its word then; copy,
signal and wait nodes run and end; a finished node decrements its successors, a failed one without CONT suspends its queue;
1 ms of waiting ages it; an append is the next node of its queue or fails. -/
def Sys2Proof.Machine.NodeCourseRule : Prop :=
  ∀ (s : State) (x q seq : Nat),
    let m := s.getQ x q
    let ends (t : State) (n : Node) (code : Byte) : Prop := t.getNode x q seq = some { n with fault := some code, foff := 0 }
    (sfind m.nodes seq = none → serves s x = true → m.frozen = none → m.visible seq = true → m.st ≠ .dead → sfind m.heldDecs (skipKey seq) = none → sget 0 m.heldDecs seq = 0 →
      ∀ s2 l, opRead s 384 x (nodeKey q seq 0) (m.slotVa seq) 64 = .ok s2 l →
        ∃ t n, exec (.nodeRelease x q seq) s = .next t ∧ t.getNode x q seq = some n ∧ n.bytes = l ∧ n.st = .pending ∧ n.remaining = field l 2 2 ∧ n.fault = nodeBreaks l m.size ∧
          t.cores = s2.cores) ∧
    (∀ n, s.getNode x q seq = some n →
      (n.st = .pending → n.fault = none → serves s x = true → m.frozen = none → m.visible seq = true →
        (n.remaining = 0 → m.releases = true → n.kind ≠ 2 →
          ∃ t, exec (.nodeRelease x q seq) s = .next t ∧ t.getNode x q seq = some { n with st := .ready, readyAt := s.now, aged := 0 } ∧ t.cores = s.cores) ∧
        (n.remaining ≠ 0 ∨ m.releases = false → exec (.nodeRelease x q seq) s = .next s) ∧
        (∀ s2 l, n.remaining = 0 → m.releases = true → n.kind = 2 → opRead s 384 x (nodeKey q seq 1) (n.word 0x20) 8 = .ok s2 l →
          ∃ t, exec (.nodeRelease x q seq) s = .next t ∧ ends t { n with chosen := some (leNat l ≠ 0) } 0)) ∧
      (n.done = false → n.st = .running → n.fault = some 0 → n.kind ≠ 2 →
        ∃ t, exec (.nodeFinish x q seq) s = .next t ∧ (∀ p, t.getNode x q seq = some p → p.st = .complete ∧ p.code = 0 ∧ p.done = true) ∧ (t.getQ x q).nfail = m.nfail ∧
          ∀ u v, n.succs seq 0 = [u] → u ≠ seq → s.getNode x q u = some v → v.done = false → 0 < v.remaining → t.getNode x q u = some { v with remaining := v.remaining - 1 }) ∧
      (∀ c, n.done = false → n.st = .running → n.fault = some c → c ≠ 0 → n.cont = false → m.st = .running →
        ∃ t, exec (.nodeFinish x q seq) s = .next t ∧ (∀ p, t.getNode x q seq = some p → p.st = .failed ∧ p.code = c ∧ p.done = true) ∧ (t.getQ x q).nfail = true ∧
          (t.getQ x q).st = .suspended ∧ ∀ u v, u ≠ seq → s.getNode x q u = some v → v.done = false → t.getNode x q u = some v) ∧
      (n.fault = none → n.done = false → exec (.nodeFinish x q seq) s = .next s) ∧
      (n.fault = none → n.done = false → n.kind = 1 →
        (∀ e, n.st = .ready → mayStart s x q = true → nodeEngine s (nodeEff m n) = some e →
          ∃ t, exec (.copyNodeRun x q seq) s = .next t ∧ t.getNode x q seq = some { n with st := .running, engine := some e }) ∧
        (n.st = .running → servesOrDrains s x = true →
          ((n.word 0x30).toNat ≤ 16 * n.pieces → ∃ t, exec (.copyNodeRun x q seq) s = .next t ∧ ends t n 0 ∧ t.mem = s.mem) ∧
          (∀ s2 s3 l r, 16 * n.pieces < (n.word 0x30).toNat → opEntry s 384 x (nodeKey q seq 2) = none → s.lockQ = [] →
            opRead s 384 x (nodeKey q seq 1) (n.word 0x20 + BitVec.ofNat 64 (16 * n.pieces)) 16 = .ok s2 l →
            opWrite s2 384 x (nodeKey q seq 2) (n.word 0x28 + BitVec.ofNat 64 (16 * n.pieces)) l = .ok s3 r →
            ∃ t, exec (.copyNodeRun x q seq) s = .next t ∧ t.mem = s3.mem ∧ t.getNode x q seq = some { n with pieces := n.pieces + 1 }))) ∧
      (n.fault = none → n.done = false → n.kind = 3 → n.st = .running → servesOrDrains s x = true → s.lockQ = [] →
        (∀ s2 r, field n.bytes 0x30 1 = 0 → opWrite s 384 x (nodeKey q seq 1) (n.word 0x20) (leBytes 8 (n.word 0x28).toNat) = .ok s2 r →
          ∃ t, exec (.signalNodeRun x q seq) s = .next t ∧ t.mem = s2.mem ∧ ends t n 0) ∧
        (∀ s2 s3 l r, field n.bytes 0x30 1 = 1 → opReadAs s .wr 384 x (nodeKey q seq 1) (n.word 0x20) 8 = .ok s2 l →
          opWrite s2 384 x (nodeKey q seq 1) (n.word 0x20) (leBytes 8 (leNat l + (n.word 0x28).toNat)) = .ok s3 r →
          ∃ t, exec (.signalNodeRun x q seq) s = .next t ∧ t.mem = s3.mem ∧ ends t n 0)) ∧
      (n.fault = none → n.done = false → n.kind = 4 → n.st = .running → servesOrDrains s x = true →
        ∀ s2 l, opRead s 384 x (nodeKey q seq 1) (n.word 0x20) 8 = .ok s2 l →
          ((field n.bytes 0x30 1 = 0 ∧ (n.word 0x28).toNat ≤ leNat l) ∨ (field n.bytes 0x30 1 ≠ 0 ∧ leNat l = (n.word 0x28).toNat) →
            ∃ t, exec (.waitNodeSatisfied x q seq) s = .next t ∧ ends t n 0 ∧ t.mem = s2.mem) ∧
          (field n.bytes 0x30 1 = 0 → leNat l < (n.word 0x28).toNat → exec (.waitNodeSatisfied x q seq) s = .next s)) ∧
      (n.st = .ready → n.readyAt + 1200000 * (n.aged + 1) ≤ s.now → m.prio.toNat + n.aged < 7 →
        ∃ t, exec (.priorityAging (.node x q seq)) s = .next t ∧ t.getNode x q seq = some { n with aged := n.aged + 1 } ∧ t.mem = s.mem)) ∧
    (∀ slot o v va, s.getO x slot = some o → o.body = .launch v va → o.st = .running → appendAhead s x slot o v = false → v.toNat = q → q < 64 → (s.getX x).st ≠ .destroying →
      m.st = .active → m.devapp = true →
      (va.toNat % 64 ≠ 0 → ∃ t, exec (.launchAppend x slot) s = .next t ∧ EndedWith t x slot o 0x15 ∧ t.getQ x q = m) ∧
      (∀ s2 l, va.toNat % 64 = 0 → opRead s 384 x slot va 64 = .ok s2 l → nodeBreaks l m.size = none →
        ((m.tail - m.prog).toNat = m.size → ∃ t, exec (.launchAppend x slot) s = .next t ∧ EndedWith t x slot o 0x60 ∧ t.getQ x q = m) ∧
        (∀ s3 r, (m.tail - m.prog).toNat < m.size → opWrite s2 384 x slot (m.slotVa m.tail.toNat) (l.take 6 ++ [0, 0] ++ (l.drop 8).take 16 ++ leBytes 4 m.tail.toNat ++ l.drop 0x1C) = .ok s3 r → ∃ t p, exec (.launchAppend x slot) s = .next t ∧ t.getO x slot = some p ∧ (p.st = .complete ∨ p.st = .retired) ∧ p.code = 0 ∧
          p.index = m.tail ∧ (t.getQ x q).tail = m.tail + 1)))

/-- Queues and their nodes.
Where the spec leaves a point open it follows the model's own readings: notes/assumptions, entries 16, 41, 43. -/
def Obligations.NodeEvents : Prop := Sys2Proof.Machine.QueueCommandsRule ∧ Sys2Proof.Machine.NodeCourseRule

/-- Admission to end of a kernel instance (R89, R283, R287, R289, R290, R300, R301, R305, R333): a round comes at most 2,400 clocks after the one before and binds the lowest free cores
that its choice needs; residency, then node start with the stream entries and the initialisers; a drained instance is
retired and its cores are FREE; a table that has formed for 10 ms dissolves.
Where the spec leaves a point open it follows the model's own readings: notes/assumptions, entries 40, 42, 44. -/
def Obligations.InstanceEvents : Prop :=
  ∀ (s : State),
    (s.now ≤ s.lastRound → exec .dispatcherRound s = .next s) ∧
    (s.lastRound + 2400 ≤ s.now → candidates s = [] → ∃ t, exec .dispatcherRound s = .next t ∧ t.lastRound = s.now ∧ t.cores = s.cores ∧ t.ctxs = s.ctxs ∧ t.mem = s.mem) ∧
    (∀ c n i l, s.lastRound + 2400 ≤ s.now → candidates s = [c] → s.getNode c.x c.q c.seq = some n → n.done = false →
      s.getInst { ctx := c.x, q := c.q, seq := c.seq } = some i → partCores s c.part + i.size ≤ (dcGet s (0x00290004 + 0x10 * c.part)).toNat →
      chooseCores s i.size (field i.launch 6 2 % 2 = 1) [] = some l →
      ∃ t j p, exec .dispatcherRound s = .next t ∧ t.getInst { ctx := c.x, q := c.q, seq := c.seq } = some j ∧ j.cores = l ∧ j.st = i.st ∧
        t.getNode c.x c.q c.seq = some p ∧ p.st = .running ∧ (∀ k ∈ l, coreFree s k = true ∧ (t.getC k).inst = some { ctx := c.x, q := c.q, seq := c.seq }) ∧
        (∀ a (h : a < l.length), (t.getC l[a]).gidx = a) ∧ ∀ k, k ∉ l → t.getC k = s.getC k) ∧
    (∀ (key : InstKey) i, s.getInst key = some i →
      (i.st = .admitted → i.cores ≠ [] → serves s key.ctx = true → i.dLevel = none → codePages key.ctx (s.getX key.ctx).fn (nodeKey key.q key.seq 2) i i.frames.zipIdx s = .ok s () →
        ∃ t, exec (.residencyDone key.ctx key.q key.seq) s = .next t ∧ t.getInst key = some { i with st := .resident } ∧ t.mem = s.mem ∧ t.cores = s.cores) ∧
      (∀ g k, i.st = .resident → i.cores[g]? = some k → k ∉ i.startedCores → serves s key.ctx = true → (s.getX key.ctx).departs = false →
        ∃ t j, exec (.nodeStart key.ctx key.q key.seq g) s = .next t ∧ t.getInst key = some j ∧ j.startedCores = i.startedCores ++ [k] ∧ t.mem = s.mem ∧
          (j.st = .running ↔ i.startedCores.length + 1 = i.cores.length) ∧ (∀ k', k' ≠ k → t.getC k' = s.getC k') ∧
          (t.getC k).started = true ∧ (t.getC k).inst = (s.getC k).inst ∧ (t.getC k).gidx = (s.getC k).gidx ∧ (t.getC k).flight = [] ∧
          (∀ e ∈ [(StreamId.S, 0), (.V, 1), (.A, 2), (.X, 3)], let entry := field i.header (0x10 + 4 * e.2) 4
            (entry = 0xFFFFFFFF → ((t.getC k).str e.1).st = .stopped) ∧
            (entry ≠ 0xFFFFFFFF → ((t.getC k).str e.1).st = .aligned ∧ ((t.getC k).str e.1).pc = entry)) ∧
          (field i.launch 0x13 1 = 0 → ∀ r, (t.getC k).reg r = Reg.reset) ∧
          (field i.launch 0x13 1 = 1 → ∀ r, (t.getC k).reg r = if r = field i.launch 0x80 1 then { val := initValue i (s.getC k).gidx 0, valid := true } else Reg.reset)) ∧
      (i.st = .running → (s.getX key.ctx).halt = none → i.cores ≠ [] → (∀ k ∈ i.cores, (s.getC k).allStopped = true ∧ (s.getC k).away = false) →
        ((∃ e ∈ nodeOps s key, e.2.st.finished = false) →
          ∃ t, exec (.nodeEnd key.ctx key.q key.seq) s = .next t ∧ t.getInst key = some { i with st := .draining } ∧ t.cores = s.cores ∧ t.mem = s.mem) ∧
        (∀ n, nodeOps s key = [] → upperOpen s key = false → (∀ k ∈ i.cores, (s.getC k).flight = []) → s.getNode key.ctx key.q key.seq = some n → n.st = .running → n.fault = none →
          ∃ t p, exec (.nodeEnd key.ctx key.q key.seq) s = .next t ∧ t.getInst key = none ∧ (∀ k ∈ i.cores, (t.getC k).inst = none) ∧
            t.getNode key.ctx key.q key.seq = some p ∧ p.fault = some 0))) ∧
    (∀ x id u, (s.getX x).pg? id = some u →
      (u.st = .forming → u.since + 12000000 ≤ s.now →
        ∃ t v, exec (.formationTimeout x id) s = .next t ∧ (t.getX x).pg? id = some v ∧ v.st = .dissolved) ∧
      (u.st ≠ .forming ∨ s.now < u.since + 12000000 → exec (.formationTimeout x id) s = .next s))

/-- The scanner's commands (R58): ADMIT records a segment that passes every check of R54, with its frames, and otherwise says which
check failed and where; WITHDRAW ends one record, WITHDRAW_ALL every one; an idle scanner does nothing.
Where the spec leaves a point open it follows the model's own readings: notes/assumptions, entries 56. -/
def Obligations.ScannerEvents : Prop :=
  ∀ (s : State) (fn : Nat),
    let va := s.scan.va
    let tells (t : State) (result : Byte) (check : BitVec 4) (off : W32) : Prop := t.scan = { s.scan with busy := false, result := result, check := check, off := off }
    (s.scan.busy = false → exec (.scanAdmit fn) s = .next s ∧ exec (.withdraw fn) s = .next s ∧ exec (.withdrawAll fn) s = .next s) ∧
    (∀ frames h, s.scan.busy = true → opEntry s 384 scanCtx 0 = none → scanPages s fn false va (segPages va 0x90) = .ok frames → readVa s .device fn va 0x90 = .ok h →
      (∀ off, headerBreaks va h = some off → ∃ t, exec (.scanAdmit fn) s = .next t ∧ tells t 1 1 (BitVec.ofNat 32 off) ∧ t.admitted = s.admitted ∧ t.mem = s.mem) ∧
      (∀ fr l, headerBreaks va h = none → scanPages s fn true va (segPages va (field h 8 4)) = .ok fr → readVa s .device fn va (field h 8 4) = .ok l →
        (digestOk l = false → ∃ t, exec (.scanAdmit fn) s = .next t ∧ tells t 1 1 0x40 ∧ t.admitted = s.admitted ∧ t.mem = s.mem) ∧
        (∀ c off, digestOk l = true → scanFails (segOf l) = some (c, off) →
          ∃ t, exec (.scanAdmit fn) s = .next t ∧ tells t 1 (BitVec.ofNat 4 c) (BitVec.ofNat 32 off) ∧ t.admitted = s.admitted ∧ t.mem = s.mem) ∧
        (digestOk l = true → scanFails (segOf l) = none →
          (scanTab s fn = 0 ∨ scanSlot (scanRecords s fn) va = none → ∃ t, exec (.scanAdmit fn) s = .next t ∧ tells t 3 0 0 ∧ t.admitted = s.admitted ∧ t.mem = s.mem) ∧
          (∀ i, scanTab s fn ≠ 0 → scanSlot (scanRecords s fn) va = some i →
            ∃ t, exec (.scanAdmit fn) s = .next t ∧ tells t 0 0 0 ∧ (sget [] t.admitted fn).getD i none = some { va := va, length := BitVec.ofNat 32 (field h 8 4), frames := fr } ∧
              ∀ j, j ≠ i → (sget [] t.admitted fn).getD j none = (sget [] s.admitted fn).getD j none)))) ∧
    (s.scan.busy = true →
      (∀ i a, (scanRecords s fn)[i]? = some (some a) → a.va = va → (∀ j b, j < i → (scanRecords s fn)[j]? = some (some b) → b.va ≠ va) →
        ∃ t, exec (.withdraw fn) s = .next t ∧ tells t 0 0 0 ∧ (sget [] t.admitted fn).getD i none = none ∧
          ∀ j, j ≠ i → (sget [] t.admitted fn).getD j none = (sget [] s.admitted fn).getD j none) ∧
      ((∀ a, some a ∈ scanRecords s fn → a.va ≠ va) → ∃ t, exec (.withdraw fn) s = .next t ∧ tells t 4 0 0 ∧ t.admitted = s.admitted ∧ t.mem = s.mem) ∧
      ∃ t, exec (.withdrawAll fn) s = .next t ∧ tells t 0 0 0 ∧ sget [] t.admitted fn = [] ∧ ∀ f, f ≠ fn → sget [] t.admitted f = sget [] s.admitted f)

/-! ## Contexts and migration -/

/-- The command block holds command c for context x. -/
def Sys2Proof.Machine.Asked (s : State) (c : Nat) (x : Nat) : Prop := s.cmd.busy = true ∧ s.cmd.cmd.toNat = c ∧ s.cmd.ctx.toNat = x

/-- The command block has answered. -/
def Sys2Proof.Machine.Answered (t : State) (r : Byte) : Prop := t.cmd.busy = false ∧ t.cmd.result = r

/-- Context commands and what follows them (R340-R342, R345, R349, R351): CREATE makes the context its record describes, SWITCH_OUT stops the
dispatcher and then each core, SWITCH_IN restores or changes nothing, RECOVER fails the halted nodes, DESTROY and its end; a
command for a context in another state answers 1 and changes nothing.
Where the spec leaves a point open it follows the model's own readings: notes/assumptions, entries 22, 23, 51. -/
def Obligations.ContextEvents : Prop :=
  ∀ (s : State) (x : Nat),
    let c := s.getX x
    (∀ fn va, s.cmd.busy = true → s.cmd.cmd = 1 → fn = (s.cmd.carg.extractLsb' 56 8).toNat → va = s.cmd.carg &&& 0x007FFFFFFFFFFFFF →
      (0x80 < fn ∨ s.cmd.carg.getLsbD 55 = true ∨ va.toNat % 512 ≠ 0 → ∃ t, exec .ctxCreate s = .next t ∧ Answered t 2 ∧ t.ctxs = s.ctxs ∧ t.mem = s.mem) ∧
      (∀ l, fn ≤ 0x80 → s.cmd.carg.getLsbD 55 = false → va.toNat % 512 = 0 → cmdRead s fn va 512 = .ok s l →
        let y := ctxId fn (field l 8 1)
        (ctxRecordOk fn l = false ∨ fnEnabled s fn = false → ∃ t, exec .ctxCreate s = .next t ∧ Answered t 2 ∧ t.ctxs = s.ctxs ∧ t.mem = s.mem) ∧
        (ctxRecordOk fn l = true → fnEnabled s fn = true →
          ((s.getX y).st ≠ .free ∨ entombed s fn = true → ∃ t, exec .ctxCreate s = .next t ∧ Answered t 3 ∧ t.cmd.ctx = BitVec.ofNat 16 y ∧ t.ctxs = s.ctxs ∧ t.mem = s.mem) ∧
          ((s.getX y).st = .free → entombed s fn = false → ∃ t, exec .ctxCreate s = .next t ∧ Answered t 0 ∧ t.cmd.ctx = BitVec.ofNat 16 y ∧ t.getX y = ctxOf fn va l ∧
            (t.getX y).st = .created ∧ (∀ z, z ≠ y → t.getX z = s.getX z) ∧ t.cores = s.cores)))) ∧
    (Asked s 2 x → c.halt = none →
      (c.st = .runnable ∨ c.st = .running → ∃ t, exec (.switchOut x) s = .next t ∧ (t.getX x).st = .switchingOut ∧ (t.getX x).switchStart = some s.now ∧ t.cmd = s.cmd ∧
        ∀ q m, sfind (t.getX x).queues q = some m → m.frozen = some ((s.getQ x q).frozen.getD (s.getQ x q).prog) ∧ m.st ≠ .empty ∧ m.st ≠ .active ∧ m.st ≠ .running) ∧
      (c.st = .created → ∀ s2, (departStep (departBegin s x .switchingOut) x = (s2, false) → exec (.switchOut x) s = .next s2) ∧
        (departStep (departBegin s x .switchingOut) x = (s2, true) → ∃ t, exec (.switchOut x) s = .next t ∧ (t.getX x).st = .switchedOut ∧ (t.getX x).switchStart = none ∧
          (s2.cmd.busy = true → s2.cmd.cmd ≠ 1 → s2.cmd.ctx.toNat = x → Answered t 0))) ∧
      (c.st = .switchedOut ∨ c.st = .halted ∨ c.st = .migratingOut ∨ c.st = .migratingIn ∨ c.st = .destroying ∨ c.st = .free →
        ∃ t, exec (.switchOut x) s = .next t ∧ Answered t 1 ∧ t.ctxs = s.ctxs ∧ t.mem = s.mem)) ∧
    (∀ s2, c.st = .switchingOut → c.halt = none →
      (departStep s x = (s2, false) → exec (.switchOut x) s = .next s2) ∧
      (departStep s x = (s2, true) → ∃ t, exec (.switchOut x) s = .next t ∧ (t.getX x).st = .switchedOut ∧ (t.getX x).switchStart = none ∧
        (s2.cmd.busy = true → s2.cmd.cmd ≠ 1 → s2.cmd.ctx.toNat = x → Answered t 0))) ∧
    (∀ k t0, c.switchStart = some t0 → c.departs = true → c.halt = none → (s.getC k).inst.any (fun i => i.ctx = x) = true → (s.getC k).away = false → (s.getC k).dbg.held = false →
      (t0 + c.deadline ≤ s.now + 4096 ∨ (t0 + c.preemptWait ≤ s.now ∧ quietCore (s.getC k) = true) →
        ∃ t, exec (.preemptWaitExpiry x k) s = .next t ∧ (t.getC k).away = true ∧ (t.getC k).v = { (s.getC k).v with st := (t.getC k).v.st } ∧
          (∀ st, st ≠ .A → ((s.getC k).str st).st.live = true → ((t.getC k).str st).st = .frozen) ∧ (∀ st, st ≠ .A → ((t.getC k).str st).pc = ((s.getC k).str st).pc) ∧
          ((s.getC k).aPending = false → connWaits s k = [] → (t.getC k).named = (s.getC k).named ∧ (t.getC k).a.pc = (s.getC k).a.pc ∧ (t.getC k).flight = (s.getC k).flight) ∧
          t.mem = s.mem ∧ ∀ j, j ≠ k → t.getC j = s.getC j) ∧
      (s.now + 4096 < t0 + c.deadline → s.now < t0 + c.preemptWait → exec (.preemptWaitExpiry x k) s = .next s)) ∧
    (∀ slot o op sh va res, c.departs = true → c.halt = none → coresOn s x = false → pastDeadline s x = true → s.getO x slot = some o → o.body = .engine op sh va res → o.st = .running →
      (c.ops.filter fun e => e.2.st = .running && e.2.body.engine?.isSome) = [(slot, o)] →
      ∃ t, exec (.deadlineExpiry x) s = .next t ∧ EndedWith t x slot o (if cmdKind op.toNat = 0 then 0x31 else 0x34)) ∧
    (c.departs = false ∨ coresOn s x = true ∨ pastDeadline s x = false → exec (.deadlineExpiry x) s = .next s) ∧
    (Asked s 3 x →
      (c.st ≠ .switchedOut ∨ (∃ code o, readImages s c c.saved [] = .fail s code o) ∨ (∃ l, readImages s c c.saved [] = .ok s l ∧ rebindAll ((dropOpEntry s cmdCtx 0).modX x fun c => { c with saved := l }) x = none) → ∃ t, exec (.switchIn x) s = .next t ∧ Answered t 1 ∧ t.ctxs = s.ctxs ∧ t.mem = s.mem ∧ t.cores = s.cores) ∧
      (∀ s2, c.st = .switchedOut → readImages s c c.saved [] = .wait s2 → exec (.switchIn x) s = .next s2) ∧
      (∀ l s2, c.st = .switchedOut → readImages s c c.saved [] = .ok s l → rebindAll ((dropOpEntry s cmdCtx 0).modX x fun c => { c with saved := l }) x = some s2 → ∃ t, exec (.switchIn x) s = .next t ∧ Answered t 0 ∧ (t.getX x).saved = [] ∧
        ((t.getX x).st = .created ∨ (t.getX x).st = .runnable ∨ (t.getX x).st = .running) ∧ (t.getX x).dotSet = (s2.getX x).dotSaved ∧
        ∀ q m, sfind (t.getX x).queues q = some m → m.frozen = none)) ∧
    (Asked s 4 x →
      (c.st ≠ .halted → ∃ t, exec (.ctxRecover x) s = .next t ∧ Answered t 1 ∧ t.ctxs = s.ctxs ∧ t.mem = s.mem) ∧
      (c.st = .halted → ∃ t, exec (.ctxRecover x) s = .next t ∧ Answered t 0 ∧ (t.getX x).saved = [] ∧
        ((t.getX x).st = .created ∨ (t.getX x).st = .runnable ∨ (t.getX x).st = .running) ∧
        ∀ q seq n, s.getNode x q seq = some n → (q, s.getQ x q) ∈ c.queues → (seq, n) ∈ (s.getQ x q).nodes → n.st = .running → n.fault = none → (s.getQ x q).st = .running →
          (t.getQ x q).st = .suspended ∧ ∃ p, t.getNode x q seq = some p ∧ p.fault = some c.haltCode)) ∧
    (Asked s 5 x →
      (c.st = .free → ∃ t, exec (.ctxDestroy x) s = .next t ∧ Answered t 1 ∧ t.ctxs = s.ctxs ∧ t.mem = s.mem) ∧
      (c.st ≠ .free → c.st ≠ .destroying → ∃ t, exec (.ctxDestroy x) s = .next t ∧ (t.getX x).st = .destroying ∧ (t.getX x).saved = [] ∧
        (t.getX x).barriers = [] ∧ (t.getX x).regions = [] ∧ (∀ q m, sfind (t.getX x).queues q = some m → m.st = .dead))) ∧
    (c.st = .destroying →
      ((∃ e ∈ c.ops, e.2.st = .running) → exec (.teardownDone x) s = .next s) ∧
      ((∀ e ∈ c.ops, e.2.st ≠ .running) → (∀ b ∈ s.benches, b.2.active = []) →
        let u := (reportOrphans (dyingArrays s x) x).modX x fun c => { c with orphans := [] }
        (actsWait u x = true → exec (.teardownDone x) s = .next u) ∧
        (actsWait u x = false → ∃ t, exec (.teardownDone x) s = .next t ∧ t.getX x = Ctx.reset ∧
          (s.cmd.busy = true → s.cmd.cmd ≠ 1 → s.cmd.ctx.toNat = x → t.cmd.busy = false))))

/-- Migration of a function (R341, R342, R352-R357): the source asks its target and waits at most 10 ms; MIGRATE_IN makes the context that
awaits the state; a page leaves with its entry REMOTE and arrives with an owner token, without a frame it stays; an abort halts
the source; a tombstone lapses; parts of a transfer are collected in order (their codes are the model's, assumption 21).
Where the spec leaves a point open it follows the model's own readings: notes/assumptions, entries 21, 24, 26. -/
def Obligations.MigrationEvents : Prop :=
  ∀ (s : State) (fn : Nat),
    (∀ x, Asked s 6 x → (s.getX x).st ≠ .migratingOut → (s.getX x).migr = none →
      ((s.getX x).st = .free ∨ (∃ e ∈ fnCtxs s (s.getX x).fn, mayLeave e.2 = false) → ∃ t, exec (.migrateOut x) s = .next t ∧ Answered t 1 ∧ t.ctxs = s.ctxs ∧ t.outbox = s.outbox ∧ t.mem = s.mem) ∧
      ((s.getX x).st ≠ .free → (∀ e ∈ fnCtxs s (s.getX x).fn, mayLeave e.2 = true) → ∃ t m, exec (.migrateOut x) s = .next t ∧ t.cmd = s.cmd ∧ t.mem = s.mem ∧ t.outbox = s.outbox ++ [m] ∧
        m.kind = 12 ∧ m.dst = s.cmd.carg.extractLsb' 0 15 ∧ m.dvf = s.cmd.carg.extractLsb' 16 8 ∧ m.payload.headD 1 = 0 ∧
        ∀ e ∈ fnCtxs s (s.getX x).fn, (t.getX e.1).migr = some (s.cmd.carg.extractLsb' 0 15, (s.cmd.carg.extractLsb' 16 8).toNat) ∧ (t.getX e.1).asked = s.now ∧
          (t.getX e.1).st = (s.getX e.1).st)) ∧
    (∀ x tfn l, Asked s 7 x → tfn = (s.cmd.carg.extractLsb' 24 8).toNat →
      ((s.getX x).st ≠ .free → ∃ t, exec (.migrateIn x) s = .next t ∧ Answered t 1 ∧ t.ctxs = s.ctxs ∧ t.mem = s.mem) ∧
      ((s.getX x).st = .free → tfn ≤ 0x80 → cmdRead s tfn s.cmd.carg2 512 = .ok s l → ctxId tfn (field l 8 1) = x →
        (ctxRecordOk tfn l = true → fnEnabled s tfn = true → entombed s tfn = false → ∃ t, exec (.migrateIn x) s = .next t ∧ Answered t 0 ∧ (t.getX x).st = .migratingIn ∧
          (t.getX x).migr = some (s.cmd.carg.extractLsb' 0 15, (s.cmd.carg.extractLsb' 16 8).toNat) ∧ (t.getX x).recVa = s.cmd.carg2 ∧ ∀ y, y ≠ x → t.getX y = s.getX y) ∧
        (ctxRecordOk tfn l = false → ∃ t, exec (.migrateIn x) s = .next t ∧ Answered t 2 ∧ t.ctxs = s.ctxs ∧ t.mem = s.mem))) ∧
    (s.cmd.busy = true → s.cmd.cmd = 6 → (s.getX s.cmd.ctx.toNat).fn = fn → (∃ e ∈ fnCtxs s fn, e.2.migr.isSome = true ∧ mayLeave e.2 = true) →
      ((∀ e ∈ fnCtxs s fn, e.2.migr.isSome = true → mayLeave e.2 = true → e.2.asked + 12000000 ≤ s.now) →
        ∃ t, exec (.migrationTargetTimeout fn) s = .next t ∧ Answered t 6 ∧ t.mem = s.mem ∧
          ∀ e ∈ fnCtxs s fn, e.2.migr.isSome = true → mayLeave e.2 = true → (t.getX e.1).migr = none ∧ (t.getX e.1).st = (s.getX e.1).st) ∧
      ((∃ e ∈ fnCtxs s fn, e.2.migr.isSome = true ∧ mayLeave e.2 = true ∧ s.now < e.2.asked + 12000000) → exec (.migrationTargetTimeout fn) s = .next s)) ∧
    (∀ va pa e,
      (leaving s fn = [] → exec (.pageHandover fn va) s = .next s) ∧
      (∀ x dev tfn, ((leaving s fn).find? fun e => e.2.moved && e.2.halt.isNone) = some x → x.2.migr = some (dev, tfn) → walk s fn va = .leaf pa e →
        (eState e = sREMOTE ∨ eState e = sMIGR → exec (.pageHandover fn va) s = .next s) ∧
        (eState e ≠ sREMOTE → eState e ≠ sMIGR → (pagesLeft s fn).length ≠ 1 → s.lockQ = [] →
          holdsRing s fn (BitVec.ofNat 64 (va.toNat / 2 ^ pageBits e * 2 ^ pageBits e)) (pageBits e) = false →
          ∃ t, exec (.pageHandover fn va) s = .next t ∧ t.pa64 pa = remoteEntry e dev tfn ∧ t.ctxs = s.ctxs ∧ t.cores = s.cores ∧
            (fn, BitVec.ofNat 64 (va.toNat / 2 ^ pageBits e * 2 ^ pageBits e), pa, e) ∈ t.handed)) ∧
      (∀ tok, walk s fn va = .leaf pa e →
        (eState e ≠ sREMOTE → ∃ t, exec (.ownerTokenArrival fn va tok) s = .next t ∧ t.mem = s.mem ∧ (fn, va, tok) ∉ t.arrived) ∧
        (eState e = sREMOTE → tok.state.toNat = sABSENT → ∃ t, exec (.ownerTokenArrival fn va tok) s = .next t ∧ t.pa64 pa = eSet e sABSENT 0 ∧ t.ctxs = s.ctxs) ∧
        (eState e = sREMOTE → tok.state.toNat ≠ sABSENT → eSize e = 0 →
          (∀ s2, tokenFrame s fn tok.state.toNat = (s2, none) → ∃ t, exec (.ownerTokenArrival fn va tok) s = .next t ∧ (fn, va, tok) ∈ t.arrived ∧ t.mem = s2.mem) ∧
          (∀ s2 st f, st ≠ sCOMP → tokenFrame s fn tok.state.toNat = (s2, some (st, f)) →
            ∃ t, exec (.ownerTokenArrival fn va tok) s = .next t ∧ t.pa64 pa = eSet (eWithFmt e 0) st f ∧ (fn, va, tok) ∉ t.arrived)))) ∧
    (leaving s fn = [] → exec (.migrationAbort fn) s = .next s) ∧
    (leaving s fn ≠ [] → ∃ t, exec (.migrationAbort fn) s = .next t ∧ (∀ e ∈ leaving s fn, (s.getX e.1).halt = none → (s.getX e.1).st = .migratingOut → ∃ h, (t.getX e.1).halt = some h ∧ h.code = 0x70) ∧
      ∀ h ∈ t.handed, h.1 ≠ fn) ∧
    (∃ t, exec (.tombstoneLapse fn) s = .next t ∧ t.mem = s.mem ∧ t.ctxs = s.ctxs ∧ ∀ d f at_, (fn, d, f, at_) ∈ s.tombstones →
      ((fn, d, f, at_) ∈ t.tombstones ↔ s.now < at_ + 1200000 * (dcGet s 0x002A0018).toNat)) ∧
    (∀ m : Msg, let dfn := m.dvf.toNat
      (∀ r, m.payload = 0 :: r → readyFor s m = false → exec (.msgContextTransfer m) s = .next s) ∧
      (∀ r, m.payload = 0 :: r → readyFor s m = true → ∃ t a, exec (.msgContextTransfer m) s = .next t ∧ t.outbox = s.outbox ++ [a] ∧ a.kind = 12 ∧ a.dst = m.src ∧ a.dvf = m.svf ∧
        a.payload = [1] ∧ t.mem = s.mem ∧ t.ctxs = s.ctxs) ∧
      (∀ r, m.payload = 2 :: r → ∃ t, exec (.msgContextTransfer m) s = .next t ∧ t.mem = s.mem ∧ t.ctxs = s.ctxs ∧
        (dfn, (((s.xfer.find? fun e => e.1 = dfn).map (·.2)).getD []) ++ r) ∈ t.xfer) ∧
      (∀ r e, m.payload = 9 :: r → e ∈ fnCtxs s dfn → e.2.migr = some (m.src, m.svf.toNat) → ∃ t, exec (.msgContextTransfer m) s = .next t ∧ (t.getX e.1).migr = none ∧ t.mem = s.mem))

/-! ## Links, connections and messages -/

/-- Only port q differs. -/
def Sys2Proof.Machine.OnlyPort (s t : State) (q : Nat) : Prop :=
  (∀ j, j ≠ q → t.port j = s.port j) ∧ t.mem = s.mem ∧ t.ctxs = s.ctxs ∧ t.cores = s.cores

/-- Ports, link replay, the scheduled mode and the rings (R381-R384, R396-R401): a port trains, comes UP or DEGRADED, or goes DOWN with its replay
buffer discarded; retraining keeps it; what is not acknowledged is sent again byte for byte; a flit out of order or with a bad
CRC is answered by a nak; slots follow their edges; a heater write unsettles a ring, a map write moves its wavelength.
Where the spec leaves a point open it follows the model's own readings: notes/assumptions, entries 52. -/
def Obligations.LinkEvents : Prop :=
  ∀ (s : State) (q : Nat), q < 28 →
    let p := s.port q
    (p.st = .down → p.enable = true → ∃ t, exec (.signalDetected q) s = .next t ∧ t.port q = { p with st := .training, since := s.now } ∧ OnlyPort s t q) ∧
    (p.st ≠ .down ∨ p.enable = false → exec (.signalDetected q) s = .next s) ∧
    (∀ r : TrainResult, let w := trainedWidth q (trainedBad s q r.bad)
      (p.st = .training → r.inBound = true → peerGood q r.peer = true → w ≠ 0 → ∃ t, exec (.trainingEnd q r) s = .next t ∧ OnlyPort s t q ∧
        (t.port q).st = (if w = 32 ∨ (4 ≤ q ∧ w = 16) then .up else .degraded) ∧ (t.port q).width = BitVec.ofNat 6 w ∧ (t.port q).peer = r.peer ∧ (t.port q).buffer = [] ∧
        (t.port q).nextSeq = 0 ∧ (t.port q).expect = 0) ∧
      (p.st = .retraining → r.inBound = true → peerGood q r.peer = true → w ≠ 0 → ∃ t, exec (.trainingEnd q r) s = .next t ∧ OnlyPort s t q ∧ (t.port q).buffer = p.buffer ∧
        (t.port q).nextSeq = p.nextSeq ∧ (t.port q).sent = p.sent ++ p.buffer.map (·.2)) ∧
      (p.st = .training ∨ p.st = .retraining → r.inBound = true → peerGood q r.peer = false ∨ w = 0 → ∃ t, exec (.trainingEnd q r) s = .next t ∧ OnlyPort s t q ∧
        (t.port q).st = .down ∧ (t.port q).buffer = [] ∧ (t.port q).miscable = !peerGood q r.peer) ∧
      (p.st = .training ∨ p.st = .retraining → r.inBound = false →
        (s.now < p.since + trainBound q → exec (.trainingEnd q r) s = .next s) ∧
        (p.since + trainBound q ≤ s.now → ∃ t, exec (.trainingEnd q r) s = .next t ∧ OnlyPort s t q ∧ (t.port q).st = .down ∧ (t.port q).buffer = []))) ∧
    (∀ loss : Bool,
      (p.st = .up ∨ p.st = .degraded → loss = true ∨ 16 ≤ p.fruitless → ∃ t, exec (.retrainTrigger q loss) s = .next t ∧ OnlyPort s t q ∧
        t.port q = { p with st := .retraining, since := s.now, retrains := p.retrains + 1, fruitless := 0 }) ∧
      (loss = false → p.fruitless < 16 → exec (.retrainTrigger q loss) s = .next s)) ∧
    (p.st = .up ∨ p.st = .degraded → ∃ t, exec (.retrain q) s = .next t ∧ OnlyPort s t q ∧
      t.port q = { p with st := .retraining, since := s.now, retrains := p.retrains + 1, fruitless := 0 }) ∧
    (∃ t, exec (.portEnableWrite q true) s = .next t ∧ OnlyPort s t q ∧ t.port q = { p with enable := true }) ∧
    (∃ t, exec (.portEnableWrite q false) s = .next t ∧ OnlyPort s t q ∧ (t.port q).st = .down ∧ (t.port q).enable = false ∧ (t.port q).buffer = []) ∧
    (∀ a f rest, p.st = .up ∨ p.st = .degraded → p.buffer = (a, f) :: rest →
      (∃ t, exec (.nakReceived q a) s = .next t ∧ OnlyPort s t q ∧ (t.port q).buffer = rest ∧ (t.port q).sent = p.sent ++ rest.map (·.2)) ∧
      (p.lastAck + 2048 ≤ s.now → ∃ t, exec (.replayTimeout q) s = .next t ∧ OnlyPort s t q ∧ (t.port q).buffer = p.buffer ∧
        (t.port q).sent = p.sent ++ p.buffer.map (·.2) ∧ (t.port q).replays = p.replays + 1) ∧
      (s.now < p.lastAck + 2048 → exec (.replayTimeout q) s = .next s)) ∧
    (∀ f : BitVec 512,
      (p.st ≠ .up → p.st ≠ .degraded → exec (.flitReceived q f) s = .next s) ∧
      (p.st = .up ∨ p.st = .degraded →
        (flitOk f = false → ∃ t, exec (.flitReceived q f) s = .next t ∧ OnlyPort s t q ∧ (t.port q).crcs = p.crcs + 1 ∧ (t.port q).expect = p.expect ∧
          (t.port q).sent = p.sent ++ [mkFlit 6 p.nextSeq.toNat p.acked.toNat []]) ∧
        (flitOk f = true → flitType f = 0 →
          (flitSeq f ≠ p.expect → ∃ t, exec (.flitReceived q f) s = .next t ∧ OnlyPort s t q ∧ (t.port q).expect = p.expect ∧ (t.port q).asm = p.asm ∧
            (t.port q).sent = p.sent ++ [mkFlit 6 p.nextSeq.toNat p.acked.toNat []]) ∧
          (flitSeq f = p.expect → ∃ t, exec (.flitReceived q f) s = .next t ∧ OnlyPort s t q ∧ (t.port q).expect = p.expect + 1 ∧ (t.port q).acked = flitSeq f ∧
            (t.port q).asm = ((flitList f).drop 4).take 56 ∧ (t.port q).sent = p.sent ++ [mkFlit 5 p.nextSeq.toNat (flitSeq f).toNat []])))) ∧
    (∃ t, exec .osyncEdge s = .next t ∧ t.slots = { s.slots with synced := true, rot := 0, slotStart := none, cur := 0, next := some (s.now + s.slots.ofs.toNat) } ∧
      t.mem = s.mem ∧ t.ctxs = s.ctxs) ∧
    (∀ n, s.slots.next = some n → n ≤ s.now → ∃ t, exec .slotStart s = .next t ∧ t.slots.cur = 0 ∧ t.slots.slotStart = some s.now ∧ t.slots.next = none ∧
      t.slots.activeSched = s.slots.sched ∧ t.slots.commit = false ∧ t.slots.active = (if s.slots.commit then s.slots.staged else s.slots.active) ∧ t.mem = s.mem) ∧
    (∀ b, s.slots.next = none → s.slots.slotStart = some b →
      (s.now < b + s.slots.now_.len.toNat → exec .slotStart s = .next s) ∧
      (b + s.slots.now_.len.toNat ≤ s.now → s.slots.cur + 1 < s.slots.activeN → exec .slotStart s = .next { s with slots := { s.slots with cur := s.slots.cur + 1, slotStart := some s.now } }) ∧
      (b + s.slots.now_.len.toNat ≤ s.now → s.slots.activeN ≤ s.slots.cur + 1 → ∃ t, exec .slotStart s = .next t ∧ t.slots.cur = 0 ∧ t.slots.rot = s.slots.rot + 1 ∧
        t.slots.activeSched = s.slots.sched ∧ t.slots.slotStart = some s.now)) ∧
    exec .slotCommit s = .next { s with slots := { s.slots with commit := true } } ∧
    (∀ f k (v : W32) (adc : BitVec 12), f < 48 → k < 18 → let g := s.ring f k
      (∃ t, exec (.ringHeatWrite f k v) s = .next t ∧ t.ring f k = { g with dac := v.extractLsb' 0 12, settled := false, valid := false, since := s.now }) ∧
      (g.valid = false → g.settled = false → g.since + 12000 ≤ s.now → ∃ t, exec (.ringSettled f k adc) s = .next t ∧ t.ring f k = { g with settled := true }) ∧
      (g.valid = false → g.settled = false → s.now < g.since + 12000 → exec (.ringSettled f k adc) s = .next s) ∧
      (g.settled = true → g.since ≠ 0 → g.since + 13024 ≤ s.now → ∃ t, exec (.ringSettled f k adc) s = .next t ∧ t.ring f k = { g with valid := true, adc := adc, since := s.now - 12000 }) ∧
      (v.extractLsb' 4 2 = (2 : BitVec 2) → g.mode ≠ 2 ∨ g.wave ≠ v.extractLsb' 0 4 → ∃ t, exec (.ringMapWrite f k v) s = .next t ∧
        t.ring f k = { g with mode := 2, wave := v.extractLsb' 0 4, carry := true } ∧
        ∀ j, j < 18 → j ≠ k → t.ring f j = if (s.ring f j).mode = 2 ∧ (s.ring f j).wave = v.extractLsb' 0 4 then { s.ring f j with mode := 1, carry := false } else s.ring f j))

/-- Connections (R388, R389, R391, R451): an OPENING one that is not accepted in time closes; the oldest unacknowledged message brings the
retransmission of all, and past CONNRETRY a reset that keeps the REPLAYABLE ones; an idle one drains, a drained one closes, a reset one
opens again with its messages queued first; a spilled one's record is written; control messages open, accept, reset.
Where the spec leaves a point open it follows the model's own readings: notes/assumptions, entries 17, 53, 60. -/
def Obligations.ConnectionEvents : Prop :=
  ∀ (s : State) (fn peer : Nat),
    let c := s.conn fn peer
    let same (t : State) : Prop := t.mem = s.mem ∧ ∀ f p, (f, p) ≠ (fn, peer) → (t.conn f p).st = (s.conn f p).st ∧ (t.conn f p).epoch = (s.conn f p).epoch
    (c.closed = false →
      (c.st = .opening →
        (s.now < c.since + (dcGet s 0x00502000).toNat → exec (.connopenTimeout fn peer) s = .next s) ∧
        (c.since + (dcGet s 0x00502000).toNat ≤ s.now → ∃ t, exec (.connopenTimeout fn peer) s = .next t ∧ (t.conn fn peer).closed = true ∧ (t.conn fn peer).waiting = [])) ∧
      (∀ m r, c.unacked = m :: r → c.st = .openSt → oldestQueued s c = false →
        (s.now < sget 0 c.sentAt m.cseq.toNat + (dcGet s 0x00502004).toNat → exec (.retransmission fn peer) s = .next s) ∧
        (sget 0 c.sentAt m.cseq.toNat + (dcGet s 0x00502004).toNat ≤ s.now →
          (c.retries < max 1 (dcGet s 0x00502008).toNat → ∃ t, exec (.retransmission fn peer) s = .next t ∧ same t ∧ (t.conn fn peer).retries = c.retries + 1 ∧
            (t.conn fn peer).unacked = c.unacked ∧ (t.conn fn peer).st = .openSt) ∧
          (max 1 (dcGet s 0x00502008).toNat ≤ c.retries → ∃ t, exec (.retransmission fn peer) s = .next t ∧ (t.conn fn peer).st = .reset ∧
            (t.conn fn peer).epoch = c.epoch + 1 ∧ (t.conn fn peer).unacked = (c.unacked.filter fun m => !undelivered s fn m).filter replayableMsg))) ∧
      (c.st = .openSt → c.waiting = [] →
        (s.now < c.lastUsed + (dcGet s 0x0050200C).toNat → exec (.connidleTimeout fn peer) s = .next s) ∧
        (c.lastUsed + (dcGet s 0x0050200C).toNat ≤ s.now → ∃ t, exec (.connidleTimeout fn peer) s = .next t ∧ same t ∧
          t.conn fn peer = { c with st := .draining, idleDrain := true })) ∧
      (c.st = .reset → c.since + (dcGet s 0x00502010).toNat ≤ s.now → ∃ t, exec (.connbackoffExpiry fn peer) s = .next t ∧ same t ∧ (t.conn fn peer).st = .opening ∧
        (t.conn fn peer).epoch = c.epoch ∧ (t.conn fn peer).snxt = 0 ∧ (t.conn fn peer).waiting = c.unacked ++ c.waiting ∧ (t.conn fn peer).unacked = []) ∧
      (c.st = .draining → (c.unacked = [] → ∃ t, exec (.connectionDrained fn peer) s = .next t ∧ same t ∧ (t.conn fn peer).closed = true) ∧
        (c.unacked ≠ [] → exec (.connectionDrained fn peer) s = .next s)) ∧
      (wantsRecord s = true → c.spillable s = true → (∀ d ∈ s.conns, Conn.spillable s d = true → c.lastUsed ≤ d.lastUsed) →
        ∃ t, exec (.connectionSpill fn peer) s = .next t ∧ (t.conn fn peer).st = .spilled ∧ t.mem.bytes (spillPa s fn peer) 32 = spillBytes s c ∧ t.ctxs = s.ctxs)) ∧
    (∀ m : Msg, m.dvf.toNat = fn → m.src.toNat = peer →
      (∀ e, m.payload = [1, e] → (∀ r, s.recv? m.src m.svf = some r → r.epoch ≠ m.epoch) → ∃ t r, exec (.msgConnectionControl m) s = .next t ∧ t.mem = s.mem ∧
        t.recv? m.src m.svf = some r ∧ r.epoch = m.epoch ∧ r.rnxt = 0) ∧
      (m.payload = [2, c.epoch] → c.closed = false → c.st = .opening → ∃ t, exec (.msgConnectionControl m) s = .next t ∧ same t ∧ (t.conn fn peer).st = .openSt ∧
        (t.conn fn peer).waiting = c.waiting) ∧
      (∀ e, m.payload = [4, e] → c.closed = false → c.st = .openSt → ∃ t, exec (.msgConnectionControl m) s = .next t ∧ (t.conn fn peer).st = .reset ∧
        (t.conn fn peer).epoch = c.epoch + 1) ∧
      (m.payload = [5, c.epoch] → c.closed = false → c.st = .opening → ∃ t, exec (.msgConnectionControl m) s = .next t ∧ (t.conn fn peer).closed = true ∧
        (t.conn fn peer).waiting = []))

/-- Fabric accesses at their target and their replies (R172, R173, R192, R356, R387, R461): a load, a store, an atomic or an acquire is performed
once its checks pass and is answered; a fault, a tombstone or a FREE function is answered instead; a reply fills the word
that awaits it; MOVED is cached and the access sent again; a refusal is A's halting fault.
Where the spec leaves a point open it follows the model's own readings: notes/assumptions, entries 12, 15, 17. -/
def Obligations.FabricMessages : Prop :=
  ∀ (s : State) (m : Msg),
    let fn := m.dvf.toNat
    let own : Bool := !ownForward s m
    let r := endRequest s m
    let answers (t : State) (kind : Byte) (l : List Byte) : Prop := ∃ a, t.outbox = s.outbox ++ [a] ∧ a.kind = kind ∧ a.dst = m.src ∧ a.dvf = m.svf ∧ a.aux = m.aux ∧ a.payload = l
    (∀ n, n = field m.payload 0 2 →
      (∀ dev tfn, tombOf s fn = some (dev, tfn) → ∃ t, exec (.msgLoad m) s = .next t ∧ answers t 10 (leBytes 2 dev ++ [BitVec.ofNat 8 tfn, m.kind] ++ m.payload) ∧ t.mem = s.mem) ∧
      (tombOf s fn = none → fnHasCtx s fn = false → ∃ t, exec (.msgLoad m) s = .next t ∧ answers t 11 [0x52] ∧ t.mem = s.mem) ∧
      (tombOf s fn = none → fnHasCtx s fn = true → waitsBehind s m = false → opEntry s fabCore fabCtx (msgKey m) = none → n ≠ 0 → vaBad m.va = false →
        (∀ l, readFrom s .device fn .rd own (n / 65536 + 2) m.va n = .ok l → ∃ t, exec (.msgLoad m) s = .next t ∧ answers t 1 l ∧ t.cores = s.cores ∧ t.ctxs = s.ctxs) ∧
        (∀ code va, readFrom s .device fn .rd own (n / 65536 + 2) m.va n = .bad code va → ∃ t, exec (.msgLoad m) s = .next t ∧ answers t 11 [code] ∧ t.mem = s.mem))) ∧
    (tombOf s fn = none → fnHasCtx s fn = true → waitsBehind s m = true → ∀ i ∈ [Instr.msgLoad m, .msgStore m],
      ∃ t, exec i s = .next t ∧ m ∈ t.fabWait ∧ t.outbox = s.outbox ∧ t.mem = s.mem ∧ t.cores = s.cores ∧ t.ctxs = s.ctxs) ∧
    (tombOf s fn = none → fnHasCtx s fn = true → waitsBehind s m = false → opEntry s fabCore fabCtx (msgKey m) = none → vaBad m.va = false → s.lockQ = [] →
      dcGet s (0x002B1038 + 0x40 * ringPart s fn) &&& 0xFF = 0 →
      (∀ n l s2, m.kind = 2 → n = m.payload.length → n ≠ 0 → checkFrom s .device fn .wr own (n / 65536 + 2) m.va n = .ok l → writePerm r .device fn .wr own m.va m.payload = .ok s2 →
        ∃ t, exec (.msgStore m) s = .next t ∧ answers t 3 [] ∧ t.mem = s2.mem ∧ t.cores = s.cores) ∧
      (∀ op old s2, m.kind = 4 → op = field m.payload 0 1 →
        (op < 9 → let ty : BitVec 4 := BitVec.ofNat 4 (field m.payload 1 1)
          let new := amoBytes op ty old (BitVec.ofNat 64 (field m.payload 2 8)) (BitVec.ofNat 64 (field m.payload 10 8))
          wideT ty ≠ 0 → readFrom s .device fn .wr own (4 * wideT ty / 65536 + 2) m.va (4 * wideT ty) = .ok old →
          (new = none → ∃ t, exec (.msgAtomic m) s = .next t ∧ answers t 5 old ∧ t.mem = s.mem) ∧
          (∀ l, new = some l → writePerm r .device fn .wr own m.va l = .ok s2 → ∃ t, exec (.msgAtomic m) s = .next t ∧ answers t 5 old ∧ t.mem = s2.mem)) ∧
        (op = 9 ∨ op = 10 → let w : W64 := BitVec.ofNat 64 (leNat old)
          let holder := field m.payload 2 8
          readFrom s .device fn .wr own 2 m.va 8 = .ok old →
          (lockHeld w = false → writePerm r .device fn .wr own m.va (leBytes 8 (lockWord (lockSeq w) m.src (holder % 65536) (holder / 65536 % 512)).toNat) = .ok s2 →
            ∃ t, exec (.msgAtomic m) s = .next t ∧ answers t 5 (leBytes 8 (acqResult (op = 10) w).toNat) ∧ t.mem = s2.mem) ∧
          (lockHeld w = true → op = 10 → ∃ t, exec (.msgAtomic m) s = .next t ∧ answers t 5 (leBytes 8 0) ∧ t.mem = s.mem) ∧
          (∀ pa, lockHeld w = true → op = 9 → paOf s fn m.va = some pa → ∃ t e, exec (.msgAtomic m) s = .next t ∧ t.lockQ = [e] ∧ e.pa = pa ∧ e.dev = m.src ∧ e.fn = m.svf ∧
            e.tag = m.aux ∧ t.mem = s.mem ∧ t.outbox = s.outbox)))) ∧
    (∀ i ∈ [Instr.msgLoadReply m, .msgAtomicReply m, .msgStoreAck m], let k := tagCore m.aux
      (((s.getC k).awaits m.aux) = none → ∃ t, exec i s = .next t ∧ t.cores = s.cores ∧ t.mem = s.mem ∧ ∀ o ∈ t.fabOut, o.aux ≠ m.aux) ∧
      (∀ f, (s.getC k).awaits m.aux = some f → ∃ t g, exec i s = .next t ∧ t.mem = s.mem ∧ g ∈ (t.getC k).flight ∧ g.seq = f.seq ∧ g.dest = f.dest ∧ g.fab = none ∧
        g.due = some s.now ∧
        (i ≠ .msgStoreAck m → (∀ q, f.dest = .opq q → g.val = elemBytes q m.payload) ∧ ((∀ q, f.dest ≠ .opq q) → f.produces = true → g.val = .scalar (BitVec.ofNat 128 (leNat m.payload)))) ∧
        (t.getC k).flight.length = (s.getC k).flight.length ∧ (t.getC k).named = (s.getC k).named ∧ ∀ j, j ≠ k → t.getC j = s.getC j)) ∧
    (let k := tagCore m.aux; (forwarded m.aux = false → ∃ t, exec (.msgMoved m) s = .next t ∧ t.mem = s.mem ∧ t.cores = s.cores ∧ ((m.src, m.svf), (BitVec.ofNat 15 (field m.payload 0 2), BitVec.ofNat 8 (field m.payload 2 1))) ∈ t.ftc) ∧
      (∀ f, forwarded m.aux = false → (s.getC k).awaits m.aux = some f → field m.payload 3 1 = 0 → ∃ t a, exec (.msgMoved m) s = .next t ∧ t.outbox = s.outbox ++ [a] ∧
        a.dst = BitVec.ofNat 15 (field m.payload 0 2) ∧ a.dvf = BitVec.ofNat 8 (field m.payload 2 1) ∧ a.kind = 0 ∧ a.va = m.va ∧ a.aux = m.aux ∧ a.payload = m.payload.drop 4) ∧
      (∀ c, m.payload = [c] →
        ((s.getC k).awaits m.aux = none → ∃ t, exec (.msgRefusal m) s = .next t ∧ t.cores = s.cores ∧ t.ctxs = s.ctxs ∧ t.mem = s.mem) ∧
        (∀ f, forwarded m.aux = false → (s.getC k).awaits m.aux = some f → ((s.getC k).aFlight.any fun g => decide (g.seq < f.seq) && g.unpassed) = false → c ≠ 0 →
          (s.getX (s.getC k).ctx).st.halts = true → ∃ t, exec (.msgRefusal m) s = .next t ∧ (t.getC k).a.fault = some { code := c, index := 0, addr := m.va, tcode := 0 } ∧
          ((t.getX (s.getC k).ctx).halt).isSome = true) ∧
        (∀ f, (s.getC k).awaits m.aux = some f → c = 0 → (∀ g ∈ (s.getC k).flight, g.fab = some m.aux → g.stream = .A ∧ f.seq ≤ g.seq) → ∃ t, exec (.msgRefusal m) s = .next t ∧ (t.getC k).a.pc = f.pc ∧ (t.getC k).awaits m.aux = none ∧ t.ctxs = s.ctxs ∧ t.mem = s.mem)))

/-- Messages of collectives and shards (R392, R394, R395, R405, R450): one that no collective here awaits yet is kept; a park or resume notice is
noted and an abort fails its collective with the code it carries; fields that differ fail it with RECORD_RANGE; a delivery
enters its shard, or is refused and answered by an abort.
Where the spec leaves a point open it follows the model's own readings: notes/assumptions, entries 17, 19, 20. -/
def Obligations.CollectiveMessages : Prop :=
  ∀ (s : State) (m : Msg),
    let fn := m.dvf.toNat
    (collByKey s fn m.aux = none → (∀ e ∈ s.ctxs, e.2.st ≠ .free → e.2.fn = fn → e.2.pg? (m.aux.extractLsb' 32 32) = none) → m.va ≠ 1 →
      (∃ t, exec (.msgCollective m) s = .next t ∧ m ∈ t.collHeld ∧ t.ctxs = s.ctxs ∧ t.mem = s.mem) ∧ (∃ t, exec (.msgAbort m) s = .next t ∧ m ∈ t.collHeld ∧ t.ctxs = s.ctxs ∧ t.mem = s.mem) ∧
      (∃ t, exec (.parkNotice m) s = .next t ∧ { m with va := parkVa } ∈ t.collHeld ∧ t.ctxs = s.ctxs ∧ t.mem = s.mem) ∧
      (∃ t, exec (.resumeNotice m) s = .next t ∧ { m with va := resumeVa } ∈ t.collHeld ∧ t.ctxs = s.ctxs ∧ t.mem = s.mem)) ∧
    (∀ x slot o c q, collByKey s fn m.aux = some (x, slot, o) → s.getO x slot = some o → collOf s x o = some c → c.t.rankOf m = some q → s.collHeld = [] →
      (sweepHeld { s with collHeld := [m] }).collHeld = [m] →
      (m.kind = 13 → m.va ≠ 1 → ∃ t, exec (.msgAbort m) s = .next t ∧ EndedWith t x slot o (m.payload.headD 0x52)) ∧
      (m.kind = 6 →
        (m.va = parkVa → ∃ t p, exec (.parkNotice m) s = .next t ∧ t.getO x slot = some p ∧ p.notices = o.notices ++ [q] ∧ p.st = o.st ∧ t.collHeld = [] ∧ t.mem = s.mem) ∧
        (m.va = resumeVa → ∃ t p, exec (.resumeNotice m) s = .next t ∧ t.getO x slot = some p ∧ p.notices = o.notices ++ [2 ^ 20 + q] ∧ p.st = o.st ∧ t.collHeld = [] ∧ t.mem = s.mem) ∧
        (m.va ≠ 0 → m.va ≠ parkVa → m.va ≠ resumeVa → m.va ≠ c.info → ∃ t, exec (.msgCollective m) s = .next t ∧ EndedWith t x slot o 0x21) ∧
        (m.va = c.info → m.va ≠ 0 → m.va ≠ parkVa → m.va ≠ resumeVa → o.st ≠ .running → sfind o.recv q = none →
          ∃ t p, exec (.msgCollective m) s = .next t ∧ t.getO x slot = some p ∧ sfind p.recv q = some 0 ∧ p.st = o.st ∧ m ∈ t.collHeld ∧ t.mem = s.mem))) ∧
    (m.va = 1 → collsOf s fn = [] → exec (.msgAbort m) s = .next s) ∧
    (∀ s2, deliverShare s fn m.va.toNat m.aux m.payload = (s2, false) → exec (.msgShardDelivery m) s = .next s2) ∧
    (∀ s2, deliverShare s fn m.va.toNat m.aux m.payload = (s2, true) → collsOf s2 fn = [] → ∃ t a, exec (.msgShardDelivery m) s = .next t ∧ t.outbox = s2.outbox ++ [a] ∧ a.kind = 13 ∧
      a.dst = m.src ∧ a.dvf = m.svf ∧ a.aux = m.aux ∧ a.payload = [0x52] ∧ t.mem = s2.mem ∧ t.ctxs = s2.ctxs)

/-! ## The device -/

/-- The device as a whole (R9, R414-R426, R428): resets, self-test, freeze, power, heat, keys, functions, ports, the mailbox and plain register
writes, each with the states in which the device refuses it.
Where the spec leaves a point open it follows the model's own readings: notes/assumptions, entries 1, 5, 54. -/
def Obligations.DeviceEvents : Prop :=
  ∀ (s : State),
    (∀ stages m v,
      (bootStages 0 stages 0 0 = (m, v, none) → ∃ t, exec (.coldReset stages) s = .next t ∧
        t = { State.reset with mem := t.mem, errs := t.errs, free := t.free, dev := .selftest, meas := m, svn := v }) ∧
      (∀ i, bootStages 0 stages 0 0 = (m, v, some i) → ∃ t, exec (.coldReset stages) s = .next t ∧ t.dev = .safe ∧ t.failClass = 1 ∧ t.failUnit = BitVec.ofNat 16 i ∧ t.ctxs = [] ∧
        t.cores = State.reset.cores)) ∧
    (s.dev ≠ .ready → exec .warmReset s = .next s) ∧
    (s.dev = .ready → ∃ t, exec .warmReset s = .next t ∧ t.dev = .selftest ∧ t.ctxs = [] ∧ t.cores = State.reset.cores ∧ t.meas = s.meas ∧ t.svn = s.svn ∧ t.qcount = s.qcount ∧
      t.fwImage = s.fwImage ∧ dcGet t 0x00700008 = dcGet s 0x00700008) ∧
    (∀ r : SelfTest, (s.dev ≠ .selftest → exec (.selftestEnd r) s = .next s) ∧
      (s.dev = .selftest → selfTestFails r = none → ∃ t, exec (.selftestEnd r) s = .next t ∧ t.dev = .ready ∧ t.mem = s.mem ∧ ∀ e ∈ r.badEngine, e < 192 → (t.getE e).st = .retired) ∧
      (∀ c u, s.dev = .selftest → selfTestFails r = some (c, u) → ∃ t, exec (.selftestEnd r) s = .next t ∧ t.dev = .safe ∧ t.failClass = c ∧ t.failUnit = BitVec.ofNat 16 u)) ∧
    (∀ i ∈ [Instr.freeze, .freezeN], exec i s = .next { s with dev := .frozen, agenda := [], mbox := { s.mbox with busy := false } }) ∧
    (∀ w : BitVec 12, let lim := (dcGet s 0x00700008).toNat
      (lim < w.toNat → ∃ t, exec (.powerControl w) s = .next t ∧ t.throttled = true ∧ dcGet t 0x0070000C = w.setWidth 32 ∧ (32 ≤ s.budget → 32 ≤ t.budget ∧ t.budget ≤ s.budget) ∧
        (32 < s.budget → t.budget < s.budget) ∧ t.mem = s.mem ∧ t.ctxs = s.ctxs) ∧
      (∀ t0, s.throttled = true → (dcGet s 0x00700010).toNat < 105 → w.toNat + 100 < lim → s.coolSince = some t0 →
        (t0 + 12000000 ≤ s.now → ∃ t, exec (.powerControl w) s = .next t ∧ t.throttled = false ∧ 32 ≤ t.budget ∧ t.budget ≤ 64) ∧
        (s.now < t0 + 12000000 → ∃ t, exec (.powerControl w) s = .next t ∧ t.throttled = true ∧ t.budget = s.budget))) ∧
    (∀ d : BitVec 8,
      (d.toNat < 105 → ∃ t, exec (.temperatureLimit d) s = .next t ∧ dcGet t 0x00700010 = d.setWidth 32 ∧ t.throttled = s.throttled ∧ t.budget = s.budget ∧ t.mem = s.mem ∧ t.dev = s.dev) ∧
      (105 ≤ d.toNat → d.toNat < 115 → ∃ t, exec (.temperatureLimit d) s = .next t ∧ t.throttled = true ∧ t.mem = s.mem ∧ t.dev = s.dev ∧ (32 < s.budget → 32 ≤ t.budget ∧ t.budget < s.budget)) ∧
      (115 ≤ d.toNat → ∃ t, exec (.temperatureLimit d) s = .next t ∧ t.dev = .frozen ∧ ∀ pa, pa < 2 ^ 47 → t.mem.byte pa = memDefault)) ∧
    (∀ p, ∃ t, exec (.partitionEnable p) s = .next t ∧ t.ctxs = s.ctxs ∧ t.cores = s.cores ∧
      ∀ pa, (∀ e ∈ s.mem.owner, e.2 = p + 1 → e.1 ≠ pa / 65536) → (∀ e ∈ s.mem.units, e.2 = p + 1 → e.1 ≠ pa / 128) → t.mem.byte pa = s.mem.byte pa) ∧
    (∀ n, (s.dev = .ready → exec (.vfEnable n) s = .next { s with vfs := min n 128 }) ∧ (s.dev ≠ .ready → exec (.vfEnable n) s = .next s)) ∧
    (∀ p, (p < 2 → ∃ t, exec (.cxlPortFailure p) s = .next t ∧ p ∈ t.cxlFailed ∧ t.mem = s.mem) ∧ (2 ≤ p → exec (.cxlPortFailure p) s = .next s)) ∧
    (let ends (t : State) (r : Byte) : Prop := t.mbox.busy = false ∧ t.mbox.result = r
      let idle (t : State) : Prop := t = { s with mbox := t.mbox }
      (s.dev = .frozen → ∀ i ∈ [Instr.dcread, .dcwrite, .idcert, .quote, .fwstage], ∃ t, exec i s = .next t ∧ ends t 2 ∧ idle t) ∧
      (s.dev = .safe → ∃ t, exec .dcwrite s = .next t ∧ ends t 2 ∧ idle t) ∧
      (s.dev ≠ .frozen → ∃ t, exec .scanrd s = .next t ∧ ends t 2 ∧ idle t) ∧
      (s.dev = .frozen → ∃ t, exec .scanrd s = .next t ∧ ends t 0 ∧ idle t) ∧
      (s.dev ≠ .frozen →
        (∀ v, regRead s none (mbNum s 0 4) = some v → ∃ t, exec .dcread s = .next t ∧ ends t 0 ∧ idle t ∧ mbGet t 0 4 = leBytes 4 v.toNat) ∧
        (regRead s none (mbNum s 0 4) = none → ∃ t, exec .dcread s = .next t ∧ ends t 3 ∧ idle t) ∧
        (∀ s2, s.dev ≠ .safe → regWrite s none (mbNum s 0 4) (BitVec.ofNat 32 (mbNum s 4 4)) = some s2 → ∃ t, exec .dcwrite s = .next t ∧ ends t 0 ∧ t = { s2 with mbox := t.mbox }) ∧
        (s.dev ≠ .safe → regWrite s none (mbNum s 0 4) (BitVec.ofNat 32 (mbNum s 4 4)) = none → ∃ t, exec .dcwrite s = .next t ∧ ends t 3 ∧ idle t) ∧
        (256 * mbNum s 0 4 < Config.certLen → ∃ t, exec .idcert s = .next t ∧ ends t 0 ∧ idle t) ∧
        (Config.certLen ≤ 256 * mbNum s 0 4 → ∃ t, exec .idcert s = .next t ∧ ends t 3 ∧ idle t) ∧
        (∃ t, exec .quote s = .next t ∧ ends t 0 ∧ t = { s with mbox := t.mbox, qcount := s.qcount + 1 } ∧ mbGet t 0 48 = mbGet s 0 48) ∧
        (∃ t, exec .fwstage s = .next t ∧ ends t 0 ∧ t = { s with mbox := t.mbox, fwImage := some (BitVec.ofNat 64 (4096 * mbNum s 0 4), BitVec.ofNat 32 (mbNum s 4 4)) }))) ∧
    (∀ a v : W32, a.toNat < 2 ^ 31 →
      (s.dev = .frozen → exec (.registerWrite a v) s = .next s) ∧
      (∀ s2, s.dev ≠ .frozen → regWrite s none a.toNat v = some s2 → exec (.registerWrite a v) s = .next s2) ∧
      (s.dev ≠ .frozen → regWrite s none a.toNat v = none → exec (.registerWrite a v) s = .next s)) ∧
    (∀ (a v : W32) (x o : Nat), windowOf a.toNat = some (x, o) → exec (.registerWrite a v) s = .next (hostWrite s x o v)) ∧
    (∀ v : W32, s.mbox.busy = true → hostWrite s 2048 0x1000 v = s) ∧
    (s.mbox.busy = false → ∀ e ∈ [(1, Ev.dcread), (2, .dcwrite), (3, .idcert), (4, .quote), (5, .fwstage), (6, .scanrd)],
      hostWrite s 2048 0x1000 (BitVec.ofNat 32 e.1) = { s with mbox := { s.mbox with busy := true }, agenda := s.agenda ++ [e.2] }) ∧
    (∀ v : W32, s.mbox.busy = false → v = 0 ∨ 6 < v.toNat → hostWrite s 2048 0x1000 v = { s with mbox := { s.mbox with result := 1 } }) ∧
    hostRead s 2048 0 = devStat s ∧ (hostRead s 2048 0x1004).getLsbD 31 = s.mbox.busy ∧
    (∀ x o q, hostQueueAt s x o = some (q, 0x04) → hostRead s x o = (s.getQ x q).tail)

/-! ## A rule stated whole -/

/-- `div` and `rem` (R110): truncation toward zero; a divisor of 0 gives all ones and the dividend, the most negative dividend by −1
gives itself and 0; neither faults and neither counts a saturation, for only the word's core changes, and no byte of memory. -/
def Obligations.DivideAndRemainder : Prop :=
  ∀ (h : Hdr) (o : FR) (s : State) (a b : W128), Starts (.div h o) .S h o.g s → Starts (.rem h o) .S h o.g s →
    s.core.src .S o.a (wideT o.t) = .ok a → s.core.src .S o.b (wideT o.t) = .ok b →
    let w := 32 * wideT o.t
    let x : BitVec w := a.setWidth w
    let y : BitVec w := b.setWidth w
    let lat := if wideT o.t = 2 then 34 else 18
    let gives (q r : BitVec w) : Prop :=
      Gives (.div h o) .S h o.d (wideT o.t) lat (q.setWidth 128) false s ∧ Gives (.rem h o) .S h o.d (wideT o.t) lat (r.setWidth 128) false s
    (y = 0 → gives (~~~0) x) ∧
    (o.t.toNat < 4 → x.toInt = -2 ^ (w - 1) → y.toInt = -1 → gives x 0) ∧
    (∀ q : Int, y ≠ 0 → ¬ (o.t.toNat < 4 ∧ x.toInt = -2 ^ (w - 1) ∧ y.toInt = -1) →
      |q * tnum o.t y| ≤ |tnum o.t x| → |tnum o.t x - q * tnum o.t y| < |tnum o.t y| → 0 ≤ q * tnum o.t y * tnum o.t x →
      gives (BitVec.ofInt w q) (BitVec.ofInt w (tnum o.t x - q * tnum o.t y))) ∧
    ∀ i ∈ [Instr.div h o, .rem h o], ∀ t, exec i s = .next t → OnlyCore s t ∧ ∀ pa, t.mem.byte pa = s.mem.byte pa

/-! ## Completion: each form, in a state that meets its conditions, has its own effect -/

/-- Every event of a core and of the pages has its own effect in a state that meets its conditions: deliveries, halts and debug, requests at
their home, barriers, replays and walks, invalidations, touches, moves, counters, dot mode, bank dot rows and row owners
(R93, R126-R128, R202, R308, R313, R343-R345, R364-R369, R373, R375, R380).
Where the spec leaves a point open it follows the model's own readings: notes/assumptions, entries 32, 33, 48, 49. -/
def Obligations.CoreEventsComplete : Prop :=
  ∀ (s : State) (k x : Nat),
    let c := s.getC k
    let ok (i : Instr) (p : State → Prop) : Prop := ∃ t, exec i s = .next t ∧ p t
    let fn := (s.getX x).fn
    (∀ f d, c.flight = [f] → f.tokens = 0 → f.due = some d → f.stream ≠ .A → d ≤ c.clk → ok (.resultDelivery k) fun t => (t.getC k).flight = []) ∧
    (∀ w, c.tileW = [w] → c.seqs = [] → w.due ≤ c.clk → ok (.tileWriteDelivery k) fun t => (t.getC k).tileW = [] ∧ (t.getC k).tiles = (c.applyTarget w.target).tiles) ∧
    (∀ l, c.inst.isSome = true → c.started = true → c.away = false → c.s.st = .aligned → sfind c.s.cache c.s.pc = none → waitsFault s k .S = false → fetchCode s k c.s.pc = .ok l →
      ok (.fetchMissArrival k 0) fun t => sfind (t.getC k).s.cache c.s.pc = some (BitVec.ofNat 64 (leNat l))) ∧
    (∀ h, (s.getX x).halt = some h → h.broke = true → ctxBusy s x = false → ok (.haltFinish x) fun t => (t.getX x).st = .halted ∧ (t.getX x).haltCode = h.code) ∧
    (c.dbg.hold = true → c.dbg.held = false → c.dbg.since ≤ s.now → (∀ f ∈ c.flight, f.stream ≠ .A) → ok (.debugHold k) fun t => (t.getC k).dbg.held = true) ∧
    (c.dbg.held = true → c.dbg.stepBusy = false → ok (.debugStep k) fun t => (t.getC k).dbg.stepBusy = true) ∧
    (c.dbg.held = true → c.dbg.stepABusy = false → ok (.debugStepA k) fun t => (t.getC k).dbg.stepABusy = true) ∧
    (∀ hd o, (s.getX s.opdbgCtx.toNat).op? hd = some o → o.st = .held → o.after = none → o.fate = .undecided → kindOf o.body ≠ 8 →
      ok (.opdbgrel hd) fun t => t.opdbgResult = 1 ∧ ∃ p, t.getO s.opdbgCtx.toNat (hd.extractLsb' 8 12).toNat = some p ∧ p.st = .queued) ∧
    (∀ a, let e := s.getBar c.ctx a.a.toNat
      c.req = .sent a → a.op = .bartest → (a.b.setWidth 32 : W32).extractLsb' 8 8 = e.epoch → (a.b.setWidth 32 : W32).extractLsb' 16 16 = e.gen → e.st = .complete → c.storesOpen = false →
      ok (.homeRequestArrival k) fun t => (t.getC k).req = .replied (BitVec.ofNat 64 (e.gen.toNat * 65536 + e.epoch.toNat * 256 + 2))) ∧
    (∀ b expect pgid homedev epoch gen, (s.getX x).st ≠ .free → b < 1024 →
      ok (.barrierMulticast x b (.setup expect pgid homedev epoch gen)) fun t => (t.getBar x b).st = .openSt ∧ (t.getBar x b).pgid = pgid ∧ (t.getBar x b).mirror = true) ∧
    (∀ b f l, b < 96 → (s.getB b).faults = f :: l → f.failed = none → pageWaits s f.fn f.va = false → ok (.replay b) fun t => (t.getB b).faults = l) ∧
    (∀ b va pa e, walking s b = some (fn, va) → walk s fn va = .leaf pa e → eState e = 1 → ok (.walkReturn b) fun t => (fn, va) ∉ (t.getB b).misses) ∧
    (∀ b, ok (.tlbiPage fn) (fun t => t.tlbiBusy = false ∧ ∀ e ∈ (t.getB b).tlb, e ∈ (s.getB b).tlb ∧ ¬(e.fn = fn ∧ (dcGet64 s 0x002B0800).toNat / 2 ^ max e.size 16 = e.base.toNat / 2 ^ max e.size 16)) ∧
      ok (.tlbiFunction fn) (fun t => t.tlbiBusy = false ∧ ∀ e ∈ (t.getB b).tlb, e ∈ (s.getB b).tlb ∧ e.fn ≠ fn) ∧ ok .tlbiAll fun t => t.tlbiBusy = false ∧ (t.getB b).tlb = []) ∧
    (∀ va pa e f, walk s fn va = .leaf pa e → eState e = 0 → eSize e = 0 → cachedMode s fn = false → RingGives s (ringPart s fn) 0 f →
      (∃ b ∈ s.benches, ∃ y ∈ b.2.faults, y.fn = fn ∧ y.va.toNat / 65536 = va.toNat / 65536 ∧ y.failed = none) → (∀ j, j < 8 → (pa + j) / 65536 ≠ f / 65536) → s.lockQ = [] →
      ok (.pageTouch fn va) fun t => t.pa64 pa = eSet e 1 (BitVec.ofNat 64 f)) ∧
    (∀ va m f g, s.moves.find? (fun m => m.fn = fn && m.va = va) = some m → m.after = none → m.newFrame = some f → m.oldFrame = some g → s.pa64 m.entryPa = eMigrating m.before →
      (∀ j, j < 8 → m.entryPa + j < f.toNat ∨ f.toNat + 65536 ≤ m.entryPa + j) →
      2 ^ ((dcGet64 s (0x002B1020 + 0x40 * ringPart s fn)) &&& 0x1F).toNat ≤ ((dcGet s (0x002B1028 + 0x40 * ringPart s fn)) - (dcGet s (0x002B102C + 0x40 * ringPart s fn))).toNat →
      ok (.pageMoveDone fn va) fun t => t.pa64 m.entryPa = m.target ∧ m ∉ t.moves) ∧
    (∀ part, (dcGet s (0x002B1038 + 0x40 * part)).toNat / 65536 ≠ 0 → sget 0 s.decayAt part + 1024 * ((dcGet s (0x002B1038 + 0x40 * part)).toNat / 65536) ≤ s.now →
      ok (.decayPeriod part) fun t => ∀ j n, sfind s.counters j = some n → partOf s (keyFn j) = some part → sfind t.counters j = some (n >>> (1 : Nat))) ∧
    (∀ part val, (∀ e ∈ s.heldFrames, e.1 ≠ part) → ok (.rconsWrite part val) fun t => dcGet t (0x002B102C + 0x40 * part) = val) ∧
    (∀ chan e, e ∈ s.chanChange → e.1 = chan → e.2.2 ≤ s.now → ok (.dotModeChangeDone chan) fun t => e ∉ t.chanChange) ∧
    (∀ slot chan o r desc w xv s2 pa e, let d := bdescOf o.got
      let n := d.len * d.esz
      let row := d.rowVa r
      let via : Via := .bench (benchOf o.core)
      s.getO x slot = some o → o.st = .running → o.body = .bdot desc → o.got ≠ [] → servesOrDrains s x = true → nextRow s fn d o chan = some r → o.cancel = false →
      (∀ c ∈ s.chanChange, c.1 ≠ chan) → chan < 3072 → droopUsed s (chan / 384) < (dcGet s (0x002B2000 + 0x800 * (chan / 384))).toNat →
      row.toNat % 1024 + n ≤ 1024 → opEntry s o.core x slot = none → dcGet s (0x002B1038 + 0x40 * ringPart s fn) &&& 0xFF = 0 → (s.getB (benchOf o.core)).tlb = [] →
      s.lockQ = [] → readVa s via fn row n = .ok w → residuesHold s d ((paOf s fn row).getD 0) w xv = true →
      walk s fn row = .leaf pa e → eState e = 5 → eCfmt e = d.fmt → inDot s chan = true → sfind o.inputs chan = some xv →
      writeVa { s with free := s.free + 1 } via fn (d.out + BitVec.ofNat 64 (4 * r)) (leBytes 4 (bankDot d w xv).toNat) = .ok s2 →
      ok (.bankDotRow x slot chan) fun t => ∃ p, t.getO x slot = some p ∧ p.entry = o.entry + 1 ∧ sget 0 p.recv chan = r + 1) ∧
    (∀ stack t0 n, sfind s.droop stack = some (t0, n) → t0 + 39 ≤ s.now → ok (.droopWindow stack) fun t => sfind t.droop stack = none) ∧
    (∀ (stack : Nat) (val : BitVec 32), let a := dcGet s (0x002B2018 + 0x800 * stack)
      ok (.rowval stack val) fun t => t.mem.byte ((dcGet64 s (0x002B2010 + 0x800 * stack)).toNat + 64 * (a.extractLsb' 6 20).toNat + (a.extractLsb' 0 6).toNat) = val.setWidth 8)

/-- Every event of operations, weight arrays, leases, palette engines, copies and shards has its own effect in a state that meets its
conditions (R213-R215, R220, R223, R224, R226, R229, R237, R242, R243, R245, R260-R266, R272, R297, R406, R407).
Where the spec leaves a point open it follows the model's own readings: notes/assumptions, entries 2, 16, 36, 39. -/
def Obligations.UnitEventsComplete : Prop :=
  ∀ (s : State) (x slot : Nat) (o : Op) (b e k : Nat) (tr : Bool), s.getO x slot = some o →
    let ok (i : Instr) (p : State → Prop) : Prop := ∃ t, exec i s = .next t ∧ p t
    let d := s.getB b
    let g := s.getE e
    let bodyIs (t : State) (q : OpBody) : Prop := ∃ p, t.getO x slot = some p ∧ p.body = q
    (o.st = .waiting → o.fate = .go → kindOf o.body ≠ 8 → ok (.predecessorFinished x slot) fun t => ∃ q, t.getO x slot = some q ∧ q.st = .queued) ∧
    (∀ q node, o.body = .launch q node → classHead s (5, 0) = some (x, slot, o) → (s.getX x).departs = false →
      ok (.operationStart x slot) fun t => ∃ p, t.getO x slot = some p ∧ p.st = .running) ∧
    (∀ first n stage br bc, o.body = .copy first n stage br bc → o.st = .running → servesOrDrains s x = true → n ≤ o.entry →
      ok (.operationComplete x slot) fun t => ∃ q, t.getO x slot = some q ∧ (q.st = .complete ∨ q.st = .retired) ∧ q.code = 0) ∧
    (∀ why : OpFault, o.st = .running → ok (.operationFailure x slot why) fun t => EndedWith t x slot o why.code) ∧
    (o.waits = true → o.since + 1200000 ≤ s.now → o.prio + o.aged < 7 → ok (.priorityAging (.op x slot)) fun t => t.getO x slot = some { o with aged := o.aged + 1, since := s.now }) ∧
    (∀ c, runFree s b = true → claimsToCome s b = false → nextHolder s b = some c → c.bound = false → leasePending s c = false → c.savedAcc = none →
      ok (.arrayRunStart b) fun t => ∃ r, (t.getB b).run = some r ∧ r.k = c.k ∧ r.start = s.now) ∧
    (∀ r, d.run = some r → mayPass s b = true → ((d.claim? r.k).bind fun c => c.partner) = none → ok (.arrayRunLimit b) fun t => (t.getB b).run = none ∧ (t.getB b).lastHolder = some r.k) ∧
    (∀ r rest at_, d.run = some r → r.pending = false → r.reload = none → d.occupied s.now = false → drainOf s b = none → (List.range 4).foldl (fun s k => looseCmd s b k) s = s →
      waitingCmds s b r.k = .wclr at_ :: rest → at_ + 2 ≤ s.now → ok (.arrayCommandStart b) fun t => (t.getB b).acc = [] ∧ (t.getB b).st ≠ .accumulating) ∧
    (∀ a m part f, d.active.find? (cmdDue s) = some a → a.cmd = .op x slot → o.st = .running → o.body = .dot false m → m.part = some part →
      actKind m.et = some f → m.ot = 0 → m.acc = 0 → (part.map (·.1)).Nodup → (∀ e ∈ part, e.1 < m.batch ∧ e.2.length = 256) →
      ok (.arrayCommandComplete b) fun t => a ∉ (t.getB b).active ∧ ∃ p, t.getO x slot = some p ∧ (p.st = .complete ∨ p.st = .retired)) ∧
    (∀ a va s2, drainOf s b = some (a, x, slot, o) → o.body = .wdrainMem va → o.st = .running → d.freeAt ≤ s.now → a.k < 4 → a.row < 255 →
      opEntry s (4 * b + a.k) x slot = none → s.lockQ = [] → d.tlb = [] → sget [] d.utlb a.k = [] → dcGet s (0x002B1038 + 0x40 * ringPart s (s.getX x).fn) &&& 0xFF = 0 →
      writeVa s (.core (4 * b + a.k)) (s.getX x).fn (va + BitVec.ofNat 64 (1024 * a.row)) (((List.range 256).map fun j => sget 0 d.acc (256 * a.row + j)).flatMap fun (v : W32) => leBytes 4 v.toNat) = .ok s2 →
      ok (.drainRowAccepted b) fun t => t.mem = s2.mem ∧ { a with row := a.row + 1 } ∈ (t.getB b).active) ∧
    (∀ r rest t0 trans q n m, d.run = some r → waitingCmds s b r.k = .op x slot :: rest → o.body = .pairDot trans q n (some m) none →
      o.st = .queued → m.arrived = some t0 → t0 + d.pairWait.toNat ≤ s.now → ok (.pairTimeout b) fun t => EndedWith t x slot o 0x32) ∧
    (o.st = .queued → o.body = .lease k false .none none none false → o.issued + 4 ≤ s.now → serves s x = true → (∃ f ∈ kindEngines k, (s.getE f).st ≠ .retired) →
      ok (.leaseQueueEntry x slot) fun t => bodyIs t (.lease k false .waiting none none false)) ∧
    (∀ ph, leaseHead s k = some (x, slot, o) → o.body = .lease k tr ph none none false → o.st = .queued → grantChoice s k = some (e, 0) →
      ok (.leaseGrant k) fun t => (t.getE e).st = .leased ∧ bodyIs t (.lease k tr .held (some e) none false)) ∧
    (g.st = .waking → g.wake ≤ s.now → g.lease = none → leaseHead s (engKind e) = none → ok (.wakeDone e) fun t => (t.getE e).st = .awake) ∧
    (g.st = .leased → g.lease = some (x, slot) → o.body = .lease k tr .held (some e) none false → g.quantum + (dcGet s 0x00270008).toNat ≤ s.now →
      (∀ j, j < 6 → qualifies s e o j = false) → ok (.quantumEnd e) fun t => t.getE e = { g with quantum := s.now }) ∧
    (g.st = .leased → g.lease = some (x, slot) → o.body = .lease k tr .revoking (some e) none false → g.cmd = none → leaseHead s (engKind e) = none →
      (∀ j, j < 6 → j ≠ engKind e → qualifies s e o j = false) → ok (.engineYield e) fun t => (t.getE e).st = .awake ∧ bodyIs t (.lease k tr .waiting none none false)) ∧
    (∀ y n q op l va t0, g.st = .leased → g.lease = some (x, slot) → o.body = .lease k tr .revoking (some e) none false → g.revoke = some t0 →
      t0 + (dcGet s 0x0027000C).toNat ≤ s.now → g.cmd = some (y, n) → (y, n) ≠ (x, slot) → s.getO y n = some q → q.body = .engine op l va true → q.cancel = false →
      ok (.forcedEviction e) fun t => (t.getE e).st = .evicting ∧ (t.getE e).cmd = none ∧ bodyIs t (.lease k tr .evicting (some e) none false)) ∧
    (g.st = .evicting → g.since + 2400 ≤ s.now → g.lease = none → g.budgetCut = true → ok (.scrubDone e) fun t => (t.getE e).st = .asleep) ∧
    (g.st = .awake → g.since + (dcGet s 0x00270010).toNat ≤ s.now → ok (.drowsyTimeout e) fun t => (t.getE e).st = .drowsy) ∧
    (g.st = .drowsy → g.since + (dcGet s 0x00270014).toNat ≤ s.now → ok (.sleepTimeout e) fun t => (t.getE e).st = .asleep) ∧
    (∀ op l va res, o.body = .engine op l va res → nextCommand s e = some (x, slot, o) → o.got ≠ [] →
      ok (.engineCommandStart e) fun t => (t.getE e).cmd = some (x, slot) ∧ ∃ p, t.getO x slot = some p ∧ p.st = .running) ∧
    (∀ op l va res s1 deliv zfill pos, o.body = .engine op l va res → g.cmd = some (x, slot) → o.st = .running → servesOrDrains s x = true → o.got ≠ [] → cmdKind op.toNat ≠ 0 →
      o.entry < o.desc.units → o.next ≤ s.now → o.cancel = false → engineUnit s o.core x slot o.desc o.entry o.bitmap.toNat = .done s1 deliv zfill pos → s1.getO x slot = some o →
      ok (.engineUnitDone e) fun t => ∃ p, t.getO x slot = some p ∧ p.entry = o.entry + 1) ∧
    (∀ line first n stage br bc l s1,
      let en := (o.entryOf o.entry).1
      let r := (o.entryOf o.entry).2
      let at_ := en.spoff + stage % en.nbuf * en.bstride + 128 * line
      o.st = .running → o.body = .copy first n stage br bc → servesOrDrains s x = true → o.cancel = false → r.sb = false → en.dir = 0 →
      line < en.lines r → o.bitmap.getLsbD line = false → o.next ≤ s.now → opEntry s o.core x (lineSlot slot line) = none → (s.getC o.core).inst = some o.node →
      sget false (s.getC o.core).lines (at_ / 128) = false → at_ % 128 = 0 →
      readPieces s (benchOf o.core) (s.getX x).fn ((List.range 128).map fun i => en.pieces r (en.row0 + stage * en.drow + br.toInt) (en.col0 + stage * en.dcol + bc.toInt) (128 * line + i)) [] = .ok s1 l →
      ok (.copyLineDelivery x slot line) fun t => (t.getC o.core).spadRead at_ 128 = l ∧ sget false (t.getC o.core).lines (at_ / 128) = true) ∧
    (∀ fn n chunk ls s0 s1,
      let h := s.getShard fn n
      let c := shardCfg h.capture
      let size := 4 * c.chunk
      let at_ (va : W64) : W64 := va + BitVec.ofNat 64 (size * chunk)
      let grads := (List.range c.ncontrib).map fun k => c.grad + BitVec.ofNat 64 (4 * (k * c.nparam + chunk * c.chunk))
      let val (j i : Nat) : W32 := (wordsOf (ls.getD j [])).getD i 0
      let grad (i : Nat) : W32 := mulR (tree addR 0 ((List.range c.ncontrib).map fun k => val (2 + k) i)) c.gscale
      let m' (i : Nat) : W32 := addR (mulR c.beta1 (val 1 i)) (grad i)
      h.st = .gathering → chunk < c.chunks → chunk ∉ h.done → (∀ k, k < c.ncontrib → chunk * c.ncontrib + k ∈ h.bitmap) → c.alg = 1 → c.pubet = 8 →
      readAreas s fn size ([at_ c.w, at_ c.m] ++ grads) = .inr ls →
      writeVa s .device fn (at_ c.w) (bytesOf ((List.range c.chunk).map fun i => fsub 0 0 (val 0 i) (mulR c.lr (addR (m' i) (mulR c.wd (val 0 i)))))) = .ok s0 →
      writeVa s0 .device fn (at_ c.m) (bytesOf ((List.range c.chunk).map m')) = .ok s1 →
      exec (.chunkApply fn n chunk) s = .next (s1.putShard fn n { h with done := chunk :: h.done, ndone := h.ndone + 1 }))

/-- Every event of queues and their nodes, of instances, of the scanner, of contexts and of migration has its own effect in a state that
meets its conditions (R58, R283, R287, R289, R300, R305, R326-R334, R341, R342, R345, R349, R351-R357).
Where the spec leaves a point open it follows the model's own readings: notes/assumptions, entries 16, 21, 22, 40, 41. -/
def Obligations.ContextEventsComplete : Prop :=
  ∀ (s : State) (x q seq fn : Nat),
    let ok (i : Instr) (p : State → Prop) : Prop := ∃ t, exec i s = .next t ∧ p t
    let c := s.getX x
    let m := s.getQ x q
    let key : InstKey := { ctx := x, q := q, seq := seq }
    let tells (t : State) (result : Byte) : Prop := t.scan.busy = false ∧ t.scan.result = result
    let live : Prop := serves s x = true ∧ m.frozen = none
    -- the scanner
    (s.scan.busy = true →
      (∀ frames h fr l i, opEntry s 384 scanCtx 0 = none → scanPages s fn false s.scan.va (segPages s.scan.va 0x90) = .ok frames → readVa s .device fn s.scan.va 0x90 = .ok h →
        headerBreaks s.scan.va h = none → scanPages s fn true s.scan.va (segPages s.scan.va (field h 8 4)) = .ok fr → readVa s .device fn s.scan.va (field h 8 4) = .ok l →
        digestOk l = true → scanFails (segOf l) = none → scanTab s fn ≠ 0 → scanSlot (scanRecords s fn) s.scan.va = some i →
        ok (.scanAdmit fn) fun t => tells t 0 ∧ (sget [] t.admitted fn).getD i none = some { va := s.scan.va, length := BitVec.ofNat 32 (field h 8 4), frames := fr }) ∧
      (∀ i a, (scanRecords s fn)[i]? = some (some a) → a.va = s.scan.va → (∀ j b, j < i → (scanRecords s fn)[j]? = some (some b) → b.va ≠ s.scan.va) →
        ok (.withdraw fn) fun t => tells t 0 ∧ (sget [] t.admitted fn).getD i none = none) ∧
      ok (.withdrawAll fn) fun t => tells t 0 ∧ sget [] t.admitted fn = []) ∧
    -- instances
    (s.lastRound + 2400 ≤ s.now → candidates s = [] → ok .dispatcherRound fun t => t.lastRound = s.now) ∧
    (∀ i, s.getInst key = some i →
      (i.st = .admitted → i.cores ≠ [] → serves s x = true → i.dLevel = none → codePages x c.fn (nodeKey q seq 2) i i.frames.zipIdx s = .ok s () →
        ok (.residencyDone x q seq) fun t => t.getInst key = some { i with st := .resident }) ∧
      (∀ g k, i.st = .resident → i.cores[g]? = some k → k ∉ i.startedCores → serves s x = true → c.departs = false →
        ok (.nodeStart x q seq g) fun t => (t.getC k).started = true ∧ ∃ j, t.getInst key = some j ∧ j.startedCores = i.startedCores ++ [k]) ∧
      (∀ n, i.st = .running → c.halt = none → i.cores ≠ [] → (∀ k ∈ i.cores, (s.getC k).allStopped = true ∧ (s.getC k).away = false) → nodeOps s key = [] → upperOpen s key = false →
        (∀ k ∈ i.cores, (s.getC k).flight = []) → s.getNode x q seq = some n → n.st = .running → n.fault = none →
        ok (.nodeEnd x q seq) fun t => t.getInst key = none ∧ ∃ p, t.getNode x q seq = some p ∧ p.fault = some 0)) ∧
    (∀ id u, c.pg? id = some u → u.st = .forming → u.since + 12000000 ≤ s.now → ok (.formationTimeout x id) fun t => ∃ v, (t.getX x).pg? id = some v ∧ v.st = .dissolved) ∧
    -- queues and nodes
    (∀ n, s.getNode x q seq = some n →
      (n.st = .pending → n.fault = none → live → m.visible seq = true → n.remaining = 0 → m.releases = true → n.kind ≠ 2 →
        ok (.nodeRelease x q seq) fun t => t.getNode x q seq = some { n with st := .ready, readyAt := s.now, aged := 0 }) ∧
      (n.done = false → n.st = .running → n.fault = some 0 → n.kind ≠ 2 → ok (.nodeFinish x q seq) fun t => ∀ p, t.getNode x q seq = some p → p.st = .complete ∧ p.code = 0 ∧ p.done = true) ∧
      (∀ e, n.fault = none → n.done = false → n.kind = 1 → n.st = .ready → mayStart s x q = true → nodeEngine s (nodeEff m n) = some e →
        ok (.copyNodeRun x q seq) fun t => t.getNode x q seq = some { n with st := .running, engine := some e }) ∧
      (∀ s2 r, n.fault = none → n.done = false → n.kind = 3 → n.st = .running → servesOrDrains s x = true → s.lockQ = [] → field n.bytes 0x30 1 = 0 →
        opWrite s 384 x (nodeKey q seq 1) (n.word 0x20) (leBytes 8 (n.word 0x28).toNat) = .ok s2 r →
        ok (.signalNodeRun x q seq) fun t => t.mem = s2.mem ∧ t.getNode x q seq = some { n with fault := some 0, foff := 0 }) ∧
      (∀ s2 l, n.fault = none → n.done = false → n.kind = 4 → n.st = .running → servesOrDrains s x = true → opRead s 384 x (nodeKey q seq 1) (n.word 0x20) 8 = .ok s2 l →
        field n.bytes 0x30 1 = 0 → (n.word 0x28).toNat ≤ leNat l → ok (.waitNodeSatisfied x q seq) fun t => t.getNode x q seq = some { n with fault := some 0, foff := 0 })) ∧
    (∀ v : W32, c.st ≠ .free → m.frozen = none → m.st = .active → m.enable = true → m.devapp = false → v ≠ m.tail → (v - m.tail).toNat ≤ m.size - (m.tail - m.prog).toNat →
      ok (.qtailWrite x q v) fun t => (t.getQ x q).tail = v) ∧
    (c.st ≠ .free → c.st ≠ .destroying → m.st = .dead → m.base ≠ 0 → ok (.queueEnableWrite x q true) fun t => (t.getQ x q).st = .empty ∧ (t.getQ x q).enable = true) ∧
    (m.st = .active ∨ m.st = .running → ok (.queueSuspend x q) fun t => t.getQ x q = { m with st := .suspended }) ∧
    (m.st = .suspended → ok (.queueResume x q) fun t => t.getQ x q = { m with st := if m.prog = m.tail then .empty else .active }) ∧
    (m.st = .empty ∨ m.st = .active ∨ m.st = .running ∨ m.st = .suspended → ok (.queueDrain x q) fun t => t.getQ x q = { m with st := .draining }) ∧
    (m.st = .draining → m.frozen = none → m.runs = false → ok (.queueDead x q) fun t => (t.getQ x q).st = .dead ∧ (t.getQ x q).nodes = []) ∧
    (∀ slot o v va s2 s3 r l, s.getO x slot = some o → o.body = .launch v va → o.st = .running → appendAhead s x slot o v = false → v.toNat = q → q < 64 → c.st ≠ .destroying →
      m.st = .active → m.devapp = true → va.toNat % 64 = 0 → opRead s 384 x slot va 64 = .ok s2 l → nodeBreaks l m.size = none → (m.tail - m.prog).toNat < m.size →
      opWrite s2 384 x slot (m.slotVa m.tail.toNat) (l.take 6 ++ [0, 0] ++ (l.drop 8).take 16 ++ leBytes 4 m.tail.toNat ++ l.drop 0x1C) = .ok s3 r →
      ok (.launchAppend x slot) fun t => (t.getQ x q).tail = m.tail + 1 ∧ ∃ p, t.getO x slot = some p ∧ p.index = m.tail) ∧
    -- contexts
    (∀ va l, s.cmd.busy = true → s.cmd.cmd = 1 → fn = (s.cmd.carg.extractLsb' 56 8).toNat → va = s.cmd.carg &&& 0x007FFFFFFFFFFFFF → fn ≤ 0x80 → s.cmd.carg.getLsbD 55 = false →
      va.toNat % 512 = 0 → cmdRead s fn va 512 = .ok s l → x = ctxId fn (field l 8 1) → ctxRecordOk fn l = true → fnEnabled s fn = true → c.st = .free → entombed s fn = false →
      ok .ctxCreate fun t => Answered t 0 ∧ (t.getX x).st = .created ∧ (t.getX x).fn = fn) ∧
    (Asked s 2 x → c.halt = none → c.st = .runnable ∨ c.st = .running → ok (.switchOut x) fun t => (t.getX x).st = .switchingOut ∧ (t.getX x).switchStart = some s.now) ∧
    (∀ k t0, c.switchStart = some t0 → c.departs = true → c.halt = none → (s.getC k).inst.any (fun i => i.ctx = x) = true → (s.getC k).away = false → (s.getC k).dbg.held = false →
      t0 + c.deadline ≤ s.now + 4096 → ok (.preemptWaitExpiry x k) fun t => (t.getC k).away = true) ∧
    (∀ slot o op sh va res, c.departs = true → c.halt = none → coresOn s x = false → pastDeadline s x = true → s.getO x slot = some o → o.body = .engine op sh va res → o.st = .running →
      (c.ops.filter fun e => e.2.st = .running && e.2.body.engine?.isSome) = [(slot, o)] →
      ok (.deadlineExpiry x) fun t => EndedWith t x slot o (if cmdKind op.toNat = 0 then 0x31 else 0x34)) ∧
    (∀ l s2, Asked s 3 x → c.st = .switchedOut → readImages s c c.saved [] = .ok s l → rebindAll ((dropOpEntry s cmdCtx 0).modX x fun c => { c with saved := l }) x = some s2 →
      ok (.switchIn x) fun t => Answered t 0 ∧ (t.getX x).saved = [] ∧ ((t.getX x).st = .created ∨ (t.getX x).st = .runnable ∨ (t.getX x).st = .running)) ∧
    (Asked s 4 x → c.st = .halted → ok (.ctxRecover x) fun t => Answered t 0 ∧ ((t.getX x).st = .created ∨ (t.getX x).st = .runnable ∨ (t.getX x).st = .running)) ∧
    (Asked s 5 x → c.st ≠ .free → c.st ≠ .destroying → ok (.ctxDestroy x) fun t => (t.getX x).st = .destroying) ∧
    (let u : State := ((reportOrphans (dyingArrays s x) x).modX x (fun c => { c with orphans := [] }));
      c.st = .destroying → (∀ e ∈ c.ops, e.2.st ≠ .running) → (∀ b ∈ s.benches, b.2.active = []) → actsWait u x = false → ok (.teardownDone x) fun t => t.getX x = Ctx.reset) ∧
    -- migration
    (Asked s 6 x → c.st ≠ .migratingOut → c.migr = none → c.st ≠ .free → (∀ e ∈ fnCtxs s c.fn, mayLeave e.2 = true) →
      ok (.migrateOut x) fun t => ∃ a, t.outbox = s.outbox ++ [a] ∧ a.kind = 12 ∧ a.dst = s.cmd.carg.extractLsb' 0 15) ∧
    (∀ tfn l, Asked s 7 x → tfn = (s.cmd.carg.extractLsb' 24 8).toNat → c.st = .free → tfn ≤ 0x80 → cmdRead s tfn s.cmd.carg2 512 = .ok s l → ctxId tfn (field l 8 1) = x →
      ctxRecordOk tfn l = true → fnEnabled s tfn = true → entombed s tfn = false → ok (.migrateIn x) fun t => Answered t 0 ∧ (t.getX x).st = .migratingIn) ∧
    (s.cmd.busy = true → s.cmd.cmd = 6 → (s.getX s.cmd.ctx.toNat).fn = fn → (∃ e ∈ fnCtxs s fn, e.2.migr.isSome = true ∧ mayLeave e.2 = true) →
      (∀ e ∈ fnCtxs s fn, e.2.migr.isSome = true → mayLeave e.2 = true → e.2.asked + 12000000 ≤ s.now) → ok (.migrationTargetTimeout fn) fun t => Answered t 6) ∧
    (∀ va pa e y dev tfn, ((leaving s fn).find? fun e => e.2.moved && e.2.halt.isNone) = some y → y.2.migr = some (dev, tfn) → walk s fn va = .leaf pa e →
      eState e ≠ sREMOTE → eState e ≠ sMIGR → (pagesLeft s fn).length ≠ 1 → s.lockQ = [] → holdsRing s fn (BitVec.ofNat 64 (va.toNat / 2 ^ pageBits e * 2 ^ pageBits e)) (pageBits e) = false →
      ok (.pageHandover fn va) fun t => t.pa64 pa = remoteEntry e dev tfn) ∧
    (∀ va pa e tok s2 st f, walk s fn va = .leaf pa e → eState e = sREMOTE → tok.state.toNat ≠ sABSENT → eSize e = 0 → st ≠ sCOMP → tokenFrame s fn tok.state.toNat = (s2, some (st, f)) →
      ok (.ownerTokenArrival fn va tok) fun t => t.pa64 pa = eSet (eWithFmt e 0) st f) ∧
    (∀ e ∈ leaving s fn, (s.getX e.1).halt = none → (s.getX e.1).st = .migratingOut → ok (.migrationAbort fn) fun t => ∃ h, (t.getX e.1).halt = some h ∧ h.code = 0x70) ∧
    (∀ d f at_, (fn, d, f, at_) ∈ s.tombstones → at_ + 1200000 * (dcGet s 0x002A0018).toNat ≤ s.now → ok (.tombstoneLapse fn) fun t => (fn, d, f, at_) ∉ t.tombstones)

/-- Every event of ports, slots and rings, of connections and of messages has its own effect in a state that meets its conditions
(R172, R173, R355, R381-R384, R387-R389, R391, R392, R394-R397, R399-R401, R405, R451, R461).
Where the spec leaves a point open it follows the model's own readings: notes/assumptions, entries 12, 15, 17, 52, 60. -/
def Obligations.FabricEventsComplete : Prop :=
  ∀ (s : State) (q fn peer : Nat) (m : Msg),
    let ok (i : Instr) (p : State → Prop) : Prop := ∃ t, exec i s = .next t ∧ p t
    let p := s.port q
    let c := s.conn fn peer
    let dfn := m.dvf.toNat
    let own : Bool := !ownForward s m
    let answers (t : State) (kind : Byte) (l : List Byte) : Prop := ∃ a, t.outbox = s.outbox ++ [a] ∧ a.kind = kind ∧ a.dst = m.src ∧ a.dvf = m.svf ∧ a.aux = m.aux ∧ a.payload = l
    let served : Prop := tombOf s dfn = none ∧ fnHasCtx s dfn = true ∧ waitsBehind s m = false ∧ opEntry s fabCore fabCtx (msgKey m) = none ∧ vaBad m.va = false ∧ s.lockQ = [] ∧
      dcGet s (0x002B1038 + 0x40 * ringPart s dfn) &&& 0xFF = 0
    -- ports, slots and rings
    (q < 28 →
      (p.st = .down → p.enable = true → ok (.signalDetected q) fun t => (t.port q).st = .training) ∧
      (∀ r : TrainResult, let w := trainedWidth q (trainedBad s q r.bad)
        p.st = .training → r.inBound = true → peerGood q r.peer = true → w ≠ 0 → ok (.trainingEnd q r) fun t => (t.port q).st = .up ∨ (t.port q).st = .degraded) ∧
      (p.st = .up → ok (.retrainTrigger q true) (fun t => (t.port q).st = .retraining) ∧ ok (.retrain q) fun t => (t.port q).st = .retraining) ∧
      ok (.portEnableWrite q false) (fun t => (t.port q).st = .down ∧ (t.port q).enable = false) ∧
      (∀ a f rest, p.st = .up → p.buffer = (a, f) :: rest → ok (.nakReceived q a) (fun t => (t.port q).buffer = rest) ∧
        (p.lastAck + 2048 ≤ s.now → ok (.replayTimeout q) fun t => (t.port q).sent = p.sent ++ p.buffer.map (·.2))) ∧
      (∀ f : BitVec 512, p.st = .up → flitOk f = true → flitType f = 0 → flitSeq f = p.expect → ok (.flitReceived q f) fun t => (t.port q).expect = p.expect + 1)) ∧
    ok .osyncEdge (fun t => t.slots.synced = true ∧ t.slots.next = some (s.now + s.slots.ofs.toNat)) ∧
    (∀ n, s.slots.next = some n → n ≤ s.now → ok .slotStart fun t => t.slots.cur = 0 ∧ t.slots.slotStart = some s.now) ∧
    ok .slotCommit (fun t => t.slots.commit = true) ∧
    (∀ f k (v : W32) (adc : BitVec 12), f < 48 → k < 18 → let g := s.ring f k
      ok (.ringHeatWrite f k v) (fun t => (t.ring f k).dac = v.extractLsb' 0 12 ∧ (t.ring f k).settled = false) ∧
      (g.valid = false → g.settled = false → g.since + 12000 ≤ s.now → ok (.ringSettled f k adc) fun t => (t.ring f k).settled = true) ∧
      (v.extractLsb' 4 2 = (2 : BitVec 2) → g.mode ≠ 2 → ok (.ringMapWrite f k v) fun t => (t.ring f k).mode = 2 ∧ (t.ring f k).wave = v.extractLsb' 0 4)) ∧
    -- connections
    (c.closed = false →
      (c.st = .opening → c.since + (dcGet s 0x00502000).toNat ≤ s.now → ok (.connopenTimeout fn peer) fun t => (t.conn fn peer).closed = true) ∧
      (∀ a r, c.unacked = a :: r → c.st = .openSt → oldestQueued s c = false → sget 0 c.sentAt a.cseq.toNat + (dcGet s 0x00502004).toNat ≤ s.now → c.retries < max 1 (dcGet s 0x00502008).toNat →
        ok (.retransmission fn peer) fun t => (t.conn fn peer).retries = c.retries + 1) ∧
      (c.st = .openSt → c.waiting = [] → c.lastUsed + (dcGet s 0x0050200C).toNat ≤ s.now → ok (.connidleTimeout fn peer) fun t => (t.conn fn peer).st = .draining) ∧
      (c.st = .reset → c.since + (dcGet s 0x00502010).toNat ≤ s.now → ok (.connbackoffExpiry fn peer) fun t => (t.conn fn peer).st = .opening) ∧
      (c.st = .draining → c.unacked = [] → ok (.connectionDrained fn peer) fun t => (t.conn fn peer).closed = true) ∧
      (wantsRecord s = true → c.spillable s = true → (∀ d ∈ s.conns, Conn.spillable s d = true → c.lastUsed ≤ d.lastUsed) → ok (.connectionSpill fn peer) fun t => (t.conn fn peer).st = .spilled)) ∧
    -- messages
    (m.payload = [2, (s.conn dfn m.src.toNat).epoch] → (s.conn dfn m.src.toNat).closed = false → (s.conn dfn m.src.toNat).st = .opening →
      ok (.msgConnectionControl m) fun t => (t.conn dfn m.src.toNat).st = .openSt) ∧
    (∀ n l, served → n = field m.payload 0 2 → n ≠ 0 → readFrom s .device dfn .rd own (n / 65536 + 2) m.va n = .ok l → ok (.msgLoad m) fun t => answers t 1 l) ∧
    (∀ n l s2, served → m.kind = 2 → n = m.payload.length → n ≠ 0 → checkFrom s .device dfn .wr own (n / 65536 + 2) m.va n = .ok l →
      writePerm (endRequest s m) .device dfn .wr own m.va m.payload = .ok s2 → ok (.msgStore m) fun t => answers t 3 [] ∧ t.mem = s2.mem) ∧
    (∀ old, served → m.kind = 4 → field m.payload 0 1 = 10 → readFrom s .device dfn .wr own 2 m.va 8 = .ok old → lockHeld (BitVec.ofNat 64 (leNat old)) = true →
      ok (.msgAtomic m) fun t => answers t 5 (leBytes 8 0)) ∧
    (∀ i ∈ [Instr.msgLoadReply m, .msgAtomicReply m, .msgStoreAck m], ∀ f, (s.getC (tagCore m.aux)).awaits m.aux = some f →
      ok i fun t => ∃ g ∈ (t.getC (tagCore m.aux)).flight, g.seq = f.seq ∧ g.fab = none ∧ g.due = some s.now) ∧
    (∀ f, forwarded m.aux = false → (s.getC (tagCore m.aux)).awaits m.aux = some f → field m.payload 3 1 = 0 →
      ok (.msgMoved m) fun t => ∃ a, t.outbox = s.outbox ++ [a] ∧ a.dst = BitVec.ofNat 15 (field m.payload 0 2) ∧ a.payload = m.payload.drop 4) ∧
    (∀ f, (s.getC (tagCore m.aux)).awaits m.aux = some f → m.payload = [0] → ok (.msgRefusal m) fun t => (t.getC (tagCore m.aux)).a.pc = f.pc) ∧
    (∀ x b core, let e := s.getBar x b
      (s.getX x).st ≠ .free → b < 1024 → e.mirror = false → e.scope = 3 → e.st = .openSt → e.arrived.toNat + 1 < e.expect.toNat → m.kind = 7 → m.aux = e.pgid.setWidth 64 →
      m.payload = barPayload 2 e.epoch e.gen core (BitVec.ofNat 32 b) → barHome s dfn b e.pgid = some x → movedAway s dfn = none → s.fabWait.contains m = true →
      ok (.msgBarrier m) fun t => t.getBar x b = { e with arrived := e.arrived + 1 }) ∧
    (∀ r, m.payload = 0 :: r → readyFor s m = true → ok (.msgContextTransfer m) fun t => ∃ a, t.outbox = s.outbox ++ [a] ∧ a.kind = 12 ∧ a.dst = m.src ∧ a.payload = [1]) ∧
    (collByKey s dfn m.aux = none → (∀ e ∈ s.ctxs, e.2.st ≠ .free → e.2.fn = dfn → e.2.pg? (m.aux.extractLsb' 32 32) = none) → m.va ≠ 1 →
      ok (.msgCollective m) (fun t => m ∈ t.collHeld) ∧ ok (.msgAbort m) (fun t => m ∈ t.collHeld) ∧ ok (.parkNotice m) (fun t => { m with va := parkVa } ∈ t.collHeld) ∧
      ok (.resumeNotice m) fun t => { m with va := resumeVa } ∈ t.collHeld) ∧
    (∀ (step : W32) n unit s2,
      let h := s.getShard dfn n
      let c := shardCfg h.capture
      let chunk := 64 * unit / c.chunk
      m.aux = shardKeyOf step.toNat n unit → n < 1024 → unit < 2 ^ 18 → shardTable s dfn ≠ 0 → h.capture ≠ [] → m.va.toNat = c.nparam → 0 < c.chunk → 64 * unit % c.chunk = 0 →
      m.payload.length = 4 * c.chunk → step = h.step → h.st = .armed → chunk < c.chunks → 0 < c.ncontrib → bmIndex c chunk 0 ∉ h.bitmap →
      writeVa s .device dfn (c.grad + BitVec.ofNat 64 (4 * (chunk * c.chunk))) m.payload = .ok s2 →
      ok (.msgShardDelivery m) fun t => (t.getShard dfn n).narrived = h.narrived + 1)

/-- Every event of the device as a whole has its own effect in a state that meets its conditions: resets, self-test, freeze, power and
heat, partitions, functions, CXL ports, the mailbox's commands and register writes (R9, R10, R414-R426, R428).
Where the spec leaves a point open it follows the model's own readings: notes/assumptions, entries 1, 5, 54. -/
def Obligations.DeviceEventsComplete : Prop :=
  ∀ (s : State),
    let ok (i : Instr) (p : State → Prop) : Prop := ∃ t, exec i s = .next t ∧ p t
    let ends (t : State) (r : Byte) : Prop := t.mbox.busy = false ∧ t.mbox.result = r
    (∀ stages m v, bootStages 0 stages 0 0 = (m, v, none) → ok (.coldReset stages) fun t => t.dev = .selftest ∧ t.meas = m ∧ t.svn = v ∧ t.cores = State.reset.cores) ∧
    (s.dev = .ready → ok .warmReset fun t => t.dev = .selftest ∧ t.ctxs = [] ∧ t.cores = State.reset.cores) ∧
    (∀ r : SelfTest, s.dev = .selftest → selfTestFails r = none → ok (.selftestEnd r) fun t => t.dev = .ready) ∧
    ok .freeze (fun t => t.dev = .frozen) ∧ ok .freezeN (fun t => t.dev = .frozen) ∧
    (∀ w : BitVec 12, (dcGet s 0x00700008).toNat < w.toNat → ok (.powerControl w) fun t => t.throttled = true ∧ dcGet t 0x0070000C = w.setWidth 32) ∧
    (∀ d : BitVec 8, d.toNat < 105 → ok (.temperatureLimit d) fun t => dcGet t 0x00700010 = d.setWidth 32 ∧ t.throttled = s.throttled) ∧
    (∀ p, ok (.partitionEnable p) fun t => t.cores = s.cores ∧ t.ctxs = s.ctxs) ∧
    (∀ n, s.dev = .ready → ok (.vfEnable n) fun t => t.vfs = min n 128) ∧
    (∀ p, p < 2 → ok (.cxlPortFailure p) fun t => p ∈ t.cxlFailed) ∧
    (s.dev = .frozen → ok .scanrd fun t => ends t 0) ∧
    (s.dev ≠ .frozen →
      (∀ v, regRead s none (mbNum s 0 4) = some v → ok .dcread fun t => ends t 0 ∧ mbGet t 0 4 = leBytes 4 v.toNat) ∧
      (∀ s2, s.dev ≠ .safe → regWrite s none (mbNum s 0 4) (BitVec.ofNat 32 (mbNum s 4 4)) = some s2 → ok .dcwrite fun t => ends t 0 ∧ t = { s2 with mbox := t.mbox }) ∧
      (256 * mbNum s 0 4 < Config.certLen → ok .idcert fun t => ends t 0) ∧
      ok .quote (fun t => ends t 0 ∧ t.qcount = s.qcount + 1) ∧
      ok .fwstage (fun t => ends t 0 ∧ t.fwImage = some (BitVec.ofNat 64 (4096 * mbNum s 0 4), BitVec.ofNat 32 (mbNum s 4 4))) ∧
      (∀ (a v : W32) (s2 : State), a.toNat < 2 ^ 31 → regWrite s none a.toNat v = some s2 → exec (.registerWrite a v) s = .next s2))

/-- The float words of S, and the words of S, A and X that create operations, complete: a float word gives a result of one register, a
creating word, without an after-handle and out of debug, creates a QUEUED operation whose handle is its result (R114-R116, R217-R223, R234, R236, R238,
R270, R271, R298, R334, R378, R411). The matrix words are those of i8 and e4m3 activations with one input tile. -/
def Obligations.FloatAndCreatingWordsComplete : Prop :=
  ∀ (h : Hdr) (s : State) (slot gen : Nat),
    let c := s.core
    let hd (kind : Nat) : W32 := BitVec.ofNat 32 (gen * 2 ^ 20 + slot * 2 ^ 8 + kind * 2 ^ 4)
    let gives (i : Instr) (g : BitVec 4) (d : BitVec 7) (w lat : Nat) : Prop := Starts i .S h g s →
      ∃ v t, exec i s = .next (finishWord .S h { res := some { val := .scalar v, dest := dstOf .S d w false, lat := lat } } t)
    let creates (i : Instr) (st : StreamId) (d : BitVec 7) (g : BitVec 4) (kind : Nat) : Prop := Starts i st h g s →
      ∃ t, exec i s = .next (finishWord st h { res := some { val := .scalar ((hd kind).setWidth 128), dest := dstOf st d 1 false, lat := 2 } } t) ∧
        ∃ p, t.getO c.ctx slot = some p ∧ p.handle = hd kind ∧ p.st = .queued
    (∀ (o : FR) (a : W128), c.src .S o.a 1 = .ok a →
      gives (.fsqrt h o) o.g o.d 1 14 ∧ (∀ f, tyOf o.t.toNat = .flt f → gives (.fclass h o) o.g o.d 1 2) ∧
      (∀ b, c.src .S o.b 1 = .ok b → gives (.fadd h o) o.g o.d 1 4 ∧ gives (.fsub h o) o.g o.d 1 4 ∧ gives (.fmul h o) o.g o.d 1 4 ∧ gives (.fdiv h o) o.g o.d 1 14 ∧
        gives (.fmin h o) o.g o.d 1 2 ∧ gives (.fmax h o) o.g o.d 1 2 ∧ (∀ e, c.src .S o.c 1 = .ok e → gives (.ffma h o) o.g o.d 1 4) ∧
        ∀ n : Nat, n ≤ 7 → immOf o.c = some (n : Int) → gives (.fcmp h o) o.g o.d 1 2)) ∧
    (∀ (o : FR) (a : W128) (src : Nat), immOf o.c = some (src : Int) → src ≤ 13 → c.src .S o.a (if src = 3 ∨ src = 7 then 2 else 1) = .ok a →
      gives (.fcvt h o) o.g o.d (wideT o.t) 3) ∧
    (FreeSlot (s.getX c.ctx) slot gen → slot < 4096 → gen < 4096 → c.dbg.dbgHold = false →
      (∀ (o : FO) (a b : W128), o.af = 0 →
        (∀ k : Nat, immOf o.a = some (k : Int) → creates (.lease h o) .S o.d o.g 4) ∧
        (c.src .S o.a 1 = .ok a → c.src .S o.b 1 = .ok b → creates (.glzs h o) .S o.d o.g 7) ∧
        (c.src .S o.a 1 = .ok a → c.src .S o.b 2 = .ok b →
          creates (.qlaunch h o) .S o.d o.g 5 ∧
          ∀ e ∈ [(Instr.colrs h o, 0x58, 2), (.colag h o, 0x59, 2), (.colar h o, 0x5A, 2), (.cola2a h o, 0x5B, 2), (.colbc h o, 0x5C, 2), (.colcmb h o, 0x5D, 2),
            (.rtopk h o, 0x5E, 3), (.rplan h o, 0x5F, 3), (.sortkv h o, 0x60, 3), (.gathr h o, 0x61, 3), (.scatr h o, 0x62, 3), (.sfnap h o, 0x63, 3), (.cdpack h o, 0x64, 3), (.cdunpk h o, 0x65, 3)],
            leaseOperand s c.ctx e.2.1 (a.setWidth 32) = none → creates e.1 .S o.d o.g e.2.2) ∧
        (c.aUnpassed = false →
          (∀ inst, s.coreInst c = some inst → c.src .A o.a 1 = .ok a → c.src .A o.b 2 = .ok b → (a.extractLsb' 16 16).toNat ≠ 0 →
            (a.extractLsb' 0 16).toNat + (a.extractLsb' 16 16).toNat ≤ field inst.launch 0x16 2 → creates (.cpy h o) .A o.d o.g 1) ∧
          (c.src .A o.a 2 = .ok a → creates (.bdot h o) .A o.d o.g 6)) ∧
        creates (.wlease h o) .X o.d o.g 4 ∧
        (c.src .X o.a 2 = .ok a → creates (.wload h o) .X o.d o.g 0 ∧ (o.m.getLsbD 0 = false → creates (.wdrain h o) .X o.d o.g 0))) ∧
      (∀ o : FW, let ta := o.ta.toNat
        let tout := o.tout.toNat
        let full (t : Nat) : Prop := (s.shape t).usable = true ∧ (s.shape t).et = o.et.toNat ∧ (s.shape t).rows = (s.shape ta).rows ∧ (s.shape t).cols = 256 ∧ (c.tile t).full = true
        let out (t : Nat) : Prop := (s.shape t).usable = true ∧ (s.shape t).et = (if o.et = 0 then 2 else 8) ∧ (s.shape t).rows = (s.shape ta).rows ∧ (s.shape t).cols = 64 ∧
          c.tileBusy t = false ∧ (c.tile t).full = true
        (o.et = 0x00 ∨ o.et = 0x0B) → o.m.extractLsb' 0 2 = 0 → full ta →
        (o.acc = 0 → (∀ t ∈ [tout, tout + 1, tout + 2, tout + 3], out t) → creates (.wdot h o) .X o.d o.g 0 ∧ creates (.wtdot h o) .X o.d o.g 0) ∧
        (full tout → creates (.wouter h o) .X o.d o.g 0)))
end

