-- ==== Sys2Proof/Laws/State.lean ====
section
/-! SUPPORT. Laws/State.lean: what each named update of the state leaves and changes, one lemma per field, and reading back
what was written, so that no proof unfolds a record update. -/

namespace Sys2Proof.Machine

/-! ## Parts read back -/

theorem sget_sput_same {α : Type} (d : α) (m : Sparse α) (k : Nat) (v : α) : sget d (sput m k v) k = v := by
  induction m with
  | nil => simp [sput, sget]
  | cons e l ih =>
    obtain ⟨a, b⟩ := e
    simp only [sput]
    split_ifs <;> simp_all [sget]

theorem sget_sput_other {α : Type} (d : α) (m : Sparse α) (k j : Nat) (v : α) (h : j ≠ k) : sget d (sput m k v) j = sget d m j := by
  induction m with
  | nil => simp [sput, sget, h]
  | cons e l ih =>
    obtain ⟨a, b⟩ := e
    simp only [sput, sget]
    split_ifs <;> simp only [sget] <;> split_ifs <;> first | rfl | omega | simp_all

@[simp] theorem State.getC_putC (s : State) (k : Nat) (c : Core) : (s.putC k c).getC k = c := sget_sput_same ..
theorem State.getC_putC_other (s : State) (k j : Nat) (c : Core) (h : j ≠ k) : (s.putC k c).getC j = s.getC j := sget_sput_other _ _ _ _ _ h
@[simp] theorem State.core_setCore (s : State) (c : Core) : (s.setCore c).core = c := sget_sput_same ..
theorem State.getC_setCore_other (s : State) (j : Nat) (c : Core) (h : j ≠ s.cur) : (s.setCore c).getC j = s.getC j := sget_sput_other _ _ _ _ _ h
@[simp] theorem State.getB_modB (s : State) (b : Nat) (f : Bench → Bench) : (s.modB b f).getB b = f (s.getB b) := sget_sput_same ..
theorem State.getB_modB_other (s : State) (b j : Nat) (f : Bench → Bench) (h : j ≠ b) : (s.modB b f).getB j = s.getB j := sget_sput_other _ _ _ _ _ h
@[simp] theorem State.getX_modX (s : State) (x : Nat) (f : Ctx → Ctx) : (s.modX x f).getX x = f (s.getX x) := sget_sput_same ..
theorem State.getX_modX_other (s : State) (x j : Nat) (f : Ctx → Ctx) (h : j ≠ x) : (s.modX x f).getX j = s.getX j := sget_sput_other _ _ _ _ _ h
@[simp] theorem State.getE_modE (s : State) (e : Nat) (f : Engine → Engine) : (s.modE e f).getE e = f (s.getE e) := sget_sput_same ..
theorem State.getE_modE_other (s : State) (e j : Nat) (f : Engine → Engine) (h : j ≠ e) : (s.modE e f).getE j = s.getE j := sget_sput_other _ _ _ _ _ h
@[simp] theorem Core.str_setStr (c : Core) (st : StreamId) (m : Stream) : (c.setStr st m).str st = m := by cases st <;> rfl
theorem Core.str_setStr_other (c : Core) (st st' : StreamId) (m : Stream) (h : st' ≠ st) : (c.setStr st m).str st' = c.str st' := by
  cases st <;> cases st' <;> first | rfl | exact absurd rfl h
@[simp] theorem Core.str_modStr (c : Core) (st : StreamId) (f : Stream → Stream) : (c.modStr st f).str st = f (c.str st) := Core.str_setStr ..
theorem Core.str_modStr_other (c : Core) (st st' : StreamId) (f : Stream → Stream) (h : st' ≠ st) : (c.modStr st f).str st' = c.str st' :=
  Core.str_setStr_other _ _ _ _ h

/-! ## `State.putC` -/

@[simp] theorem State.putC_now (s : State) (k : Nat) (c : Core) : (s.putC k c).now = s.now := rfl
@[simp] theorem State.putC_dev (s : State) (k : Nat) (c : Core) : (s.putC k c).dev = s.dev := rfl
@[simp] theorem State.putC_failClass (s : State) (k : Nat) (c : Core) : (s.putC k c).failClass = s.failClass := rfl
@[simp] theorem State.putC_failUnit (s : State) (k : Nat) (c : Core) : (s.putC k c).failUnit = s.failUnit := rfl
@[simp] theorem State.putC_benches (s : State) (k : Nat) (c : Core) : (s.putC k c).benches = s.benches := rfl
@[simp] theorem State.putC_ctxs (s : State) (k : Nat) (c : Core) : (s.putC k c).ctxs = s.ctxs := rfl
@[simp] theorem State.putC_engines (s : State) (k : Nat) (c : Core) : (s.putC k c).engines = s.engines := rfl
@[simp] theorem State.putC_mem (s : State) (k : Nat) (c : Core) : (s.putC k c).mem = s.mem := rfl
@[simp] theorem State.putC_dc (s : State) (k : Nat) (c : Core) : (s.putC k c).dc = s.dc := rfl
@[simp] theorem State.putC_residues (s : State) (k : Nat) (c : Core) : (s.putC k c).residues = s.residues := rfl
@[simp] theorem State.putC_devQ (s : State) (k : Nat) (c : Core) : (s.putC k c).devQ = s.devQ := rfl
@[simp] theorem State.putC_moves (s : State) (k : Nat) (c : Core) : (s.putC k c).moves = s.moves := rfl
@[simp] theorem State.putC_lockQ (s : State) (k : Nat) (c : Core) : (s.putC k c).lockQ = s.lockQ := rfl
@[simp] theorem State.putC_counters (s : State) (k : Nat) (c : Core) : (s.putC k c).counters = s.counters := rfl
@[simp] theorem State.putC_untracked (s : State) (k : Nat) (c : Core) : (s.putC k c).untracked = s.untracked := rfl
@[simp] theorem State.putC_decayAt (s : State) (k : Nat) (c : Core) : (s.putC k c).decayAt = s.decayAt := rfl
@[simp] theorem State.putC_pulled (s : State) (k : Nat) (c : Core) : (s.putC k c).pulled = s.pulled := rfl
@[simp] theorem State.putC_heldFrames (s : State) (k : Nat) (c : Core) : (s.putC k c).heldFrames = s.heldFrames := rfl
@[simp] theorem State.putC_walks (s : State) (k : Nat) (c : Core) : (s.putC k c).walks = s.walks := rfl
@[simp] theorem State.putC_chanChange (s : State) (k : Nat) (c : Core) : (s.putC k c).chanChange = s.chanChange := rfl
@[simp] theorem State.putC_droop (s : State) (k : Nat) (c : Core) : (s.putC k c).droop = s.droop := rfl
@[simp] theorem State.putC_scan (s : State) (k : Nat) (c : Core) : (s.putC k c).scan = s.scan := rfl
@[simp] theorem State.putC_admitted (s : State) (k : Nat) (c : Core) : (s.putC k c).admitted = s.admitted := rfl
@[simp] theorem State.putC_tlbiBusy (s : State) (k : Nat) (c : Core) : (s.putC k c).tlbiBusy = s.tlbiBusy := rfl
@[simp] theorem State.putC_opdbgCtx (s : State) (k : Nat) (c : Core) : (s.putC k c).opdbgCtx = s.opdbgCtx := rfl
@[simp] theorem State.putC_opdbgResult (s : State) (k : Nat) (c : Core) : (s.putC k c).opdbgResult = s.opdbgResult := rfl
@[simp] theorem State.putC_qwinMbox (s : State) (k : Nat) (c : Core) : (s.putC k c).qwinMbox = s.qwinMbox := rfl
@[simp] theorem State.putC_cmd (s : State) (k : Nat) (c : Core) : (s.putC k c).cmd = s.cmd := rfl
@[simp] theorem State.putC_tombstones (s : State) (k : Nat) (c : Core) : (s.putC k c).tombstones = s.tombstones := rfl
@[simp] theorem State.putC_xfer (s : State) (k : Nat) (c : Core) : (s.putC k c).xfer = s.xfer := rfl
@[simp] theorem State.putC_handed (s : State) (k : Nat) (c : Core) : (s.putC k c).handed = s.handed := rfl
@[simp] theorem State.putC_arrived (s : State) (k : Nat) (c : Core) : (s.putC k c).arrived = s.arrived := rfl
@[simp] theorem State.putC_deficit (s : State) (k : Nat) (c : Core) : (s.putC k c).deficit = s.deficit := rfl
@[simp] theorem State.putC_lastRound (s : State) (k : Nat) (c : Core) : (s.putC k c).lastRound = s.lastRound := rfl
@[simp] theorem State.putC_ports (s : State) (k : Nat) (c : Core) : (s.putC k c).ports = s.ports := rfl
@[simp] theorem State.putC_conns (s : State) (k : Nat) (c : Core) : (s.putC k c).conns = s.conns := rfl
@[simp] theorem State.putC_recvs (s : State) (k : Nat) (c : Core) : (s.putC k c).recvs = s.recvs := rfl
@[simp] theorem State.putC_fabWait (s : State) (k : Nat) (c : Core) : (s.putC k c).fabWait = s.fabWait := rfl
@[simp] theorem State.putC_announces (s : State) (k : Nat) (c : Core) : (s.putC k c).announces = s.announces := rfl
@[simp] theorem State.putC_ftc (s : State) (k : Nat) (c : Core) : (s.putC k c).ftc = s.ftc := rfl
@[simp] theorem State.putC_slots (s : State) (k : Nat) (c : Core) : (s.putC k c).slots = s.slots := rfl
@[simp] theorem State.putC_sendq (s : State) (k : Nat) (c : Core) : (s.putC k c).sendq = s.sendq := rfl
@[simp] theorem State.putC_fabOut (s : State) (k : Nat) (c : Core) : (s.putC k c).fabOut = s.fabOut := rfl
@[simp] theorem State.putC_outbox (s : State) (k : Nat) (c : Core) : (s.putC k c).outbox = s.outbox := rfl
@[simp] theorem State.putC_collHeld (s : State) (k : Nat) (c : Core) : (s.putC k c).collHeld = s.collHeld := rfl
@[simp] theorem State.putC_rings (s : State) (k : Nat) (c : Core) : (s.putC k c).rings = s.rings := rfl
@[simp] theorem State.putC_shards (s : State) (k : Nat) (c : Core) : (s.putC k c).shards = s.shards := rfl
@[simp] theorem State.putC_mbox (s : State) (k : Nat) (c : Core) : (s.putC k c).mbox = s.mbox := rfl
@[simp] theorem State.putC_meas (s : State) (k : Nat) (c : Core) : (s.putC k c).meas = s.meas := rfl
@[simp] theorem State.putC_svn (s : State) (k : Nat) (c : Core) : (s.putC k c).svn = s.svn := rfl
@[simp] theorem State.putC_qcount (s : State) (k : Nat) (c : Core) : (s.putC k c).qcount = s.qcount := rfl
@[simp] theorem State.putC_fwImage (s : State) (k : Nat) (c : Core) : (s.putC k c).fwImage = s.fwImage := rfl
@[simp] theorem State.putC_vfs (s : State) (k : Nat) (c : Core) : (s.putC k c).vfs = s.vfs := rfl
@[simp] theorem State.putC_msix (s : State) (k : Nat) (c : Core) : (s.putC k c).msix = s.msix := rfl
@[simp] theorem State.putC_cxlFailed (s : State) (k : Nat) (c : Core) : (s.putC k c).cxlFailed = s.cxlFailed := rfl
@[simp] theorem State.putC_budget (s : State) (k : Nat) (c : Core) : (s.putC k c).budget = s.budget := rfl
@[simp] theorem State.putC_throttled (s : State) (k : Nat) (c : Core) : (s.putC k c).throttled = s.throttled := rfl
@[simp] theorem State.putC_coolSince (s : State) (k : Nat) (c : Core) : (s.putC k c).coolSince = s.coolSince := rfl
@[simp] theorem State.putC_opCount (s : State) (k : Nat) (c : Core) : (s.putC k c).opCount = s.opCount := rfl
@[simp] theorem State.putC_errs (s : State) (k : Nat) (c : Core) : (s.putC k c).errs = s.errs := rfl
@[simp] theorem State.putC_spadErrs (s : State) (k : Nat) (c : Core) : (s.putC k c).spadErrs = s.spadErrs := rfl
@[simp] theorem State.putC_tileErrs (s : State) (k : Nat) (c : Core) : (s.putC k c).tileErrs = s.tileErrs := rfl
@[simp] theorem State.putC_cellErrs (s : State) (k : Nat) (c : Core) : (s.putC k c).cellErrs = s.cellErrs := rfl
@[simp] theorem State.putC_clock0 (s : State) (k : Nat) (c : Core) : (s.putC k c).clock0 = s.clock0 := rfl
@[simp] theorem State.putC_free (s : State) (k : Nat) (c : Core) : (s.putC k c).free = s.free := rfl
@[simp] theorem State.putC_agenda (s : State) (k : Nat) (c : Core) : (s.putC k c).agenda = s.agenda := rfl
@[simp] theorem State.putC_cur (s : State) (k : Nat) (c : Core) : (s.putC k c).cur = s.cur := rfl

/-! ## `State.setCore` -/

@[simp] theorem State.setCore_now (s : State) (c : Core) : (s.setCore c).now = s.now := rfl
@[simp] theorem State.setCore_dev (s : State) (c : Core) : (s.setCore c).dev = s.dev := rfl
@[simp] theorem State.setCore_failClass (s : State) (c : Core) : (s.setCore c).failClass = s.failClass := rfl
@[simp] theorem State.setCore_failUnit (s : State) (c : Core) : (s.setCore c).failUnit = s.failUnit := rfl
@[simp] theorem State.setCore_benches (s : State) (c : Core) : (s.setCore c).benches = s.benches := rfl
@[simp] theorem State.setCore_ctxs (s : State) (c : Core) : (s.setCore c).ctxs = s.ctxs := rfl
@[simp] theorem State.setCore_engines (s : State) (c : Core) : (s.setCore c).engines = s.engines := rfl
@[simp] theorem State.setCore_mem (s : State) (c : Core) : (s.setCore c).mem = s.mem := rfl
@[simp] theorem State.setCore_dc (s : State) (c : Core) : (s.setCore c).dc = s.dc := rfl
@[simp] theorem State.setCore_residues (s : State) (c : Core) : (s.setCore c).residues = s.residues := rfl
@[simp] theorem State.setCore_devQ (s : State) (c : Core) : (s.setCore c).devQ = s.devQ := rfl
@[simp] theorem State.setCore_moves (s : State) (c : Core) : (s.setCore c).moves = s.moves := rfl
@[simp] theorem State.setCore_lockQ (s : State) (c : Core) : (s.setCore c).lockQ = s.lockQ := rfl
@[simp] theorem State.setCore_counters (s : State) (c : Core) : (s.setCore c).counters = s.counters := rfl
@[simp] theorem State.setCore_untracked (s : State) (c : Core) : (s.setCore c).untracked = s.untracked := rfl
@[simp] theorem State.setCore_decayAt (s : State) (c : Core) : (s.setCore c).decayAt = s.decayAt := rfl
@[simp] theorem State.setCore_pulled (s : State) (c : Core) : (s.setCore c).pulled = s.pulled := rfl
@[simp] theorem State.setCore_heldFrames (s : State) (c : Core) : (s.setCore c).heldFrames = s.heldFrames := rfl
@[simp] theorem State.setCore_walks (s : State) (c : Core) : (s.setCore c).walks = s.walks := rfl
@[simp] theorem State.setCore_chanChange (s : State) (c : Core) : (s.setCore c).chanChange = s.chanChange := rfl
@[simp] theorem State.setCore_droop (s : State) (c : Core) : (s.setCore c).droop = s.droop := rfl
@[simp] theorem State.setCore_scan (s : State) (c : Core) : (s.setCore c).scan = s.scan := rfl
@[simp] theorem State.setCore_admitted (s : State) (c : Core) : (s.setCore c).admitted = s.admitted := rfl
@[simp] theorem State.setCore_tlbiBusy (s : State) (c : Core) : (s.setCore c).tlbiBusy = s.tlbiBusy := rfl
@[simp] theorem State.setCore_opdbgCtx (s : State) (c : Core) : (s.setCore c).opdbgCtx = s.opdbgCtx := rfl
@[simp] theorem State.setCore_opdbgResult (s : State) (c : Core) : (s.setCore c).opdbgResult = s.opdbgResult := rfl
@[simp] theorem State.setCore_qwinMbox (s : State) (c : Core) : (s.setCore c).qwinMbox = s.qwinMbox := rfl
@[simp] theorem State.setCore_cmd (s : State) (c : Core) : (s.setCore c).cmd = s.cmd := rfl
@[simp] theorem State.setCore_tombstones (s : State) (c : Core) : (s.setCore c).tombstones = s.tombstones := rfl
@[simp] theorem State.setCore_xfer (s : State) (c : Core) : (s.setCore c).xfer = s.xfer := rfl
@[simp] theorem State.setCore_handed (s : State) (c : Core) : (s.setCore c).handed = s.handed := rfl
@[simp] theorem State.setCore_arrived (s : State) (c : Core) : (s.setCore c).arrived = s.arrived := rfl
@[simp] theorem State.setCore_deficit (s : State) (c : Core) : (s.setCore c).deficit = s.deficit := rfl
@[simp] theorem State.setCore_lastRound (s : State) (c : Core) : (s.setCore c).lastRound = s.lastRound := rfl
@[simp] theorem State.setCore_ports (s : State) (c : Core) : (s.setCore c).ports = s.ports := rfl
@[simp] theorem State.setCore_conns (s : State) (c : Core) : (s.setCore c).conns = s.conns := rfl
@[simp] theorem State.setCore_recvs (s : State) (c : Core) : (s.setCore c).recvs = s.recvs := rfl
@[simp] theorem State.setCore_fabWait (s : State) (c : Core) : (s.setCore c).fabWait = s.fabWait := rfl
@[simp] theorem State.setCore_announces (s : State) (c : Core) : (s.setCore c).announces = s.announces := rfl
@[simp] theorem State.setCore_ftc (s : State) (c : Core) : (s.setCore c).ftc = s.ftc := rfl
@[simp] theorem State.setCore_slots (s : State) (c : Core) : (s.setCore c).slots = s.slots := rfl
@[simp] theorem State.setCore_sendq (s : State) (c : Core) : (s.setCore c).sendq = s.sendq := rfl
@[simp] theorem State.setCore_fabOut (s : State) (c : Core) : (s.setCore c).fabOut = s.fabOut := rfl
@[simp] theorem State.setCore_outbox (s : State) (c : Core) : (s.setCore c).outbox = s.outbox := rfl
@[simp] theorem State.setCore_collHeld (s : State) (c : Core) : (s.setCore c).collHeld = s.collHeld := rfl
@[simp] theorem State.setCore_rings (s : State) (c : Core) : (s.setCore c).rings = s.rings := rfl
@[simp] theorem State.setCore_shards (s : State) (c : Core) : (s.setCore c).shards = s.shards := rfl
@[simp] theorem State.setCore_mbox (s : State) (c : Core) : (s.setCore c).mbox = s.mbox := rfl
@[simp] theorem State.setCore_meas (s : State) (c : Core) : (s.setCore c).meas = s.meas := rfl
@[simp] theorem State.setCore_svn (s : State) (c : Core) : (s.setCore c).svn = s.svn := rfl
@[simp] theorem State.setCore_qcount (s : State) (c : Core) : (s.setCore c).qcount = s.qcount := rfl
@[simp] theorem State.setCore_fwImage (s : State) (c : Core) : (s.setCore c).fwImage = s.fwImage := rfl
@[simp] theorem State.setCore_vfs (s : State) (c : Core) : (s.setCore c).vfs = s.vfs := rfl
@[simp] theorem State.setCore_msix (s : State) (c : Core) : (s.setCore c).msix = s.msix := rfl
@[simp] theorem State.setCore_cxlFailed (s : State) (c : Core) : (s.setCore c).cxlFailed = s.cxlFailed := rfl
@[simp] theorem State.setCore_budget (s : State) (c : Core) : (s.setCore c).budget = s.budget := rfl
@[simp] theorem State.setCore_throttled (s : State) (c : Core) : (s.setCore c).throttled = s.throttled := rfl
@[simp] theorem State.setCore_coolSince (s : State) (c : Core) : (s.setCore c).coolSince = s.coolSince := rfl
@[simp] theorem State.setCore_opCount (s : State) (c : Core) : (s.setCore c).opCount = s.opCount := rfl
@[simp] theorem State.setCore_errs (s : State) (c : Core) : (s.setCore c).errs = s.errs := rfl
@[simp] theorem State.setCore_spadErrs (s : State) (c : Core) : (s.setCore c).spadErrs = s.spadErrs := rfl
@[simp] theorem State.setCore_tileErrs (s : State) (c : Core) : (s.setCore c).tileErrs = s.tileErrs := rfl
@[simp] theorem State.setCore_cellErrs (s : State) (c : Core) : (s.setCore c).cellErrs = s.cellErrs := rfl
@[simp] theorem State.setCore_clock0 (s : State) (c : Core) : (s.setCore c).clock0 = s.clock0 := rfl
@[simp] theorem State.setCore_free (s : State) (c : Core) : (s.setCore c).free = s.free := rfl
@[simp] theorem State.setCore_agenda (s : State) (c : Core) : (s.setCore c).agenda = s.agenda := rfl
@[simp] theorem State.setCore_cur (s : State) (c : Core) : (s.setCore c).cur = s.cur := rfl

/-! ## `State.modB` -/

@[simp] theorem State.modB_now (s : State) (b : Nat) (f : Bench → Bench) : (s.modB b f).now = s.now := rfl
@[simp] theorem State.modB_dev (s : State) (b : Nat) (f : Bench → Bench) : (s.modB b f).dev = s.dev := rfl
@[simp] theorem State.modB_failClass (s : State) (b : Nat) (f : Bench → Bench) : (s.modB b f).failClass = s.failClass := rfl
@[simp] theorem State.modB_failUnit (s : State) (b : Nat) (f : Bench → Bench) : (s.modB b f).failUnit = s.failUnit := rfl
@[simp] theorem State.modB_cores (s : State) (b : Nat) (f : Bench → Bench) : (s.modB b f).cores = s.cores := rfl
@[simp] theorem State.modB_ctxs (s : State) (b : Nat) (f : Bench → Bench) : (s.modB b f).ctxs = s.ctxs := rfl
@[simp] theorem State.modB_engines (s : State) (b : Nat) (f : Bench → Bench) : (s.modB b f).engines = s.engines := rfl
@[simp] theorem State.modB_mem (s : State) (b : Nat) (f : Bench → Bench) : (s.modB b f).mem = s.mem := rfl
@[simp] theorem State.modB_dc (s : State) (b : Nat) (f : Bench → Bench) : (s.modB b f).dc = s.dc := rfl
@[simp] theorem State.modB_residues (s : State) (b : Nat) (f : Bench → Bench) : (s.modB b f).residues = s.residues := rfl
@[simp] theorem State.modB_devQ (s : State) (b : Nat) (f : Bench → Bench) : (s.modB b f).devQ = s.devQ := rfl
@[simp] theorem State.modB_moves (s : State) (b : Nat) (f : Bench → Bench) : (s.modB b f).moves = s.moves := rfl
@[simp] theorem State.modB_lockQ (s : State) (b : Nat) (f : Bench → Bench) : (s.modB b f).lockQ = s.lockQ := rfl
@[simp] theorem State.modB_counters (s : State) (b : Nat) (f : Bench → Bench) : (s.modB b f).counters = s.counters := rfl
@[simp] theorem State.modB_untracked (s : State) (b : Nat) (f : Bench → Bench) : (s.modB b f).untracked = s.untracked := rfl
@[simp] theorem State.modB_decayAt (s : State) (b : Nat) (f : Bench → Bench) : (s.modB b f).decayAt = s.decayAt := rfl
@[simp] theorem State.modB_pulled (s : State) (b : Nat) (f : Bench → Bench) : (s.modB b f).pulled = s.pulled := rfl
@[simp] theorem State.modB_heldFrames (s : State) (b : Nat) (f : Bench → Bench) : (s.modB b f).heldFrames = s.heldFrames := rfl
@[simp] theorem State.modB_walks (s : State) (b : Nat) (f : Bench → Bench) : (s.modB b f).walks = s.walks := rfl
@[simp] theorem State.modB_chanChange (s : State) (b : Nat) (f : Bench → Bench) : (s.modB b f).chanChange = s.chanChange := rfl
@[simp] theorem State.modB_droop (s : State) (b : Nat) (f : Bench → Bench) : (s.modB b f).droop = s.droop := rfl
@[simp] theorem State.modB_scan (s : State) (b : Nat) (f : Bench → Bench) : (s.modB b f).scan = s.scan := rfl
@[simp] theorem State.modB_admitted (s : State) (b : Nat) (f : Bench → Bench) : (s.modB b f).admitted = s.admitted := rfl
@[simp] theorem State.modB_tlbiBusy (s : State) (b : Nat) (f : Bench → Bench) : (s.modB b f).tlbiBusy = s.tlbiBusy := rfl
@[simp] theorem State.modB_opdbgCtx (s : State) (b : Nat) (f : Bench → Bench) : (s.modB b f).opdbgCtx = s.opdbgCtx := rfl
@[simp] theorem State.modB_opdbgResult (s : State) (b : Nat) (f : Bench → Bench) : (s.modB b f).opdbgResult = s.opdbgResult := rfl
@[simp] theorem State.modB_qwinMbox (s : State) (b : Nat) (f : Bench → Bench) : (s.modB b f).qwinMbox = s.qwinMbox := rfl
@[simp] theorem State.modB_cmd (s : State) (b : Nat) (f : Bench → Bench) : (s.modB b f).cmd = s.cmd := rfl
@[simp] theorem State.modB_tombstones (s : State) (b : Nat) (f : Bench → Bench) : (s.modB b f).tombstones = s.tombstones := rfl
@[simp] theorem State.modB_xfer (s : State) (b : Nat) (f : Bench → Bench) : (s.modB b f).xfer = s.xfer := rfl
@[simp] theorem State.modB_handed (s : State) (b : Nat) (f : Bench → Bench) : (s.modB b f).handed = s.handed := rfl
@[simp] theorem State.modB_arrived (s : State) (b : Nat) (f : Bench → Bench) : (s.modB b f).arrived = s.arrived := rfl
@[simp] theorem State.modB_deficit (s : State) (b : Nat) (f : Bench → Bench) : (s.modB b f).deficit = s.deficit := rfl
@[simp] theorem State.modB_lastRound (s : State) (b : Nat) (f : Bench → Bench) : (s.modB b f).lastRound = s.lastRound := rfl
@[simp] theorem State.modB_ports (s : State) (b : Nat) (f : Bench → Bench) : (s.modB b f).ports = s.ports := rfl
@[simp] theorem State.modB_conns (s : State) (b : Nat) (f : Bench → Bench) : (s.modB b f).conns = s.conns := rfl
@[simp] theorem State.modB_recvs (s : State) (b : Nat) (f : Bench → Bench) : (s.modB b f).recvs = s.recvs := rfl
@[simp] theorem State.modB_fabWait (s : State) (b : Nat) (f : Bench → Bench) : (s.modB b f).fabWait = s.fabWait := rfl
@[simp] theorem State.modB_announces (s : State) (b : Nat) (f : Bench → Bench) : (s.modB b f).announces = s.announces := rfl
@[simp] theorem State.modB_ftc (s : State) (b : Nat) (f : Bench → Bench) : (s.modB b f).ftc = s.ftc := rfl
@[simp] theorem State.modB_slots (s : State) (b : Nat) (f : Bench → Bench) : (s.modB b f).slots = s.slots := rfl
@[simp] theorem State.modB_sendq (s : State) (b : Nat) (f : Bench → Bench) : (s.modB b f).sendq = s.sendq := rfl
@[simp] theorem State.modB_fabOut (s : State) (b : Nat) (f : Bench → Bench) : (s.modB b f).fabOut = s.fabOut := rfl
@[simp] theorem State.modB_outbox (s : State) (b : Nat) (f : Bench → Bench) : (s.modB b f).outbox = s.outbox := rfl
@[simp] theorem State.modB_collHeld (s : State) (b : Nat) (f : Bench → Bench) : (s.modB b f).collHeld = s.collHeld := rfl
@[simp] theorem State.modB_rings (s : State) (b : Nat) (f : Bench → Bench) : (s.modB b f).rings = s.rings := rfl
@[simp] theorem State.modB_shards (s : State) (b : Nat) (f : Bench → Bench) : (s.modB b f).shards = s.shards := rfl
@[simp] theorem State.modB_mbox (s : State) (b : Nat) (f : Bench → Bench) : (s.modB b f).mbox = s.mbox := rfl
@[simp] theorem State.modB_meas (s : State) (b : Nat) (f : Bench → Bench) : (s.modB b f).meas = s.meas := rfl
@[simp] theorem State.modB_svn (s : State) (b : Nat) (f : Bench → Bench) : (s.modB b f).svn = s.svn := rfl
@[simp] theorem State.modB_qcount (s : State) (b : Nat) (f : Bench → Bench) : (s.modB b f).qcount = s.qcount := rfl
@[simp] theorem State.modB_fwImage (s : State) (b : Nat) (f : Bench → Bench) : (s.modB b f).fwImage = s.fwImage := rfl
@[simp] theorem State.modB_vfs (s : State) (b : Nat) (f : Bench → Bench) : (s.modB b f).vfs = s.vfs := rfl
@[simp] theorem State.modB_msix (s : State) (b : Nat) (f : Bench → Bench) : (s.modB b f).msix = s.msix := rfl
@[simp] theorem State.modB_cxlFailed (s : State) (b : Nat) (f : Bench → Bench) : (s.modB b f).cxlFailed = s.cxlFailed := rfl
@[simp] theorem State.modB_budget (s : State) (b : Nat) (f : Bench → Bench) : (s.modB b f).budget = s.budget := rfl
@[simp] theorem State.modB_throttled (s : State) (b : Nat) (f : Bench → Bench) : (s.modB b f).throttled = s.throttled := rfl
@[simp] theorem State.modB_coolSince (s : State) (b : Nat) (f : Bench → Bench) : (s.modB b f).coolSince = s.coolSince := rfl
@[simp] theorem State.modB_opCount (s : State) (b : Nat) (f : Bench → Bench) : (s.modB b f).opCount = s.opCount := rfl
@[simp] theorem State.modB_errs (s : State) (b : Nat) (f : Bench → Bench) : (s.modB b f).errs = s.errs := rfl
@[simp] theorem State.modB_spadErrs (s : State) (b : Nat) (f : Bench → Bench) : (s.modB b f).spadErrs = s.spadErrs := rfl
@[simp] theorem State.modB_tileErrs (s : State) (b : Nat) (f : Bench → Bench) : (s.modB b f).tileErrs = s.tileErrs := rfl
@[simp] theorem State.modB_cellErrs (s : State) (b : Nat) (f : Bench → Bench) : (s.modB b f).cellErrs = s.cellErrs := rfl
@[simp] theorem State.modB_clock0 (s : State) (b : Nat) (f : Bench → Bench) : (s.modB b f).clock0 = s.clock0 := rfl
@[simp] theorem State.modB_free (s : State) (b : Nat) (f : Bench → Bench) : (s.modB b f).free = s.free := rfl
@[simp] theorem State.modB_agenda (s : State) (b : Nat) (f : Bench → Bench) : (s.modB b f).agenda = s.agenda := rfl
@[simp] theorem State.modB_cur (s : State) (b : Nat) (f : Bench → Bench) : (s.modB b f).cur = s.cur := rfl

/-! ## `State.modX` -/

@[simp] theorem State.modX_now (s : State) (x : Nat) (f : Ctx → Ctx) : (s.modX x f).now = s.now := rfl
@[simp] theorem State.modX_dev (s : State) (x : Nat) (f : Ctx → Ctx) : (s.modX x f).dev = s.dev := rfl
@[simp] theorem State.modX_failClass (s : State) (x : Nat) (f : Ctx → Ctx) : (s.modX x f).failClass = s.failClass := rfl
@[simp] theorem State.modX_failUnit (s : State) (x : Nat) (f : Ctx → Ctx) : (s.modX x f).failUnit = s.failUnit := rfl
@[simp] theorem State.modX_cores (s : State) (x : Nat) (f : Ctx → Ctx) : (s.modX x f).cores = s.cores := rfl
@[simp] theorem State.modX_benches (s : State) (x : Nat) (f : Ctx → Ctx) : (s.modX x f).benches = s.benches := rfl
@[simp] theorem State.modX_engines (s : State) (x : Nat) (f : Ctx → Ctx) : (s.modX x f).engines = s.engines := rfl
@[simp] theorem State.modX_mem (s : State) (x : Nat) (f : Ctx → Ctx) : (s.modX x f).mem = s.mem := rfl
@[simp] theorem State.modX_dc (s : State) (x : Nat) (f : Ctx → Ctx) : (s.modX x f).dc = s.dc := rfl
@[simp] theorem State.modX_residues (s : State) (x : Nat) (f : Ctx → Ctx) : (s.modX x f).residues = s.residues := rfl
@[simp] theorem State.modX_devQ (s : State) (x : Nat) (f : Ctx → Ctx) : (s.modX x f).devQ = s.devQ := rfl
@[simp] theorem State.modX_moves (s : State) (x : Nat) (f : Ctx → Ctx) : (s.modX x f).moves = s.moves := rfl
@[simp] theorem State.modX_lockQ (s : State) (x : Nat) (f : Ctx → Ctx) : (s.modX x f).lockQ = s.lockQ := rfl
@[simp] theorem State.modX_counters (s : State) (x : Nat) (f : Ctx → Ctx) : (s.modX x f).counters = s.counters := rfl
@[simp] theorem State.modX_untracked (s : State) (x : Nat) (f : Ctx → Ctx) : (s.modX x f).untracked = s.untracked := rfl
@[simp] theorem State.modX_decayAt (s : State) (x : Nat) (f : Ctx → Ctx) : (s.modX x f).decayAt = s.decayAt := rfl
@[simp] theorem State.modX_pulled (s : State) (x : Nat) (f : Ctx → Ctx) : (s.modX x f).pulled = s.pulled := rfl
@[simp] theorem State.modX_heldFrames (s : State) (x : Nat) (f : Ctx → Ctx) : (s.modX x f).heldFrames = s.heldFrames := rfl
@[simp] theorem State.modX_walks (s : State) (x : Nat) (f : Ctx → Ctx) : (s.modX x f).walks = s.walks := rfl
@[simp] theorem State.modX_chanChange (s : State) (x : Nat) (f : Ctx → Ctx) : (s.modX x f).chanChange = s.chanChange := rfl
@[simp] theorem State.modX_droop (s : State) (x : Nat) (f : Ctx → Ctx) : (s.modX x f).droop = s.droop := rfl
@[simp] theorem State.modX_scan (s : State) (x : Nat) (f : Ctx → Ctx) : (s.modX x f).scan = s.scan := rfl
@[simp] theorem State.modX_admitted (s : State) (x : Nat) (f : Ctx → Ctx) : (s.modX x f).admitted = s.admitted := rfl
@[simp] theorem State.modX_tlbiBusy (s : State) (x : Nat) (f : Ctx → Ctx) : (s.modX x f).tlbiBusy = s.tlbiBusy := rfl
@[simp] theorem State.modX_opdbgCtx (s : State) (x : Nat) (f : Ctx → Ctx) : (s.modX x f).opdbgCtx = s.opdbgCtx := rfl
@[simp] theorem State.modX_opdbgResult (s : State) (x : Nat) (f : Ctx → Ctx) : (s.modX x f).opdbgResult = s.opdbgResult := rfl
@[simp] theorem State.modX_qwinMbox (s : State) (x : Nat) (f : Ctx → Ctx) : (s.modX x f).qwinMbox = s.qwinMbox := rfl
@[simp] theorem State.modX_cmd (s : State) (x : Nat) (f : Ctx → Ctx) : (s.modX x f).cmd = s.cmd := rfl
@[simp] theorem State.modX_tombstones (s : State) (x : Nat) (f : Ctx → Ctx) : (s.modX x f).tombstones = s.tombstones := rfl
@[simp] theorem State.modX_xfer (s : State) (x : Nat) (f : Ctx → Ctx) : (s.modX x f).xfer = s.xfer := rfl
@[simp] theorem State.modX_handed (s : State) (x : Nat) (f : Ctx → Ctx) : (s.modX x f).handed = s.handed := rfl
@[simp] theorem State.modX_arrived (s : State) (x : Nat) (f : Ctx → Ctx) : (s.modX x f).arrived = s.arrived := rfl
@[simp] theorem State.modX_deficit (s : State) (x : Nat) (f : Ctx → Ctx) : (s.modX x f).deficit = s.deficit := rfl
@[simp] theorem State.modX_lastRound (s : State) (x : Nat) (f : Ctx → Ctx) : (s.modX x f).lastRound = s.lastRound := rfl
@[simp] theorem State.modX_ports (s : State) (x : Nat) (f : Ctx → Ctx) : (s.modX x f).ports = s.ports := rfl
@[simp] theorem State.modX_conns (s : State) (x : Nat) (f : Ctx → Ctx) : (s.modX x f).conns = s.conns := rfl
@[simp] theorem State.modX_recvs (s : State) (x : Nat) (f : Ctx → Ctx) : (s.modX x f).recvs = s.recvs := rfl
@[simp] theorem State.modX_fabWait (s : State) (x : Nat) (f : Ctx → Ctx) : (s.modX x f).fabWait = s.fabWait := rfl
@[simp] theorem State.modX_announces (s : State) (x : Nat) (f : Ctx → Ctx) : (s.modX x f).announces = s.announces := rfl
@[simp] theorem State.modX_ftc (s : State) (x : Nat) (f : Ctx → Ctx) : (s.modX x f).ftc = s.ftc := rfl
@[simp] theorem State.modX_slots (s : State) (x : Nat) (f : Ctx → Ctx) : (s.modX x f).slots = s.slots := rfl
@[simp] theorem State.modX_sendq (s : State) (x : Nat) (f : Ctx → Ctx) : (s.modX x f).sendq = s.sendq := rfl
@[simp] theorem State.modX_fabOut (s : State) (x : Nat) (f : Ctx → Ctx) : (s.modX x f).fabOut = s.fabOut := rfl
@[simp] theorem State.modX_outbox (s : State) (x : Nat) (f : Ctx → Ctx) : (s.modX x f).outbox = s.outbox := rfl
@[simp] theorem State.modX_collHeld (s : State) (x : Nat) (f : Ctx → Ctx) : (s.modX x f).collHeld = s.collHeld := rfl
@[simp] theorem State.modX_rings (s : State) (x : Nat) (f : Ctx → Ctx) : (s.modX x f).rings = s.rings := rfl
@[simp] theorem State.modX_shards (s : State) (x : Nat) (f : Ctx → Ctx) : (s.modX x f).shards = s.shards := rfl
@[simp] theorem State.modX_mbox (s : State) (x : Nat) (f : Ctx → Ctx) : (s.modX x f).mbox = s.mbox := rfl
@[simp] theorem State.modX_meas (s : State) (x : Nat) (f : Ctx → Ctx) : (s.modX x f).meas = s.meas := rfl
@[simp] theorem State.modX_svn (s : State) (x : Nat) (f : Ctx → Ctx) : (s.modX x f).svn = s.svn := rfl
@[simp] theorem State.modX_qcount (s : State) (x : Nat) (f : Ctx → Ctx) : (s.modX x f).qcount = s.qcount := rfl
@[simp] theorem State.modX_fwImage (s : State) (x : Nat) (f : Ctx → Ctx) : (s.modX x f).fwImage = s.fwImage := rfl
@[simp] theorem State.modX_vfs (s : State) (x : Nat) (f : Ctx → Ctx) : (s.modX x f).vfs = s.vfs := rfl
@[simp] theorem State.modX_msix (s : State) (x : Nat) (f : Ctx → Ctx) : (s.modX x f).msix = s.msix := rfl
@[simp] theorem State.modX_cxlFailed (s : State) (x : Nat) (f : Ctx → Ctx) : (s.modX x f).cxlFailed = s.cxlFailed := rfl
@[simp] theorem State.modX_budget (s : State) (x : Nat) (f : Ctx → Ctx) : (s.modX x f).budget = s.budget := rfl
@[simp] theorem State.modX_throttled (s : State) (x : Nat) (f : Ctx → Ctx) : (s.modX x f).throttled = s.throttled := rfl
@[simp] theorem State.modX_coolSince (s : State) (x : Nat) (f : Ctx → Ctx) : (s.modX x f).coolSince = s.coolSince := rfl
@[simp] theorem State.modX_opCount (s : State) (x : Nat) (f : Ctx → Ctx) : (s.modX x f).opCount = s.opCount := rfl
@[simp] theorem State.modX_errs (s : State) (x : Nat) (f : Ctx → Ctx) : (s.modX x f).errs = s.errs := rfl
@[simp] theorem State.modX_spadErrs (s : State) (x : Nat) (f : Ctx → Ctx) : (s.modX x f).spadErrs = s.spadErrs := rfl
@[simp] theorem State.modX_tileErrs (s : State) (x : Nat) (f : Ctx → Ctx) : (s.modX x f).tileErrs = s.tileErrs := rfl
@[simp] theorem State.modX_cellErrs (s : State) (x : Nat) (f : Ctx → Ctx) : (s.modX x f).cellErrs = s.cellErrs := rfl
@[simp] theorem State.modX_clock0 (s : State) (x : Nat) (f : Ctx → Ctx) : (s.modX x f).clock0 = s.clock0 := rfl
@[simp] theorem State.modX_free (s : State) (x : Nat) (f : Ctx → Ctx) : (s.modX x f).free = s.free := rfl
@[simp] theorem State.modX_agenda (s : State) (x : Nat) (f : Ctx → Ctx) : (s.modX x f).agenda = s.agenda := rfl
@[simp] theorem State.modX_cur (s : State) (x : Nat) (f : Ctx → Ctx) : (s.modX x f).cur = s.cur := rfl

/-! ## `State.modE` -/

@[simp] theorem State.modE_now (s : State) (e : Nat) (f : Engine → Engine) : (s.modE e f).now = s.now := rfl
@[simp] theorem State.modE_dev (s : State) (e : Nat) (f : Engine → Engine) : (s.modE e f).dev = s.dev := rfl
@[simp] theorem State.modE_failClass (s : State) (e : Nat) (f : Engine → Engine) : (s.modE e f).failClass = s.failClass := rfl
@[simp] theorem State.modE_failUnit (s : State) (e : Nat) (f : Engine → Engine) : (s.modE e f).failUnit = s.failUnit := rfl
@[simp] theorem State.modE_cores (s : State) (e : Nat) (f : Engine → Engine) : (s.modE e f).cores = s.cores := rfl
@[simp] theorem State.modE_benches (s : State) (e : Nat) (f : Engine → Engine) : (s.modE e f).benches = s.benches := rfl
@[simp] theorem State.modE_ctxs (s : State) (e : Nat) (f : Engine → Engine) : (s.modE e f).ctxs = s.ctxs := rfl
@[simp] theorem State.modE_mem (s : State) (e : Nat) (f : Engine → Engine) : (s.modE e f).mem = s.mem := rfl
@[simp] theorem State.modE_dc (s : State) (e : Nat) (f : Engine → Engine) : (s.modE e f).dc = s.dc := rfl
@[simp] theorem State.modE_residues (s : State) (e : Nat) (f : Engine → Engine) : (s.modE e f).residues = s.residues := rfl
@[simp] theorem State.modE_devQ (s : State) (e : Nat) (f : Engine → Engine) : (s.modE e f).devQ = s.devQ := rfl
@[simp] theorem State.modE_moves (s : State) (e : Nat) (f : Engine → Engine) : (s.modE e f).moves = s.moves := rfl
@[simp] theorem State.modE_lockQ (s : State) (e : Nat) (f : Engine → Engine) : (s.modE e f).lockQ = s.lockQ := rfl
@[simp] theorem State.modE_counters (s : State) (e : Nat) (f : Engine → Engine) : (s.modE e f).counters = s.counters := rfl
@[simp] theorem State.modE_untracked (s : State) (e : Nat) (f : Engine → Engine) : (s.modE e f).untracked = s.untracked := rfl
@[simp] theorem State.modE_decayAt (s : State) (e : Nat) (f : Engine → Engine) : (s.modE e f).decayAt = s.decayAt := rfl
@[simp] theorem State.modE_pulled (s : State) (e : Nat) (f : Engine → Engine) : (s.modE e f).pulled = s.pulled := rfl
@[simp] theorem State.modE_heldFrames (s : State) (e : Nat) (f : Engine → Engine) : (s.modE e f).heldFrames = s.heldFrames := rfl
@[simp] theorem State.modE_walks (s : State) (e : Nat) (f : Engine → Engine) : (s.modE e f).walks = s.walks := rfl
@[simp] theorem State.modE_chanChange (s : State) (e : Nat) (f : Engine → Engine) : (s.modE e f).chanChange = s.chanChange := rfl
@[simp] theorem State.modE_droop (s : State) (e : Nat) (f : Engine → Engine) : (s.modE e f).droop = s.droop := rfl
@[simp] theorem State.modE_scan (s : State) (e : Nat) (f : Engine → Engine) : (s.modE e f).scan = s.scan := rfl
@[simp] theorem State.modE_admitted (s : State) (e : Nat) (f : Engine → Engine) : (s.modE e f).admitted = s.admitted := rfl
@[simp] theorem State.modE_tlbiBusy (s : State) (e : Nat) (f : Engine → Engine) : (s.modE e f).tlbiBusy = s.tlbiBusy := rfl
@[simp] theorem State.modE_opdbgCtx (s : State) (e : Nat) (f : Engine → Engine) : (s.modE e f).opdbgCtx = s.opdbgCtx := rfl
@[simp] theorem State.modE_opdbgResult (s : State) (e : Nat) (f : Engine → Engine) : (s.modE e f).opdbgResult = s.opdbgResult := rfl
@[simp] theorem State.modE_qwinMbox (s : State) (e : Nat) (f : Engine → Engine) : (s.modE e f).qwinMbox = s.qwinMbox := rfl
@[simp] theorem State.modE_cmd (s : State) (e : Nat) (f : Engine → Engine) : (s.modE e f).cmd = s.cmd := rfl
@[simp] theorem State.modE_tombstones (s : State) (e : Nat) (f : Engine → Engine) : (s.modE e f).tombstones = s.tombstones := rfl
@[simp] theorem State.modE_xfer (s : State) (e : Nat) (f : Engine → Engine) : (s.modE e f).xfer = s.xfer := rfl
@[simp] theorem State.modE_handed (s : State) (e : Nat) (f : Engine → Engine) : (s.modE e f).handed = s.handed := rfl
@[simp] theorem State.modE_arrived (s : State) (e : Nat) (f : Engine → Engine) : (s.modE e f).arrived = s.arrived := rfl
@[simp] theorem State.modE_deficit (s : State) (e : Nat) (f : Engine → Engine) : (s.modE e f).deficit = s.deficit := rfl
@[simp] theorem State.modE_lastRound (s : State) (e : Nat) (f : Engine → Engine) : (s.modE e f).lastRound = s.lastRound := rfl
@[simp] theorem State.modE_ports (s : State) (e : Nat) (f : Engine → Engine) : (s.modE e f).ports = s.ports := rfl
@[simp] theorem State.modE_conns (s : State) (e : Nat) (f : Engine → Engine) : (s.modE e f).conns = s.conns := rfl
@[simp] theorem State.modE_recvs (s : State) (e : Nat) (f : Engine → Engine) : (s.modE e f).recvs = s.recvs := rfl
@[simp] theorem State.modE_fabWait (s : State) (e : Nat) (f : Engine → Engine) : (s.modE e f).fabWait = s.fabWait := rfl
@[simp] theorem State.modE_announces (s : State) (e : Nat) (f : Engine → Engine) : (s.modE e f).announces = s.announces := rfl
@[simp] theorem State.modE_ftc (s : State) (e : Nat) (f : Engine → Engine) : (s.modE e f).ftc = s.ftc := rfl
@[simp] theorem State.modE_slots (s : State) (e : Nat) (f : Engine → Engine) : (s.modE e f).slots = s.slots := rfl
@[simp] theorem State.modE_sendq (s : State) (e : Nat) (f : Engine → Engine) : (s.modE e f).sendq = s.sendq := rfl
@[simp] theorem State.modE_fabOut (s : State) (e : Nat) (f : Engine → Engine) : (s.modE e f).fabOut = s.fabOut := rfl
@[simp] theorem State.modE_outbox (s : State) (e : Nat) (f : Engine → Engine) : (s.modE e f).outbox = s.outbox := rfl
@[simp] theorem State.modE_collHeld (s : State) (e : Nat) (f : Engine → Engine) : (s.modE e f).collHeld = s.collHeld := rfl
@[simp] theorem State.modE_rings (s : State) (e : Nat) (f : Engine → Engine) : (s.modE e f).rings = s.rings := rfl
@[simp] theorem State.modE_shards (s : State) (e : Nat) (f : Engine → Engine) : (s.modE e f).shards = s.shards := rfl
@[simp] theorem State.modE_mbox (s : State) (e : Nat) (f : Engine → Engine) : (s.modE e f).mbox = s.mbox := rfl
@[simp] theorem State.modE_meas (s : State) (e : Nat) (f : Engine → Engine) : (s.modE e f).meas = s.meas := rfl
@[simp] theorem State.modE_svn (s : State) (e : Nat) (f : Engine → Engine) : (s.modE e f).svn = s.svn := rfl
@[simp] theorem State.modE_qcount (s : State) (e : Nat) (f : Engine → Engine) : (s.modE e f).qcount = s.qcount := rfl
@[simp] theorem State.modE_fwImage (s : State) (e : Nat) (f : Engine → Engine) : (s.modE e f).fwImage = s.fwImage := rfl
@[simp] theorem State.modE_vfs (s : State) (e : Nat) (f : Engine → Engine) : (s.modE e f).vfs = s.vfs := rfl
@[simp] theorem State.modE_msix (s : State) (e : Nat) (f : Engine → Engine) : (s.modE e f).msix = s.msix := rfl
@[simp] theorem State.modE_cxlFailed (s : State) (e : Nat) (f : Engine → Engine) : (s.modE e f).cxlFailed = s.cxlFailed := rfl
@[simp] theorem State.modE_budget (s : State) (e : Nat) (f : Engine → Engine) : (s.modE e f).budget = s.budget := rfl
@[simp] theorem State.modE_throttled (s : State) (e : Nat) (f : Engine → Engine) : (s.modE e f).throttled = s.throttled := rfl
@[simp] theorem State.modE_coolSince (s : State) (e : Nat) (f : Engine → Engine) : (s.modE e f).coolSince = s.coolSince := rfl
@[simp] theorem State.modE_opCount (s : State) (e : Nat) (f : Engine → Engine) : (s.modE e f).opCount = s.opCount := rfl
@[simp] theorem State.modE_errs (s : State) (e : Nat) (f : Engine → Engine) : (s.modE e f).errs = s.errs := rfl
@[simp] theorem State.modE_spadErrs (s : State) (e : Nat) (f : Engine → Engine) : (s.modE e f).spadErrs = s.spadErrs := rfl
@[simp] theorem State.modE_tileErrs (s : State) (e : Nat) (f : Engine → Engine) : (s.modE e f).tileErrs = s.tileErrs := rfl
@[simp] theorem State.modE_cellErrs (s : State) (e : Nat) (f : Engine → Engine) : (s.modE e f).cellErrs = s.cellErrs := rfl
@[simp] theorem State.modE_clock0 (s : State) (e : Nat) (f : Engine → Engine) : (s.modE e f).clock0 = s.clock0 := rfl
@[simp] theorem State.modE_free (s : State) (e : Nat) (f : Engine → Engine) : (s.modE e f).free = s.free := rfl
@[simp] theorem State.modE_agenda (s : State) (e : Nat) (f : Engine → Engine) : (s.modE e f).agenda = s.agenda := rfl
@[simp] theorem State.modE_cur (s : State) (e : Nat) (f : Engine → Engine) : (s.modE e f).cur = s.cur := rfl

/-! ## `State.paStore` -/

@[simp] theorem State.paStore_now (s : State) (pa : Nat) (l : List Byte) : (s.paStore pa l).now = s.now := rfl
@[simp] theorem State.paStore_dev (s : State) (pa : Nat) (l : List Byte) : (s.paStore pa l).dev = s.dev := rfl
@[simp] theorem State.paStore_failClass (s : State) (pa : Nat) (l : List Byte) : (s.paStore pa l).failClass = s.failClass := rfl
@[simp] theorem State.paStore_failUnit (s : State) (pa : Nat) (l : List Byte) : (s.paStore pa l).failUnit = s.failUnit := rfl
@[simp] theorem State.paStore_cores (s : State) (pa : Nat) (l : List Byte) : (s.paStore pa l).cores = s.cores := rfl
@[simp] theorem State.paStore_benches (s : State) (pa : Nat) (l : List Byte) : (s.paStore pa l).benches = s.benches := rfl
@[simp] theorem State.paStore_ctxs (s : State) (pa : Nat) (l : List Byte) : (s.paStore pa l).ctxs = s.ctxs := rfl
@[simp] theorem State.paStore_engines (s : State) (pa : Nat) (l : List Byte) : (s.paStore pa l).engines = s.engines := rfl
@[simp] theorem State.paStore_dc (s : State) (pa : Nat) (l : List Byte) : (s.paStore pa l).dc = s.dc := rfl
@[simp] theorem State.paStore_residues (s : State) (pa : Nat) (l : List Byte) : (s.paStore pa l).residues = s.residues := rfl
@[simp] theorem State.paStore_devQ (s : State) (pa : Nat) (l : List Byte) : (s.paStore pa l).devQ = s.devQ := rfl
@[simp] theorem State.paStore_moves (s : State) (pa : Nat) (l : List Byte) : (s.paStore pa l).moves = s.moves := rfl
@[simp] theorem State.paStore_lockQ (s : State) (pa : Nat) (l : List Byte) : (s.paStore pa l).lockQ = s.lockQ := rfl
@[simp] theorem State.paStore_counters (s : State) (pa : Nat) (l : List Byte) : (s.paStore pa l).counters = s.counters := rfl
@[simp] theorem State.paStore_untracked (s : State) (pa : Nat) (l : List Byte) : (s.paStore pa l).untracked = s.untracked := rfl
@[simp] theorem State.paStore_decayAt (s : State) (pa : Nat) (l : List Byte) : (s.paStore pa l).decayAt = s.decayAt := rfl
@[simp] theorem State.paStore_pulled (s : State) (pa : Nat) (l : List Byte) : (s.paStore pa l).pulled = s.pulled := rfl
@[simp] theorem State.paStore_heldFrames (s : State) (pa : Nat) (l : List Byte) : (s.paStore pa l).heldFrames = s.heldFrames := rfl
@[simp] theorem State.paStore_walks (s : State) (pa : Nat) (l : List Byte) : (s.paStore pa l).walks = s.walks := rfl
@[simp] theorem State.paStore_chanChange (s : State) (pa : Nat) (l : List Byte) : (s.paStore pa l).chanChange = s.chanChange := rfl
@[simp] theorem State.paStore_droop (s : State) (pa : Nat) (l : List Byte) : (s.paStore pa l).droop = s.droop := rfl
@[simp] theorem State.paStore_scan (s : State) (pa : Nat) (l : List Byte) : (s.paStore pa l).scan = s.scan := rfl
@[simp] theorem State.paStore_admitted (s : State) (pa : Nat) (l : List Byte) : (s.paStore pa l).admitted = s.admitted := rfl
@[simp] theorem State.paStore_tlbiBusy (s : State) (pa : Nat) (l : List Byte) : (s.paStore pa l).tlbiBusy = s.tlbiBusy := rfl
@[simp] theorem State.paStore_opdbgCtx (s : State) (pa : Nat) (l : List Byte) : (s.paStore pa l).opdbgCtx = s.opdbgCtx := rfl
@[simp] theorem State.paStore_opdbgResult (s : State) (pa : Nat) (l : List Byte) : (s.paStore pa l).opdbgResult = s.opdbgResult := rfl
@[simp] theorem State.paStore_qwinMbox (s : State) (pa : Nat) (l : List Byte) : (s.paStore pa l).qwinMbox = s.qwinMbox := rfl
@[simp] theorem State.paStore_cmd (s : State) (pa : Nat) (l : List Byte) : (s.paStore pa l).cmd = s.cmd := rfl
@[simp] theorem State.paStore_tombstones (s : State) (pa : Nat) (l : List Byte) : (s.paStore pa l).tombstones = s.tombstones := rfl
@[simp] theorem State.paStore_xfer (s : State) (pa : Nat) (l : List Byte) : (s.paStore pa l).xfer = s.xfer := rfl
@[simp] theorem State.paStore_handed (s : State) (pa : Nat) (l : List Byte) : (s.paStore pa l).handed = s.handed := rfl
@[simp] theorem State.paStore_arrived (s : State) (pa : Nat) (l : List Byte) : (s.paStore pa l).arrived = s.arrived := rfl
@[simp] theorem State.paStore_deficit (s : State) (pa : Nat) (l : List Byte) : (s.paStore pa l).deficit = s.deficit := rfl
@[simp] theorem State.paStore_lastRound (s : State) (pa : Nat) (l : List Byte) : (s.paStore pa l).lastRound = s.lastRound := rfl
@[simp] theorem State.paStore_ports (s : State) (pa : Nat) (l : List Byte) : (s.paStore pa l).ports = s.ports := rfl
@[simp] theorem State.paStore_conns (s : State) (pa : Nat) (l : List Byte) : (s.paStore pa l).conns = s.conns := rfl
@[simp] theorem State.paStore_recvs (s : State) (pa : Nat) (l : List Byte) : (s.paStore pa l).recvs = s.recvs := rfl
@[simp] theorem State.paStore_fabWait (s : State) (pa : Nat) (l : List Byte) : (s.paStore pa l).fabWait = s.fabWait := rfl
@[simp] theorem State.paStore_announces (s : State) (pa : Nat) (l : List Byte) : (s.paStore pa l).announces = s.announces := rfl
@[simp] theorem State.paStore_ftc (s : State) (pa : Nat) (l : List Byte) : (s.paStore pa l).ftc = s.ftc := rfl
@[simp] theorem State.paStore_slots (s : State) (pa : Nat) (l : List Byte) : (s.paStore pa l).slots = s.slots := rfl
@[simp] theorem State.paStore_sendq (s : State) (pa : Nat) (l : List Byte) : (s.paStore pa l).sendq = s.sendq := rfl
@[simp] theorem State.paStore_fabOut (s : State) (pa : Nat) (l : List Byte) : (s.paStore pa l).fabOut = s.fabOut := rfl
@[simp] theorem State.paStore_outbox (s : State) (pa : Nat) (l : List Byte) : (s.paStore pa l).outbox = s.outbox := rfl
@[simp] theorem State.paStore_collHeld (s : State) (pa : Nat) (l : List Byte) : (s.paStore pa l).collHeld = s.collHeld := rfl
@[simp] theorem State.paStore_rings (s : State) (pa : Nat) (l : List Byte) : (s.paStore pa l).rings = s.rings := rfl
@[simp] theorem State.paStore_shards (s : State) (pa : Nat) (l : List Byte) : (s.paStore pa l).shards = s.shards := rfl
@[simp] theorem State.paStore_mbox (s : State) (pa : Nat) (l : List Byte) : (s.paStore pa l).mbox = s.mbox := rfl
@[simp] theorem State.paStore_meas (s : State) (pa : Nat) (l : List Byte) : (s.paStore pa l).meas = s.meas := rfl
@[simp] theorem State.paStore_svn (s : State) (pa : Nat) (l : List Byte) : (s.paStore pa l).svn = s.svn := rfl
@[simp] theorem State.paStore_qcount (s : State) (pa : Nat) (l : List Byte) : (s.paStore pa l).qcount = s.qcount := rfl
@[simp] theorem State.paStore_fwImage (s : State) (pa : Nat) (l : List Byte) : (s.paStore pa l).fwImage = s.fwImage := rfl
@[simp] theorem State.paStore_vfs (s : State) (pa : Nat) (l : List Byte) : (s.paStore pa l).vfs = s.vfs := rfl
@[simp] theorem State.paStore_msix (s : State) (pa : Nat) (l : List Byte) : (s.paStore pa l).msix = s.msix := rfl
@[simp] theorem State.paStore_cxlFailed (s : State) (pa : Nat) (l : List Byte) : (s.paStore pa l).cxlFailed = s.cxlFailed := rfl
@[simp] theorem State.paStore_budget (s : State) (pa : Nat) (l : List Byte) : (s.paStore pa l).budget = s.budget := rfl
@[simp] theorem State.paStore_throttled (s : State) (pa : Nat) (l : List Byte) : (s.paStore pa l).throttled = s.throttled := rfl
@[simp] theorem State.paStore_coolSince (s : State) (pa : Nat) (l : List Byte) : (s.paStore pa l).coolSince = s.coolSince := rfl
@[simp] theorem State.paStore_opCount (s : State) (pa : Nat) (l : List Byte) : (s.paStore pa l).opCount = s.opCount := rfl
@[simp] theorem State.paStore_errs (s : State) (pa : Nat) (l : List Byte) : (s.paStore pa l).errs = s.errs := rfl
@[simp] theorem State.paStore_spadErrs (s : State) (pa : Nat) (l : List Byte) : (s.paStore pa l).spadErrs = s.spadErrs := rfl
@[simp] theorem State.paStore_tileErrs (s : State) (pa : Nat) (l : List Byte) : (s.paStore pa l).tileErrs = s.tileErrs := rfl
@[simp] theorem State.paStore_cellErrs (s : State) (pa : Nat) (l : List Byte) : (s.paStore pa l).cellErrs = s.cellErrs := rfl
@[simp] theorem State.paStore_clock0 (s : State) (pa : Nat) (l : List Byte) : (s.paStore pa l).clock0 = s.clock0 := rfl
@[simp] theorem State.paStore_free (s : State) (pa : Nat) (l : List Byte) : (s.paStore pa l).free = s.free := rfl
@[simp] theorem State.paStore_agenda (s : State) (pa : Nat) (l : List Byte) : (s.paStore pa l).agenda = s.agenda := rfl
@[simp] theorem State.paStore_cur (s : State) (pa : Nat) (l : List Byte) : (s.paStore pa l).cur = s.cur := rfl

/-! ## `State.post` -/

@[simp] theorem State.post_now (s : State) (e : Ev) : (s.post e).now = s.now := rfl
@[simp] theorem State.post_dev (s : State) (e : Ev) : (s.post e).dev = s.dev := rfl
@[simp] theorem State.post_failClass (s : State) (e : Ev) : (s.post e).failClass = s.failClass := rfl
@[simp] theorem State.post_failUnit (s : State) (e : Ev) : (s.post e).failUnit = s.failUnit := rfl
@[simp] theorem State.post_cores (s : State) (e : Ev) : (s.post e).cores = s.cores := rfl
@[simp] theorem State.post_benches (s : State) (e : Ev) : (s.post e).benches = s.benches := rfl
@[simp] theorem State.post_ctxs (s : State) (e : Ev) : (s.post e).ctxs = s.ctxs := rfl
@[simp] theorem State.post_engines (s : State) (e : Ev) : (s.post e).engines = s.engines := rfl
@[simp] theorem State.post_mem (s : State) (e : Ev) : (s.post e).mem = s.mem := rfl
@[simp] theorem State.post_dc (s : State) (e : Ev) : (s.post e).dc = s.dc := rfl
@[simp] theorem State.post_residues (s : State) (e : Ev) : (s.post e).residues = s.residues := rfl
@[simp] theorem State.post_devQ (s : State) (e : Ev) : (s.post e).devQ = s.devQ := rfl
@[simp] theorem State.post_moves (s : State) (e : Ev) : (s.post e).moves = s.moves := rfl
@[simp] theorem State.post_lockQ (s : State) (e : Ev) : (s.post e).lockQ = s.lockQ := rfl
@[simp] theorem State.post_counters (s : State) (e : Ev) : (s.post e).counters = s.counters := rfl
@[simp] theorem State.post_untracked (s : State) (e : Ev) : (s.post e).untracked = s.untracked := rfl
@[simp] theorem State.post_decayAt (s : State) (e : Ev) : (s.post e).decayAt = s.decayAt := rfl
@[simp] theorem State.post_pulled (s : State) (e : Ev) : (s.post e).pulled = s.pulled := rfl
@[simp] theorem State.post_heldFrames (s : State) (e : Ev) : (s.post e).heldFrames = s.heldFrames := rfl
@[simp] theorem State.post_walks (s : State) (e : Ev) : (s.post e).walks = s.walks := rfl
@[simp] theorem State.post_chanChange (s : State) (e : Ev) : (s.post e).chanChange = s.chanChange := rfl
@[simp] theorem State.post_droop (s : State) (e : Ev) : (s.post e).droop = s.droop := rfl
@[simp] theorem State.post_scan (s : State) (e : Ev) : (s.post e).scan = s.scan := rfl
@[simp] theorem State.post_admitted (s : State) (e : Ev) : (s.post e).admitted = s.admitted := rfl
@[simp] theorem State.post_tlbiBusy (s : State) (e : Ev) : (s.post e).tlbiBusy = s.tlbiBusy := rfl
@[simp] theorem State.post_opdbgCtx (s : State) (e : Ev) : (s.post e).opdbgCtx = s.opdbgCtx := rfl
@[simp] theorem State.post_opdbgResult (s : State) (e : Ev) : (s.post e).opdbgResult = s.opdbgResult := rfl
@[simp] theorem State.post_qwinMbox (s : State) (e : Ev) : (s.post e).qwinMbox = s.qwinMbox := rfl
@[simp] theorem State.post_cmd (s : State) (e : Ev) : (s.post e).cmd = s.cmd := rfl
@[simp] theorem State.post_tombstones (s : State) (e : Ev) : (s.post e).tombstones = s.tombstones := rfl
@[simp] theorem State.post_xfer (s : State) (e : Ev) : (s.post e).xfer = s.xfer := rfl
@[simp] theorem State.post_handed (s : State) (e : Ev) : (s.post e).handed = s.handed := rfl
@[simp] theorem State.post_arrived (s : State) (e : Ev) : (s.post e).arrived = s.arrived := rfl
@[simp] theorem State.post_deficit (s : State) (e : Ev) : (s.post e).deficit = s.deficit := rfl
@[simp] theorem State.post_lastRound (s : State) (e : Ev) : (s.post e).lastRound = s.lastRound := rfl
@[simp] theorem State.post_ports (s : State) (e : Ev) : (s.post e).ports = s.ports := rfl
@[simp] theorem State.post_conns (s : State) (e : Ev) : (s.post e).conns = s.conns := rfl
@[simp] theorem State.post_recvs (s : State) (e : Ev) : (s.post e).recvs = s.recvs := rfl
@[simp] theorem State.post_fabWait (s : State) (e : Ev) : (s.post e).fabWait = s.fabWait := rfl
@[simp] theorem State.post_announces (s : State) (e : Ev) : (s.post e).announces = s.announces := rfl
@[simp] theorem State.post_ftc (s : State) (e : Ev) : (s.post e).ftc = s.ftc := rfl
@[simp] theorem State.post_slots (s : State) (e : Ev) : (s.post e).slots = s.slots := rfl
@[simp] theorem State.post_sendq (s : State) (e : Ev) : (s.post e).sendq = s.sendq := rfl
@[simp] theorem State.post_fabOut (s : State) (e : Ev) : (s.post e).fabOut = s.fabOut := rfl
@[simp] theorem State.post_outbox (s : State) (e : Ev) : (s.post e).outbox = s.outbox := rfl
@[simp] theorem State.post_collHeld (s : State) (e : Ev) : (s.post e).collHeld = s.collHeld := rfl
@[simp] theorem State.post_rings (s : State) (e : Ev) : (s.post e).rings = s.rings := rfl
@[simp] theorem State.post_shards (s : State) (e : Ev) : (s.post e).shards = s.shards := rfl
@[simp] theorem State.post_mbox (s : State) (e : Ev) : (s.post e).mbox = s.mbox := rfl
@[simp] theorem State.post_meas (s : State) (e : Ev) : (s.post e).meas = s.meas := rfl
@[simp] theorem State.post_svn (s : State) (e : Ev) : (s.post e).svn = s.svn := rfl
@[simp] theorem State.post_qcount (s : State) (e : Ev) : (s.post e).qcount = s.qcount := rfl
@[simp] theorem State.post_fwImage (s : State) (e : Ev) : (s.post e).fwImage = s.fwImage := rfl
@[simp] theorem State.post_vfs (s : State) (e : Ev) : (s.post e).vfs = s.vfs := rfl
@[simp] theorem State.post_msix (s : State) (e : Ev) : (s.post e).msix = s.msix := rfl
@[simp] theorem State.post_cxlFailed (s : State) (e : Ev) : (s.post e).cxlFailed = s.cxlFailed := rfl
@[simp] theorem State.post_budget (s : State) (e : Ev) : (s.post e).budget = s.budget := rfl
@[simp] theorem State.post_throttled (s : State) (e : Ev) : (s.post e).throttled = s.throttled := rfl
@[simp] theorem State.post_coolSince (s : State) (e : Ev) : (s.post e).coolSince = s.coolSince := rfl
@[simp] theorem State.post_opCount (s : State) (e : Ev) : (s.post e).opCount = s.opCount := rfl
@[simp] theorem State.post_errs (s : State) (e : Ev) : (s.post e).errs = s.errs := rfl
@[simp] theorem State.post_spadErrs (s : State) (e : Ev) : (s.post e).spadErrs = s.spadErrs := rfl
@[simp] theorem State.post_tileErrs (s : State) (e : Ev) : (s.post e).tileErrs = s.tileErrs := rfl
@[simp] theorem State.post_cellErrs (s : State) (e : Ev) : (s.post e).cellErrs = s.cellErrs := rfl
@[simp] theorem State.post_clock0 (s : State) (e : Ev) : (s.post e).clock0 = s.clock0 := rfl
@[simp] theorem State.post_free (s : State) (e : Ev) : (s.post e).free = s.free := rfl
@[simp] theorem State.post_cur (s : State) (e : Ev) : (s.post e).cur = s.cur := rfl

/-! ## Streams of a core -/

@[simp] theorem Core.setStr_inst (c : Core) (st : StreamId) (m : Stream) : (c.setStr st m).inst = c.inst := by cases st <;> rfl
@[simp] theorem Core.modStr_inst (c : Core) (st : StreamId) (g : Stream → Stream) : (c.modStr st g).inst = c.inst := by cases st <;> rfl
@[simp] theorem Core.setStr_gidx (c : Core) (st : StreamId) (m : Stream) : (c.setStr st m).gidx = c.gidx := by cases st <;> rfl
@[simp] theorem Core.modStr_gidx (c : Core) (st : StreamId) (g : Stream → Stream) : (c.modStr st g).gidx = c.gidx := by cases st <;> rfl
@[simp] theorem Core.setStr_started (c : Core) (st : StreamId) (m : Stream) : (c.setStr st m).started = c.started := by cases st <;> rfl
@[simp] theorem Core.modStr_started (c : Core) (st : StreamId) (g : Stream → Stream) : (c.modStr st g).started = c.started := by cases st <;> rfl
@[simp] theorem Core.setStr_clk (c : Core) (st : StreamId) (m : Stream) : (c.setStr st m).clk = c.clk := by cases st <;> rfl
@[simp] theorem Core.modStr_clk (c : Core) (st : StreamId) (g : Stream → Stream) : (c.modStr st g).clk = c.clk := by cases st <;> rfl
@[simp] theorem Core.setStr_named (c : Core) (st : StreamId) (m : Stream) : (c.setStr st m).named = c.named := by cases st <;> rfl
@[simp] theorem Core.modStr_named (c : Core) (st : StreamId) (g : Stream → Stream) : (c.modStr st g).named = c.named := by cases st <;> rfl
@[simp] theorem Core.setStr_vecs (c : Core) (st : StreamId) (m : Stream) : (c.setStr st m).vecs = c.vecs := by cases st <;> rfl
@[simp] theorem Core.modStr_vecs (c : Core) (st : StreamId) (g : Stream → Stream) : (c.modStr st g).vecs = c.vecs := by cases st <;> rfl
@[simp] theorem Core.setStr_preds (c : Core) (st : StreamId) (m : Stream) : (c.setStr st m).preds = c.preds := by cases st <;> rfl
@[simp] theorem Core.modStr_preds (c : Core) (st : StreamId) (g : Stream → Stream) : (c.modStr st g).preds = c.preds := by cases st <;> rfl
@[simp] theorem Core.setStr_apreds (c : Core) (st : StreamId) (m : Stream) : (c.setStr st m).apreds = c.apreds := by cases st <;> rfl
@[simp] theorem Core.modStr_apreds (c : Core) (st : StreamId) (g : Stream → Stream) : (c.modStr st g).apreds = c.apreds := by cases st <;> rfl
@[simp] theorem Core.setStr_vpreds (c : Core) (st : StreamId) (m : Stream) : (c.setStr st m).vpreds = c.vpreds := by cases st <;> rfl
@[simp] theorem Core.modStr_vpreds (c : Core) (st : StreamId) (g : Stream → Stream) : (c.modStr st g).vpreds = c.vpreds := by cases st <;> rfl
@[simp] theorem Core.setStr_tokens (c : Core) (st : StreamId) (m : Stream) : (c.setStr st m).tokens = c.tokens := by cases st <;> rfl
@[simp] theorem Core.modStr_tokens (c : Core) (st : StreamId) (g : Stream → Stream) : (c.modStr st g).tokens = c.tokens := by cases st <;> rfl
@[simp] theorem Core.setStr_oq (c : Core) (st : StreamId) (m : Stream) : (c.setStr st m).oq = c.oq := by cases st <;> rfl
@[simp] theorem Core.modStr_oq (c : Core) (st : StreamId) (g : Stream → Stream) : (c.modStr st g).oq = c.oq := by cases st <;> rfl
@[simp] theorem Core.setStr_sq (c : Core) (st : StreamId) (m : Stream) : (c.setStr st m).sq = c.sq := by cases st <;> rfl
@[simp] theorem Core.modStr_sq (c : Core) (st : StreamId) (g : Stream → Stream) : (c.modStr st g).sq = c.sq := by cases st <;> rfl
@[simp] theorem Core.setStr_flight (c : Core) (st : StreamId) (m : Stream) : (c.setStr st m).flight = c.flight := by cases st <;> rfl
@[simp] theorem Core.modStr_flight (c : Core) (st : StreamId) (g : Stream → Stream) : (c.modStr st g).flight = c.flight := by cases st <;> rfl
@[simp] theorem Core.setStr_tileW (c : Core) (st : StreamId) (m : Stream) : (c.setStr st m).tileW = c.tileW := by cases st <;> rfl
@[simp] theorem Core.modStr_tileW (c : Core) (st : StreamId) (g : Stream → Stream) : (c.modStr st g).tileW = c.tileW := by cases st <;> rfl
@[simp] theorem Core.setStr_seqs (c : Core) (st : StreamId) (m : Stream) : (c.setStr st m).seqs = c.seqs := by cases st <;> rfl
@[simp] theorem Core.modStr_seqs (c : Core) (st : StreamId) (g : Stream → Stream) : (c.modStr st g).seqs = c.seqs := by cases st <;> rfl
@[simp] theorem Core.setStr_nextSeq (c : Core) (st : StreamId) (m : Stream) : (c.setStr st m).nextSeq = c.nextSeq := by cases st <;> rfl
@[simp] theorem Core.modStr_nextSeq (c : Core) (st : StreamId) (g : Stream → Stream) : (c.modStr st g).nextSeq = c.nextSeq := by cases st <;> rfl
@[simp] theorem Core.setStr_calls (c : Core) (st : StreamId) (m : Stream) : (c.setStr st m).calls = c.calls := by cases st <;> rfl
@[simp] theorem Core.modStr_calls (c : Core) (st : StreamId) (g : Stream → Stream) : (c.modStr st g).calls = c.calls := by cases st <;> rfl
@[simp] theorem Core.setStr_trioAligns (c : Core) (st : StreamId) (m : Stream) : (c.setStr st m).trioAligns = c.trioAligns := by cases st <;> rfl
@[simp] theorem Core.modStr_trioAligns (c : Core) (st : StreamId) (g : Stream → Stream) : (c.modStr st g).trioAligns = c.trioAligns := by cases st <;> rfl
@[simp] theorem Core.setStr_tsh (c : Core) (st : StreamId) (m : Stream) : (c.setStr st m).tsh = c.tsh := by cases st <;> rfl
@[simp] theorem Core.modStr_tsh (c : Core) (st : StreamId) (g : Stream → Stream) : (c.modStr st g).tsh = c.tsh := by cases st <;> rfl
@[simp] theorem Core.setStr_xseed (c : Core) (st : StreamId) (m : Stream) : (c.setStr st m).xseed = c.xseed := by cases st <;> rfl
@[simp] theorem Core.modStr_xseed (c : Core) (st : StreamId) (g : Stream → Stream) : (c.modStr st g).xseed = c.xseed := by cases st <;> rfl
@[simp] theorem Core.setStr_satslot (c : Core) (st : StreamId) (m : Stream) : (c.setStr st m).satslot = c.satslot := by cases st <;> rfl
@[simp] theorem Core.modStr_satslot (c : Core) (st : StreamId) (g : Stream → Stream) : (c.modStr st g).satslot = c.satslot := by cases st <;> rfl
@[simp] theorem Core.setStr_rmode (c : Core) (st : StreamId) (m : Stream) : (c.setStr st m).rmode = c.rmode := by cases st <;> rfl
@[simp] theorem Core.modStr_rmode (c : Core) (st : StreamId) (g : Stream → Stream) : (c.modStr st g).rmode = c.rmode := by cases st <;> rfl
@[simp] theorem Core.setStr_opprio (c : Core) (st : StreamId) (m : Stream) : (c.setStr st m).opprio = c.opprio := by cases st <;> rfl
@[simp] theorem Core.modStr_opprio (c : Core) (st : StreamId) (g : Stream → Stream) : (c.modStr st g).opprio = c.opprio := by cases st <;> rfl
@[simp] theorem Core.setStr_stage (c : Core) (st : StreamId) (m : Stream) : (c.setStr st m).stage = c.stage := by cases st <;> rfl
@[simp] theorem Core.modStr_stage (c : Core) (st : StreamId) (g : Stream → Stream) : (c.modStr st g).stage = c.stage := by cases st <;> rfl
@[simp] theorem Core.setStr_pairBound (c : Core) (st : StreamId) (m : Stream) : (c.setStr st m).pairBound = c.pairBound := by cases st <;> rfl
@[simp] theorem Core.modStr_pairBound (c : Core) (st : StreamId) (g : Stream → Stream) : (c.modStr st g).pairBound = c.pairBound := by cases st <;> rfl
@[simp] theorem Core.setStr_pairPartner (c : Core) (st : StreamId) (m : Stream) : (c.setStr st m).pairPartner = c.pairPartner := by cases st <;> rfl
@[simp] theorem Core.modStr_pairPartner (c : Core) (st : StreamId) (g : Stream → Stream) : (c.modStr st g).pairPartner = c.pairPartner := by cases st <;> rfl
@[simp] theorem Core.setStr_pmc (c : Core) (st : StreamId) (m : Stream) : (c.setStr st m).pmc = c.pmc := by cases st <;> rfl
@[simp] theorem Core.modStr_pmc (c : Core) (st : StreamId) (g : Stream → Stream) : (c.modStr st g).pmc = c.pmc := by cases st <;> rfl
@[simp] theorem Core.setStr_pmsel (c : Core) (st : StreamId) (m : Stream) : (c.setStr st m).pmsel = c.pmsel := by cases st <;> rfl
@[simp] theorem Core.modStr_pmsel (c : Core) (st : StreamId) (g : Stream → Stream) : (c.modStr st g).pmsel = c.pmsel := by cases st <;> rfl
@[simp] theorem Core.setStr_vgen (c : Core) (st : StreamId) (m : Stream) : (c.setStr st m).vgen = c.vgen := by cases st <;> rfl
@[simp] theorem Core.modStr_vgen (c : Core) (st : StreamId) (g : Stream → Stream) : (c.modStr st g).vgen = c.vgen := by cases st <;> rfl
@[simp] theorem Core.setStr_xgen (c : Core) (st : StreamId) (m : Stream) : (c.setStr st m).xgen = c.xgen := by cases st <;> rfl
@[simp] theorem Core.modStr_xgen (c : Core) (st : StreamId) (g : Stream → Stream) : (c.modStr st g).xgen = c.xgen := by cases st <;> rfl
@[simp] theorem Core.setStr_rowMask (c : Core) (st : StreamId) (m : Stream) : (c.setStr st m).rowMask = c.rowMask := by cases st <;> rfl
@[simp] theorem Core.modStr_rowMask (c : Core) (st : StreamId) (g : Stream → Stream) : (c.modStr st g).rowMask = c.rowMask := by cases st <;> rfl
@[simp] theorem Core.setStr_colMask (c : Core) (st : StreamId) (m : Stream) : (c.setStr st m).colMask = c.colMask := by cases st <;> rfl
@[simp] theorem Core.modStr_colMask (c : Core) (st : StreamId) (g : Stream → Stream) : (c.modStr st g).colMask = c.colMask := by cases st <;> rfl
@[simp] theorem Core.setStr_tiles (c : Core) (st : StreamId) (m : Stream) : (c.setStr st m).tiles = c.tiles := by cases st <;> rfl
@[simp] theorem Core.modStr_tiles (c : Core) (st : StreamId) (g : Stream → Stream) : (c.modStr st g).tiles = c.tiles := by cases st <;> rfl
@[simp] theorem Core.setStr_busyTiles (c : Core) (st : StreamId) (m : Stream) : (c.setStr st m).busyTiles = c.busyTiles := by cases st <;> rfl
@[simp] theorem Core.modStr_busyTiles (c : Core) (st : StreamId) (g : Stream → Stream) : (c.modStr st g).busyTiles = c.busyTiles := by cases st <;> rfl
@[simp] theorem Core.setStr_spad (c : Core) (st : StreamId) (m : Stream) : (c.setStr st m).spad = c.spad := by cases st <;> rfl
@[simp] theorem Core.modStr_spad (c : Core) (st : StreamId) (g : Stream → Stream) : (c.modStr st g).spad = c.spad := by cases st <;> rfl
@[simp] theorem Core.setStr_lines (c : Core) (st : StreamId) (m : Stream) : (c.setStr st m).lines = c.lines := by cases st <;> rfl
@[simp] theorem Core.modStr_lines (c : Core) (st : StreamId) (g : Stream → Stream) : (c.modStr st g).lines = c.lines := by cases st <;> rfl
@[simp] theorem Core.setStr_l1 (c : Core) (st : StreamId) (m : Stream) : (c.setStr st m).l1 = c.l1 := by cases st <;> rfl
@[simp] theorem Core.modStr_l1 (c : Core) (st : StreamId) (g : Stream → Stream) : (c.modStr st g).l1 = c.l1 := by cases st <;> rfl
@[simp] theorem Core.setStr_dbg (c : Core) (st : StreamId) (m : Stream) : (c.setStr st m).dbg = c.dbg := by cases st <;> rfl
@[simp] theorem Core.modStr_dbg (c : Core) (st : StreamId) (g : Stream → Stream) : (c.modStr st g).dbg = c.dbg := by cases st <;> rfl
@[simp] theorem Core.setStr_req (c : Core) (st : StreamId) (m : Stream) : (c.setStr st m).req = c.req := by cases st <;> rfl
@[simp] theorem Core.modStr_req (c : Core) (st : StreamId) (g : Stream → Stream) : (c.modStr st g).req = c.req := by cases st <;> rfl
@[simp] theorem Core.setStr_tTime (c : Core) (st : StreamId) (m : Stream) : (c.setStr st m).tTime = c.tTime := by cases st <;> rfl
@[simp] theorem Core.modStr_tTime (c : Core) (st : StreamId) (g : Stream → Stream) : (c.modStr st g).tTime = c.tTime := by cases st <;> rfl
@[simp] theorem Core.setStr_aTime (c : Core) (st : StreamId) (m : Stream) : (c.setStr st m).aTime = c.aTime := by cases st <;> rfl
@[simp] theorem Core.modStr_aTime (c : Core) (st : StreamId) (g : Stream → Stream) : (c.modStr st g).aTime = c.aTime := by cases st <;> rfl
@[simp] theorem Core.setStr_lock (c : Core) (st : StreamId) (m : Stream) : (c.setStr st m).lock = c.lock := by cases st <;> rfl
@[simp] theorem Core.modStr_lock (c : Core) (st : StreamId) (g : Stream → Stream) : (c.modStr st g).lock = c.lock := by cases st <;> rfl
@[simp] theorem Core.setStr_owait (c : Core) (st : StreamId) (m : Stream) : (c.setStr st m).owait = c.owait := by cases st <;> rfl
@[simp] theorem Core.modStr_owait (c : Core) (st : StreamId) (g : Stream → Stream) : (c.modStr st g).owait = c.owait := by cases st <;> rfl
@[simp] theorem Core.setStr_aPend (c : Core) (st : StreamId) (m : Stream) : (c.setStr st m).aPend = c.aPend := by cases st <;> rfl
@[simp] theorem Core.modStr_aPend (c : Core) (st : StreamId) (g : Stream → Stream) : (c.modStr st g).aPend = c.aPend := by cases st <;> rfl
@[simp] theorem Core.setStr_qwin (c : Core) (st : StreamId) (m : Stream) : (c.setStr st m).qwin = c.qwin := by cases st <;> rfl
@[simp] theorem Core.modStr_qwin (c : Core) (st : StreamId) (g : Stream → Stream) : (c.modStr st g).qwin = c.qwin := by cases st <;> rfl
@[simp] theorem Core.setStr_away (c : Core) (st : StreamId) (m : Stream) : (c.setStr st m).away = c.away := by cases st <;> rfl
@[simp] theorem Core.modStr_away (c : Core) (st : StreamId) (g : Stream → Stream) : (c.modStr st g).away = c.away := by cases st <;> rfl

end Sys2Proof.Machine
end

