-- ==== Sys2Proof/Laws/Issue.lean ====
section
/-! SUPPORT. Laws/Issue.lean: the issue of a word, once for all words: what a word that starts does, what a halting fault,
a stall and a false guard do, and what starting changes for the operands that a word reads. -/

namespace Sys2Proof.Machine

/-- A word that starts and whose effect is done leaves its results in flight and goes on (R90, R101). -/
theorem runWord_done {i : Instr} {st : StreamId} {h : Hdr} {g : BitVec 4} {z : Option Nat} {s s' : State} {d : Done}
    {body : State → Act} (hs : Starts i st h g s) (hb : body (startWord st s) = .done s' d) :
    runWord i st h g z s body = .next (finishWord st h d s') := by
  simp [runWord, issue, hs.runs, hs.tokens, hs.codes, hs.guard, hb]

/-- A word that starts and faults raises the halt line before any effect (R98, R344); one of A once every started word has passed its checks
(R165). -/
theorem runWord_fault {i : Instr} {st : StreamId} {h : Hdr} {g : BitVec 4} {z : Option Nat} {s : State} {f : StopInfo}
    {body : State → Act} (hs : Starts i st h g s) (hb : body (startWord st s) = .fault f) :
    runWord i st h g z s body = .next (faultOrWait s st f) := by
  simp [runWord, issue, hs.runs, hs.tokens, hs.codes, hs.guard, hb]

/-- Outside A a fault halts at once. -/
theorem faultOrWait_trio {st : StreamId} (h : st ≠ .A) (s : State) (f : StopInfo) : faultOrWait s st f = haltWord s st f := by
  simp [faultOrWait, h]

/-- So it does in A where no started word has a check before it. -/
theorem faultOrWait_passed {s : State} (h : s.core.aUnpassed = false) (st : StreamId) (f : StopInfo) : faultOrWait s st f = haltWord s st f := by
  simp [faultOrWait, h]

/-- A word whose effect waits stalls its stream (R89, R91). -/
theorem runWord_wait {i : Instr} {st : StreamId} {h : Hdr} {g : BitVec 4} {z : Option Nat} {s s' : State}
    {body : State → Act} (hs : Starts i st h g s) (hb : body (startWord st s) = .wait s') :
    runWord i st h g z s body = .next (stall st s') := by
  simp [runWord, issue, hs.runs, hs.tokens, hs.codes, hs.guard, hb]

/-- A word of a stream that may not issue does nothing (R89, R290). -/
theorem runWord_idle {i : Instr} {st : StreamId} {h : Hdr} {g : BitVec 4} {z : Option Nat} {s : State} {body : State → Act}
    (hr : canRun s st = false) : runWord i st h g z s body = .next s := by
  simp [runWord, issue, hr]

/-! ## Starting a word changes no operand -/

@[simp] theorem startWord_core (st : StreamId) (s : State) :
    (startWord st s).core = s.core.modStr st fun m => { m with st := .aligned } := by
  exact State.core_setCore s _

@[simp] theorem startWord_cur (st : StreamId) (s : State) : (startWord st s).cur = s.cur := rfl
@[simp] theorem startWord_now (st : StreamId) (s : State) : (startWord st s).now = s.now := rfl
@[simp] theorem startWord_mem (st : StreamId) (s : State) : (startWord st s).mem = s.mem := rfl
@[simp] theorem startWord_ctxs (st : StreamId) (s : State) : (startWord st s).ctxs = s.ctxs := rfl

@[simp] theorem modStr_reg (c : Core) (st : StreamId) (f : Stream → Stream) (n : Nat) : (c.modStr st f).reg n = c.reg n := by
  simp [Core.reg]

@[simp] theorem modStr_regs (c : Core) (st : StreamId) (f : Stream → Stream) (n w : Nat) : (c.modStr st f).regs n w = c.regs n w := by
  induction w generalizing n with
  | zero => rfl
  | succ w ih => simp [Core.regs, ih]

@[simp] theorem modStr_regsValid (c : Core) (st : StreamId) (f : Stream → Stream) (n w : Nat) :
    (c.modStr st f).regsValid n w = c.regsValid n w := by
  simp [Core.regsValid]

@[simp] theorem modStr_vec (c : Core) (st : StreamId) (f : Stream → Stream) (n : Nat) : (c.modStr st f).vec n = c.vec n := by
  simp [Core.vec]

/-- The result queue of a stream is not part of its running state. -/
theorem modStr_rq (c : Core) (st st' : StreamId) (v : StreamSt) :
    ((c.modStr st fun m => { m with st := v }).str st').rq = (c.str st').rq := by
  cases st <;> cases st' <;> rfl

/-- Starting a word changes no scalar source. -/
@[simp] theorem startWord_src (st st' : StreamId) (s : State) (sp : BitVec 7) (w : Nat) :
    (startWord st s).core.src st' sp w = s.core.src st' sp w := by
  rw [startWord_core]
  unfold Core.src Core.aWrites Core.queueEntry Core.aRecent
  simp [modStr_rq]

/-- Starting a word changes no lane source. -/
@[simp] theorem startWord_vsrc (st : StreamId) (s : State) (sp : BitVec 7) (w : Nat) :
    (startWord st s).core.vsrc sp w = s.core.vsrc sp w := by
  rw [startWord_core]
  have h : (s.core.modStr st fun m => { m with st := .aligned }).v.rq = s.core.v.rq := modStr_rq s.core st .V .aligned
  unfold Core.vsrc
  simp [h]

/-! ## Operands of a word that starts -/

theorem withSrc_ok {s : State} {st : StreamId} {sp : BitVec 7} {w : Nat} {v : W128} {k : W128 → Act}
    (h : s.core.src st sp w = .ok v) : withSrc (startWord st s) st sp w k = k v := by
  simp only [withSrc, startWord_src, h]

theorem with32_ok {s : State} {st : StreamId} {sp : BitVec 7} {v : W128} {k : W32 → Act}
    (h : s.core.src st sp 1 = .ok v) : with32 (startWord st s) st sp k = k (v.setWidth 32) := withSrc_ok h

theorem with64_ok {s : State} {st : StreamId} {sp : BitVec 7} {v : W128} {k : W64 → Act}
    (h : s.core.src st sp 2 = .ok v) : with64 (startWord st s) st sp k = k (v.setWidth 64) := withSrc_ok h

theorem withV_ok {s : State} {st : StreamId} {sp : BitVec 7} {w : Nat} {l : List W64} {k : List W64 → Act}
    (h : s.core.vsrc sp w = some l) : withV (startWord st s) sp w k = k l := by
  simp only [withV, startWord_vsrc, h]

/-- A result of one register, as R33 delivers it. -/
theorem result_one (s : State) (st : StreamId) (d : BitVec 7) (lat : Nat) (v : W128) (pred : Bool) :
    result s st d 1 lat v pred = .done s { res := some { val := .scalar ((v.setWidth 32).setWidth 128), dest := dstOf st d 1 pred, lat := lat } } := by
  simp [result]

/-- A result of two registers. -/
theorem result_two (s : State) (st : StreamId) (d : BitVec 7) (lat : Nat) (v : W128) (pred : Bool) :
    result s st d 2 lat v pred = .done s { res := some { val := .scalar ((v.setWidth 64).setWidth 128), dest := dstOf st d 2 pred, lat := lat } } := by
  simp [result]

end Sys2Proof.Machine
end

