-- ==== Sys2Proof/Laws/Memory.lean ====
section
/-! SUPPORT. Laws/Memory.lean: what the operations of Sparse storage and of memory do: read after write, and that every
operation keeps the canonical form. -/

namespace Sys2Proof.Machine

/-! ## Sparse storage -/

/-- Strictly rising keys. -/
def Rising {α : Type} (m : Sparse α) : Prop := m.Pairwise fun a b => a.1 < b.1

theorem sfind_sput {α : Type} (m : Sparse α) (k j : Nat) (v : α) :
    sfind (sput m k v) j = if j = k then some v else sfind m j := by
  induction m with
  | nil => by_cases h : j = k <;> simp [sput, sfind, h]
  | cons e l ih =>
    obtain ⟨a, b⟩ := e
    simp only [sput, sfind]
    split_ifs <;> simp only [sfind] <;> split_ifs <;> first | rfl | omega | simp_all

theorem sget_sput {α : Type} (d : α) (m : Sparse α) (k j : Nat) (v : α) :
    sget d (sput m k v) j = if j = k then v else sget d m j := by
  induction m with
  | nil => by_cases h : j = k <;> simp [sput, sget, h]
  | cons e l ih =>
    obtain ⟨a, b⟩ := e
    simp only [sput, sget]
    split_ifs <;> simp only [sget] <;> split_ifs <;> first | rfl | omega | simp_all

theorem sfind_none_of_lt {α : Type} {m : Sparse α} {j : Nat} (h : ∀ e ∈ m, j < e.1) : sfind m j = none := by
  induction m with
  | nil => rfl
  | cons e l ih =>
    have h1 : j < e.1 := h e (by simp)
    simp only [sfind, Nat.ne_of_lt h1, if_false]
    exact ih fun x hx => h x (List.mem_cons_of_mem _ hx)

theorem sfind_sdel {α : Type} (m : Sparse α) (k j : Nat) : sfind (sdel m k) j = if j = k then none else sfind m j := by
  unfold sdel
  induction m with
  | nil => simp [sfind]
  | cons e l ih =>
    obtain ⟨a, b⟩ := e
    by_cases h : a = k
    · subst h
      simp only [ne_eq, not_true_eq_false, decide_false, Bool.false_eq_true, not_false_eq_true, List.filter_cons_of_neg, sfind, ih]
      split_ifs <;> rfl
    · simp only [ne_eq, h, not_false_eq_true, decide_true, List.filter_cons_of_pos, sfind, ih]
      split_ifs <;> simp_all

theorem sget_sdel {α : Type} (d : α) (m : Sparse α) (k j : Nat) : sget d (sdel m k) j = if j = k then d else sget d m j := by
  unfold sdel
  induction m with
  | nil => simp [sget]
  | cons e l ih =>
    obtain ⟨a, b⟩ := e
    by_cases h : a = k
    · subst h
      simp only [ne_eq, not_true_eq_false, decide_false, Bool.false_eq_true, not_false_eq_true, List.filter_cons_of_neg, sget, ih]
      split_ifs <;> rfl
    · simp only [ne_eq, h, not_false_eq_true, decide_true, List.filter_cons_of_pos, sget, ih]
      split_ifs <;> simp_all

/-- Reading a key after a write: the written key gives the written value, another its own (the default entry included). -/
@[simp] theorem sget_sset {α : Type} [DecidableEq α] (d : α) (m : Sparse α) (k j : Nat) (v : α) :
    sget d (sset d m k v) j = if j = k then v else sget d m j := by
  unfold sset
  split_ifs <;> simp_all [sget_sdel, sget_sput]

theorem sdel_subset {α : Type} (m : Sparse α) (k : Nat) : ∀ e ∈ sdel m k, e ∈ m := by
  intro x hx
  exact (List.mem_filter.mp hx).1

theorem sput_mem {α : Type} (m : Sparse α) (k : Nat) (v : α) : ∀ e ∈ sput m k v, e = (k, v) ∨ e ∈ m := by
  induction m with
  | nil => simp [sput]
  | cons e l ih =>
    intro x hx
    simp only [sput] at hx
    split_ifs at hx
    · rcases List.mem_cons.mp hx with h | h
      · exact .inl h
      · exact .inr (List.mem_cons_of_mem _ h)
    · rcases List.mem_cons.mp hx with h | h
      · exact .inl h
      · exact .inr h
    · rcases List.mem_cons.mp hx with h | h
      · exact .inr (by simp [h])
      · exact (ih x h).imp_right (List.mem_cons_of_mem _)

theorem rising_sdel {α : Type} {m : Sparse α} (h : Rising m) (k : Nat) : Rising (sdel m k) :=
  List.Pairwise.filter _ h

theorem rising_sput {α : Type} {m : Sparse α} (h : Rising m) (k : Nat) (v : α) : Rising (sput m k v) := by
  induction m with
  | nil => simp [sput, Rising]
  | cons e l ih =>
    obtain ⟨a, b⟩ := e
    obtain ⟨h1, h2⟩ := List.pairwise_cons.mp h
    simp only [sput]
    split_ifs with h3 h4
    · subst h3
      exact List.pairwise_cons.mpr ⟨h1, h2⟩
    · refine List.pairwise_cons.mpr ⟨fun x hx => ?_, h⟩
      rcases List.mem_cons.mp hx with h5 | h5
      · simpa [h5] using h4
      · exact lt_trans h4 (h1 x h5)
    · refine List.pairwise_cons.mpr ⟨fun x hx => ?_, ih h2⟩
      rcases sput_mem l k v x hx with h5 | h5
      · simp only [h5]; omega
      · exact h1 x h5

theorem rising_sset {α : Type} [DecidableEq α] {d : α} {m : Sparse α} (h : Rising m) (k : Nat) (v : α) :
    Rising (sset d m k v) := by
  unfold sset
  split_ifs
  · exact rising_sdel h k
  · exact rising_sput h k v

theorem sfind_sset {α : Type} [DecidableEq α] {d : α} (m : Sparse α) (k j : Nat) (v : α) :
    sfind (sset d m k v) j = if j = k then (if v = d then none else some v) else sfind m j := by
  unfold sset
  split_ifs <;> simp_all [sfind_sdel, sfind_sput]

/-! ## Memory -/

/-- The canonical form as a proposition. -/
structure Memory.Canonical (m : Memory) : Prop where
  cells : Rising m.cells
  scrambled : Rising m.scrambled
  owner : Rising m.owner
  units : Rising m.units
  noDefault : ∀ c ∈ m.cells, c.2 ≠ memDefault ∨ (sfind m.scrambled (c.1 / 65536)).isSome

theorem Memory.wf_iff (m : Memory) : m.wf = true ↔ m.Canonical := by
  constructor
  · intro h
    simp only [Memory.wf, Bool.and_eq_true, decide_eq_true_eq, List.all_eq_true, Bool.or_eq_true] at h
    exact ⟨h.1.1.1.1, h.1.1.1.2, h.1.1.2, h.1.2, h.2⟩
  · rintro ⟨h1, h2, h3, h4, h5⟩
    simp only [Memory.wf, Bool.and_eq_true, decide_eq_true_eq, List.all_eq_true, Bool.or_eq_true]
    exact ⟨⟨⟨⟨h1, h2⟩, h3⟩, h4⟩, h5⟩

/-- A store changes neither who owns frames nor which are unpredictable. -/
@[simp] theorem Memory.store_scrambled (m : Memory) (pa : Nat) (b : Byte) : (m.store pa b).scrambled = m.scrambled := by
  unfold Memory.store; split_ifs <;> rfl

@[simp] theorem Memory.store_owner (m : Memory) (pa : Nat) (b : Byte) : (m.store pa b).owner = m.owner := by
  unfold Memory.store; split_ifs <;> rfl

@[simp] theorem Memory.store_units (m : Memory) (pa : Nat) (b : Byte) : (m.store pa b).units = m.units := by
  unfold Memory.store; split_ifs <;> rfl

/-- A store keeps the canonical form. -/
theorem Memory.wf_store {m : Memory} (h : m.wf = true) (pa : Nat) (b : Byte) : (m.store pa b).wf = true := by
  rw [Memory.wf_iff] at h ⊢
  refine ⟨?_, by simpa using h.scrambled, by simpa using h.owner, by simpa using h.units, fun c hc => ?_⟩
  · unfold Memory.store
    split_ifs
    · exact rising_sput h.cells _ _
    · exact rising_sset h.cells _ _
  · rw [Memory.store_scrambled]
    unfold Memory.store at hc
    split_ifs at hc with h3
    · rcases sput_mem _ _ _ c hc with h4 | h4
      · exact .inr (by simpa [h4] using h3)
      · exact h.noDefault c h4
    · simp only [sset] at hc
      split_ifs at hc with h5
      · exact h.noDefault c (sdel_subset _ _ c hc)
      · rcases sput_mem _ _ _ c hc with h4 | h4
        · exact .inl (by simpa [h4] using h5)
        · exact h.noDefault c h4

/-- What a byte reads as after a store. -/
theorem Memory.byte_store (m : Memory) (pa a : Nat) (b : Byte) :
    (m.store pa b).byte a = if a = pa then b else m.byte a := by
  unfold Memory.store
  by_cases h3 : (sfind m.scrambled (pa / 65536)).isSome = true
  · rw [if_pos h3]
    simp only [Memory.byte, sfind_sput]
    split_ifs <;> rfl
  · rw [if_neg h3]
    simp only [Memory.byte, sfind_sset]
    by_cases h4 : a = pa
    · subst h4
      have h6 : sfind m.scrambled (a / 65536) = none := by simpa using h3
      by_cases h5 : b = memDefault <;> simp [h5, h6]
    · simp [h4]

/-- Storing bytes keeps the canonical form. -/
theorem Memory.wf_storeList {m : Memory} (h : m.wf = true) (pa : Nat) (l : List Byte) : (m.storeList pa l).wf = true := by
  induction l generalizing m pa with
  | nil => exact h
  | cons b l ih => exact ih (Memory.wf_store h pa b) (pa + 1)

@[simp] theorem Memory.storeList_owner (m : Memory) (pa : Nat) (l : List Byte) : (m.storeList pa l).owner = m.owner := by
  induction l generalizing m pa with
  | nil => rfl
  | cons b l ih => simp [Memory.storeList, ih]

@[simp] theorem Memory.storeList_scrambled (m : Memory) (pa : Nat) (l : List Byte) :
    (m.storeList pa l).scrambled = m.scrambled := by
  induction l generalizing m pa with
  | nil => rfl
  | cons b l ih => simp [Memory.storeList, ih]

/-- What a byte reads as after bytes were stored from PA on. -/
theorem Memory.byte_storeList (m : Memory) (pa a : Nat) (l : List Byte) :
    (m.storeList pa l).byte a = if pa ≤ a ∧ a < pa + l.length then l.getD (a - pa) 0 else m.byte a := by
  induction l generalizing m pa with
  | nil => simp only [Memory.storeList, List.length_nil, Nat.add_zero]; rw [if_neg (by omega)]
  | cons b l ih =>
    simp only [Memory.storeList, ih, Memory.byte_store, List.length_cons]
    by_cases h1 : a = pa
    · subst h1
      simp
    · by_cases h2 : pa + 1 ≤ a ∧ a < pa + 1 + l.length
      · obtain ⟨d, rfl⟩ : ∃ d, a = pa + 1 + d := ⟨a - (pa + 1), by omega⟩
        rw [if_pos h2, if_pos (by omega), show pa + 1 + d - pa = d + 1 by omega, show pa + 1 + d - (pa + 1) = d by omega]
        simp
      · rw [if_neg h2, if_neg h1, if_neg (by omega)]

@[simp] theorem Memory.storeList_units (m : Memory) (pa : Nat) (l : List Byte) : (m.storeList pa l).units = m.units := by
  induction l generalizing m pa with
  | nil => rfl
  | cons b l ih => simp [Memory.storeList, ih]

/-- A frame's owner may be set in canonical form. -/
theorem Memory.wf_setOwner {m : Memory} (h : m.wf = true) (f key : Nat) :
    ({ m with owner := sput m.owner f key } : Memory).wf = true := by
  rw [Memory.wf_iff] at h ⊢
  exact ⟨h.cells, h.scrambled, rising_sput h.owner _ _, h.units, h.noDefault⟩

/-- A unit's owner may be set in canonical form. -/
theorem Memory.wf_setUnit {m : Memory} (h : m.wf = true) (u key : Nat) :
    ({ m with units := sput m.units u key } : Memory).wf = true := by
  rw [Memory.wf_iff] at h ⊢
  exact ⟨h.cells, h.scrambled, h.owner, rising_sput h.units _ _, h.noDefault⟩

/-- Owners of frames and of units may be forgotten in canonical form. -/
theorem Memory.wf_filterOwners {m : Memory} (h : m.wf = true) (p q : Nat × Nat → Bool) :
    ({ m with owner := m.owner.filter p, units := m.units.filter q } : Memory).wf = true := by
  rw [Memory.wf_iff] at h ⊢
  exact ⟨h.cells, h.scrambled, List.Pairwise.filter _ h.owner, List.Pairwise.filter _ h.units, h.noDefault⟩

/-- A unit that becomes unpredictable keeps the canonical form. -/
theorem Memory.wf_freeUnit {m : Memory} (h : m.wf = true) (pa n : Nat) : (m.freeUnit pa n).wf = true :=
  Memory.wf_storeList h _ _

/-- A frame that becomes unpredictable lists none of its bytes. -/
theorem Memory.wf_scramble {m : Memory} (h : m.wf = true) (pa n : Nat) : (m.scramble pa n).wf = true := by
  rw [Memory.wf_iff] at h ⊢
  refine ⟨List.Pairwise.filter _ h.cells, rising_sput h.scrambled _ _, h.owner, h.units, fun c hc => ?_⟩
  refine (h.noDefault c (List.mem_filter.mp hc).1).imp_right fun h3 => ?_
  simp only [Memory.scramble, sfind_sput]
  split_ifs
  · rfl
  · exact h3

/-- A zeroed frame lists nothing. -/
theorem Memory.wf_zeroFrame {m : Memory} (h : m.wf = true) (pa : Nat) : (m.zeroFrame pa).wf = true := by
  rw [Memory.wf_iff] at h ⊢
  refine ⟨List.Pairwise.filter _ h.cells, rising_sdel h.scrambled _, rising_sdel h.owner _,
    List.Pairwise.filter _ h.units, fun c hc => ?_⟩
  obtain ⟨hc', hc2⟩ := List.mem_filter.mp hc
  refine (h.noDefault c hc').imp_right fun h3 => ?_
  simp only [Memory.zeroFrame, sfind_sdel]
  simp only [Bool.or_eq_true, decide_eq_true_eq] at hc2
  rw [if_neg (by omega)]
  exact h3

theorem State.wf_paStore {s : State} (h : s.mem.wf = true) (pa : Nat) (l : List Byte) : (s.paStore pa l).mem.wf = true :=
  Memory.wf_storeList h pa l

theorem State.wf_storeUnit {s : State} (h : s.mem.wf = true) (key pa : Nat) (l : List Byte) :
    (s.storeUnit key pa l).mem.wf = true := by
  unfold State.storeUnit
  split_ifs
  · dsimp only
    split_ifs
    · exact Memory.wf_storeList h pa l
    · exact Memory.wf_setOwner (Memory.wf_storeList h pa l) _ _
  · exact Memory.wf_setUnit (Memory.wf_storeList (Memory.wf_freeUnit h _ _) pa l) _ _

theorem storeUnits_wf (key k : Nat) {s : State} (pa : Nat) (l : List Byte) (h : s.mem.wf = true) :
    (storeUnits key k s pa l).mem.wf = true := by
  induction k generalizing s pa l with
  | zero => exact h
  | succ k ih =>
    unfold storeUnits
    split_ifs
    · exact h
    · exact ih _ _ (State.wf_storeUnit h _ _ _)

theorem State.wf_storeKey {s : State} (h : s.mem.wf = true) (key pa : Nat) (l : List Byte) :
    (s.storeKey key pa l).mem.wf = true := storeUnits_wf key _ pa l h

/-- A store through translation keeps the canonical form. -/
theorem storeFrom_wf (k : Nat) {s : State} (b : Via) (fn : Nat) (p : Perm) (fab : Bool) (va : W64) (l : List Byte)
    (h : s.mem.wf = true) : (storeFrom s b fn p fab k va l).mem.wf = true := by
  induction k generalizing s va l with
  | zero => exact h
  | succ k ih =>
    unfold storeFrom
    split_ifs
    · exact h
    · dsimp only
      split
      · refine ih _ _ (State.wf_storeKey ?_ _ _ _)
        split_ifs
        · exact h
        · exact h
      · exact h

/-- A write keeps the canonical form (R163-R165). -/
theorem writePerm_wf {s t : State} {b : Via} {fn : Nat} {p : Perm} {fab : Bool} {va : W64} {l : List Byte}
    (h : s.mem.wf = true) (hw : writePerm s b fn p fab va l = .ok t) : t.mem.wf = true := by
  unfold writePerm at hw
  dsimp only at hw
  split at hw <;> first | contradiction | (injection hw with hw; subst hw; exact storeFrom_wf _ _ _ _ _ _ _ h)

theorem State.devWrite_wf {s : State} (h : s.mem.wf = true) (fn : Nat) (va : W64) (l : List Byte) :
    (s.devWrite fn va l).mem.wf = true := by
  unfold State.devWrite
  dsimp only
  split_ifs
  · exact h
  · split
    · exact writePerm_wf h ‹_›
    · exact h
    · exact h

theorem mergeVa_wf {s t : State} (h : s.mem.wf = true) {fn : Nat} {va : W64} {keep bits : Byte} (e : mergeVa s fn va keep bits = .ok t) :
    t.mem.wf = true := by
  unfold mergeVa at e
  split at e
  · exact writePerm_wf h e
  · cases e
  · cases e

theorem State.devMerge_wf {s : State} (h : s.mem.wf = true) (fn : Nat) (va : W64) (keep bits : Byte) :
    (s.devMerge fn va keep bits).mem.wf = true := by
  unfold State.devMerge
  dsimp only
  split_ifs
  · exact h
  · split
    · exact mergeVa_wf h ‹_›
    · exact h
    · exact h

/-- Memory right after reset has the canonical form. -/
theorem reset_wf : State.reset.mem.wf = true := by decide

theorem sfind_filter {α : Type} (m : Sparse α) (p : Nat → Bool) (k : Nat) (hk : p k = true) :
    sfind (m.filter fun e => p e.1) k = sfind m k := by
  induction m with
  | nil => rfl
  | cons e l ih =>
    obtain ⟨a, b⟩ := e
    by_cases ha : p a = true
    · simp only [List.filter_cons, ha, if_true, sfind, ih]
    · have hne : k ≠ a := fun hh => ha (hh ▸ hk)
      simp only [List.filter_cons, ha, sfind, hne, if_false]
      rw [if_neg (by simp), ih]

/-- A fold of steps that each keep the canonical form keeps it. -/
theorem Memory.wf_foldl {α : Type} (f : Memory → α → Memory) (hf : ∀ m a, m.wf = true → (f m a).wf = true) (l : List α) {m : Memory}
    (h : m.wf = true) : (l.foldl f m).wf = true := by
  induction l generalizing m with
  | nil => exact h
  | cons a l ih => exact ih (hf m a h)

/-- Losing what is stored under some keys keeps the canonical form (R423). -/
theorem Memory.wf_loseKeys {m : Memory} (h : m.wf = true) (p : Nat → Bool) (n : Nat) : (m.loseKeys p n).wf = true := by
  unfold Memory.loseKeys
  refine Memory.wf_foldl _ (fun m e hm => Memory.wf_freeUnit hm _ _) _ (Memory.wf_foldl _ (fun m e hm => ?_) _ h)
  dsimp only
  split_ifs
  · refine Memory.wf_foldl _ (fun m i hm => ?_) _ hm
    split_ifs
    · exact hm
    · exact Memory.wf_freeUnit hm _ _
  · exact Memory.wf_scramble hm _ _

/-- What survives a reset of the device has the canonical form (R414, R423). -/
theorem poolOnly_wf {m : Memory} (h : m.wf = true) (n : Nat) : (poolOnly m n).wf = true := by
  refine Memory.wf_filterOwners (Memory.wf_loseKeys ?_ _ _) _ _
  rw [Memory.wf_iff] at h ⊢
  refine ⟨List.Pairwise.filter _ h.cells, List.Pairwise.filter _ h.scrambled, List.Pairwise.filter _ h.owner, List.Pairwise.filter _ h.units,
    fun c hc => ?_⟩
  obtain ⟨hc', hc2⟩ := List.mem_filter.mp hc
  refine (h.noDefault c hc').imp_right fun h3 => ?_
  have hk : decide (2 ^ 47 ≤ 65536 * (c.1 / 65536)) = true := by
    simp only [decide_eq_true_eq] at hc2 ⊢
    omega
  exact (congrArg Option.isSome (sfind_filter _ (fun e => decide (2 ^ 47 ≤ 65536 * e)) _ hk)).trans h3

end Sys2Proof.Machine
end

