-- ==== Sys2Proof/Laws/Ops.lean ====
section
/-! SUPPORT. Laws/Ops.lean: for each shared operation of Machine/Ops.lean, once, everything it can change; so that a later proof
about an instruction cites the operation's lemma and does not unfold it. -/

namespace Sys2Proof.Machine

/-! ## Writes of the device and of a word: memory, residues, the free counter and the queue of waiting accesses, nothing else (R163-R165,
R343, R372, R462) -/

theorem State.storeUnit_only (s : State) (key pa : Nat) (l : List Byte) :
    ∃ m n, s.storeUnit key pa l = { s with mem := m, free := n } := by
  unfold State.storeUnit
  split_ifs
  · exact ⟨_, s.free, rfl⟩
  · exact ⟨_, _, rfl⟩

theorem storeUnits_only (key k : Nat) (s : State) (pa : Nat) (l : List Byte) :
    ∃ m n, storeUnits key k s pa l = { s with mem := m, free := n } := by
  induction k generalizing s pa l with
  | zero => exact ⟨s.mem, s.free, rfl⟩
  | succ k ih =>
    unfold storeUnits
    split_ifs
    · exact ⟨s.mem, s.free, rfl⟩
    · dsimp only
      obtain ⟨m, n, h⟩ := State.storeUnit_only s key pa (l.take (128 - pa % 128))
      rw [h]
      exact (ih _ _ _).imp fun _ => Exists.imp fun _ h' => h'

theorem State.storeKey_only (s : State) (key pa : Nat) (l : List Byte) :
    ∃ m n, s.storeKey key pa l = { s with mem := m, free := n } := storeUnits_only ..

theorem storeFrom_only (k : Nat) (s : State) (b : Via) (fn : Nat) (p : Perm) (fab : Bool) (va : W64) (l : List Byte) :
    ∃ m n r, storeFrom s b fn p fab k va l = { s with mem := m, free := n, residues := r } := by
  induction k generalizing s va l with
  | zero => exact ⟨s.mem, s.free, s.residues, rfl⟩
  | succ k ih =>
    unfold storeFrom
    split_ifs
    · exact ⟨s.mem, s.free, s.residues, rfl⟩
    · dsimp only
      split
      · rename_i pa e _
        obtain ⟨r, hr⟩ : ∃ r, (if eState e = sCOMP then s.newResidues (eCfmt e) pa (min l.length (65536 - va.toNat % 65536)) else s) = { s with residues := r } := by
          split_ifs
          · exact ⟨_, rfl⟩
          · exact ⟨s.residues, rfl⟩
        rw [hr]
        obtain ⟨m, n, h⟩ := State.storeKey_only { s with residues := r } (leafKey { s with residues := r } fn e) pa (l.take (min l.length (65536 - va.toNat % 65536)))
        rw [h]
        exact (ih _ _ _).imp fun _ => Exists.imp fun _ => Exists.imp fun _ h' => h'
      · exact ⟨s.mem, s.free, s.residues, rfl⟩

/-- A write that is not refused changes memory, residues and the free counter only. -/
theorem writePerm_only {s t : State} {b : Via} {fn : Nat} {p : Perm} {fab : Bool} {va : W64} {l : List Byte}
    (h : writePerm s b fn p fab va l = .ok t) : ∃ m n r, t = { s with mem := m, free := n, residues := r } := by
  unfold writePerm at h
  dsimp only at h
  split at h <;> first | contradiction | (injection h with h; subst h; exact storeFrom_only ..)

/-- Everything that the device's own accesses of context areas can change. -/
def State.withDev (s : State) (m : Memory) (n : Nat) (r : Sparse Nat) (q : List DevPend) : State :=
  { s with mem := m, free := n, residues := r, devQ := q }

theorem State.devWrite_only (s : State) (fn : Nat) (va : W64) (l : List Byte) :
    ∃ m n r q, s.devWrite fn va l = s.withDev m n r q := by
  unfold State.devWrite
  dsimp only
  split_ifs
  · exact ⟨s.mem, s.free, s.residues, _, rfl⟩
  · split
    · obtain ⟨m, n, r, h⟩ := writePerm_only ‹_›
      exact ⟨m, n, r, s.devQ, h⟩
    · exact ⟨s.mem, s.free, s.residues, _, rfl⟩
    · exact ⟨s.mem, s.free, s.residues, s.devQ, rfl⟩

/-- A write of some bits of a byte changes what a write of the device can. -/
theorem State.devMerge_only (s : State) (fn : Nat) (va : W64) (keep bits : Byte) :
    ∃ m n r q, s.devMerge fn va keep bits = s.withDev m n r q := by
  unfold State.devMerge
  dsimp only
  split_ifs
  · exact ⟨s.mem, s.free, s.residues, _, rfl⟩
  · split
    · rename_i e
      unfold mergeVa at e
      split at e
      · obtain ⟨m, n, r, h⟩ := writePerm_only (by unfold writeVa at e; exact e)
        exact ⟨m, n, r, s.devQ, h⟩
      · cases e
      · cases e
    · exact ⟨s.mem, s.free, s.residues, _, rfl⟩
    · exact ⟨s.mem, s.free, s.residues, s.devQ, rfl⟩

/-! ## Images and context states (R340, R342, R462) -/

theorem State.imageCtx_only (s : State) (x : Nat) : ∃ m n r q, s.imageCtx x = s.withDev m n r q := by
  unfold State.imageCtx
  dsimp only
  split_ifs
  · exact ⟨s.mem, s.free, s.residues, s.devQ, rfl⟩
  · generalize (s.getX x).fn = fn
    obtain ⟨m1, n1, r1, q1, h1⟩ := State.devWrite_only s fn ((s.getX x).recVa + 0x0A) [BitVec.ofNat 8 (s.getX x).st.code]
    rw [h1]
    obtain ⟨m2, n2, r2, q2, h2⟩ := State.devWrite_only (s.withDev m1 n1 r1 q1) fn ((s.getX x).recVa + 0x60)
      ((s.getX x).haltCode :: [0, 0, 0] ++ leBytes 4 (s.getX x).haltSeq.toNat ++ leBytes 2 (s.getX x).haltFirst.toNat)
    rw [h2]
    obtain ⟨m3, n3, r3, q3, h3⟩ := State.devWrite_only ((s.withDev m1 n1 r1 q1).withDev m2 n2 r2 q2) fn ((s.getX x).recVa + 0x74)
      (leBytes 4 (s.getX x).evtail.toNat ++ leBytes 4 (s.getX x).evlost.toNat)
    rw [h3]
    exact State.devWrite_only ..

theorem State.imageCtx_wf {s : State} (h : s.mem.wf = true) (x : Nat) : (s.imageCtx x).mem.wf = true := by
  unfold State.imageCtx
  dsimp only
  split_ifs
  · exact h
  · exact State.devWrite_wf (State.devWrite_wf (State.devWrite_wf (State.devWrite_wf h _ _ _) _ _ _) _ _ _) _ _ _

/-- A context's new state reaches its own entry and its image, and no other context. -/
theorem State.setCtxSt_only (s : State) (x : Nat) (st : CtxSt) :
    ∃ m n r q, s.setCtxSt x st = (s.modX x (fun c => { c with st := st })).withDev m n r q := State.imageCtx_only ..

theorem State.setCtxSt_wf {s : State} (h : s.mem.wf = true) (x : Nat) (st : CtxSt) : (s.setCtxSt x st).mem.wf = true :=
  State.imageCtx_wf (s := s.modX x fun c => { c with st := st }) h x

theorem State.setCtxSt_st (s : State) (x : Nat) (st : CtxSt) : ((s.setCtxSt x st).getX x).st = st := by
  obtain ⟨m, n, r, q, h⟩ := State.setCtxSt_only s x st
  rw [h]
  exact congrArg Ctx.st (State.getX_modX s x fun c => { c with st := st })

/-! ## Events (R346) -/

/-- What an event can change: the event fields of its context, the MSI-X writes issued (R426), and what a device access can. -/
def State.withEvent (s : State) (x : Nat) (t l : W32) (m : Memory) (n : Nat) (r : Sparse Nat) (q : List DevPend) (i : List (Nat × Nat)) : State :=
  { (s.modX x fun c => { c with evtail := t, evlost := l }).withDev m n r q with msix := i }

theorem eventLost_only (s : State) (x : Nat) : ∃ t l m n r q i, eventLost s x = s.withEvent x t l m n r q i := by
  obtain ⟨m, n, r, q, h⟩ := State.imageCtx_only (s.modX x fun c => { c with evlost := if c.evlost = 0xFFFFFFFF then c.evlost else c.evlost + 1 }) x
  exact ⟨(s.getX x).evtail, if (s.getX x).evlost = 0xFFFFFFFF then (s.getX x).evlost else (s.getX x).evlost + 1, m, n, r, q, s.msix, h⟩

theorem eventLost_wf {s : State} (h : s.mem.wf = true) (x : Nat) : (eventLost s x).mem.wf = true :=
  State.imageCtx_wf (s := s.modX x _) h x

/-- An event that is written or lost. -/
theorem tryEvent_only {s t : State} {x type code src : Nat} {va1 vb1 : W64} {time : Nat}
    (h : tryEvent s x type code src va1 vb1 time = .written t ∨ tryEvent s x type code src va1 vb1 time = .dropped t) :
    ∃ a l m n r q i, t = s.withEvent x a l m n r q i := by
  unfold tryEvent at h
  dsimp only at h
  split at h
  · simp only [reduceCtorEq, Posted.dropped.injEq, false_or] at h
    exact h ▸ eventLost_only s x
  · simp at h
  · split_ifs at h
    · simp only [reduceCtorEq, Posted.dropped.injEq, false_or] at h
      exact h ▸ eventLost_only s x
    · split at h
      · simp only [reduceCtorEq, Posted.written.injEq, or_false] at h
        obtain ⟨m, n, r, rfl⟩ := writePerm_only ‹_›
        obtain ⟨m', n', r', q', h'⟩ := State.imageCtx_only
          (State.modX { s with mem := m, free := n, residues := r } x fun c => { c with evtail := c.evtail + 1 }) x
        rw [← h]
        unfold fireMsix
        rw [h']
        exact ⟨(s.getX x).evtail + 1, (s.getX x).evlost, m', n', r', q', _, rfl⟩
      · simp at h
      · simp only [reduceCtorEq, Posted.dropped.injEq, false_or] at h
        exact h ▸ eventLost_only s x

theorem tryEvent_wf {s t : State} {x type code src : Nat} {va1 vb1 : W64} {time : Nat} (hs : s.mem.wf = true)
    (h : tryEvent s x type code src va1 vb1 time = .written t ∨ tryEvent s x type code src va1 vb1 time = .dropped t) : t.mem.wf = true := by
  unfold tryEvent at h
  dsimp only at h
  split at h
  · simp only [reduceCtorEq, Posted.dropped.injEq, false_or] at h
    exact h ▸ eventLost_wf hs x
  · simp at h
  · split_ifs at h
    · simp only [reduceCtorEq, Posted.dropped.injEq, false_or] at h
      exact h ▸ eventLost_wf hs x
    · split at h
      · simp only [reduceCtorEq, Posted.written.injEq, or_false] at h
        rename_i s' hw
        have hm : s'.mem.wf = true := writePerm_wf hs (by unfold writeVa at hw; exact hw)
        have := State.imageCtx_wf (s := s'.modX x fun c => { c with evtail := c.evtail + 1 }) hm x
        exact h ▸ this
      · simp at h
      · simp only [reduceCtorEq, Posted.dropped.injEq, false_or] at h
        exact h ▸ eventLost_wf hs x

/-- Posting an event changes the event fields of its context and what a device access can, or leaves the event waiting (R346). -/
theorem postEvent_only (s : State) (x type code src : Nat) (va1 vb1 : W64) :
    (∃ q, postEvent s x type code src va1 vb1 = { s with devQ := q }) ∨ ∃ t l m n r q i, postEvent s x type code src va1 vb1 = s.withEvent x t l m n r q i := by
  unfold postEvent
  dsimp only
  split_ifs
  · exact .inl ⟨_, rfl⟩
  · split
    · exact .inr (tryEvent_only (.inl ‹_›))
    · exact .inr (tryEvent_only (.inr ‹_›))
    · exact .inl ⟨_, rfl⟩

theorem postEvent_wf {s : State} (h : s.mem.wf = true) (x type code src : Nat) (va1 vb1 : W64) :
    (postEvent s x type code src va1 vb1).mem.wf = true := by
  unfold postEvent
  dsimp only
  split_ifs
  · exact h
  · split
    · exact tryEvent_wf h (.inl ‹_›)
    · exact tryEvent_wf h (.inr ‹_›)
    · exact h

/-! ## Messages and barriers (R313, R316, R385) -/

@[simp] theorem State.send_outbox (s : State) (fn dst dvf kind : Nat) (va aux : W64) (l : List Byte) :
    (s.send fn dst dvf kind va aux l).outbox = s.outbox ++
      [{ dst := BitVec.ofNat 15 dst, dvf := BitVec.ofNat 8 dvf, kind := BitVec.ofNat 8 kind, src := Config.devId, svf := BitVec.ofNat 8 fn,
         epoch := 0, cseq := 0, cack := 0, flags := 0, va := va, aux := aux, payload := l }] := rfl

@[simp] theorem State.send_mem (s : State) (fn dst dvf kind : Nat) (va aux : W64) (l : List Byte) : (s.send fn dst dvf kind va aux l).mem = s.mem := rfl

theorem State.send_only (s : State) (fn dst dvf kind : Nat) (va aux : W64) (l : List Byte) :
    ∃ o, s.send fn dst dvf kind va aux l = { s with outbox := o } := ⟨_, rfl⟩

theorem State.sendMembers_only (s : State) (fn : Nat) (t : PgTable) (kind : Nat) (aux : W64) (l : List Byte) :
    ∃ o, s.sendMembers fn t kind aux l = { s with outbox := o } := by
  unfold State.sendMembers
  generalize t.members.zipIdx.filter _ = es
  induction es generalizing s with
  | nil => exact ⟨s.outbox, rfl⟩
  | cons e es ih => exact (ih (s.send fn e.1.1.toNat (vfFn e.1.2) kind 0 aux l)).imp fun _ h => h

theorem State.barCast_only (s : State) (x b : Nat) (id : W32) (pay : List Byte) (u : BarUpdate) :
    ∃ o a, s.barCast x b id pay u = { s with outbox := o, agenda := a } := by
  have posts (l : List Nat) (s : State) : ∃ a, l.foldl (fun s y => s.post (.barrierMulticast y b u)) s = { s with agenda := a } := by
    induction l generalizing s with
    | nil => exact ⟨s.agenda, rfl⟩
    | cons y l ih => exact (ih (s.post (.barrierMulticast y b u))).imp fun _ h => h
  unfold State.barCast
  dsimp only
  split
  · obtain ⟨o, h⟩ := State.sendMembers_only s (s.getX x).fn ‹_› 7 (id.setWidth 64) pay
    rw [h]
    obtain ⟨a, h'⟩ := posts (State.tableContexts { s with outbox := o } (s.getX x).fn id x) { s with outbox := o }
    exact ⟨o, a, h'⟩
  · obtain ⟨a, h'⟩ := posts (s.tableContexts (s.getX x).fn id x) s
    exact ⟨s.outbox, a, h'⟩

/-- A barrier entry and its image (R312, R462). -/
theorem State.putBar_only (s : State) (x b : Nat) (e : Barrier) :
    ∃ m n r q, s.putBar x b e = (s.modX x (fun c => { c with barriers := sput c.barriers b e })).withDev m n r q := State.devWrite_only ..

theorem State.putBar_wf {s : State} (h : s.mem.wf = true) (x b : Nat) (e : Barrier) : (s.putBar x b e).mem.wf = true :=
  State.devWrite_wf (s := s.modX x _) h _ _ _

/-- A break changes the barriers of its context, what a device access can, the outbox and the agenda. -/
theorem State.breakBar_only (s : State) (x b : Nat) (code : Byte) :
    s.breakBar x b code = s ∨ ∃ bs m n r q o a, s.breakBar x b code =
      { (s.modX x (fun c => { c with barriers := bs })).withDev m n r q with outbox := o, agenda := a } := by
  unfold State.breakBar
  dsimp only
  split_ifs with h1 h2 h3
  · exact .inl rfl
  all_goals
    obtain ⟨m, n, r, q, h⟩ := State.putBar_only s x b { s.getBar x b with st := .broken, brkcode := code }
    rw [h]
    refine .inr ⟨sput (s.getX x).barriers b { s.getBar x b with st := .broken, brkcode := code }, m, n, r, q, ?_⟩
  · exact ⟨s.outbox, s.agenda, rfl⟩
  · obtain ⟨o, a, h'⟩ := State.barCast_only
      ((s.modX x (fun c => { c with barriers := sput c.barriers b { s.getBar x b with st := .broken, brkcode := code } })).withDev m n r q)
      x b (s.getBar x b).pgid (barPayload 5 (s.getBar x b).epoch (s.getBar x b).gen (BitVec.ofNat 32 code.toNat) (BitVec.ofNat 32 b))
      (.broken (s.getBar x b).epoch (s.getBar x b).gen code)
    exact ⟨o, a, h'⟩
  · split
    · exact ⟨_, s.agenda, rfl⟩
    · exact ⟨s.outbox, s.agenda, rfl⟩

theorem State.breakBar_wf {s : State} (h : s.mem.wf = true) (x b : Nat) (code : Byte) : (s.breakBar x b code).mem.wf = true := by
  unfold State.breakBar
  dsimp only
  have w := State.putBar_wf h x b { s.getBar x b with st := .broken, brkcode := code }
  split_ifs
  · exact h
  · exact w
  · obtain ⟨o, a, h'⟩ := State.barCast_only (s.putBar x b { s.getBar x b with st := .broken, brkcode := code }) x b (s.getBar x b).pgid
      (barPayload 5 (s.getBar x b).epoch (s.getBar x b).gen (BitVec.ofNat 32 code.toNat) (BitVec.ofNat 32 b))
      (.broken (s.getBar x b).epoch (s.getBar x b).gen code)
    rw [h']; exact w
  · split
    · rw [State.send_mem]; exact w
    · exact w

theorem State.breakBarriers_wf {s : State} (h : s.mem.wf = true) (x : Nat) (code : Byte) (p : Barrier → Bool) :
    (s.breakBarriers x code p).mem.wf = true := by
  unfold State.breakBarriers
  generalize (s.getX x).barriers.filter _ = l
  induction l generalizing s with
  | nil => exact h
  | cons e l ih => exact ih (State.breakBar_wf h x e.1 code)

/-! ## The halt line (R344) -/

@[simp] theorem withdrawAcq_mem (s : State) (k : Nat) : (withdrawAcq s k).mem = s.mem := by
  unfold withdrawAcq
  have fold (l : List W64) (t : State) : (l.foldl (fun (s : State) tag =>
      match s.fabOut.find? fun m => m.aux = tag && m.kind = 4 && m.payload.headD 0 = 9 with
      | some m => s.send m.svf.toNat m.dst.toNat m.dvf.toNat 4 m.va tag (atomicPayload 12 7 0 0)
      | none => s) t).mem = t.mem := by
    induction l generalizing t with
    | nil => rfl
    | cons a l ih =>
      refine (ih _).trans ?_
      dsimp only
      split <;> rfl
  exact fold _ _

@[simp] theorem withdrawAll_mem (s : State) (x : Nat) : (withdrawAll s x).mem = s.mem := by
  unfold withdrawAll
  generalize s.cores.filter _ = l
  induction l generalizing s with
  | nil => rfl
  | cons e l ih => exact (ih _).trans (withdrawAcq_mem s e.1)

@[simp] theorem recallWaiting_mem (s : State) (k : Nat) : (recallWaiting s k).mem = s.mem := by
  unfold recallWaiting
  split <;> rfl

/-- A core none of whose accesses waits for a connection keeps every one in flight. -/
theorem recallWaiting_none {s : State} {k : Nat} (h : connWaits s k = []) : recallWaiting s k = s := by
  unfold recallWaiting
  rw [h]

/-- Taking back the accesses that still wait for a connection writes no memory. -/
@[simp] theorem recallAll_mem (s : State) (x : Nat) : (recallAll s x).mem = s.mem := by
  unfold recallAll
  generalize s.cores.filter _ = l
  induction l generalizing s with
  | nil => rfl
  | cons e l ih => exact (ih _).trans (recallWaiting_mem s e.1)

/-- Raising the halt line writes no memory. -/
@[simp] theorem raiseHalt_mem (s : State) (x : Nat) (first : BitVec 16) (code : Byte) : (raiseHalt s x first code).mem = s.mem := by
  unfold raiseHalt
  dsimp only
  split_ifs
  · rfl
  all_goals exact (recallAll_mem _ x).trans (withdrawAll_mem s x)

theorem raiseHalt_wf {s : State} (h : s.mem.wf = true) (x : Nat) (first : BitVec 16) (code : Byte) : (raiseHalt s x first code).mem.wf = true := by
  simpa using h

@[simp] theorem countResidue_mem (s : State) (fn : Nat) (code : Byte) (va : W64) : (countResidue s fn code va).mem = s.mem := by
  unfold countResidue
  split_ifs
  · rfl
  · split <;> rfl

theorem haltWord_wf {s : State} (h : s.mem.wf = true) (st : StreamId) (f : StopInfo) : (haltWord s st f).mem.wf = true := by
  unfold haltWord
  exact raiseHalt_wf (by simpa using h) _ _ _

theorem faultOrWait_wf {s : State} (h : s.mem.wf = true) (st : StreamId) (f : StopInfo) : (faultOrWait s st f).mem.wf = true := by
  unfold faultOrWait
  split_ifs
  · unfold stall
    dsimp only
    split_ifs <;> exact h
  · exact haltWord_wf h st f

/-! ## Saturation slots (R80) -/

theorem trySat_only {s t : State} {x slot n nans : Nat} {c : Option (BitVec 2 × W32)} (h : trySat s x slot n nans = .done t c) :
    ∃ m k r, t = { s with mem := m, free := k, residues := r } := by
  unfold trySat at h
  dsimp only at h
  split at h
  · injection h with h _; exact ⟨s.mem, s.free, s.residues, h.symm⟩
  · contradiction
  · split at h
    · injection h with h _; exact h ▸ writePerm_only (by unfold writeVa at *; assumption)
    · contradiction
    · injection h with h _; exact ⟨s.mem, s.free, s.residues, h.symm⟩

theorem satAdd_only (s : State) (x slot n nans : Nat) (b : SatBy) : ∃ m k r q, (satAdd s x slot n nans b).1 = s.withDev m k r q := by
  unfold satAdd
  split_ifs
  · exact ⟨s.mem, s.free, s.residues, s.devQ, rfl⟩
  · split
    · obtain ⟨m, k, r, h⟩ := trySat_only ‹_›
      exact ⟨m, k, r, s.devQ, h⟩
    · exact ⟨s.mem, s.free, s.residues, _, rfl⟩

theorem satAdd_wf {s : State} (h : s.mem.wf = true) (x slot n nans : Nat) (b : SatBy) : (satAdd s x slot n nans b).1.mem.wf = true := by
  unfold satAdd
  split_ifs
  · exact h
  · split
    · rename_i t c ht
      unfold trySat at ht
      dsimp only at ht
      split at ht
      · injection ht with ht _; exact ht ▸ h
      · contradiction
      · split at ht
        · rename_i hw
          injection ht with ht _
          exact ht ▸ writePerm_wf h (by unfold writeVa at hw; exact hw)
        · contradiction
        · injection ht with ht _; exact ht ▸ h
    · exact h

theorem satAdd_zero (s : State) (x slot nans : Nat) (b : SatBy) : satAdd s x slot 0 nans b = (s, none) := rfl

theorem satWord_wf {s : State} (h : s.mem.wf = true) (st : StreamId) (slot n nans : Nat) : (satWord s st slot n nans).mem.wf = true := by
  have w := satAdd_wf h s.core.ctx slot n nans (.stream s.cur st)
  unfold satWord
  dsimp only
  split
  · simp_all
  · rename_i t act count e
    rw [e] at w
    have w' : (satEvent t s.core.ctx slot t.cur act count).mem.wf = true := by
      unfold satEvent
      split_ifs
      · exact postEvent_wf w ..
      · exact w
    split_ifs
    · exact haltWord_wf w' ..
    · exact w'

/-- Without events a word leaves the saturation slots alone. -/
@[simp] theorem satWord_zero (s : State) (st : StreamId) (slot nans : Nat) : satWord s st slot 0 nans = s := rfl

/-! ## The issue of a word: it keeps the canonical form if its effect does (R37, R90) -/

@[simp] theorem stall_mem (st : StreamId) (s : State) : (stall st s).mem = s.mem := by
  unfold stall
  dsimp only
  split_ifs <;> rfl

@[simp] theorem finishWord_mem (st : StreamId) (h : Hdr) (d : Done) (s : State) : (finishWord st h d s).mem = s.mem := rfl

theorem issue_wf {i : Instr} {st : StreamId} {h : Hdr} {g : BitVec 4} {z : Option Nat} {s : State} {body : State → Act} (hw : s.mem.wf = true)
    (hb : ∀ s', (body (startWord st s) = .wait s' ∨ ∃ d, body (startWord st s) = .done s' d) → s'.mem.wf = true) :
    (issue i st h g z s body).mem.wf = true := by
  unfold issue
  split
  · exact hw
  · split
    · exact faultOrWait_wf hw ..
    · simpa using hw
    · simpa using hw
    · split
      · simpa using hw
      · split
        · simpa using hw
        · simpa using hw
        · split
          · simpa using hb _ (.inl ‹_›)
          · exact faultOrWait_wf hw ..
          · simpa using hb _ (.inr ⟨_, ‹_›⟩)

end Sys2Proof.Machine
end

