-- ==== Sys2Proof/Laws/Opers.lean ====
section
/-! SUPPORT. Laws/Opers.lean: what the shared operations on the operation table do, once each: the state an operation takes, and
that memory keeps its canonical form. -/

namespace Sys2Proof.Machine

/-! ## Reading back an operation -/

theorem sfind_sput_same {α : Type} (m : Sparse α) (k : Nat) (v : α) : sfind (sput m k v) k = some v := by
  rw [sfind_sput, if_pos rfl]

@[simp] theorem State.getO_putO (s : State) (x slot : Nat) (o : Op) : (s.putO x slot o).getO x slot = some o := by
  unfold State.getO State.putO
  rw [State.getX_modX]
  exact sfind_sput_same ..

theorem State.getO_putO_other (s : State) (x slot slot' : Nat) (o : Op) (h : slot' ≠ slot) : (s.putO x slot o).getO x slot' = s.getO x slot' := by
  unfold State.getO State.putO
  rw [State.getX_modX]
  show sfind (sput (s.getX x).ops slot o) slot' = _
  rw [sfind_sput, if_neg h]

theorem State.modO_some {s : State} {x slot : Nat} {o : Op} (h : s.getO x slot = some o) (f : Op → Op) : s.modO x slot f = s.putO x slot (f o) := by
  simp [State.modO, h]

@[simp] theorem State.putO_mem (s : State) (x slot : Nat) (o : Op) : (s.putO x slot o).mem = s.mem := rfl
@[simp] theorem State.modO_mem (s : State) (x slot : Nat) (f : Op → Op) : (s.modO x slot f).mem = s.mem := by
  unfold State.modO
  split <;> rfl

/-! ## Images and states (R244, R246) -/

theorem State.imageOp_only (s : State) (x slot : Nat) : ∃ m n r q, s.imageOp x slot = s.withDev m n r q := by
  unfold State.imageOp
  split
  · exact State.devWrite_only ..
  · exact ⟨s.mem, s.free, s.residues, s.devQ, rfl⟩

theorem State.imageOp_wf {s : State} (h : s.mem.wf = true) (x slot : Nat) : (s.imageOp x slot).mem.wf = true := by
  unfold State.imageOp
  split
  · exact State.devWrite_wf h ..
  · exact h

/-- An operation's new state reaches its table entry with its time, and its image. -/
theorem setOpSt_only {s : State} {x slot : Nat} {o : Op} (h : s.getO x slot = some o) (st : OpSt) :
    ∃ m n r q, setOpSt s x slot st = (s.putO x slot { o with st := st, time := recTime s }).withDev m n r q := by
  unfold setOpSt
  rw [State.modO_some h]
  exact State.imageOp_only ..

theorem setOpSt_getO {s : State} {x slot : Nat} {o : Op} (h : s.getO x slot = some o) (st : OpSt) :
    (setOpSt s x slot st).getO x slot = some { o with st := st, time := recTime s } := by
  obtain ⟨m, n, r, q, e⟩ := setOpSt_only h st
  rw [e]
  exact State.getO_putO s x slot _

theorem setOpSt_wf {s : State} (h : s.mem.wf = true) (x slot : Nat) (st : OpSt) : (setOpSt s x slot st).mem.wf = true :=
  State.imageOp_wf (by simpa using h) x slot

/-! ## Consumption and orphans (R238-R241) -/

theorem retireOp_wf {s : State} (h : s.mem.wf = true) (x slot : Nat) : (retireOp s x slot).mem.wf = true := by
  unfold retireOp
  split
  · exact h
  · dsimp only
    have w := setOpSt_wf h x slot .retired
    split_ifs
    · exact State.imageCtx_wf (s := State.modX _ x _) w x
    · exact w

theorem orphanOp_wf {s : State} (h : s.mem.wf = true) (x slot : Nat) : (orphanOp s x slot).mem.wf = true := by
  unfold orphanOp
  split
  · exact h
  · split_ifs
    · exact State.imageCtx_wf (s := State.modX _ x _) (setOpSt_wf h x slot .orphaned) x
    · exact retireOp_wf (postEvent_wf h ..) x slot

@[simp] theorem tellWaiters_mem (s : State) (x : Nat) (o : Op) : (tellWaiters s x o).mem = s.mem := by
  unfold tellWaiters
  generalize owaiters s x o.handle = l
  induction l generalizing s with
  | nil => rfl
  | cons e l ih => exact ih _

theorem afterFinish_wf {s : State} (h : s.mem.wf = true) (x slot : Nat) : (afterFinish s x slot).mem.wf = true := by
  unfold afterFinish
  split
  · exact h
  · rename_i o _
    have w : (tellWaiters s x o).mem.wf = true := by simpa using h
    dsimp only
    split_ifs
    · exact retireOp_wf w x slot
    · exact orphanOp_wf w x slot
    · exact w
    · exact retireOp_wf w x slot
    · exact w

@[simp] theorem releaseTiles_mem (s : State) (x : Nat) (h : W32) : (releaseTiles s x h).mem = s.mem := rfl

theorem abortColl_only (s : State) (x : Nat) (o : Op) (code : Byte) : ∃ b, abortColl s x o code = { s with outbox := b } := by
  unfold abortColl
  split
  · exact State.sendMembers_only ..
  · exact ⟨s.outbox, rfl⟩

@[simp] theorem abortColl_mem (s : State) (x : Nat) (o : Op) (code : Byte) : (abortColl s x o code).mem = s.mem := by
  obtain ⟨b, h⟩ := abortColl_only s x o code
  rw [h]

/-! ## The end of an operation (R237, R244) -/

theorem finishOp_wf {s : State} (h : s.mem.wf = true) (x slot : Nat) (st : OpSt) (code : Byte) (index : W32) (addr : W64) :
    (finishOp s x slot st code index addr).mem.wf = true := by
  unfold finishOp
  split
  · exact h
  · dsimp only
    split_ifs
    · exact h
    · exact afterFinish_wf (State.imageOp_wf (by exact h) x slot) x slot
    · exact afterFinish_wf (State.imageOp_wf (by rw [abortColl_mem]; exact h) x slot) x slot

theorem completeOp_wf {s : State} (h : s.mem.wf = true) (x slot : Nat) : (completeOp s x slot).mem.wf = true := finishOp_wf h ..
theorem failOp_wf {s : State} (h : s.mem.wf = true) (x slot : Nat) (code : Byte) (index : W32) (addr : W64) :
    (failOp s x slot code index addr).mem.wf = true := finishOp_wf (by simpa using h) ..
theorem cancelOp_wf {s : State} (h : s.mem.wf = true) (x slot : Nat) (addr : W64) : (cancelOp s x slot addr).mem.wf = true := finishOp_wf h ..

/-- An operation that has finished stays as it is. -/
theorem finishOp_finished {s : State} {x slot : Nat} {o : Op} (h : s.getO x slot = some o) (hf : o.st.finished = true) (st : OpSt) (code : Byte)
    (index : W32) (addr : W64) : finishOp s x slot st code index addr = s := by
  simp [finishOp, h, hf]

/-! ## Predecessors and creation (R236, R237, R243) -/

theorem advanceOp_wf {s : State} (h : s.mem.wf = true) (x slot : Nat) : (advanceOp s x slot).mem.wf = true := by
  unfold advanceOp
  split
  · exact h
  · split
    · split_ifs
      · exact h
      · exact setOpSt_wf h ..
    · exact cancelOp_wf h ..
    · exact failOp_wf h ..
    · split
      · exact completeOp_wf h ..
      · exact setOpSt_wf (by simpa using h) ..

theorem placeOp_wf {s : State} (h : s.mem.wf = true) (x slot : Nat) (o : Op) : (placeOp s x slot o).mem.wf = true :=
  State.imageOp_wf (by exact h) x slot

/-- A created operation stands in its slot. -/
theorem placeOp_getO (s : State) (x slot : Nat) (o : Op) : (placeOp s x slot o).getO x slot = some o := by
  unfold placeOp
  dsimp only
  obtain ⟨m, n, r, q, e⟩ := State.imageOp_only
    { s.modX x (fun c => { c with ops := sput c.ops slot o, retired := c.retired.filter fun n => n ≠ slot }) with opCount := s.opCount + 1 } x slot
  refine (congrArg (fun t : State => t.getO x slot) e).trans ?_
  have g := State.getX_modX s x fun c => { c with ops := sput c.ops slot o, retired := c.retired.filter fun n => n ≠ slot }
  exact (congrArg (fun c : Ctx => sfind c.ops slot) g).trans (sfind_sput_same ..)

end Sys2Proof.Machine
end

