-- ==== Sys2Proof/Laws/PerInstr.lean ====
section
/-! SUPPORT. Laws/PerInstr.lean: per instruction, that its word decodes to it with every field (R28, R36, R42-R47). -/

namespace Sys2Proof

set_option Elab.async false

/-- A slice of an append that lies in the low part. -/
theorem extractLow {u v : Nat} (x : BitVec u) (y : BitVec v) (i n : Nat) (h : i + n ≤ v) :
    (x ++ y).extractLsb' i n = y.extractLsb' i n := by
  ext j hj
  simp only [BitVec.getElem_extractLsb', BitVec.getLsbD_append]
  rw [if_pos (by omega)]

/-- A slice of an append that lies in the high part. -/
theorem extractHigh {u v : Nat} (x : BitVec u) (y : BitVec v) (i n : Nat) (h : v ≤ i) :
    (x ++ y).extractLsb' i n = x.extractLsb' (i - v) n := by
  ext j hj
  simp only [BitVec.getElem_extractLsb', BitVec.getLsbD_append]
  rw [if_neg (by omega)]
  congr 1; omega

theorem hdrOf_pack (h : Hdr) (op : BitVec 8) (f : BitVec 40) : hdrOf (packWord h op f) = h := by
  obtain ⟨idle, pop, push⟩ := h
  simp (disch := decide) only [hdrOf, packWord, extractLow, extractHigh]
  simp

theorem op_pack (h : Hdr) (op : BitVec 8) (f : BitVec 40) : (packWord h op f).extractLsb' 40 8 = op := by
  simp (disch := decide) only [packWord, extractLow, extractHigh]
  simp

theorem body_pack (h : Hdr) (op : BitVec 8) (f : BitVec 40) (i n : Nat) (hn : i + n ≤ 40) :
    (packWord h op f).extractLsb' i n = f.extractLsb' i n := by
  unfold packWord
  exact extractLow _ f i n hn

theorem frOf_pack (h : Hdr) (op : BitVec 8) (o : FR) : frOf (packWord h op o.enc) = o := by
  obtain ⟨d, a, b, c, t, rm, g, m⟩ := o
  simp (disch := decide) only [frOf, body_pack, FR.enc, extractLow, extractHigh]
  simp

theorem fiOf_pack (h : Hdr) (op : BitVec 8) (o : FI) : fiOf (packWord h op o.enc) = o := by
  obtain ⟨d, a, imm⟩ := o
  simp (disch := decide) only [fiOf, body_pack, FI.enc, extractLow, extractHigh]
  simp

theorem fbOf_pack (h : Hdr) (op : BitVec 8) (o : FB) : fbOf (packWord h op o.enc) = o := by
  obtain ⟨p, n, k, off⟩ := o
  simp (disch := decide) only [fbOf, body_pack, FB.enc, extractLow, extractHigh]
  simp

theorem flOf_pack (h : Hdr) (op : BitVec 8) (o : FL) : flOf (packWord h op o.enc) = o := by
  obtain ⟨count, level, rest⟩ := o
  simp (disch := decide) only [flOf, body_pack, FL.enc, extractLow, extractHigh]
  simp

theorem fmOf_pack (h : Hdr) (op : BitVec 8) (o : FM) : fmOf (packWord h op o.enc) = o := by
  obtain ⟨data, base, off, sz, sp, bypass, ord⟩ := o
  simp (disch := decide) only [fmOf, body_pack, FM.enc, extractLow, extractHigh]
  simp

theorem foOf_pack (h : Hdr) (op : BitVec 8) (o : FO) : foOf (packWord h op o.enc) = o := by
  obtain ⟨d, a, b, c, pr, dt, af, g, m⟩ := o
  simp (disch := decide) only [foOf, body_pack, FO.enc, extractLow, extractHigh]
  simp

theorem ftOf_pack (h : Hdr) (op : BitVec 8) (o : FT) : ftOf (packWord h op o.enc) = o := by
  obtain ⟨td, ta, tb, rms, cms, et, s, g, m⟩ := o
  simp (disch := decide) only [ftOf, body_pack, FT.enc, extractLow, extractHigh]
  simp

theorem fwOf_pack (h : Hdr) (op : BitVec 8) (o : FW) : fwOf (packWord h op o.enc) = o := by
  obtain ⟨d, ta, tout, rms, cms, pr, dt, acc, et, g, m⟩ := o
  simp (disch := decide) only [fwOf, body_pack, FW.enc, extractLow, extractHigh]
  simp

theorem noOf_pack (h : Hdr) (op : BitVec 8) (o : NO) : noOf (packWord h op o.rest) = o := by
  obtain ⟨r⟩ := o
  simp (disch := decide) only [noOf, body_pack]
  simp

namespace Laws.RoundTrip

/-- The word of an instruction decodes, in its stream's map, to that instruction (R28, R36, R42-R47). -/
def Statement (i : Instr) : Prop := ∀ st w, Machine.wordStream i = some st → encode i = some w → decode st w = .ok i

theorem nop (st : StreamId) (h : Hdr) (o : NO) : Statement (.nop st h o) := by
  intro _ _ h1 h2
  cases h1; cases h2
  simp only [decode, op_pack, opcodeOf]
  simp [decodeCommon, operandBits, hdrOf_pack, noOf_pack]

theorem align (st : StreamId) (h : Hdr) (o : NO) : Statement (.align st h o) := by
  intro _ _ h1 h2
  cases h1; cases h2
  simp only [decode, op_pack, opcodeOf]
  simp [decodeCommon, operandBits, hdrOf_pack, noOf_pack]

theorem stop (st : StreamId) (h : Hdr) (o : NO) : Statement (.stop st h o) := by
  intro _ _ h1 h2
  cases h1; cases h2
  simp only [decode, op_pack, opcodeOf]
  simp [decodeCommon, operandBits, hdrOf_pack, noOf_pack]

theorem loop (st : StreamId) (h : Hdr) (o : FL) : Statement (.loop st h o) := by
  intro _ _ h1 h2
  cases h1; cases h2
  simp only [decode, op_pack, opcodeOf]
  simp [decodeCommon, operandBits, hdrOf_pack, flOf_pack]

theorem endl (st : StreamId) (h : Hdr) (o : FL) : Statement (.endl st h o) := by
  intro _ _ h1 h2
  cases h1; cases h2
  simp only [decode, op_pack, opcodeOf]
  simp [decodeCommon, operandBits, hdrOf_pack, flOf_pack]

theorem brk (st : StreamId) (h : Hdr) (o : FI) : Statement (.brk st h o) := by
  intro _ _ h1 h2
  cases h1; cases h2
  simp only [decode, op_pack, opcodeOf]
  simp [decodeCommon, operandBits, hdrOf_pack, fiOf_pack]

theorem ldlit (st : StreamId) (h : Hdr) (o : FI) : Statement (.ldlit st h o) := by
  intro _ _ h1 h2
  cases h1; cases h2
  simp only [decode, op_pack, opcodeOf]
  simp [decodeCommon, operandBits, hdrOf_pack, fiOf_pack]

theorem pool (st : StreamId) (h : Hdr) (o : FI) : Statement (.pool st h o) := by
  intro _ _ h1 h2
  cases h1; cases h2
  simp only [decode, op_pack, opcodeOf]
  simp [decodeCommon, operandBits, hdrOf_pack, fiOf_pack]

theorem br (st : StreamId) (h : Hdr) (o : FB) : Statement (.br st h o) := by
  intro _ _ h1 h2
  cases h1; cases h2
  simp only [decode, op_pack, opcodeOf]
  simp [decodeCommon, operandBits, hdrOf_pack, fbOf_pack]

theorem add (h : Hdr) (o : FR) : Statement (.add h o) := by
  intro _ _ h1 h2
  cases h1; cases h2
  simp only [decode, op_pack, opcodeOf]
  simp [decodeCommon, decodeS, operandBits, hdrOf_pack, frOf_pack]

theorem sub (h : Hdr) (o : FR) : Statement (.sub h o) := by
  intro _ _ h1 h2
  cases h1; cases h2
  simp only [decode, op_pack, opcodeOf]
  simp [decodeCommon, decodeS, operandBits, hdrOf_pack, frOf_pack]

theorem mul (h : Hdr) (o : FR) : Statement (.mul h o) := by
  intro _ _ h1 h2
  cases h1; cases h2
  simp only [decode, op_pack, opcodeOf]
  simp [decodeCommon, decodeS, operandBits, hdrOf_pack, frOf_pack]

theorem mulh (h : Hdr) (o : FR) : Statement (.mulh h o) := by
  intro _ _ h1 h2
  cases h1; cases h2
  simp only [decode, op_pack, opcodeOf]
  simp [decodeCommon, decodeS, operandBits, hdrOf_pack, frOf_pack]

theorem div (h : Hdr) (o : FR) : Statement (.div h o) := by
  intro _ _ h1 h2
  cases h1; cases h2
  simp only [decode, op_pack, opcodeOf]
  simp [decodeCommon, decodeS, operandBits, hdrOf_pack, frOf_pack]

theorem rem (h : Hdr) (o : FR) : Statement (.rem h o) := by
  intro _ _ h1 h2
  cases h1; cases h2
  simp only [decode, op_pack, opcodeOf]
  simp [decodeCommon, decodeS, operandBits, hdrOf_pack, frOf_pack]

theorem mad (h : Hdr) (o : FR) : Statement (.mad h o) := by
  intro _ _ h1 h2
  cases h1; cases h2
  simp only [decode, op_pack, opcodeOf]
  simp [decodeCommon, decodeS, operandBits, hdrOf_pack, frOf_pack]

theorem min (h : Hdr) (o : FR) : Statement (.min h o) := by
  intro _ _ h1 h2
  cases h1; cases h2
  simp only [decode, op_pack, opcodeOf]
  simp [decodeCommon, decodeS, operandBits, hdrOf_pack, frOf_pack]

theorem max (h : Hdr) (o : FR) : Statement (.max h o) := by
  intro _ _ h1 h2
  cases h1; cases h2
  simp only [decode, op_pack, opcodeOf]
  simp [decodeCommon, decodeS, operandBits, hdrOf_pack, frOf_pack]

theorem and (h : Hdr) (o : FR) : Statement (.and h o) := by
  intro _ _ h1 h2
  cases h1; cases h2
  simp only [decode, op_pack, opcodeOf]
  simp [decodeCommon, decodeS, operandBits, hdrOf_pack, frOf_pack]

theorem or (h : Hdr) (o : FR) : Statement (.or h o) := by
  intro _ _ h1 h2
  cases h1; cases h2
  simp only [decode, op_pack, opcodeOf]
  simp [decodeCommon, decodeS, operandBits, hdrOf_pack, frOf_pack]

theorem xor (h : Hdr) (o : FR) : Statement (.xor h o) := by
  intro _ _ h1 h2
  cases h1; cases h2
  simp only [decode, op_pack, opcodeOf]
  simp [decodeCommon, decodeS, operandBits, hdrOf_pack, frOf_pack]

theorem andn (h : Hdr) (o : FR) : Statement (.andn h o) := by
  intro _ _ h1 h2
  cases h1; cases h2
  simp only [decode, op_pack, opcodeOf]
  simp [decodeCommon, decodeS, operandBits, hdrOf_pack, frOf_pack]

theorem shl (h : Hdr) (o : FR) : Statement (.shl h o) := by
  intro _ _ h1 h2
  cases h1; cases h2
  simp only [decode, op_pack, opcodeOf]
  simp [decodeCommon, decodeS, operandBits, hdrOf_pack, frOf_pack]

theorem shr (h : Hdr) (o : FR) : Statement (.shr h o) := by
  intro _ _ h1 h2
  cases h1; cases h2
  simp only [decode, op_pack, opcodeOf]
  simp [decodeCommon, decodeS, operandBits, hdrOf_pack, frOf_pack]

theorem sar (h : Hdr) (o : FR) : Statement (.sar h o) := by
  intro _ _ h1 h2
  cases h1; cases h2
  simp only [decode, op_pack, opcodeOf]
  simp [decodeCommon, decodeS, operandBits, hdrOf_pack, frOf_pack]

theorem rot (h : Hdr) (o : FR) : Statement (.rot h o) := by
  intro _ _ h1 h2
  cases h1; cases h2
  simp only [decode, op_pack, opcodeOf]
  simp [decodeCommon, decodeS, operandBits, hdrOf_pack, frOf_pack]

theorem clz (h : Hdr) (o : FR) : Statement (.clz h o) := by
  intro _ _ h1 h2
  cases h1; cases h2
  simp only [decode, op_pack, opcodeOf]
  simp [decodeCommon, decodeS, operandBits, hdrOf_pack, frOf_pack]

theorem ctz (h : Hdr) (o : FR) : Statement (.ctz h o) := by
  intro _ _ h1 h2
  cases h1; cases h2
  simp only [decode, op_pack, opcodeOf]
  simp [decodeCommon, decodeS, operandBits, hdrOf_pack, frOf_pack]

theorem popc (h : Hdr) (o : FR) : Statement (.popc h o) := by
  intro _ _ h1 h2
  cases h1; cases h2
  simp only [decode, op_pack, opcodeOf]
  simp [decodeCommon, decodeS, operandBits, hdrOf_pack, frOf_pack]

theorem bfx (h : Hdr) (o : FR) : Statement (.bfx h o) := by
  intro _ _ h1 h2
  cases h1; cases h2
  simp only [decode, op_pack, opcodeOf]
  simp [decodeCommon, decodeS, operandBits, hdrOf_pack, frOf_pack]

theorem bfi (h : Hdr) (o : FR) : Statement (.bfi h o) := by
  intro _ _ h1 h2
  cases h1; cases h2
  simp only [decode, op_pack, opcodeOf]
  simp [decodeCommon, decodeS, operandBits, hdrOf_pack, frOf_pack]

theorem ext (h : Hdr) (o : FR) : Statement (.ext h o) := by
  intro _ _ h1 h2
  cases h1; cases h2
  simp only [decode, op_pack, opcodeOf]
  simp [decodeCommon, decodeS, operandBits, hdrOf_pack, frOf_pack]

theorem sel (h : Hdr) (o : FR) : Statement (.sel h o) := by
  intro _ _ h1 h2
  cases h1; cases h2
  simp only [decode, op_pack, opcodeOf]
  simp [decodeCommon, decodeS, operandBits, hdrOf_pack, frOf_pack]

theorem cmp (h : Hdr) (o : FR) : Statement (.cmp h o) := by
  intro _ _ h1 h2
  cases h1; cases h2
  simp only [decode, op_pack, opcodeOf]
  simp [decodeCommon, decodeS, operandBits, hdrOf_pack, frOf_pack]

theorem movi (h : Hdr) (o : FI) : Statement (.movi h o) := by
  intro _ _ h1 h2
  cases h1; cases h2
  simp only [decode, op_pack, opcodeOf]
  simp [decodeCommon, decodeS, operandBits, hdrOf_pack, fiOf_pack]

theorem movh (h : Hdr) (o : FI) : Statement (.movh h o) := by
  intro _ _ h1 h2
  cases h1; cases h2
  simp only [decode, op_pack, opcodeOf]
  simp [decodeCommon, decodeS, operandBits, hdrOf_pack, fiOf_pack]

theorem mov (h : Hdr) (o : FR) : Statement (.mov h o) := by
  intro _ _ h1 h2
  cases h1; cases h2
  simp only [decode, op_pack, opcodeOf]
  simp [decodeCommon, decodeS, operandBits, hdrOf_pack, frOf_pack]

theorem keep (h : Hdr) (o : FR) : Statement (.keep h o) := by
  intro _ _ h1 h2
  cases h1; cases h2
  simp only [decode, op_pack, opcodeOf]
  simp [decodeCommon, decodeS, operandBits, hdrOf_pack, frOf_pack]

theorem pand (h : Hdr) (o : FR) : Statement (.pand h o) := by
  intro _ _ h1 h2
  cases h1; cases h2
  simp only [decode, op_pack, opcodeOf]
  simp [decodeCommon, decodeS, operandBits, hdrOf_pack, frOf_pack]

theorem por (h : Hdr) (o : FR) : Statement (.por h o) := by
  intro _ _ h1 h2
  cases h1; cases h2
  simp only [decode, op_pack, opcodeOf]
  simp [decodeCommon, decodeS, operandBits, hdrOf_pack, frOf_pack]

theorem pxor (h : Hdr) (o : FR) : Statement (.pxor h o) := by
  intro _ _ h1 h2
  cases h1; cases h2
  simp only [decode, op_pack, opcodeOf]
  simp [decodeCommon, decodeS, operandBits, hdrOf_pack, frOf_pack]

theorem pnot (h : Hdr) (o : FR) : Statement (.pnot h o) := by
  intro _ _ h1 h2
  cases h1; cases h2
  simp only [decode, op_pack, opcodeOf]
  simp [decodeCommon, decodeS, operandBits, hdrOf_pack, frOf_pack]

theorem fadd (h : Hdr) (o : FR) : Statement (.fadd h o) := by
  intro _ _ h1 h2
  cases h1; cases h2
  simp only [decode, op_pack, opcodeOf]
  simp [decodeCommon, decodeS, operandBits, hdrOf_pack, frOf_pack]

theorem fsub (h : Hdr) (o : FR) : Statement (.fsub h o) := by
  intro _ _ h1 h2
  cases h1; cases h2
  simp only [decode, op_pack, opcodeOf]
  simp [decodeCommon, decodeS, operandBits, hdrOf_pack, frOf_pack]

theorem fmul (h : Hdr) (o : FR) : Statement (.fmul h o) := by
  intro _ _ h1 h2
  cases h1; cases h2
  simp only [decode, op_pack, opcodeOf]
  simp [decodeCommon, decodeS, operandBits, hdrOf_pack, frOf_pack]

theorem ffma (h : Hdr) (o : FR) : Statement (.ffma h o) := by
  intro _ _ h1 h2
  cases h1; cases h2
  simp only [decode, op_pack, opcodeOf]
  simp [decodeCommon, decodeS, operandBits, hdrOf_pack, frOf_pack]

theorem fdiv (h : Hdr) (o : FR) : Statement (.fdiv h o) := by
  intro _ _ h1 h2
  cases h1; cases h2
  simp only [decode, op_pack, opcodeOf]
  simp [decodeCommon, decodeS, operandBits, hdrOf_pack, frOf_pack]

theorem fsqrt (h : Hdr) (o : FR) : Statement (.fsqrt h o) := by
  intro _ _ h1 h2
  cases h1; cases h2
  simp only [decode, op_pack, opcodeOf]
  simp [decodeCommon, decodeS, operandBits, hdrOf_pack, frOf_pack]

theorem fmin (h : Hdr) (o : FR) : Statement (.fmin h o) := by
  intro _ _ h1 h2
  cases h1; cases h2
  simp only [decode, op_pack, opcodeOf]
  simp [decodeCommon, decodeS, operandBits, hdrOf_pack, frOf_pack]

theorem fmax (h : Hdr) (o : FR) : Statement (.fmax h o) := by
  intro _ _ h1 h2
  cases h1; cases h2
  simp only [decode, op_pack, opcodeOf]
  simp [decodeCommon, decodeS, operandBits, hdrOf_pack, frOf_pack]

theorem fcmp (h : Hdr) (o : FR) : Statement (.fcmp h o) := by
  intro _ _ h1 h2
  cases h1; cases h2
  simp only [decode, op_pack, opcodeOf]
  simp [decodeCommon, decodeS, operandBits, hdrOf_pack, frOf_pack]

theorem fcvt (h : Hdr) (o : FR) : Statement (.fcvt h o) := by
  intro _ _ h1 h2
  cases h1; cases h2
  simp only [decode, op_pack, opcodeOf]
  simp [decodeCommon, decodeS, operandBits, hdrOf_pack, frOf_pack]

theorem fclass (h : Hdr) (o : FR) : Statement (.fclass h o) := by
  intro _ _ h1 h2
  cases h1; cases h2
  simp only [decode, op_pack, opcodeOf]
  simp [decodeCommon, decodeS, operandBits, hdrOf_pack, frOf_pack]

theorem call (h : Hdr) (o : FB) : Statement (.call h o) := by
  intro _ _ h1 h2
  cases h1; cases h2
  simp only [decode, op_pack, opcodeOf]
  simp [decodeCommon, decodeS, operandBits, hdrOf_pack, fbOf_pack]

theorem ret (h : Hdr) (o : NO) : Statement (.ret h o) := by
  intro _ _ h1 h2
  cases h1; cases h2
  simp only [decode, op_pack, opcodeOf]
  simp [decodeCommon, decodeS, operandBits, hdrOf_pack, noOf_pack]

theorem jmp (h : Hdr) (o : FI) : Statement (.jmp h o) := by
  intro _ _ h1 h2
  cases h1; cases h2
  simp only [decode, op_pack, opcodeOf]
  simp [decodeCommon, decodeS, operandBits, hdrOf_pack, fiOf_pack]

theorem swt (h : Hdr) (o : FI) : Statement (.swt h o) := by
  intro _ _ h1 h2
  cases h1; cases h2
  simp only [decode, op_pack, opcodeOf]
  simp [decodeCommon, decodeS, operandBits, hdrOf_pack, fiOf_pack]

theorem mvcr (h : Hdr) (o : FI) : Statement (.mvcr h o) := by
  intro _ _ h1 h2
  cases h1; cases h2
  simp only [decode, op_pack, opcodeOf]
  simp [decodeCommon, decodeS, operandBits, hdrOf_pack, fiOf_pack]

theorem mvrc (h : Hdr) (o : FI) : Statement (.mvrc h o) := by
  intro _ _ h1 h2
  cases h1; cases h2
  simp only [decode, op_pack, opcodeOf]
  simp [decodeCommon, decodeS, operandBits, hdrOf_pack, fiOf_pack]

theorem clk (h : Hdr) (o : FR) : Statement (.clk h o) := by
  intro _ _ h1 h2
  cases h1; cases h2
  simp only [decode, op_pack, opcodeOf]
  simp [decodeCommon, decodeS, operandBits, hdrOf_pack, frOf_pack]

theorem trap (h : Hdr) (o : FI) : Statement (.trap h o) := by
  intro _ _ h1 h2
  cases h1; cases h2
  simp only [decode, op_pack, opcodeOf]
  simp [decodeCommon, decodeS, operandBits, hdrOf_pack, fiOf_pack]

theorem evpost (h : Hdr) (o : FR) : Statement (.evpost h o) := by
  intro _ _ h1 h2
  cases h1; cases h2
  simp only [decode, op_pack, opcodeOf]
  simp [decodeCommon, decodeS, operandBits, hdrOf_pack, frOf_pack]

theorem sysr (h : Hdr) (o : FI) : Statement (.sysr h o) := by
  intro _ _ h1 h2
  cases h1; cases h2
  simp only [decode, op_pack, opcodeOf]
  simp [decodeCommon, decodeS, operandBits, hdrOf_pack, fiOf_pack]

theorem sysw (h : Hdr) (o : FI) : Statement (.sysw h o) := by
  intro _ _ h1 h2
  cases h1; cases h2
  simp only [decode, op_pack, opcodeOf]
  simp [decodeCommon, decodeS, operandBits, hdrOf_pack, fiOf_pack]

theorem owait (h : Hdr) (o : FR) : Statement (.owait h o) := by
  intro _ _ h1 h2
  cases h1; cases h2
  simp only [decode, op_pack, opcodeOf]
  simp [decodeCommon, decodeS, operandBits, hdrOf_pack, frOf_pack]

theorem otest (h : Hdr) (o : FR) : Statement (.otest h o) := by
  intro _ _ h1 h2
  cases h1; cases h2
  simp only [decode, op_pack, opcodeOf]
  simp [decodeCommon, decodeS, operandBits, hdrOf_pack, frOf_pack]

theorem ojoin (h : Hdr) (o : FO) : Statement (.ojoin h o) := by
  intro _ _ h1 h2
  cases h1; cases h2
  simp only [decode, op_pack, opcodeOf]
  simp [decodeCommon, decodeS, operandBits, hdrOf_pack, foOf_pack]

theorem ocancel (h : Hdr) (o : FR) : Statement (.ocancel h o) := by
  intro _ _ h1 h2
  cases h1; cases h2
  simp only [decode, op_pack, opcodeOf]
  simp [decodeCommon, decodeS, operandBits, hdrOf_pack, frOf_pack]

theorem odetach (h : Hdr) (o : FR) : Statement (.odetach h o) := by
  intro _ _ h1 h2
  cases h1; cases h2
  simp only [decode, op_pack, opcodeOf]
  simp [decodeCommon, decodeS, operandBits, hdrOf_pack, frOf_pack]

theorem oadopt (h : Hdr) (o : FR) : Statement (.oadopt h o) := by
  intro _ _ h1 h2
  cases h1; cases h2
  simp only [decode, op_pack, opcodeOf]
  simp [decodeCommon, decodeS, operandBits, hdrOf_pack, frOf_pack]

theorem orelease (h : Hdr) (o : FR) : Statement (.orelease h o) := by
  intro _ _ h1 h2
  cases h1; cases h2
  simp only [decode, op_pack, opcodeOf]
  simp [decodeCommon, decodeS, operandBits, hdrOf_pack, frOf_pack]

theorem oprio (h : Hdr) (o : FR) : Statement (.oprio h o) := by
  intro _ _ h1 h2
  cases h1; cases h2
  simp only [decode, op_pack, opcodeOf]
  simp [decodeCommon, decodeS, operandBits, hdrOf_pack, frOf_pack]

theorem ofault (h : Hdr) (o : FR) : Statement (.ofault h o) := by
  intro _ _ h1 h2
  cases h1; cases h2
  simp only [decode, op_pack, opcodeOf]
  simp [decodeCommon, decodeS, operandBits, hdrOf_pack, frOf_pack]

theorem lease (h : Hdr) (o : FO) : Statement (.lease h o) := by
  intro _ _ h1 h2
  cases h1; cases h2
  simp only [decode, op_pack, opcodeOf]
  simp [decodeCommon, decodeS, operandBits, hdrOf_pack, foOf_pack]

theorem unlease (h : Hdr) (o : FR) : Statement (.unlease h o) := by
  intro _ _ h1 h2
  cases h1; cases h2
  simp only [decode, op_pack, opcodeOf]
  simp [decodeCommon, decodeS, operandBits, hdrOf_pack, frOf_pack]

theorem lquery (h : Hdr) (o : FR) : Statement (.lquery h o) := by
  intro _ _ h1 h2
  cases h1; cases h2
  simp only [decode, op_pack, opcodeOf]
  simp [decodeCommon, decodeS, operandBits, hdrOf_pack, frOf_pack]

theorem colrs (h : Hdr) (o : FO) : Statement (.colrs h o) := by
  intro _ _ h1 h2
  cases h1; cases h2
  simp only [decode, op_pack, opcodeOf]
  simp [decodeCommon, decodeS, operandBits, hdrOf_pack, foOf_pack]

theorem colag (h : Hdr) (o : FO) : Statement (.colag h o) := by
  intro _ _ h1 h2
  cases h1; cases h2
  simp only [decode, op_pack, opcodeOf]
  simp [decodeCommon, decodeS, operandBits, hdrOf_pack, foOf_pack]

theorem colar (h : Hdr) (o : FO) : Statement (.colar h o) := by
  intro _ _ h1 h2
  cases h1; cases h2
  simp only [decode, op_pack, opcodeOf]
  simp [decodeCommon, decodeS, operandBits, hdrOf_pack, foOf_pack]

theorem cola2a (h : Hdr) (o : FO) : Statement (.cola2a h o) := by
  intro _ _ h1 h2
  cases h1; cases h2
  simp only [decode, op_pack, opcodeOf]
  simp [decodeCommon, decodeS, operandBits, hdrOf_pack, foOf_pack]

theorem colbc (h : Hdr) (o : FO) : Statement (.colbc h o) := by
  intro _ _ h1 h2
  cases h1; cases h2
  simp only [decode, op_pack, opcodeOf]
  simp [decodeCommon, decodeS, operandBits, hdrOf_pack, foOf_pack]

theorem colcmb (h : Hdr) (o : FO) : Statement (.colcmb h o) := by
  intro _ _ h1 h2
  cases h1; cases h2
  simp only [decode, op_pack, opcodeOf]
  simp [decodeCommon, decodeS, operandBits, hdrOf_pack, foOf_pack]

theorem rtopk (h : Hdr) (o : FO) : Statement (.rtopk h o) := by
  intro _ _ h1 h2
  cases h1; cases h2
  simp only [decode, op_pack, opcodeOf]
  simp [decodeCommon, decodeS, operandBits, hdrOf_pack, foOf_pack]

theorem rplan (h : Hdr) (o : FO) : Statement (.rplan h o) := by
  intro _ _ h1 h2
  cases h1; cases h2
  simp only [decode, op_pack, opcodeOf]
  simp [decodeCommon, decodeS, operandBits, hdrOf_pack, foOf_pack]

theorem sortkv (h : Hdr) (o : FO) : Statement (.sortkv h o) := by
  intro _ _ h1 h2
  cases h1; cases h2
  simp only [decode, op_pack, opcodeOf]
  simp [decodeCommon, decodeS, operandBits, hdrOf_pack, foOf_pack]

theorem gathr (h : Hdr) (o : FO) : Statement (.gathr h o) := by
  intro _ _ h1 h2
  cases h1; cases h2
  simp only [decode, op_pack, opcodeOf]
  simp [decodeCommon, decodeS, operandBits, hdrOf_pack, foOf_pack]

theorem scatr (h : Hdr) (o : FO) : Statement (.scatr h o) := by
  intro _ _ h1 h2
  cases h1; cases h2
  simp only [decode, op_pack, opcodeOf]
  simp [decodeCommon, decodeS, operandBits, hdrOf_pack, foOf_pack]

theorem sfnap (h : Hdr) (o : FO) : Statement (.sfnap h o) := by
  intro _ _ h1 h2
  cases h1; cases h2
  simp only [decode, op_pack, opcodeOf]
  simp [decodeCommon, decodeS, operandBits, hdrOf_pack, foOf_pack]

theorem cdpack (h : Hdr) (o : FO) : Statement (.cdpack h o) := by
  intro _ _ h1 h2
  cases h1; cases h2
  simp only [decode, op_pack, opcodeOf]
  simp [decodeCommon, decodeS, operandBits, hdrOf_pack, foOf_pack]

theorem cdunpk (h : Hdr) (o : FO) : Statement (.cdunpk h o) := by
  intro _ _ h1 h2
  cases h1; cases h2
  simp only [decode, op_pack, opcodeOf]
  simp [decodeCommon, decodeS, operandBits, hdrOf_pack, foOf_pack]

theorem qlaunch (h : Hdr) (o : FO) : Statement (.qlaunch h o) := by
  intro _ _ h1 h2
  cases h1; cases h2
  simp only [decode, op_pack, opcodeOf]
  simp [decodeCommon, decodeS, operandBits, hdrOf_pack, foOf_pack]

theorem qsignal (h : Hdr) (o : FR) : Statement (.qsignal h o) := by
  intro _ _ h1 h2
  cases h1; cases h2
  simp only [decode, op_pack, opcodeOf]
  simp [decodeCommon, decodeS, operandBits, hdrOf_pack, frOf_pack]

theorem gid (h : Hdr) (o : FR) : Statement (.gid h o) := by
  intro _ _ h1 h2
  cases h1; cases h2
  simp only [decode, op_pack, opcodeOf]
  simp [decodeCommon, decodeS, operandBits, hdrOf_pack, frOf_pack]

theorem grank (h : Hdr) (o : FR) : Statement (.grank h o) := by
  intro _ _ h1 h2
  cases h1; cases h2
  simp only [decode, op_pack, opcodeOf]
  simp [decodeCommon, decodeS, operandBits, hdrOf_pack, frOf_pack]

theorem gsize (h : Hdr) (o : FR) : Statement (.gsize h o) := by
  intro _ _ h1 h2
  cases h1; cases h2
  simp only [decode, op_pack, opcodeOf]
  simp [decodeCommon, decodeS, operandBits, hdrOf_pack, frOf_pack]

theorem gpeer (h : Hdr) (o : FR) : Statement (.gpeer h o) := by
  intro _ _ h1 h2
  cases h1; cases h2
  simp only [decode, op_pack, opcodeOf]
  simp [decodeCommon, decodeS, operandBits, hdrOf_pack, frOf_pack]

theorem gshare (h : Hdr) (o : FR) : Statement (.gshare h o) := by
  intro _ _ h1 h2
  cases h1; cases h2
  simp only [decode, op_pack, opcodeOf]
  simp [decodeCommon, decodeS, operandBits, hdrOf_pack, frOf_pack]

theorem gclaim (h : Hdr) (o : FR) : Statement (.gclaim h o) := by
  intro _ _ h1 h2
  cases h1; cases h2
  simp only [decode, op_pack, opcodeOf]
  simp [decodeCommon, decodeS, operandBits, hdrOf_pack, frOf_pack]

theorem barinit (h : Hdr) (o : FR) : Statement (.barinit h o) := by
  intro _ _ h1 h2
  cases h1; cases h2
  simp only [decode, op_pack, opcodeOf]
  simp [decodeCommon, decodeS, operandBits, hdrOf_pack, frOf_pack]

theorem barrive (h : Hdr) (o : FR) : Statement (.barrive h o) := by
  intro _ _ h1 h2
  cases h1; cases h2
  simp only [decode, op_pack, opcodeOf]
  simp [decodeCommon, decodeS, operandBits, hdrOf_pack, frOf_pack]

theorem barwait (h : Hdr) (o : FR) : Statement (.barwait h o) := by
  intro _ _ h1 h2
  cases h1; cases h2
  simp only [decode, op_pack, opcodeOf]
  simp [decodeCommon, decodeS, operandBits, hdrOf_pack, frOf_pack]

theorem bartest (h : Hdr) (o : FR) : Statement (.bartest h o) := by
  intro _ _ h1 h2
  cases h1; cases h2
  simp only [decode, op_pack, opcodeOf]
  simp [decodeCommon, decodeS, operandBits, hdrOf_pack, frOf_pack]

theorem barleave (h : Hdr) (o : FR) : Statement (.barleave h o) := by
  intro _ _ h1 h2
  cases h1; cases h2
  simp only [decode, op_pack, opcodeOf]
  simp [decodeCommon, decodeS, operandBits, hdrOf_pack, frOf_pack]

theorem glzs (h : Hdr) (o : FO) : Statement (.glzs h o) := by
  intro _ _ h1 h2
  cases h1; cases h2
  simp only [decode, op_pack, opcodeOf]
  simp [decodeCommon, decodeS, operandBits, hdrOf_pack, foOf_pack]

theorem glza (h : Hdr) (o : FR) : Statement (.glza h o) := by
  intro _ _ h1 h2
  cases h1; cases h2
  simp only [decode, op_pack, opcodeOf]
  simp [decodeCommon, decodeS, operandBits, hdrOf_pack, frOf_pack]

theorem glzq (h : Hdr) (o : FR) : Statement (.glzq h o) := by
  intro _ _ h1 h2
  cases h1; cases h2
  simp only [decode, op_pack, opcodeOf]
  simp [decodeCommon, decodeS, operandBits, hdrOf_pack, frOf_pack]

theorem vadd (h : Hdr) (o : FR) : Statement (.vadd h o) := by
  intro _ _ h1 h2
  cases h1; cases h2
  simp only [decode, op_pack, opcodeOf]
  simp [decodeCommon, decodeV, operandBits, hdrOf_pack, frOf_pack]

theorem vsub (h : Hdr) (o : FR) : Statement (.vsub h o) := by
  intro _ _ h1 h2
  cases h1; cases h2
  simp only [decode, op_pack, opcodeOf]
  simp [decodeCommon, decodeV, operandBits, hdrOf_pack, frOf_pack]

theorem vmul (h : Hdr) (o : FR) : Statement (.vmul h o) := by
  intro _ _ h1 h2
  cases h1; cases h2
  simp only [decode, op_pack, opcodeOf]
  simp [decodeCommon, decodeV, operandBits, hdrOf_pack, frOf_pack]

theorem vfma (h : Hdr) (o : FR) : Statement (.vfma h o) := by
  intro _ _ h1 h2
  cases h1; cases h2
  simp only [decode, op_pack, opcodeOf]
  simp [decodeCommon, decodeV, operandBits, hdrOf_pack, frOf_pack]

theorem vmin (h : Hdr) (o : FR) : Statement (.vmin h o) := by
  intro _ _ h1 h2
  cases h1; cases h2
  simp only [decode, op_pack, opcodeOf]
  simp [decodeCommon, decodeV, operandBits, hdrOf_pack, frOf_pack]

theorem vmax (h : Hdr) (o : FR) : Statement (.vmax h o) := by
  intro _ _ h1 h2
  cases h1; cases h2
  simp only [decode, op_pack, opcodeOf]
  simp [decodeCommon, decodeV, operandBits, hdrOf_pack, frOf_pack]

theorem vabs (h : Hdr) (o : FR) : Statement (.vabs h o) := by
  intro _ _ h1 h2
  cases h1; cases h2
  simp only [decode, op_pack, opcodeOf]
  simp [decodeCommon, decodeV, operandBits, hdrOf_pack, frOf_pack]

theorem vneg (h : Hdr) (o : FR) : Statement (.vneg h o) := by
  intro _ _ h1 h2
  cases h1; cases h2
  simp only [decode, op_pack, opcodeOf]
  simp [decodeCommon, decodeV, operandBits, hdrOf_pack, frOf_pack]

theorem vdiv (h : Hdr) (o : FR) : Statement (.vdiv h o) := by
  intro _ _ h1 h2
  cases h1; cases h2
  simp only [decode, op_pack, opcodeOf]
  simp [decodeCommon, decodeV, operandBits, hdrOf_pack, frOf_pack]

theorem vsqrt (h : Hdr) (o : FR) : Statement (.vsqrt h o) := by
  intro _ _ h1 h2
  cases h1; cases h2
  simp only [decode, op_pack, opcodeOf]
  simp [decodeCommon, decodeV, operandBits, hdrOf_pack, frOf_pack]

theorem vrcp (h : Hdr) (o : FR) : Statement (.vrcp h o) := by
  intro _ _ h1 h2
  cases h1; cases h2
  simp only [decode, op_pack, opcodeOf]
  simp [decodeCommon, decodeV, operandBits, hdrOf_pack, frOf_pack]

theorem vrsqrt (h : Hdr) (o : FR) : Statement (.vrsqrt h o) := by
  intro _ _ h1 h2
  cases h1; cases h2
  simp only [decode, op_pack, opcodeOf]
  simp [decodeCommon, decodeV, operandBits, hdrOf_pack, frOf_pack]

theorem vexp2 (h : Hdr) (o : FR) : Statement (.vexp2 h o) := by
  intro _ _ h1 h2
  cases h1; cases h2
  simp only [decode, op_pack, opcodeOf]
  simp [decodeCommon, decodeV, operandBits, hdrOf_pack, frOf_pack]

theorem vlog2 (h : Hdr) (o : FR) : Statement (.vlog2 h o) := by
  intro _ _ h1 h2
  cases h1; cases h2
  simp only [decode, op_pack, opcodeOf]
  simp [decodeCommon, decodeV, operandBits, hdrOf_pack, frOf_pack]

theorem vand (h : Hdr) (o : FR) : Statement (.vand h o) := by
  intro _ _ h1 h2
  cases h1; cases h2
  simp only [decode, op_pack, opcodeOf]
  simp [decodeCommon, decodeV, operandBits, hdrOf_pack, frOf_pack]

theorem vor (h : Hdr) (o : FR) : Statement (.vor h o) := by
  intro _ _ h1 h2
  cases h1; cases h2
  simp only [decode, op_pack, opcodeOf]
  simp [decodeCommon, decodeV, operandBits, hdrOf_pack, frOf_pack]

theorem vxor (h : Hdr) (o : FR) : Statement (.vxor h o) := by
  intro _ _ h1 h2
  cases h1; cases h2
  simp only [decode, op_pack, opcodeOf]
  simp [decodeCommon, decodeV, operandBits, hdrOf_pack, frOf_pack]

theorem vshl (h : Hdr) (o : FR) : Statement (.vshl h o) := by
  intro _ _ h1 h2
  cases h1; cases h2
  simp only [decode, op_pack, opcodeOf]
  simp [decodeCommon, decodeV, operandBits, hdrOf_pack, frOf_pack]

theorem vshr (h : Hdr) (o : FR) : Statement (.vshr h o) := by
  intro _ _ h1 h2
  cases h1; cases h2
  simp only [decode, op_pack, opcodeOf]
  simp [decodeCommon, decodeV, operandBits, hdrOf_pack, frOf_pack]

theorem vsar (h : Hdr) (o : FR) : Statement (.vsar h o) := by
  intro _ _ h1 h2
  cases h1; cases h2
  simp only [decode, op_pack, opcodeOf]
  simp [decodeCommon, decodeV, operandBits, hdrOf_pack, frOf_pack]

theorem vcmp (h : Hdr) (o : FR) : Statement (.vcmp h o) := by
  intro _ _ h1 h2
  cases h1; cases h2
  simp only [decode, op_pack, opcodeOf]
  simp [decodeCommon, decodeV, operandBits, hdrOf_pack, frOf_pack]

theorem vsel (h : Hdr) (o : FR) : Statement (.vsel h o) := by
  intro _ _ h1 h2
  cases h1; cases h2
  simp only [decode, op_pack, opcodeOf]
  simp [decodeCommon, decodeV, operandBits, hdrOf_pack, frOf_pack]

theorem vwadd (h : Hdr) (o : FR) : Statement (.vwadd h o) := by
  intro _ _ h1 h2
  cases h1; cases h2
  simp only [decode, op_pack, opcodeOf]
  simp [decodeCommon, decodeV, operandBits, hdrOf_pack, frOf_pack]

theorem vwmul (h : Hdr) (o : FR) : Statement (.vwmul h o) := by
  intro _ _ h1 h2
  cases h1; cases h2
  simp only [decode, op_pack, opcodeOf]
  simp [decodeCommon, decodeV, operandBits, hdrOf_pack, frOf_pack]

theorem vscan (h : Hdr) (o : FR) : Statement (.vscan h o) := by
  intro _ _ h1 h2
  cases h1; cases h2
  simp only [decode, op_pack, opcodeOf]
  simp [decodeCommon, decodeV, operandBits, hdrOf_pack, frOf_pack]

theorem vred (h : Hdr) (o : FR) : Statement (.vred h o) := by
  intro _ _ h1 h2
  cases h1; cases h2
  simp only [decode, op_pack, opcodeOf]
  simp [decodeCommon, decodeV, operandBits, hdrOf_pack, frOf_pack]

theorem vperm (h : Hdr) (o : FR) : Statement (.vperm h o) := by
  intro _ _ h1 h2
  cases h1; cases h2
  simp only [decode, op_pack, opcodeOf]
  simp [decodeCommon, decodeV, operandBits, hdrOf_pack, frOf_pack]

theorem vbcast (h : Hdr) (o : FR) : Statement (.vbcast h o) := by
  intro _ _ h1 h2
  cases h1; cases h2
  simp only [decode, op_pack, opcodeOf]
  simp [decodeCommon, decodeV, operandBits, hdrOf_pack, frOf_pack]

theorem vrot (h : Hdr) (o : FR) : Statement (.vrot h o) := by
  intro _ _ h1 h2
  cases h1; cases h2
  simp only [decode, op_pack, opcodeOf]
  simp [decodeCommon, decodeV, operandBits, hdrOf_pack, frOf_pack]

theorem vcomp (h : Hdr) (o : FR) : Statement (.vcomp h o) := by
  intro _ _ h1 h2
  cases h1; cases h2
  simp only [decode, op_pack, opcodeOf]
  simp [decodeCommon, decodeV, operandBits, hdrOf_pack, frOf_pack]

theorem vcvt (h : Hdr) (o : FR) : Statement (.vcvt h o) := by
  intro _ _ h1 h2
  cases h1; cases h2
  simp only [decode, op_pack, opcodeOf]
  simp [decodeCommon, decodeV, operandBits, hdrOf_pack, frOf_pack]

theorem vmxq (h : Hdr) (o : FR) : Statement (.vmxq h o) := by
  intro _ _ h1 h2
  cases h1; cases h2
  simp only [decode, op_pack, opcodeOf]
  simp [decodeCommon, decodeV, operandBits, hdrOf_pack, frOf_pack]

theorem vmxd (h : Hdr) (o : FR) : Statement (.vmxd h o) := by
  intro _ _ h1 h2
  cases h1; cases h2
  simp only [decode, op_pack, opcodeOf]
  simp [decodeCommon, decodeV, operandBits, hdrOf_pack, frOf_pack]

theorem vsatr (h : Hdr) (o : FR) : Statement (.vsatr h o) := by
  intro _ _ h1 h2
  cases h1; cases h2
  simp only [decode, op_pack, opcodeOf]
  simp [decodeCommon, decodeV, operandBits, hdrOf_pack, frOf_pack]

theorem vseed (h : Hdr) (o : FR) : Statement (.vseed h o) := by
  intro _ _ h1 h2
  cases h1; cases h2
  simp only [decode, op_pack, opcodeOf]
  simp [decodeCommon, decodeV, operandBits, hdrOf_pack, frOf_pack]

theorem vrand (h : Hdr) (o : FR) : Statement (.vrand h o) := by
  intro _ _ h1 h2
  cases h1; cases h2
  simp only [decode, op_pack, opcodeOf]
  simp [decodeCommon, decodeV, operandBits, hdrOf_pack, frOf_pack]

theorem vpop (h : Hdr) (o : FI) : Statement (.vpop h o) := by
  intro _ _ h1 h2
  cases h1; cases h2
  simp only [decode, op_pack, opcodeOf]
  simp [decodeCommon, decodeV, operandBits, hdrOf_pack, fiOf_pack]

theorem vpush (h : Hdr) (o : FI) : Statement (.vpush h o) := by
  intro _ _ h1 h2
  cases h1; cases h2
  simp only [decode, op_pack, opcodeOf]
  simp [decodeCommon, decodeV, operandBits, hdrOf_pack, fiOf_pack]

theorem vtrd (h : Hdr) (o : FT) : Statement (.vtrd h o) := by
  intro _ _ h1 h2
  cases h1; cases h2
  simp only [decode, op_pack, opcodeOf]
  simp [decodeCommon, decodeV, operandBits, hdrOf_pack, ftOf_pack]

theorem vtwr (h : Hdr) (o : FT) : Statement (.vtwr h o) := by
  intro _ _ h1 h2
  cases h1; cases h2
  simp only [decode, op_pack, opcodeOf]
  simp [decodeCommon, decodeV, operandBits, hdrOf_pack, ftOf_pack]

theorem vmov (h : Hdr) (o : FR) : Statement (.vmov h o) := by
  intro _ _ h1 h2
  cases h1; cases h2
  simp only [decode, op_pack, opcodeOf]
  simp [decodeCommon, decodeV, operandBits, hdrOf_pack, frOf_pack]

theorem vext (h : Hdr) (o : FR) : Statement (.vext h o) := by
  intro _ _ h1 h2
  cases h1; cases h2
  simp only [decode, op_pack, opcodeOf]
  simp [decodeCommon, decodeV, operandBits, hdrOf_pack, frOf_pack]

theorem vins (h : Hdr) (o : FR) : Statement (.vins h o) := by
  intro _ _ h1 h2
  cases h1; cases h2
  simp only [decode, op_pack, opcodeOf]
  simp [decodeCommon, decodeV, operandBits, hdrOf_pack, frOf_pack]

theorem vpand (h : Hdr) (o : FR) : Statement (.vpand h o) := by
  intro _ _ h1 h2
  cases h1; cases h2
  simp only [decode, op_pack, opcodeOf]
  simp [decodeCommon, decodeV, operandBits, hdrOf_pack, frOf_pack]

theorem vpor (h : Hdr) (o : FR) : Statement (.vpor h o) := by
  intro _ _ h1 h2
  cases h1; cases h2
  simp only [decode, op_pack, opcodeOf]
  simp [decodeCommon, decodeV, operandBits, hdrOf_pack, frOf_pack]

theorem vpnot (h : Hdr) (o : FR) : Statement (.vpnot h o) := by
  intro _ _ h1 h2
  cases h1; cases h2
  simp only [decode, op_pack, opcodeOf]
  simp [decodeCommon, decodeV, operandBits, hdrOf_pack, frOf_pack]

theorem vpcnt (h : Hdr) (o : FR) : Statement (.vpcnt h o) := by
  intro _ _ h1 h2
  cases h1; cases h2
  simp only [decode, op_pack, opcodeOf]
  simp [decodeCommon, decodeV, operandBits, hdrOf_pack, frOf_pack]

theorem aAdd (h : Hdr) (o : FR) : Statement (.aAdd h o) := by
  intro _ _ h1 h2
  cases h1; cases h2
  simp only [decode, op_pack, opcodeOf]
  simp [decodeCommon, decodeA, operandBits, hdrOf_pack, frOf_pack]

theorem aSub (h : Hdr) (o : FR) : Statement (.aSub h o) := by
  intro _ _ h1 h2
  cases h1; cases h2
  simp only [decode, op_pack, opcodeOf]
  simp [decodeCommon, decodeA, operandBits, hdrOf_pack, frOf_pack]

theorem aShl (h : Hdr) (o : FR) : Statement (.aShl h o) := by
  intro _ _ h1 h2
  cases h1; cases h2
  simp only [decode, op_pack, opcodeOf]
  simp [decodeCommon, decodeA, operandBits, hdrOf_pack, frOf_pack]

theorem aMul (h : Hdr) (o : FR) : Statement (.aMul h o) := by
  intro _ _ h1 h2
  cases h1; cases h2
  simp only [decode, op_pack, opcodeOf]
  simp [decodeCommon, decodeA, operandBits, hdrOf_pack, frOf_pack]

theorem aMovi (h : Hdr) (o : FI) : Statement (.aMovi h o) := by
  intro _ _ h1 h2
  cases h1; cases h2
  simp only [decode, op_pack, opcodeOf]
  simp [decodeCommon, decodeA, operandBits, hdrOf_pack, fiOf_pack]

theorem aMov (h : Hdr) (o : FR) : Statement (.aMov h o) := by
  intro _ _ h1 h2
  cases h1; cases h2
  simp only [decode, op_pack, opcodeOf]
  simp [decodeCommon, decodeA, operandBits, hdrOf_pack, frOf_pack]

theorem bcmp (h : Hdr) (o : FR) : Statement (.bcmp h o) := by
  intro _ _ h1 h2
  cases h1; cases h2
  simp only [decode, op_pack, opcodeOf]
  simp [decodeCommon, decodeA, operandBits, hdrOf_pack, frOf_pack]

theorem ld (h : Hdr) (o : FM) : Statement (.ld h o) := by
  intro _ _ h1 h2
  cases h1; cases h2
  simp only [decode, op_pack, opcodeOf]
  simp [decodeCommon, decodeA, operandBits, hdrOf_pack, fmOf_pack]

theorem ldq (h : Hdr) (o : FM) : Statement (.ldq h o) := by
  intro _ _ h1 h2
  cases h1; cases h2
  simp only [decode, op_pack, opcodeOf]
  simp [decodeCommon, decodeA, operandBits, hdrOf_pack, fmOf_pack]

theorem ldx (h : Hdr) (o : FM) : Statement (.ldx h o) := by
  intro _ _ h1 h2
  cases h1; cases h2
  simp only [decode, op_pack, opcodeOf]
  simp [decodeCommon, decodeA, operandBits, hdrOf_pack, fmOf_pack]

theorem st (h : Hdr) (o : FM) : Statement (.st h o) := by
  intro _ _ h1 h2
  cases h1; cases h2
  simp only [decode, op_pack, opcodeOf]
  simp [decodeCommon, decodeA, operandBits, hdrOf_pack, fmOf_pack]

theorem stq (h : Hdr) (o : FM) : Statement (.stq h o) := by
  intro _ _ h1 h2
  cases h1; cases h2
  simp only [decode, op_pack, opcodeOf]
  simp [decodeCommon, decodeA, operandBits, hdrOf_pack, fmOf_pack]

theorem stx (h : Hdr) (o : FM) : Statement (.stx h o) := by
  intro _ _ h1 h2
  cases h1; cases h2
  simp only [decode, op_pack, opcodeOf]
  simp [decodeCommon, decodeA, operandBits, hdrOf_pack, fmOf_pack]

theorem pf (h : Hdr) (o : FM) : Statement (.pf h o) := by
  intro _ _ h1 h2
  cases h1; cases h2
  simp only [decode, op_pack, opcodeOf]
  simp [decodeCommon, decodeA, operandBits, hdrOf_pack, fmOf_pack]

theorem amo (h : Hdr) (o : FR) : Statement (.amo h o) := by
  intro _ _ h1 h2
  cases h1; cases h2
  simp only [decode, op_pack, opcodeOf]
  simp [decodeCommon, decodeA, operandBits, hdrOf_pack, frOf_pack]

theorem amoswp (h : Hdr) (o : FR) : Statement (.amoswp h o) := by
  intro _ _ h1 h2
  cases h1; cases h2
  simp only [decode, op_pack, opcodeOf]
  simp [decodeCommon, decodeA, operandBits, hdrOf_pack, frOf_pack]

theorem amocas (h : Hdr) (o : FR) : Statement (.amocas h o) := by
  intro _ _ h1 h2
  cases h1; cases h2
  simp only [decode, op_pack, opcodeOf]
  simp [decodeCommon, decodeA, operandBits, hdrOf_pack, frOf_pack]

theorem fence (h : Hdr) (o : FR) : Statement (.fence h o) := by
  intro _ _ h1 h2
  cases h1; cases h2
  simp only [decode, op_pack, opcodeOf]
  simp [decodeCommon, decodeA, operandBits, hdrOf_pack, frOf_pack]

theorem acq (h : Hdr) (o : FR) : Statement (.acq h o) := by
  intro _ _ h1 h2
  cases h1; cases h2
  simp only [decode, op_pack, opcodeOf]
  simp [decodeCommon, decodeA, operandBits, hdrOf_pack, frOf_pack]

theorem rel (h : Hdr) (o : FR) : Statement (.rel h o) := by
  intro _ _ h1 h2
  cases h1; cases h2
  simp only [decode, op_pack, opcodeOf]
  simp [decodeCommon, decodeA, operandBits, hdrOf_pack, frOf_pack]

theorem bind (h : Hdr) (o : FR) : Statement (.bind h o) := by
  intro _ _ h1 h2
  cases h1; cases h2
  simp only [decode, op_pack, opcodeOf]
  simp [decodeCommon, decodeA, operandBits, hdrOf_pack, frOf_pack]

theorem unbind (h : Hdr) (o : FR) : Statement (.unbind h o) := by
  intro _ _ h1 h2
  cases h1; cases h2
  simp only [decode, op_pack, opcodeOf]
  simp [decodeCommon, decodeA, operandBits, hdrOf_pack, frOf_pack]

theorem cpy (h : Hdr) (o : FO) : Statement (.cpy h o) := by
  intro _ _ h1 h2
  cases h1; cases h2
  simp only [decode, op_pack, opcodeOf]
  simp [decodeCommon, decodeA, operandBits, hdrOf_pack, foOf_pack]

theorem cstage (h : Hdr) (o : FR) : Statement (.cstage h o) := by
  intro _ _ h1 h2
  cases h1; cases h2
  simp only [decode, op_pack, opcodeOf]
  simp [decodeCommon, decodeA, operandBits, hdrOf_pack, frOf_pack]

theorem lfe (h : Hdr) (o : FM) : Statement (.lfe h o) := by
  intro _ _ h1 h2
  cases h1; cases h2
  simp only [decode, op_pack, opcodeOf]
  simp [decodeCommon, decodeA, operandBits, hdrOf_pack, fmOf_pack]

theorem oqst (h : Hdr) (o : FR) : Statement (.oqst h o) := by
  intro _ _ h1 h2
  cases h1; cases h2
  simp only [decode, op_pack, opcodeOf]
  simp [decodeCommon, decodeA, operandBits, hdrOf_pack, frOf_pack]

theorem bdot (h : Hdr) (o : FO) : Statement (.bdot h o) := by
  intro _ _ h1 h2
  cases h1; cases h2
  simp only [decode, op_pack, opcodeOf]
  simp [decodeCommon, decodeA, operandBits, hdrOf_pack, foOf_pack]

theorem bdmode (h : Hdr) (o : FR) : Statement (.bdmode h o) := by
  intro _ _ h1 h2
  cases h1; cases h2
  simp only [decode, op_pack, opcodeOf]
  simp [decodeCommon, decodeA, operandBits, hdrOf_pack, frOf_pack]

theorem pmig (h : Hdr) (o : FR) : Statement (.pmig h o) := by
  intro _ _ h1 h2
  cases h1; cases h2
  simp only [decode, op_pack, opcodeOf]
  simp [decodeCommon, decodeA, operandBits, hdrOf_pack, frOf_pack]

theorem tzero (h : Hdr) (o : FT) : Statement (.tzero h o) := by
  intro _ _ h1 h2
  cases h1; cases h2
  simp only [decode, op_pack, opcodeOf]
  simp [decodeCommon, decodeX, operandBits, hdrOf_pack, ftOf_pack]

theorem tld (h : Hdr) (o : FT) : Statement (.tld h o) := by
  intro _ _ h1 h2
  cases h1; cases h2
  simp only [decode, op_pack, opcodeOf]
  simp [decodeCommon, decodeX, operandBits, hdrOf_pack, ftOf_pack]

theorem tst (h : Hdr) (o : FT) : Statement (.tst h o) := by
  intro _ _ h1 h2
  cases h1; cases h2
  simp only [decode, op_pack, opcodeOf]
  simp [decodeCommon, decodeX, operandBits, hdrOf_pack, ftOf_pack]

theorem tmov (h : Hdr) (o : FT) : Statement (.tmov h o) := by
  intro _ _ h1 h2
  cases h1; cases h2
  simp only [decode, op_pack, opcodeOf]
  simp [decodeCommon, decodeX, operandBits, hdrOf_pack, ftOf_pack]

theorem tfill (h : Hdr) (o : FT) : Statement (.tfill h o) := by
  intro _ _ h1 h2
  cases h1; cases h2
  simp only [decode, op_pack, opcodeOf]
  simp [decodeCommon, decodeX, operandBits, hdrOf_pack, ftOf_pack]

theorem tcvt (h : Hdr) (o : FT) : Statement (.tcvt h o) := by
  intro _ _ h1 h2
  cases h1; cases h2
  simp only [decode, op_pack, opcodeOf]
  simp [decodeCommon, decodeX, operandBits, hdrOf_pack, ftOf_pack]

theorem tadd (h : Hdr) (o : FT) : Statement (.tadd h o) := by
  intro _ _ h1 h2
  cases h1; cases h2
  simp only [decode, op_pack, opcodeOf]
  simp [decodeCommon, decodeX, operandBits, hdrOf_pack, ftOf_pack]

theorem tmul (h : Hdr) (o : FT) : Statement (.tmul h o) := by
  intro _ _ h1 h2
  cases h1; cases h2
  simp only [decode, op_pack, opcodeOf]
  simp [decodeCommon, decodeX, operandBits, hdrOf_pack, ftOf_pack]

theorem tscale (h : Hdr) (o : FT) : Statement (.tscale h o) := by
  intro _ _ h1 h2
  cases h1; cases h2
  simp only [decode, op_pack, opcodeOf]
  simp [decodeCommon, decodeX, operandBits, hdrOf_pack, ftOf_pack]

theorem trmax (h : Hdr) (o : FT) : Statement (.trmax h o) := by
  intro _ _ h1 h2
  cases h1; cases h2
  simp only [decode, op_pack, opcodeOf]
  simp [decodeCommon, decodeX, operandBits, hdrOf_pack, ftOf_pack]

theorem trsum (h : Hdr) (o : FT) : Statement (.trsum h o) := by
  intro _ _ h1 h2
  cases h1; cases h2
  simp only [decode, op_pack, opcodeOf]
  simp [decodeCommon, decodeX, operandBits, hdrOf_pack, ftOf_pack]

theorem rmset (h : Hdr) (o : FT) : Statement (.rmset h o) := by
  intro _ _ h1 h2
  cases h1; cases h2
  simp only [decode, op_pack, opcodeOf]
  simp [decodeCommon, decodeX, operandBits, hdrOf_pack, ftOf_pack]

theorem cmset (h : Hdr) (o : FT) : Statement (.cmset h o) := by
  intro _ _ h1 h2
  cases h1; cases h2
  simp only [decode, op_pack, opcodeOf]
  simp [decodeCommon, decodeX, operandBits, hdrOf_pack, ftOf_pack]

theorem wlease (h : Hdr) (o : FO) : Statement (.wlease h o) := by
  intro _ _ h1 h2
  cases h1; cases h2
  simp only [decode, op_pack, opcodeOf]
  simp [decodeCommon, decodeX, operandBits, hdrOf_pack, foOf_pack]

theorem wload (h : Hdr) (o : FO) : Statement (.wload h o) := by
  intro _ _ h1 h2
  cases h1; cases h2
  simp only [decode, op_pack, opcodeOf]
  simp [decodeCommon, decodeX, operandBits, hdrOf_pack, foOf_pack]

theorem wdot (h : Hdr) (o : FW) : Statement (.wdot h o) := by
  intro _ _ h1 h2
  cases h1; cases h2
  simp only [decode, op_pack, opcodeOf]
  simp [decodeCommon, decodeX, operandBits, hdrOf_pack, fwOf_pack]

theorem wtdot (h : Hdr) (o : FW) : Statement (.wtdot h o) := by
  intro _ _ h1 h2
  cases h1; cases h2
  simp only [decode, op_pack, opcodeOf]
  simp [decodeCommon, decodeX, operandBits, hdrOf_pack, fwOf_pack]

theorem wouter (h : Hdr) (o : FW) : Statement (.wouter h o) := by
  intro _ _ h1 h2
  cases h1; cases h2
  simp only [decode, op_pack, opcodeOf]
  simp [decodeCommon, decodeX, operandBits, hdrOf_pack, fwOf_pack]

theorem wdrain (h : Hdr) (o : FO) : Statement (.wdrain h o) := by
  intro _ _ h1 h2
  cases h1; cases h2
  simp only [decode, op_pack, opcodeOf]
  simp [decodeCommon, decodeX, operandBits, hdrOf_pack, foOf_pack]

theorem wclr (h : Hdr) (o : FT) : Statement (.wclr h o) := by
  intro _ _ h1 h2
  cases h1; cases h2
  simp only [decode, op_pack, opcodeOf]
  simp [decodeCommon, decodeX, operandBits, hdrOf_pack, ftOf_pack]

theorem wrel (h : Hdr) (o : FT) : Statement (.wrel h o) := by
  intro _ _ h1 h2
  cases h1; cases h2
  simp only [decode, op_pack, opcodeOf]
  simp [decodeCommon, decodeX, operandBits, hdrOf_pack, ftOf_pack]

theorem wpair (h : Hdr) (o : FR) : Statement (.wpair h o) := by
  intro _ _ h1 h2
  cases h1; cases h2
  simp only [decode, op_pack, opcodeOf]
  simp [decodeCommon, decodeX, operandBits, hdrOf_pack, frOf_pack]

theorem resultDelivery (core : Nat) : Statement (.resultDelivery core) := fun _ _ h _ => nomatch h

theorem tileWriteDelivery (core : Nat) : Statement (.tileWriteDelivery core) := fun _ _ h _ => nomatch h

theorem haltFinish (ctx : Nat) : Statement (.haltFinish ctx) := fun _ _ h _ => nomatch h

theorem debugHold (core : Nat) : Statement (.debugHold core) := fun _ _ h _ => nomatch h

theorem debugStep (core : Nat) : Statement (.debugStep core) := fun _ _ h _ => nomatch h

theorem debugStepA (core : Nat) : Statement (.debugStepA core) := fun _ _ h _ => nomatch h

theorem opdbgrel (handle : BitVec 32) : Statement (.opdbgrel handle) := fun _ _ h _ => nomatch h

theorem scanAdmit (fn : Nat) : Statement (.scanAdmit fn) := fun _ _ h _ => nomatch h

theorem withdraw (fn : Nat) : Statement (.withdraw fn) := fun _ _ h _ => nomatch h

theorem withdrawAll (fn : Nat) : Statement (.withdrawAll fn) := fun _ _ h _ => nomatch h

theorem residencyDone (ctx q seq : Nat) : Statement (.residencyDone ctx q seq) := fun _ _ h _ => nomatch h

theorem nodeStart (ctx q seq gidx : Nat) : Statement (.nodeStart ctx q seq gidx) := fun _ _ h _ => nomatch h

theorem nodeEnd (ctx q seq : Nat) : Statement (.nodeEnd ctx q seq) := fun _ _ h _ => nomatch h

theorem dispatcherRound : Statement (.dispatcherRound ) := fun _ _ h _ => nomatch h

theorem nodeRelease (ctx q seq : Nat) : Statement (.nodeRelease ctx q seq) := fun _ _ h _ => nomatch h

theorem nodeFinish (ctx q seq : Nat) : Statement (.nodeFinish ctx q seq) := fun _ _ h _ => nomatch h

theorem waitNodeSatisfied (ctx q seq : Nat) : Statement (.waitNodeSatisfied ctx q seq) := fun _ _ h _ => nomatch h

theorem qtailWrite (ctx q : Nat) (val : BitVec 32) : Statement (.qtailWrite ctx q val) := fun _ _ h _ => nomatch h

theorem queueEnableWrite (ctx q : Nat) (on : Bool) : Statement (.queueEnableWrite ctx q on) := fun _ _ h _ => nomatch h

theorem queueSuspend (ctx q : Nat) : Statement (.queueSuspend ctx q) := fun _ _ h _ => nomatch h

theorem queueResume (ctx q : Nat) : Statement (.queueResume ctx q) := fun _ _ h _ => nomatch h

theorem queueDrain (ctx q : Nat) : Statement (.queueDrain ctx q) := fun _ _ h _ => nomatch h

theorem queueDead (ctx q : Nat) : Statement (.queueDead ctx q) := fun _ _ h _ => nomatch h

theorem launchAppend (ctx slot : Nat) : Statement (.launchAppend ctx slot) := fun _ _ h _ => nomatch h

theorem homeRequestArrival (core : Nat) : Statement (.homeRequestArrival core) := fun _ _ h _ => nomatch h

theorem barrierMulticast (ctx b : Nat) (u : BarUpdate) : Statement (.barrierMulticast ctx b u) := fun _ _ h _ => nomatch h

theorem predecessorFinished (ctx slot : Nat) : Statement (.predecessorFinished ctx slot) := fun _ _ h _ => nomatch h

theorem operationStart (ctx slot : Nat) : Statement (.operationStart ctx slot) := fun _ _ h _ => nomatch h

theorem operationComplete (ctx slot : Nat) : Statement (.operationComplete ctx slot) := fun _ _ h _ => nomatch h

theorem operationFailure (ctx slot : Nat) (why : OpFault) : Statement (.operationFailure ctx slot why) := fun _ _ h _ => nomatch h

theorem priorityAging (who : Waiter) : Statement (.priorityAging who) := fun _ _ h _ => nomatch h

theorem arrayRunStart (bench : Nat) : Statement (.arrayRunStart bench) := fun _ _ h _ => nomatch h

theorem arrayRunLimit (bench : Nat) : Statement (.arrayRunLimit bench) := fun _ _ h _ => nomatch h

theorem arrayCommandStart (bench : Nat) : Statement (.arrayCommandStart bench) := fun _ _ h _ => nomatch h

theorem arrayCommandComplete (bench : Nat) : Statement (.arrayCommandComplete bench) := fun _ _ h _ => nomatch h

theorem drainRowAccepted (bench : Nat) : Statement (.drainRowAccepted bench) := fun _ _ h _ => nomatch h

theorem pairTimeout (bench : Nat) : Statement (.pairTimeout bench) := fun _ _ h _ => nomatch h

theorem leaseQueueEntry (ctx slot : Nat) : Statement (.leaseQueueEntry ctx slot) := fun _ _ h _ => nomatch h

theorem leaseGrant (kind : Nat) : Statement (.leaseGrant kind) := fun _ _ h _ => nomatch h

theorem wakeDone (engine : Nat) : Statement (.wakeDone engine) := fun _ _ h _ => nomatch h

theorem quantumEnd (engine : Nat) : Statement (.quantumEnd engine) := fun _ _ h _ => nomatch h

theorem engineYield (engine : Nat) : Statement (.engineYield engine) := fun _ _ h _ => nomatch h

theorem forcedEviction (engine : Nat) : Statement (.forcedEviction engine) := fun _ _ h _ => nomatch h

theorem scrubDone (engine : Nat) : Statement (.scrubDone engine) := fun _ _ h _ => nomatch h

theorem drowsyTimeout (engine : Nat) : Statement (.drowsyTimeout engine) := fun _ _ h _ => nomatch h

theorem sleepTimeout (engine : Nat) : Statement (.sleepTimeout engine) := fun _ _ h _ => nomatch h

theorem engineCommandStart (engine : Nat) : Statement (.engineCommandStart engine) := fun _ _ h _ => nomatch h

theorem engineUnitDone (engine : Nat) : Statement (.engineUnitDone engine) := fun _ _ h _ => nomatch h

theorem copyLineDelivery (ctx slot line : Nat) : Statement (.copyLineDelivery ctx slot line) := fun _ _ h _ => nomatch h

theorem copyNodeRun (ctx q seq : Nat) : Statement (.copyNodeRun ctx q seq) := fun _ _ h _ => nomatch h

theorem signalNodeRun (ctx q seq : Nat) : Statement (.signalNodeRun ctx q seq) := fun _ _ h _ => nomatch h

theorem replay (bench : Nat) : Statement (.replay bench) := fun _ _ h _ => nomatch h

theorem walkReturn (bench : Nat) : Statement (.walkReturn bench) := fun _ _ h _ => nomatch h

theorem pageTouch (fn : Nat) (va : BitVec 64) : Statement (.pageTouch fn va) := fun _ _ h _ => nomatch h

theorem pageMoveDone (fn : Nat) (va : BitVec 64) : Statement (.pageMoveDone fn va) := fun _ _ h _ => nomatch h

theorem decayPeriod (part : Nat) : Statement (.decayPeriod part) := fun _ _ h _ => nomatch h

theorem dotModeChangeDone (chan : Nat) : Statement (.dotModeChangeDone chan) := fun _ _ h _ => nomatch h

theorem bankDotRow (ctx slot chan : Nat) : Statement (.bankDotRow ctx slot chan) := fun _ _ h _ => nomatch h

theorem droopWindow (stack : Nat) : Statement (.droopWindow stack) := fun _ _ h _ => nomatch h

theorem tlbiPage (fn : Nat) : Statement (.tlbiPage fn) := fun _ _ h _ => nomatch h

theorem tlbiFunction (fn : Nat) : Statement (.tlbiFunction fn) := fun _ _ h _ => nomatch h

theorem tlbiAll : Statement (.tlbiAll ) := fun _ _ h _ => nomatch h

theorem rowval (stack : Nat) (val : BitVec 32) : Statement (.rowval stack val) := fun _ _ h _ => nomatch h

theorem ctxCreate : Statement (.ctxCreate ) := fun _ _ h _ => nomatch h

theorem switchOut (ctx : Nat) : Statement (.switchOut ctx) := fun _ _ h _ => nomatch h

theorem preemptWaitExpiry (ctx core : Nat) : Statement (.preemptWaitExpiry ctx core) := fun _ _ h _ => nomatch h

theorem deadlineExpiry (ctx : Nat) : Statement (.deadlineExpiry ctx) := fun _ _ h _ => nomatch h

theorem switchIn (ctx : Nat) : Statement (.switchIn ctx) := fun _ _ h _ => nomatch h

theorem ctxRecover (ctx : Nat) : Statement (.ctxRecover ctx) := fun _ _ h _ => nomatch h

theorem ctxDestroy (ctx : Nat) : Statement (.ctxDestroy ctx) := fun _ _ h _ => nomatch h

theorem teardownDone (ctx : Nat) : Statement (.teardownDone ctx) := fun _ _ h _ => nomatch h

theorem migrateOut (ctx : Nat) : Statement (.migrateOut ctx) := fun _ _ h _ => nomatch h

theorem migrateIn (ctx : Nat) : Statement (.migrateIn ctx) := fun _ _ h _ => nomatch h

theorem migrationTargetTimeout (fn : Nat) : Statement (.migrationTargetTimeout fn) := fun _ _ h _ => nomatch h

theorem pageHandover (fn : Nat) (va : BitVec 64) : Statement (.pageHandover fn va) := fun _ _ h _ => nomatch h

theorem ownerTokenArrival (fn : Nat) (va : BitVec 64) (tok : OwnerToken) : Statement (.ownerTokenArrival fn va tok) := fun _ _ h _ => nomatch h

theorem migrationAbort (fn : Nat) : Statement (.migrationAbort fn) := fun _ _ h _ => nomatch h

theorem tombstoneLapse (fn : Nat) : Statement (.tombstoneLapse fn) := fun _ _ h _ => nomatch h

theorem formationTimeout (ctx : Nat) (id : BitVec 32) : Statement (.formationTimeout ctx id) := fun _ _ h _ => nomatch h

theorem signalDetected (port : Nat) : Statement (.signalDetected port) := fun _ _ h _ => nomatch h

theorem trainingEnd (port : Nat) (r : TrainResult) : Statement (.trainingEnd port r) := fun _ _ h _ => nomatch h

theorem retrainTrigger (port : Nat) (lossOfSignal : Bool) : Statement (.retrainTrigger port lossOfSignal) := fun _ _ h _ => nomatch h

theorem retrain (port : Nat) : Statement (.retrain port) := fun _ _ h _ => nomatch h

theorem portEnableWrite (port : Nat) (on : Bool) : Statement (.portEnableWrite port on) := fun _ _ h _ => nomatch h

theorem flitReceived (port : Nat) (flit : BitVec 512) : Statement (.flitReceived port flit) := fun _ _ h _ => nomatch h

theorem nakReceived (port : Nat) (ackseq : BitVec 12) : Statement (.nakReceived port ackseq) := fun _ _ h _ => nomatch h

theorem replayTimeout (port : Nat) : Statement (.replayTimeout port) := fun _ _ h _ => nomatch h

theorem msgLoad (m : Msg) : Statement (.msgLoad m) := fun _ _ h _ => nomatch h

theorem msgLoadReply (m : Msg) : Statement (.msgLoadReply m) := fun _ _ h _ => nomatch h

theorem msgStore (m : Msg) : Statement (.msgStore m) := fun _ _ h _ => nomatch h

theorem msgStoreAck (m : Msg) : Statement (.msgStoreAck m) := fun _ _ h _ => nomatch h

theorem msgAtomic (m : Msg) : Statement (.msgAtomic m) := fun _ _ h _ => nomatch h

theorem msgAtomicReply (m : Msg) : Statement (.msgAtomicReply m) := fun _ _ h _ => nomatch h

theorem msgCollective (m : Msg) : Statement (.msgCollective m) := fun _ _ h _ => nomatch h

theorem msgBarrier (m : Msg) : Statement (.msgBarrier m) := fun _ _ h _ => nomatch h

theorem msgConnectionControl (m : Msg) : Statement (.msgConnectionControl m) := fun _ _ h _ => nomatch h

theorem msgShardDelivery (m : Msg) : Statement (.msgShardDelivery m) := fun _ _ h _ => nomatch h

theorem msgMoved (m : Msg) : Statement (.msgMoved m) := fun _ _ h _ => nomatch h

theorem msgRefusal (m : Msg) : Statement (.msgRefusal m) := fun _ _ h _ => nomatch h

theorem msgContextTransfer (m : Msg) : Statement (.msgContextTransfer m) := fun _ _ h _ => nomatch h

theorem msgAbort (m : Msg) : Statement (.msgAbort m) := fun _ _ h _ => nomatch h

theorem parkNotice (m : Msg) : Statement (.parkNotice m) := fun _ _ h _ => nomatch h

theorem resumeNotice (m : Msg) : Statement (.resumeNotice m) := fun _ _ h _ => nomatch h

theorem connopenTimeout (fn peer : Nat) : Statement (.connopenTimeout fn peer) := fun _ _ h _ => nomatch h

theorem retransmission (fn peer : Nat) : Statement (.retransmission fn peer) := fun _ _ h _ => nomatch h

theorem connidleTimeout (fn peer : Nat) : Statement (.connidleTimeout fn peer) := fun _ _ h _ => nomatch h

theorem connbackoffExpiry (fn peer : Nat) : Statement (.connbackoffExpiry fn peer) := fun _ _ h _ => nomatch h

theorem connectionDrained (fn peer : Nat) : Statement (.connectionDrained fn peer) := fun _ _ h _ => nomatch h

theorem connectionSpill (fn peer : Nat) : Statement (.connectionSpill fn peer) := fun _ _ h _ => nomatch h

theorem osyncEdge : Statement (.osyncEdge ) := fun _ _ h _ => nomatch h

theorem slotStart : Statement (.slotStart ) := fun _ _ h _ => nomatch h

theorem slotCommit : Statement (.slotCommit ) := fun _ _ h _ => nomatch h

theorem ringHeatWrite (fibre ring : Nat) (val : BitVec 32) : Statement (.ringHeatWrite fibre ring val) := fun _ _ h _ => nomatch h

theorem ringSettled (fibre ring : Nat) (adc : BitVec 12) : Statement (.ringSettled fibre ring adc) := fun _ _ h _ => nomatch h

theorem ringMapWrite (fibre ring : Nat) (val : BitVec 32) : Statement (.ringMapWrite fibre ring val) := fun _ _ h _ => nomatch h

theorem chunkApply (fn shard chunk : Nat) : Statement (.chunkApply fn shard chunk) := fun _ _ h _ => nomatch h

theorem coldReset (stages : List BootStage) : Statement (.coldReset stages) := fun _ _ h _ => nomatch h

theorem warmReset : Statement (.warmReset ) := fun _ _ h _ => nomatch h

theorem selftestEnd (r : SelfTest) : Statement (.selftestEnd r) := fun _ _ h _ => nomatch h

theorem freeze : Statement (.freeze ) := fun _ _ h _ => nomatch h

theorem freezeN : Statement (.freezeN ) := fun _ _ h _ => nomatch h

theorem powerControl (watts : BitVec 12) : Statement (.powerControl watts) := fun _ _ h _ => nomatch h

theorem temperatureLimit (degc : BitVec 8) : Statement (.temperatureLimit degc) := fun _ _ h _ => nomatch h

theorem partitionEnable (part : Nat) : Statement (.partitionEnable part) := fun _ _ h _ => nomatch h

theorem vfEnable (count : Nat) : Statement (.vfEnable count) := fun _ _ h _ => nomatch h

theorem cxlPortFailure (port : Nat) : Statement (.cxlPortFailure port) := fun _ _ h _ => nomatch h

theorem dcread : Statement (.dcread ) := fun _ _ h _ => nomatch h

theorem dcwrite : Statement (.dcwrite ) := fun _ _ h _ => nomatch h

theorem idcert : Statement (.idcert ) := fun _ _ h _ => nomatch h

theorem quote : Statement (.quote ) := fun _ _ h _ => nomatch h

theorem fwstage : Statement (.fwstage ) := fun _ _ h _ => nomatch h

theorem scanrd : Statement (.scanrd ) := fun _ _ h _ => nomatch h

theorem registerWrite (addr val : BitVec 32) : Statement (.registerWrite addr val) := fun _ _ h _ => nomatch h

theorem rconsWrite (part : Nat) (val : BitVec 32) : Statement (.rconsWrite part val) := fun _ _ h _ => nomatch h

theorem fetchMissArrival (core stream : Nat) : Statement (.fetchMissArrival core stream) := fun _ _ h _ => nomatch h


end Laws.RoundTrip

end Sys2Proof
end

