-- ==== Sys2Proof/WellFormed.lean ====
section
/-! DEFINITION. WellFormed.lean: an instruction the scanner would pass in a segment (checks 4, 5, 6, 7, 8 and 11 of
R54, the ones a word decides by itself), each refused by name. -/

namespace Sys2Proof

/-- The reasons a word alone is refused, with the check of R54 each stands for. -/
inductive WordErr where
  /-- check 4: a field that is zero in a legal word is not zero -/
  | nonzeroField
  /-- check 5: a specifier or code that the instruction does not accept in that position -/
  | badCode
  /-- check 6: a register beyond the declared allocation -/
  | beyondAllocation
  /-- check 7: a wide operand misaligned or running past the last allocated register -/
  | wideGroup
  /-- check 8: a write of a named scalar that another stream owns -/
  | notOwner
  /-- check 11: SP = 11 without SERVICE -/
  | notService
  deriving DecidableEq, Repr

/-- The reason's check number. -/
def WordErr.check : WordErr → Nat
  | .nonzeroField => 4
  | .badCode => 5
  | .beyondAllocation => 6
  | .wideGroup => 7
  | .notOwner => 8
  | .notService => 11

/-- The first check a word fails in segment `g`, in the scanner's order. -/
def wordErr (g : Machine.SegInfo) (i : Instr) : Option WordErr :=
  [WordErr.nonzeroField, .badCode, .beyondAllocation, .wideGroup, .notOwner, .notService].find?
    fun e => !Machine.wordPasses g i e.check

/-- A word the scanner's word checks pass in segment `g`. -/
abbrev WellFormed (g : Machine.SegInfo) (i : Instr) : Prop := wordErr g i = none

end Sys2Proof
end

