-- ==== Sys2Proof/Tests/Slice0.lean ====
section
/-! SUPPORT. Tests/Slice0.lean: the model's own tests: words of the spec decode, ill-formed words are refused, small steps give what
the rules say, and states that meet the hypotheses of the statements. -/

namespace Sys2Proof.Tests
set_option Elab.async false
open Sys2Proof Sys2Proof.Machine

/-! ## Small states -/

/-- A header with no idle clocks and no tokens. -/
def hh : Hdr := { idle := 0, pop := 0, push := 0 }
/-- An FR word: destination n9, sources n1, n2 and n3, type i32. -/
def rr : FR := { d := 9, a := 1, b := 2, c := 3, t := 2, rm := 0, g := 0, m := 0 }
/-- The key of the one kernel instance. -/
def kk : InstKey := { ctx := 2048, q := 0, seq := 1 }
/-- A live stream. -/
def live : Stream := { Stream.reset with st := .aligned }
/-- Core 0: four live streams and sixteen valid registers, n0 = 0, n1 = 1 and so on. -/
def cc : Core :=
  { Core.reset with inst := some kk, started := true, clk := 1, s := live, v := live, a := live, x := live,
                    named := (List.range 16).map fun i => (i, { val := BitVec.ofNat 32 i, valid := true }) }
/-- A READY device whose core 0 runs a node of the service context 2048. -/
def bb : State :=
  let s := State.reset.modX 2048 fun x => { x with st := .running, fn := 0x80, service := true, insts := [(kk, placedInst)] }
  { s with dev := .ready, cores := [(0, cc)], cur := 0 }
/-- The same with a core of one's own. -/
def bc (c : Core) : State := { bb with cores := [(0, c)] }

/-- `Starts`, as a value. -/
def startsB (i : Instr) (st : StreamId) (h : Hdr) (g : BitVec 4) (s : State) : Bool :=
  canRun s st && decide (s.core.tokState st h = .ok) && accepted (s.coreService s.core) i && decide (guardTrue s.core st g = some true)

/-- What `startsB` says. -/
theorem starts_of_startsB {i : Instr} {st : StreamId} {h : Hdr} {g : BitVec 4} {s : State} (e : startsB i st h g s = true) : Starts i st h g s := by
  simp only [startsB, Bool.and_eq_true, decide_eq_true_eq] at e
  exact ⟨e.1.1.1, e.1.1.2, e.1.2, e.2⟩

/-! ## Witnesses: the step and the issue of a word -/

theorem wit_StepRunsTheDueWord_A : let c := { cc with a := { live with cache := [(0, 0)] } }
    let s := bc c
    s.dev ≠ .frozen ∧ s.agenda = [] ∧ s.cores = [(0, c)] ∧ dueDelivery s = none ∧ c.inst.isSome = true ∧ c.started = true ∧ c.away = false ∧ c.dbg.hold = false ∧
    c.aTime ≤ s.now ∧ c.a.st.live = true ∧ acquireOpen c = false ∧ sfind c.a.cache c.a.pc = some 0 ∧ decode .A 0 = .ok (.nop .A hh ⟨0⟩) := by decide +kernel

theorem wit_IntegerTwoOperand : (∀ i ∈ [Instr.add hh rr, .sub hh rr, .mul hh rr, .mulh hh rr, .div hh rr, .rem hh rr, .min hh rr, .max hh rr, .and hh rr, .or hh rr, .xor hh rr,
    .andn hh rr], startsB i .S hh rr.g bb = true) ∧ bb.core.src .S rr.a (wideT rr.t) = .ok 1 ∧ bb.core.src .S rr.b (wideT rr.t) = .ok 2 := by decide +kernel

theorem wit_DecodeEncode : wordStream (.add hh rr) = some .S ∧ (encode (.add hh rr)).isSome = true ∧ wordStream (.nop .X hh ⟨0⟩) = some .X ∧ (encode (.nop .X hh ⟨0⟩)).isSome = true := by
  decide +kernel

theorem wit_DecodeKeepsEveryBit : decode .V 0x00C0130C052408C8 = .ok (.vfma { idle := 3, pop := 0, push := 0 } { d := 6, a := 1, b := 0b0100100, c := 0b1000000, t := 8, rm := 3, g := 2, m := 0 }) := by
  decide +kernel

theorem wit_StepKeepsMemoryCanonical : bb.memOk ∧ (match step bb with | .next _ => true | _ => false) = true := by
  refine ⟨?_, ?_⟩
  · show bb.mem.wf = true
    decide +kernel
  · decide +kernel

theorem wit_FrozenDeviceStands : ({ bb with dev := .frozen } : State).dev = .frozen ∧ bb.agenda.find? Ev.managed = none ∧
    ([Ev.switchOut 2048, Ev.dcread].find? Ev.managed = some .dcread) := by decide +kernel

theorem wit_StepRunsTheDueWord_trio : let c := { cc with a := Stream.reset, v := Stream.reset, x := Stream.reset, s := { live with cache := [(0, 0)] } }
    let s := bc c
    s.dev ≠ .frozen ∧ s.agenda = [] ∧ s.cores = [(0, c)] ∧ dueDelivery s = none ∧ c.a.st.live = false ∧
    (∀ st' ∈ [StreamId.V, .X, .A], (c.str st').st.live = false) ∧ c.tTime ≤ s.now ∧ c.seqs = [] ∧ trioWordDue c .S = true ∧ (c.str .S).atAlign ≠ some 0 ∧
    sfind (c.str .S).cache (c.str .S).pc = some 0 ∧ decode .S 0 = .ok (.nop .S hh ⟨0⟩) ∧
    (((execState (.nop .S hh ⟨0⟩) { s with cur := 0 }).getC 0).str .S).st ≠ .frozen := by decide +kernel

theorem wit_StartedWordFrame : (bb.core.str .S).st ≠ .halted := by decide +kernel

theorem wit_GuardFalseWord : ∀ i ∈ [Instr.add hh { rr with g := 1 }, .cmp hh { rr with g := 1, c := 0b1100000 }, .fdiv hh { rr with t := 8, c := 0, g := 1 },
    .evpost hh { rr with t := 0, c := 0, g := 1 }, .barrive hh { rr with c := 0, t := 0, g := 1 }, .otest hh { rr with b := 0, c := 0, t := 0, g := 1 }],
    canRun bb .S = true ∧ bb.core.tokState .S hh = .ok ∧ accepted (bb.coreService bb.core) i = true ∧ guardTrue bb.core .S 1 = some false := by decide +kernel

theorem wit_TokensHoldAWord : canRun bb .S = true ∧ (bb.core.str .S).atAlign = none ∧ bb.core.tokState .S { hh with pop := 4 } = .absent ∧
    (bc { cc with tokens := (List.range 16).map fun q => (q, 8) }).core.tokState .S { hh with push := 1 } = .full := by decide +kernel

theorem wit_InvalidRegisterFaults : startsB (.mov hh { rr with a := 20, b := 0, c := 0 }) .S hh 0 bb = true ∧ bb.core.src .S 20 (wideT 2) = .bad ∧
    startsB (.aMov hh { rr with a := 20, b := 0, c := 0 }) .A hh 0 bb = true ∧ bb.core.src .A 20 (wideT 2) = .bad ∧
    (bb.getX bb.core.ctx).halt = none ∧ (1 : Byte) ≠ 0x41 ∧ bb.core.inst.isSome = true := by decide +kernel

theorem wit_DivideAndRemainder : let o := { rr with a := 0b1111110, b := 0b1111111 }
    startsB (.div hh rr) .S hh 0 bb = true ∧ startsB (.rem hh rr) .S hh 0 bb = true ∧ startsB (.div hh o) .S hh 0 bb = true ∧
    bb.core.src .S rr.a 1 = .ok 1 ∧ bb.core.src .S rr.b 1 = .ok 2 ∧ bb.core.src .S 0 1 = .ok 0 ∧
    ((bc (cc.setReg 4 0x80000000)).core.src .S 4 1 = .ok 0x80000000 ∧ (0x80000000 : BitVec 32).toInt = -2 ^ 31) ∧ ((bc (cc.setReg 5 0xFFFFFFFF)).core.src .S 5 1 = .ok 0xFFFFFFFF) ∧
    (0xFFFFFFFF : BitVec 32).toInt = -1 ∧ |(3 : Int) * tnum 2 (2 : BitVec 32)| ≤ |tnum 2 (7 : BitVec 32)| := by decide +kernel

theorem wit_IntegerBits : (∀ i ∈ [Instr.shl hh rr, .shr hh rr, .sar hh rr, .rot hh rr, .bfx hh { rr with c := 0 }, .clz hh { rr with b := 0, c := 0 }, .ctz hh { rr with b := 0, c := 0 }, .popc hh { rr with b := 0, c := 0 },
    .mov hh { rr with b := 0, c := 0 }], startsB i .S hh 0 bb = true) ∧ bb.core.src .S 1 1 = .ok 1 ∧ bb.core.src .S 2 1 = .ok 2 ∧ bb.core.src .S 0 1 = .ok 0 ∧
    (8 : BitVec 32).toNat / 2 ^ 3 = 1 ∧ (8 : BitVec 32).getLsbD 3 = true ∧ (∀ j, j < 3 → (8 : BitVec 32).getLsbD j = false) := by decide +kernel

theorem wit_IntegerSelectAndCompare : (∀ i ∈ [Instr.mad hh rr, .bfi hh rr, .sel hh rr, .keep hh { rr with c := 0 }, .pand hh { rr with c := 0, t := 0 }, .por hh { rr with c := 0, t := 0 },
    .pxor hh { rr with c := 0, t := 0 }, .pnot hh { rr with b := 0, c := 0, t := 0 }, .ext hh { rr with b := 0, c := 0, t := 0 }, .ext hh { rr with b := 0, c := 0, t := 0, m := 1, d := 8 },
    .cmp hh { rr with c := 0b1100101 }, .movi hh { d := 9, a := 0, imm := 1 }, .movh hh { d := 9, a := 1, imm := 1 }], startsB i .S hh 0 bb = true) ∧
    bb.core.src .S 1 1 = .ok 1 ∧ bb.core.src .S 2 1 = .ok 2 ∧ bb.core.src .S 3 1 = .ok 3 ∧ bb.core.src .S 0 1 = .ok 0 ∧ bb.core.src .S rr.d 1 = .ok 9 ∧
    immOf 0b1100101 = some 5 ∧ immOf 0b1100000 = some 0 ∧ rr.d.extractLsb' 6 1 = 0 := by decide +kernel

theorem wit_FloatWords : (∀ i ∈ [Instr.fadd hh { rr with t := 8, c := 0 }, .fsub hh { rr with t := 8, c := 0 }, .fmul hh { rr with t := 8, c := 0 }, .fdiv hh { rr with t := 8, c := 0 },
    .fsqrt hh { rr with t := 8, b := 0, c := 0 }, .ffma hh { rr with t := 8 }, .fmin hh { rr with t := 8, c := 0 }, .fmax hh { rr with t := 8, c := 0 }, .fcmp hh { rr with t := 8, c := 0b1100111 },
    .fclass hh { rr with t := 8, b := 0, c := 0 }], startsB i .S hh 0 bb = true) ∧ bb.core.src .S 1 1 = .ok 1 ∧ bb.core.src .S 2 1 = .ok 2 ∧ bb.core.src .S 3 1 = .ok 3 ∧
    immOf 0b1100111 = some 7 := by decide +kernel

/-! ## Witnesses: the common block and control -/

theorem wit_CommonBlock_starts : (∀ st ∈ [StreamId.S, .V, .A, .X], startsB (.nop st hh ⟨0⟩) st hh 0 bb = true ∧ startsB (.stop st hh ⟨0⟩) st hh 0 bb = true ∧
    startsB (.endl st hh ⟨0, 0, 0⟩) st hh 0 bb = true ∧ startsB (.align st hh ⟨0⟩) st hh 0 bb = true ∧ startsB (.brk st hh { d := 0, a := 0, imm := 7 }) st hh 0 bb = true ∧
    startsB (.br st hh { p := 2, n := 0, k := 0, off := 0xFFFFFFFF }) st hh 0 bb = true ∧ startsB (.ldlit st hh { d := 8, a := 0, imm := 1 }) st hh 0 bb = true ∧
    accepted (bb.coreService bb.core) (.pool st hh { d := 0, a := 0, imm := 2 }) = true ∧ canRun bb st = true) ∧
    (∀ st ∈ [StreamId.S, .A, .X], startsB (.loop st hh { count := 3, level := 0, rest := 0 }) st hh 0 bb = true) := by decide +kernel

theorem wit_awayFrom : awayFrom 16 (-1) 8 ∧ awayFrom 0 1 8 ∧ awayFrom 0 (-1) 0xFFFFFFF8 := ⟨⟨by decide, 0, by decide⟩, ⟨by decide, 0, by decide⟩, ⟨by decide, 1, by decide⟩⟩

theorem wit_CommonBlock_loops : let inst : Inst := { placedInst with header := placedInst.header.take 0x70 ++ [5, 0, 0, 0] ++ List.replicate 28 0 }
    let s := { bb with ctxs := [(2048, { Ctx.reset with st := .running, fn := 0x80, service := true, insts := [(kk, inst)] })] }
    s.coreInst s.core = some inst ∧ s.core.src .S 5 1 = .ok 5 ∧ (5 : W32).toNat ≤ inst.loopMax 0 ∧ (s.core.str .S).loops.length < 8 ∧ s.core.src .S 6 1 = .ok 6 ∧
    inst.loopMax 0 < (6 : W32).toNat ∧ startsB (.loop .S hh { count := 5, level := 0, rest := 0 }) .S hh 0 s = true ∧ startsB (.loop .S hh { count := 6, level := 0, rest := 0 }) .S hh 0 s = true := by decide +kernel

theorem wit_CommonBlock_endl : let e : LoopEntry := { count := 2, index := 0, body := 8 }
    let f : LoopEntry := { count := 2, index := 1, body := 8 }
    (∀ l ∈ [e, f], startsB (.endl .S hh ⟨0, 0, 0⟩) .S hh 0 (bc { cc with s := { live with loops := [l] } }) = true) ∧ e.index + 1 < e.count ∧ f.count ≤ f.index + 1 := by decide +kernel

theorem wit_CommonBlock_align : let c := { cc with v := { live with atAlign := some 0 }, x := { live with st := .stopped } }
    startsB (.align .S hh ⟨0⟩) .S hh 0 (bc c) = true ∧ (c.str .S).atAlign ≠ some 1 ∧ (∀ o ∈ [StreamId.V, .X], (c.str o).st = .stopped ∨ (c.str o).st = .halted ∨ (c.str o).atAlign = some 0) ∧
    startsB (.align .A hh ⟨0⟩) .A hh 0 (bc { cc with trioAligns := 1 }) = true ∧ 0 < ({ cc with trioAligns := 1 } : Core).trioAligns ∧ (cc.s.st.live || cc.v.st.live || cc.x.st.live) = true := by
  decide +kernel

theorem wit_CommonBlock_brk : let on := { cc with dbg := { cc.dbg with brkEn := true } }
    startsB (.brk .S hh { d := 0, a := 0, imm := 7 }) .S hh 0 (bc on) = true ∧ on.dbg.brkEn = true ∧ cc.dbg.brkEn = false ∧
    startsB (.brk .S hh { d := 0, a := 0, imm := 7 }) .S hh 0 bb = true := by decide +kernel

theorem wit_LiteralWord : sfind ({ live with cache := [(8, 0x1122334455667788)] } : Stream).cache 8 = some 0x1122334455667788 ∧
    startsB (.ldlit .V hh { d := 4, a := 0, imm := 1 }) .V hh 0 (bc { cc with v := { live with cache := [(8, 0x1122334455667788)] } }) = true := by decide +kernel

theorem wit_CallsAndTables : startsB (.call hh { p := 0, n := 0, k := 0, off := 1 }) .S hh 0 bb = true ∧ (cc.calls.length < 8) ∧
    startsB (.call hh { p := 0, n := 0, k := 0, off := 1 }) .S hh 0 (bc { cc with calls := List.replicate 8 0 }) = true ∧ 8 ≤ ({ cc with calls := List.replicate 8 0 } : Core).calls.length ∧
    startsB (.call hh { p := 1, n := 0, k := 0, off := 1 }) .S hh 0 bb = true ∧ (cc.preds.getLsbD 1) = false ∧
    startsB (.ret hh ⟨0⟩) .S hh 0 (bc { cc with calls := [8] }) = true ∧ startsB (.ret hh ⟨0⟩) .S hh 0 bb = true ∧ cc.calls = [] := by decide +kernel

theorem wit_CallsAndTables_tables : let c := { cc with s := { live with pc := 0, cache := [(8, 2), (16, 4), (24, 6)] } }
    let s := bc c
    let f : FI := { d := 0, a := 1, imm := 2 }
    startsB (.jmp hh f) .S hh 0 s = true ∧ startsB (.swt hh f) .S hh 0 s = true ∧ startsB (.jmp hh { f with a := 2 }) .S hh 0 s = true ∧ sfind c.s.cache (16 - 8) = some 2 ∧
    c.src .S 1 1 = .ok 1 ∧ sfind c.s.cache (16 + 8 * 1) = some 6 ∧ c.src .S 2 1 = .ok 2 ∧ ((2 : W64).extractLsb' 0 25).toNat ≤ 2 := by decide +kernel

theorem wit_ControlRegisters : (∀ n ∈ [0, 0x00F, 0x011, 0x012, 0x018], startsB (.mvcr hh { d := 0, a := 1, imm := BitVec.ofNat 26 n }) .S hh 0 bb = true) ∧
    (∀ n ∈ [0, 0x00F, 0x010, 0x011, 0x012, 0x018, 0x020, 0x021, 0x022, 0x024, 0x040, 0x041], startsB (.mvrc hh { d := 9, a := 0, imm := BitVec.ofNat 26 n }) .S hh 0 bb = true) ∧
    (∀ n ∈ [0x010, 0x013, 0x018, 0x01B], startsB (.sysr hh { d := 9, a := 0, imm := BitVec.ofNat 26 n }) .S hh 0 bb = true) ∧ startsB (.sysw hh { d := 0, a := 1, imm := 0x018 }) .S hh 0 bb = true ∧
    bb.core.src .S 1 1 = .ok 1 ∧ sget [] ({ cc with oq := [(7, [{ bytes := [1, 2, 3, 4], filled := true, fresh := false }])] } : Core).oq (6 + 1) = [{ bytes := [1, 2, 3, 4], filled := true, fresh := false }] ∧
    startsB (.clk hh { rr with a := 0, b := 0, c := 0, t := 0 }) .S hh 0 bb = true ∧ startsB (.clk hh { rr with d := 8, a := 0, b := 0, c := 0, t := 0, m := 1 }) .S hh 0 bb = true ∧
    startsB (.trap hh { d := 0, a := 0, imm := 5 }) .S hh 0 bb = true ∧ startsB (.evpost hh { rr with t := 0, c := 0 }) .S hh 0 (bc { cc with req := .replied 1 }) = true ∧
    bb.core.src .S 2 2 = .ok (2 + 3 * 2 ^ 32) := by decide +kernel

theorem wit_RoundingRule : (FFmt.f32 = FFmt.f32 ∨ FFmt.f32 = .f16 ∨ FFmt.f32 = .bf16) ∧ (3 : Nat) ≠ 0 ∧ (0 : Nat) < 2 ^ 24 ∧
    (∀ (up : Prop) (k : Nat), ∃ k' : Nat, (up → k' = k + 1) ∧ (¬ up → k' = k)) := by
  refine ⟨.inl rfl, by decide, by decide, fun up k => ?_⟩
  by_cases h : up
  · exact ⟨k + 1, fun _ => rfl, fun g => absurd h g⟩
  · exact ⟨k, fun g => absurd g h, fun _ => rfl⟩

theorem wit_NarrowToInteger : (8 ∈ [8, 16, 32, 64]) ∧ (0 : Nat) < 2 ^ 24 ∧ |((5 : ℚ) / 2) - (2 : Int)| ≤ 1 / 2 ∧ (2 : Int) % 2 = 0 ∧ |((2 : Int) : ℚ)| ≤ |(5 : ℚ) / 2| ∧
    |(5 : ℚ) / 2| < |((2 : Int) : ℚ)| + 1 ∧ 0 ≤ ((5 : ℚ) / 2) * (2 : Int) ∧ ((-3 : Int) : ℚ) ≤ -5 / 2 ∧ (-5 / 2 : ℚ) < (-3 : Int) + 1 := by
  refine ⟨by decide, by decide, ?_, by decide, ?_, ?_, ?_, ?_, ?_⟩ <;> norm_num [abs_le, abs_of_pos]

theorem wit_ConversionWords : startsB (.fcvt hh { rr with b := 0, c := 0b1101000, t := 9 }) .S hh 0 bb = true ∧ immOf 0b1101000 = some 8 ∧
    startsB (.fcvt hh { rr with b := 0, c := 0b1101000, t := 3, d := 8 }) .S hh 0 bb = true ∧ startsB (.fcvt hh { rr with b := 0, c := 0b1100010, t := 2 }) .S hh 0 bb = true ∧ immOf 0b1100010 = some 2 ∧
    startsB (.fclass hh { rr with b := 0, c := 0, t := 9 }) .S hh 0 bb = true ∧ tyOf 9 = .flt .bf16 ∧ tyOf 10 = .flt .f16 ∧ bb.core.src .S 1 1 = .ok 1 := by decide +kernel

/-- A scalar result of S, due in trio clock 1. -/
def ff : InFlight := { stream := .S, due := some 1, seq := 0, pc := 0, enters := true, val := .scalar 7, dest := .named 9 1, tokens := 0, fab := none, kind := .none, acc := none, asked := none, pops := 0, loops := [] }

theorem wit_ResultDelivered : (∀ d ∈ [Dest.named 9 1, .named 8 2, .pred 7, .pred 1, .vec 3 false 5, .ctl 0, .ctl 0x00F, .ctl 0x012, .none],
      ({ ff with dest := d } : InFlight).tokens = 0 ∧ ({ ff with dest := d } : InFlight).due = some 1) ∧ ff.stream ≠ .A ∧ 1 ≤ cc.clk ∧
    (bc { cc with flight := [ff] }).getC 0 = { cc with flight := [ff] } ∧ ({ ff with stream := .A, due := some 0 } : InFlight).stream = .A ∧ 0 ≤ bb.now ∧ cc.dbg.stepABusy = false := by decide +kernel

theorem wit_ResultsInClockOrder : let g := { ff with due := some 2, seq := 1 }
    let c := { cc with clk := 2, flight := [ff, g] }
    ((bc c).getC 0).flight = [ff, g] ∧ ff ≠ g ∧ ff.tokens = 0 ∧ g.tokens = 0 ∧ ff.enters = true ∧ g.enters = true ∧ ff.stream ≠ .A ∧ g.stream = ff.stream ∧ ff.due = some 1 ∧ g.due = some 2 ∧ 2 ≤ c.clk := by
  decide +kernel

theorem wit_TilesAndWordsArrive : let w : TileWrite := { stream := .X, due := 1, target := .tile 0 8 [(0, 1)] [] 4096 64 }
    let c := { cc with tileW := [w] }
    ((bc c).getC 0).tileW = [w] ∧ c.seqs = [] ∧ w.due ≤ c.clk ∧ cc.inst.isSome = true ∧ cc.started = true ∧ cc.away = false ∧ (cc.str .S).st.live = true ∧ sfind (cc.str .S).cache (cc.str .S).pc = none ∧
    waitsFault bb 0 .S = false := by decide +kernel

/-! ## Witnesses: V -/

/-- A vector whose lane i holds n + i. -/
def vv (n : Nat) : VReg := { lanes := (List.range 64).map fun i => BitVec.ofNat 32 (n + i), valid := true }
/-- Core 0 with four valid vectors. -/
def cv : Core := { cc with vecs := [(0, vv 0), (1, vv 1), (2, vv 2), (3, vv 3)] }
/-- Vector operands: destination v4, sources v1, v2 and v3, type i32. -/
def rv : FR := { d := 4, a := 1, b := 2, c := 3, t := 2, rm := 0, g := 0, m := 0 }

theorem wit_LaneSources : (cv.vsrc 1 1).isSome = true ∧ (cv.vsrc 2 1).isSome = true ∧ (cv.vsrc 3 1).isSome = true ∧ (cv.vsrc 2 2).isSome = true := by decide +kernel

theorem wit_LaneArithmetic : (∀ i ∈ [Instr.vadd hh { rv with c := 0 }, .vsub hh { rv with c := 0 }, .vmul hh { rv with c := 0 }, .vfma hh rv, .vmin hh { rv with c := 0 }, .vmax hh { rv with c := 0 },
      .vabs hh { rv with b := 0, c := 0 }, .vneg hh { rv with b := 0, c := 0 }], startsB i .V hh 0 (bc cv) = true) ∧
    (∀ i ∈ [Instr.vadd hh { rv with c := 0, t := 8 }, .vsub hh { rv with c := 0, t := 8 }, .vmul hh { rv with c := 0, t := 8 }, .vfma hh { rv with t := 8 }, .vmin hh { rv with c := 0, t := 8 },
      .vmax hh { rv with c := 0, t := 8 }, .vdiv hh { rv with c := 0, t := 8 }, .vsqrt hh { rv with b := 0, c := 0, t := 8 }, .vabs hh { rv with b := 0, c := 0, t := 8 }, .vneg hh { rv with b := 0, c := 0, t := 8 },
      .vrcp hh { rv with b := 0, c := 0, t := 8 }, .vrsqrt hh { rv with b := 0, c := 0, t := 8 }, .vexp2 hh { rv with b := 0, c := 0, t := 8 }, .vlog2 hh { rv with b := 0, c := 0, t := 8 }],
      startsB i .V hh 0 (bc cv) = true) := by decide +kernel

theorem wit_LaneBitsAndCompare : (∀ i ∈ [Instr.vand hh { rv with c := 0, t := 6 }, .vor hh { rv with c := 0, t := 6 }, .vxor hh { rv with c := 0, t := 6 }, .vshl hh { rv with c := 0, t := 6 }, .vshr hh { rv with c := 0, t := 6 },
      .vsar hh { rv with c := 0 }, .vsel hh rv, .vcmp hh { rv with c := 0b1100101 }, .vcmp hh { rv with c := 0b1100111, t := 8 }, .vwmul hh { rv with c := 0 }, .vwadd hh { rv with c := 0 },
      .vwadd hh { rv with c := 0, a := 2, m := 1 }], startsB i .V hh 0 (bc cv) = true) := by decide +kernel

theorem wit_LaneScans : (∀ n ∈ [0b1100000, 0b1100001, 0b1100010, 0b1100011, 0b1100101], startsB (.vscan hh { rv with c := n }) .V hh 0 (bc cv) = true ∧ startsB (.vred hh { rv with c := n }) .V hh 0 (bc cv) = true) ∧
    startsB (.vscan hh { rv with c := 0b1100000, m := 1, t := 8 }) .V hh 0 (bc cv) = true := by decide +kernel

theorem wit_LaneMoves : (∀ i ∈ [Instr.vperm hh { rv with c := 0 }, .vperm hh { rv with m := 1 }, .vbcast hh { rv with c := 0 }, .vrot hh { rv with c := 0 }, .vrot hh { rv with c := 0, m := 1 },
      .vcomp hh { rv with c := 0 }, .vext hh { rv with c := 0, d := 9 }, .vpand hh { rv with d := 1, c := 0 }, .vpor hh { rv with d := 1, c := 0 }, .vins hh rv, .vmov hh { rv with b := 0, c := 0 },
      .vpnot hh { rv with d := 1, b := 0, c := 0 }, .vpcnt hh { rv with b := 0, c := 0 }, .vmov hh { rv with b := 0, c := 0, a := 2, m := 1 }], startsB i .V hh 0 (bc cv) = true) ∧
    (cv.vsrc 1 1).isSome = true ∧ (cv.vsrc 2 1).isSome = true ∧ (cv.vsrc 3 1).isSome = true ∧ (cv.vsrc 2 2).map List.length = some 64 ∧ (cv.vsrc 1 1).map List.length = some 64 := by decide +kernel

theorem wit_LaneConversions : startsB (.vcvt hh { rv with b := 0, c := 0b1101000, t := 9 }) .V hh 0 (bc cv) = true ∧ immOf 0b1101000 = some 8 ∧
    startsB (.vcvt hh { rv with b := 0, c := 0b1101000, t := 3 }) .V hh 0 (bc cv) = true ∧ startsB (.vcvt hh { rv with b := 0, c := 0b1101011, t := 13 }) .V hh 0 (bc cv) = true ∧
    startsB (.vsatr hh { rv with c := 0, t := 0 }) .V hh 0 (bc cv) = true ∧ startsB (.vmxd hh { rv with b := 0, c := 0, t := 13 }) .V hh 0 (bc cv) = true ∧
    startsB (.vmxq hh { rv with b := 0, c := 0, t := 12 }) .V hh 0 (bc cv) = true := by decide +kernel

/-- `vmxq` of 64 zeros: the block of the smallest scale. -/
theorem wit_LaneConversions_vmxq : let c := { cc with vecs := [(1, { lanes := List.replicate 64 0, valid := true })] }
    let s := bc c
    startsB (.vmxq hh { rv with b := 0, c := 0, t := 11 }) .V hh 0 s = true ∧ c.vsrc 1 1 = some (List.replicate 64 0) ∧ guardLanes c 0 = ~~~0 ∧
    (∀ i, i < 64 → (f32v (lane32 (List.replicate 64 0) i)).rat = some 0) ∧ |(0 : ℚ)| = 0 ∧ (-127 : Int) = (if (0 : ℚ) = 0 then -127 else 0) := by
  refine ⟨by decide +kernel, by decide +kernel, by decide +kernel, fun i hi => ?_, by norm_num, by norm_num⟩
  have e : ∀ i, i < 64 → f32v (lane32 (List.replicate 64 0) i) = .fin false 0 (-149) := by decide +kernel
  rw [e i hi]; simp [Num.rat]

theorem wit_LaneGenerators : let c := { cv with vgen := List.replicate 64 1 }
    (∀ i ∈ [Instr.vrand hh { rv with a := 0, b := 0, c := 0, t := 0 }, .vrand hh { rv with a := 0, b := 0, c := 0, m := 1, t := 0 }, .vadd hh { rv with c := 0, t := 8, rm := 3 },
      .vseed hh { rv with d := 0, b := 0, c := 0 }], startsB i .V hh 0 (bc c) = true) ∧ c.vgen.length = 64 := by decide +kernel

theorem wit_LaneQueues : let c := { cv with oq := [(3, [{ bytes := List.replicate 256 5, filled := true, fresh := false }])], sq := [(1, List.replicate 1792 0)] }
    startsB (.vpop hh { d := 4, a := 0, imm := 3 }) .V hh 0 (bc c) = true ∧ startsB (.vpush hh { d := 0, a := 1, imm := 1 }) .V hh 0 (bc c) = true ∧
    sget [] c.oq 3 = [{ bytes := List.replicate 256 5, filled := true, fresh := false }] ∧ (sget [] c.sq 1).length + 256 ≤ 2048 := by decide +kernel

/-! ## Witnesses: X -/

/-- Tile operands: destination tile 0, sources 1 and 2, i32, all masks 0. -/
def tt : FT := { td := 0, ta := 1, tb := 2, rms := 0, cms := 0, et := 2, s := 0, g := 0, m := 0 }
/-- A tile of i32 elements 1, 2, 3 and 4. -/
def tf : Tile := { elems := [(0, 1), (4, 2), (8, 3), (12, 4)], scales := [], full := true }
/-- Core 0 with four FULL tiles of 2 by 2 elements of type et. -/
def ct (et : Nat) : Core :=
  let v : W32 := BitVec.ofNat 32 (et + 32 + 2048)
  { cc with tiles := [(0, tf), (1, tf), (2, tf), (3, tf)], tsh := [(0, v), (1, v), (2, v), (3, v)], rmode := 1 }

theorem wit_TileWords : (∀ i ∈ [Instr.tzero hh { tt with ta := 0, tb := 0 }, .tfill hh { tt with ta := 0, tb := 0, s := 1 }, .tmov hh { tt with tb := 0 }, .tmov hh { tt with tb := 0, m := 1 }, .tadd hh tt, .tmul hh tt,
      .tcvt hh { tt with tb := 0 }, .tcvt hh { tt with tb := 0, m := 5 }, .trmax hh { tt with tb := 0, s := 1 }, .trsum hh { tt with tb := 0, s := 1 }], startsB i .X hh 0 (bc (ct 2)) = true) ∧
    ((bc (ct 2)).shape 0).usable = true ∧ ((bc (ct 2)).shape 1).et = 2 ∧ ((bc (ct 2)).shape 0).rows = 2 ∧ ((bc (ct 2)).shape 0).cols = 2 ∧ ((ct 2).tile 0).full = true ∧ (ct 2).tileBusy 0 = false ∧
    (ct 2).src .X 1 1 = .ok 1 ∧ etTy 2 = (tyOf 2, false) := by decide +kernel

theorem wit_TileWords_float : (∀ i ∈ [Instr.tadd hh { tt with et := 8 }, .tmul hh { tt with et := 8 }, .tscale hh { tt with et := 8, tb := 0, s := 1 }, .trmax hh { tt with et := 8, tb := 0, s := 1 },
      .trsum hh { tt with et := 8, tb := 0, s := 1 }], startsB i .X hh 0 (bc (ct 8)) = true) ∧ ((bc (ct 8)).shape 0).usable = true ∧ ((bc (ct 8)).shape 2).et = 8 ∧ (ct 8).rmode = 1 := by decide +kernel

/-- `tadd` with a row and a column spread over the destination. -/
theorem wit_TileWords_broadcast : let c := { ct 6 with tsh := [(0, 0x826), (1, 0x826), (2, 6)] }
    startsB (.tadd hh { tt with et := 6, m := 3 }) .X hh 0 (bc c) = true ∧ ((bc c).shape 2).rows = 1 ∧ ((bc c).shape 2).cols = 1 ∧ ((bc c).shape 2).usable = true ∧ ((bc c).shape 0).et = 6 := by decide +kernel

/-- One step of an instruction, and a fact of the state after it. -/
def after (i : Instr) (s : State) (p : State → Bool) : Bool := match exec i s with | .next t => p t | _ => false

theorem wit_TileImages : let c := { ct 2 with lines := [(0, true), (5631, true)], named := sset Reg.reset (sset Reg.reset cc.named 1 { val := 720880, valid := true }) 2 { val := 720896, valid := true } }
    let s := bc c
    s.spadSize = 720896 ∧ (s.shape 0).imageBytes = 16 ∧ (s.shape 0).usable = true ∧ c.tileBusy 0 = false ∧ (c.tile 0).full = true ∧
    (∀ k ∈ [0, 1, 2, 3], startsB (.tld hh { tt with ta := 0, tb := 0, s := k, m := 1 }) .X hh 0 s = true ∧ startsB (.tst hh { tt with td := 0, tb := 0, s := k, m := 1 }) .X hh 0 s = true) ∧
    c.src .X 0 1 = .ok 0 ∧ c.linesFull 0 16 = true ∧ spadErr s 0 0 16 = false ∧ c.src .X 1 1 = .ok 720880 ∧ c.linesFull 720880 16 = true ∧ c.src .X 2 1 = .ok 720896 ∧ c.src .X 3 1 = .ok 3 ∧
    after (.tld hh { tt with ta := 0, tb := 0, s := 3, m := 1 }) s (fun t => (t.core.x.fault.map fun f => (f.code, f.addr)) == some (cALIGN, 3)) = true ∧
    after (.tld hh { tt with ta := 0, tb := 0, s := 2, m := 1 }) s (fun t => (t.core.x.fault.map fun f => (f.code, f.addr)) == some (cUNMAPPED, 720896)) = true := by decide +kernel

theorem wit_MaskWords : let c := { cc with named := sset Reg.reset cc.named 1 { val := 0x403F, valid := true } }
    (∀ m ∈ [1, 0], startsB (.rmset hh { tt with td := 0, ta := 0, tb := 0, et := 0, s := if m = 1 then 1 else 2, m := m, rms := 2 }) .X hh 0 (bc c) = true) ∧
    (∀ m ∈ [1, 0, 2, 6], startsB (.cmset hh { tt with td := 0, ta := 0, tb := 0, et := 0, s := if m = 1 then 1 else 2, m := m, cms := 3 }) .X hh 0 (bc c) = true) ∧
    c.src .X 1 1 = .ok 0x403F ∧ (∃ v, c.src .X 2 2 = .ok v) ∧ c.flight = [] := by
  refine ⟨by decide +kernel, by decide +kernel, by decide +kernel, ⟨_, rfl⟩, by decide +kernel⟩

theorem wit_TileLanes : let c := { ct 2 with vecs := cv.vecs }
    let o : FT := { tt with td := 0, tb := 0, s := 1, m := 2 }
    ((bc c).shape 1).usable = true ∧ ((bc c).shape 1).et = 2 ∧ (c.vsrc 1 1).isSome = true ∧ (c.vsrc 2 1).isSome = true ∧ c.tileBusy 1 = false ∧ (c.tile 1).full = true ∧
    (∀ m ∈ [0x02, 0x42, 0x20, 0x60], startsB (.vtrd hh { o with m := m }) .V hh 0 (bc c) = true) ∧ (∀ m ∈ [0x02, 0x42], startsB (.vtwr hh { o with m := m }) .V hh 0 (bc c) = true) := by decide +kernel

/-- Lanes of a block: an 8 by 8 tile of sbmx.e4m3. -/
theorem wit_TileLanes_blk : let c := { ct 2 with vecs := cv.vecs, tsh := [(1, 0x10 + 7 * 32 + 7 * 2048)] }
    ((bc c).shape 1).usable = true ∧ ((bc c).shape 1).sb = true ∧ startsB (.vtrd hh { tt with td := 0, tb := 0, et := 0x10, s := 1, m := 0x82 }) .V hh 0 (bc c) = true ∧
    startsB (.vtwr hh { tt with td := 0, tb := 0, et := 0x10, s := 1, m := 0x82 }) .V hh 0 (bc c) = true := by decide +kernel

/-! ## Witnesses: operations -/

/-- Operand fields of a creating word: destination n9, sources n1 and n2, no after-handle. -/
def oo : FO := { d := 9, a := 1, b := 2, c := 0, pr := 0, dt := 0, af := 0, g := 0, m := 0 }
/-- An operation of context 2048 in slot 0: its handle is of generation 1 and of kind k; core 0 owns it. -/
def op0 (k : Nat) (st : OpSt) (b : OpBody) : Op :=
  { handle := BitVec.ofNat 32 (0x100000 + 16 * k), st := st, code := 0, engine := 0, index := 0, time := 0, addr := 0, deliv := 0, zfill := 0, attached := true, core := 0,
    stream := .S, node := kk, prio := 0, aged := 0, since := 0, order := 0, after := none, fate := .undecided, issued := 0, released := false, adopted := false, cancel := false, entry := 0, bitmap := 0,
    collNo := none, inputs := [], recv := [], notices := [], got := [], next := 0, body := b }
/-- A core with the value v in n1, and 0x2000 in n2 and n3. -/
def cn (v : W32) : Core :=
  { cc with named := sset Reg.reset (sset Reg.reset (sset Reg.reset cc.named 1 { val := v, valid := true }) 2 { val := 0x2000, valid := true }) 3 { val := 0, valid := true } }
/-- The state whose core has v in n1 and whose context holds the operations ops. -/
def so (v : W32) (ops : Sparse Op) : State := (bc (cn v)).modX 2048 fun x => { x with ops := ops }
/-- A HELD lease of kind k on engine e. -/
def le (k e : Nat) : Op := op0 4 .running (.lease k false .held (some e) none false)

/-- The first engine of each kind. -/
def firstEngine (k : Nat) : Nat := (kindSpan k).1

theorem wit_CreatingWords_S : (∀ k ∈ [0, 1, 2, 3, 4, 5], startsB (.lease hh { oo with a := 0b1100000 + BitVec.ofNat 7 k, b := 0 }) .S hh 0 (so 0 []) = true ∧ immOf (0b1100000 + BitVec.ofNat 7 k) = some (k : Int)) ∧
    startsB (.lease hh { oo with a := 0b1100000, b := 0, m := 1 }) .S hh 0 (so 0 []) = true ∧
    (∀ i ∈ [Instr.colrs hh oo, .colag hh oo, .colar hh oo, .cola2a hh oo, .colbc hh oo, .colcmb hh oo, .rtopk hh { oo with m := 1 }, .rplan hh oo, .sortkv hh oo, .gathr hh { oo with m := 1 },
      .scatr hh { oo with m := 1 }, .sfnap hh { oo with m := 1 }, .cdpack hh { oo with m := 1 }, .cdunpk hh { oo with m := 1 }, .qlaunch hh { oo with pr := 7, dt := 1 }, .glzs hh oo], startsB i .S hh 0 (so 0x100040 [(0, le 0 0)]) = true) ∧
    (∀ e ∈ [(0x58, 0), (0x5D, 0), (0x5E, 1), (0x5F, 1), (0x60, 2), (0x61, 3), (0x62, 3), (0x63, 4), (0x64, 5), (0x65, 5)],
      leaseOperand (so 0x100040 [(0, le e.2 (firstEngine e.2))]) 2048 e.1 0x100040 = none) ∧
    FreeSlot ((so 0 []).getX 2048) 0 1 ∧ FreeSlot ((so 0x100040 [(0, le 0 0)]).getX 2048) 1 1 ∧ (so 0 []).core.dbg.dbgHold = false ∧ (so 0 []).core.src .S 1 1 = .ok 0 ∧ (so 0 []).core.src .S 2 2 = .ok 0x2000 := by
  refine ⟨by decide +kernel, by decide +kernel, by decide +kernel, by decide +kernel, .inl (by decide +kernel), .inl (by decide +kernel), by decide +kernel, by decide +kernel, by decide +kernel⟩

/-- The oldest retired slot comes round again once all 4,096 are used; the generation after 4,095 is 1. -/
theorem wit_FreeSlot_again : FreeSlot { Ctx.reset with ops := List.replicate 4096 (7, { op0 4 .retired (.join []) with handle := 0xFFF00780 }), retired := [7, 3] } 7 1 :=
  .inr ⟨le_of_eq List.length_replicate.symm, [3], { op0 4 .retired (.join []) with handle := 0xFFF00780 }, rfl, by decide +kernel, by decide +kernel⟩

/-- The state with an instance whose schedule has two entries. -/
def s2e : State := (so 0x10001 []).modX 2048 fun x => { x with insts := [(kk, { placedInst with launch := placedInst.launch.take 0x16 ++ [2, 0] ++ placedInst.launch.drop 0x18 })] }

theorem wit_CreatingWords_AX : (s2e.coreInst s2e.core).isSome = true ∧ (s2e.coreInst s2e.core).map (fun i => field i.launch 0x16 2) = some 2 ∧ s2e.core.aUnpassed = false ∧ s2e.core.src .A 1 1 = .ok 0x10001 ∧
    s2e.core.src .A 2 2 = .ok 0x2000 ∧ s2e.core.src .X 2 2 = .ok 0x2000 ∧ s2e.core.src .X 1 1 = .ok 0x10001 ∧ startsB (.cpy hh oo) .A hh 0 s2e = true ∧ startsB (.bdot hh { oo with a := 2, b := 0 }) .A hh 0 s2e = true ∧
    startsB (.wlease hh { oo with a := 0, b := 0, pr := 3 }) .X hh 0 s2e = true ∧ startsB (.wload hh { oo with a := 2, b := 0 }) .X hh 0 s2e = true ∧ startsB (.wdrain hh { oo with a := 2, b := 0 }) .X hh 0 s2e = true ∧
    startsB (.wdrain hh { oo with b := 0, m := 1 }) .X hh 0 s2e = true := by decide +kernel

/-- A core whose tile 0 is 1 row of 256 elements of type et and whose tiles 4 to 7 are 1 row of 64 elements of type out. -/
def cw (et out : Nat) : Core :=
  let v : W32 := BitVec.ofNat 32 (et + 255 * 2048)
  let w : W32 := BitVec.ofNat 32 (out + 63 * 2048)
  { cc with tiles := [(0, tf), (1, tf), (4, tf), (5, tf), (6, tf), (7, tf)], tsh := [(0, v), (1, v), (4, w), (5, w), (6, w), (7, w)] }
/-- Operands of a matrix word: input tile 0, output tiles 4 to 7. -/
def ww : FW := { d := 9, ta := 0, tout := 4, rms := 0, cms := 0, pr := 0, dt := 0, acc := 0, et := 0, g := 0, m := 0 }

theorem wit_MatrixWords : (∀ e ∈ [(0, 2), (0x0B, 8)], let s := bc (cw e.1 e.2)
      startsB (.wdot hh { ww with et := BitVec.ofNat 5 e.1 }) .X hh 0 s = true ∧ startsB (.wtdot hh { ww with et := BitVec.ofNat 5 e.1 }) .X hh 0 s = true ∧ (s.shape 0).usable = true ∧ (s.shape 0).et = e.1 ∧
      (s.shape 0).cols = 256 ∧ (s.core.tile 0).full = true ∧ (∀ t ∈ [4, 5, 6, 7], (s.shape t).usable = true ∧ (s.shape t).et = e.2 ∧ (s.shape t).rows = 1 ∧ (s.shape t).cols = 64 ∧ s.core.tileBusy t = false ∧
        (s.core.tile t).full = true)) ∧
    startsB (.wouter hh { ww with et := 0x0B, tout := 1 }) .X hh 0 (bc (cw 0x0B 8)) = true ∧ ((bc (cw 0x0B 8)).shape 1).usable = true ∧
    startsB (.wdot hh ww) .X hh 0 (bc (ct 0)) = true ∧ ((bc (ct 0)).shape 0).cols ≠ 256 := by decide +kernel

/-- Operands of a word about a handle in n1. -/
def ho : FR := { rr with b := 0, c := 0, t := 0 }

theorem wit_WaitingWords : (∀ m ∈ [0, 1], startsB (.owait hh { ho with m := m }) .S hh 0 (so 0x100010 []) = true) ∧ startsB (.otest hh ho) .S hh 0 (so 0x100010 []) = true ∧
    ((so 0x100010 []).getX 2048).op? 0x100010 = none ∧ (so 0x100010 []).core.src .S 1 1 = .ok 0x100010 ∧ (so 0x100010 []).core.owait = .none ∧
    (∀ st ∈ [OpSt.complete, .running], let p := op0 1 st (.copy 0 1 0 0 0);
      ((so 0x100010 [(0, p)]).getX 2048).op? 0x100010 = some p ∧ kindOf p.body ≠ 0 ∧ p.core = (so 0x100010 [(0, p)]).cur) ∧
    (let p := { op0 1 .complete (.copy 0 1 0 0 0) with core := 1 };
      ((so 0x100010 [(0, p)]).getX 2048).op? 0x100010 = some p ∧ p.attached = true ∧ p.core ≠ (so 0x100010 [(0, p)]).cur) ∧
    (let c := { cn 0x100010 with owait := .got 8 };
      startsB (.owait hh ho) .S hh 0 (bc c) = true) ∧
    (let p := op0 1 .running (.copy 0 1 0 0 0);
      startsB (.ojoin hh oo) .S hh 0 (so 0x100010 [(0, p)]) = true ∧ FreeSlot ((so 0x100010 [(0, p)]).getX 2048) 1 1) := by
  refine ⟨by decide +kernel, by decide +kernel, by decide +kernel, by decide +kernel, by decide +kernel, by decide +kernel, by decide +kernel, by decide +kernel, by decide +kernel, .inl (by decide +kernel)⟩

theorem wit_OperationWords : (∀ i ∈ [Instr.odetach hh ho, .orelease hh ho, .oadopt hh ho, .oprio hh { ho with b := 2 }, .ofault hh { ho with b := 2 }, .ocancel hh ho, .unlease hh ho, .lquery hh ho,
      .lquery hh { ho with a := 0b1100101, m := 1 }], startsB i .S hh 0 (so 0x100010 []) = true) ∧
    (∀ st ∈ [OpSt.running, .complete, .queued, .orphaned], let p := op0 1 st (.copy 0 1 0 0 0);
      ((so 0x100010 [(0, p)]).getX 2048).op? 0x100010 = some p ∧ (so 0x100010 [(0, p)]).getO 2048 0 = some p ∧ p.attached = true) ∧ (so 0x100010 []).getO 2048 0 = none ∧
    ((so 0x100010 [(0, op0 1 .queued (.copy 0 1 0 0 0))]).cores.map fun e => e.2.owait) = [.none] ∧
    (let p := { op0 2 .running (.engine 0x58 0x100040 0 false) with handle := 0x100120 };
      let s := so 0x100040 [(0, le 0 47), (1, p)];
      ((s.getX 2048).op? 0x100040) = some (le 0 47) ∧ leaseCommands s 2048 0 ≠ [] ∧ startsB (.unlease hh ho) .S hh 0 s = true ∧ startsB (.lquery hh ho) .S hh 0 s = true) := by decide +kernel

/-- A claim of the core k of the bench. -/
def cl (k : Nat) : Claim :=
  { k := k, ctx := 2048, prio := 0, op := 0x100040, aged := 0, since := none, lastLoad := none, bind := none, bound := false, ptag := [], savedAcc := none }

theorem wit_ClaimWords : let z : FT := { td := 0, ta := 0, tb := 0, rms := 0, cms := 0, et := 0, s := 0, g := 0, m := 0 }
    let s := so 4 []
    let claimed (c : Claim) : State := { s with benches := [(0, { Bench.reset with claims := [c] }), (1, { Bench.reset with claims := [{ cl 0 with bind := some 0 }] })] }
    (∀ i ∈ [Instr.wclr hh z, .wrel hh z, .wpair hh ho, .wpair hh { ho with a := 0, m := 1 }], startsB i .X hh 0 s = true ∧ startsB i .X hh 0 (claimed (cl 0)) = true) ∧ s.claimOf 0 = none ∧
    (claimed (cl 0)).claimOf 0 = some (cl 0) ∧ (cl 0).bind = none ∧ (claimed { cl 0 with bind := some 4 }).claimOf 0 = some { cl 0 with bind := some 4 } ∧ s.core.src .X 1 1 = .ok 4 ∧ (4 : Nat) / 4 = 0 / 4 ^^^ 1 ∧
    (claimed (cl 0)).claimOf 4 = some { cl 0 with bind := some 0 } := by decide +kernel

/-- A process group of two by two by one members, of which this device is the last; it wraps in its first dimension. -/
def pg4 : PgTable :=
  { st := .ready, gen := 0, sealW := 0, dims := [2, 2, 1], wrap := 1, members := [(0, 0), (1, 0), (2, 0), (3, 0)], rank := 3, since := 0, nextColl := 0, vas := [] }
/-- Core 0 as the third core of a group of three that spans the process group. -/
def gs (v : W32) : State :=
  (bc { cn v with gidx := 2 }).modX 2048 fun x => { x with insts := [(kk, { placedInst with launch := placedInst.launch.take 0x10 ++ [3, 0] ++ placedInst.launch.drop 0x12, cores := [4, 5, 0], pg := some pg4 })] }

theorem wit_GroupWords : (∀ i ∈ [Instr.gid hh { ho with a := 0 }, .grank hh { ho with a := 0 }, .gsize hh { ho with a := 0 }, .gsize hh { ho with a := 0, m := 1 }, .gpeer hh { ho with m := 1 }, .gpeer hh { ho with m := 2 },
      .gpeer hh { ho with a := 0b1100000, b := 0b1100001 }, .gpeer hh { ho with a := 0b1100010, b := 0b1111111 }, .gshare hh { ho with d := 8, m := 1 }, .gshare hh { ho with d := 8, m := 2 },
      .gshare hh { ho with d := 8, b := 5, c := 4 }], startsB i .S hh 0 (gs 10) = true) ∧ ((gs 10).coreInst (gs 10).core).bind (·.pg) = some pg4 ∧ ((gs 10).coreInst (gs 10).core).map (fun i => field i.launch 0x10 2) = some 3 ∧
    immOf 0b1111111 = some (-1) ∧ (3 : Nat) < 2 * 2 * 1 ∧ (gs 10).core.src .S 5 1 = .ok 5 ∧ (gs 10).core.src .S 4 1 = .ok 4 := by decide +kernel

/-- Ten items over three parts: the third gets three, from the seventh on (the example of R307). -/
theorem test_gshare : after (.gshare hh { ho with d := 8, m := 1 }) (gs 10) (fun t => t.core.flight.map (·.val) == [.scalar (3 * 2 ^ 32 + 7)]) = true := by decide +kernel

theorem wit_RequestWords : let s := gs 63
    let d : Inst := { placedInst with launch := placedInst.launch };
    (∀ i ∈ [Instr.evpost hh { ho with b := 2 }, .barrive hh ho, .barleave hh ho, .barwait hh { ho with b := 2 }, .bartest hh { ho with b := 2 }, .barinit hh { ho with b := 2 }, .qsignal hh { ho with b := 2 },
      .glza hh { ho with b := 2, c := 4 }, .gclaim hh { ho with a := 0, d := 8 }], startsB i .S hh 0 s = true) ∧ s.core.src .S 1 1 = .ok 63 ∧ s.core.src .S 2 2 = .ok 0x2000 ∧ s.core.src .S 2 1 = .ok 0x2000 ∧
    s.core.src .S 4 1 = .ok 4 ∧ s.core.s.atAlign = none ∧ s.core.req = .none ∧ startsB (.barrive hh ho) .S hh 0 (gs 1024) = true ∧ (gs 1024).core.src .S 1 1 = .ok 1024 ∧ d.launch.length = 256 := by decide +kernel

/-! ## Witnesses: homes and memory -/

/-- A readable and writable leaf of a page of 64 KiB in state st at a frame. -/
def lf (st frame : Nat) : W64 := BitVec.ofNat 64 (st * 2 ^ 61 + 3 * 2 ^ 54 + frame + 3)
/-- The state with page tables of the physical function: the page at 65,536 times i has the i-th leaf of the list. -/
def paged (s : State) (l : List W64) : State :=
  { s with dc := sput (sput s.dc 0x2B0400 0x10000) (0x002B1038 + 0x40 * ringPart s 0x80) 0x04940000
           mem := ((s.mem.storeList 0x10000 (leBytes 8 0x20001)).storeList 0x20000 (leBytes 8 0x30001)).storeList 0x30008 (l.flatMap fun e => leBytes 8 e.toNat) }
/-- Pages: one of HBM, one ABSENT, one of the pool, one COMPUTE. -/
def pages : List W64 := [lf 1 0x100000, lf 0 0, lf 2 (2 ^ 47 + 0x10000), lf 5 0x200000]

theorem wit_paged : (paged bb pages).mem.wf = true ∧ readVa (paged bb pages) .device 0x80 0x10008 4 = .ok [0, 0, 0, 0] ∧ translate (paged bb pages) (.core 0) 0x80 0x10008 .wr false = .ok 0x100008 (lf 1 0x100000) ∧
    translate (paged bb pages) (.core 0) 0x80 0x20000 .rd false = .wait := by decide +kernel

/-- A request of core 0 on its way to a home that has a barrier at entry 5. -/
def hs (a : Ask) (e : Barrier) : State :=
  paged ((bc { cc with req := .sent a }).modX 2048 fun x => { x with barriers := [(5, e)], barva := 0x10100, recVa := 0x10400, evqva := 0x10800, evqlog2 := 4 }) pages
/-- A barrier of one bench in state st that expects two arrivals, n of which have come. -/
def br (st : BarSt) (n : BitVec 24) : Barrier :=
  { gen := 3, epoch := 1, scope := 0, st := st, expect := 2, arrived := n, anchor := 0, pgid := 0, homedev := 0, brkcode := 0, mirror := false }
/-- A request about entry 5 in its generation 3. -/
def ak (op : AskOp) : Ask := { op := op, a := 5, b := 0x30102, c := 0, m := 0 }

theorem wit_HomeRequests : (∀ op ∈ [AskOp.barrive, .barleave, .barinit, .barwait, .bartest, .gclaim, .evpost], ((hs (ak op) (br .openSt 0)).getC 0).req = .sent (ak op)) ∧
    (hs (ak .barrive) (br .openSt 0)).getBar 2048 5 = br .openSt 0 ∧ ((hs (ak .barrive) (br .openSt 0)).getC 0).storesOpen = false ∧
    (((ak .barwait).b.setWidth 32 : W32).extractLsb' 8 8) = (br .openSt 0).epoch ∧ (((ak .barwait).b.setWidth 32 : W32).extractLsb' 16 16) = (br .openSt 0).gen := by decide +kernel

/-- One arrival short, the last arrival, and the first of the next generation. -/
theorem wit_HomeRequests_barrive :
    after (.homeRequestArrival 0) (hs (ak .barrive) (br .openSt 0)) (fun t => (t.getC 0).req == .replied 0x30101 && t.getBar 2048 5 == { br .openSt 1 with gen := 3 }) = true ∧
    after (.homeRequestArrival 0) (hs (ak .barrive) (br .openSt 1)) (fun t => (t.getC 0).req == .replied 0x30102 && t.getBar 2048 5 == br .complete 2) = true ∧
    after (.homeRequestArrival 0) (hs (ak .barrive) (br .complete 2)) (fun t => (t.getC 0).req == .replied 0x40101 && t.getBar 2048 5 == { br .openSt 1 with gen := 4 }) = true := by decide +kernel

/-- A wait for the pending generation stays, and the last arrival answers it. -/
theorem wit_HomeRequests_barwait :
    after (.homeRequestArrival 0) (hs (ak .barwait) (br .openSt 1)) (fun t => (t.getC 0).req == .applied (ak .barwait)) = true ∧
    after (.homeRequestArrival 0) (hs (ak .bartest) (br .openSt 1)) (fun t => (t.getC 0).req == .replied 0x30101) = true ∧
    after (.homeRequestArrival 0) (hs (ak .barwait) (br .complete 2)) (fun t => (t.getC 0).req == .replied 0x30102) = true ∧
    (let s := hs (ak .barrive) (br .openSt 1);
      after (.homeRequestArrival 0) { s with cores := s.cores ++ [(1, { cc with req := .applied (ak .barwait) })] } (fun t => (t.getC 1).req == .replied 0x30102) = true) := by decide +kernel

theorem wit_HomeRequests_leave_init :
    after (.homeRequestArrival 0) (hs (ak .barleave) { br .openSt 0 with expect := 3 }) (fun t => (t.getC 0).req == .replied 0x30101 && t.getBar 2048 5 == br .openSt 0) = true ∧
    after (.homeRequestArrival 0) (hs { ak .barinit with b := 9 } (br .openSt 0)) (fun t => (t.getC 0).req == .replied 1 &&
      t.getBar 2048 5 == { br .openSt 0 with gen := 0, epoch := 2, expect := 9 }) = true := by decide +kernel

/-- A claim takes GRAIN items while there are any; an event takes its slot of the queue. -/
theorem wit_HomeRequests_gclaim : let a : Ask := { op := .gclaim, a := 6, b := 0x10010, c := 4, m := 0 }
    let s := hs a (br .openSt 0)
    dcGet s (0x002B1038 + 0x40 * ringPart s 0x80) &&& 0xFF = 0 ∧ (s.getB 0).faults = [] ∧ readFrom s (.core 0) 0x80 .wr false 2 0x10010 8 = .ok [0, 0, 0, 0, 0, 0, 0, 0] ∧
    after (.homeRequestArrival 0) s (fun t => (t.getC 0).req == .replied (4 * 2 ^ 32) && t.mem.byte 0x100010 == 4) = true ∧
    after (.homeRequestArrival 0) { s with mem := s.mem.store 0x100010 4 } (fun t => (t.getC 0).req == .replied (2 * 2 ^ 32 + 4) && t.mem.byte 0x100010 == 8) = true ∧
    after (.homeRequestArrival 0) { s with mem := s.mem.store 0x100010 8 } (fun t => (t.getC 0).req == .replied 6) = true ∧
    (hs (ak .evpost) (br .openSt 0)).devRead 0x80 0x10470 4 = some [0, 0, 0, 0] ∧
    after (.homeRequestArrival 0) (hs (ak .evpost) (br .openSt 0)) (fun t => (t.getC 0).req == .replied 1 && (t.getX 2048).evtail == 1 && t.mem.bytes 0x100800 8 == [1, 0, 0, 0, 6, 0, 0, 0]) = true := by decide +kernel

/-- An arrival of another device at the home of a fab-scope barrier. -/
def am : Msg :=
  { dst := Config.devId, dvf := 0x80, kind := 7, src := 9, svf := 1, epoch := 0, cseq := 0, cack := 0, flags := 0, va := 0, aux := 7, payload := barPayload 2 1 3 0 5 }

theorem wit_BarrierMessages : let e := { br .openSt 0 with scope := 3, pgid := 7 }
    let s := hs (ak .barrive) e
    let mi := hs (ak .barrive) { e with mirror := true }
    (s.getX 2048).st ≠ .free ∧ s.getBar 2048 5 = e ∧ barHome s 0x80 5 7 = some 2048 ∧ am.aux = e.pgid.setWidth 64 ∧
    after (.barrierMulticast 2048 5 (.setup 2 7 9 1 3)) s (fun t => (t.getBar 2048 5).mirror && (t.getBar 2048 5).homedev == 9) = true ∧
    after (.barrierMulticast 2048 5 (.complete 1 3)) mi (fun t => (t.getBar 2048 5).st == .complete) = true ∧
    after (.barrierMulticast 2048 5 (.broken 1 3 0x50)) mi (fun t => (t.getBar 2048 5).st == .broken) = true ∧
    (let m := { am with dst := 1 };
      after (.msgBarrier m) s (fun t => t.fabWait == [m] && (t.getBar 2048 5).arrived == 0) = true ∧ movedAway s 0x80 = none ∧
      after (.msgBarrier m) { s with fabWait := [m] } (fun t => (t.getBar 2048 5).arrived == 1 && (t.outbox.map (·.payload)) == [barPayload 4 0 0 0x30101 0]) = true) := by decide +kernel

/-! ## Witnesses: A -/

theorem wit_AddressWords : (∀ t ∈ [2, 3, 6, 7], let o : FR := { rr with d := 8, a := 2, b := 4, c := 0, t := t }
      startsB (.aAdd hh o) .A hh 0 bb = true ∧ startsB (.aSub hh o) .A hh 0 bb = true ∧ startsB (.aMul hh o) .A hh 0 bb = true ∧ startsB (.aShl hh o) .A hh 0 bb = true ∧
      (∀ n ∈ [0, 1, 2, 3, 4, 5], startsB (.bcmp hh { o with c := 0b1100000 + n }) .A hh 0 bb = true)) ∧
    (∀ t ∈ [0, 1, 2, 3, 4, 5, 6, 7], startsB (.aMov hh { rr with d := 8, a := 2, b := 0, c := 0, t := t }) .A hh 0 bb = true) ∧ startsB (.aMovi hh { d := 9, a := 0, imm := 0x3FFFFFF }) .A hh 0 bb = true ∧
    bb.core.src .A 2 2 = .ok (2 + 3 * 2 ^ 32) ∧ bb.core.src .A 4 2 = .ok (4 + 5 * 2 ^ 32) ∧ bb.core.src .A 4 1 = .ok 4 := by decide +kernel

/-- A core whose n2 and n3 hold an address, n4 to n7 a fabric base of device 9 and function 1 at that address, and whose first and last scratchpad lines are FULL. -/
def ca (v : W64) : Core :=
  let w (m : Sparse Reg) (n : Nat) (x : W32) : Sparse Reg := sset Reg.reset m n { val := x, valid := true }
  { cc with named := w (w (w (w (w (w cc.named 2 (v.setWidth 32)) 3 ((v >>> (32 : Nat)).setWidth 32)) 4 (v.setWidth 32)) 5 0) 6 9) 7 1, lines := [(0, true), (5631, true)],
            spad := [(4, 0x44), (720892, 7)] }
/-- The state with those pages, whose page of HBM holds 0x11 at its byte 8. -/
def ms (v : W64) : State := let s := paged (bc (ca v)) pages; { s with mem := s.mem.store 0x100008 0x11 }
/-- Operand fields of a memory word: value n9, base n2, offset 2 words, 4 bytes, global memory beyond the L1. -/
def om : FM := { data := 9, base := 2, off := 2, sz := 2, sp := 0, bypass := 1, ord := 0 }

theorem wit_Plain : dcGet (ms 0x10000) (0x002B1038 + 0x40 * ringPart (ms 0x10000) ((ms 0x10000).coreFn (ms 0x10000).core)) &&& 0xFF = 0 ∧ (ms 0x10000).lockQ = [] ∧ sget [] ((ms 0x10000).getB (benchOf (ms 0x10000).cur)).utlb 0 = [] ∧
    (ms 0x10000).core.acqOpen = false ∧ (ms 0x10000).core.accOpen 0 < 32 ∧ ((ms 0x10000).getB (benchOf (ms 0x10000).cur)).tlb = [] ∧ waitsFault (ms 0x10000) 0 .A = false ∧ (ms 0x10000).core.aUnpassed = false := by decide +kernel

theorem wit_Names : Names (ms 0x10000) om false 0x10000 0x10008 ∧ Names (ms 0x10000) { om with off := 9 <<< (11 : Nat) } true 0x10000 0x10024 ∧ Names (ms 0x10000) { om with off := 0x3FFFF } false 0x10000 0xFFFC ∧
    Names (ms 720888) { om with sp := 1, bypass := 0, off := 1 } false 720888 720892 := by
  refine ⟨⟨by decide +kernel, 8, by decide +kernel, by decide +kernel⟩, ⟨by decide +kernel, 36, by decide +kernel, ?_⟩, ⟨by decide +kernel, -4, by decide +kernel, by decide +kernel⟩,
    ⟨by decide +kernel, 4, by decide +kernel, by decide +kernel⟩⟩
  exact ⟨9, by decide +kernel, by decide +kernel⟩

theorem wit_LoadWords_global : (∀ i ∈ [Instr.ld hh om, .ldx hh { om with off := 9 <<< (11 : Nat) }, .ldq hh { om with data := 7 }, .pf hh { om with data := 0, sz := 0, bypass := 0 }], startsB i .A hh 0 (ms 0x10000) = true) ∧
    readVa (ms 0x10000) (.core 0) 0x80 0x10008 4 = .ok [0x11, 0, 0, 0] ∧ (ms 0x10000).core.l1 = [] ∧
    after (.ld hh om) (ms 0x10000) (fun t => t.core.flight.map (fun f => f.val) == [.scalar 0x11]) = true ∧
    after (.ld hh om) (ms 0x10002) (fun t => (t.core.a.fault.map fun f => (f.code, f.addr)) == some (0x15, 0x1000A)) = true := by decide +kernel

theorem wit_LoadWords_spad : let s := ms 720888
    startsB (.ld hh { om with sp := 1, bypass := 0, off := 1 }) .A hh 0 s = true ∧ 720892 + 4 ≤ s.spadSize ∧ s.core.linesFull 720892 4 = true ∧ spadErr s 0 720892 4 = false ∧
    after (.ld hh { om with sp := 1, bypass := 0, off := 1 }) s (fun t => t.core.flight.map (fun f => (f.val, f.due)) == [(.scalar 7, some (s.now + 4))]) = true ∧
    (ms 128).core.linesFull 132 4 = false ∧ after (.ld hh { om with sp := 1, bypass := 0, off := 1 }) (ms 128) (fun t => t.core.a.pc == 8 && t.core.flight.all (fun f => f.acc.isSome && f.due.isNone) && t.core.flight.length == 1) = true := by decide +kernel

theorem wit_LoadWords_other : let s := (ms 0x00270000).modX 2048 fun x => { x with insts := [(kk, placedInst)] }
    startsB (.ld hh { om with sp := 3, bypass := 0, off := 0 }) .A hh 0 s = true ∧ regRead (startWord .A s) (some 0) 0x00270000 = some 48 ∧
    startsB (.ld hh { om with sp := 2, base := 4, bypass := 0 }) .A hh 0 (ms 0x10000) = true ∧ (ms 0x10000).ftc = [] ∧
    after (.ld hh { om with sp := 2, base := 4, bypass := 0 }) (ms 0x10000) (fun t => t.outbox.map (fun m => (m.kind, m.va, m.dst, m.dvf)) == [(0, 0x10008, 9, 1)]) = true := by decide +kernel

theorem wit_StoreWords : (∀ i ∈ [Instr.st hh { om with bypass := 0 }, .stx hh { om with bypass := 0, off := 9 <<< (11 : Nat) }, .st hh { om with bypass := 0, sp := 1, base := 2, off := 0 },
      .st hh { om with bypass := 0, sp := 2, base := 4 }], startsB i .A hh 0 (ms 0x10000) = true) ∧
    startsB (.st hh { om with bypass := 0, sp := 3, off := 0 }) .A hh 0 (ms 0x00270008) = true ∧ (regWrite (startWord .A (ms 0x00270008)) (some 0) 0x00270008 9).isSome = true ∧ (ms 0x10000).core.src .A 9 1 = .ok 9 ∧
    translate (ms 0x10000) (.core 0) 0x80 0x10008 .wr false = .ok 0x100008 (lf 1 0x100000) ∧ (ms 0x10000).mem.keyOk (keyOf (ms 0x10000) 0x80) 0x100008 = true ∧
    after (.st hh { om with bypass := 0 }) (ms 0x10000) (fun t => t.mem.bytes 0x100007 6 == [0, 9, 0, 0, 0, 0]) = true ∧
    after (.st hh { om with bypass := 0, sp := 1, off := 1 }) (ms 720888) (fun t => t.core.spadRead 720888 8 == [0, 0, 0, 0, 9, 0, 0, 0]) = true := by decide +kernel

theorem wit_StoreWords_queues : let c := { ca 0x10000 with sq := [(1, [1, 2, 3, 4])] }
    let s := paged (bc c) pages
    startsB (.stq hh { om with data := 1, bypass := 0 }) .A hh 0 s = true ∧ after (.stq hh { om with data := 1, bypass := 0 }) s (fun t => t.mem.bytes 0x100008 4 == [1, 2, 3, 4] && sget [] t.core.sq 1 == []) = true ∧
    (∀ q ∈ [0, 7], immOf (0b1100000 + BitVec.ofNat 7 q) = some (q : Int) ∧ startsB (.oqst hh { rr with d := 0, b := 0, c := 0b1100000 + BitVec.ofNat 7 q }) .A hh 0 s = true ∧ oqReserved (sget [] s.core.oq q) + 4 ≤ oqCap q) ∧
    guardTrue s.core .A 0 = some true ∧ guardTrue s.core .A 1 = some false := by decide +kernel

theorem wit_AtomicWords : let o : FR := { rr with d := 8, a := 2, b := 9, c := 0b1100000, m := 0 }
    (∀ op ∈ [0, 1, 2, 3, 4, 5], startsB (.amo hh { o with c := 0b1100000 + BitVec.ofNat 7 op }) .A hh 0 (ms 0x10008) = true ∧ immOf (0b1100000 + BitVec.ofNat 7 op) = some (op : Int)) ∧
    startsB (.amo hh { o with c := 0b1100110, t := 8 }) .A hh 0 (ms 0x10008) = true ∧ startsB (.amoswp hh { o with c := 0 }) .A hh 0 (ms 0x10008) = true ∧ startsB (.amocas hh { o with c := 10 }) .A hh 0 (ms 0x10008) = true ∧
    startsB (.amo hh { o with m := 1 }) .A hh 0 (ms 4) = true ∧ (ms 4).core.linesFull 4 4 = true ∧ spadErr (ms 4) 0 4 4 = false ∧ remotePage (ms 0x10008) 0x10008 = none ∧
    translate (ms 0x10008) (.core 0) 0x80 0x10008 .wr false = .ok 0x100008 (lf 1 0x100000) ∧ readFrom (ms 0x10008) (.core 0) 0x80 .wr false 2 0x10008 4 = .ok [0x11, 0, 0, 0] ∧
    after (.amo hh o) (ms 0x10008) (fun t => t.mem.byte 0x100008 == 0x1A && t.core.flight.map (·.val) == [.scalar 0x11]) = true ∧
    after (.amo hh { o with m := 1 }) (ms 4) (fun t => t.core.spadRead 4 1 == [0x4D]) = true := by decide +kernel

theorem wit_OrderWords_fence : let o : FR := { rr with d := 0, a := 0, b := 0b1100000, c := 0b1100000, t := 0, m := 1 }
    let f : InFlight := { ff with stream := .A, due := some 100 }
    startsB (.fence hh o) .A hh 0 (ms 0) = true ∧ startsB (.fence hh { o with b := 0b1100001 }) .A hh 0 (ms 0) = true ∧ immOf 0b1100001 = some 1 ∧ (ms 0).core.flight = [] ∧
    startsB (.fence hh o) .A hh 0 (bc { ca 0 with flight := [f] }) = true ∧ f.stream = .A ∧ (ca 0).a.atAlign = none ∧
    after (.fence hh o) (bc { ca 0 with flight := [f] }) (fun t => t.core.a.st == .blocked) = true := by decide +kernel

theorem wit_OrderWords_lock : let o : FR := { rr with d := 9, a := 2, b := 0b1100000, c := 0, t := 0, m := 0 }
    let s := ms 0x10000
    startsB (.acq hh o) .A hh 0 s = true ∧ startsB (.acq hh { o with b := 0b1100001 }) .A hh 0 s = true ∧ startsB (.rel hh { o with b := 0, d := 0 }) .A hh 0 s = true ∧ s.core.src .A 2 2 = .ok 0x10000 ∧ s.core.lock = .none ∧
    readFrom s (.core 0) 0x80 .wr false 2 0x10000 8 = .ok [0, 0, 0, 0, 0, 0, 0, 0] ∧
    (let h := { s with mem := s.mem.store 0x100004 1 };
      after (.acq hh { o with b := 0b1100001 }) h (fun t => t.core.flight.map (·.val) == [.scalar 0]) = true ∧ after (.acq hh o) h (fun t => t.core.lock == .waiting && t.lockQ.length == 1) = true ∧
      after (.rel hh { o with b := 0, d := 0 }) h (fun t => t.mem.bytes 0x100000 8 == [0, 0, 0, 0, 0, 0, 1, 0]) = true) ∧
    after (.acq hh o) (bc { ca 0x10000 with lock := .granted 5 }) (fun t => t.core.flight.map (·.val) == [.scalar 5] && t.core.lock == .none) = true := by decide +kernel

theorem wit_OrderWords_lfe : let f : FM := { om with sp := 1, bypass := 0, off := 0 }
    (∀ n ∈ [0, 1, 2, 3], startsB (.lfe hh { f with data := 0b1100000 + n }) .A hh 0 (ms 4) = true) ∧ immOf 0b1100011 = some 3 ∧ sget false (ms 4).core.lines 0 = true ∧
    after (.lfe hh { f with data := 0b1100000 }) (ms 4) (fun t => sget false t.core.lines 0 == false) = true ∧ after (.lfe hh { f with data := 0b1100011 }) (ms 4) (fun t => t.core.a.st == .blocked) = true := by decide +kernel

/-- A bound region of one line. -/
def rg (base : W64) : Region := { base := base, lines := 1, scope := 0, kind := false, sync := 0, sdev := 0, svf := 0 }

theorem wit_RegionWords : let o : FR := { rr with a := 2, b := 8, c := 4, t := 0 }
    let s := ms 0x10000
    let t := s.modX 2048 fun x => { x with regions := [(0, rg 0x10400)] }
    startsB (.bind hh o) .A hh 0 s = true ∧ startsB (.bind hh o) .A hh 0 t = true ∧ s.core.src .A 2 2 = .ok 0x10000 ∧ s.core.src .A 8 1 = .ok 8 ∧ syncOk 0x10000 = true ∧
    after (.bind hh o) t (fun u => sfind (u.getX 2048).regions 1 == some { rg 0x10000 with lines := 8, sync := 0x10000 }) = true ∧
    after (.bind hh { o with b := 9 }) t (fun u => (u.core.a.fault.map (·.code)) == some 0x21) = true ∧ after (.bind hh o) (ms 0x10001) (fun u => (u.core.a.fault.map (·.code)) == some 0x15) = true ∧
    startsB (.unbind hh { o with d := 0, a := 1, b := 0, c := 0 }) .A hh 0 t = true ∧ startsB (.unbind hh { o with d := 0, a := 0, b := 0, c := 0 }) .A hh 0 t = true ∧ (255 : Nat) < 0x10000 ∧
    startsB (.cstage hh { o with a := 0, b := 0, c := 0 }) .A hh 0 s = true ∧ startsB (.cstage hh { o with a := 9, b := 0, c := 0, m := 1 }) .A hh 0 s = true := by decide +kernel

/-! ## Witnesses: pages, near memory, shards and copies -/

/-- The state with a frame ring HFREE whose head is the frame 0x300000. -/
def ringed (s : State) : State :=
  { s with dc := sput (sput (sput s.dc 0x2B1000 0x40006) 0x2B1004 0) 0x2B1008 1, mem := s.mem.storeList 0x40000 (leBytes 8 0x300000) }
/-- An access of core 0 to va that waits. -/
def fe (va : W64) (failed : Option Byte) : FaultEntry := { core := 0, stream := .A, op := none, fn := 0x80, va := va, write := false, failed := failed }

theorem wit_PageMoves_touch : let s := { ringed (ms 0) with benches := [(0, { Bench.reset with faults := [fe 0x20010 none] })] }
    walk s 0x80 0x20000 = .leaf 0x30010 (lf 0 0) ∧ eState (lf 0 0) = 0 ∧ eSize (lf 0 0) = 0 ∧ cachedMode s 0x80 = false ∧ ringHead s (ringPart s 0x80) 0 = some 0x300000 ∧ frameGood 0 0x300000 = true ∧
    after (.pageTouch 0x80 0x20000) s (fun t => t.pa64 0x30010 == lf 1 0x300000 && t.mem.byte 0x100008 == 0x11) = true := by decide +kernel

theorem wit_PageMoves_pmig : let s := ringed (ms 0x30000)
    let o : FR := { rr with a := 2, b := 1, c := 0b1100001, t := 0 }
    startsB (.pmig hh o) .A hh 0 s = true ∧ s.core.src .A 2 2 = .ok 0x30000 ∧ s.core.src .A 1 1 = .ok 1 ∧ walk s 0x80 0x30000 = .leaf 0x30018 (lf 2 (2 ^ 47 + 0x10000)) ∧
    translate s (.core 0) 0x80 0x30000 .wr false = .ok (2 ^ 47 + 0x10000) (lf 2 (2 ^ 47 + 0x10000)) ∧ s.moves = [] ∧
    after (.pmig hh o) s (fun t => eState (t.pa64 0x30018) == 3 && t.moves.map (fun m => (m.va, m.newFrame)) == [(0x30000, some 0x300000)]) = true ∧
    startsB (.pmig hh o) .A hh 0 (bc { ca 0 with aPend := .moves 3 0x80 [0x30000] }) = true ∧ pinnedPage s 0x80 0x30000 = false := by decide +kernel

/-- A page of the function that a shard pins is skipped: no move begins. -/
theorem wit_PageMoves_pinned : let s := { ringed (ms 0x30000) with shards := [(1024 * 128, { Shard.reset with pinned := [0x30000] })] }
    let o : FR := { rr with a := 2, b := 1, c := 0b1100001, t := 0 }
    pinnedPage s 0x80 0x30000 = true ∧ after (.pmig hh o) s (fun t => eState (t.pa64 0x30018) == 2 && t.moves == []) = true := by decide +kernel

/-- A move of the pool page 3 into HBM. -/
def mv : PageMove :=
  { fn := 0x80, va := 0x30000, entryPa := 0x30018, before := lf 2 (2 ^ 47 + 0x10000), target := lf 1 0x300000, oldFrame := some (BitVec.ofNat 64 (2 ^ 47 + 0x10000)), newFrame := some 0x300000, after := none }

theorem wit_PageMoves_done : let s := { ms 0 with moves := [mv], mem := (ms 0).mem.storeList 0x30018 (leBytes 8 (eMigrating mv.before).toNat), dc := sput (ms 0).dc 0x2B1028 64 }
    s.moves.find? (fun m => m.fn = 0x80 && m.va = 0x30000) = some mv ∧ s.pa64 0x30018 = eMigrating mv.before ∧ dcGet s 0x2B1028 = 64 ∧ dcGet s 0x2B102C = 0 ∧ (dcGet64 s 0x2B1020 &&& 0x1F) = 6 := by decide +kernel

theorem wit_PageMoves_decay : let s := { ms 0 with counters := [(pageKey 0x80 0x30000, 9)], now := 1024 * 1172 }
    (dcGet s 0x2B1038).toNat / 65536 = 1172 ∧ partOf s (keyFn (pageKey 0x80 0x30000)) = some 0 ∧ after (.decayPeriod 0) s (fun t => t.counters == [(pageKey 0x80 0x30000, 4)]) = true ∧
    (let r := { s with heldFrames := [(0, 0x300000)], dc := sput (sput s.dc 0x2B1028 64) 0x2B1020 0x40006 };
      (dcGet r 0x2B1028 - 1).toNat < 64 ∧ after (.rconsWrite 0 1) r (fun t => t.heldFrames == [] && dcGet t 0x2B1028 == 65 && t.pa64 0x40000 == 0x300000) = true) := by decide +kernel

/-- A cached translation of a page. -/
def te (fn : Nat) (base : W64) : TlbEntry := { fn := fn, base := base, size := 16, leaf := lf 1 0x100000 }

theorem wit_TranslationEvents : let s := { ms 0 with benches := [(0, { Bench.reset with tlb := [te 0x80 0x10000, te 1 0x10000, te 0x80 0x20000], misses := [(0x80, 0x10004)] })], dc := sput (ms 0).dc 0x2B0800 0x10000, walks := [(0, 0x80, 0x10004)] }
    walk s 0x80 0x10004 = .leaf 0x30008 (lf 1 0x100000) ∧ after (.tlbiFunction 0x80) s (fun t => (t.getB 0).tlb == [te 1 0x10000]) = true ∧
    after (.tlbiPage 0x80) s (fun t => (t.getB 0).tlb == [te 1 0x10000, te 0x80 0x20000]) = true ∧ after .tlbiAll s (fun t => (t.getB 0).tlb == []) = true ∧
    after (.walkReturn 0) s (fun t => (t.getB 0).misses == [] && (t.getB 0).tlb.any (fun e => e.base == 0x10000 && e.fn == 0x80)) = true := by decide +kernel

theorem wit_TranslationEvents_replay : let c := { ca 0 with a := { live with st := .blocked } }
    let s (f : FaultEntry) : State := { paged (bc c) pages with benches := [(0, { Bench.reset with faults := [f] })] }
    pageWaits (s (fe 0x10000 none)) 0x80 0x10000 = false ∧ pageWaits (s (fe 0x20000 none)) 0x80 0x20000 = true ∧ ((s (fe 0x20000 (some 0x10))).getC 0).a.st = .blocked ∧
    after (.replay 0) (s (fe 0x10000 none)) (fun t => (t.getB 0).faults == []) = true ∧ after (.replay 0) (s (fe 0x20000 none)) (fun t => t == s (fe 0x20000 none)) = true ∧
    after (.replay 0) (s (fe 0x20000 (some 0x10))) (fun t => (t.getC 0).a.fault == some { code := 0x10, index := 0, addr := 0x20000, tcode := 0 }) = true := by decide +kernel

/-- The state with an instance whose segment stands in the page of HBM. -/
def sg (s : State) : State := s.modX 2048 fun x => { x with insts := [(kk, { placedInst with launch := placedInst.launch.take 8 ++ leBytes 8 0x10000 ++ placedInst.launch.drop 16, frames := [0x100000] })] }

theorem wit_TranslationEvents_fetch : let e := lf 1 0x100000 + BitVec.ofNat 64 (2 ^ 56) - BitVec.ofNat 64 (2 ^ 55)
    let s := sg (paged (bc { ca 0 with s := { live with pc := 8 } }) [e])
    let r := { s with mem := s.mem.store 0x100008 0x11 }
    fetchCode r 0 8 = .ok [0x11, 0, 0, 0, 0, 0, 0, 0] ∧ waitsFault r 0 .S = false ∧ after (.fetchMissArrival 0 0) r (fun t => sfind (t.getC 0).s.cache 8 == some 0x11) = true := by decide +kernel

/-- The page 4 is COMPUTE in format int8, its rows owned by the physical function alone. -/
def ns (v : W64) : State :=
  let s := paged (bc (ca v)) [lf 1 0x100000, lf 0 0, lf 2 (2 ^ 47 + 0x10000), lf 5 0x200000 + 0x30000000000000]
  { s with dc := sput s.dc 0x2B2180 0x180 }

theorem wit_NearMemory_bdmode : let o : FR := { rr with a := 2, b := 1, c := 0, t := 0, m := 1 }
    startsB (.bdmode hh o) .A hh 0 (ns 0x40000) = true ∧ (ns 0x40000).core.src .A 2 2 = .ok 0x40000 ∧ (ns 0x40000).core.src .A 1 1 = .ok 1 ∧
    translate (ns 0x40000) (.core 0) 0x80 0x40000 .rd false = .ok 0x200000 (lf 5 0x200000 + 0x30000000000000) ∧ frameOwned (ns 0x40000) 0x80 0x200000 = true ∧ channelOf 0x200000 = 32 ∧
    after (.bdmode hh o) (ns 0x40000) (fun t => (t.getX 2048).dotSet == [32]) = true ∧ after (.bdmode hh o) (ns 0x10000) (fun t => (t.core.a.fault.map (·.code)) == some 0x21) = true ∧
    after (.bdmode hh o) (ns 0x10001) (fun t => (t.core.a.fault.map (·.code)) == some 0x15) = true ∧ startsB (.bdmode hh o) .A hh 0 (bc { ca 0 with aPend := .dots 2 [32, 33] }) = true := by decide +kernel

/-- A bank dot operation of one row of two int8 elements. -/
def bdo : Op :=
  { op0 6 .running (.bdot 0x10040) with got := leBytes 8 0x40000 ++ leBytes 8 0x10080 ++ leBytes 8 0x10100 ++ leBytes 4 1 ++ leBytes 4 2 ++ leBytes 4 2 ++ [3, 0, 0, 0] ++ List.replicate 24 0, inputs := [(32, [3, 255])] }

theorem wit_NearMemory_row : let s := (ns 0x40000).modX 2048 fun x => { x with ops := [(0, bdo)], dotSet := [32], opva := 0x10800 }
    let s := { s with mem := s.mem.storeList 0x200000 [5, 7] }
    s.getO 2048 0 = some bdo ∧ servesOrDrains s 2048 = true ∧ nextRow s 0x80 (bdescOf bdo.got) bdo 32 = some 0 ∧ droopUsed s 0 < (dcGet s 0x2B2000).toNat ∧ opEntry s 0 2048 0 = none ∧ s.lockQ = [] ∧ dcGet s (0x002B1038 + 0x40 * ringPart s 0x80) &&& 0xFF = 0 ∧ (s.getB 0).tlb = [] ∧
    residuesHold s (bdescOf bdo.got) ((paOf s 0x80 0x40000).getD 0) [5, 7] [3, 255] = true ∧ readVa s (.bench 0) 0x80 0x40000 2 = .ok [5, 7] ∧ inDot s 32 = true ∧ bankDot (bdescOf bdo.got) [5, 7] [3, 255] = 8 ∧
    after (.bankDotRow 2048 0 32) s (fun t => t.mem.bytes 0x100100 4 == [8, 0, 0, 0] && (t.getO 2048 0).any (fun p => p.entry == 1 && p.st == .running)) = true := by decide +kernel

theorem wit_NearMemory_rest : let s := { ns 0 with droop := [(0, (0, 3))], now := 39, chanChange := [(32, true, 39), (33, true, 40)] }
    let r := { s with dc := sput (sput s.dc 0x2B2018 (32 * 64 + 5)) 0x2B2010 0x4000000 }
    after (.droopWindow 0) s (fun t => t.droop == []) = true ∧ after (.dotModeChangeDone 32) s (fun t => t.chanChange == [(33, true, 40)]) = true ∧
    after (.rowval 0 0x107) r (fun t => t.mem.byte (0x4000000 + 64 * 32 + 5) == 7 && t.mem.byte (0x4000000 + 64 * 32 + 6) == 0) = true ∧
    after (.rowval 0 7) { r with dc := sput r.dc 0x2B2018 (32 * 64 + 5 + 2 ^ 26) } (fun t => t.mem.bytes (0x4000000 + 64 * 32) 64 == List.replicate 64 7) = true := by decide +kernel

theorem wit_ShardAndCopyUnits_glzq : let s := ms 0x10000
    let t := { s with dc := sput s.dc 0x2C0400 0x10000, mem := s.mem.store 0x100080 1 }
    startsB (.glzq hh { rr with b := 2, c := 0, t := 0 }) .S hh 0 s = true ∧ shardTable s 0x80 = 0 ∧ shardTable t 0x80 = 0x10000 ∧ t.devRead 0x80 (shardVa t 0x80 1) 1 = some [1] ∧
    t.devRead 0x80 (shardVa t 0x80 0) 1 = some [0] ∧ s.core.src .S 1 1 = .ok 1 ∧ s.core.src .S 2 1 = .ok 0x10000 := by decide +kernel

/-- A shard of one chunk of 64 parameters and one contribution, by the momentum rule, without a published copy. -/
def sh1 (st : ShardSt) : Shard :=
  { Shard.reset with st := st, ctx := 2048, handle := 0x100070, bitmap := [0], capture := leBytes 4 3 ++ leBytes 4 (6 + 8 * 16) ++ leBytes 8 64 ++ leBytes 8 0x10000 ++ leBytes 8 0x10200 ++ leBytes 8 0 ++ leBytes 8 0x10400 ++ List.replicate 96 0 }

theorem wit_ShardAndCopyUnits_chunk : let c := shardCfg (sh1 .gathering).capture
    let s := { ms 0 with shards := [(shardKey 0x80 0, sh1 .gathering)] }
    s.getShard 0x80 0 = sh1 .gathering ∧ c.alg = 1 ∧ c.pubet = 8 ∧ c.chunk = 64 ∧ c.chunks = 1 ∧ c.ncontrib = 1 ∧ c.grad = 0x10400 ∧ (∃ ls, readAreas s 0x80 256 [0x10000, 0x10200, 0x10400] = .inr ls) ∧
    (let r := ({ ms 0 with shards := [(shardKey 0x80 0, sh1 .applying)] } : State).modX 2048 fun x => { x with ops := [(0, op0 7 .running (.glaze 0 0))] };
      r.getO 2048 (hSlot (sh1 .applying).handle) = some (op0 7 .running (.glaze 0 0))) := by
  refine ⟨by decide +kernel, by decide +kernel, by decide +kernel, by decide +kernel, by decide +kernel, by decide +kernel, by decide +kernel, ⟨[List.replicate 256 0 |>.set 8 0x11, List.replicate 256 0, List.replicate 256 0], by decide +kernel⟩,
    by decide +kernel⟩

/-- A copy of one line of 128 bytes from the page of HBM into the second line of the scratchpad. -/
def cpo : Op :=
  { op0 1 .running (.copy 0 1 0 0 0) with
    got := [0, 0, 0, 1] ++ leBytes 8 0 ++ leBytes 2 1 ++ leBytes 2 128 ++ leBytes 8 0 ++ leBytes 4 128 ++ leBytes 4 0 ++
      (leBytes 8 0 ++ leBytes 8 0x10000 ++ leBytes 8 0 ++ leBytes 4 1 ++ leBytes 4 128 ++ leBytes 8 128 ++ [4] ++ List.replicate 23 0) }

theorem wit_ShardAndCopyUnits_line : let s := (ms 0).modX 2048 fun x => { x with ops := [(0, cpo)] }
    let e := cpo.entryOf 0
    e.1.lines e.2 = 1 ∧ e.2.sb = false ∧ e.1.dir = 0 ∧ e.1.spoff = 128 ∧ e.1.nbuf = 1 ∧ servesOrDrains s 2048 = true ∧ cpo.next ≤ s.now ∧ opEntry s 0 2048 (lineSlot 0 0) = none ∧ s.core.inst = some cpo.node ∧
    sget false s.core.lines 1 = false ∧ after (.copyLineDelivery 2048 0 0) s (fun t => (t.getC 0).spadRead 128 16 == [0, 0, 0, 0, 0, 0, 0, 0, 0x11, 0, 0, 0, 0, 0, 0, 0] && sget false (t.getC 0).lines 1) = true := by decide +kernel

/-! ## Witnesses: halts, debug, and the course of an operation -/

theorem wit_HaltAndDebug_halt : let hl : Halt := { code := 0x12, first := 3, since := 0, running := [], crossed := [], broke := true }
    let s := (bc cc).modX 2048 fun x => { x with halt := some hl }
    let r := (bc { cc with flight := [ff] }).modX 2048 fun x => { x with halt := some hl }
    ctxBusy s 2048 = false ∧ ctxBusy r 2048 = true ∧ r.now < 2400 ∧ after (.haltFinish 2048) s (fun t => (t.getX 2048).st == .halted && (t.getX 2048).haltCode == 0x12 && (t.getX 2048).haltFirst == 3) = true ∧
    after (.haltFinish 2048) r (fun t => t == r) = true ∧ after (.haltFinish 2048) { r with now := 2400 } (fun t => (t.getX 2048).st == .halted) = true := by decide +kernel

theorem wit_HaltAndDebug_debug : let c := { cc with dbg := { Debug.reset with hold := true } }
    let d := { cc with dbg := { Debug.reset with hold := true, held := true } }
    after (.debugHold 0) (bc c) (fun t => (t.getC 0).dbg.held && (t.getC 0).s.st == .frozen && (t.getC 0).s.pc == 0) = true ∧ after (.debugStep 0) (bc d) (fun t => (t.getC 0).dbg.stepBusy) = true ∧
    after (.debugStepA 0) (bc d) (fun t => (t.getC 0).dbg.stepABusy) = true ∧
    (let s (st : OpSt) : State := { so 0 [(0, op0 1 st (.copy 0 1 0 0 0))] with opdbgCtx := 2048 };
      ((s .held).getX 2048).op? 0x100010 = some (op0 1 .held (.copy 0 1 0 0 0)) ∧ after (.opdbgrel 0x100010) (s .held) (fun t => t.opdbgResult == 1 && (t.getO 2048 0).any (fun p => p.st == .queued)) = true ∧
      after (.opdbgrel 0x100010) (s .queued) (fun t => t.opdbgResult == 2) = true ∧ after (.opdbgrel 0x200010) (s .held) (fun t => t.opdbgResult == 3) = true) := by decide +kernel

theorem wit_OperationEvents_predecessor : let w : Op := { op0 1 .waiting (.copy 0 1 0 0 0) with handle := 0x100110, after := some 0x100010 }
    let s (st : OpSt) : State := so 0 [(0, op0 1 st (.copy 0 1 0 0 0)), (1, w)]
    ((s .complete).getX 2048).op? 0x100010 = some (op0 1 .complete (.copy 0 1 0 0 0)) ∧ (s .complete).getO 2048 1 = some w ∧
    after (.predecessorFinished 2048 1) (s .complete) (fun t => (t.getO 2048 1).any (fun p => p.st == .queued)) = true ∧ after (.predecessorFinished 2048 1) (s .running) (fun t => t == s .running) = true ∧
    after (.predecessorFinished 2048 1) (s .failed) (fun t => (t.getO 2048 1).any (fun p => p.st == .cancelled && p.code == 0x31 && p.addr == 0x100010)) = true := by decide +kernel

theorem wit_OperationEvents_start : let o := op0 1 .queued (.copy 0 1 0 0 0)
    let l := op0 5 .queued (.launch 0 0)
    let w := op0 4 .queued (.wlease 3)
    classHead (so 0 [(0, o)]) (1, 0) = some (2048, 0, o) ∧ freeCopyEngine (so 0 [(0, o)]) 0 = some 0 ∧ after (.operationStart 2048 0) (so 0 [(0, o)]) (fun t => (t.getO 2048 0).any (fun p => p.st == .running && p.engine == 0x1000)) = true ∧
    classHead (so 0 [(0, l)]) (5, 0) = some (2048, 0, l) ∧ ((so 0 [(0, l)]).getX 2048).departs = false ∧ after (.operationStart 2048 0) (so 0 [(0, l)]) (fun t => (t.getO 2048 0).any (fun p => p.st == .running) && t.opCount == 1) = true ∧
    serves (so 0 [(0, w)]) 2048 = true ∧ (so 0 [(0, w)]).claimOf 0 = none ∧ after (.operationStart 2048 0) (so 0 [(0, w)]) (fun t => (t.claimOf 0).any (fun c => c.prio == 3 && c.op == 0x100040)) = true := by decide +kernel

theorem wit_OperationEvents_end : let o := { op0 1 .running (.copy 0 1 0 0 0) with entry := 1 }
    let w := op0 1 .queued (.copy 0 1 0 0 0)
    servesOrDrains (so 0 [(0, o)]) 2048 = true ∧ after (.operationComplete 2048 0) (so 0 [(0, o)]) (fun t => (t.getO 2048 0).any (fun p => p.st == .complete && p.code == 0)) = true ∧
    after (.operationFailure 2048 0 { code := 0x40, index := 7, addr := 9 }) (so 0 [(0, o)]) (fun t => (t.getO 2048 0).any (fun p => p.st == .failed && p.code == 0x40 && p.index == 7 && p.addr == 9)) = true ∧
    w.waits = true ∧ after (.priorityAging (.op 2048 0)) { so 0 [(0, w)] with now := 1200000 } (fun t => (t.getO 2048 0).any (fun p => p.aged == 1 && p.since == 1200000)) = true ∧
    after (.priorityAging (.op 2048 0)) { so 0 [(0, w)] with now := 1199999 } (fun t => (t.getO 2048 0).any (fun p => p.aged == 0)) = true := by decide +kernel

/-! ## Witnesses: weight arrays -/

/-- The tag of a context. -/
def tg (x : Nat) : Tag := { ctx := x, id := 1, ver := 1 }
/-- Bench 0 with a claim of core 0, int8 cells W[0][0] = 3 and W[255][255] = 2, a tag, an accumulator, and the commands of core 0. -/
def ab (x : Nat) (l : List ArrCmd) : Bench :=
  { Bench.reset with st := .loaded, tag := some (tg x), cells := [(0, 3), (65535, 2)], acc := [(0, 9), (256, 4)], claims := [cl 0], cmds := [(0, l)] }
/-- The run of core 0. -/
def rn : Run := { k := 0, start := 0, cmds := 0, pending := false, reload := none, ext := false }

theorem wit_ArrayEvents_run : let s (x : Nat) : State := { so 0 [] with benches := [(0, ab x [.wclr 0])] }
    runFree (s 2048) 0 = true ∧ nextHolder (s 2048) 0 = some (cl 0) ∧ leasePending (s 2048) (cl 0) = false ∧
    after (.arrayRunStart 0) (s 2048) (fun t => ((t.getB 0).run.any fun r => r.k == 0 && r.cmds == 0) && (t.getB 0).cells == [(0, 3), (65535, 2)]) = true ∧
    after (.arrayRunStart 0) (s 2049) (fun t => (t.getB 0).cells == [] && (t.getB 0).tag == none && (t.getB 0).acc == [(0, 9), (256, 4)]) = true := by decide +kernel

theorem wit_ArrayEvents_limit : let r := { rn with cmds := 64 }
    let b : Bench := { ab 2048 [.wclr 0] with run := some r, claims := [cl 0, cl 1] }
    let alone : State := { so 0 [] with benches := [(0, b)] }
    let other : State := { so 0 [] with benches := [(0, { b with cmds := [(0, [.wclr 0]), (1, [.wclr 0])] })] }
    let busy : State := { so 0 [] with benches := [(0, { b with cmds := [(0, [.wclr 0]), (1, [.wclr 0])], st := .accumulating })] }
    mayPass alone 0 = false ∧ mayPass other 0 = true ∧ mayPass busy 0 = false ∧ atLimit alone r = true ∧ pairWants alone 0 (cl 1) = false ∧ pairWants busy 0 (cl 1) = true ∧
    after (.arrayRunLimit 0) other (fun t => (t.getB 0).run == none && (t.getB 0).lastHolder == some 0) = true ∧ after (.arrayRunLimit 0) alone (fun t => (t.getB 0).run == some rn) = true ∧
    after (.arrayRunLimit 0) busy (fun t => (t.getB 0).run == some { r with ext := true } && (t.getB 0).overs == 1) = true := by decide +kernel

/-- What a `wdot` of core 0 captured: input tile 0, output tiles 4 to 7, one row of int8. -/
def ma : MatArgs :=
  { ta := 0, tout := 4, batch := 1, rm := ~~~0, cm := ~~~0, rmode := 0, slot := 0, acc := 0, et := 0, ot := 0, plane := false, gens := [], core := 0, blk := [false], arrived := none, part := none }

theorem wit_ArrayEvents_wclr : let s : State := { so 0 [] with now := 2, benches := [(0, { ab 2048 [.wclr 0] with run := some rn })] }
    waitingCmds s 0 0 = [.wclr 0] ∧ (s.getB 0).occupied s.now = false ∧ drainOf s 0 = none ∧ (List.range 4).foldl (fun s k => looseCmd s 0 k) s = s ∧
    after (.arrayCommandStart 0) s (fun t => (t.getB 0).acc == [] && (t.getB 0).cells == [(0, 3), (65535, 2)]) = true := by decide +kernel

/-- A row 1, 2, 3, 4 by int8 cells 3 and 2 in the first and the last corner. -/
theorem wit_ArrayEvents_dot : let o := op0 0 .queued (.dot false ma)
    let s : State := { so 0 [(0, o)] with now := 2, cores := [(0, { cw 0 2 with tiles := [(0, { tf with elems := [(0, 5), (255, 7)] })] })], benches := [(0, { ab 2048 [.op 2048 0] with run := some rn })] }
    waitingCmds s 0 0 = [.op 2048 0] ∧ s.getO 2048 0 = some o ∧ servesOrDrains s 2048 = true ∧ (s.getB 0).tag.isSome = true ∧ weightFits 0 0 = true ∧ (s.getB 0).occupied s.now = false ∧ drainOf s 0 = none ∧
    (List.range 4).foldl (fun s k => looseCmd s 0 k) s = s := by decide +kernel

theorem wit_ArrayEvents_complete : let part := [(0, (List.replicate 256 (0 : W32)).set 255 9)]
    let o := op0 0 .running (.dot false { ma with part := some part })
    let a : Active := { cmd := .op 2048 0, k := 0, due := some 0, row := 0, record := [] }
    let s : State := { so 0 [(0, o)] with cores := [(0, cw 0 2)], benches := [(0, { ab 2048 [] with run := some rn, active := [a] })] }
    (s.getB 0).active.find? (cmdDue s) = some a ∧ actKind ma.et = some .int ∧ (part.map (·.1)).Nodup ∧ (∀ e ∈ part, e.1 < ma.batch ∧ e.2.length = 256) ∧
    after (.arrayCommandComplete 0) s (fun t => ((t.getC 0).tile 7).elem { et := 2, rows := 1, cols := 64, blocked := false } 0 63 == 9 && (t.getB 0).active == [] && (t.getO 2048 0).any (fun p => p.st == .complete)) = true := by
  decide +kernel

theorem wit_ArrayEvents_drain : let o := op0 0 .running (.wdrainMem 0x10000)
    let a : Active := { cmd := .op 2048 0, k := 0, due := none, row := 1, record := [] }
    let s : State := { paged (so 0 [(0, o)]) pages with benches := [(0, { ab 2048 [] with st := .draining, run := some rn, active := [a] })] }
    drainOf s 0 = some (a, 2048, 0, o) ∧ (s.getB 0).freeAt ≤ s.now ∧ opEntry s 0 2048 0 = none ∧
    (match writeVa s (.core 0) 0x80 0x10400 (((List.range 256).map fun j => sget 0 (s.getB 0).acc (256 + j)).flatMap fun (v : W32) => leBytes 4 v.toNat) with | .ok _ => true | _ => false) = true := by decide +kernel

theorem wit_ArrayEvents_rest : let p := op0 0 .queued (.pairDot false 1 0 (some { ma with arrived := some 0 }) none)
    let s : State := { so 0 [(0, p)] with now := 4096, benches := [(0, { ab 2048 [.op 2048 0] with run := some rn })] }
    let w : State := { so 0 [] with now := 1200000, benches := [(0, { ab 2048 [.wclr 0] with claims := [{ cl 0 with since := some 0 }] })] }
    waitingCmds s 0 0 = [.op 2048 0] ∧ (s.getB 0).pairWait = 0x1000 ∧ after (.pairTimeout 0) s (fun t => (t.getO 2048 0).any (fun q => q.st == .failed && q.code == 0x32)) = true ∧
    claimWants w 0 { cl 0 with since := some 0 } = true ∧ after (.priorityAging (.claim 0 0)) w (fun t => (t.getB 0).claims.any (fun c => c.aged == 1)) = true := by decide +kernel

/-! ## Witnesses: leases, queues, nodes and instances -/

/-- An operation of kind k's lease in a phase, on an engine or none. -/
def lo (st : OpSt) (k : Nat) (ph : LeasePhase) (e : Option Nat) : Op := op0 4 st (.lease k false ph e none false)
/-- The state with that lease in slot 0 and an engine. -/
def ls (o : Op) (e : Nat) (g : Engine) : State := { so 0 [(0, o)] with engines := [(e, g)] }
/-- An engine in a state, leased to slot 0. -/
def eg (st : EngSt) : Engine := { Engine.reset with st := st, lease := some (2048, 0) }

theorem wit_LeaseEvents_request : let q := lo .queued 1 .none none
    let s : State := { ls q 48 Engine.reset with now := 4 }
    after (.leaseQueueEntry 2048 0) s (fun t => (t.getO 2048 0).any (fun p => p.body == .lease 1 false .waiting none none false && p.st == .queued)) = true ∧
    (let gone : State := { s with engines := (kindEngines 5).map fun e => (e, { Engine.reset with st := .retired }), ctxs := (ls (lo .queued 5 .none none) 48 Engine.reset).ctxs };
      (∀ f ∈ kindEngines 5, (gone.getE f).st = .retired) ∧ after (.leaseQueueEntry 2048 0) gone (fun t => (t.getO 2048 0).any (fun p => p.st == .failed && p.code == 0x35)) = true) := by decide +kernel

theorem wit_LeaseEvents_grant : let w := lo .queued 1 .waiting none
    let awake := ls w 50 { Engine.reset with st := .awake }
    leaseHead awake 1 = some (2048, 0, w) ∧ grantChoice awake 1 = some (50, 0) ∧ after (.leaseGrant 1) awake (fun t => (t.getE 50).st == .leased && (t.getO 2048 0).any (fun p => p.engine == engineField 50)) = true ∧
    grantChoice (ls w 50 Engine.reset) 1 = some (48, 4800) ∧ after (.leaseGrant 1) (ls w 50 Engine.reset) (fun t => (t.getE 48).st == .waking && (t.getE 48).wake == 4800) = true ∧
    grantChoice (ls w 50 { Engine.reset with st := .drowsy }) 1 = some (50, 360) ∧
    after (.wakeDone 48) (ls (lo .running 1 .waking (some 48)) 48 (eg .waking)) (fun t => (t.getE 48).st == .leased && (t.getO 2048 0).any (fun p => p.body == .lease 1 false .held (some 48) none false)) = true ∧
    after (.wakeDone 48) (ls (lo .running 1 .held (some 49)) 48 { eg .waking with lease := none }) (fun t => (t.getE 48).st == .awake) = true := by decide +kernel

theorem wit_LeaseEvents_quantum : let s : State := { ls (lo .running 1 .held (some 48)) 48 (eg .leased) with now := 0x124F80 }
    dcGet s 0x00270008 = 0x124F80 ∧ (∀ j, j < 6 → qualifies s 48 (lo .running 1 .held (some 48)) j = false) ∧ after (.quantumEnd 48) s (fun t => (t.getE 48).quantum == 0x124F80) = true ∧
    (let w : Op := { lo .queued 1 .waiting none with prio := 7, handle := 0x100140 };
      let r : State := { so 0 [(0, lo .running 1 .held (some 48)), (1, w)] with now := 0x124F80, engines := (kindEngines 1).map fun e => (e, if e = 48 then eg .leased else { Engine.reset with st := .retired }) };
      qualifies r 48 (lo .running 1 .held (some 48)) 1 = true ∧ after (.quantumEnd 48) r (fun t => (t.getE 48).revoke == some 0x124F80 && (t.getO 2048 0).any (fun p => p.body == .lease 1 false .revoking (some 48) none false)) = true) := by
  decide +kernel

theorem wit_LeaseEvents_yield : let o := lo .running 1 .revoking (some 48)
    let s := ls o 48 (eg .leased)
    leaseHead s 1 = none ∧ (∀ j, j < 6 → qualifies s 48 o j = false) ∧ after (.engineYield 48) s (fun t => (t.getE 48).st == .awake && (t.getO 2048 0).any (fun p => p.body == .lease 1 false .waiting none none false)) = true ∧
    (let c : Op := { op0 3 .running (.engine 0x5E 0x100040 0 true) with handle := 0x100130, entry := 5 };
      let r : State := { so 0 [(0, o), (1, c)] with now := 0x1D4C0, engines := [(48, { eg .leased with revoke := some 0, cmd := some (2048, 1) })] };
      r.getO 2048 1 = some c ∧ dcGet r 0x0027000C = 0x1D4C0 ∧ after (.forcedEviction 48) r (fun t => (t.getE 48).st == .evicting && (t.getO 2048 1).any (fun p => p.st == .parked && p.entry == 5)) = true) := by decide +kernel

theorem wit_LeaseEvents_idle : let s (g : Engine) (n : Nat) : State := { ls (lo .running 1 .held (some 49)) 48 g with now := n }
    (s { Engine.reset with st := .evicting, budgetCut := true } 2400).now = 2400 ∧
    ((s { Engine.reset with st := .evicting } 2400).getE 48).since = 0 ∧
    after (.drowsyTimeout 48) (s { Engine.reset with st := .awake } 60000) (fun t => (t.getE 48).st == .drowsy && (t.getE 48).since == 60000) = true ∧
    after (.sleepTimeout 48) (s { Engine.reset with st := .drowsy } 0x124F80) (fun t => (t.getE 48).st == .asleep) = true := by decide +kernel

/-- A command of a router engine that takes the greatest of each group of four words. -/
def ec (st : OpSt) (got : List Byte) : Op := { op0 3 st (.engine 0x5E 0x100040 0x10000 false) with handle := 0x100130, got := got }

theorem wit_EngineCommands : let s : State := { so 0 [(0, lo .running 1 .held (some 48)), (1, ec .queued (List.replicate 64 0))] with engines := [(48, eg .leased)] }
    let n : State := { so 0 [(0, lo .running 1 .held (some 48)), (1, ec .complete [])] with engines := [(48, { eg .leased with cmd := some (2048, 1) })] }
    s.getO 2048 1 = some (ec .queued (List.replicate 64 0)) ∧ nextCommand s 48 = some (2048, 1, ec .queued (List.replicate 64 0)) ∧ nextCommand n 48 = none ∧
    after (.engineCommandStart 48) s (fun t => (t.getE 48).cmd == some (2048, 1) && (t.getO 2048 1).any (fun p => p.st == .running && p.engine == engineField 48)) = true ∧
    after (.engineCommandStart 48) n (fun t => t == n) = true ∧ after (.engineUnitDone 48) n (fun t => t == n) = true := by decide +kernel

/-- A queue of 16 slots in a state, its ring in the page of HBM. -/
def qu (st : QueueSt) (tail prog : W32) (nodes : Sparse Node) : Queue :=
  { Queue.reset with st := st, enable := true, tail := tail, prog := prog, base := 0x10000, nodes := nodes }
/-- The state with queue 3 of context 2048. -/
def qs (m : Queue) : State := (paged (so 0 []) pages).modX 2048 fun x => { x with queues := [(3, m)] }

theorem wit_QueueCommands_qtail : after (.qtailWrite 2048 3 16) (qs (qu .empty 0 0 [])) (fun t => (t.getQ 2048 3).tail == 16 && !(t.getQ 2048 3).badtail) = true ∧
    after (.qtailWrite 2048 3 17) (qs (qu .empty 0 0 [])) (fun t => (t.getQ 2048 3).tail == 0 && (t.getQ 2048 3).badtail) = true ∧
    after (.qtailWrite 2048 3 0) (qs (qu .suspended 0 0 [])) (fun t => (t.getQ 2048 3).badtail) = true ∧ after (.qtailWrite 2048 3 1) (qs (qu .dead 0 0 [])) (fun t => (t.getQ 2048 3).badtail) = true ∧
    after (.qtailWrite 2048 3 9) (qs { qu .switchedOut 0 0 [] with frozen := some 0 }) (fun t => (t.getQ 2048 3).shadow == some 9) = true := by decide +kernel

theorem wit_QueueCommands_rest : after (.queueSuspend 2048 3) (qs (qu .active 1 0 [])) (fun t => (t.getQ 2048 3).st == .suspended) = true ∧
    after (.queueResume 2048 3) (qs (qu .suspended 1 1 [])) (fun t => (t.getQ 2048 3).st == .empty) = true ∧ after (.queueDrain 2048 3) (qs (qu .suspended 1 0 [])) (fun t => (t.getQ 2048 3).st == .draining) = true ∧
    after (.queueEnableWrite 2048 3 true) (qs (qu .dead 5 5 [])) (fun t => (t.getQ 2048 3).st == .empty && (t.getQ 2048 3).tail == 0) = true ∧
    after (.queueEnableWrite 2048 3 false) (qs (qu .active 1 0 [])) (fun t => (t.getQ 2048 3).st == .draining && !(t.getQ 2048 3).enable) = true ∧
    after (.queueDead 2048 3) (qs (qu .draining 5 2 [])) (fun t => (t.getQ 2048 3).st == .dead && (t.getQ 2048 3).prog == 5) = true := by decide +kernel

/-- A node with its 64 bytes and status. -/
def nd (bytes : List Byte) (st : NodeSt) : Node :=
  { bytes := bytes, st := st, code := 0, foff := 0, remaining := 0, readyAt := 0, aged := 0, chosen := none, fault := none, done := false, engine := none, pieces := 0, waitsPg := none }
/-- The bytes of a node of a kind with three words at 0x20, 0x28 and 0x30. -/
def nb (kind : Byte) (a b c : Nat) : List Byte := [kind] ++ List.replicate 31 0 ++ leBytes 8 a ++ leBytes 8 b ++ leBytes 8 c ++ List.replicate 8 0

theorem wit_NodeCourse_release : let s := qs (qu .active 1 0 [])
    let n := nd (nb 1 0x10000 0x10020 16) .pending
    serves s 2048 = true ∧ (s.getQ 2048 3).visible 0 = true ∧ after (.nodeRelease 2048 3 0) s (fun t => (t.getNode 2048 3 0).any (fun p => p.bytes.length == 64 && p.st == .pending)) = true ∧
    (qu .active 1 0 [(0, n)]).releases = true ∧ n.kind = 1 ∧ after (.nodeRelease 2048 3 0) (qs (qu .active 1 0 [(0, n)])) (fun t => (t.getNode 2048 3 0).any (fun p => p.st == .ready)) = true ∧
    (let c := nd (nb 2 0x10008 0 0) .pending;
      c.kind = 2 ∧ after (.nodeRelease 2048 3 0) (let r := qs (qu .active 1 0 [(0, c)]); { r with mem := r.mem.store 0x100008 1 }) (fun t => (t.getNode 2048 3 0).any (fun p => p.chosen == some true && p.fault == some 0)) = true) := by
  decide +kernel

theorem wit_NodeCourse_finish : let n := { nd (nb 1 0x10000 0x10020 16) .running with fault := some 0 }
    let two := { n with bytes := [1, 0, 0, 0, 0, 0, 0, 0] ++ n.bytes.drop 8 }
    after (.nodeFinish 2048 3 0) (qs (qu .running 2 0 [(0, two), (1, nd (nb 1 0 0 0) .pending)])) (fun t => (t.getNode 2048 3 0).all (fun p => p.st == .complete && p.done)) = true ∧
    after (.nodeFinish 2048 3 0) (qs (qu .running 1 0 [(0, { n with fault := some 0x21 })])) (fun t => (t.getQ 2048 3).st == .suspended && (t.getQ 2048 3).nfail) = true ∧ n.cont = false ∧
    after (.priorityAging (.node 2048 3 0)) { qs (qu .active 1 0 [(0, nd (nb 1 0 0 0) .ready)]) with now := 1200000 } (fun t => (t.getNode 2048 3 0).any (fun p => p.aged == 1)) = true := by decide +kernel

theorem wit_NodeCourse_copy : let n := nd (nb 1 0x10000 0x10020 16) .ready
    let s := qs (qu .active 1 0 [(0, n)])
    mayStart s 2048 3 = true ∧ nodeEngine s (nodeEff (s.getQ 2048 3) n) = some 0 ∧ after (.copyNodeRun 2048 3 0) s (fun t => (t.getNode 2048 3 0).any (fun p => p.st == .running && p.engine == some 0)) = true ∧
    (let r := qs (qu .running 1 0 [(0, { n with st := .running, engine := some 0 })]);
      after (.copyNodeRun 2048 3 0) { r with mem := r.mem.store 0x100003 9 } (fun t => t.mem.byte 0x100023 == 9 && (t.getNode 2048 3 0).any (fun p => p.pieces == 1)) = true) ∧
    after (.copyNodeRun 2048 3 0) (qs (qu .running 1 0 [(0, { n with st := .running, pieces := 1 })])) (fun t => (t.getNode 2048 3 0).any (fun p => p.fault == some 0)) = true := by decide +kernel

theorem wit_NodeCourse_signal_wait : let g (op v : Nat) : State := qs (qu .running 1 0 [(0, nd (nb 3 0x10000 v op) .running)])
    let w (op v : Nat) : State := qs (qu .running 1 0 [(0, nd (nb 4 0x10000 v op) .running)])
    after (.signalNodeRun 2048 3 0) (g 0 7) (fun t => t.mem.byte 0x100000 == 7 && (t.getNode 2048 3 0).any (fun p => p.fault == some 0)) = true ∧
    after (.signalNodeRun 2048 3 0) { g 1 7 with mem := (g 1 7).mem.store 0x100000 2 } (fun t => t.mem.byte 0x100000 == 9) = true ∧
    after (.waitNodeSatisfied 2048 3 0) (w 0 0) (fun t => (t.getNode 2048 3 0).any (fun p => p.fault == some 0)) = true ∧ after (.waitNodeSatisfied 2048 3 0) (w 0 1) (fun t => t == w 0 1) = true ∧
    after (.waitNodeSatisfied 2048 3 0) (w 1 0) (fun t => (t.getNode 2048 3 0).any (fun p => p.fault == some 0)) = true := by decide +kernel

theorem wit_NodeCourse_append : let o (va : W64) : Op := op0 5 .running (.launch 3 va)
    let s (va : W64) (tail : W32) : State := let r := (qs { qu .active tail 0 [] with devapp := true }).modX 2048 fun x => { x with ops := [(0, o va)] }; { r with mem := r.mem.storeList 0x100400 (nb 3 0x10000 7 0) }
    appendAhead (s 0x10400 1) 2048 0 (o 0x10400) 3 = false ∧ nodeBreaks (nb 3 0x10000 7 0) 16 = none ∧ after (.launchAppend 2048 0) (s 0x10400 1) (fun t => (t.getQ 2048 3).tail == 2 && (t.getO 2048 0).any (fun p => p.st == .complete && p.index == 1)) = true ∧
    after (.launchAppend 2048 0) (s 0x10400 16) (fun t => (t.getO 2048 0).any (fun p => p.st == .failed && p.code == 0x60)) = true ∧
    after (.launchAppend 2048 0) (s 0x10401 1) (fun t => (t.getO 2048 0).any (fun p => p.st == .failed && p.code == 0x15)) = true := by decide +kernel

theorem wit_InstanceEvents_round : let adm : Inst := { placedInst with st := .admitted, cores := [], launch := placedInst.launch.take 0x10 ++ [2, 0] ++ placedInst.launch.drop 0x12 }
    let s0 := (qs (qu .active 1 0 [(0, nd (nb 0 0x10000 0 0) .ready)])).modX 2048 fun x => { x with insts := x.insts ++ [({ ctx := 2048, q := 3, seq := 0 }, adm)] }
    let s : State := { s0 with dc := sput s0.dc 0x290004 384, now := 2400 }
    let none_ : State := { qs (qu .empty 0 0 []) with now := 2400 }
    candidates none_ = [] ∧ none_.lastRound + 2400 ≤ none_.now ∧ (qs (qu .empty 0 0 [])).now ≤ (qs (qu .empty 0 0 [])).lastRound ∧ s.lastRound + 2400 ≤ s.now ∧
    (candidates s).map (fun c => (c.x, c.q, c.seq)) = [(2048, 3, 0)] ∧ chooseCores s 2 false [] = some [1, 2] ∧
    (match (let r := creditRound { s with lastRound := s.now } [0]; (sortBy (candBefore r) (candidates s)).foldl (chooseNode [0]) (r, [])) with | (t, _) => (t.getC 1).gidx == 0 && (t.getC 2).gidx == 1 && (t.getC 2).inst == some { ctx := 2048, q := 3, seq := 0 } && (t.getNode 2048 3 0).any (fun p => p.st == .running)) = true := by decide +kernel

theorem wit_InstanceEvents_node : let hd : List Byte := placedInst.header.take 0x10 ++ leBytes 4 0x90 ++ leBytes 4 0xFFFFFFFF ++ leBytes 4 0x98 ++ leBytes 4 0xFFFFFFFF ++ placedInst.header.drop 0x20
    let la : List Byte := placedInst.launch.take 0x13 ++ [1] ++ (placedInst.launch.drop 0x14).take 0x6C ++ [5] ++ placedInst.launch.drop 0x81
    let i : Inst := { placedInst with st := .admitted, header := hd, launch := la, startedCores := [] }
    let s (i : Inst) : State := (qs (qu .running 1 0 [(0, nd (nb 0 0x10000 0 0) .running)])).modX 2048 fun x => { x with insts := [({ ctx := 2048, q := 3, seq := 0 }, i)] }
    i.dLevel = none ∧ i.frames = [] ∧ after (.residencyDone 2048 3 0) (s i) (fun t => (t.getInst { ctx := 2048, q := 3, seq := 0 }).any (fun j => j.st == .resident)) = true ∧
    after (.nodeStart 2048 3 0 0) (s { i with st := .resident }) (fun t => (t.getC 0).started && (t.getC 0).s.pc == 0x90 && (t.getC 0).s.st == .aligned && (t.getC 0).v.st == .stopped && (t.getC 0).a.pc == 0x98 &&
      ((t.getC 0).reg 5).valid && !((t.getC 0).reg 6).valid && (t.getInst { ctx := 2048, q := 3, seq := 0 }).any (fun j => j.st == .running)) = true := by decide +kernel

theorem wit_InstanceEvents_end : let key : InstKey := { ctx := 2048, q := 3, seq := 0 }
    let stopped : Stream := { Stream.reset with st := .stopped }
    let c : Core := { Core.reset with inst := some key, started := true, s := stopped, v := stopped, a := stopped, x := stopped }
    let s (ops : Sparse Op) : State :=
      let r := (qs (qu .running 1 0 [(0, nd (nb 0 0x10000 0 0) .running)])).modX 2048 fun x => { x with insts := [(key, placedInst)], ops := ops };
      { r with cores := [(0, c)] }
    let o : Op := { op0 1 .running (.copy 0 1 0 0 0) with node := key }
    c.allStopped = true ∧ nodeOps (s []) key = [] ∧ (nodeOps (s [(0, o)]) key).length = 1 ∧ o.st.finished = false ∧
    after (.nodeEnd 2048 3 0) (s [(0, o)]) (fun t => (t.getInst key).any (fun j => j.st == .draining)) = true ∧
    after (.nodeEnd 2048 3 0) (s []) (fun t => (t.getInst key).isNone && (t.getC 0).inst == none && (t.getNode 2048 3 0).any (fun p => p.fault == some 0)) = true ∧
    (let f : State := (s []).modX 2048 fun x => { x with pgs := [(7, { pg4 with st := .forming })] };
      (f.getX 2048).pg? 7 = some { pg4 with st := .forming } ∧ after (.formationTimeout 2048 7) { f with now := 12000000 } (fun t => ((t.getX 2048).pg? 7).any (fun v => v.st == .dissolved)) = true ∧
      after (.formationTimeout 2048 7) { f with now := 11999999 } (fun t => ((t.getX 2048).pg? 7).any (fun v => v.st == .forming)) = true) := by decide +kernel

/-- The bytes of a segment of one word, `stop` of S, without its digest. -/
def seg0 : List Byte :=
  leBytes 4 0x4B4C0009 ++ [1, 0, 0, 0] ++ leBytes 4 0x98 ++ leBytes 4 100 ++ leBytes 4 0x90 ++ List.replicate 12 255 ++ List.replicate 112 0 ++ leBytes 8 ((encode (.stop .S hh { rest := 0 })).getD 0).toNat
/-- The state with that segment at the page of HBM, its digest in place, and a command of the scanner. -/
def sc (l : List Byte) : State :=
  let s := paged bb [lf 1 0x100000 + BitVec.ofNat 64 (2 ^ 55), lf 1 0x200000]
  { s with mem := s.mem.storeList 0x100000 l, dc := sput s.dc 0x2D0500 0x20000, scan := { fn := 0x80, va := 0x10000, busy := true, result := 9, check := 0, off := 0 } }
/-- The segment with its digest. -/
def seg1 : List Byte := seg0.take 0x40 ++ sha384 seg0 ++ seg0.drop 0x70

theorem wit_ScannerEvents_header : after (.scanAdmit 0x80) (sc (seg0.set 4 2)) (fun t => !t.scan.busy && t.scan.result == 1 && t.scan.check == 1 && t.scan.off == 4) = true ∧ headerBreaks 0x10000 (seg0.set 4 2) = some 4 ∧
    (let s := { sc seg0 with scan := { (sc seg0).scan with busy := false } };
      after (.scanAdmit 0x80) s (fun t => t == s) = true ∧ after (.withdraw 0x80) s (fun t => t == s) = true ∧ after (.withdrawAll 0x80) s (fun t => t == s) = true) ∧
    (let a : Admission := { va := 0x10000, length := 0x98, frames := [0x100000] };
      let s := { sc seg0 with admitted := [(0x80, [none, some a])] };
      after (.withdraw 0x80) s (fun t => t.scan.result == 0 && (sget [] t.admitted 0x80).getD 1 none == none) = true ∧ after (.withdraw 0x80) (sc seg0) (fun t => t.scan.result == 4) = true ∧
      after (.withdrawAll 0x80) s (fun t => t.scan.result == 0 && sget [] t.admitted 0x80 == []) = true) := by decide +kernel

theorem wit_ScannerEvents_admit : headerBreaks 0x10000 seg1 = none ∧ digestOk seg1 = true ∧ digestOk seg0 = false ∧ scanFails (segOf seg1) = none ∧
    after (.scanAdmit 0x80) (sc seg1) (fun t => t.scan.result == 0 && (sget [] t.admitted 0x80).getD 0 none == some { va := 0x10000, length := 0x98, frames := [0x100000] }) = true ∧
    after (.scanAdmit 0x80) (sc seg0) (fun t => t.scan.result == 1 && t.scan.check == 1 && t.scan.off == 0x40) = true := by decide +kernel

/-! ## Witnesses: contexts and migration -/

/-- The state with a command of the command block for context 2048 in a state. -/
def cs (cmd : Byte) (st : CtxSt) : State :=
  ({ so 0 [] with cmd := { carg := 0x8000000000010000, carg2 := 0, busy := true, result := 9, ctx := 2048, cmd := cmd } } : State).modX 2048 fun x => { x with st := st }

theorem wit_ContextEvents_commands : Asked (cs 2 .running) 2 2048 ∧ ((cs 2 .running).getX 2048).halt = none ∧ after (.switchOut 2048) (cs 2 .running) (fun t => (t.getX 2048).st == .switchingOut && (t.getX 2048).switchStart == some 0) = true ∧
    after (.switchOut 2048) (cs 2 .halted) (fun t => !t.cmd.busy && t.cmd.result == 1 && (t.getX 2048).st == .halted) = true ∧
    after (.switchIn 2048) (cs 3 .running) (fun t => t.cmd.result == 1) = true ∧ (rebindAll ((cs 3 .switchedOut).modX 2048 fun x => { x with insts := [] }) 2048).isSome = true ∧
    after (.switchIn 2048) ((cs 3 .switchedOut).modX 2048 fun x => { x with insts := [] }) (fun t => t.cmd.result == 0 && (t.getX 2048).st == .created) = true ∧
    after (.ctxRecover 2048) (cs 4 .running) (fun t => t.cmd.result == 1) = true ∧ after (.ctxRecover 2048) (cs 4 .halted) (fun t => t.cmd.result == 0) = true ∧
    after (.ctxDestroy 2048) (cs 5 .free) (fun t => t.cmd.result == 1) = true ∧ ((cs 5 .running).getX 2048).st = .running ∧
    ((cs 5 .destroying).getX 2048).ops = [] ∧ ((cs 5 .destroying).benches.all fun b => b.2.active.isEmpty) = true ∧ (cs 5 .destroying).cmd.ctx = 2048 := by
  refine ⟨⟨by decide +kernel, by decide +kernel, by decide +kernel⟩, ?_, ?_, ?_, ?_, ?_, ?_, ?_, ?_, ?_, ?_, ?_⟩
  · decide +kernel
  · decide +kernel
  · decide +kernel
  · decide +kernel
  · decide +kernel
  · decide +kernel
  · decide +kernel
  · decide +kernel
  · decide +kernel
  · decide +kernel
  · decide +kernel

/-- A context record of the physical function, for its context 3. -/
def ctxRec : List Byte :=
  leBytes 4 0x4B4C0043 ++ [1, 0, 0, 0, 3, 0x80, 0, 0] ++ leBytes 4 0 ++ leBytes 8 0x100000 ++ leBytes 8 0x104000 ++ leBytes 8 0x120000 ++ leBytes 8 0x108000 ++ leBytes 8 0x180000 ++ leBytes 8 0x110000 ++ leBytes 4 6 ++
    List.replicate 444 0

theorem wit_ContextEvents_create : let s : State := { paged bb pages with cmd := { carg := 0x8000000000010000, carg2 := 0, busy := true, result := 9, ctx := 0, cmd := 1 } }
    let r : State := { s with mem := s.mem.storeList 0x100000 (ctxRec.take 68) }
    (s.cmd.carg.extractLsb' 56 8).toNat = 0x80 ∧ ctxRec.length = 512 ∧ ctxRecordOk 0x80 ctxRec = true ∧ fnEnabled s 0x80 = true ∧ entombed s 0x80 = false ∧ ctxId 0x80 3 = 2051 ∧
    after .ctxCreate r (fun t => t.cmd.result == 0 && t.cmd.ctx == 2051 && (t.getX 2051).st == .created && (t.getX 2051).opva == 0x120000) = true ∧
    after .ctxCreate { s with mem := s.mem.storeList 0x100000 ((ctxRec.take 68).set 4 2) } (fun t => t.cmd.result == 2 && (t.getX 2051).st == .free) = true ∧
    after .ctxCreate (r.modX 2051 fun x => { x with st := .halted }) (fun t => t.cmd.result == 3) = true ∧
    after .ctxCreate { r with cmd := { r.cmd with carg := 0x8100000000010000 } } (fun t => t.cmd.result == 2) = true := by decide +kernel

theorem wit_ContextEvents_depart : let s (now : Nat) (c : Core) : State := ({ bc c with now := now } : State).modX 2048 fun x => { x with st := .switchingOut, switchStart := some 0, preemptWait := 60000, deadline := 240000 }
    ((s 235904 cc).getX 2048).departs = true ∧ coresOn (s 0 cc) 2048 = true ∧ after (.preemptWaitExpiry 2048 0) (s 235904 cc) (fun t => (t.getC 0).away && (t.getC 0).s.st == .frozen && (t.getC 0).s.pc == 0) = true ∧
    after (.preemptWaitExpiry 2048 0) (s 59999 cc) (fun t => !(t.getC 0).away) = true ∧
    (let o : Op := op0 2 .running (.engine 0x58 0x100040 0 false);
      let r := (s 240000 { cc with away := true }).modX 2048 fun x => { x with ops := [(0, o)] };
      coresOn r 2048 = false ∧ pastDeadline r 2048 = true ∧ after (.deadlineExpiry 2048) r (fun t => (t.getO 2048 0).any (fun p => p.code == 0x31)) = true) ∧
    (let r : State := (paged { s 0 cc with cores := [] } [lf 1 0x100000, lf 1 0x110000, lf 1 0x120000, lf 1 0x130000]).modX 2048 fun x => { x with recVa := 0x10000, regva := 0x12000, opva := 0x20000, barva := 0x18000 };
      (r.getX 2048).halt = none ∧ (departStep r 2048).2 = true ∧ (departStep (s 0 cc) 2048).2 = false) := by decide +kernel

theorem wit_MigrationEvents_ask : let s : State := { cs 6 .running with cmd := { (cs 6 .running).cmd with carg := 0x50009 } }
    Asked s 6 2048 ∧ (s.getX 2048).migr = none ∧ (∀ e ∈ fnCtxs s 0x80, mayLeave e.2 = true) ∧
    after (.migrateOut 2048) s (fun t => t.cmd.busy && t.outbox.map (fun m => (m.kind, m.dst, m.dvf, m.payload.headD 1)) == [(12, 9, 5, 0)] && (t.getX 2048).migr == some (9, 5)) = true ∧
    after (.migrateOut 2048) (cs 6 .halted) (fun t => t.cmd.result == 1 && t.outbox == []) = true ∧
    (let r : State := (s.modX 2048 fun x => { x with migr := some (9, 5) });
      after (.migrationTargetTimeout 0x80) { r with now := 12000000 } (fun t => t.cmd.result == 6 && (t.getX 2048).migr == none) = true ∧
      after (.migrationTargetTimeout 0x80) { r with now := 11999999 } (fun t => t.cmd.busy) = true) := by
  refine ⟨⟨by decide +kernel, by decide +kernel, by decide +kernel⟩, ?_⟩; decide +kernel

theorem wit_MigrationEvents_in : let s : State := { paged bb pages with cmd := { carg := 0x80050009, carg2 := 0x10000, busy := true, result := 9, ctx := 2051, cmd := 7 } }
    let r : State := { s with mem := s.mem.storeList 0x100000 (ctxRec.take 68) }
    (s.cmd.carg.extractLsb' 24 8).toNat = 0x80 ∧ (s.getX 2051).st = .free ∧ after (.migrateIn 2051) r (fun t => t.cmd.result == 0 && (t.getX 2051).st == .migratingIn && (t.getX 2051).migr == some (9, 5)) = true ∧
    after (.migrateIn 2051) s (fun t => t.cmd.result == 2) = true ∧ after (.migrateIn 2051) (r.modX 2051 fun x => { x with st := .created }) (fun t => t.cmd.result == 1) = true := by decide +kernel

theorem wit_MigrationEvents_pages : let s : State := (ringed (ms 0)).modX 2048 fun x => { x with st := .migratingOut, moved := true, migr := some (9, 5) }
    let tok : OwnerToken := { state := 1, cfmt := 0, dotmode := false, bytes := [] }
    let rem : State := ringed (paged bb [remoteEntry (lf 1 0x100000) 9 5])
    ((leaving s 0x80).find? fun e => e.2.moved && e.2.halt.isNone).isSome = true ∧ walk s 0x80 0x10000 = .leaf 0x30008 (lf 1 0x100000) ∧ walk rem 0x80 0x10000 = .leaf 0x30008 (remoteEntry (lf 1 0x100000) 9 5) ∧
    leaving (ms 0) 0x80 = [] ∧ after (.pageHandover 0x80 0x10000) (ms 0) (fun t => t == ms 0) = true ∧ eState (remoteEntry (lf 1 0x100000) 9 5) = 4 ∧ eSize (remoteEntry (lf 1 0x100000) 9 5) = 0 ∧
    after (.migrationAbort 0x80) s (fun t => (t.getX 2048).halt.any (fun h => h.code == 0x70)) = true ∧
    after (.ownerTokenArrival 0x80 0x10000 { tok with state := 0 }) rem (fun t => t.pa64 0x30008 == eSet (remoteEntry (lf 1 0x100000) 9 5) 0 0) = true ∧
    after (.tombstoneLapse 5) { bb with tombstones := [(5, 9, 1, 0)], now := 12000000000 } (fun t => t.tombstones == []) = true ∧ dcGet bb 0x002A0018 = 10000 := by decide +kernel

theorem wit_MigrationEvents_transfer : let m (l : List Byte) : Msg := { am with kind := 12, svf := 5, payload := l }
    let s : State := bb.modX 2048 fun x => { x with st := .migratingIn, migr := some (9, 5) }
    readyFor s (m [0, 1, 0]) = true ∧ readyFor bb (m [0, 1, 0]) = false ∧ after (.msgContextTransfer (m [0, 1, 0])) s (fun t => t.outbox.map (fun a => (a.payload, a.dst, a.dvf)) == [([1], 9, 5)]) = true ∧
    after (.msgContextTransfer (m [0, 1, 0])) bb (fun t => t == bb) = true ∧ after (.msgContextTransfer (m [2, 7, 8])) s (fun t => t.xfer == [(0x80, [7, 8])]) = true ∧
    after (.msgContextTransfer (m [9])) s (fun t => (t.getX 2048).migr == none) = true := by decide +kernel

/-! ## Witnesses: links, connections and messages -/

/-- The state whose optical port 4 is p. -/
def pt (p : Port) : State := { bb with ports := [(4, p)] }
/-- An UP port with two unacknowledged flits. -/
def up : Port := { Port.reset with st := .up, width := 16, buffer := [(0, mkFlit 0 0 0xFFF (List.replicate 56 7)), (1, mkFlit 0 1 0xFFF [])], nextSeq := 2 }
/-- What training finds: the peer 40 and bad wavelengths. -/
def tr (bad : BitVec 34) (inBound : Bool) : TrainResult := { peer := 40, bad := bad, inBound := inBound }

theorem wit_LinkEvents_training : let tg : State := pt { Port.reset with st := .training }
    let re : State := pt { up with st := .retraining }
    after (.signalDetected 4) (pt Port.reset) (fun t => (t.port 4).st == .training) = true ∧ after (.signalDetected 4) (pt { Port.reset with enable := false }) (fun t => (t.port 4).st == .down) = true ∧
    peerGood 4 40 = true ∧ trainedWidth 4 (trainedBad tg 4 0) = 16 ∧ trainedWidth 4 (trainedBad tg 4 1) = 8 ∧ trainedWidth 4 (trainedBad tg 4 0xFFFF) = 0 ∧
    after (.trainingEnd 4 (tr 0 true)) tg (fun t => (t.port 4).st == .up && (t.port 4).width == 16 && (t.port 4).peer == 40) = true ∧
    after (.trainingEnd 4 (tr 1 true)) tg (fun t => (t.port 4).st == .degraded && (t.port 4).width == 8) = true ∧
    after (.trainingEnd 4 (tr 0xFFFF true)) tg (fun t => (t.port 4).st == .down) = true ∧
    after (.trainingEnd 4 (tr 0 true)) re (fun t => (t.port 4).buffer == up.buffer && (t.port 4).sent == up.buffer.map (·.2)) = true ∧
    trainBound 4 = 1200000 ∧ after (.trainingEnd 4 (tr 0 false)) { tg with now := 1199999 } (fun t => (t.port 4).st == .training) = true ∧
    after (.trainingEnd 4 (tr 0 false)) { tg with now := 1200000 } (fun t => (t.port 4).st == .down) = true := by decide +kernel

theorem wit_LinkEvents_replay : after (.retrainTrigger 4 true) (pt up) (fun t => (t.port 4).st == .retraining) = true ∧ after (.retrainTrigger 4 false) (pt { up with fruitless := 16 }) (fun t => (t.port 4).retrains == 1) = true ∧
    after (.retrainTrigger 4 false) (pt { up with fruitless := 15 }) (fun t => (t.port 4).st == .up) = true ∧ after (.retrain 4) (pt up) (fun t => (t.port 4).buffer == up.buffer) = true ∧
    after (.portEnableWrite 4 true) (pt { up with enable := false }) (fun t => (t.port 4).enable) = true ∧ after (.portEnableWrite 4 false) (pt up) (fun t => (t.port 4).st == .down && (t.port 4).buffer == []) = true ∧
    after (.nakReceived 4 0) (pt up) (fun t => (t.port 4).sent == [mkFlit 0 1 0xFFF []]) = true ∧ after (.replayTimeout 4) { pt up with now := 2048 } (fun t => (t.port 4).sent == up.buffer.map (·.2)) = true ∧
    after (.replayTimeout 4) { pt up with now := 2047 } (fun t => (t.port 4).sent == []) = true := by decide +kernel

theorem wit_LinkEvents_flit : let f := mkFlit 0 0 0xFFF (List.replicate 56 7)
    flitOk f = true ∧ flitType f = 0 ∧ flitSeq f = 0 ∧ flitOk 0 = false ∧ after (.flitReceived 4 f) (pt Port.reset) (fun t => (t.port 4).asm == []) = true ∧
    after (.flitReceived 4 0) (pt up) (fun t => (t.port 4).crcs == 1 && (t.port 4).sent == [mkFlit 6 2 0xFFF []]) = true ∧
    after (.flitReceived 4 f) (pt { up with expect := 1 }) (fun t => (t.port 4).expect == 1 && (t.port 4).asm == []) = true ∧
    after (.flitReceived 4 f) (pt up) (fun t => (t.port 4).expect == 1 && (t.port 4).asm == List.replicate 56 7 && (t.port 4).sent == [mkFlit 5 2 0 []]) = true := by decide +kernel

theorem wit_LinkEvents_slots : let s (now : Nat) (l : Slots) : State := { bb with now := now, slots := l }
    let z : Slots := bb.slots
    after .osyncEdge (s 5 { z with ofs := 7 }) (fun t => t.slots.next == some 12 && t.slots.synced) = true ∧
    after .slotStart (s 12 { z with next := some 12, staged := [(0, { Slot.reset with len := 3 })], commit := true }) (fun t => t.slots.slotStart == some 12 && t.slots.active == [(0, { Slot.reset with len := 3 })]) = true ∧
    (let a : Slots := { z with next := none, slotStart := some 0, activeN := 2, cur := 0 };
      a.now_.len = 12000 ∧ after .slotStart (s 11999 a) (fun t => t.slots.cur == 0) = true ∧ after .slotStart (s 12000 a) (fun t => t.slots.cur == 1 && t.slots.rot == z.rot) = true ∧
      after .slotStart (s 12000 { a with cur := 1 }) (fun t => t.slots.cur == 0 && t.slots.rot == z.rot + 1) = true) ∧
    after .slotCommit (s 0 z) (fun t => t.slots.commit) = true := by decide +kernel

theorem wit_LinkEvents_rings : let g := bb.ring 0 0
    let s (now : Nat) (r : Ring) : State := { bb with now := now, rings := [(ringKey 0 0, r)] }
    let u : Ring := { g with valid := false, settled := false, since := 3 }
    after (.ringHeatWrite 0 0 0x123) (s 9 g) (fun t => (t.ring 0 0).dac == 0x123 && !(t.ring 0 0).settled && (t.ring 0 0).since == 9) = true ∧
    after (.ringSettled 0 0 5) (s 12003 u) (fun t => (t.ring 0 0).settled) = true ∧ after (.ringSettled 0 0 5) (s 12002 u) (fun t => !(t.ring 0 0).settled) = true ∧
    after (.ringSettled 0 0 5) (s 13027 { u with settled := true }) (fun t => (t.ring 0 0).valid && (t.ring 0 0).adc == 5) = true ∧
    ((0x25 : W32).extractLsb' 4 2 : BitVec 2) = 2 ∧ g.wave ≠ 5 ∧ (bb.ring 0 5).mode = 2 ∧ (bb.ring 0 5).wave = 5 ∧
    after (.ringMapWrite 0 0 0x25) bb (fun t => (t.ring 0 0).wave == 5 && (t.ring 0 5).mode == 1) = true := by decide +kernel

/-- A connection of the physical function to device 9, and the state with it at a clock. -/
def cx (st : ConnSt) : Conn := { Conn.fresh 0x80 9 with st := st, closed := false, epoch := 3, svf := 1 }
def cxs (now : Nat) (c : Conn) : State := { bb with now := now, conns := [c] }

theorem wit_ConnectionEvents_times : let b := bb
    let o := { cx .openSt with unacked := [{ am with cseq := 4 }], sentAt := [(4, 2)] }
    (b.dev = .ready ∧ dcGet b 0x00502000 = 1200000 ∧ dcGet b 0x00502008 = 8) ∧
    after (.connopenTimeout 0x80 9) (cxs 1199999 (cx .opening)) (fun t => !(t.conn 0x80 9).closed) = true ∧ after (.connopenTimeout 0x80 9) (cxs 1200000 (cx .opening)) (fun t => (t.conn 0x80 9).closed) = true ∧
    oldestQueued (cxs 1 o) o = false ∧ (dcGet b 0x00502004).toNat ≠ 0 ∧
    ((cxs 2 o).conn 0x80 9).retries = 0 ∧ o.unacked.length = 1 ∧ sget 0 o.sentAt 4 = 2 ∧ o.retries < 8 ∧ { o with retries := 8 }.retries = 8 ∧
    after (.connidleTimeout 0x80 9) (cxs ((dcGet b 0x0050200C).toNat - 1) (cx .openSt)) (fun t => (t.conn 0x80 9).st == .openSt) = true ∧
    after (.connidleTimeout 0x80 9) (cxs (dcGet b 0x0050200C).toNat (cx .openSt)) (fun t => (t.conn 0x80 9).st == .draining) = true ∧
    ((cxs (dcGet b 0x00502010).toNat (cx .reset)).conn 0x80 9).st = .reset ∧
    after (.connectionDrained 0x80 9) (cxs 0 (cx .draining)) (fun t => (t.conn 0x80 9).closed) = true ∧
    after (.connectionDrained 0x80 9) (cxs 0 { cx .draining with unacked := [am] }) (fun t => !(t.conn 0x80 9).closed) = true := by decide +kernel

/-- The connection to peer p of the physical function, OPEN. -/
def cp (p : Nat) : Conn := { Conn.fresh 0x80 p with closed := false, epoch := 3, svf := 1, lastUsed := p }
/-- A connection whose record is spilled and that has a message to send. -/
def cwt : Conn := { Conn.fresh 0x80 5000 with st := .spilled, closed := false, waiting := [am] }
/-- Every on-die record is taken, a message waits for one, and the function has a spill area. -/
def cfull : State := { bb with conns := (List.range 1024).map cp ++ [cwt], dc := sput bb.dc (0x00502100 + 8 * fnIdx 0x80) 0x200000 }

theorem wit_ConnectionEvents_spill : wantsRecord cfull = true ∧ cfull.conn 0x80 0 = cp 0 ∧ Conn.spillable cfull (cp 0) = true ∧ ∀ d ∈ cfull.conns, Conn.spillable cfull d = true → (cp 0).lastUsed ≤ d.lastUsed := by
  have on : ((List.range 1024).map cp).filter Conn.onDie = (List.range 1024).map cp := by
    refine List.filter_eq_self.2 fun c h => ?_
    obtain ⟨p, -, rfl⟩ := List.mem_map.1 h; rfl
  refine ⟨?_, ?_, by decide +kernel, fun d _ _ => Nat.zero_le _⟩
  · have n : onDie cfull = 1024 := by simp only [onDie, cfull, List.filter_append, on, List.length_append, List.length_map, List.length_range]; rfl
    simp only [wantsRecord, n, onDieMax, Nat.le_refl, decide_true, Bool.true_and]
    exact List.any_eq_true.2 ⟨cwt, List.mem_append.2 (.inr (List.mem_singleton.2 rfl)), by decide +kernel⟩
  · have : cfull.conns = cp 0 :: (((List.range' 1 1023).map cp) ++ [cwt]) := by
      show (List.range (1023 + 1)).map cp ++ [cwt] = _
      rw [List.range_eq_range', List.range'_succ]; rfl
    simp [State.conn, this, cp, Conn.fresh]

theorem wit_ConnectionEvents_control : let m (l : List Byte) : Msg := { am with kind := 8, dvf := 0x80, epoch := 6, payload := l }
    (m []).dvf.toNat = 0x80 ∧ (m []).src.toNat = 9 ∧ (bb.recv? 9 1) = none ∧
    ((cxs 0 (cx .opening)).conn 0x80 9).epoch = 3 ∧ ((cxs 0 (cx .opening)).conn 0x80 9).st = .opening ∧ ((cxs 0 (cx .openSt)).conn 0x80 9).st = .openSt ∧
    after (.msgConnectionControl (m [2, 3])) (cxs 0 (cx .opening)) (fun t => (t.conn 0x80 9).st == .openSt) = true ∧
    after (.msgConnectionControl (m [5, 3])) (cxs 0 (cx .opening)) (fun t => (t.conn 0x80 9).closed) = true := by decide +kernel

theorem wit_FabricMessages_requests : let s := paged bb [lf 1 0x100000 + BitVec.ofNat 64 (2 ^ 57)]
    let m (va : W64) (l : List Byte) : Msg := { am with kind := 0, va := va, payload := l }
    let lk : State := { s with mem := s.mem.storeList 0x100008 (leBytes 8 (lockWord 4 2 3 4).toNat) }
    fnHasCtx s 0x80 = true ∧ tombOf s 0x80 = none ∧ tombOf { s with tombstones := [(0x80, 3, 5, 0)] } 0x80 = some (3, 5) ∧ fnHasCtx s 5 = false ∧ opEntry s fabCore fabCtx (msgKey (m 0x10008 [4, 0])) = none ∧
    field (m 0x10008 [4, 0]).payload 0 2 = 4 ∧ vaBad 0x10008 = false ∧ readFrom s .device 0x80 .rd true 2 0x10008 4 = .ok [0, 0, 0, 0] ∧ readFrom s .device 0x80 .rd true 2 0x90008 4 = .bad 0x11 0x90008 ∧
    s.lockQ = [] ∧ dcGet s (0x002B1038 + 0x40 * ringPart s 0x80) &&& 0xFF = 0 ∧ waitsBehind s (m 0x10008 [4, 0]) = false ∧ amoBytes 8 2 [0, 0, 0, 0] 7 0 = none ∧ readFrom s .device 0x80 .wr true 2 0x10008 2 = .ok [0, 0] ∧
    (match writePerm s .device 0x80 .wr true 0x10008 [5, 6] with | .ok t => t.mem.byte 0x100009 == 6 | _ => false) = true ∧
    field ((0 : Byte) :: 2 :: leBytes 8 7 ++ leBytes 8 0) 0 1 = 0 ∧ wideT (BitVec.ofNat 4 2) = 1 ∧ readFrom s .device 0x80 .wr true 2 0x10008 4 = .ok [0, 0, 0, 0] ∧
    (match writePerm s .device 0x80 .wr true 0x10008 ((amoBytes 0 2 [0, 0, 0, 0] 7 0).getD []) with | .ok t => t.mem.byte 0x100008 == 7 | _ => false) = true ∧
    readFrom s .device 0x80 .wr true 2 0x10008 8 = .ok (List.replicate 8 0) ∧ lockHeld 0 = false ∧ lockHeld (lockWord 4 2 3 4) = true ∧
    readFrom lk .device 0x80 .wr true 2 0x10008 8 = .ok (leBytes 8 (lockWord 4 2 3 4).toNat) ∧ paOf lk 0x80 0x10008 = some 0x100008 := by decide +kernel

/-- An access of A of core 0 that awaits the answer with the tag 0x200. -/
def fl : InFlight := { stream := .A, due := none, seq := 1, pc := 8, enters := true, val := .scalar 0, dest := .named 3 1, tokens := 0, fab := some 0x200, kind := .plain, acc := none, asked := none, pops := 0, loops := [] }

theorem wit_FabricMessages_replies : let s : State := bc { cc with flight := [fl] }
    let m (l : List Byte) : Msg := { am with kind := 1, aux := 0x200, payload := l }
    tagCore (m []).aux = 0 ∧ (bb.getC 0).awaits 0x200 = none ∧ (s.getC 0).awaits 0x200 = some fl ∧ field (m [3, 0, 5, 0, 4, 0]).payload 3 1 = 0 ∧ (∀ g ∈ (s.getC 0).flight, g.fab = some 0x200 → g.stream = .A ∧ fl.seq ≤ g.seq) ∧
    (∀ i ∈ [Instr.msgLoadReply (m [7, 0, 0, 0]), .msgAtomicReply (m [7, 0, 0, 0]), .msgStoreAck (m [])], after i s (fun t => (t.getC 0).flight.map (fun g => (g.seq, g.due, g.fab)) == [(1, some s.now, none)]) = true) ∧
    after (.msgLoadReply (m [7, 0, 0, 0])) s (fun t => (t.getC 0).flight.map (·.val) == [.scalar 7]) = true ∧
    after (.msgRefusal (m [0x11])) s (fun t => (t.getC 0).a.fault.any (fun f => f.code == 0x11)) = true ∧
    after (.msgRefusal (m [0])) s (fun t => (t.getC 0).a.pc == 8 && ((t.getC 0).awaits 0x200).isNone) = true := by decide +kernel

/-- A collective of table 7 in slot 0, in a state. -/
def co (st : OpSt) : Op := { op0 0 st (.engine 0x58 0x100040 0 false) with collNo := some 0, got := leBytes 4 0x4B4C0002 ++ List.replicate 60 0 ++ leBytes 4 7 ++ leBytes 4 0 }
/-- The state with it and its table. -/
def cos (st : OpSt) : State := (bb.modX 2048 fun x => { x with ops := [(0, co st)], pgs := [(7, pg4)] })
/-- A message of rank 1 to it. -/
def cm (kind : Byte) (va : W64) : Msg := { am with dst := 5, kind := kind, src := 1, svf := BitVec.ofNat 8 (vfFn 0), va := va, aux := collKey 7 0 0, payload := [] }

theorem wit_CollectiveMessages_keyed : (∀ st ∈ [OpSt.queued, .running], (collByKey (cos st) 0x80 (collKey 7 0 0)).map (fun e => (e.1, e.2.1)) = some (2048, 0) ∧ ((cos st).getO 2048 0).isSome = true) ∧
    (collOf (cos .running) 2048 (co .running)).isSome = true ∧ pg4.rankOf (cm 13 0) = some 1 ∧ (cos .running).collHeld = [] ∧ (sweepHeld { cos .running with collHeld := [cm 13 0] }).collHeld.length = 1 ∧
    ((collOf (cos .running) 2048 (co .running)).any fun c => c.info != 1) = true ∧ ((collOf (cos .running) 2048 (co .running)).any fun c => c.info != 0 && c.info != parkVa && c.info != resumeVa) = true ∧
    after (.parkNotice (cm 6 parkVa)) (cos .queued) (fun t => (t.getO 2048 0).any fun p => p.notices == [1]) = true ∧
    after (.resumeNotice (cm 6 resumeVa)) (cos .queued) (fun t => (t.getO 2048 0).any fun p => p.notices == [2 ^ 20 + 1]) = true ∧
    after (.msgCollective (cm 6 1)) (cos .running) (fun t => (t.getO 2048 0).any fun p => p.code == 0x21) = true ∧
    after (.msgAbort (cm 13 0)) (cos .running) (fun t => (t.getO 2048 0).any fun p => p.code == 0x52) = true ∧ sfind (co .queued).recv 1 = none ∧ (co .queued).st ≠ .running ∧
    ((collOf (cos .queued) 2048 (co .queued)).any fun c => match exec (.msgCollective (cm 6 c.info)) (cos .queued) with | .next t => (t.getO 2048 0).any fun p => sfind p.recv 1 == some 0 | _ => false) = true := by decide +kernel

theorem wit_CollectiveMessages_unkeyed : collByKey bb 0x80 (collKey 7 0 0) = none ∧ (∀ e ∈ bb.ctxs, e.2.st ≠ .free → e.2.fn = 0x80 → e.2.pg? ((cm 6 0).aux.extractLsb' 32 32) = none) ∧ (cm 6 0).va ≠ 1 ∧
    after (.msgCollective (cm 6 0)) bb (fun t => t.collHeld.length == 1) = true ∧ (cm 13 1).va = 1 ∧ collsOf bb 0x80 = [] ∧ collsOf (deliverShare bb 0x80 64 0 []).1 0x80 = [] ∧ (deliverShare bb 0x80 64 0 []).2 = true := by decide +kernel

/-! ## Witnesses: the device -/

/-- What a self-test finds: bad benches and engines, and a failed Glauert unit. -/
def sf (b e : List Nat) (g : Option Nat) : SelfTest := { badBench := b, badEngine := e, rowSpares := [], colSpares := [], badChan := [], gluFail := g }
/-- The state with a command of the mailbox whose data begin with two numbers. -/
def mb (d : DevSt) (a v : Nat) : State := { bb with dev := d, mbox := { busy := true, result := 9, data := ssetList 0 [] 0 (leBytes 4 a ++ leBytes 4 v) } }

theorem wit_DeviceEvents_boot : (bootStages 0 [] 0 0).2.2 = none ∧ (bootStages 0 [{ sigOk := false, version := 9, digest := 0 }] 0 0).2.2 = some 0 ∧
    after (.coldReset []) bb (fun t => t.dev == .selftest && t.ctxs == []) = true ∧ after (.coldReset [{ sigOk := false, version := 9, digest := 0 }]) bb (fun t => t.dev == .safe && t.failClass == 1 && t.failUnit == 0) = true ∧
    bb.dev = .ready ∧ after .warmReset bb (fun t => t.dev == .selftest && t.ctxs == []) = true ∧ after .warmReset { bb with dev := .frozen } (fun t => t.dev == .frozen) = true ∧
    selfTestFails (sf [] [3] none) = none ∧ selfTestFails (sf [] [] (some 2)) = some (4, 2) ∧ after (.selftestEnd (sf [] [] (some 2))) { bb with dev := .selftest } (fun t => t.dev == .safe && t.failClass == 4) = true ∧
    after (.selftestEnd (sf [] [3] none)) { State.reset with dev := .selftest } (fun t => t.dev == .ready && (t.getE 3).st == .retired) = true := by decide +kernel

theorem wit_DeviceEvents_power : (dcGet bb 0x00700008).toNat = 2400 ∧ (dcGet bb 0x00700010).toNat < 105 ∧
    (let c (now : Nat) : State := { bb with throttled := true, coolSince := some 4, now := now, budget := 40 };
      (c 0).coolSince = some 4 ∧ after (.powerControl 2299) (c 12000003) (fun t => t.throttled && t.budget == 40) = true) ∧
    after (.powerControl 2401) { bb with budget := 48 } (fun t => t.throttled) = true ∧ after (.powerControl 2401) { bb with budget := 32 } (fun t => t.budget == 32) = true ∧
    after (.temperatureLimit 104) bb (fun t => t.throttled == bb.throttled && dcGet t 0x00700010 == 104) = true ∧ after (.temperatureLimit 105) bb (fun t => t.throttled && t.dev == .ready) = true ∧
    after (.temperatureLimit 115) bb (fun t => t.dev == .frozen) = true ∧ after .freeze bb (fun t => t.dev == .frozen) = true ∧ after (.vfEnable 200) bb (fun t => t.vfs == 128) = true ∧
    after (.cxlPortFailure 1) bb (fun t => t.cxlFailed.contains 1) = true := by decide +kernel

theorem wit_DeviceEvents_mailbox : after .dcwrite (mb .safe 0 0) (fun t => !t.mbox.busy && t.mbox.result == 2) = true ∧ after .quote (mb .frozen 0 0) (fun t => t.mbox.result == 2) = true ∧
    after .scanrd (mb .ready 0 0) (fun t => t.mbox.result == 2) = true ∧ mbNum (mb .ready 0x00700008 7) 0 4 = 0x00700008 ∧ mbNum (mb .ready 0x00700008 7) 4 4 = 7 ∧
    (regRead (mb .ready 0x00700008 7) none 0x00700008).isSome = true ∧ (regRead (mb .ready 0x00F00000 7) none 0x00F00000) = none ∧ (regWrite (mb .ready 0x00700008 7) none 0x00700008 7).isSome = true ∧
    (regWrite (mb .ready 0x00F00000 7) none 0x00F00000 7) = none ∧ after .dcread (mb .ready 0x00F00000 7) (fun t => t.mbox.result == 3) = true ∧
    after .dcwrite (mb .ready 0x00700008 7) (fun t => t.mbox.result == 0) = true ∧ after .fwstage (mb .ready 5 7) (fun t => t.fwImage == some (0x5000, 7)) = true ∧
    after (.registerWrite 0x00700008 7) (mb .frozen 0 0) (fun t => t.dev == .frozen) = true := by decide +kernel

/-- Offset 0x1000 of the window of context 2048 (the physical function's first), MBCMD, and offset 0x10_0044, QTAIL of queue 2 of that context. -/
theorem wit_DeviceEvents_window : (windowOf 0xC0001000 = some (2048, 0x1000)) ∧ windowOf 0xC0040044 = some (2048, 0x00100044) ∧ (0x00700008 : W32).toNat < 2 ^ 31 ∧
    (let s : State := { mb .ready 0 0 with mbox := { (mb .ready 0 0).mbox with busy := false } };
      s.mbox.busy = false ∧ after (.registerWrite 0xC0001000 2) s (fun t => t.mbox.busy && decide (t.agenda = s.agenda ++ [Ev.dcwrite])) = true ∧
      after (.registerWrite 0xC0001000 7) s (fun t => t.mbox.result == 1 && !t.mbox.busy) = true) ∧
    (mb .ready 0 0).mbox.busy = true ∧ after (.registerWrite 0xC0001000 2) (mb .ready 0 0) (fun t => t.agenda == []) = true ∧
    hostQueueAt bb 2048 0x00100044 = some (2, 0x04) := by decide +kernel

/-! ## Decoding: each word is the header of R28, the opcode of R43 to R47 and the fields of R36, put together by hand -/

/-- A header. -/
def dh : Hdr := { idle := 0x2B3, pop := 5, push := 2 }

/-- Operands of FR. -/
def dFR : FR := { d := 0x61, a := 0x7C, b := 0x17, c := 0x32, t := 0xD, rm := 0x0, g := 0x3, m := 0x2 }

/-- Operands of FI. -/
def dFI : FI := { d := 0x61, a := 0x7C, imm := 0xF71897 }

/-- Operands of FB. -/
def dFB : FB := { p := 0x1, n := 0x1, k := 0x7, off := 0xDA624432 }

/-- Operands of FL. -/
def dFL : FL := { count := 0x61, level := 0x4, rest := 0x30F71897 }

/-- Operands of FM. -/
def dFM : FM := { data := 0x61, base := 0x7C, off := 0x31897, sz := 0x2, sp := 0x1, bypass := 0x1, ord := 0x3 }

/-- Operands of FO. -/
def dFO : FO := { d := 0x61, a := 0x7C, b := 0x17, c := 0x32, pr := 0x5, dt := 0x1, af := 0x0, g := 0xE, m := 0x1 }

/-- Operands of FT. -/
def dFT : FT := { td := 0x1, ta := 0xC, tb := 0x7, rms := 0x2, cms := 0x1, et := 0x8, s := 0x3, g := 0xE, m := 0x39 }

/-- Operands of FW. -/
def dFW : FW := { d := 0x61, ta := 0xC, tout := 0x7, rms := 0x2, cms := 0x1, pr := 0x0, dt := 0x0, acc := 0x2, et := 0x19, g := 0x4, m := 0x2F }

theorem test_decode_common_S : ∀ e ∈ ([(0xACEA000000000000, .nop .S dh { rest := 0 }), (0xACEA010000000000, .align .S dh { rest := 0 }), (0xACEA020000000000, .stop .S dh { rest := 0 }),
      (0xACEA03C330F71897, .loop .S dh dFL), (0xACEA04C330F71897, .endl .S dh dFL), (0xACEA05C3F0F71897, .brk .S dh dFI),
      (0xACEA06C3F0F71897, .ldlit .S dh dFI), (0xACEA07C3F0F71897, .pool .S dh dFI), (0xACEA0837DA624432, .br .S dh dFB)] : List (W64 × Instr)), (decode .S e.1).toOption = some e.2 := by decide +kernel

theorem test_decode_common_V : ∀ e ∈ ([(0xACEA000000000000, .nop .V dh { rest := 0 }), (0xACEA03C330F71897, .loop .V dh dFL), (0xACEA06C3F0F71897, .ldlit .V dh dFI)] : List (W64 × Instr)), (decode .V e.1).toOption = some e.2 := by decide +kernel

theorem test_decode_common_A : ∀ e ∈ ([(0xACEA000000000000, .nop .A dh { rest := 0 }), (0xACEA03C330F71897, .loop .A dh dFL), (0xACEA06C3F0F71897, .ldlit .A dh dFI)] : List (W64 × Instr)), (decode .A e.1).toOption = some e.2 := by decide +kernel

theorem test_decode_common_X : ∀ e ∈ ([(0xACEA000000000000, .nop .X dh { rest := 0 }), (0xACEA03C330F71897, .loop .X dh dFL), (0xACEA06C3F0F71897, .ldlit .X dh dFI)] : List (W64 × Instr)), (decode .X e.1).toOption = some e.2 := by decide +kernel

theorem test_decode_S0 : ∀ e ∈ ([(0xACEA10C3F0BB2D0E, .add dh dFR), (0xACEA11C3F0BB2D0E, .sub dh dFR), (0xACEA12C3F0BB2D0E, .mul dh dFR),
      (0xACEA13C3F0BB2D0E, .mulh dh dFR), (0xACEA14C3F0BB2D0E, .div dh dFR), (0xACEA15C3F0BB2D0E, .rem dh dFR),
      (0xACEA16C3F0BB2D0E, .mad dh dFR), (0xACEA17C3F0BB2D0E, .min dh dFR), (0xACEA18C3F0BB2D0E, .max dh dFR),
      (0xACEA19C3F0BB2D0E, .and dh dFR), (0xACEA1AC3F0BB2D0E, .or dh dFR), (0xACEA1BC3F0BB2D0E, .xor dh dFR),
      (0xACEA1CC3F0BB2D0E, .andn dh dFR), (0xACEA1DC3F0BB2D0E, .shl dh dFR), (0xACEA1EC3F0BB2D0E, .shr dh dFR),
      (0xACEA1FC3F0BB2D0E, .sar dh dFR), (0xACEA20C3F0BB2D0E, .rot dh dFR), (0xACEA21C3F0BB2D0E, .clz dh dFR),
      (0xACEA22C3F0BB2D0E, .ctz dh dFR), (0xACEA23C3F0BB2D0E, .popc dh dFR), (0xACEA24C3F0BB2D0E, .bfx dh dFR),
      (0xACEA25C3F0BB2D0E, .bfi dh dFR), (0xACEA26C3F0BB2D0E, .ext dh dFR), (0xACEA27C3F0BB2D0E, .sel dh dFR),
      (0xACEA28C3F0BB2D0E, .cmp dh dFR), (0xACEA29C3F0F71897, .movi dh dFI)] : List (W64 × Instr)), (decode .S e.1).toOption = some e.2 := by decide +kernel

theorem test_decode_S1 : ∀ e ∈ ([(0xACEA2AC3F0F71897, .movh dh dFI), (0xACEA2BC3F0BB2D0E, .mov dh dFR), (0xACEA2CC3F0BB2D0E, .keep dh dFR),
      (0xACEA2DC3F0BB2D0E, .pand dh dFR), (0xACEA2EC3F0BB2D0E, .por dh dFR), (0xACEA2FC3F0BB2D0E, .pxor dh dFR),
      (0xACEA30C3F0BB2D0E, .pnot dh dFR), (0xACEA31C3F0BB2D0E, .fadd dh dFR), (0xACEA32C3F0BB2D0E, .fsub dh dFR),
      (0xACEA33C3F0BB2D0E, .fmul dh dFR), (0xACEA34C3F0BB2D0E, .ffma dh dFR), (0xACEA35C3F0BB2D0E, .fdiv dh dFR),
      (0xACEA36C3F0BB2D0E, .fsqrt dh dFR), (0xACEA37C3F0BB2D0E, .fmin dh dFR), (0xACEA38C3F0BB2D0E, .fmax dh dFR),
      (0xACEA39C3F0BB2D0E, .fcmp dh dFR), (0xACEA3AC3F0BB2D0E, .fcvt dh dFR), (0xACEA3BC3F0BB2D0E, .fclass dh dFR),
      (0xACEA3C37DA624432, .call dh dFB), (0xACEA3D0000000000, .ret dh { rest := 0 }), (0xACEA3EC3F0F71897, .jmp dh dFI),
      (0xACEA3FC3F0F71897, .swt dh dFI), (0xACEA40C3F0F71897, .mvcr dh dFI), (0xACEA41C3F0F71897, .mvrc dh dFI),
      (0xACEA42C3F0BB2D0E, .clk dh dFR), (0xACEA43C3F0F71897, .trap dh dFI)] : List (W64 × Instr)), (decode .S e.1).toOption = some e.2 := by decide +kernel

theorem test_decode_S2 : ∀ e ∈ ([(0xACEA44C3F0BB2D0E, .evpost dh dFR), (0xACEA45C3F0F71897, .sysr dh dFI), (0xACEA46C3F0F71897, .sysw dh dFI),
      (0xACEA48C3F0BB2D0E, .owait dh dFR), (0xACEA49C3F0BB2D0E, .otest dh dFR), (0xACEA4AC3F0BB2B71, .ojoin dh dFO),
      (0xACEA4BC3F0BB2D0E, .ocancel dh dFR), (0xACEA4CC3F0BB2D0E, .odetach dh dFR), (0xACEA4DC3F0BB2D0E, .oadopt dh dFR),
      (0xACEA4EC3F0BB2D0E, .orelease dh dFR), (0xACEA4FC3F0BB2D0E, .oprio dh dFR), (0xACEA50C3F0BB2D0E, .ofault dh dFR),
      (0xACEA51C3F0BB2B71, .lease dh dFO), (0xACEA52C3F0BB2D0E, .unlease dh dFR), (0xACEA53C3F0BB2D0E, .lquery dh dFR),
      (0xACEA58C3F0BB2B71, .colrs dh dFO), (0xACEA59C3F0BB2B71, .colag dh dFO), (0xACEA5AC3F0BB2B71, .colar dh dFO),
      (0xACEA5BC3F0BB2B71, .cola2a dh dFO), (0xACEA5CC3F0BB2B71, .colbc dh dFO), (0xACEA5DC3F0BB2B71, .colcmb dh dFO),
      (0xACEA5EC3F0BB2B71, .rtopk dh dFO), (0xACEA5FC3F0BB2B71, .rplan dh dFO), (0xACEA60C3F0BB2B71, .sortkv dh dFO),
      (0xACEA61C3F0BB2B71, .gathr dh dFO), (0xACEA62C3F0BB2B71, .scatr dh dFO)] : List (W64 × Instr)), (decode .S e.1).toOption = some e.2 := by decide +kernel

theorem test_decode_S3 : ∀ e ∈ ([(0xACEA63C3F0BB2B71, .sfnap dh dFO), (0xACEA64C3F0BB2B71, .cdpack dh dFO), (0xACEA65C3F0BB2B71, .cdunpk dh dFO),
      (0xACEA68C3F0BB2B71, .qlaunch dh dFO), (0xACEA69C3F0BB2D0E, .qsignal dh dFR), (0xACEA6AC3F0BB2D0E, .gid dh dFR),
      (0xACEA6BC3F0BB2D0E, .grank dh dFR), (0xACEA6CC3F0BB2D0E, .gsize dh dFR), (0xACEA6DC3F0BB2D0E, .gpeer dh dFR),
      (0xACEA6EC3F0BB2D0E, .gshare dh dFR), (0xACEA6FC3F0BB2D0E, .gclaim dh dFR), (0xACEA70C3F0BB2D0E, .barinit dh dFR),
      (0xACEA71C3F0BB2D0E, .barrive dh dFR), (0xACEA72C3F0BB2D0E, .barwait dh dFR), (0xACEA73C3F0BB2D0E, .bartest dh dFR),
      (0xACEA74C3F0BB2D0E, .barleave dh dFR), (0xACEA78C3F0BB2B71, .glzs dh dFO), (0xACEA79C3F0BB2D0E, .glza dh dFR),
      (0xACEA7AC3F0BB2D0E, .glzq dh dFR)] : List (W64 × Instr)), (decode .S e.1).toOption = some e.2 := by decide +kernel

theorem test_decode_V0 : ∀ e ∈ ([(0xACEA10C3F0BB2D0E, .vadd dh dFR), (0xACEA11C3F0BB2D0E, .vsub dh dFR), (0xACEA12C3F0BB2D0E, .vmul dh dFR),
      (0xACEA13C3F0BB2D0E, .vfma dh dFR), (0xACEA14C3F0BB2D0E, .vmin dh dFR), (0xACEA15C3F0BB2D0E, .vmax dh dFR),
      (0xACEA16C3F0BB2D0E, .vabs dh dFR), (0xACEA17C3F0BB2D0E, .vneg dh dFR), (0xACEA18C3F0BB2D0E, .vdiv dh dFR),
      (0xACEA19C3F0BB2D0E, .vsqrt dh dFR), (0xACEA1AC3F0BB2D0E, .vrcp dh dFR), (0xACEA1BC3F0BB2D0E, .vrsqrt dh dFR),
      (0xACEA1CC3F0BB2D0E, .vexp2 dh dFR), (0xACEA1DC3F0BB2D0E, .vlog2 dh dFR), (0xACEA1EC3F0BB2D0E, .vand dh dFR),
      (0xACEA1FC3F0BB2D0E, .vor dh dFR), (0xACEA20C3F0BB2D0E, .vxor dh dFR), (0xACEA21C3F0BB2D0E, .vshl dh dFR),
      (0xACEA22C3F0BB2D0E, .vshr dh dFR), (0xACEA23C3F0BB2D0E, .vsar dh dFR), (0xACEA24C3F0BB2D0E, .vcmp dh dFR),
      (0xACEA25C3F0BB2D0E, .vsel dh dFR), (0xACEA26C3F0BB2D0E, .vwadd dh dFR), (0xACEA27C3F0BB2D0E, .vwmul dh dFR),
      (0xACEA28C3F0BB2D0E, .vscan dh dFR), (0xACEA29C3F0BB2D0E, .vred dh dFR)] : List (W64 × Instr)), (decode .V e.1).toOption = some e.2 := by decide +kernel

theorem test_decode_V1 : ∀ e ∈ ([(0xACEA2AC3F0BB2D0E, .vperm dh dFR), (0xACEA2BC3F0BB2D0E, .vbcast dh dFR), (0xACEA2CC3F0BB2D0E, .vrot dh dFR),
      (0xACEA2DC3F0BB2D0E, .vcomp dh dFR), (0xACEA2EC3F0BB2D0E, .vcvt dh dFR), (0xACEA2FC3F0BB2D0E, .vmxq dh dFR),
      (0xACEA30C3F0BB2D0E, .vmxd dh dFR), (0xACEA31C3F0BB2D0E, .vsatr dh dFR), (0xACEA32C3F0BB2D0E, .vseed dh dFR),
      (0xACEA33C3F0BB2D0E, .vrand dh dFR), (0xACEA34C3F0F71897, .vpop dh dFI), (0xACEA35C3F0F71897, .vpush dh dFI),
      (0xACEA361C79403E39, .vtrd dh dFT), (0xACEA371C79403E39, .vtwr dh dFT), (0xACEA38C3F0BB2D0E, .vmov dh dFR),
      (0xACEA39C3F0BB2D0E, .vext dh dFR), (0xACEA3AC3F0BB2D0E, .vins dh dFR), (0xACEA3BC3F0BB2D0E, .vpand dh dFR),
      (0xACEA3CC3F0BB2D0E, .vpor dh dFR), (0xACEA3DC3F0BB2D0E, .vpnot dh dFR), (0xACEA3EC3F0BB2D0E, .vpcnt dh dFR)] : List (W64 × Instr)), (decode .V e.1).toOption = some e.2 := by decide +kernel

theorem test_decode_A0 : ∀ e ∈ ([(0xACEA10C3F0BB2D0E, .aAdd dh dFR), (0xACEA11C3F0BB2D0E, .aSub dh dFR), (0xACEA12C3F0BB2D0E, .aShl dh dFR),
      (0xACEA13C3F0BB2D0E, .aMul dh dFR), (0xACEA14C3F0F71897, .aMovi dh dFI), (0xACEA15C3F0BB2D0E, .aMov dh dFR),
      (0xACEA16C3F0BB2D0E, .bcmp dh dFR), (0xACEA17C3F318974F, .ld dh dFM), (0xACEA18C3F318974F, .ldq dh dFM),
      (0xACEA19C3F318974F, .ldx dh dFM), (0xACEA1AC3F318974F, .st dh dFM), (0xACEA1BC3F318974F, .stq dh dFM),
      (0xACEA1CC3F318974F, .stx dh dFM), (0xACEA1DC3F318974F, .pf dh dFM), (0xACEA1EC3F0BB2D0E, .amo dh dFR),
      (0xACEA1FC3F0BB2D0E, .amoswp dh dFR), (0xACEA20C3F0BB2D0E, .amocas dh dFR), (0xACEA21C3F0BB2D0E, .fence dh dFR),
      (0xACEA22C3F0BB2D0E, .acq dh dFR), (0xACEA23C3F0BB2D0E, .rel dh dFR), (0xACEA24C3F0BB2D0E, .bind dh dFR),
      (0xACEA25C3F0BB2D0E, .unbind dh dFR), (0xACEA26C3F0BB2B71, .cpy dh dFO), (0xACEA27C3F0BB2D0E, .cstage dh dFR),
      (0xACEA28C3F318974F, .lfe dh dFM), (0xACEA29C3F0BB2D0E, .oqst dh dFR)] : List (W64 × Instr)), (decode .A e.1).toOption = some e.2 := by decide +kernel

theorem test_decode_A1 : ∀ e ∈ ([(0xACEA2AC3F0BB2B71, .bdot dh dFO), (0xACEA2BC3F0BB2D0E, .bdmode dh dFR), (0xACEA2CC3F0BB2D0E, .pmig dh dFR)] : List (W64 × Instr)), (decode .A e.1).toOption = some e.2 := by decide +kernel

theorem test_decode_X0 : ∀ e ∈ ([(0xACEA101C79403E39, .tzero dh dFT), (0xACEA111C79403E39, .tld dh dFT), (0xACEA121C79403E39, .tst dh dFT),
      (0xACEA131C79403E39, .tmov dh dFT), (0xACEA141C79403E39, .tfill dh dFT), (0xACEA151C79403E39, .tcvt dh dFT),
      (0xACEA161C79403E39, .tadd dh dFT), (0xACEA171C79403E39, .tmul dh dFT), (0xACEA181C79403E39, .tscale dh dFT),
      (0xACEA191C79403E39, .trmax dh dFT), (0xACEA1A1C79403E39, .trsum dh dFT), (0xACEA1B1C79403E39, .rmset dh dFT),
      (0xACEA1C1C79403E39, .cmset dh dFT), (0xACEA1DC3F0BB2B71, .wlease dh dFO), (0xACEA1EC3F0BB2B71, .wload dh dFO),
      (0xACEA1FC38F21652F, .wdot dh dFW), (0xACEA20C38F21652F, .wtdot dh dFW), (0xACEA21C38F21652F, .wouter dh dFW),
      (0xACEA22C3F0BB2B71, .wdrain dh dFO), (0xACEA231C79403E39, .wclr dh dFT), (0xACEA241C79403E39, .wrel dh dFT),
      (0xACEA25C3F0BB2D0E, .wpair dh dFR)] : List (W64 × Instr)), (decode .X e.1).toOption = some e.2 := by decide +kernel

/-- Opcodes that no group of a map has (R43 to R47). -/
theorem test_decode_unassigned : (∀ st ∈ [StreamId.S, .V, .A, .X], ∀ op ∈ [0x09, 0x0F, 0xFF], (decode st (op <<< (40 : Nat))).toOption = none) ∧
    (∀ op ∈ [0x47, 0x54, 0x57, 0x66, 0x67, 0x75, 0x77, 0x7B], (decode .S (op <<< (40 : Nat))).toOption = none) ∧ (decode .V 0x00003F0000000000).toOption = none ∧
    (decode .A 0x00002D0000000000).toOption = none ∧ (decode .X 0x0000260000000000).toOption = none := by decide +kernel

/-! ## Ill-formed words -/

/-- A word of stream st decodes and passes every check of a word in a segment whose scalars the stream owns. -/
def good (st : StreamId) (w : W64) : Bool := (decode st w).toOption.any fun i => (wordErr { SegInfoAll with owner := match st with | .S => 0 | .V => 0x55555555555555555555555555555555 | .A => 0xAAAAAAAAAAAAAAAAAAAAAAAAAAAAAAAA | .X => ~~~0 } i).isNone

/-- The words of the spec's examples pass every check of a word (R54). -/
theorem test_examples_S0 : [0x00A1100A0E080200, 0x000028A40F2E2200, 0x00400840FFFFFFFD, 0x0000430000000123, 0x0000511588000600, 0x0000480D00000000, 0x00004A1010340001].all (good .S) = true := by decide +kernel
theorem test_examples_S1 : [0x0000611010300001, 0x00006E1410000001, 0x00006F1800000000, 0x0000720C12000001, 0x0000710A10000000, 0x0000681010300400, 0x0000691210300000].all (good .S) = true := by decide +kernel

theorem test_examples_S2 : [0x0000441010300000, 0x0000781010280000, 0x00007A0C13000000, 0x00005D1420100000, 0x00505B1628200100, 0x0000581C28200000].all (good .S) = true := by decide +kernel

theorem test_examples_V0 : [0x00C0130C052408C8, 0x00803700005BA005, 0x01C0280A04260200].all (good .V) = true := by decide +kernel

theorem test_examples_A0 : [0x0000171210001044, 0x00001800000000A0, 0x00001B00080000A0, 0x00001E1820560200, 0x00002100030E3001, 0x0000243040A12002, 0x000028C2500001A8].all (good .A) = true := by decide +kernel

theorem test_examples_A1 : [0x0000262840900100, 0x000027FE00000000, 0x00002A2840000100, 0x00002B2A40900001, 0x00002C2A40962B01, 0x000022185B000000, 0x00001A0E18000058].all (good .A) = true := by decide +kernel

theorem test_examples_X0 : [0x0000132100800001, 0x00001E2810000000, 0x00401F280840C000].all (good .X) = true := by decide +kernel

/-- A word that fails check 4, in its modifier and, for A, in IDLE. -/
theorem test_illformed_zero : wordErr SegInfoAll (.add hh { rr with c := 0, m := 1 }) = some .nonzeroField ∧ wordErr SegInfoAll (.aAdd { hh with idle := 1 } { rr with c := 0 }) = some .nonzeroField ∧
    wordErr SegInfoAll (.nop .S hh { rest := 1 }) = some .nonzeroField := by decide +kernel
/-- Check 5: a type that the instruction does not list, the guard `never`, a constant as a destination. -/
theorem test_illformed_code : wordErr SegInfoAll (.add hh { rr with c := 0, t := 15 }) = some .badCode ∧ wordErr SegInfoAll (.add hh { rr with c := 0, g := 8 }) = some .badCode ∧
    wordErr SegInfoAll (.add hh { rr with c := 0, d := 0b1011000 }) = some .badCode := by decide +kernel
/-- Check 6: n9 beyond eight registers, and within sixteen. -/
theorem test_illformed_allocation : wordErr { SegInfoAll with named := 1 } (.add hh { rr with c := 0 }) = some .beyondAllocation ∧ wordErr { SegInfoAll with named := 2 } (.add hh { rr with c := 0 }) = none := by decide +kernel
/-- Check 7: an odd pair. -/
theorem test_illformed_wide : wordErr SegInfoAll (.add hh { rr with c := 0, t := 3 }) = some .wideGroup ∧ wordErr SegInfoAll (.add hh { rr with d := 8, a := 2, b := 4, c := 0, t := 3 }) = none := by decide +kernel
/-- Check 8: S writes n9, which the owner map gives to V. -/
theorem test_illformed_owner : wordErr { SegInfoAll with owner := 1 <<< (18 : Nat) } (.add hh { rr with c := 0 }) = some .notOwner := by decide +kernel
/-- Check 11: device control without SERVICE. -/
theorem test_illformed_service : wordErr { SegInfoAll with owner := 2 <<< (18 : Nat), service := false } (.ld hh { data := 9, base := 4, off := 0, sz := 2, sp := 3, bypass := 0, ord := 0 }) = some .notService := by decide +kernel

/-! ## Worked examples of the spec -/

/-- `movi 0x5678` followed by `movh 0x1234` (the example after R112). -/
theorem test_movi_movh : after (.movi hh { d := 9, a := 0, imm := 0x5678 }) bb (fun t => t.core.flight.map (·.val) == [.scalar 0x5678]) = true ∧
    after (.movh hh { d := 9, a := 1, imm := 0x1234 }) (bc (cn 0x5678)) (fun t => t.core.flight.map (·.val) == [.scalar 0x12345678]) = true := by decide +kernel

/-- The check value of CRC-32C (R384): the bytes 1 to 9 in ASCII. -/
theorem test_crc : crc32c [0x31, 0x32, 0x33, 0x34, 0x35, 0x36, 0x37, 0x38, 0x39] = 0xE3069283 := by decide +kernel

/-- A vector word on a vector in v1, and lane i of its result. -/
def lane (i : Instr) (l : List W32) (n : Nat) : Option W64 :=
  match exec i (bc { cc with vecs := [(1, { lanes := l, valid := true })] }) with
  | .next t => (t.core.flight.head?.bind fun f => match f.val with | .lanes v => v[n]? | _ => none)
  | _ => none

/-- 1 to 64 add up to 2,080 in lane 63 (the example after R139). -/
theorem test_vscan : let w : FR := { d := 4, a := 1, b := 0b1011000, c := 0b1100000, t := 2, rm := 0, g := 0, m := 0 }
    lane (.vscan hh w) ((List.range 64).map fun i => BitVec.ofNat 32 (i + 1)) 63 = some 2080 ∧ lane (.vscan hh w) ((List.range 64).map fun i => BitVec.ofNat 32 (i + 1)) 0 = some 1 := by decide +kernel
/-- 1,000 over 2^3 is 125 (the example after R143). -/
theorem test_vsatr : lane (.vsatr hh { d := 4, a := 1, b := 0b1100011, c := 0, t := 0, rm := 0, g := 0, m := 0 }) (List.replicate 64 1000) 7 = some 125 := by decide +kernel
/-- 2 to the one half, and the reciprocal of 3 (the examples after R84 and R86). -/
theorem test_vexp2_vrcp : let w : FR := { d := 4, a := 1, b := 0, c := 0, t := 8, rm := 0, g := 0, m := 0 }
    lane (.vexp2 hh w) (List.replicate 64 0x3F000000) 0 = some 0x3FB504F3 ∧ lane (.vrcp hh w) (List.replicate 64 0x40400000) 0 = some 0x3EAAAAAB := by decide +kernel
/-- The seeding example of R77 and the first draw of lane 0. -/
theorem test_vseed_vrand : ((seedGens 0x9E3779B8)[0]?, (seedGens 0x9E3779B8)[1]?) = (some 1, some 0xA2598ACA) ∧
    after (.vrand hh { d := 4, a := 0, b := 0, c := 0, t := 0, rm := 0, g := 0, m := 0 }) (bc { cc with vgen := seedGens 0x9E3779B8 })
      (fun t => t.core.vgen[0]? == some 0x00042021 && t.core.flight.any fun f => match f.val with | .lanes v => v[0]? == some 0x000420 | _ => false) = true := by decide +kernel

/-! ## Witnesses: what this model adds to a clause, and the completion statements (their other hypotheses are those of the theorems above) -/

/-- A load of the second page that has not passed its checks. -/
def pld : InFlight := { fl with fab := none, acc := some (.load 0 0 0x20000 4 true false) }

theorem wit_TranslationEvents_pending : let s : State := { paged (bc { ca 0 with a := { live with st := .blocked }, flight := [pld] }) pages with benches := [(0, { Bench.reset with faults := [fe 0x20000 (some 0x10)] })] }
    (s.getC 0).aFlight.find? (fun e => e.acc.isSome) = some pld ∧ (s.getC 0).aPending = true ∧
    after (.replay 0) s (fun t => (t.getB 0).faults == [] && (t.getC 0).flight.map (·.acc) == [some (.failed { code := 0x10, index := 0, addr := 0x20000, tcode := 0 })]) = true := by decide +kernel

theorem wit_ContextEvents_more : let c := cs 2 .created
    let s : State := (paged { c with cores := [] } [lf 1 0x100000, lf 1 0x110000, lf 1 0x120000, lf 1 0x130000]).modX 2048 fun x => { x with recVa := 0x10000, regva := 0x12000, opva := 0x20000, barva := 0x18000, insts := [] }
    (departStep (departBegin s 2048 .switchingOut) 2048).2 = true ∧ (s.getX 2048).halt = none ∧
    (match readImages (cs 3 .switchedOut) ((cs 3 .switchedOut).getX 2048) ((cs 3 .switchedOut).getX 2048).saved [] with | .ok _ l => l.isEmpty | _ => false) = true ∧
    actsWait (cs 5 .destroying) 2048 = false ∧ holdsRing (cs 6 .migratingOut) 0x80 0x10000 16 = false ∧ ((cs 6 .migratingOut).getX 2048).st.halts = true := by decide +kernel

theorem wit_CoreEventsComplete :
    after (.homeRequestArrival 0) (hs (ak .bartest) (br .complete 2)) (fun t => (t.getC 0).req == .replied 0x30102) = true ∧
    after (.opdbgrel 0x100010) { so 0 [(0, op0 1 .held (.copy 0 1 0 0 0))] with opdbgCtx := 2048 } (fun t => t.opdbgResult == 1 && (t.getO 2048 0).any (fun p => p.st == .queued)) = true ∧
    (op0 1 .held (.copy 0 1 0 0 0)).fate = .undecided := by decide +kernel

theorem wit_UnitEventsComplete : let w : Op := { op0 1 .waiting (.copy 0 1 0 0 0) with fate := .go }
    after (.predecessorFinished 2048 0) (so 0 [(0, w)]) (fun t => (t.getO 2048 0).any (fun p => p.st == .queued)) = true ∧
    after (.operationFailure 2048 0 { code := 0x12, index := 3, addr := 0 }) (so 0 [(0, op0 1 .running (.copy 0 1 0 0 0))]) (fun t => (t.getO 2048 0).any (fun p => p.code == 0x12)) = true := by decide +kernel

theorem wit_ContextEventsComplete : (({ bb with ctxs := [], now := 2400 } : State).lastRound + 2400 ≤ 2400 ∧ candidates { bb with ctxs := [], now := 2400 } = []) ∧
    after (.queueResume 2048 3) (qs (qu .suspended 2 1 [])) (fun t => (t.getQ 2048 3).st == .active) = true ∧
    after (.tombstoneLapse 0x80) { bb with tombstones := [(0x80, 9, 5, 0)], dc := sput bb.dc 0x2A0018 1, now := 1200000 } (fun t => t.tombstones == []) = true := by decide +kernel

theorem wit_FabricEventsComplete : let h := { sh1 .armed with bitmap := [] }
    let c := shardCfg h.capture
    let s : State := { ms 0 with shards := [(shardKey 0x80 0, h)], dc := sput (ms 0).dc 0x2C0400 0x10000 }
    let m : Msg := { am with kind := 9, va := 64, aux := shardKeyOf 0 0 0, payload := List.replicate 256 0 }
    s.getShard 0x80 0 = h ∧ shardTable s 0x80 ≠ 0 ∧ h.capture ≠ [] ∧ m.va.toNat = c.nparam ∧ m.payload.length = 4 * c.chunk ∧ (0 : W32) = h.step ∧ 0 < c.chunks ∧ 0 < c.ncontrib ∧
    (match writeVa s .device 0x80 (c.grad + BitVec.ofNat 64 0) m.payload with | .ok _ => true | _ => false) = true := by decide +kernel

theorem wit_DeviceEventsComplete : after (.vfEnable 200) { State.reset with dev := .ready } (fun t => t.vfs == 128) = true ∧ after (.cxlPortFailure 1) State.reset (fun t => t.cxlFailed == [1]) = true ∧
    after .freeze State.reset (fun t => t.dev == .frozen) = true := by decide +kernel

theorem wit_FloatAndCreatingWordsComplete :
    (∀ i ∈ [Instr.fadd hh { rr with t := 8, c := 0 }, .fsub hh { rr with t := 8, c := 0 }, .fmul hh { rr with t := 8, c := 0 }, .fmin hh { rr with t := 8, c := 0 }], startsB i .S hh 0 bb = true) ∧
    bb.core.src .S 1 1 = .ok 1 ∧ bb.core.src .S 2 1 = .ok 2 ∧ startsB (.glzs hh oo) .S hh 0 (so 0 []) = true ∧ startsB (.lease hh { oo with a := 0b1100000, b := 0 }) .S hh 0 (so 0 []) = true ∧
    (so 0 []).core.aUnpassed = false ∧ (so 0 []).core.dbg.dbgHold = false ∧ FreeSlot ((so 0 []).getX 2048) 0 1 := by
  refine ⟨by decide +kernel, by decide +kernel, by decide +kernel, by decide +kernel, by decide +kernel, by decide +kernel, by decide +kernel, .inl (by decide +kernel)⟩

end Sys2Proof.Tests
end

section
/-! The events of the device as a whole (R9, R414-R428): what each does and what it leaves, and from that the statements O53 and O59.
First the registers, then what a warm reset carries over through the teardown of contexts, memory whose keys are lost, self-test, power,
the mailbox, and one equation per event and case. -/

namespace Sys2Proof.Machine

/-! ## Plain registers read back (R9) -/

@[simp] theorem dcGet_dcPut_same (s : State) (a : Nat) (v : W32) : dcGet (dcPut s a v) a = v := by
  unfold dcGet dcPut
  dsimp only
  split_ifs with h
  · simp only [sfind_sdel, if_pos]
    exact h.symm
  · simp only [sfind_sput, if_pos]

theorem dcGet_dcPut_other (s : State) (a b : Nat) (v : W32) (h : b ≠ a) : dcGet (dcPut s a v) b = dcGet s b := by
  unfold dcGet dcPut
  dsimp only
  split_ifs
  · rw [sfind_sdel, if_neg h]
  · rw [sfind_sput, if_neg h]

theorem dcGet_congr {s t : State} (h : t.dc = s.dc) (a : Nat) : dcGet t a = dcGet s a := by
  unfold dcGet
  rw [h]

/-! ## What a warm reset carries over (R414, R417, R422, R424) -/

/-- The measurement, the running version, the quote counter, the staged image and PWRLIM are those of `s`. -/
structure KeepsRws (s t : State) : Prop where
  meas : t.meas = s.meas
  svn : t.svn = s.svn
  qcount : t.qcount = s.qcount
  fwImage : t.fwImage = s.fwImage
  pwrLim : dcGet t pwrLim = dcGet s pwrLim

/-- A step that writes no register keeps PWRLIM. -/
theorem KeepsRws.of_dc {s t : State} (hm : t.meas = s.meas) (hv : t.svn = s.svn) (hq : t.qcount = s.qcount) (hf : t.fwImage = s.fwImage)
    (hd : t.dc = s.dc) : KeepsRws s t := ⟨hm, hv, hq, hf, dcGet_congr hd _⟩

theorem KeepsRws.refl (s : State) : KeepsRws s s := ⟨rfl, rfl, rfl, rfl, rfl⟩

theorem KeepsRws.trans {s t u : State} (h : KeepsRws s t) (k : KeepsRws t u) : KeepsRws s u :=
  ⟨k.meas.trans h.meas, k.svn.trans h.svn, k.qcount.trans h.qcount, k.fwImage.trans h.fwImage, k.pwrLim.trans h.pwrLim⟩

/-- A loop of steps that each keep them keeps them. -/
theorem KeepsRws.foldl {α : Type} (f : State → α → State) (l : List α) (s : State) (hf : ∀ t a, KeepsRws t (f t a)) : KeepsRws s (l.foldl f s) :=
  List.foldlRecOn l f (.refl s) fun t ht a _ => ht.trans (hf t a)

/-! ### The state's own updates -/

theorem keepsRws_withDev (s : State) (m : Memory) (n : Nat) (r : Sparse Nat) (q : List DevPend) : KeepsRws s (s.withDev m n r q) :=
  .of_dc rfl rfl rfl rfl rfl

theorem keepsRws_outbox (s : State) (o : List Msg) : KeepsRws s { s with outbox := o } := .of_dc rfl rfl rfl rfl rfl

theorem keepsRws_modX (s : State) (x : Nat) (f : Ctx → Ctx) : KeepsRws s (s.modX x f) := .of_dc rfl rfl rfl rfl rfl

theorem keepsRws_modE (s : State) (e : Nat) (f : Engine → Engine) : KeepsRws s (s.modE e f) := .of_dc rfl rfl rfl rfl rfl

theorem keepsRws_dropFaults (s : State) (p : FaultEntry → Bool) : KeepsRws s (dropFaults s p) := .of_dc rfl rfl rfl rfl rfl

theorem keepsRws_modO (s : State) (x slot : Nat) (f : Op → Op) : KeepsRws s (s.modO x slot f) := by
  unfold State.modO
  split
  · exact keepsRws_modX ..
  · exact .refl s

/-- A counter of the device that is not PWRLIM. -/
theorem keepsRws_dcCount (s : State) (a n : Nat) (h : pwrLim ≠ a) : KeepsRws s (dcCount s a n) :=
  ⟨rfl, rfl, rfl, rfl, dcGet_dcPut_other s a pwrLim _ h⟩

/-! ### Writes of the device, images, events and messages -/

theorem keepsRws_devWrite (s : State) (fn : Nat) (va : W64) (l : List Byte) : KeepsRws s (s.devWrite fn va l) := by
  obtain ⟨m, n, r, q, h⟩ := State.devWrite_only s fn va l
  exact h ▸ keepsRws_withDev ..

theorem keepsRws_devMerge (s : State) (fn : Nat) (va : W64) (keep bits : Byte) : KeepsRws s (s.devMerge fn va keep bits) := by
  obtain ⟨m, n, r, q, h⟩ := State.devMerge_only s fn va keep bits
  exact h ▸ keepsRws_withDev ..

theorem keepsRws_imageCtx (s : State) (x : Nat) : KeepsRws s (s.imageCtx x) := by
  obtain ⟨m, n, r, q, h⟩ := State.imageCtx_only s x
  exact h ▸ keepsRws_withDev ..

theorem keepsRws_imageOp (s : State) (x slot : Nat) : KeepsRws s (s.imageOp x slot) := by
  obtain ⟨m, n, r, q, h⟩ := State.imageOp_only s x slot
  exact h ▸ keepsRws_withDev ..

theorem keepsRws_setCtxSt (s : State) (x : Nat) (st : CtxSt) : KeepsRws s (s.setCtxSt x st) :=
  (keepsRws_modX ..).trans (keepsRws_imageCtx ..)

theorem keepsRws_postEvent (s : State) (x type code src : Nat) (va1 vb1 : W64) : KeepsRws s (postEvent s x type code src va1 vb1) := by
  obtain ⟨q, h⟩ | ⟨t, l, m, n, r, q, i, h⟩ := postEvent_only s x type code src va1 vb1
  · exact h ▸ .of_dc rfl rfl rfl rfl rfl
  · exact h ▸ .of_dc rfl rfl rfl rfl rfl

theorem keepsRws_sendMembers (s : State) (fn : Nat) (t : PgTable) (kind : Nat) (aux : W64) (l : List Byte) :
    KeepsRws s (s.sendMembers fn t kind aux l) := by
  obtain ⟨o, h⟩ := State.sendMembers_only s fn t kind aux l
  exact h ▸ keepsRws_outbox ..

theorem keepsRws_abortColl (s : State) (x : Nat) (o : Op) (code : Byte) : KeepsRws s (abortColl s x o code) := by
  obtain ⟨b, h⟩ := abortColl_only s x o code
  exact h ▸ keepsRws_outbox ..

/-! ### The end of an operation (R237-R246) -/

theorem keepsRws_setOpSt (s : State) (x slot : Nat) (st : OpSt) : KeepsRws s (setOpSt s x slot st) :=
  (keepsRws_modO ..).trans (keepsRws_imageOp ..)

theorem keepsRws_retireOp (s : State) (x slot : Nat) : KeepsRws s (retireOp s x slot) := by
  unfold retireOp
  split
  · exact .refl s
  · have h (f : Ctx → Ctx) := (keepsRws_setOpSt s x slot .retired).trans (keepsRws_modX _ x f)
    dsimp only
    split_ifs
    · exact (h _).trans (keepsRws_imageCtx ..)
    · exact h _

theorem keepsRws_orphanOp (s : State) (x slot : Nat) : KeepsRws s (orphanOp s x slot) := by
  unfold orphanOp
  split
  · exact .refl s
  · split_ifs
    · exact ((keepsRws_setOpSt ..).trans (keepsRws_modX ..)).trans (keepsRws_imageCtx ..)
    · exact (keepsRws_postEvent ..).trans (keepsRws_retireOp ..)

theorem keepsRws_tellWaiters (s : State) (x : Nat) (o : Op) : KeepsRws s (tellWaiters s x o) :=
  .foldl _ _ s fun _ _ => .of_dc rfl rfl rfl rfl rfl

theorem keepsRws_afterFinish (s : State) (x slot : Nat) : KeepsRws s (afterFinish s x slot) := by
  unfold afterFinish
  split
  · exact .refl s
  · rename_i o _
    have h := keepsRws_tellWaiters s x o
    dsimp only
    split_ifs
    · exact h.trans (keepsRws_retireOp ..)
    · exact h.trans (keepsRws_orphanOp ..)
    · exact h
    · exact h.trans (keepsRws_retireOp ..)
    · exact h

theorem keepsRws_finishOp (s : State) (x slot : Nat) (st : OpSt) (code : Byte) (index : W32) (addr : W64) :
    KeepsRws s (finishOp s x slot st code index addr) := by
  unfold finishOp
  split
  · exact .refl s
  · rename_i o _
    have h (o' : Op) (p : FaultEntry → Bool) : KeepsRws s (releaseTiles (dropFaults (decideWaiting (s.putO x slot o') x) p) x o.handle) :=
      .of_dc rfl rfl rfl rfl rfl
    dsimp only
    split_ifs
    · exact .refl s
    · exact (h _ _).trans ((keepsRws_imageOp ..).trans (keepsRws_afterFinish ..))
    · exact (h _ _).trans ((keepsRws_abortColl ..).trans ((keepsRws_imageOp ..).trans (keepsRws_afterFinish ..)))

/-- Only a residue mismatch is counted in a register (R372). -/
theorem countResidue_other (s : State) (fn : Nat) (code : Byte) (va : W64) (h : code ≠ cRESIDUE) : countResidue s fn code va = s := if_pos h

theorem keepsRws_failOp (s : State) (x slot : Nat) (code : Byte) (index : W32) (addr : W64) (h : code ≠ cRESIDUE) :
    KeepsRws s (failOp s x slot code index addr) := by
  unfold failOp
  rw [countResidue_other _ _ _ _ h]
  exact keepsRws_finishOp ..

/-! ### Leases and engine commands (R260-R266) -/

theorem keepsRws_modLease (s : State) (x slot : Nat) (f : LeaseInfo → LeaseInfo) : KeepsRws s (modLease s x slot f) := keepsRws_modO ..

theorem keepsRws_holdEngine (s : State) (e x slot : Nat) : KeepsRws s (holdEngine s e x slot) := by
  unfold holdEngine
  have h (g : Engine → Engine) (l : LeaseInfo → LeaseInfo) (o : Op → Op) : KeepsRws s ((modLease (s.modE e g) x slot l).modO x slot o) :=
    ((keepsRws_modE ..).trans (keepsRws_modLease ..)).trans (keepsRws_modO ..)
  dsimp only
  split_ifs
  · exact (h _ _ _).trans (keepsRws_imageOp ..)
  · exact (h _ _ _).trans (keepsRws_setOpSt ..)

theorem keepsRws_passEngine (s : State) (e : Nat) : KeepsRws s (passEngine s e) := by
  unfold passEngine
  split
  · exact keepsRws_holdEngine ..
  · exact keepsRws_modE ..

theorem keepsRws_endLease (s : State) (x slot : Nat) (st : OpSt) (code : Byte) : KeepsRws s (endLease s x slot st code) := by
  unfold endLease
  split
  · exact .refl s
  · dsimp only
    have h (f : LeaseInfo → LeaseInfo) (l : State → List (Nat × Op)) : KeepsRws s
        ((l (finishOp (modLease s x slot f) x slot st code 0 0)).foldl (fun s e => failOp s x e.1 cDENIED) (finishOp (modLease s x slot f) x slot st code 0 0)) :=
      ((keepsRws_modLease ..).trans (keepsRws_finishOp ..)).trans (.foldl _ _ _ fun _ _ => keepsRws_failOp _ _ _ _ _ _ (by decide))
    refine (h (fun l => { l with phase := .none, engine := none }) fun t => leaseCommands t x slot).trans ?_
    split
    · exact .refl _
    · split_ifs
      · split
        · exact ((keepsRws_modE ..).trans (keepsRws_modLease ..)).trans (keepsRws_setOpSt ..)
        · exact keepsRws_modE ..
      · exact keepsRws_passEngine ..
      · exact keepsRws_modE ..

theorem keepsRws_settleLease (s : State) (x slot : Nat) : KeepsRws s (settleLease s x slot) := by
  unfold settleLease
  split
  · split_ifs
    · exact keepsRws_endLease ..
    · exact keepsRws_endLease ..
    · exact .refl s
  · exact .refl s

theorem keepsRws_endCommand (s : State) (x slot : Nat) (st : OpSt) (code : Byte) (index : W32) (addr : W64) :
    KeepsRws s (endCommand s x slot st code index addr) := by
  unfold endCommand
  split
  · exact .refl s
  · dsimp only
    refine .trans (.trans (keepsRws_finishOp s x slot st code index addr) ?_) (keepsRws_settleLease ..)
    exact .of_dc rfl rfl rfl rfl rfl

theorem keepsRws_failAny (s : State) (x slot : Nat) (code : Byte) (index : W32) (addr : W64) (h : code ≠ cRESIDUE) :
    KeepsRws s (failAny s x slot code index addr) := by
  unfold failAny
  split_ifs
  · rw [countResidue_other _ _ _ _ h]
    exact keepsRws_endCommand ..
  · exact keepsRws_failOp _ _ _ _ _ _ h

/-! ### The teardown of a context (R342) -/

theorem keepsRws_reportDown (s : State) (x : Nat) : KeepsRws s (reportDown s x) := by
  unfold reportDown
  refine .foldl _ _ s fun t e => ?_
  split_ifs
  · exact .refl t
  · exact keepsRws_sendMembers ..

theorem keepsRws_withdrawAcq (s : State) (k : Nat) : KeepsRws s (withdrawAcq s k) := by
  unfold withdrawAcq
  refine .trans ?_ (.foldl _ _ _ fun t tag => ?_)
  · exact .of_dc rfl rfl rfl rfl rfl
  · split
    · exact keepsRws_outbox ..
    · exact .refl t

theorem keepsRws_releaseClaim (s : State) (k : Nat) : KeepsRws s (releaseClaim s k) := by
  unfold releaseClaim
  split_ifs
  · exact .of_dc rfl rfl rfl rfl rfl
  · exact .refl s

theorem keepsRws_freeCores (s : State) (l : List Nat) : KeepsRws s (freeCores s l) :=
  .foldl _ _ s fun _ _ => ((keepsRws_withdrawAcq ..).trans (keepsRws_releaseClaim ..)).trans (.of_dc rfl rfl rfl rfl rfl)

theorem keepsRws_dropInst (s : State) (key : InstKey) : KeepsRws s (dropInst s key) := by
  unfold dropInst
  split
  · exact .refl s
  · exact (keepsRws_freeCores ..).trans (keepsRws_modX ..)

theorem keepsRws_failOpenNodes (s : State) (x q : Nat) (code : Byte) : KeepsRws s (failOpenNodes s x q code) := by
  unfold failOpenNodes
  dsimp only
  refine .trans (.foldl _ _ s fun t a => ?_) (keepsRws_modX ..)
  split_ifs
  · exact .refl t
  · exact keepsRws_devWrite ..

theorem keepsRws_dyingOp (s : State) (x slot : Nat) : KeepsRws s (dyingOp s x slot) := by
  unfold dyingOp
  split
  · exact .refl s
  · rename_i o _
    by_cases hf : o.st.finished = true
    · rw [if_pos hf]
      exact .refl s
    · rw [if_neg hf]
      split
      · exact keepsRws_failAny _ _ _ _ _ _ (by decide)
      · split
        · dsimp only
          have h (f : LeaseInfo → LeaseInfo) : KeepsRws s (finishOp (modLease s x slot f) x slot .failed cDYING 0 0) :=
            (keepsRws_modLease ..).trans (keepsRws_finishOp ..)
          refine (h fun l => { l with phase := .none, engine := none }).trans ?_
          split
          · split_ifs
            · exact (keepsRws_modE ..).trans (keepsRws_dcCount _ _ _ (by decide))
            · exact keepsRws_modE ..
          · exact .refl _
        · exact .refl s
      · split_ifs
        · exact keepsRws_failAny _ _ _ _ _ _ (by decide)
        · exact keepsRws_modO ..
        · exact .refl s

theorem keepsRws_imageShard (s : State) (fn n : Nat) : KeepsRws s (imageShard s fn n) := by
  unfold imageShard
  exact (((keepsRws_devMerge ..).trans (keepsRws_devWrite ..)).trans (keepsRws_devWrite ..)).trans (keepsRws_devWrite ..)

theorem keepsRws_putShard (s : State) (fn n : Nat) (h : Shard) : KeepsRws s (s.putShard fn n h) := by
  have hs : KeepsRws s { s with shards := sput s.shards (shardKey fn n) h } := .of_dc rfl rfl rfl rfl rfl
  exact hs.trans (keepsRws_imageShard _ fn n)

theorem keepsRws_faultShard (s : State) (fn n : Nat) (code : Byte) (chunk : Nat) (va : W64) (h : code ≠ cRESIDUE) :
    KeepsRws s (faultShard s fn n code chunk va) := by
  unfold faultShard
  exact (keepsRws_putShard ..).trans (keepsRws_failOp _ _ _ _ _ _ h)

theorem keepsRws_dyingShards (s : State) (x : Nat) : KeepsRws s (dyingShards s x) := by
  unfold dyingShards
  dsimp only
  split_ifs
  · exact .refl s
  · refine .foldl _ _ s fun t n => ?_
    split_ifs
    · exact keepsRws_faultShard _ _ _ _ _ _ (by decide)
    · exact .refl t

theorem keepsRws_withDot (s : State) (f : State → State) (h : KeepsRws s (f s)) : KeepsRws s (withDot s f) :=
  h.trans (.of_dc rfl rfl rfl rfl rfl)

theorem keepsRws_destroyBegin (s : State) (x : Nat) : KeepsRws s (destroyBegin s x) := by
  unfold destroyBegin
  dsimp only
  refine .trans ?_ (keepsRws_dropFaults ..)
  refine .trans ?_ (keepsRws_withDot _ _ (keepsRws_modX ..))
  refine .trans ?_ (keepsRws_dyingShards ..)
  refine .trans ?_ (.foldl _ _ _ fun _ _ => keepsRws_dyingOp ..)
  refine .trans ?_ (keepsRws_setCtxSt ..)
  refine .trans ?_ (.foldl _ _ _ fun t e => ?_)
  · refine .trans ?_ (.foldl _ _ _ fun _ _ => keepsRws_dropInst ..)
    refine .trans ?_ (.foldl _ _ _ fun _ _ => keepsRws_modX ..)
    refine .trans ?_ (keepsRws_reportDown ..)
    exact .of_dc rfl rfl rfl rfl rfl
  · split_ifs
    · exact .refl t
    · exact (keepsRws_failOpenNodes ..).trans (keepsRws_modX ..)

/-! ## What losing keys leaves readable (R359, R423) -/

/-- A unit that becomes unpredictable leaves every other unit's bytes. -/
theorem Memory.byte_freeUnit_other (m : Memory) (pa n a : Nat) (h : pa / 128 ≠ a / 128) : (m.freeUnit pa n).byte a = m.byte a := by
  unfold Memory.freeUnit
  rw [Memory.byte_storeList, List.length_map, List.length_range, if_neg (by omega)]

/-- A frame that becomes unpredictable leaves every other frame's bytes. -/
theorem Memory.byte_scramble_other (m : Memory) (pa n a : Nat) (h : pa / 65536 ≠ a / 65536) : (m.scramble pa n).byte a = m.byte a := by
  have hc : sfind (sclear m.cells (65536 * (pa / 65536)) (65536 * (pa / 65536) + 65536)) a = sfind m.cells a :=
    sfind_filter m.cells (fun k => decide (k < 65536 * (pa / 65536)) || decide (65536 * (pa / 65536) + 65536 ≤ k)) a (by
      simp only [Bool.or_eq_true, decide_eq_true_eq]; omega)
  unfold Memory.scramble Memory.byte
  dsimp only
  rw [hc, sfind_sput, if_neg (Ne.symm h)]

/-- A byte whose frame and whose unit are stored under no lost key reads as before. -/
theorem Memory.byte_loseKeys_other (m : Memory) (p : Nat → Bool) (n a : Nat) (ho : ∀ e ∈ m.owner, p e.2 = true → e.1 ≠ a / 65536)
    (hu : ∀ e ∈ m.units, p e.2 = true → e.1 ≠ a / 128) : (m.loseKeys p n).byte a = m.byte a := by
  unfold Memory.loseKeys
  dsimp only
  generalize hf : (m.owner.filter fun e => p e.2).foldl _ m = m1
  have frames : m1.byte a = m.byte a ∧ m1.units = m.units := by
    rw [← hf]
    refine List.foldlRecOn (motive := fun t : Memory => t.byte a = m.byte a ∧ t.units = m.units) _ _ ⟨rfl, rfl⟩ fun t ht e he => ?_
    obtain ⟨hmem, hlost⟩ := List.mem_filter.mp he
    have hne := ho e hmem hlost
    split_ifs
    · refine List.foldlRecOn (motive := fun t : Memory => t.byte a = m.byte a ∧ t.units = m.units) _ _ ht fun t' ht' i hi => ?_
      have hi := List.mem_range.mp hi
      split_ifs
      · exact ht'
      · exact ⟨(Memory.byte_freeUnit_other _ _ _ _ (by omega)).trans ht'.1, (Memory.storeList_units ..).trans ht'.2⟩
    · exact ⟨(Memory.byte_scramble_other _ _ _ _ (by omega)).trans ht.1, ht.2⟩
  obtain ⟨hbyte, hunits⟩ := frames
  refine List.foldlRecOn (motive := fun t : Memory => t.byte a = m.byte a) _ _ hbyte fun t ht e he => ?_
  obtain ⟨hmem, hlost⟩ := List.mem_filter.mp he
  have hne := hu e (hunits ▸ hmem) hlost
  exact (Memory.byte_freeUnit_other _ _ _ _ (by omega)).trans ht

/-- What of memory lies in the pool. -/
def Memory.poolPart (m : Memory) : Memory :=
  { cells := m.cells.filter fun e => decide (2 ^ 47 ≤ e.1), scrambled := m.scrambled.filter fun e => decide (2 ^ 47 ≤ 65536 * e.1),
    owner := m.owner.filter fun e => decide (2 ^ 47 ≤ 65536 * e.1), units := m.units.filter fun e => decide (2 ^ 47 ≤ 128 * e.1) }

/-- What outlasts a reset reads as the pool's part without its keys. -/
theorem poolOnly_byte (m : Memory) (n a : Nat) : (poolOnly m n).byte a = (m.poolPart.loseKeys (· ≠ plainKey) n).byte a := rfl

theorem Memory.byte_poolPart_hbm (m : Memory) (a : Nat) (h : a < 2 ^ 47) : m.poolPart.byte a = memDefault := by
  have hc : sfind m.poolPart.cells a = none := sfind_none_of_lt fun e he => by
    have := of_decide_eq_true (List.mem_filter.mp he).2
    omega
  have hs : sfind m.poolPart.scrambled (a / 65536) = none := sfind_none_of_lt fun e he => by
    have := of_decide_eq_true (List.mem_filter.mp he).2
    omega
  rw [Memory.byte, hc, hs]

/-- Once HBM is lost, every byte below the pool reads as an unlisted one (R421). -/
theorem byte_poolOnly_hbm (m : Memory) (n a : Nat) (h : a < 2 ^ 47) : (poolOnly m n).byte a = memDefault := by
  rw [poolOnly_byte, Memory.byte_loseKeys_other _ _ _ _ (fun e he _ => ?_) (fun e he _ => ?_), Memory.byte_poolPart_hbm m a h]
  · have := of_decide_eq_true (List.mem_filter.mp he).2
    omega
  · have := of_decide_eq_true (List.mem_filter.mp he).2
    omega

/-! ## Self-test (R415, R417-R419) -/

/-- `t` is `s` but for its registers and its engines. -/
def RegsEnginesOnly (s t : State) : Prop := ∃ d e, t = { s with dc := d, engines := e }

theorem RegsEnginesOnly.dcPut {s t : State} (h : RegsEnginesOnly s t) (a : Nat) (v : W32) : RegsEnginesOnly s (dcPut t a v) := by
  obtain ⟨d, e, rfl⟩ := h
  exact ⟨_, e, rfl⟩

theorem RegsEnginesOnly.dcPut64 {s t : State} (h : RegsEnginesOnly s t) (a : Nat) (v : W64) : RegsEnginesOnly s (dcPut64 t a v) :=
  (h.dcPut _ _).dcPut _ _

theorem RegsEnginesOnly.modE {s t : State} (h : RegsEnginesOnly s t) (n : Nat) (f : Engine → Engine) : RegsEnginesOnly s (t.modE n f) := by
  obtain ⟨d, e, rfl⟩ := h
  exact ⟨d, _, rfl⟩

/-- A loop of steps that each stay within them stays within them. -/
theorem RegsEnginesOnly.foldl {α : Type} {s t : State} (h : RegsEnginesOnly s t) (f : State → α → State) (l : List α)
    (hf : ∀ u a, RegsEnginesOnly s u → RegsEnginesOnly s (f u a)) : RegsEnginesOnly s (l.foldl f t) :=
  List.foldlRecOn l f h fun u hu a _ => hf u a hu

/-- Retirement changes registers and engines, nothing else. -/
theorem retire_only (s : State) (r : SelfTest) : RegsEnginesOnly s (retire s r) := by
  unfold retire
  have start : RegsEnginesOnly s s := ⟨s.dc, s.engines, rfl⟩
  have benches := start.foldl (fun t d => Machine.dcPut64 t (0x00700100 + 8 * d) (BitVec.ofNat 64 (maskIn r.badBench (physBenches * d) physBenches)))
    (List.range 2) fun _ _ hu => hu.dcPut64 _ _
  have spares (o : Nat) {t : State} (ht : RegsEnginesOnly s t) (l : List (Nat × W64)) :=
    ht.foldl (fun u e => if e.1 < 96 then Machine.dcPut64 u (o + 16 * e.1) e.2 else u) l fun u e hu => by
      split_ifs
      · exact hu.dcPut64 _ _
      · exact hu
  refine .foldl (.foldl (.foldl (spares _ (spares _ benches _) _) _ _ ?channels) _ _ ?engineWords) _ _ ?engines
  case channels => exact fun u k hu => hu.foldl _ _ fun _ _ hv => hv.dcPut _ _
  case engineWords => exact fun u w hu => hu.dcPut _ _
  case engines =>
    intro u e hu
    split_ifs
    · exact hu.modE _ _
    · exact hu

/-- The step that retires one bad engine. -/
def retireEngine (s : State) (e : Nat) : State := if e < 192 then s.modE e fun g => { g with st := .retired } else s

theorem retireEngine_keeps_retired {s : State} {e : Nat} (h : (s.getE e).st = .retired) (b : Nat) : ((retireEngine s b).getE e).st = .retired := by
  unfold retireEngine
  split_ifs
  · by_cases hb : e = b
    · rw [hb, State.getE_modE]
    · rw [State.getE_modE_other _ _ _ _ hb]
      exact h
  · exact h

theorem retireEngine_retires (s : State) {e : Nat} (h : e < 192) : ((retireEngine s e).getE e).st = .retired := by
  rw [retireEngine, if_pos h, State.getE_modE]

theorem foldl_retireEngine_retires (l : List Nat) (s : State) {e : Nat} (he : e ∈ l) (h : e < 192) : ((l.foldl retireEngine s).getE e).st = .retired := by
  induction l generalizing s with
  | nil => cases he
  | cons b l ih =>
    obtain rfl | he := List.mem_cons.mp he
    · exact List.foldlRecOn (motive := fun t : State => (t.getE e).st = .retired) l retireEngine (retireEngine_retires s h)
        fun _ ht b _ => retireEngine_keeps_retired ht b
    · exact ih _ he

/-- Every engine that self-test finds bad is retired. -/
theorem retire_badEngine (s : State) (r : SelfTest) {e : Nat} (he : e ∈ r.badEngine) (h : e < 192) : ((retire s r).getE e).st = .retired :=
  foldl_retireEngine_retires r.badEngine _ he h

/-! ## Power and heat (R261, R420, R421) -/

/-- A change of the budget reaches the budget and the engines. -/
theorem setBudget_only (s : State) (n : Nat) : ∃ e, setBudget s n = { s with budget := n, engines := e } := by
  refine List.foldlRecOn (motive := fun t : State => ∃ e, t = { s with budget := n, engines := e }) _ _ ⟨s.engines, rfl⟩ fun t ht e _ => ?_
  split_ifs
  · obtain ⟨g, rfl⟩ := ht
    exact ⟨_, rfl⟩
  · exact ht

/-- Throttling reaches the budget, the engines and its own marks; a budget above 32 falls, to no less than 32. -/
theorem throttle_only (s : State) : ∃ b e n, throttle s = { s with throttled := true, coolSince := none, budget := b, engines := e, free := n } ∧
    (s.budget ≤ 32 → b = s.budget) ∧ (32 < s.budget → 32 ≤ b ∧ b < s.budget) := by
  unfold throttle
  dsimp only
  split_ifs with h
  · exact ⟨s.budget, s.engines, s.free, rfl, fun _ => rfl, fun hb => absurd hb (by omega)⟩
  · obtain ⟨e, he⟩ := setBudget_only { s with throttled := true, coolSince := none, free := s.free + 1 } (32 + (Config.free s.free).toNat % (s.budget - 32))
    have hmod := Nat.mod_lt (Config.free s.free).toNat (show 0 < s.budget - 32 by omega)
    exact ⟨_, e, s.free + 1, he, fun hb => absurd hb h, fun _ => ⟨by omega, by omega⟩⟩

theorem restoredBudget_range : 32 ≤ restoredBudget ∧ restoredBudget ≤ 64 := by
  unfold restoredBudget clampN
  split_ifs <;> omega

/-! ## The mailbox (R424, R425) -/

theorem sget_ssetList {α : Type} [DecidableEq α] (d : α) (m : Sparse α) (k j : Nat) (l : List α) :
    sget d (ssetList d m k l) j = if k ≤ j ∧ j < k + l.length then l.getD (j - k) d else sget d m j := by
  induction l generalizing m k with
  | nil =>
    rw [ssetList, if_neg]
    rw [List.length_nil]
    omega
  | cons v l ih =>
    rw [ssetList, ih, sget_sset, List.length_cons]
    by_cases hj : j = k
    · subst hj
      rw [if_neg (by omega), if_pos rfl, if_pos (by omega), Nat.sub_self, List.getD_cons_zero]
    · by_cases hin : k + 1 ≤ j ∧ j < k + 1 + l.length
      · rw [if_pos hin, if_pos (by omega), show j - k = j - (k + 1) + 1 by omega, List.getD_cons_succ]
      · rw [if_neg hin, if_neg hj, if_neg (by omega)]

/-- MBDATA begins with the bytes that a command returns. -/
theorem mbGet_mbEnd (s : State) (r : Byte) (out : List Byte) (n : Nat) (h : n ≤ out.length) : mbGet (mbEnd s r out) 0 n = out.take n := by
  refine List.ext_getElem (by simp [mbGet, sgetList, h]) fun i hi _ => ?_
  have hi : i < n := by simpa [mbGet, sgetList] using hi
  have hlen : i < out.length := by omega
  simp [mbGet, sgetList, mbEnd, sget_ssetList, hlen]

theorem leBytes_length (n v : Nat) : (leBytes n v).length = n := by simp [leBytes]

theorem mbGet_length (s : State) (off n : Nat) : (mbGet s off n).length = n := by simp [mbGet, sgetList]

/-! ## The events of the device, one equation per case (R414-R428) -/

/-- A cold reset that verifies every stage leaves the state of reset, but for the pool (R414, R422). -/
theorem exec_coldReset_verified (s : State) {stages : List BootStage} {m : BitVec 384} {v : W32} (h : bootStages 0 stages 0 0 = (m, v, none)) :
    exec (.coldReset stages) s = .next { resetDevice s with fwImage := none, dev := .selftest, meas := m, svn := v } := by
  show execColdReset stages s = _
  unfold execColdReset
  rw [h]

/-- A stage that fails leads to SAFE (R422). -/
theorem exec_coldReset_failed (s : State) {stages : List BootStage} {m : BitVec 384} {v : W32} {i : Nat}
    (h : bootStages 0 stages 0 0 = (m, v, some i)) :
    exec (.coldReset stages) s =
      .next { resetDevice s with fwImage := none, dev := .safe, failClass := 1, failUnit := BitVec.ofNat 16 i, meas := m, svn := v } := by
  show execColdReset stages s = _
  unfold execColdReset
  rw [h]

theorem exec_warmReset_refused (s : State) (h : s.dev ≠ .ready) : exec .warmReset s = .next s := congrArg Host.Outcome.next (if_pos h)

/-- A warm reset carries over what is RWS of the state in which its contexts are torn down (R414). -/
theorem exec_warmReset_ready (s : State) (h : s.dev = .ready) : ∃ u, KeepsRws s u ∧ exec .warmReset s = .next
    (dcPut { resetDevice u with dev := .selftest, meas := u.meas, svn := u.svn, qcount := u.qcount, fwImage := u.fwImage, clock0 := u.coldClock }
      pwrLim (dcGet u pwrLim)) := by
  refine ⟨_, ?_, congrArg Host.Outcome.next (if_neg (not_not_intro h))⟩
  refine .trans (.foldl _ _ s fun t e => ?_) (.foldl _ _ _ fun t e => keepsRws_devWrite ..)
  split_ifs
  · exact .refl t
  · exact keepsRws_destroyBegin t e.1

theorem exec_selftestEnd_refused (r : SelfTest) (s : State) (h : s.dev ≠ .selftest) : exec (.selftestEnd r) s = .next s :=
  congrArg Host.Outcome.next (if_pos h)

theorem exec_selftestEnd_passed (r : SelfTest) (s : State) (h : s.dev = .selftest) (hr : selfTestFails r = none) :
    exec (.selftestEnd r) s = .next { retire s r with dev := .ready } := by
  show execSelftestEnd r s = _
  unfold execSelftestEnd
  rw [if_neg (not_not_intro h), hr]

theorem exec_selftestEnd_failed (r : SelfTest) (s : State) {c : Byte} {u : Nat} (h : s.dev = .selftest) (hr : selfTestFails r = some (c, u)) :
    exec (.selftestEnd r) s = .next { retire s r with dev := .safe, failClass := c, failUnit := BitVec.ofNat 16 u } := by
  show execSelftestEnd r s = _
  unfold execSelftestEnd
  rw [if_neg (not_not_intro h), hr]

theorem exec_powerControl_above (w : BitVec 12) (s : State) (h : (dcGet s pwrLim).toNat < w.toNat) :
    exec (.powerControl w) s = .next (throttle (dcPut s 0x0070000C (w.setWidth 32))) := by
  have hlim : dcGet (dcPut s 0x0070000C (w.setWidth 32)) pwrLim = dcGet s pwrLim := dcGet_dcPut_other _ _ _ _ (by decide)
  show execPowerControl w s = _
  unfold execPowerControl
  dsimp only
  rw [hlim, if_pos h]

/-- While firmware throttles and the draw has been below the limit less 100 W since `t0`, the budget returns after 10 ms (R420). -/
theorem exec_powerControl_cooling (w : BitVec 12) (s : State) {t0 : Nat} (ht : s.throttled = true) (hd : (dcGet s 0x00700010).toNat < 105)
    (hw : w.toNat + 100 < (dcGet s pwrLim).toNat) (hc : s.coolSince = some t0) :
    exec (.powerControl w) s = .next (if t0 + 12000000 ≤ s.now
      then setBudget { dcPut s 0x0070000C (w.setWidth 32) with throttled := false, coolSince := none } restoredBudget
      else dcPut s 0x0070000C (w.setWidth 32)) := by
  have hlim : dcGet (dcPut s 0x0070000C (w.setWidth 32)) pwrLim = dcGet s pwrLim := dcGet_dcPut_other _ _ _ _ (by decide)
  have htemp : dcGet (dcPut s 0x0070000C (w.setWidth 32)) 0x00700010 = dcGet s 0x00700010 := dcGet_dcPut_other _ _ _ _ (by decide)
  have hcool : (!s.throttled || decide (105 ≤ (dcGet s 0x00700010).toNat) || decide ((dcGet s pwrLim).toNat ≤ w.toNat + 100)) = false := by
    simp only [ht, Bool.not_true, Bool.false_or, Bool.or_eq_false_iff, decide_eq_false_iff_not]
    omega
  have hcoolSince : (dcPut s 0x0070000C (w.setWidth 32)).coolSince = some t0 := hc
  have hthrottled : (dcPut s 0x0070000C (w.setWidth 32)).throttled = s.throttled := rfl
  have hnow : (dcPut s 0x0070000C (w.setWidth 32)).now = s.now := rfl
  have hms : 10 * msClocks = 12000000 := by norm_num [msClocks]
  show execPowerControl w s = _
  unfold execPowerControl
  dsimp only
  rw [hlim, htemp, hthrottled, if_neg (by omega), hcool, hcoolSince, hnow, hms, if_neg Bool.false_ne_true]

theorem exec_temperatureLimit_cool (d : BitVec 8) (s : State) (h : d.toNat < 105) :
    exec (.temperatureLimit d) s = .next (dcPut s 0x00700010 (d.setWidth 32)) :=
  congrArg Host.Outcome.next ((if_neg (by omega)).trans (if_neg (by omega)))

theorem exec_temperatureLimit_hot (d : BitVec 8) (s : State) (h : 105 ≤ d.toNat) (h' : d.toNat < 115) :
    exec (.temperatureLimit d) s = .next (throttle (dcPut s 0x00700010 (d.setWidth 32))) :=
  congrArg Host.Outcome.next ((if_neg (by omega)).trans (if_pos h))

theorem exec_temperatureLimit_lost (d : BitVec 8) (s : State) (h : 115 ≤ d.toNat) : exec (.temperatureLimit d) s = .next
    (freezeDev { dcPut s 0x00700010 (d.setWidth 32) with mem := poolOnly s.mem s.free, free := s.free + 1 }) :=
  congrArg Host.Outcome.next (if_pos h)

theorem exec_vfEnable_ready (n : Nat) (s : State) (h : s.dev = .ready) : exec (.vfEnable n) s = .next { s with vfs := min n 128 } :=
  congrArg Host.Outcome.next (if_pos h)

theorem exec_vfEnable_refused (n : Nat) (s : State) (h : s.dev ≠ .ready) : exec (.vfEnable n) s = .next s :=
  congrArg Host.Outcome.next (if_neg h)

/-- A port that fails is listed once (R428). -/
theorem exec_cxlPortFailure_port (p : Nat) (s : State) (h : p < 2) : ∃ l, exec (.cxlPortFailure p) s = .next { s with cxlFailed := l } ∧ p ∈ l := by
  by_cases hp : p ∈ s.cxlFailed
  · exact ⟨s.cxlFailed, congrArg Host.Outcome.next (if_pos (by simp [hp])), hp⟩
  · exact ⟨s.cxlFailed ++ [p], congrArg Host.Outcome.next (if_neg (by simp [hp, h])), by simp⟩

theorem exec_cxlPortFailure_none (p : Nat) (s : State) (h : 2 ≤ p) : exec (.cxlPortFailure p) s = .next s :=
  congrArg Host.Outcome.next (if_pos (by simp [h]))

/-! ### The mailbox's commands (R415, R416, R424, R425) -/

theorem mbRefused_ok (s : State) {ok : Bool} (f : State → State) (h : ok = true) : mbRefused s ok f = .next (f s) :=
  congrArg Host.Outcome.next (if_pos h)

theorem mbRefused_refused (s : State) {ok : Bool} (f : State → State) (h : ok = false) : mbRefused s ok f = .next (mbEnd s 2 []) :=
  congrArg Host.Outcome.next (if_neg (by simp [h]))

/-- Of a FROZEN device the mailbox refuses every command but SCANRD (R416). -/
theorem exec_mailbox_frozen (s : State) (h : s.dev = .frozen) :
    ∀ i ∈ [Instr.dcread, .dcwrite, .idcert, .quote, .fwstage], exec i s = .next (mbEnd s 2 []) := by
  have notFrozen : decide (s.dev ≠ .frozen) = false := by simp [h]
  have notSafe : (decide (s.dev ≠ .frozen) && decide (s.dev ≠ .safe)) = false := by simp [h]
  simp only [List.forall_mem_cons, List.not_mem_nil, false_imp_iff, implies_true, and_true]
  refine ⟨?dcread, ?dcwrite, ?idcert, ?quote, ?fwstage⟩
  case dcread => show execDcread s = _; exact mbRefused_refused s _ notFrozen
  case dcwrite => show execDcwrite s = _; exact mbRefused_refused s _ notSafe
  case idcert => show execIdcert s = _; exact mbRefused_refused s _ notFrozen
  case quote => show execQuote s = _; exact mbRefused_refused s _ notFrozen
  case fwstage => show execFwstage s = _; exact mbRefused_refused s _ notFrozen

theorem exec_dcwrite_safe (s : State) (h : s.dev = .safe) : exec .dcwrite s = .next (mbEnd s 2 []) := by
  show execDcwrite s = _
  exact mbRefused_refused s _ (by simp [h])

theorem exec_scanrd_refused (s : State) (h : s.dev ≠ .frozen) : exec .scanrd s = .next (mbEnd s 2 []) := by
  show execScanrd s = _
  exact mbRefused_refused s _ (by simp [h])

theorem exec_scanrd_frozen (s : State) (h : s.dev = .frozen) : ∃ l, exec .scanrd s = .next (mbEnd s 0 l) := by
  show ∃ l, execScanrd s = _
  exact ⟨_, mbRefused_ok s _ (by simp [h])⟩

theorem exec_dcread_register (s : State) {v : W32} (h : s.dev ≠ .frozen) (hv : regRead s none (mbNum s 0 4) = some v) :
    exec .dcread s = .next (mbEnd s 0 (leBytes 4 v.toNat)) := by
  show execDcread s = _
  rw [execDcread, mbRefused_ok _ _ (by simp [h]), hv]

theorem exec_dcread_none (s : State) (h : s.dev ≠ .frozen) (hv : regRead s none (mbNum s 0 4) = none) : exec .dcread s = .next (mbEnd s 3 []) := by
  show execDcread s = _
  rw [execDcread, mbRefused_ok _ _ (by simp [h]), hv]

theorem exec_dcwrite_register (s : State) {s2 : State} (h : s.dev ≠ .frozen) (h' : s.dev ≠ .safe)
    (hw : regWrite s none (mbNum s 0 4) (BitVec.ofNat 32 (mbNum s 4 4)) = some s2) : exec .dcwrite s = .next (mbEnd s2 0 []) := by
  show execDcwrite s = _
  rw [execDcwrite, mbRefused_ok _ _ (by simp [h, h']), hw]

theorem exec_dcwrite_none (s : State) (h : s.dev ≠ .frozen) (h' : s.dev ≠ .safe)
    (hw : regWrite s none (mbNum s 0 4) (BitVec.ofNat 32 (mbNum s 4 4)) = none) : exec .dcwrite s = .next (mbEnd s 3 []) := by
  show execDcwrite s = _
  rw [execDcwrite, mbRefused_ok _ _ (by simp [h, h']), hw]

theorem exec_idcert_chunk (s : State) (h : s.dev ≠ .frozen) (hc : 256 * mbNum s 0 4 < Config.certLen) :
    ∃ l, exec .idcert s = .next (mbEnd s 0 l) := by
  show ∃ l, execIdcert s = _
  rw [execIdcert, mbRefused_ok _ _ (by simp [h])]
  exact ⟨_, congrArg Host.Outcome.next (if_neg (not_le.mpr hc))⟩

theorem exec_idcert_beyond (s : State) (h : s.dev ≠ .frozen) (hc : Config.certLen ≤ 256 * mbNum s 0 4) :
    exec .idcert s = .next (mbEnd s 3 []) := by
  show execIdcert s = _
  rw [execIdcert, mbRefused_ok _ _ (by simp [h])]
  exact congrArg Host.Outcome.next (if_pos hc)

/-- A quote counts itself, and returns the report that begins with the caller's 48 bytes (R424). -/
theorem exec_quote_report (s : State) (h : s.dev ≠ .frozen) :
    ∃ l, exec .quote s = .next (mbEnd { s with qcount := s.qcount + 1 } 0 (mbGet s 0 48 ++ l)) := by
  show ∃ l, execQuote s = _
  rw [execQuote, mbRefused_ok _ _ (by simp [h])]
  simp only [quoteBytes, List.append_assoc]
  exact ⟨_, rfl⟩

theorem exec_fwstage_staged (s : State) (h : s.dev ≠ .frozen) : exec .fwstage s =
    .next (mbEnd { s with fwImage := some (BitVec.ofNat 64 (4096 * mbNum s 0 4), BitVec.ofNat 32 (mbNum s 4 4)) } 0 []) := by
  show execFwstage s = _
  rw [execFwstage, mbRefused_ok _ _ (by simp [h])]

/-! ### Register writes of the host (R9, R416, R425, R426) -/

theorem windowOf_dc (a : W32) (h : a.toNat < 2 ^ 31) : windowOf a.toNat = none := if_neg (by omega)

theorem exec_registerWrite_window (a v : W32) (s : State) {x o : Nat} (h : windowOf a.toNat = some (x, o)) :
    exec (.registerWrite a v) s = .next (hostWrite s x o v) := by
  show execRegisterWrite a v s = _
  unfold execRegisterWrite
  rw [h]

theorem exec_registerWrite_dc (a v : W32) (s : State) (h : a.toNat < 2 ^ 31) :
    exec (.registerWrite a v) s = .next (if s.dev = .frozen then s else (regWrite s none a.toNat v).getD s) := by
  show execRegisterWrite a v s = _
  unfold execRegisterWrite
  rw [windowOf_dc a h]

/-- MBCMD lies at offset 0x1000 of the first register window of the physical function (R425). -/
theorem hostWrite_mbcmd (s : State) (v : W32) : hostWrite s 2048 0x1000 v = mailCommand s v := by
  have hm : mailboxAt 2048 0x1000 = some 0 := by decide
  unfold hostWrite
  rw [hm]
  rfl

theorem mailCommand_busy (s : State) (v : W32) (h : s.mbox.busy = true) : mailCommand s v = s := if_pos h

theorem mailCommand_starts (s : State) (h : s.mbox.busy = false) :
    ∀ e ∈ [(1, Ev.dcread), (2, .dcwrite), (3, .idcert), (4, .quote), (5, .fwstage), (6, .scanrd)],
      mailCommand s (BitVec.ofNat 32 e.1) = { s with mbox := { s.mbox with busy := true }, agenda := s.agenda ++ [e.2] } := by
  have idle : ¬s.mbox.busy = true := by simp [h]
  simp only [List.forall_mem_cons, List.not_mem_nil, false_imp_iff, implies_true, and_true]
  exact ⟨if_neg idle, if_neg idle, if_neg idle, if_neg idle, if_neg idle, if_neg idle⟩

theorem mailCommand_unknown (s : State) (v : W32) (h : s.mbox.busy = false) (hv : v = 0 ∨ 6 < v.toNat) :
    mailCommand s v = { s with mbox := { s.mbox with result := 1 } } := by
  have hn : v.toNat = 0 ∨ 6 < v.toNat := hv.imp_left fun h0 => by rw [h0]; rfl
  unfold mailCommand
  rw [if_neg (by simp [h])]
  dsimp only
  split
  case h_7 => rfl
  all_goals omega

/-- MBSTAT shows the command in progress in bit 31 (R425). -/
theorem hostRead_mbstat_busy (s : State) : (hostRead s 2048 0x1004).getLsbD 31 = s.mbox.busy := by
  show (bitsAt s.mbox.busy.toNat 31 + s.mbox.result.setWidth 32).getLsbD 31 = _
  have hr := s.mbox.result.isLt
  rw [BitVec.getLsbD, Nat.testBit_eq_decide_div_mod_eq, BitVec.toNat_add, BitVec.toNat_setWidth, bitsAt, BitVec.toNat_ofNat]
  cases s.mbox.busy <;> simp <;> omega

/-- QTAIL reads as the queue's tail in the register window of its context (R325). -/
theorem hostRead_qtail (s : State) {x o q : Nat} (h : hostQueueAt s x o = some (q, 0x04)) : hostRead s x o = (s.getQ x q).tail := by
  have hrange : 0x00100000 ≤ o := by
    by_contra hlt
    rw [hostQueueAt, if_neg (by simp [hlt])] at h
    cases h
  have hmail : mailboxAt x o = none := if_neg (by simp; omega)
  unfold hostRead
  rw [if_neg (by omega), hmail, h]
  rfl

/-! ## The effects that both statements name -/

/-- A cold reset ends in SELFTEST or in SAFE with the reset value of everything that is not the pool's (R414, R415, R422). -/
theorem coldReset_effect (s : State) (stages : List BootStage) (m : BitVec 384) (v : W32) :
    (bootStages 0 stages 0 0 = (m, v, none) → ∃ t, exec (.coldReset stages) s = .next t ∧
      t = { State.reset with mem := t.mem, errs := t.errs, free := t.free, dev := .selftest, meas := m, svn := v }) ∧
    (∀ i, bootStages 0 stages 0 0 = (m, v, some i) → ∃ t, exec (.coldReset stages) s = .next t ∧ t.dev = .safe ∧ t.failClass = 1 ∧
      t.failUnit = BitVec.ofNat 16 i ∧ t.ctxs = [] ∧ t.cores = State.reset.cores) :=
  ⟨fun h => ⟨_, exec_coldReset_verified s h, rfl⟩, fun _ h => ⟨_, exec_coldReset_failed s h, rfl, rfl, rfl, rfl, rfl⟩⟩

theorem warmReset_effect (s : State) (h : s.dev = .ready) : ∃ t, exec .warmReset s = .next t ∧ t.dev = .selftest ∧ t.ctxs = [] ∧
    t.cores = State.reset.cores ∧ t.meas = s.meas ∧ t.svn = s.svn ∧ t.qcount = s.qcount ∧ t.fwImage = s.fwImage ∧
    dcGet t pwrLim = dcGet s pwrLim := by
  obtain ⟨u, hu, he⟩ := exec_warmReset_ready s h
  exact ⟨_, he, rfl, rfl, rfl, hu.meas, hu.svn, hu.qcount, hu.fwImage, (dcGet_dcPut_same ..).trans hu.pwrLim⟩

theorem selftestEnd_effect (s : State) (r : SelfTest) :
    (s.dev ≠ .selftest → exec (.selftestEnd r) s = .next s) ∧
    (s.dev = .selftest → selfTestFails r = none → ∃ t, exec (.selftestEnd r) s = .next t ∧ t.dev = .ready ∧ t.mem = s.mem ∧
      ∀ e ∈ r.badEngine, e < 192 → (t.getE e).st = .retired) ∧
    (∀ c u, s.dev = .selftest → selfTestFails r = some (c, u) → ∃ t, exec (.selftestEnd r) s = .next t ∧ t.dev = .safe ∧ t.failClass = c ∧
      t.failUnit = BitVec.ofNat 16 u) := by
  have hmem : (retire s r).mem = s.mem := by
    obtain ⟨d, e, h⟩ := retire_only s r
    rw [h]
  exact ⟨exec_selftestEnd_refused r s, fun h hr => ⟨_, exec_selftestEnd_passed r s h hr, rfl, hmem, fun _ he hlt => retire_badEngine s r he hlt⟩,
    fun _ _ h hr => ⟨_, exec_selftestEnd_failed r s h hr, rfl, rfl, rfl⟩⟩

/-- A draw above the limit throttles, and a throttled device gets its budget back after 10 ms (R420). -/
theorem powerControl_effect (s : State) (w : BitVec 12) :
    ((dcGet s pwrLim).toNat < w.toNat → ∃ t, exec (.powerControl w) s = .next t ∧ t.throttled = true ∧ dcGet t 0x0070000C = w.setWidth 32 ∧
      (32 ≤ s.budget → 32 ≤ t.budget ∧ t.budget ≤ s.budget) ∧ (32 < s.budget → t.budget < s.budget) ∧ t.mem = s.mem ∧ t.ctxs = s.ctxs) ∧
    (∀ t0, s.throttled = true → (dcGet s 0x00700010).toNat < 105 → w.toNat + 100 < (dcGet s pwrLim).toNat → s.coolSince = some t0 →
      (t0 + 12000000 ≤ s.now → ∃ t, exec (.powerControl w) s = .next t ∧ t.throttled = false ∧ 32 ≤ t.budget ∧ t.budget ≤ 64) ∧
      (s.now < t0 + 12000000 → ∃ t, exec (.powerControl w) s = .next t ∧ t.throttled = true ∧ t.budget = s.budget)) := by
  refine ⟨fun h => ?above, fun t0 ht hd hw hc => ⟨fun hnow => ?cooled, fun hnow => ?cooling⟩⟩
  case above =>
    obtain ⟨b, e, n, ht, hlow, hhigh⟩ := throttle_only (dcPut s 0x0070000C (w.setWidth 32))
    have hrange (hb : 32 ≤ s.budget) : 32 ≤ b ∧ b ≤ s.budget := by
      obtain hlt | hle := Nat.lt_or_ge 32 s.budget
      · exact (hhigh hlt).imp_right Nat.le_of_lt
      · exact ⟨hb.trans_eq (hlow hle).symm, (hlow hle).le⟩
    exact ⟨_, (exec_powerControl_above w s h).trans (congrArg _ ht), rfl, (dcGet_congr rfl _).trans (dcGet_dcPut_same s 0x0070000C (w.setWidth 32)),
      hrange, fun hb => (hhigh hb).2, rfl, rfl⟩
  case cooled =>
    obtain ⟨e, he⟩ := setBudget_only { dcPut s 0x0070000C (w.setWidth 32) with throttled := false, coolSince := none } restoredBudget
    have hx := exec_powerControl_cooling w s ht hd hw hc
    rw [if_pos hnow, he] at hx
    exact ⟨_, hx, rfl, restoredBudget_range⟩
  case cooling =>
    have hx := exec_powerControl_cooling w s ht hd hw hc
    rw [if_neg (Nat.not_le.mpr hnow)] at hx
    exact ⟨_, hx, ht, rfl⟩

/-- Below 105 °C a reading is noted, from there firmware throttles, from 115 °C the device freezes without its HBM (R421). -/
theorem temperatureLimit_effect (s : State) (d : BitVec 8) :
    (d.toNat < 105 → ∃ t, exec (.temperatureLimit d) s = .next t ∧ dcGet t 0x00700010 = d.setWidth 32 ∧ t.throttled = s.throttled ∧
      t.budget = s.budget ∧ t.mem = s.mem ∧ t.dev = s.dev) ∧
    (105 ≤ d.toNat → d.toNat < 115 → ∃ t, exec (.temperatureLimit d) s = .next t ∧ t.throttled = true ∧ t.mem = s.mem ∧ t.dev = s.dev ∧
      (32 < s.budget → 32 ≤ t.budget ∧ t.budget < s.budget)) ∧
    (115 ≤ d.toNat → ∃ t, exec (.temperatureLimit d) s = .next t ∧ t.dev = .frozen ∧ ∀ pa, pa < 2 ^ 47 → t.mem.byte pa = memDefault) := by
  refine ⟨fun h => ⟨_, exec_temperatureLimit_cool d s h, dcGet_dcPut_same .., rfl, rfl, rfl, rfl⟩, fun h h' => ?_,
    fun h => ⟨_, exec_temperatureLimit_lost d s h, rfl, byte_poolOnly_hbm s.mem s.free⟩⟩
  obtain ⟨b, e, n, ht, _, hhigh⟩ := throttle_only (dcPut s 0x00700010 (d.setWidth 32))
  exact ⟨_, (exec_temperatureLimit_hot d s h h').trans (congrArg _ ht), rfl, rfl, rfl, hhigh⟩

/-- A fresh key pair makes unreadable what was stored under the old one, and nothing else (R423). -/
theorem partitionEnable_effect (s : State) (p : Nat) : ∃ t, exec (.partitionEnable p) s = .next t ∧ t.ctxs = s.ctxs ∧ t.cores = s.cores ∧
    ∀ pa, (∀ e ∈ s.mem.owner, e.2 = p + 1 → e.1 ≠ pa / 65536) → (∀ e ∈ s.mem.units, e.2 = p + 1 → e.1 ≠ pa / 128) →
      t.mem.byte pa = s.mem.byte pa :=
  ⟨loseKey s (p + 1), rfl, rfl, rfl, fun _ ho hu =>
    Memory.byte_loseKeys_other _ _ _ _ (fun e he hk => ho e he (of_decide_eq_true hk)) fun e he hk => hu e he (of_decide_eq_true hk)⟩

/-- What the mailbox's commands that need no stopped device do where it is not FROZEN (R415, R424, R425). -/
theorem mailbox_effect (s : State) (h : s.dev ≠ .frozen) :
    let ends (t : State) (r : Byte) : Prop := t.mbox.busy = false ∧ t.mbox.result = r
    let idle (t : State) : Prop := t = { s with mbox := t.mbox }
    (∀ v, regRead s none (mbNum s 0 4) = some v → ∃ t, exec .dcread s = .next t ∧ ends t 0 ∧ idle t ∧ mbGet t 0 4 = leBytes 4 v.toNat) ∧
    (regRead s none (mbNum s 0 4) = none → ∃ t, exec .dcread s = .next t ∧ ends t 3 ∧ idle t) ∧
    (∀ s2, s.dev ≠ .safe → regWrite s none (mbNum s 0 4) (BitVec.ofNat 32 (mbNum s 4 4)) = some s2 →
      ∃ t, exec .dcwrite s = .next t ∧ ends t 0 ∧ t = { s2 with mbox := t.mbox }) ∧
    (s.dev ≠ .safe → regWrite s none (mbNum s 0 4) (BitVec.ofNat 32 (mbNum s 4 4)) = none → ∃ t, exec .dcwrite s = .next t ∧ ends t 3 ∧ idle t) ∧
    (256 * mbNum s 0 4 < Config.certLen → ∃ t, exec .idcert s = .next t ∧ ends t 0 ∧ idle t) ∧
    (Config.certLen ≤ 256 * mbNum s 0 4 → ∃ t, exec .idcert s = .next t ∧ ends t 3 ∧ idle t) ∧
    (∃ t, exec .quote s = .next t ∧ ends t 0 ∧ t = { s with mbox := t.mbox, qcount := s.qcount + 1 } ∧ mbGet t 0 48 = mbGet s 0 48) ∧
    (∃ t, exec .fwstage s = .next t ∧ ends t 0 ∧
      t = { s with mbox := t.mbox, fwImage := some (BitVec.ofNat 64 (4096 * mbNum s 0 4), BitVec.ofNat 32 (mbNum s 4 4)) }) := by
  intro ends idle
  have ended (t : State) (r : Byte) (out : List Byte) : ends (mbEnd t r out) r := ⟨rfl, rfl⟩
  refine ⟨fun v hv => ⟨_, exec_dcread_register s h hv, ended .., rfl, ?read⟩, fun hv => ⟨_, exec_dcread_none s h hv, ended .., rfl⟩,
    fun s2 h' hw => ⟨_, exec_dcwrite_register s h h' hw, ended .., rfl⟩, fun h' hw => ⟨_, exec_dcwrite_none s h h' hw, ended .., rfl⟩,
    fun hc => ?chunk, fun hc => ⟨_, exec_idcert_beyond s h hc, ended .., rfl⟩, ?quote, ⟨_, exec_fwstage_staged s h, ended .., rfl⟩⟩
  case read =>
    rw [mbGet_mbEnd _ _ _ _ (leBytes_length 4 v.toNat).ge]
    exact List.take_of_length_le (leBytes_length 4 v.toNat).le
  case chunk =>
    obtain ⟨l, he⟩ := exec_idcert_chunk s h hc
    exact ⟨_, he, ended .., rfl⟩
  case quote =>
    obtain ⟨l, he⟩ := exec_quote_report s h
    refine ⟨_, he, ended .., rfl, ?_⟩
    rw [mbGet_mbEnd _ _ _ _ (by simp [mbGet_length])]
    exact List.take_left' (mbGet_length s 0 48)

theorem scanrd_effect (s : State) (h : s.dev = .frozen) :
    ∃ t, exec .scanrd s = .next t ∧ (t.mbox.busy = false ∧ t.mbox.result = 0) ∧ t = { s with mbox := t.mbox } := by
  obtain ⟨l, he⟩ := exec_scanrd_frozen s h
  exact ⟨_, he, ⟨rfl, rfl⟩, rfl⟩

theorem cxlPortFailure_effect (s : State) (p : Nat) (h : p < 2) : ∃ t, exec (.cxlPortFailure p) s = .next t ∧ p ∈ t.cxlFailed ∧ t.mem = s.mem := by
  obtain ⟨l, he, hp⟩ := exec_cxlPortFailure_port p s h
  exact ⟨_, he, hp, rfl⟩

/-- A write below 2^31 acts as the register's entry says, unless the device is FROZEN (R9, R416). -/
theorem registerWrite_effect (s : State) (a v : W32) (h : a.toNat < 2 ^ 31) :
    (s.dev = .frozen → exec (.registerWrite a v) s = .next s) ∧
    (∀ s2, s.dev ≠ .frozen → regWrite s none a.toNat v = some s2 → exec (.registerWrite a v) s = .next s2) ∧
    (s.dev ≠ .frozen → regWrite s none a.toNat v = none → exec (.registerWrite a v) s = .next s) := by
  rw [exec_registerWrite_dc a v s h]
  refine ⟨fun hf => by rw [if_pos hf], fun s2 hf hw => ?_, fun hf hw => ?_⟩
  · rw [if_neg hf, hw, Option.getD_some]
  · rw [if_neg hf, hw, Option.getD_none]

/-- Settles O53: each event by its own equation; a warm reset keeps what is RWS because the teardown of a context counts no residue mismatch. -/
theorem deviceEvents : Obligations.DeviceEvents := by
  unfold Obligations.DeviceEvents
  intro s
  refine ⟨coldReset_effect s, exec_warmReset_refused s, warmReset_effect s, selftestEnd_effect s, ?freeze, powerControl_effect s,
    temperatureLimit_effect s, partitionEnable_effect s, fun n => ⟨exec_vfEnable_ready n s, exec_vfEnable_refused n s⟩,
    fun p => ⟨cxlPortFailure_effect s p, exec_cxlPortFailure_none p s⟩, ?mailbox, registerWrite_effect s,
    fun a v x o => exec_registerWrite_window a v s, ?busy, ?starts, ?unknown, rfl, hostRead_mbstat_busy s, fun x o q => hostRead_qtail s⟩
  case freeze =>
    simp only [List.forall_mem_cons, List.not_mem_nil, false_imp_iff, implies_true, and_true]
    exact ⟨rfl, rfl⟩
  case mailbox =>
    exact ⟨fun h i hi => ⟨_, exec_mailbox_frozen s h i hi, ⟨rfl, rfl⟩, rfl⟩, fun h => ⟨_, exec_dcwrite_safe s h, ⟨rfl, rfl⟩, rfl⟩,
      fun h => ⟨_, exec_scanrd_refused s h, ⟨rfl, rfl⟩, rfl⟩, scanrd_effect s, mailbox_effect s⟩
  case busy => exact fun v h => (hostWrite_mbcmd s v).trans (mailCommand_busy s v h)
  case starts => exact fun h e he => (hostWrite_mbcmd s _).trans (mailCommand_starts s h e he)
  case unknown => exact fun v h hv => (hostWrite_mbcmd s v).trans (mailCommand_unknown s v h hv)

/-- Settles O59: each event's effect where its conditions hold, by the effects of O53. -/
theorem deviceEventsComplete : Obligations.DeviceEventsComplete := by
  unfold Obligations.DeviceEventsComplete
  intro s ok ends
  refine ⟨fun stages m v h => ?coldReset, fun h => ?warmReset, fun r h hr => ?selftest, ⟨_, rfl, rfl⟩, ⟨_, rfl, rfl⟩, fun w h => ?power,
    fun d h => ?heat, fun p => ?partition, fun n h => ⟨_, exec_vfEnable_ready n s h, rfl⟩, fun p h => ?port, fun h => ?scanrd,
    fun h => ?mailbox⟩
  case coldReset => exact ⟨_, exec_coldReset_verified s h, rfl, rfl, rfl, rfl⟩
  case warmReset =>
    obtain ⟨t, he, hdev, hctxs, hcores, _⟩ := warmReset_effect s h
    exact ⟨t, he, hdev, hctxs, hcores⟩
  case selftest => exact ⟨_, exec_selftestEnd_passed r s h hr, rfl⟩
  case power =>
    obtain ⟨above, _⟩ := powerControl_effect s w
    obtain ⟨t, he, hthrottled, hnow, _⟩ := above h
    exact ⟨t, he, hthrottled, hnow⟩
  case heat => exact ⟨_, exec_temperatureLimit_cool d s h, dcGet_dcPut_same .., rfl⟩
  case partition =>
    obtain ⟨t, he, hctxs, hcores, _⟩ := partitionEnable_effect s p
    exact ⟨t, he, hcores, hctxs⟩
  case port =>
    obtain ⟨t, he, hp, _⟩ := cxlPortFailure_effect s p h
    exact ⟨t, he, hp⟩
  case scanrd =>
    obtain ⟨t, he, hend, _⟩ := scanrd_effect s h
    exact ⟨t, he, hend⟩
  case mailbox =>
    obtain ⟨hread, _, hwrite, _, hcert, _, ⟨tq, hq, hqend, hqs, _⟩, ⟨tf, hf, hfend, hfs⟩⟩ := mailbox_effect s h
    refine ⟨fun v hv => ?_, hwrite, fun hc => ?_, ⟨tq, hq, hqend, by rw [hqs]⟩, ⟨tf, hf, hfend, by rw [hfs]⟩, fun a v s2 ha => ?_⟩
    · obtain ⟨t, he, hend, _, hget⟩ := hread v hv
      exact ⟨t, he, hend, hget⟩
    · obtain ⟨t, he, hend, _⟩ := hcert hc
      exact ⟨t, he, hend⟩
    · obtain ⟨_, hregister, _⟩ := registerWrite_effect s a v ha
      exact hregister s2 h

end Sys2Proof.Machine
end

section
/-! Words (R28, R36, R42-R47): every instruction's word decodes to it, a word that decodes is the word
of what it decodes to, and the spec's own examples decode as it says. -/

namespace Sys2Proof.Laws.RoundTrip

/-- Every instruction: one law for each word; an event has no word. -/
theorem statement : (i : Instr) → Statement i
  | .nop st h o => nop st h o | .align st h o => align st h o | .stop st h o => stop st h o | .loop st h o => loop st h o
  | .endl st h o => endl st h o | .brk st h o => brk st h o | .ldlit st h o => ldlit st h o | .pool st h o => pool st h o | .br st h o => br st h o
  | .add h o => add h o | .sub h o => sub h o | .mul h o => mul h o | .mulh h o => mulh h o | .div h o => div h o | .rem h o => rem h o
  | .mad h o => mad h o | .min h o => min h o | .max h o => max h o | .and h o => and h o | .or h o => or h o | .xor h o => xor h o
  | .andn h o => andn h o | .shl h o => shl h o | .shr h o => shr h o | .sar h o => sar h o | .rot h o => rot h o | .clz h o => clz h o
  | .ctz h o => ctz h o | .popc h o => popc h o | .bfx h o => bfx h o | .bfi h o => bfi h o | .ext h o => ext h o | .sel h o => sel h o
  | .cmp h o => cmp h o | .movi h o => movi h o | .movh h o => movh h o | .mov h o => mov h o | .keep h o => keep h o | .pand h o => pand h o
  | .por h o => por h o | .pxor h o => pxor h o | .pnot h o => pnot h o | .fadd h o => fadd h o | .fsub h o => fsub h o | .fmul h o => fmul h o
  | .ffma h o => ffma h o | .fdiv h o => fdiv h o | .fsqrt h o => fsqrt h o | .fmin h o => fmin h o | .fmax h o => fmax h o | .fcmp h o => fcmp h o
  | .fcvt h o => fcvt h o | .fclass h o => fclass h o | .call h o => call h o | .ret h o => ret h o | .jmp h o => jmp h o | .swt h o => swt h o
  | .mvcr h o => mvcr h o | .mvrc h o => mvrc h o | .clk h o => clk h o | .trap h o => trap h o | .evpost h o => evpost h o | .sysr h o => sysr h o
  | .sysw h o => sysw h o | .owait h o => owait h o | .otest h o => otest h o | .ojoin h o => ojoin h o | .ocancel h o => ocancel h o
  | .odetach h o => odetach h o | .oadopt h o => oadopt h o | .orelease h o => orelease h o | .oprio h o => oprio h o | .ofault h o => ofault h o
  | .lease h o => lease h o | .unlease h o => unlease h o | .lquery h o => lquery h o | .colrs h o => colrs h o | .colag h o => colag h o
  | .colar h o => colar h o | .cola2a h o => cola2a h o | .colbc h o => colbc h o | .colcmb h o => colcmb h o | .rtopk h o => rtopk h o
  | .rplan h o => rplan h o | .sortkv h o => sortkv h o | .gathr h o => gathr h o | .scatr h o => scatr h o | .sfnap h o => sfnap h o
  | .cdpack h o => cdpack h o | .cdunpk h o => cdunpk h o | .qlaunch h o => qlaunch h o | .qsignal h o => qsignal h o | .gid h o => gid h o
  | .grank h o => grank h o | .gsize h o => gsize h o | .gpeer h o => gpeer h o | .gshare h o => gshare h o | .gclaim h o => gclaim h o
  | .barinit h o => barinit h o | .barrive h o => barrive h o | .barwait h o => barwait h o | .bartest h o => bartest h o
  | .barleave h o => barleave h o | .glzs h o => glzs h o | .glza h o => glza h o | .glzq h o => glzq h o | .vadd h o => vadd h o
  | .vsub h o => vsub h o | .vmul h o => vmul h o | .vfma h o => vfma h o | .vmin h o => vmin h o | .vmax h o => vmax h o | .vabs h o => vabs h o
  | .vneg h o => vneg h o | .vdiv h o => vdiv h o | .vsqrt h o => vsqrt h o | .vrcp h o => vrcp h o | .vrsqrt h o => vrsqrt h o
  | .vexp2 h o => vexp2 h o | .vlog2 h o => vlog2 h o | .vand h o => vand h o | .vor h o => vor h o | .vxor h o => vxor h o | .vshl h o => vshl h o
  | .vshr h o => vshr h o | .vsar h o => vsar h o | .vcmp h o => vcmp h o | .vsel h o => vsel h o | .vwadd h o => vwadd h o | .vwmul h o => vwmul h o
  | .vscan h o => vscan h o | .vred h o => vred h o | .vperm h o => vperm h o | .vbcast h o => vbcast h o | .vrot h o => vrot h o
  | .vcomp h o => vcomp h o | .vcvt h o => vcvt h o | .vmxq h o => vmxq h o | .vmxd h o => vmxd h o | .vsatr h o => vsatr h o
  | .vseed h o => vseed h o | .vrand h o => vrand h o | .vpop h o => vpop h o | .vpush h o => vpush h o | .vtrd h o => vtrd h o
  | .vtwr h o => vtwr h o | .vmov h o => vmov h o | .vext h o => vext h o | .vins h o => vins h o | .vpand h o => vpand h o | .vpor h o => vpor h o
  | .vpnot h o => vpnot h o | .vpcnt h o => vpcnt h o | .aAdd h o => aAdd h o | .aSub h o => aSub h o | .aShl h o => aShl h o | .aMul h o => aMul h o
  | .aMovi h o => aMovi h o | .aMov h o => aMov h o | .bcmp h o => bcmp h o | .ld h o => ld h o | .ldq h o => ldq h o | .ldx h o => ldx h o
  | .st h o => st h o | .stq h o => stq h o | .stx h o => stx h o | .pf h o => pf h o | .amo h o => amo h o | .amoswp h o => amoswp h o
  | .amocas h o => amocas h o | .fence h o => fence h o | .acq h o => acq h o | .rel h o => rel h o | .bind h o => bind h o
  | .unbind h o => unbind h o | .cpy h o => cpy h o | .cstage h o => cstage h o | .lfe h o => lfe h o | .oqst h o => oqst h o | .bdot h o => bdot h o
  | .bdmode h o => bdmode h o | .pmig h o => pmig h o | .tzero h o => tzero h o | .tld h o => tld h o | .tst h o => tst h o | .tmov h o => tmov h o
  | .tfill h o => tfill h o | .tcvt h o => tcvt h o | .tadd h o => tadd h o | .tmul h o => tmul h o | .tscale h o => tscale h o
  | .trmax h o => trmax h o | .trsum h o => trsum h o | .rmset h o => rmset h o | .cmset h o => cmset h o | .wlease h o => wlease h o
  | .wload h o => wload h o | .wdot h o => wdot h o | .wtdot h o => wtdot h o | .wouter h o => wouter h o | .wdrain h o => wdrain h o
  | .wclr h o => wclr h o | .wrel h o => wrel h o | .wpair h o => wpair h o
  | .resultDelivery .. | .tileWriteDelivery .. | .haltFinish .. | .debugHold .. | .debugStep .. | .debugStepA .. | .opdbgrel .. | .scanAdmit ..
  | .withdraw .. | .withdrawAll .. | .residencyDone .. | .nodeStart .. | .nodeEnd .. | .dispatcherRound | .nodeRelease .. | .nodeFinish ..
  | .waitNodeSatisfied .. | .qtailWrite .. | .queueEnableWrite .. | .queueSuspend .. | .queueResume .. | .queueDrain .. | .queueDead ..
  | .launchAppend .. | .homeRequestArrival .. | .barrierMulticast .. | .predecessorFinished .. | .operationStart .. | .operationComplete ..
  | .operationFailure .. | .priorityAging .. | .arrayRunStart .. | .arrayRunLimit .. | .arrayCommandStart .. | .arrayCommandComplete ..
  | .drainRowAccepted .. | .pairTimeout .. | .leaseQueueEntry .. | .leaseGrant .. | .wakeDone .. | .quantumEnd .. | .engineYield ..
  | .forcedEviction .. | .scrubDone .. | .drowsyTimeout .. | .sleepTimeout .. | .engineCommandStart .. | .engineUnitDone .. | .copyLineDelivery ..
  | .copyNodeRun .. | .signalNodeRun .. | .replay .. | .walkReturn .. | .pageTouch .. | .pageMoveDone .. | .decayPeriod .. | .dotModeChangeDone ..
  | .bankDotRow .. | .droopWindow .. | .tlbiPage .. | .tlbiFunction .. | .tlbiAll | .rowval .. | .ctxCreate | .switchOut .. | .preemptWaitExpiry ..
  | .deadlineExpiry .. | .switchIn .. | .ctxRecover .. | .ctxDestroy .. | .teardownDone .. | .migrateOut .. | .migrateIn ..
  | .migrationTargetTimeout .. | .pageHandover .. | .ownerTokenArrival .. | .migrationAbort .. | .tombstoneLapse .. | .formationTimeout ..
  | .signalDetected .. | .trainingEnd .. | .retrainTrigger .. | .retrain .. | .portEnableWrite .. | .flitReceived .. | .nakReceived ..
  | .replayTimeout .. | .msgLoad .. | .msgLoadReply .. | .msgStore .. | .msgStoreAck .. | .msgAtomic .. | .msgAtomicReply .. | .msgCollective ..
  | .msgBarrier .. | .msgConnectionControl .. | .msgShardDelivery .. | .msgMoved .. | .msgRefusal .. | .msgContextTransfer .. | .msgAbort ..
  | .parkNotice .. | .resumeNotice .. | .connopenTimeout .. | .retransmission .. | .connidleTimeout .. | .connbackoffExpiry ..
  | .connectionDrained .. | .connectionSpill .. | .osyncEdge | .slotStart | .slotCommit | .ringHeatWrite .. | .ringSettled .. | .ringMapWrite ..
  | .chunkApply .. | .coldReset .. | .warmReset | .selftestEnd .. | .freeze | .freezeN | .powerControl .. | .temperatureLimit ..
  | .partitionEnable .. | .vfEnable .. | .cxlPortFailure .. | .dcread | .dcwrite | .idcert | .quote | .fwstage | .scanrd | .registerWrite ..
  | .rconsWrite .. | .fetchMissArrival .. => fun _ _ h _ => nomatch h

end Sys2Proof.Laws.RoundTrip

namespace Sys2Proof

/-! ## The fields of a word put together again (R28, R36) -/

theorem frOf_enc (w : W64) : (frOf w).enc = w.extractLsb' 0 40 := by
  simp only [frOf, FR.enc, BitVec.extractLsb'_append_extractLsb'_eq_extractLsb']

theorem fiOf_enc (w : W64) : (fiOf w).enc = w.extractLsb' 0 40 := by
  simp only [fiOf, FI.enc, BitVec.extractLsb'_append_extractLsb'_eq_extractLsb']

theorem fbOf_enc (w : W64) : (fbOf w).enc = w.extractLsb' 0 40 := by
  simp only [fbOf, FB.enc, BitVec.extractLsb'_append_extractLsb'_eq_extractLsb']

theorem flOf_enc (w : W64) : (flOf w).enc = w.extractLsb' 0 40 := by
  simp only [flOf, FL.enc, BitVec.extractLsb'_append_extractLsb'_eq_extractLsb']

theorem fmOf_enc (w : W64) : (fmOf w).enc = w.extractLsb' 0 40 := by
  simp only [fmOf, FM.enc, BitVec.extractLsb'_append_extractLsb'_eq_extractLsb']

theorem foOf_enc (w : W64) : (foOf w).enc = w.extractLsb' 0 40 := by
  simp only [foOf, FO.enc, BitVec.extractLsb'_append_extractLsb'_eq_extractLsb']

theorem ftOf_enc (w : W64) : (ftOf w).enc = w.extractLsb' 0 40 := by
  simp only [ftOf, FT.enc, BitVec.extractLsb'_append_extractLsb'_eq_extractLsb']

theorem fwOf_enc (w : W64) : (fwOf w).enc = w.extractLsb' 0 40 := by
  simp only [fwOf, FW.enc, BitVec.extractLsb'_append_extractLsb'_eq_extractLsb']

/-- The header, the opcode and the operand field are the whole word. -/
theorem packWord_fields (w : W64) : packWord (hdrOf w) (w.extractLsb' 40 8) (w.extractLsb' 0 40) = w := by
  simp only [packWord, hdrOf, BitVec.extractLsb'_append_extractLsb'_eq_extractLsb']
  exact BitVec.extractLsb'_eq_self

/-- `i` is a word of stream `st` with opcode `op`, and its header and operand field are those of the bits `w`. -/
structure Reads (st : StreamId) (op : Nat) (w : W64) (i : Instr) : Prop where
  stream : Machine.wordStream i = some st
  hdr : Machine.wordHdr i = some (hdrOf w)
  opcode : (opcodeOf i).toNat = op
  operand : operandBits i = w.extractLsb' 0 40

theorem Reads.encode {st : StreamId} {w : W64} {i : Instr} (h : Reads st (w.extractLsb' 40 8).toNat w i) : encode i = some w := by
  obtain ⟨_, hdr, opcode, operand⟩ := h
  simp only [Sys2Proof.encode, hdr, operand, BitVec.eq_of_toNat_eq opcode, packWord_fields]

theorem decodeCommon_reads {st : StreamId} {op : Nat} {w : W64} {i : Instr} (h : decodeCommon st op w = some i) : Reads st op w i := by
  unfold decodeCommon at h
  split at h
  case h_10 => contradiction
  all_goals cases h
  case h_1 | h_2 | h_3 => exact ⟨rfl, rfl, rfl, rfl⟩
  case h_4 | h_5 => exact ⟨rfl, rfl, rfl, flOf_enc w⟩
  case h_6 | h_7 | h_8 => exact ⟨rfl, rfl, rfl, fiOf_enc w⟩
  case h_9 => exact ⟨rfl, rfl, rfl, fbOf_enc w⟩

theorem decodeS_reads {op : Nat} {w : W64} {i : Instr} (h : decodeS op w = some i) : Reads .S op w i := by
  unfold decodeS at h
  split at h
  case h_98 => contradiction
  all_goals
    cases h
    refine ⟨rfl, rfl, rfl, ?_⟩
    simp only [operandBits, frOf_enc, fiOf_enc, fbOf_enc, foOf_enc, noOf]

theorem decodeV_reads {op : Nat} {w : W64} {i : Instr} (h : decodeV op w = some i) : Reads .V op w i := by
  unfold decodeV at h
  split at h
  case h_48 => contradiction
  all_goals
    cases h
    refine ⟨rfl, rfl, rfl, ?_⟩
    simp only [operandBits, frOf_enc, fiOf_enc, ftOf_enc]

theorem decodeA_reads {op : Nat} {w : W64} {i : Instr} (h : decodeA op w = some i) : Reads .A op w i := by
  unfold decodeA at h
  split at h
  case h_30 => contradiction
  all_goals
    cases h
    refine ⟨rfl, rfl, rfl, ?_⟩
    simp only [operandBits, frOf_enc, fiOf_enc, fmOf_enc, foOf_enc]

theorem decodeX_reads {op : Nat} {w : W64} {i : Instr} (h : decodeX op w = some i) : Reads .X op w i := by
  unfold decodeX at h
  split at h
  case h_23 => contradiction
  all_goals
    cases h
    refine ⟨rfl, rfl, rfl, ?_⟩
    simp only [operandBits, frOf_enc, foOf_enc, ftOf_enc, fwOf_enc]

/-- The words of a stream's own map (R44-R47). -/
def ownMap : StreamId → Nat → W64 → Option Instr
  | .S => decodeS | .V => decodeV | .A => decodeA | .X => decodeX

theorem ownMap_reads {st : StreamId} {op : Nat} {w : W64} {i : Instr} (h : ownMap st op w = some i) : Reads st op w i := by
  cases st
  case S => exact decodeS_reads h
  case V => exact decodeV_reads h
  case A => exact decodeA_reads h
  case X => exact decodeX_reads h

/-- An instruction that `decode` answers stands in the common block or in the stream's own map (R42). -/
theorem map_of_decode {st : StreamId} {w : W64} {i : Instr} (h : decode st w = .ok i) :
    decodeCommon st (w.extractLsb' 40 8).toNat w = some i ∨ ownMap st (w.extractLsb' 40 8).toNat w = some i := by
  have hm : decode st w = match (decodeCommon st (w.extractLsb' 40 8).toNat w).or (ownMap st (w.extractLsb' 40 8).toNat w) with
      | some i => .ok i
      | none => .error (.unassigned st (w.extractLsb' 40 8).toNat) := by
    unfold decode
    cases st <;> rfl
  rw [hm] at h
  split at h
  next j hj =>
    cases h
    exact (Option.or_eq_some_iff.mp hj).imp id And.right
  next => contradiction

/-- The word of an instruction is read whole. -/
theorem reads_of_decode {st : StreamId} {w : W64} {i : Instr} (h : decode st w = .ok i) : Reads st (w.extractLsb' 40 8).toNat w i :=
  (map_of_decode h).elim decodeCommon_reads ownMap_reads

/-- Settles O2: each word has its law under `Laws.RoundTrip`. -/
theorem decodeEncode : Obligations.DecodeEncode := fun i st w hs he => Laws.RoundTrip.statement i st w hs he

/-- Settles O3: a decoded instruction has the word's stream, header, opcode and operand field, which are all its bits. -/
theorem decodeKeepsEveryBit : Obligations.DecodeKeepsEveryBit :=
  fun _ _ _ h => ⟨(reads_of_decode h).stream, (reads_of_decode h).encode⟩

/-- Settles O1: each word decodes by evaluation; the last two have opcodes that their maps leave unassigned. -/
theorem specWordsDecode : Obligations.SpecWordsDecode := ⟨rfl, rfl, rfl, rfl, rfl, rfl, rfl, rfl, rfl, rfl, rfl, rfl⟩

end Sys2Proof
end

section
/-! The step (R11, R12, R42, R58, R90-R93, R344, R416): every instruction has a next state; which word comes next where one is due; the
FROZEN device. -/

namespace Sys2Proof.Machine

/-! ## Every instruction has a next state (R42, R98, R344) -/

/-- A mailbox command that is refused ends with a result, as one that is served does (R425). -/
theorem mbRefused_next (s : State) (ok : Bool) (f : State → State) : ∃ t, mbRefused s ok f = .next t := by
  cases ok
  · exact ⟨_, mbRefused_refused s f rfl⟩
  · exact ⟨_, mbRefused_ok s f rfl⟩

/-- Settles O7: a word answers its issue, a mailbox command its end, every other event the state it names. -/
theorem noInstructionStops : Obligations.NoInstructionStops := by
  intro i s
  cases i
  case dcread => exact show ∃ t, execDcread s = .next t from mbRefused_next ..
  case dcwrite => exact show ∃ t, execDcwrite s = .next t from mbRefused_next ..
  case idcert => exact show ∃ t, execIdcert s = .next t from mbRefused_next ..
  case quote => exact show ∃ t, execQuote s = .next t from mbRefused_next ..
  case fwstage => exact show ∃ t, execFwstage s = .next t from mbRefused_next ..
  case scanrd => exact show ∃ t, execScanrd s = .next t from mbRefused_next ..
  all_goals exact ⟨_, rfl⟩

/-! ## The due word of a stream (R57, R90) -/

theorem State.getC_head {s : State} {k : Nat} {c : Core} {l : List (Nat × Core)} (h : s.cores = (k, c) :: l) : s.getC k = c := by
  simp [State.getC, h, sget]

/-- A core none of whose accesses waits has none to try again (R152). -/
theorem advanceAcc_none {s : State} {k : Nat} (h : (s.getC k).aPending = false) : advanceAcc s k = none := by
  have hf : (s.getC k).aFlight.find? (fun g => g.acc.isSome) = none := by
    rw [List.find?_eq_none]
    exact List.any_eq_false.mp h
  unfold advanceAcc
  dsimp only
  rw [hf]

/-- The word that a stream's instruction cache holds at its pc (R57, R93). -/
theorem wordAt_decoded {c : Core} {st : StreamId} {w : W64} {i : Instr} (hw : sfind (c.str st).cache (c.str st).pc = some w)
    (hd : decode st w = .ok i) : wordAt c st = some i := by
  simp [wordAt, hw, hd]

theorem trioWordDue_not_live {c : Core} {st : StreamId} (h : (c.str st).st.live = false) : trioWordDue c st = false := by
  simp [trioWordDue, h]

/-- The one live stream of a trio is the one with a due word. -/
theorem trio_due_single {c : Core} {st : StreamId} (hA : st ≠ .A) (ho : ∀ st', st' ≠ st → (c.str st').st.live = false)
    (h : trioWordDue c st = true) : trio.filter (trioWordDue c) = [st] := by
  have off : ∀ st', st' ≠ st → trioWordDue c st' = false := fun st' hs => trioWordDue_not_live (ho st' hs)
  cases st
  case A => exact absurd rfl hA
  all_goals simp [trio, h, off]

/-! ## What a core does next (R90-R92, R152) -/

/-- The due word of A, where no earlier access of A waits. -/
theorem pickAcc_word {s : State} {k : Nat} {i : Instr} (hp : (s.getC k).aPending = false) (ht : (s.getC k).aTime ≤ s.now)
    (hl : (s.getC k).a.st.live = true) (hw : wordAt (s.getC k) .A = some i) (hh : (s.getC k).dbg.hold = false)
    (hq : acquireOpen (s.getC k) = false) : pickAcc s k = .word i { s with cur := k } := by
  unfold pickAcc
  rw [advanceAcc_none hp]
  simp [pickA, Nat.not_lt.mpr ht, hl, hw, hh, hq]

/-- A stream A that has ended does nothing. -/
theorem pickAcc_none {s : State} {k : Nat} (hp : (s.getC k).aPending = false) (hl : (s.getC k).a.st.live = false) : pickAcc s k = .none := by
  unfold pickAcc
  rw [advanceAcc_none hp]
  simp [pickA, hl]

/-- The due word of the only live stream of a trio whose freeze line it does not raise. -/
theorem pickTrio_word {s : State} {k : Nat} {st : StreamId} {i : Instr} (ht : (s.getC k).tTime ≤ s.now) (hh : (s.getC k).dbg.hold = false)
    (hs : (s.getC k).seqs = []) (hdue : trio.filter (trioWordDue (s.getC k)) = [st]) (hw : wordAt (s.getC k) st = some i)
    (ha : ((s.getC k).str st).atAlign ≠ some 0)
    (hf : (((execState i ({ s with cur := k }.modC k Core.lineLow)).getC k).str st).st ≠ .frozen) :
    pickTrio s k = .word i { s with cur := k } := by
  simp [pickTrio, pickMoves, holdsTrio, Nat.not_lt.mpr ht, hh, hs, hdue, hw, ha, hf]

section
variable {s t : State} {k : Nat} {l : List Nat} {i : Instr}
  (hi : (s.getC k).inst.isSome = true) (hs : (s.getC k).started = true) (ha : (s.getC k).away = false)
include hi hs ha

/-- A core that runs a node: its A acts first (R92). -/
theorem pickCore_acc (h : pickAcc s k = .word i t) : pickCore s (k :: l) = .word i t := by
  simp [pickCore, Option.isNone_eq_false_iff.mpr hi, hs, ha, h]

/-- Its trio acts where its A does nothing. -/
theorem pickCore_trio (hn : pickAcc s k = .none) (h : pickTrio s k = .word i t) : pickCore s (k :: l) = .word i t := by
  simp [pickCore, Option.isNone_eq_false_iff.mpr hi, hs, ha, hn, h]

end

/-- With nothing on the agenda and no delivery due, a word that some core runs next is the step. -/
theorem step_of_pickCore_word {s t : State} {i : Instr} (hd : s.dev ≠ .frozen) (ha : s.agenda = []) (hdel : dueDelivery s = none)
    (hp : pickCore s (s.cores.map (·.1)) = .word i t) : step s = exec i t := by
  have hpick : pick s = .word i t := by simp [pick, hdel, hp]
  simp [step, hd, ha, hpick]

theorem stepRunsTheDueWordRule : StepRunsTheDueWordRule := by
  intro s k c l w i hdev hagenda hcores hdel hinst hstarted haway hhold hpend
  obtain rfl : s.getC k = c := State.getC_head hcores
  have step_of {t : State} (h : pickCore s (k :: l.map (·.1)) = .word i t) : step s = exec i t :=
    step_of_pickCore_word hdev hagenda hdel (by rw [hcores]; exact h)
  constructor
  · intro htime hlive hacq hcache hdec
    have hw : wordAt (s.getC k) .A = some i := wordAt_decoded hcache hdec
    exact step_of (pickCore_acc hinst hstarted haway (pickAcc_word hpend htime hlive hw hhold hacq))
  · intro st hA hAlive hothers htime hseqs hdue halign hcache hdec hfrozen
    have hT : pickTrio s k = .word i { s with cur := k } :=
      pickTrio_word htime hhold hseqs (trio_due_single hA hothers hdue) (wordAt_decoded hcache hdec) halign hfrozen
    exact step_of (pickCore_trio hinst hstarted haway (pickAcc_none hpend hAlive) hT)

/-- A FROZEN device serves what its management processor has to do, or stands. -/
theorem frozenDeviceStandsRule : FrozenDeviceStandsRule := by
  intro s h
  refine ⟨fun hn => ?_, fun e he => ?_⟩
  · simp only [step, h, hn, if_pos]
  · simp only [step, h, he, if_pos]

/-- Settles O8: the first core picks the due word, A before the trio, and a FROZEN device looks at its managed events only. -/
theorem stepRunsTheDueWord : Obligations.StepRunsTheDueWord := ⟨stepRunsTheDueWordRule, frozenDeviceStandsRule⟩

end Sys2Proof.Machine
end

section
/-! Words that do not start (R37, R89, R91, R92, R102): one whose guard is false, and one that waits for a token queue. -/

namespace Sys2Proof.Machine

/-- A change of the executing core changes nothing else. -/
theorem onlyCore_setCore (s : State) (c : Core) : OnlyCore s (s.setCore c) :=
  ⟨rfl, fun _ h => s.getC_setCore_other _ c h⟩

/-- A word that starts with a false guard only takes its slot; it pushes zero where its opcode gives a result (R37). -/
theorem runWord_guardFalse {i : Instr} {st : StreamId} {h : Hdr} {g : BitVec 4} {z : Option Nat} {s : State} {body : State → Act}
    (hr : canRun s st = true) (ht : s.core.tokState st h = .ok) (ha : accepted (s.coreService s.core) i = true)
    (hg : guardTrue s.core st g = some false) : runWord i st h g z s body = .next (finishWord st h (zeroRes st z) (startWord st s)) := by
  simp [runWord, issue, hr, ht, ha, hg]

/-- A word whose tokens are absent, or whose PUSH queue is full, stalls its stream (R91, R102). -/
theorem runWord_tokens {i : Instr} {st : StreamId} {h : Hdr} {g : BitVec 4} {z : Option Nat} {s : State} {body : State → Act}
    (hr : canRun s st = true) (ht : s.core.tokState st h = .absent ∨ s.core.tokState st h = .full) :
    runWord i st h g z s body = .next (stall st s) := by
  rcases ht with ht | ht <;> simp [runWord, issue, hr, ht]

/-! ## What a stall changes (R89, R91, R92) -/

theorem stall_onlyCore (st : StreamId) (s : State) : OnlyCore s (stall st s) := onlyCore_setCore ..

theorem stall_tokens (st : StreamId) (s : State) : (stall st s).core.tokens = s.core.tokens := by
  unfold stall
  cases st <;> simp

theorem stall_named (st : StreamId) (s : State) : (stall st s).core.named = s.core.named := by
  unfold stall
  cases st <;> simp

theorem stall_flight (st : StreamId) (s : State) : (stall st s).core.flight = s.core.flight := by
  unfold stall
  cases st <;> simp

/-- A live stream that does not wait at `align` is held at its word. -/
theorem stall_str {st : StreamId} {s : State} (hl : (s.core.str st).st.live = true) (ha : (s.core.str st).atAlign = none) :
    (stall st s).core.str st = { s.core.str st with st := if st = .A then .blocked else .frozen } := by
  have hw : ((s.core.str st).st.live && (s.core.str st).atAlign.isNone) = true := by simp [hl, ha]
  unfold stall
  rw [State.core_setCore]
  dsimp only
  cases st <;> simp only [Core.modStr, hw, if_true] <;> rfl

/-! ## The statement -/

theorem guardFalseWordRule : GuardFalseWordRule := by
  intro h o s hr ht
  have zero {i : Instr} {lat : Nat} {body : State → Act} (ha : accepted (s.coreService s.core) i = true)
      (hg : guardTrue s.core .S o.g = some false) : runWord i .S h o.g (some lat) s body =
        .next (finishWord .S h { res := some { val := .scalar 0, dest := .none, lat := lat } } (startWord .S s)) :=
    runWord_guardFalse hr ht ha hg
  exact ⟨zero, zero, zero, zero, zero, zero⟩

theorem tokensHoldAWordRule : TokensHoldAWordRule := by
  intro st h o s hr ha ht
  have hl : (s.core.str st).st.live = true := by
    unfold canRun at hr
    exact (Bool.and_eq_true _ _ ▸ hr).2
  have hs := stall_str hl ha
  exact ⟨stall st s, runWord_tokens hr ht, stall_onlyCore st s, fun pa => by rw [stall_mem], by rw [hs], by rw [hs],
    stall_tokens st s, stall_named st s, stall_flight st s⟩

/-- Settles O9: a false guard leaves the zero result, and a stall holds the stream and nothing else. -/
theorem guardsAndTokens : Obligations.GuardsAndTokens := ⟨guardFalseWordRule, tokensHoldAWordRule⟩

end Sys2Proof.Machine
end

section
/-! The deliveries of a core (R93, R96, R97, R153, R202): what one delivered result changes and leaves, what is due, the order of two results,
tile writes and fetched words. -/

namespace Sys2Proof.Machine

/-! ## Writing a destination (R33, R34, R119) -/

theorem Core.reg_setReg (c : Core) (n m : Nat) (v : W32) : (c.setReg n v).reg m = if m = n then { val := v, valid := true } else c.reg m := by
  unfold Core.reg Core.setReg
  split_ifs with h
  · rw [h]
    exact sget_sput_same ..
  · exact sget_sput_other _ _ _ _ _ h

theorem Core.vec_setVec (c : Core) (n : Nat) (mask : W64) (l : List W32) : (c.setVec n mask l).vec n =
    { lanes := (List.range 64).map fun i => if mask.getLsbD i then l.getD i 0 else (c.vec n).lane i, valid := true } :=
  sget_sput_same ..

theorem getLsbD_putBit {w : Nat} (x : BitVec w) {n j : Nat} (b : Bool) (hj : j < w) :
    (putBit x n b).getLsbD j = if j = n then b else x.getLsbD j := by
  unfold putBit
  by_cases h : j = n
  · subst h
    cases b <;> simp [hj]
  · cases b <;> simp [hj, h] <;> omega

theorem Core.setRegs_only (c : Core) (n w : Nat) (v : W128) : ∃ m, c.setRegs n w v = { c with named := m } := by
  induction w generalizing c n v with
  | zero => exact ⟨c.named, rfl⟩
  | succ w ih =>
    obtain ⟨m, hm⟩ := ih (c.setReg n (v.setWidth 32)) (n + 1) (v >>> 32)
    exact ⟨m, hm⟩

/-- What a written destination leaves of its core: the streams, the token queues and the debug block. -/
structure KeepsStreams (c e : Core) : Prop where
  str : ∀ st, e.str st = c.str st
  tokens : e.tokens = c.tokens
  dbg : e.dbg = c.dbg

theorem Core.writeCtl_keeps (c : Core) (n : Nat) (v : W32) : KeepsStreams c (c.writeCtl n v) := by
  unfold Core.writeCtl
  split_ifs <;> exact ⟨fun st => by cases st <;> rfl, rfl, rfl⟩

theorem Core.writeSys_keeps (c : Core) (n : Nat) (v : W32) : KeepsStreams c (c.writeSys n v) := by
  unfold Core.writeSys
  split_ifs <;> exact ⟨fun st => by cases st <;> rfl, rfl, rfl⟩

theorem Core.writeDest_keeps (c : Core) (v : QVal) (d : Dest) : KeepsStreams c (c.writeDest v d) := by
  cases d
  case named n w =>
    obtain ⟨m, hm⟩ := c.setRegs_only n w v.bits
    rw [show c.writeDest v (.named n w) = { c with named := m } from hm]
    exact ⟨fun st => by cases st <;> rfl, rfl, rfl⟩
  case ctl n => exact c.writeCtl_keeps ..
  case sys n => exact c.writeSys_keeps ..
  case vec n wide mask => cases wide <;> exact ⟨fun st => by cases st <;> rfl, rfl, rfl⟩
  all_goals exact ⟨fun st => by cases st <;> rfl, rfl, rfl⟩

/-! ## Delivering one result (R96, R97) -/

/-- A result enters its stream's result queue, where it is one of those that enter (R33). -/
def Core.enter (c : Core) (f : InFlight) : Core :=
  if f.enters then c.modStr f.stream fun m => { m with rq := (f.val :: m.rq).take 16 } else c

theorem Core.deliver_eq (c : Core) (f : InFlight) : c.deliver f = (c.enter f).writeDest f.val f.dest := rfl

theorem Core.enter_str (c : Core) (f : InFlight) (st : StreamId) : (c.enter f).str st =
    { c.str st with rq := if f.enters = true ∧ st = f.stream then (f.val :: (c.str st).rq).take 16 else (c.str st).rq } := by
  unfold Core.enter
  by_cases he : f.enters = true
  · by_cases hs : st = f.stream
    · subst hs
      simp [he]
    · simp [he, hs, Core.str_modStr_other]
  · simp [he]

section
variable (c : Core) (f : InFlight)

@[simp] theorem Core.enter_named : (c.enter f).named = c.named := by unfold Core.enter; split_ifs <;> simp
@[simp] theorem Core.enter_vecs : (c.enter f).vecs = c.vecs := by unfold Core.enter; split_ifs <;> simp
@[simp] theorem Core.enter_preds : (c.enter f).preds = c.preds := by unfold Core.enter; split_ifs <;> simp
@[simp] theorem Core.enter_apreds : (c.enter f).apreds = c.apreds := by unfold Core.enter; split_ifs <;> simp
@[simp] theorem Core.enter_tokens : (c.enter f).tokens = c.tokens := by unfold Core.enter; split_ifs <;> simp
@[simp] theorem Core.enter_dbg : (c.enter f).dbg = c.dbg := by unfold Core.enter; split_ifs <;> simp
@[simp] theorem Core.enter_reg (n : Nat) : (c.enter f).reg n = c.reg n := by unfold Core.reg; rw [Core.enter_named]
@[simp] theorem Core.enter_vec (n : Nat) : (c.enter f).vec n = c.vec n := by unfold Core.vec; rw [Core.enter_vecs]

theorem Core.deliver_str (st : StreamId) : (c.deliver f).str st = (c.enter f).str st := ((c.enter f).writeDest_keeps ..).str st
theorem Core.deliver_tokens : (c.deliver f).tokens = c.tokens := ((c.enter f).writeDest_keeps ..).tokens.trans (c.enter_tokens f)
theorem Core.deliver_dbg : (c.deliver f).dbg = c.dbg := ((c.enter f).writeDest_keeps ..).dbg.trans (c.enter_dbg f)

end

/-! ## What is due (R96, R97, R153) -/

/-- A core none of whose words in flight is of A has nothing of A due. -/
theorem Core.aDue_trio {c : Core} {now : Nat} (h : ∀ f ∈ c.flight, f.stream ≠ .A) : c.aDue now = [] := by
  have ha : c.aFlight = [] := List.filter_eq_nil_iff.mpr fun f hf => by simp [h f hf]
  simp [Core.aDue, Core.aPast, ha, aReady]

/-- The due result of a trio stream that is alone in flight. -/
theorem Core.due_trio {c : Core} {f : InFlight} {now d : Nat} (hf : c.flight = [f]) (hs : f.stream ≠ .A) (ht : f.tokens = 0)
    (hd : f.due = some d) (hle : d ≤ c.clk) : c.trioDue ++ c.aDue now = [f] := by
  have hn : c.aDue now = [] := Core.aDue_trio (by simpa [hf] using hs)
  simp [Core.trioDue, hn, hf, hs, ht, hd, hle, insertDue]

/-- The finished word of A that is alone in flight and has passed its checks: it delivers its result, or it only ends. -/
theorem Core.due_a {c : Core} {f : InFlight} {now d : Nat} (hf : c.flight = [f]) (hs : f.stream = .A) (ht : f.tokens = 0)
    (hd : f.due = some d) (hle : d ≤ now) (hfab : f.fab = none) (hacc : f.acc = none) : c.trioDue ++ c.aDue now = [f] := by
  have hu : f.unpassed = false := by simp [InFlight.unpassed, hfab, hacc]
  have htrio : c.trioDue = [] := by simp [Core.trioDue, hf, hs]
  have ha : c.aFlight = [f] := by simp [Core.aFlight, hf, hs]
  cases hp : f.produces <;> simp [htrio, Core.aDue, Core.aPast, ha, aReady, hu, hp, hd, hle, ht]

/-- Two due results of a trio stream: the earlier one goes first, whichever was issued first. -/
theorem Core.due_trio_two {c : Core} {f g : InFlight} {now d1 d2 : Nat} (h : c.flight = [f, g] ∨ c.flight = [g, f])
    (hsf : f.stream ≠ .A) (hsg : g.stream ≠ .A) (hf : f.tokens = 0) (hg : g.tokens = 0) (hdf : f.due = some d1) (hdg : g.due = some d2)
    (hlt : d1 < d2) (hle : d2 ≤ c.clk) : c.trioDue ++ c.aDue now = [f, g] := by
  have hn : c.aDue now = [] := Core.aDue_trio (by rcases h with h | h <;> simp [h, hsf, hsg])
  have hle1 : d1 ≤ c.clk := by omega
  rcases h with h | h <;> simp [Core.trioDue, hn, h, hsf, hsg, hf, hg, hdf, hdg, hle, hle1, insertDue, hlt, Nat.not_lt.mpr hlt.le]

/-- Delivering what is due, one after the other, where it is all that is in flight. -/
theorem Core.settle_all {c : Core} {now : Nat} {d : List InFlight} (h : c.trioDue ++ c.aDue now = d) (hall : ∀ f ∈ c.flight, f ∈ d) :
    c.settle now = { d.foldl Core.deliver c with flight := [] } := by
  unfold Core.settle
  dsimp only
  rw [h]
  have hrest : (c.flight.filter fun f => !d.contains f) = [] := List.filter_eq_nil_iff.mpr fun f hf => by simp [hall f hf]
  rw [hrest]

/-- A delivery that ends no step of A puts back the settled core and nothing else. -/
theorem exec_resultDelivery {s : State} {k : Nat} (hdue : (s.getC k).trioDue ++ (s.getC k).aDue s.now ≠ [])
    (hstep : (s.getC k).aQuiet = true ∨ ((s.getC k).settle s.now).dbg.stepABusy = false) :
    exec (.resultDelivery k) s = .next (s.putC k ((s.getC k).settle s.now)) := by
  refine congrArg Host.Outcome.next ?_
  dsimp only
  rw [if_neg (by simpa using hdue)]
  rcases hstep with hq | hb
  · simp [hq]
  · simp [settleStepA, hb]

/-! ## The destinations of one result (R33, R34, R113, R119, R123) -/

section
variable {c : Core} {f : InFlight}

theorem Core.deliver_named_one {n : Nat} (h : f.dest = .named n 1) : c.deliver f = (c.enter f).setReg n (f.val.bits.setWidth 32) := by
  rw [Core.deliver_eq, h]
  rfl

theorem Core.reg_deliver_one {n : Nat} (h : f.dest = .named n 1) (m : Nat) :
    (c.deliver f).reg m = if m = n then { val := f.val.bits.setWidth 32, valid := true } else c.reg m := by
  rw [Core.deliver_named_one h, Core.reg_setReg, Core.enter_reg]

theorem Core.deliver_named_two {n : Nat} (h : f.dest = .named n 2) :
    c.deliver f = ((c.enter f).setReg n (f.val.bits.setWidth 32)).setReg (n + 1) ((f.val.bits >>> 32).setWidth 32) := by
  rw [Core.deliver_eq, h]
  rfl

theorem Core.reg_deliver_two {n : Nat} (h : f.dest = .named n 2) (m : Nat) :
    (c.deliver f).reg m = if m = n + 1 then { val := (f.val.bits >>> 32).setWidth 32, valid := true }
      else if m = n then { val := f.val.bits.setWidth 32, valid := true } else c.reg m := by
  rw [Core.deliver_named_two h, Core.reg_setReg, Core.reg_setReg, Core.enter_reg]

theorem Core.deliver_pred {n : Nat} (h : f.dest = .pred n) : (c.deliver f).preds = putBit c.preds n (decide (f.val.bits ≠ 0)) := by
  rw [Core.deliver_eq, h]
  simp [Core.writeDest]

theorem Core.deliver_vec {n : Nat} {mask : W64} (h : f.dest = .vec n false mask) : (c.deliver f).vec n =
    { lanes := (List.range 64).map fun i => if mask.getLsbD i then (f.val.toLanes.map fun x : W64 => x.setWidth 32).getD i 0 else (c.vec n).lane i,
      valid := true } := by
  rw [Core.deliver_eq, h]
  simp [Core.writeDest, Core.vec_setVec]

theorem Core.deliver_ctl {n : Nat} (h : f.dest = .ctl n) : c.deliver f = (c.enter f).writeCtl n (f.val.bits.setWidth 32) := by
  rw [Core.deliver_eq, h]
  rfl

theorem Core.deliver_none (h : f.dest = .none) : c.deliver f = c.enter f := by
  rw [Core.deliver_eq, h]
  rfl

end

/-- The lane of a vector register that a list gives. -/
theorem VReg.lane_range (g : Nat → W32) (valid : Bool) {i : Nat} (h : i < 64) : VReg.lane { lanes := (List.range 64).map g, valid := valid } i = g i := by
  simp [VReg.lane, h]

/-- The lower halves of lanes, one at a time. -/
theorem getD_narrow (l : List W64) (i : Nat) : (l.map fun x : W64 => (x.setWidth 32 : W32)).getD i 0 = (l.getD i 0).setWidth 32 :=
  List.getD_map l 0 fun x : W64 => (x.setWidth 32 : W32)

theorem Core.str_withFlight (c : Core) (l : List InFlight) (st : StreamId) : ({ c with flight := l } : Core).str st = c.str st := by
  cases st <;> rfl

theorem resultDeliveredRule : ResultDeliveredRule := by
  intro k f s d c hf ht hd htrio hA
  have hdue : c.trioDue ++ c.aDue s.now = [f] := by
    by_cases hs : f.stream = .A
    · obtain ⟨hle, hfab, hacc, -⟩ := hA hs
      exact Core.due_a hf hs ht hd hle hfab hacc
    · exact Core.due_trio hf hs ht hd (htrio hs)
  have hset : c.settle s.now = { c.deliver f with flight := [] } := Core.settle_all hdue (by simp [hf])
  have hstep : c.aQuiet = true ∨ (c.settle s.now).dbg.stepABusy = false := by
    by_cases hs : f.stream = .A
    · obtain ⟨-, -, -, hb⟩ := hA hs
      exact .inr (by rw [hset]; exact (congrArg Debug.stepABusy (c.deliver_dbg f)).trans hb)
    · exact .inl (by simp [Core.aQuiet, hf, hs])
  have hexec := exec_resultDelivery (by rw [hdue]; simp) hstep
  rw [hset] at hexec
  refine ⟨_, hexec, ?_⟩
  simp only [State.getC_putC]
  refine ⟨rfl, fun j hj => State.getC_putC_other _ _ _ _ hj, trivial, c.deliver_tokens f, fun st => ?queue, fun st => ?stream, fun n hn => ?one,
    fun n hn => ?two, fun n _ hn j hj => ?pred, fun n mask hn => ?vec, fun n h15 hn => ?shape, fun hn => ?rmode, fun hn => ?nowhere⟩
  case queue => exact (congrArg Stream.rq ((Core.str_withFlight ..).trans (c.deliver_str f st))).trans (by rw [c.enter_str])
  case stream =>
    have h := (Core.str_withFlight (c.deliver f) [] st).trans ((c.deliver_str f st).trans (c.enter_str f st))
    exact ⟨by rw [h], by rw [h], by rw [h]⟩
  case one =>
    refine ⟨(Core.reg_deliver_one hn n).trans (if_pos rfl), fun m hm => (Core.reg_deliver_one hn m).trans (if_neg hm), ?_, ?_⟩
    all_goals rw [Core.deliver_named_one hn]
    · exact c.enter_vecs f
    · exact c.enter_preds f
  case two =>
    exact ⟨(Core.reg_deliver_two hn n).trans (by simp), (Core.reg_deliver_two hn (n + 1)).trans (if_pos rfl),
      fun m h1 h2 => (Core.reg_deliver_two hn m).trans (by rw [if_neg h2, if_neg h1])⟩
  case pred =>
    rw [Core.deliver_pred hn]
    exact getLsbD_putBit _ _ hj
  case vec =>
    have h := Core.deliver_vec (c := c) hn
    refine ⟨congrArg VReg.valid h, fun i hi => (congrArg (VReg.lane · i) h).trans ?_⟩
    rw [VReg.lane_range _ _ hi, getD_narrow]
  case shape =>
    rw [Core.deliver_ctl hn, Core.writeCtl, if_pos h15]
    exact (sget_sset ..).trans (if_pos rfl)
  case rmode =>
    rw [Core.deliver_ctl hn]
    simp [Core.writeCtl]
  case nowhere =>
    rw [Core.deliver_none hn]
    exact ⟨c.enter_named f, c.enter_vecs f, c.enter_preds f, c.enter_apreds f⟩

/-- The result queue after one delivery. -/
theorem Core.rq_deliver (c : Core) {f : InFlight} (he : f.enters = true) {st : StreamId} (hs : f.stream = st) :
    ((c.deliver f).str st).rq = (f.val :: (c.str st).rq).take 16 := by
  rw [Core.deliver_str, Core.enter_str]
  exact if_pos ⟨he, hs.symm⟩

theorem resultsInClockOrderRule : ResultsInClockOrderRule := by
  intro k f g s d1 d2 c hflight _ hf hg hef heg hs hgs hdf hdg hlt hle
  have hsg : g.stream ≠ .A := hgs ▸ hs
  have hdue : c.trioDue ++ c.aDue s.now = [f, g] := Core.due_trio_two hflight hs hsg hf hg hdf hdg hlt hle
  have hset : c.settle s.now = { (c.deliver f).deliver g with flight := [] } :=
    Core.settle_all hdue (by rcases hflight with h | h <;> simp [h])
  have hq : c.aQuiet = true := by rcases hflight with h | h <;> simp [Core.aQuiet, h, hs, hsg]
  have hexec := exec_resultDelivery (by rw [hdue]; simp) (.inl hq)
  rw [hset] at hexec
  refine ⟨_, hexec, by rw [State.getC_putC], ?_⟩
  rw [State.getC_putC, Core.str_withFlight, Core.rq_deliver _ heg hgs, Core.rq_deliver _ hef rfl]
  simp [List.take_take]

/-! ## Tile writes and fetched words (R53, R93, R202) -/

theorem Core.str_pmcAdd (c : Core) (ev n : Nat) (st : StreamId) : (c.pmcAdd ev n).str st = c.str st := by
  unfold Core.pmcAdd
  split_ifs
  · rfl
  · cases st <;> rfl

theorem Core.named_pmcAdd (c : Core) (ev n : Nat) : (c.pmcAdd ev n).named = c.named := by
  unfold Core.pmcAdd
  split_ifs <;> rfl

/-- The word that enters an instruction cache stands there (R93). -/
theorem sfind_cachePut (m : Stream) (off : Nat) (w : W64) : sfind (m.cachePut off w).cache off = some w := sfind_sput_same ..

/-- The one due write of a core lands in its tile (R202). -/
theorem Core.settleTiles_single {c : Core} {w : TileWrite} (hw : c.tileW = [w]) (hs : c.seqs = []) (hd : w.due ≤ c.clk) :
    c.tileDue = [w] ∧ c.settleTiles = { c.applyTarget w.target with tileW := [], seqs := [] } := by
  have hdue : c.tileDue = [w] := by
    by_cases hv : w.stream = .V <;> simp [Core.tileDue, hw, hd, hv]
  refine ⟨hdue, ?_⟩
  unfold Core.settleTiles
  simp [hdue, hs, hw, hd]

theorem exec_tileWriteDelivery {s : State} {k : Nat} (h : (s.getC k).tileDue ≠ []) :
    exec (.tileWriteDelivery k) s = .next (s.putC k (s.getC k).settleTiles) :=
  congrArg Host.Outcome.next (if_pos (by simp [Core.tileWritesDue, h]))

/-- A missing word that the fetch returns enters the cache of its stream (R53, R93). -/
theorem exec_fetchMissArrival {s : State} {k n off : Nat} {l : List Byte} (hm : missesFetch (s.getC k) (streamOf n) = true)
    (hw : waitsFault s k (streamOf n) = false) (ho : ((s.getC k).str (streamOf n)).missing = some off) (hl : fetchCode s k off = .ok l) :
    exec (.fetchMissArrival k n) s =
      .next (s.putC k (((s.getC k).modStr (streamOf n) fun m => m.cachePut off (BitVec.ofNat 64 (leNat l))).pmcAdd 7 1)) := by
  refine congrArg Host.Outcome.next ?_
  simp [hm, hw, ho, hl]

theorem tilesAndWordsArriveRule : TilesAndWordsArriveRule := by
  intro k s c
  constructor
  · intro w hw hs hd
    obtain ⟨hdue, hset⟩ := Core.settleTiles_single hw hs hd
    have hexec := exec_tileWriteDelivery (s := s) (k := k) (by rw [hdue]; simp)
    rw [hset] at hexec
    exact ⟨_, hexec, by rw [State.getC_putC], by rw [State.getC_putC], rfl, fun j hj => State.getC_putC_other _ _ _ _ hj⟩
  · intro n l st hinst hstarted haway hlive hcache hfault hl
    have hmiss : (c.str st).missing = some (c.str st).pc := by simp [Stream.missing, hcache]
    have hm : missesFetch c st = true := by simp [missesFetch, hinst, hstarted, haway, hlive, hmiss]
    refine ⟨_, exec_fetchMissArrival hm hfault hmiss hl, ?_⟩
    rw [State.getC_putC, Core.str_pmcAdd, Core.str_modStr, Core.named_pmcAdd, Core.modStr_named]
    exact ⟨sfind_cachePut .., rfl, rfl, rfl⟩

/-- Settles O17: what is due is all that is in flight, and each destination says what one delivery writes. -/
theorem resultDelivered : Obligations.ResultDelivered := ⟨resultDeliveredRule, resultsInClockOrderRule, tilesAndWordsArriveRule⟩

end Sys2Proof.Machine
end

section
/-! The scanner's commands (R53, R54, R58): how the admission of a segment, its withdrawal and that of every segment end, one equation per
case, and what becomes of the records. -/

namespace Sys2Proof.Machine

/-! ## The end of a command, and the records (R58) -/

/-- A command that leaves the scanner's block alone until its end tells its result there. -/
theorem scanEnd_scan {s u : State} (h : u.scan = s.scan) (r : Byte) (check off : Nat) : (scanEnd u r check off).scan =
    { s.scan with busy := false, result := r, check := BitVec.ofNat 4 check, off := BitVec.ofNat 32 off } := by
  rw [← h]
  rfl

/-- The record of a segment is entered in place, or behind the others. -/
theorem scanSlot_le {l : List (Option Admission)} {va : W64} {i : Nat} (h : scanSlot l va = some i) : i ≤ l.length := by
  unfold scanSlot at h
  split at h
  next j hj =>
    cases h
    exact (List.findIdx?_eq_some_iff_getElem.mp hj).1.le
  next =>
    split at h
    next j hj =>
      cases h
      exact (List.findIdx?_eq_some_iff_getElem.mp hj).1.le
    next =>
      split at h
      · cases h
        exact le_rfl
      · contradiction

/-- A record that is entered stands at its place, the others stay. -/
theorem scanEnter_records {s : State} {fn i : Nat} (h : i ≤ (scanRecords s fn).length) (a : Admission) (j : Nat) :
    (scanRecords (scanEnter s fn i a) fn).getD j none = if j = i then some a else (scanRecords s fn).getD j none := by
  have hr : scanRecords (scanEnter s fn i a) fn =
      if i < (scanRecords s fn).length then (scanRecords s fn).set i (some a) else scanRecords s fn ++ [some a] := sget_sput_same ..
  rw [hr]
  split_ifs with hlt hj hj
  · subst hj
    simp [hlt]
  · simp [Ne.symm hj]
  · have hi : i = (scanRecords s fn).length := by omega
    simp [hj, hi]
  · have hi : j ≠ (scanRecords s fn).length := by omega
    rcases Nat.lt_or_gt_of_ne hi with hl | hl
    · simp [List.getElem?_append_left hl]
    · simp [List.getElem?_append_right hl.le, List.getElem?_eq_none hl.le, Nat.sub_ne_zero_of_lt hl]

theorem scanClear_scan (s : State) (fn i : Nat) : (scanClear s fn i).scan = s.scan := by
  unfold scanClear
  split_ifs <;> rfl

/-- A record that is cleared holds nothing, the others stay. -/
theorem scanClear_records (s : State) (fn i : Nat) : scanRecords (scanClear s fn i) fn = (scanRecords s fn).set i none := by
  unfold scanClear scanRecords
  split_ifs <;> exact sget_sput_same ..

theorem scanClear_other (s : State) (fn i : Nat) {f : Nat} (h : f ≠ fn) : scanRecords (scanClear s fn i) f = scanRecords s f := by
  unfold scanClear scanRecords
  split_ifs <;> exact sget_sput_other _ _ _ _ _ h

/-- Clearing several records of a function touches neither the command nor another function's records. -/
theorem foldl_scanClear (l : List Nat) (s : State) (fn : Nat) : (l.foldl (fun t i => scanClear t fn i) s).scan = s.scan ∧
    ∀ f, f ≠ fn → scanRecords (l.foldl (fun t i => scanClear t fn i) s) f = scanRecords s f := by
  induction l generalizing s with
  | nil => exact ⟨rfl, fun _ _ => rfl⟩
  | cons i l ih =>
    obtain ⟨hscan, hother⟩ := ih (scanClear s fn i)
    exact ⟨hscan.trans (scanClear_scan s fn i), fun f hf => (hother f hf).trans (scanClear_other s fn i hf)⟩

/-! ## Admission, one equation per case (R54, R58) -/

theorem exec_scanner_idle {s : State} (h : s.scan.busy = false) (fn : Nat) :
    exec (.scanAdmit fn) s = .next s ∧ exec (.withdraw fn) s = .next s ∧ exec (.withdrawAll fn) s = .next s := by
  refine ⟨congrArg Host.Outcome.next (if_pos ?_), congrArg Host.Outcome.next (if_pos ?_), congrArg Host.Outcome.next (if_pos ?_)⟩
  all_goals simp [h]

section
variable {s : State} {fn : Nat} {frames : List W64} {h : List Byte} (hbusy : s.scan.busy = true) (hop : opEntry s devCore scanCtx 0 = none)
  (hpages : scanPages s fn false s.scan.va (segPages s.scan.va 0x90) = .ok frames) (hread : readVa s .device fn s.scan.va 0x90 = .ok h)
include hbusy hop hpages hread

theorem exec_scanAdmit_header {off : Nat} (hb : headerBreaks s.scan.va h = some off) : exec (.scanAdmit fn) s = .next (scanEnd s 1 1 off) := by
  refine congrArg Host.Outcome.next ?_
  simp [hbusy, hop, hpages, hread, hb]

variable {fr : List W64} {l : List Byte} (hb : headerBreaks s.scan.va h = none)
  (hcode : scanPages s fn true s.scan.va (segPages s.scan.va (field h 8 4)) = .ok fr) (hseg : readVa s .device fn s.scan.va (field h 8 4) = .ok l)
include hb hcode hseg

theorem exec_scanAdmit_digest (hd : digestOk l = false) : exec (.scanAdmit fn) s = .next (scanEnd s 1 1 0x40) := by
  refine congrArg Host.Outcome.next ?_
  simp [hbusy, hop, hpages, hread, hb, hcode, hseg, hd]

theorem exec_scanAdmit_fails {c off : Nat} (hd : digestOk l = true) (hf : scanFails (segOf l) = some (c, off)) :
    exec (.scanAdmit fn) s = .next (scanEnd s 1 c off) := by
  refine congrArg Host.Outcome.next ?_
  simp [hbusy, hop, hpages, hread, hb, hcode, hseg, hd, hf]

theorem exec_scanAdmit_full (hd : digestOk l = true) (hf : scanFails (segOf l) = none)
    (hfull : scanTab s fn = 0 ∨ scanSlot (scanRecords s fn) s.scan.va = none) : exec (.scanAdmit fn) s = .next (scanEnd s 3 0 0) := by
  refine congrArg Host.Outcome.next ?_
  rcases hfull with ht | ht <;> simp [hbusy, hop, hpages, hread, hb, hcode, hseg, hd, hf, ht]

theorem exec_scanAdmit_enters {i : Nat} (hd : digestOk l = true) (hf : scanFails (segOf l) = none) (ht : scanTab s fn ≠ 0)
    (hi : scanSlot (scanRecords s fn) s.scan.va = some i) : exec (.scanAdmit fn) s =
      .next (scanEnd (scanEnter s fn i { va := s.scan.va, length := BitVec.ofNat 32 (field h 8 4), frames := fr }) 0 0 0) := by
  have ht' : ¬scanTab s fn = 0#64 := ht
  refine congrArg Host.Outcome.next ?_
  simp [hbusy, hop, hpages, hread, hb, hcode, hseg, hd, hf, ht', hi]

end

/-! ## WITHDRAW and WITHDRAW_ALL (R58) -/

/-- WITHDRAW of a segment that no record names. -/
theorem exec_withdraw_none {s : State} {fn : Nat} (hbusy : s.scan.busy = true) (h : ∀ a, some a ∈ scanRecords s fn → a.va ≠ s.scan.va) :
    exec (.withdraw fn) s = .next (scanEnd s 4 0 0) := by
  refine congrArg Host.Outcome.next ?_
  rw [if_neg (by simp [hbusy])]
  split
  · rfl
  next i hi =>
    obtain ⟨hlt, hp, -⟩ := List.findIdx?_eq_some_iff_getElem.mp hi
    split at hp
    next a ha => exact absurd (of_decide_eq_true hp) (h a (ha ▸ List.getElem_mem hlt))
    next => contradiction

/-- WITHDRAW of the segment that record `i` names, the first that does. -/
theorem exec_withdraw_record {s : State} {fn i : Nat} {a : Admission} (hbusy : s.scan.busy = true) (hi : (scanRecords s fn)[i]? = some (some a))
    (ha : a.va = s.scan.va) (hfirst : ∀ j b, j < i → (scanRecords s fn)[j]? = some (some b) → b.va ≠ s.scan.va) :
    exec (.withdraw fn) s = .next (scanEnd (scanClear s fn i) 0 0 0) := by
  obtain ⟨hlt, hget⟩ := List.getElem?_eq_some_iff.mp hi
  refine congrArg Host.Outcome.next ?_
  rw [if_neg (by simp [hbusy])]
  split
  next hnone =>
    have hp := List.findIdx?_eq_none_iff.mp hnone _ (List.getElem_mem hlt)
    simp [hget, ha] at hp
  next j hj =>
    obtain ⟨hjlt, hp, hbefore⟩ := List.findIdx?_eq_some_iff_getElem.mp hj
    have hle : j ≤ i := by
      by_contra hgt
      have hp' := hbefore i (by omega)
      simp [hget, ha] at hp'
    have hge : i ≤ j := by
      by_contra hgt
      split at hp
      next b hb => exact hfirst j b (by omega) (by rw [List.getElem?_eq_getElem hjlt, hb]) (of_decide_eq_true hp)
      next => contradiction
    rw [Nat.le_antisymm hle hge]

/-- WITHDRAW_ALL. -/
theorem exec_withdrawAll {s : State} (fn : Nat) (hbusy : s.scan.busy = true) : ∃ u, u.scan = s.scan ∧
    (∀ f, f ≠ fn → scanRecords u f = scanRecords s f) ∧
    exec (.withdrawAll fn) s = .next (scanEnd { u with admitted := sdel u.admitted fn } 0 0 0) := by
  obtain ⟨hscan, hother⟩ := foldl_scanClear
    ((List.range (scanRecords s fn).length).filter fun i => ((scanRecords s fn).getD i none).isSome) s fn
  exact ⟨_, hscan, hother, congrArg Host.Outcome.next (if_neg (by simp [hbusy]))⟩

/-! ## The statement -/

/-- Settles O46: one equation of `exec` for each clause, and the records after it. -/
theorem scannerEvents : Obligations.ScannerEvents := by
  intro s fn va tells
  refine ⟨fun hidle => exec_scanner_idle hidle fn, ?scan, fun hbusy => ⟨?withdraw, fun hnone => ?unknown, ?all⟩⟩
  case scan =>
    intro frames h hbusy hop hpages hread
    refine ⟨fun off hb => ⟨_, exec_scanAdmit_header hbusy hop hpages hread hb, rfl, rfl, rfl⟩, fun fr l hb hcode hseg => ?_⟩
    refine ⟨fun hd => ?digest, fun c off hd hf => ?fails, fun hd hf => ⟨fun hfull => ?full, fun i ht hi => ?enters⟩⟩
    case digest => exact ⟨_, exec_scanAdmit_digest hbusy hop hpages hread hb hcode hseg hd, rfl, rfl, rfl⟩
    case fails => exact ⟨_, exec_scanAdmit_fails hbusy hop hpages hread hb hcode hseg hd hf, rfl, rfl, rfl⟩
    case full => exact ⟨_, exec_scanAdmit_full hbusy hop hpages hread hb hcode hseg hd hf hfull, rfl, rfl, rfl⟩
    case enters =>
      have hrec := scanEnter_records (scanSlot_le hi) { va := va, length := BitVec.ofNat 32 (field h 8 4), frames := fr }
      exact ⟨_, exec_scanAdmit_enters hbusy hop hpages hread hb hcode hseg hd hf ht hi, rfl, (hrec i).trans (if_pos rfl),
        fun j hj => (hrec j).trans (if_neg hj)⟩
  case withdraw =>
    intro i a hi ha hfirst
    obtain ⟨hlt, -⟩ := List.getElem?_eq_some_iff.mp hi
    have hrec : ∀ j, (scanRecords (scanClear s fn i) fn).getD j none = ((scanRecords s fn).set i none).getD j none := fun j => by
      rw [scanClear_records]
    exact ⟨_, exec_withdraw_record hbusy hi ha hfirst, scanEnd_scan (scanClear_scan ..) .., (hrec i).trans (by simp [hlt]),
      fun j hj => (hrec j).trans (by simp [Ne.symm hj, scanRecords])⟩
  case unknown => exact ⟨_, exec_withdraw_none hbusy hnone, rfl, rfl, rfl⟩
  case all =>
    obtain ⟨u, hscan, hother, hexec⟩ := exec_withdrawAll fn hbusy
    refine ⟨_, hexec, scanEnd_scan hscan .., ?_, fun f hf => ?_⟩
    · exact (sget_sdel ..).trans (if_pos rfl)
    · exact ((sget_sdel ..).trans (if_neg hf)).trans (hother f hf)

end Sys2Proof.Machine
end

section
/-! The generators of V and its queues (R76, R77, R133, R144, R145, R157, R158): a draw of the guard-true lanes, the seeds, what `vpop` takes
from an operand queue and what `vpush` appends to a store queue. -/

namespace Sys2Proof.Machine

/-! ## Lanes under a guard (R37) -/

/-- Starting a word changes no guard. -/
@[simp] theorem startWord_vguard (st : StreamId) (s : State) (g : BitVec 4) : (startWord st s).core.vguard g = guardLanes s.core g := by
  rw [startWord_core]
  unfold Core.vguard guardLanes
  rw [Core.modStr_vpreds]
  have hz : (g.extractLsb' 0 3).toNat = 0 ↔ g.extractLsb' 0 3 = 0 := BitVec.toNat_inj (y := 0#3)
  simp only [hz]

/-- The low 32 bits of a lane. -/
theorem and_low_word (v : W64) : v &&& 0xFFFFFFFF = (v.setWidth 32 : W32).setWidth 64 := by
  ext i hi
  have hm : (0xFFFFFFFF : W64) = (BitVec.allOnes 32).setWidth 64 := by decide
  rw [hm]
  simp only [BitVec.getElem_and, BitVec.getElem_setWidth, BitVec.getLsbD_setWidth, BitVec.getLsbD_allOnes]
  rw [Bool.and_comm, BitVec.getLsbD_eq_getElem hi]

theorem getD_lanesOf (f : Nat → W64) {i : Nat} (hi : i < 64) : (lanesOf f).getD i 0 = f i := by simp [lanesOf, hi]

/-- A result of 32-bit lanes: each guard-true lane holds its value, every other one 0. -/
theorem vresult_lanes32 (s : State) (d : BitVec 7) (lat : Nat) (mask : W64) (f : Nat → W64) :
    vresult s d 1 lat mask (lanesOf f) = .done s
      { res := some { val := .lanes (lanes32 fun i => if mask.getLsbD i then (f i).setWidth 32 else 0)
                      dest := vdstOf d false false mask, lat := lat } } := by
  have hl : ((List.range 64).map fun i => if mask.getLsbD i then (lanesOf f).getD i 0 &&& 0xFFFFFFFF else 0) =
      lanes32 fun i => if mask.getLsbD i then (f i).setWidth 32 else 0 := by
    refine List.map_congr_left fun i hi => ?_
    beta_reduce
    rw [getD_lanesOf f (List.mem_range.mp hi)]
    split_ifs
    · exact and_low_word (f i)
    · rfl
  simp only [vresult, if_true, hl]
  rfl

/-! ## Generators (R76, R77, R133, R144) -/

/-- One advance, with its shifts as products and quotients (R76). -/
theorem genNext_eq (x : W32) : genNext x =
    let x := x ^^^ BitVec.ofNat 32 (x.toNat * 2 ^ 13)
    let x := x ^^^ BitVec.ofNat 32 (x.toNat / 2 ^ 17)
    x ^^^ BitVec.ofNat 32 (x.toNat * 2 ^ 5) := by
  have hl (y : W32) (n : Nat) : y <<< n = BitVec.ofNat 32 (y.toNat * 2 ^ n) := by
    rw [← Nat.shiftLeft_eq]
    exact BitVec.eq_of_toNat_eq (by simp)
  have hr (y : W32) (n : Nat) : y >>> n = BitVec.ofNat 32 (y.toNat / 2 ^ n) := by
    rw [← Nat.shiftRight_eq_div_pow]
    exact BitVec.eq_of_toNat_eq (by
      rw [BitVec.toNat_ushiftRight, BitVec.toNat_ofNat, Nat.mod_eq_of_lt (lt_of_le_of_lt (Nat.shiftRight_le _ _) y.isLt)])
  simp only [genNext, hl, hr]

theorem genR_eq (x : W32) : genR x = x.toNat / 256 := by simp [genR, Nat.shiftRight_eq_div_pow]

/-- The generators after a draw of each guard-true lane. -/
def advanceGens (mask : W64) (gens : List W32) : List W32 :=
  (List.range 64).map fun i => if mask.getLsbD i then genNext (gens.getD i 0) else gens.getD i 0

/-- A function of the 64 elements and their places, place by place. -/
theorem map_zipIdx_range {α β : Type} {l : List α} (h : l.length = 64) (d : α) (f : α × Nat → β) :
    l.zipIdx.map f = (List.range 64).map fun i => f (l.getD i d, i) := by
  refine List.ext_getElem (by simp [h]) fun i hi _ => ?_
  have hi : i < l.length := by simpa using hi
  simp [hi]

/-- Under SR each guard-true lane draws once, the others keep their generators (R133). -/
theorem laneDraws_stochastic {gens : List W32} (h : gens.length = 64) (mask : W64) : laneDraws 3 mask gens =
    ((List.range 64).map fun i => if mask.getLsbD i then genR (genNext (gens.getD i 0)) else 0, advanceGens mask gens) := by
  unfold laneDraws advanceGens
  rw [if_pos rfl, map_zipIdx_range h 0]
  simp only [List.map_map, Function.comp_def, apply_ite Prod.fst, apply_ite Prod.snd]

theorem getD_advanceGens {mask : W64} {i : Nat} (hi : i < 64) (hm : mask.getLsbD i = true) (gens : List W32) :
    (advanceGens mask gens).getD i 0 = genNext (gens.getD i 0) := by
  simp [advanceGens, hi, hm]

/-- 64 lanes of two functions that agree where the guard is true. -/
theorem lanes32_congr {mask : W64} {f g : Nat → W32} (h : ∀ i, i < 64 → mask.getLsbD i = true → f i = g i) :
    (lanes32 fun i => if mask.getLsbD i then f i else 0) = lanes32 fun i => if mask.getLsbD i then g i else 0 := by
  refine List.map_congr_left fun i hi => ?_
  beta_reduce
  split_ifs with hm
  · rw [h i (List.mem_range.mp hi) hm]
  · rfl

/-- The state in which a word of V has started and the lanes of `mask` have drawn. -/
def drawnLanes (s : State) (mask : W64) : State :=
  (startWord .V s).setCore { (startWord .V s).core with vgen := advanceGens mask s.core.vgen }

@[simp] theorem startWord_vgen (st : StreamId) (s : State) : (startWord st s).core.vgen = s.core.vgen := by
  rw [startWord_core, Core.modStr_vgen]

/-- A word of two sources under SR draws once for each guard-true lane (R74, R133, R134). -/
theorem vmap_two_stochastic {o : FR} {s : State} {a b : List W64} (hlen : s.core.vgen.length = 64) (ha : s.core.vsrc o.a 1 = some a)
    (hb : s.core.vsrc o.b 1 = some b) (lat : Nat) (f : Nat → W32 → W32 → W32 → W32) : vmap o 2 lat 3 f (startWord .V s) =
      let mask := guardLanes s.core o.g
      .done (drawnLanes s mask) { res := some { val := .lanes (lanes32 fun i =>
                                                  if mask.getLsbD i then f (genR (genNext (s.core.vgen.getD i 0))) (lane32 a i) (lane32 b i) 0 else 0)
                                                dest := vdstOf o.d false false mask, lat := lat } } := by
  have hc : s.core.vsrc 0b1011000 1 = some (List.replicate 64 0) := rfl
  unfold vmap
  simp only [le_refl, if_true, if_neg (show ¬3 ≤ 2 by decide), withV_ok ha, withV_ok hb, withV_ok hc, startWord_vguard, startWord_vgen,
    laneDraws_stochastic hlen, vresult_lanes32]
  rw [lanes32_congr (g := fun i => f (genR (genNext (s.core.vgen.getD i 0))) (lane32 a i) (lane32 b i) 0)]
  · rfl
  · intro i hi hm
    have hz : l32 (List.replicate 64 0) i = 0 := by rw [l32, List.getD_replicate _ hi]; rfl
    rw [hz, BitVec.setWidth_setWidth_of_le _ (by decide)]
    simp [hi, hm, l32, lane32]

/-- `vrand` gives a function `f` of each new state that the word's modifier chooses (R144). -/
theorem exec_vrand {h : Hdr} {o : FR} {s : State} (hs : Starts (.vrand h o) .V h 0 s) (hlen : s.core.vgen.length = 64) {f : W32 → W32}
    (hf : ∀ x : W32, (if o.m.getLsbD 0 then x.setWidth 64 else BitVec.ofNat 64 (genR x) : W64).setWidth 32 = f x) : exec (.vrand h o) s =
      let mask := guardLanes s.core o.g
      .next (finishWord .V h
        { res := some { val := .lanes (lanes32 fun i => if mask.getLsbD i then f (genNext (s.core.vgen.getD i 0)) else 0)
                        dest := vdstOf o.d false false mask, lat := 2 } } (drawnLanes s mask)) := by
  refine runWord_done hs ?_
  simp only [startWord_vguard, startWord_vgen, laneDraws_stochastic hlen, vresult_lanes32, hf]
  rw [lanes32_congr (g := fun i => f (genNext (s.core.vgen.getD i 0)))]
  · rfl
  · exact fun i hi hm => by rw [getD_advanceGens hi hm]

/-- `vadd` on f32 under SR. -/
theorem exec_vadd_stochastic {h : Hdr} {o : FR} {s : State} {a b : List W64} (hs : Starts (.vadd h o) .V h 0 s) (hlen : s.core.vgen.length = 64)
    (ht : o.t = 8) (hrm : o.rm = 3) (ha : s.core.vsrc o.a 1 = some a) (hb : s.core.vsrc o.b 1 = some b) : exec (.vadd h o) s =
      let mask := guardLanes s.core o.g
      .next (finishWord .V h
        { res := some { val := .lanes (lanes32 fun i =>
                          if mask.getLsbD i then fadd 3 (genR (genNext (s.core.vgen.getD i 0))) (lane32 a i) (lane32 b i) else 0)
                        dest := vdstOf o.d false false mask, lat := 4 } } (drawnLanes s mask)) := by
  refine runWord_done hs ?_
  simp only [rmV, byType, ht, hrm, if_true]
  exact vmap_two_stochastic hlen ha hb 4 fun r a b _ => fadd 3 r a b

/-- The seed of lane i, never zero (R77). -/
def laneSeed (x : W32) (i : Nat) : W32 :=
  let y := x ^^^ BitVec.ofNat 32 (0x9E3779B9 * (i + 1))
  if y = 0 then 1 else y

theorem getD_seedGens (x : W32) {i : Nat} (hi : i < 64) : (seedGens x).getD i 1 = laneSeed x i := by
  simp [seedGens, laneSeed, hi, BitVec.ofNat_mul]

/-- `vseed` seeds the guard-true lanes (R144). -/
theorem exec_vseed {h : Hdr} {o : FR} {s : State} {a : List W64} (hs : Starts (.vseed h o) .V h 0 s) (hlen : s.core.vgen.length = 64)
    (ha : s.core.vsrc o.a 1 = some a) : Passes (.vseed h o) .V h none s ((startWord .V s).setCore { (startWord .V s).core with
      vgen := (List.range 64).map fun i => if (guardLanes s.core o.g).getLsbD i then laneSeed (lane32 a 0) i else s.core.vgen.getD i 0 }) := by
  refine runWord_done hs ?_
  simp only [withV_ok ha, startWord_vguard, startWord_vgen, map_zipIdx_range hlen 0]
  rw [List.map_congr_left fun i hi => by rw [getD_seedGens _ (List.mem_range.mp hi)]]
  rfl

theorem laneGeneratorsRule : LaneGeneratorsRule := by
  intro h o s a b hlen mask s1 shifted gen drawn gives
  have hshift (i : Nat) : shifted (gen i) = genNext (gen i) := (genNext_eq _).symm
  have hdrawn : drawn = drawnLanes s mask := by simp only [drawn, hshift]; rfl
  refine ⟨fun hs hm => ?draw, fun hs hm => ?whole, fun hs ht hrm ha hb => ?add, fun hs ha => exec_vseed hs hlen ha⟩
  all_goals simp only [gives, hdrawn, hshift, ← genR_eq]
  case draw =>
    refine exec_vrand (f := fun x => BitVec.ofNat 32 (genR x)) hs hlen fun x => ?_
    simp only [hm, Bool.false_eq_true, if_false]
    exact BitVec.setWidth_ofNat_of_le (by decide) _
  case whole =>
    refine exec_vrand (f := id) hs hlen fun x => ?_
    simp only [hm, if_true]
    exact BitVec.setWidth_setWidth_of_le x (by decide)
  case add => exact exec_vadd_stochastic hs hlen ht hrm ha hb

/-! ## Operand and store queues (R145, R157, R158) -/

@[simp] theorem startWord_oq (st : StreamId) (s : State) : (startWord st s).core.oq = s.core.oq := by
  rw [startWord_core, Core.modStr_oq]

@[simp] theorem startWord_sq (st : StreamId) (s : State) : (startWord st s).core.sq = s.core.sq := by
  rw [startWord_core, Core.modStr_sq]

/-- Taking all of the one filled element of an operand queue leaves the queue empty. -/
theorem popOq_whole {s : State} {k n : Nat} {l : List Byte} (hl : l.length = n)
    (hq : sget [] s.core.oq k = [{ bytes := l, filled := true, fresh := false }]) (hn : n ≠ 0) (f : State → List Byte → Act) :
    popOq s k n f = f (s.setCore { s.core with oq := sset [] s.core.oq k [] }) l := by
  have hfilled : oqFilled (sget [] s.core.oq k) = l := by simp [hq, oqFilled]
  have hdrop : oqDrop n (sget [] s.core.oq k) = [] := by simp [hq, oqDrop, hl, hn]
  simp only [popOq, hfilled, hdrop, if_pos hl.ge, List.take_of_length_le hl.le]

/-- Four bytes in their order. -/
theorem take_four_drop {l : List Byte} {j : Nat} (h : j + 4 ≤ l.length) :
    (l.drop j).take 4 = [l.getD j 0, l.getD (j + 1) 0, l.getD (j + 2) 0, l.getD (j + 3) 0] := by
  refine List.ext_getElem (by simp; omega) fun i hi _ => ?_
  have hi : i < 4 := by simp at hi; omega
  rw [List.getElem_take, List.getElem_drop, ← List.getD_eq_getElem _ 0]
  interval_cases i <;> rfl

theorem leNat_lt (l : List Byte) : leNat l < 256 ^ l.length := by
  induction l with
  | nil => simp [leNat]
  | cons b l ih =>
    have hb : b.toNat < 256 := b.isLt
    simp only [leNat, List.length_cons, Nat.pow_succ]
    omega

/-- Lane i of the vector that 256 bytes fill. -/
theorem lanes32_of_bytes {l : List Byte} (h : l.length = 256) :
    (lanes32 fun i => if (~~~0 : W64).getLsbD i then (BitVec.ofNat 64 (leNat ((l.drop (4 * i)).take 4))).setWidth 32 else 0) =
      (List.range 64).map fun i => BitVec.ofNat 64 (leNat [l.getD (4 * i) 0, l.getD (4 * i + 1) 0, l.getD (4 * i + 2) 0, l.getD (4 * i + 3) 0]) := by
  refine List.map_congr_left fun i hi => ?_
  have hi := List.mem_range.mp hi
  beta_reduce
  rw [if_pos (by rw [BitVec.getLsbD_not]; simp [hi]), take_four_drop (by omega)]
  have hn := leNat_lt [l.getD (4 * i) 0, l.getD (4 * i + 1) 0, l.getD (4 * i + 2) 0, l.getD (4 * i + 3) 0]
  generalize leNat _ = n at hn
  simp only [List.length_cons, List.length_nil] at hn
  exact BitVec.eq_of_toNat_eq (by simp; omega)

theorem laneQueuesRule : LaneQueuesRule := by
  intro h o s l a k s1
  refine ⟨fun hs hl hq => ?pop, fun hs ha hroom => ?push⟩
  case pop =>
    have hq1 : sget [] s1.core.oq k = [{ bytes := l, filled := true, fresh := false }] := by rw [startWord_oq, hq]
    refine ⟨s1.setCore { s1.core with oq := sset [] s1.core.oq k [] }, ?_, ?_, rfl, runWord_done hs ?_⟩
    · rw [State.core_setCore, startWord_oq]
    · rw [State.core_setCore]
      exact startWord_sq ..
    · rw [popOq_whole hl hq1 (by decide), vresult_lanes32, lanes32_of_bytes hl]
  case push =>
    refine runWord_done hs ?_
    have hfits : ¬sqCap < (sget [] s.core.sq k).length + 256 := Nat.not_lt.mpr hroom
    simp only [withV_ok ha, startWord_sq, s1]
    rw [if_neg hfits]
    rfl

/-- Settles O22: a draw of the guard-true lanes is one list of generators for `vrand` and `vadd`; a queue that is popped whole is empty. -/
theorem laneGenerators : Obligations.LaneGenerators := ⟨laneGeneratorsRule, laneQueuesRule⟩

end Sys2Proof.Machine
end

section
/-! Rounding (R63, R66, R71-R74): |x| over a spacing as a whole number and a fraction, which of the two neighbours a mode takes, the codes of
the multiples of a spacing, and the nearest end of an integer type. -/

namespace Sys2Proof.Machine

/-! ## |x| over a spacing (R73) -/

theorem floor_natCast_add_frac (k : Nat) {φ : ℚ} (h0 : 0 ≤ φ) (h1 : φ < 1) : ⌊k + φ⌋ = k := by
  rw [Int.floor_natCast_add, Int.floor_eq_zero_iff.mpr ⟨h0, h1⟩, add_zero]

/-- x is k whole spacings 2^u and the fraction r ÷ 2^s of one. -/
structure Splits (x : ℚ) (u : Int) (k r s : Nat) : Prop where
  rest_lt : r < 2 ^ s
  eq : x = (k + r / 2 ^ s) * 2 ^ u

theorem splitAt2_splits (m : Nat) (e u : Int) :
    Splits (m * 2 ^ e) u (splitAt2 m e u).1 (splitAt2 m e u).2.1 (splitAt2 m e u).2.2 := by
  unfold splitAt2
  split_ifs with h
  · obtain ⟨d, rfl⟩ := Int.le.dest h
    refine ⟨Nat.one_pos, ?_⟩
    rw [zpow_add₀ two_ne_zero, add_sub_cancel_left, Int.toNat_natCast, zpow_natCast]
    push_cast
    ring
  · obtain ⟨d, rfl⟩ := Int.le.dest (le_of_not_ge h)
    rw [add_sub_cancel_left, Int.toNat_natCast]
    refine ⟨Nat.mod_lt _ (by positivity), ?_⟩
    have hm : (m : ℚ) = 2 ^ d * (m / 2 ^ d : Nat) + (m % 2 ^ d : Nat) := mod_cast (Nat.div_add_mod m (2 ^ d)).symm
    rw [hm, zpow_add₀ two_ne_zero, zpow_natCast]
    simp only [← Nat.cast_ofNat (R := ℚ) (n := 2), ← Nat.cast_pow]
    field_simp

theorem splits_of_splitAt2 {m k r s : Nat} {e u : Int} (h : splitAt2 m e u = (k, r, s)) : Splits (m * 2 ^ e) u k r s := by
  have hs := splitAt2_splits m e u
  rwa [h] at hs

namespace Splits

variable {x : ℚ} {u : Int} {k r s : Nat}

theorem frac_nonneg (r s : Nat) : 0 ≤ (r / 2 ^ s : ℚ) := by positivity

theorem frac_lt_one (h : Splits x u k r s) : (r / 2 ^ s : ℚ) < 1 := by
  rw [div_lt_one (by positivity)]
  exact mod_cast h.rest_lt

theorem div_eq (h : Splits x u k r s) : x / 2 ^ u = k + r / 2 ^ s := by
  rw [h.eq, mul_div_assoc, div_self (by positivity), mul_one]

theorem floor_eq (h : Splits x u k r s) : ⌊x / 2 ^ u⌋ = k := by
  rw [h.div_eq, floor_natCast_add_frac k (frac_nonneg r s) h.frac_lt_one]

theorem whole_le (h : Splits x u k r s) : k * 2 ^ u ≤ x := by
  rw [h.eq]
  exact mul_le_mul_of_nonneg_right (le_add_of_nonneg_right (frac_nonneg r s)) (by positivity)

end Splits

/-! ## The mode's choice (R73, R74) -/

/-- Whether the mode takes the upper neighbour of k + φ spacings. -/
def RoundsUp (rm : BitVec 2) (neg : Bool) (draw k : Nat) (φ : ℚ) : Prop :=
  match rm.toNat with
  | 0 => 1 / 2 < φ ∨ (φ = 1 / 2 ∧ k % 2 = 1)
  | 1 => False
  | 2 => neg = true ∧ 0 < φ
  | _ => (draw : Int) < ⌊φ * 2 ^ 24⌋

theorem mode_cases (rm : BitVec 2) : rm = 0 ∨ rm = 1 ∨ rm = 2 ∨ rm = 3 := by
  revert rm
  decide

theorem roundsUp_iff (rm : BitVec 2) (neg : Bool) (draw k r s : Nat) :
    roundsUp rm neg draw k r s = true ↔ RoundsUp rm neg draw k (r / 2 ^ s) := by
  have hpos : (0 : ℚ) < 2 ^ s := by positivity
  rcases mode_cases rm with rfl | rfl | rfl | rfl
  · have hlt : (1 / 2 : ℚ) < r / 2 ^ s ↔ 2 ^ s < 2 * r := by
      rw [div_lt_div_iff₀ two_pos hpos, one_mul, mul_comm]
      exact_mod_cast Iff.rfl
    have heq : (r / 2 ^ s : ℚ) = 1 / 2 ↔ 2 * r = 2 ^ s := by
      rw [div_eq_div_iff hpos.ne' two_ne_zero, one_mul, mul_comm]
      exact_mod_cast Iff.rfl
    simp only [roundsUp, RoundsUp, hlt, heq]
    simp
  · simp [roundsUp, RoundsUp]
  · have h0 : (0 : ℚ) < r / 2 ^ s ↔ 0 < r := by
      rw [div_pos_iff_of_pos_right hpos, Nat.cast_pos]
    simp [roundsUp, RoundsUp, h0]
  · have hf : ⌊(r / 2 ^ s * 2 ^ 24 : ℚ)⌋ = (r * 2 ^ 24 / 2 ^ s : Nat) := by
      rw [div_mul_eq_mul_div, Int.natCast_div]
      exact_mod_cast Rat.floor_natCast_div_natCast (r * 2 ^ 24) (2 ^ s)
    have h3 : (3 : BitVec 2).toNat = 3 := rfl
    simp only [roundsUp, RoundsUp, hf, h3, decide_eq_true_iff, Nat.cast_lt]

/-! ## Exponents and spacings (R63, R73) -/

theorem log_natCast_mul_zpow {m : Nat} (hm : m ≠ 0) (e : Int) : Int.log 2 ((m : ℚ) * 2 ^ e) = expOf m e := by
  have hpos : (0 : ℚ) < m := by exact_mod_cast Nat.pos_of_ne_zero hm
  have hlog : Int.log 2 (m : ℚ) = Nat.log2 m := by rw [Int.log_natCast, Nat.log2_eq_log_two]
  have hlo : (2 : ℚ) ^ (Nat.log2 m : Int) ≤ m := hlog ▸ Int.zpow_log_le_self (b := 2) one_lt_two hpos
  have hhi : (m : ℚ) < 2 ^ (Nat.log2 m + 1 : Int) := hlog ▸ Int.lt_zpow_succ_log_self (b := 2) one_lt_two (m : ℚ)
  have hx : (0 : ℚ) < m * 2 ^ e := by positivity
  unfold expOf
  refine le_antisymm (Int.lt_add_one_iff.mp ?_) ?_
  · rw [← Int.lt_zpow_iff_log_lt one_lt_two hx, add_right_comm, Nat.cast_ofNat, zpow_add₀ two_ne_zero]
    exact mul_lt_mul_of_pos_right hhi (by positivity)
  · rw [← Int.zpow_le_iff_le_log one_lt_two hx, Nat.cast_ofNat, zpow_add₀ two_ne_zero]
    exact mul_le_mul_of_nonneg_right hlo (by positivity)

theorem zpow_le_iff_le_expOf {m : Nat} (hm : m ≠ 0) (e p : Int) : (2 : ℚ) ^ p ≤ m * 2 ^ e ↔ p ≤ expOf m e := by
  have hx : (0 : ℚ) < m * 2 ^ e := by positivity
  rw [← log_natCast_mul_zpow hm, ← Int.zpow_le_iff_le_log one_lt_two hx, Nat.cast_ofNat]

/-- The spacing of the grid at |x|, over the rationals. -/
theorem FFmt.grid_eq (f : FFmt) {m : Nat} (hm : m ≠ 0) (e : Int) :
    f.grid m e = max (Int.log 2 ((m : ℚ) * 2 ^ e) - f.fbits) (1 - f.bias - f.fbits) := by
  rw [log_natCast_mul_zpow hm, FFmt.grid, if_neg hm, FFmt.emin, max_sub_sub_right]

theorem natCast_mul_zpow_lt (n j : Nat) (v : Int) : (n * 2 ^ v : ℚ) < 2 ^ (v + j) ↔ n < 2 ^ j := by
  rw [zpow_add₀ two_ne_zero, mul_comm, mul_lt_mul_iff_right₀ (by positivity), zpow_natCast]
  exact_mod_cast Iff.rfl

theorem zpow_le_natCast_mul (n j : Nat) (v : Int) : (2 : ℚ) ^ (v + j) ≤ n * 2 ^ v ↔ 2 ^ j ≤ n := by
  rw [← not_lt, natCast_mul_zpow_lt, not_lt]

/-- One spacing has fewer than 2^(fbits + 1) multiples. -/
theorem FFmt.whole_lt_of_splits (f : FFmt) {m : Nat} (hm : m ≠ 0) {e : Int} {k r s : Nat}
    (h : Splits (m * 2 ^ e) (f.grid m e) k r s) : k < 2 ^ (f.fbits + 1) := by
  have hx : (m * 2 ^ e : ℚ) < 2 ^ (f.grid m e + (f.fbits + 1 : Nat)) := by
    rw [← not_le, zpow_le_iff_le_expOf hm, FFmt.grid, if_neg hm]
    push_cast
    omega
  exact (natCast_mul_zpow_lt ..).mp (h.whole_le.trans_lt hx)

theorem FFmt.umin_le_grid (f : FFmt) (m : Nat) (e : Int) : f.umin ≤ f.grid m e := by
  unfold FFmt.grid FFmt.umin
  split_ifs
  · exact le_rfl
  · exact sub_le_sub_right (le_max_right _ _) _

/-! ## The largest finite value (R63, R72) -/

theorem cmpMag_gt_iff (m n : Nat) (d e : Int) : cmpMag m d n e = .gt ↔ (n * 2 ^ e : ℚ) < m * 2 ^ d := by
  have scale (k : Nat) (a : Int) (h : min d e ≤ a) : (k * 2 ^ a : ℚ) = (k * 2 ^ (a - min d e).toNat : Nat) * 2 ^ min d e := by
    obtain ⟨c, rfl⟩ := Int.le.dest h
    rw [add_sub_cancel_left, Int.toNat_natCast, zpow_add₀ two_ne_zero, zpow_natCast]
    push_cast
    ring
  rw [cmpMag, Nat.compare_eq_gt, scale m d (min_le_left _ _), scale n e (min_le_right _ _), mul_lt_mul_iff_left₀ (by positivity), Nat.cast_lt]

/-- The formats of the arithmetic words (R72). -/
def FFmt.IsArith (f : FFmt) : Prop := f = .f32 ∨ f = .f16 ∨ f = .bf16

/-- The largest finite value. -/
def FFmt.top (f : FFmt) : ℚ := (2 - 2 ^ (-(f.fbits : Int))) * 2 ^ f.bias

section
variable {f : FFmt} (hf : f.IsArith)
include hf

theorem FFmt.value_maxCode : f.value f.maxCode = .fin false (2 ^ (f.fbits + 1) - 1) (f.bias - f.fbits) := by
  rcases hf with rfl | rfl | rfl <;> decide

theorem FFmt.beyond_iff (k : Nat) (u : Int) : f.beyond k u = true ↔ f.top < k * 2 ^ u := by
  have htop : f.top = (2 ^ (f.fbits + 1) - 1 : Nat) * 2 ^ (f.bias - f.fbits) := by
    rw [FFmt.top, sub_eq_add_neg f.bias, zpow_add₀ two_ne_zero, Nat.cast_sub Nat.one_le_two_pow, pow_succ]
    push_cast
    rw [zpow_neg, zpow_natCast]
    field_simp
  rw [FFmt.beyond, FFmt.value_maxCode hf, htop, ← cmpMag_gt_iff]
  exact decide_eq_true_iff

theorem FFmt.value_inf (neg : Bool) : f.value (f.signed neg (f.infCode.getD f.maxCode)) = .inf neg := by
  rcases hf with rfl | rfl | rfl <;> cases neg <;> decide

end

/-! ## Codes (R63, R64) -/

section
variable (f : FFmt) (neg : Bool) {mag : Nat}

theorem FFmt.signed_mod (h : mag < 2 ^ f.sbits) : f.signed neg mag % 2 ^ f.sbits = mag := by
  unfold FFmt.signed
  split_ifs
  · rw [Nat.add_mod_right, Nat.mod_eq_of_lt h]
  · exact Nat.mod_eq_of_lt h

theorem FFmt.signed_sign (h : mag < 2 ^ f.sbits) : f.signed neg mag / 2 ^ f.sbits % 2 = 1 ↔ neg = true := by
  unfold FFmt.signed
  split_ifs with hn
  · simp [hn, Nat.add_div_right, Nat.div_eq_of_lt h]
  · simp [hn, Nat.div_eq_of_lt h]

theorem FFmt.le_signed_iff (h : mag < 2 ^ f.sbits) : 2 ^ f.sbits ≤ f.signed neg mag ↔ neg = true := by
  unfold FFmt.signed
  split_ifs with hn
  · simp [hn]
  · simpa [hn] using h

end

/-- The magnitude of the exponent field ex and the fraction fr (R64). -/
def FFmt.magnitude (f : FFmt) (ex fr : Nat) : ℚ :=
  if ex = 0 then fr * 2 ^ f.umin else (2 ^ f.fbits + fr : Nat) * 2 ^ (ex - f.bias - f.fbits)

theorem FFmt.fields_lt (f : FFmt) {ex fr : Nat} (hex : ex < 2 ^ f.ebits - 1) (hfr : fr < 2 ^ f.fbits) :
    ex * 2 ^ f.fbits + fr < 2 ^ f.sbits := by
  have h : (ex + 1) * 2 ^ f.fbits ≤ 2 ^ f.ebits * 2 ^ f.fbits := Nat.mul_le_mul_right _ (by omega)
  rw [FFmt.sbits, pow_add]
  linarith

section
variable {f : FFmt} (hf : f.IsArith)
include hf

/-- A code whose exponent field is not the largest one is subnormal or normal. -/
theorem FFmt.value_signed (neg : Bool) {ex fr : Nat} (hex : ex < 2 ^ f.ebits - 1) (hfr : fr < 2 ^ f.fbits) :
    f.value (f.signed neg (ex * 2 ^ f.fbits + fr)) =
      if ex = 0 then .fin neg fr f.umin else .fin neg (2 ^ f.fbits + fr) (ex - f.bias - f.fbits) := by
  have hmag := f.fields_lt hex hfr
  have hdiv : (ex * 2 ^ f.fbits + fr) / 2 ^ f.fbits = ex := by
    rw [mul_comm, Nat.mul_add_div (by positivity), Nat.div_eq_of_lt hfr, add_zero]
  have hmod : (ex * 2 ^ f.fbits + fr) % 2 ^ f.fbits = fr := by
    rw [mul_comm, Nat.mul_add_mod, Nat.mod_eq_of_lt hfr]
  simp only [FFmt.value, f.signed_mod neg hmag, f.signed_sign neg hmag, hdiv, hmod, hex.ne, decide_false, Bool.false_and, Bool.decide_eq_true]
  rcases hf with rfl | rfl | rfl <;> simp only [Bool.false_eq_true, if_false]

/-- Such a code stands for its magnitude with its sign. -/
theorem FFmt.rat_value_signed (neg : Bool) {ex fr : Nat} (hex : ex < 2 ^ f.ebits - 1) (hfr : fr < 2 ^ f.fbits) :
    (f.value (f.signed neg (ex * 2 ^ f.fbits + fr))).rat = some ((if neg then -1 else 1) * f.magnitude ex fr) := by
  rw [FFmt.value_signed hf neg hex hfr, FFmt.magnitude]
  by_cases h : ex = 0
  · rw [if_pos h, if_pos h]
    rfl
  · rw [if_neg h, if_neg h]
    rfl

/-- The exponent of a value that is not beyond the largest finite one has an exponent field below the largest. -/
theorem FFmt.exponent_field_lt {p : Int} {x : ℚ} (hp : 2 ^ p ≤ x) (hx : x ≤ f.top) : (p + f.bias).toNat < 2 ^ f.ebits - 1 := by
  have htop : f.top < 2 ^ (f.bias + 1) := by
    rw [FFmt.top, zpow_add_one₀ two_ne_zero, mul_comm]
    exact mul_lt_mul_of_pos_left (sub_lt_self _ (by positivity)) (by positivity)
  have hlt : p < f.bias + 1 := (zpow_lt_zpow_iff_right₀ one_lt_two).mp (hp.trans_lt (hx.trans_lt htop))
  rcases hf with rfl | rfl | rfl <;> simp only [FFmt.bias, FFmt.ebits] at hlt ⊢ <;> omega

end

/-- A multiple of a spacing of the grid, the first one of the next spacing included, is a multiple of the spacing at itself. -/
theorem FFmt.multiple_of_grid (f : FFmt) {k : Nat} {u : Int} (hk : k ≠ 0) (hu : f.umin ≤ u) (hle : k ≤ 2 ^ (f.fbits + 1)) :
    ∃ n : Nat, (k * 2 ^ u : ℚ) = n * 2 ^ f.grid k u := by
  by_cases h : f.grid k u ≤ u
  · obtain ⟨d, hd⟩ := Int.le.dest h
    refine ⟨k * 2 ^ d, ?_⟩
    nth_rw 1 [← hd]
    rw [zpow_add₀ two_ne_zero, zpow_natCast]
    push_cast
    ring
  · have hlog : f.fbits + 1 ≤ Nat.log2 k := by
      simp only [FFmt.umin] at hu
      simp only [FFmt.grid, if_neg hk, expOf] at h
      omega
    have hpow : k = 2 ^ (f.fbits + 1) := le_antisymm hle ((Nat.le_log2 hk).mp hlog)
    have hgrid : f.grid k u = u + 1 := by
      have hlog' : Nat.log2 k = f.fbits + 1 := by rw [hpow, Nat.log2_two_pow]
      simp only [FFmt.umin] at hu
      simp only [FFmt.grid, if_neg hk, expOf, hlog']
      omega
    refine ⟨2 ^ f.fbits, ?_⟩
    rw [hgrid, zpow_add_one₀ two_ne_zero, hpow]
    push_cast
    ring

theorem splitAt2_of_multiple {k n : Nat} {u v : Int} (h : (k * 2 ^ u : ℚ) = n * 2 ^ v) : (splitAt2 k u v).1 = n := by
  have hfloor := (splitAt2_splits k u v).floor_eq
  rw [h, mul_div_assoc, div_self (by positivity), mul_one, Int.floor_natCast] at hfloor
  exact_mod_cast hfloor.symm

section
variable {f : FFmt} {k n : Nat} {u : Int} (hk : k ≠ 0) (hn : (k * 2 ^ u : ℚ) = n * 2 ^ f.grid k u)
include hk hn

/-- The code of a subnormal multiple is its number of smallest spacings. -/
theorem FFmt.code_subnormal (neg : Bool) (hsub : expOf k u < f.emin) :
    n < 2 ^ f.fbits ∧ f.code neg k u = f.signed neg n ∧ (k * 2 ^ u : ℚ) = n * 2 ^ f.umin := by
  have hgrid : f.grid k u = f.umin := by rw [FFmt.grid, if_neg hk, max_eq_right hsub.le, FFmt.umin]
  have hlt : ¬(2 : ℚ) ^ (f.umin + f.fbits) ≤ k * 2 ^ u := by
    rw [zpow_le_iff_le_expOf hk, FFmt.umin]
    omega
  rw [hgrid] at hn
  rw [hn, zpow_le_natCast_mul, not_le] at hlt
  exact ⟨hlt, by simp [FFmt.code, hk, hsub, splitAt2_of_multiple hn], hn⟩

/-- The code of a normal multiple is its exponent field over the fraction without the leading one. -/
theorem FFmt.code_normal (neg : Bool) (hnorm : ¬expOf k u < f.emin) : 2 ^ f.fbits ≤ n ∧ n < 2 ^ (f.fbits + 1) ∧
    f.code neg k u = f.signed neg ((expOf k u + f.bias).toNat * 2 ^ f.fbits + (n - 2 ^ f.fbits)) ∧
      (k * 2 ^ u : ℚ) = n * 2 ^ (expOf k u - f.fbits) := by
  have hgrid : f.grid k u = expOf k u - f.fbits := by rw [FFmt.grid, if_neg hk, max_eq_left (not_lt.mp hnorm)]
  have hlo : (2 : ℚ) ^ (expOf k u - f.fbits + f.fbits) ≤ k * 2 ^ u := by
    rw [zpow_le_iff_le_expOf hk]
    omega
  have hhi : ¬(2 : ℚ) ^ (expOf k u - f.fbits + (f.fbits + 1 : Nat)) ≤ k * 2 ^ u := by
    rw [zpow_le_iff_le_expOf hk]
    omega
  rw [hgrid] at hn
  rw [hn, zpow_le_natCast_mul] at hlo hhi
  refine ⟨hlo, not_le.mp hhi, ?_, hn⟩
  simp only [FFmt.code, if_neg hk, if_neg hnorm, splitAt2_of_multiple hn, Nat.add_sub_assoc hlo]

end

/-- The code of a multiple that is not beyond the largest finite value has its magnitude. -/
theorem FFmt.code_fields {f : FFmt} (hf : f.IsArith) (neg : Bool) {k : Nat} {u : Int} (hu : f.umin ≤ u) (hle : k ≤ 2 ^ (f.fbits + 1))
    (hx : k * 2 ^ u ≤ f.top) : ∃ ex fr, ex < 2 ^ f.ebits - 1 ∧ fr < 2 ^ f.fbits ∧
      f.code neg k u = f.signed neg (ex * 2 ^ f.fbits + fr) ∧ k * 2 ^ u = f.magnitude ex fr := by
  have hzero : 0 < 2 ^ f.ebits - 1 := by rcases hf with rfl | rfl | rfl <;> decide
  by_cases hk : k = 0
  · exact ⟨0, 0, hzero, by positivity, by simp [FFmt.code, hk], by simp [FFmt.magnitude, hk]⟩
  obtain ⟨n, hn⟩ := f.multiple_of_grid hk hu hle
  by_cases hsub : expOf k u < f.emin
  · obtain ⟨hlt, hcode, hmag⟩ := FFmt.code_subnormal hk hn neg hsub
    exact ⟨0, n, hzero, hlt, by rw [hcode, zero_mul, zero_add], by rw [hmag, FFmt.magnitude, if_pos rfl]⟩
  · obtain ⟨hlo, hhi, hcode, hmag⟩ := FFmt.code_normal hk hn neg hsub
    have hexp : 0 < expOf k u + f.bias := by
      rw [FFmt.emin] at hsub
      omega
    have hfield := FFmt.exponent_field_lt hf ((zpow_le_iff_le_expOf hk ..).mpr le_rfl) hx
    refine ⟨_, _, hfield, by omega, hcode, ?_⟩
    rw [hmag, FFmt.magnitude, if_neg (by omega), Nat.add_sub_cancel' hlo, Int.toNat_of_nonneg hexp.le, add_sub_cancel_right]

/-! ## Rounding to a float format (R72, R73) -/

/-- The multiple of the spacing that the mode takes, and the overflow of R72. -/
theorem FFmt.round_fin (f : FFmt) (rm : BitVec 2) (draw : Nat) (neg : Bool) (m : Nat) (e : Int) {k r s k' : Nat}
    (h : splitAt2 m e (f.grid m e) = (k, r, s)) (hk' : k' = if roundsUp rm neg draw k r s then k + 1 else k) :
    f.round rm draw (.fin neg m e) =
      if f.beyond k' (f.grid m e) then
        f.signed neg (if rm = 0 ∨ (rm = 2 ∧ neg = true) ∨ (rm = 3 ∧ k' = k + 1) then f.infCode.getD f.maxCode else f.maxCode)
      else f.code neg k' (f.grid m e) := by
  have hup : roundsUp rm neg draw k r s = true ↔ k' = k + 1 := by
    split_ifs at hk' <;> simp [*]
  simp only [FFmt.round, h, ← hk']
  simp only [hup]
  rcases mode_cases rm with rfl | rfl | rfl | rfl
  · simp
  · simp
  · cases neg <;> simp
  · by_cases hc : k' = k + 1 <;> simp [hc]

theorem roundingRuleRule : RoundingRuleRule := by
  intro f rm draw neg m e hf hm _ x u k φ up top code k' hup hdown
  obtain ⟨k₀, r, s, hsplit⟩ : ∃ k₀ r s, splitAt2 m e (f.grid m e) = (k₀, r, s) := ⟨_, _, _, rfl⟩
  have hs : Splits x (f.grid m e) k₀ r s := splits_of_splitAt2 hsplit
  have hu : u = 2 ^ f.grid m e := by rw [f.grid_eq hm]
  have hk : k = k₀ := by simp only [k, hu, hs.floor_eq, Int.toNat_natCast]
  have hφ : φ = r / 2 ^ s := by simp only [φ, hk, hu, hs.div_eq, add_sub_cancel_left]
  have hiff : up ↔ roundsUp rm neg draw k₀ r s = true := by
    rw [roundsUp_iff, ← hφ, ← hk]
    exact Iff.rfl
  have hk' : k' = if roundsUp rm neg draw k₀ r s then k₀ + 1 else k₀ := by
    split_ifs with h
    · rw [hup (hiff.mpr h), hk]
    · rw [hdown (hiff.not.mpr h), hk]
  have hbeyond : f.beyond k' (f.grid m e) = true ↔ top < k' * u := by rw [FFmt.beyond_iff hf, hu]; rfl
  have hcode := f.round_fin rm draw neg m e hsplit hk'
  refine ⟨fun hle => ?_, fun hgt => ?_⟩
  · have hcarry : k' ≤ 2 ^ (f.fbits + 1) := by
      have hlt := f.whole_lt_of_splits hm hs
      split_ifs at hk' <;> omega
    obtain ⟨ex, fr, hex, hfr, hfields, hmag⟩ := FFmt.code_fields hf neg (f.umin_le_grid m e) hcarry (hu ▸ hle)
    rw [if_neg (hbeyond.not.mpr (not_lt.mpr hle)), hfields] at hcode
    change (f.value (f.round rm draw (.fin neg m e))).rat = _ ∧ (_ ≤ f.round rm draw (.fin neg m e) ↔ _)
    rw [hcode, hu, hmag]
    exact ⟨FFmt.rat_value_signed hf neg hex hfr, f.le_signed_iff neg (f.fields_lt hex hfr)⟩
  · rw [if_pos (hbeyond.mpr hgt), ← hk] at hcode
    change f.value (f.round rm draw (.fin neg m e)) = _
    rw [hcode]
    split_ifs with hinf hneg
    · exact FFmt.value_inf hf neg
    · rw [FFmt.signed, if_pos hneg, FFmt.sbits]
    · rw [FFmt.signed, if_neg hneg, add_zero]

/-! ## Rounding to an integer (R66, R71, R73) -/

theorem wrapInt_coded (w : Nat) (n : Int) : wrapInt w n < 2 ^ w ∧ ∃ j : Int, (wrapInt w n : Int) = n + j * 2 ^ w := by
  have hpos : (0 : Int) < 2 ^ w := by positivity
  have hcast : (wrapInt w n : Int) = n % 2 ^ w := Int.toNat_of_nonneg (Int.emod_nonneg n hpos.ne')
  refine ⟨?_, -(n / 2 ^ w), ?_⟩
  · have hlt := Int.emod_lt_of_pos n hpos
    rw [← hcast] at hlt
    exact_mod_cast hlt
  · rw [hcast, Int.emod_def]
    ring

theorem intMin_le_intMax (sg : Bool) (w : Nat) : intMin sg w ≤ intMax sg w := by
  have h (j : Nat) : (0 : Int) < 2 ^ j := by positivity
  have h1 := h w
  have h2 := h (w - 1)
  unfold intMin intMax
  split_ifs <;> omega

/-- The whole number that the mode takes, or the nearest end of the range. -/
theorem narrow_int_fin (sg : Bool) (w : Nat) (rm : BitVec 2) (draw : Nat) (neg : Bool) (m : Nat) (e : Int) {k r s k' : Nat}
    (h : splitAt2 m e 0 = (k, r, s)) (hk' : k' = if roundsUp rm neg draw k r s then k + 1 else k)
    {v : Int} (hv : v = if neg then -(k' : Int) else k') :
    narrow (.int sg w) rm draw (.fin neg m e) =
      { code := wrapInt w (max (intMin sg w) (min v (intMax sg w))), sat := decide (v < intMin sg w ∨ intMax sg w < v), nan := false } := by
  have hcast : (if roundsUp rm neg draw k r s then (k : Int) + 1 else k) = k' := by
    rw [hk']
    split_ifs <;> rfl
  have hrange := intMin_le_intMax sg w
  simp only [narrow, h, hcast, ← hv]
  split_ifs with hlo hhi
  · rw [max_eq_left (by omega), decide_eq_true (.inl hlo)]
  · rw [min_eq_right hhi.le, max_eq_right hrange, decide_eq_true (.inr hhi)]
  · rw [min_eq_left (not_lt.mp hhi), max_eq_right (not_lt.mp hlo), decide_eq_false (by tauto)]

section
variable {k : Nat} {φ : ℚ} {n : Int} (h0 : 0 ≤ φ) (h1 : φ < 1)
include h0 h1

/-- The nearest whole number, the even one of two. -/
theorem nearest_unique (hn : |k + φ - n| ≤ 1 / 2) (htie : |k + φ - n| = 1 / 2 → n % 2 = 0) :
    n = if 1 / 2 < φ ∨ (φ = 1 / 2 ∧ k % 2 = 1) then (k : Int) + 1 else k := by
  obtain ⟨hlo, hhi⟩ := abs_le.mp hn
  have hge : (k : Int) - 1 < n := by
    have h : (k : ℚ) - 1 < n := by linarith
    exact_mod_cast h
  have hle : n < k + 2 := by
    have h : (n : ℚ) < k + 2 := by linarith
    exact_mod_cast h
  obtain rfl | rfl : n = k ∨ n = k + 1 := by omega
  · push_cast at hn htie hhi
    rw [if_neg]
    rintro (hgt | ⟨heq, hodd⟩)
    · linarith
    · have heven := htie (by rw [add_sub_cancel_left, heq]; norm_num)
      omega
  · push_cast at hn htie hlo
    rw [if_pos]
    rcases lt_or_eq_of_le (show 1 / 2 ≤ φ by linarith) with hgt | heq
    · exact .inl hgt
    · have heven := htie (by rw [add_sub_add_left_eq_sub, ← heq]; norm_num)
      exact .inr ⟨heq.symm, by omega⟩

/-- The whole number next to zero. -/
theorem toward_zero_unique (hle : |(n : ℚ)| ≤ k + φ) (hlt : k + φ < |(n : ℚ)| + 1) (hsign : 0 ≤ (k + φ) * n) : n = k := by
  have habs : |n| = k := by
    rw [← floor_natCast_add_frac k h0 h1, eq_comm, Int.floor_eq_iff, Int.cast_abs]
    exact ⟨hle, hlt⟩
  rcases Nat.eq_zero_or_pos k with rfl | hk
  · exact abs_eq_zero.mp habs
  · have hpos : (0 : ℚ) < k + φ := by positivity
    have hn : (0 : ℚ) ≤ n := nonneg_of_mul_nonneg_right hsign hpos
    rwa [abs_of_nonneg (by exact_mod_cast hn)] at habs

/-- The whole number at or below. -/
theorem floor_unique (hle : n ≤ k + φ) (hlt : k + φ < n + 1) : n = k := by
  rw [← floor_natCast_add_frac k h0 h1, eq_comm, Int.floor_eq_iff]
  exact ⟨hle, hlt⟩

/-- The whole number at or above. -/
theorem ceil_unique (hle : k + φ ≤ n) (hlt : n < k + φ + 1) : n = if 0 < φ then (k : Int) + 1 else k := by
  rw [← Int.ceil_eq_iff.mpr ⟨sub_lt_iff_lt_add.mpr hlt, hle⟩, Int.ceil_eq_iff]
  split_ifs with hpos <;> push_cast <;> exact ⟨by linarith, by linarith⟩

end

section
variable {neg : Bool} {k : Nat} {φ x : ℚ} {n : Int} (h0 : 0 ≤ φ) (h1 : φ < 1) (hx : x = (if neg then -1 else 1) * (k + φ))
include h0 h1 hx

theorem nearest_signed (hn : |x - n| ≤ 1 / 2) (htie : |x - n| = 1 / 2 → n % 2 = 0) :
    (if neg then -n else n) = if 1 / 2 < φ ∨ (φ = 1 / 2 ∧ k % 2 = 1) then (k : Int) + 1 else k := by
  have habs : |x - n| = |k + φ - (if neg then -n else n : Int)| := by
    cases neg
    · simp [hx]
    · rw [← abs_neg]
      simp [hx, sub_eq_add_neg, add_comm]
  rw [habs] at hn htie
  refine nearest_unique h0 h1 hn fun h => ?_
  have heven := htie h
  split_ifs <;> omega

theorem toward_zero_signed (hle : |(n : ℚ)| ≤ |x|) (hlt : |x| < |(n : ℚ)| + 1) (hsign : 0 ≤ x * n) : (if neg then -n else n) = (k : Int) := by
  have hn : |(n : ℚ)| = |((if neg then -n else n : Int) : ℚ)| := by cases neg <;> simp
  have hxabs : |x| = k + φ := by
    rw [hx, abs_mul, abs_of_nonneg (by positivity : 0 ≤ k + φ)]
    cases neg <;> simp
  have hmul : x * n = (k + φ) * (if neg then -n else n : Int) := by
    rw [hx]
    split_ifs <;> push_cast <;> ring
  rw [hn, hxabs] at hle hlt
  exact toward_zero_unique h0 h1 hle hlt (hmul ▸ hsign)

theorem floor_signed (hle : n ≤ x) (hlt : x < n + 1) : (if neg then -n else n) = if neg = true ∧ 0 < φ then (k : Int) + 1 else k := by
  cases neg
  case false =>
    rw [if_neg (by decide), one_mul] at hx
    simpa using floor_unique h0 h1 (hx ▸ hle) (hx ▸ hlt)
  case true =>
    rw [if_pos rfl, neg_one_mul] at hx
    simpa using ceil_unique (n := -n) h0 h1 (by push_cast; linarith) (by push_cast; linarith)

end

/-- The whole number that a mode other than SR takes is the only one that its rule allows. -/
theorem rounded_unique {rm : BitVec 2} {neg : Bool} {draw k k' : Nat} {φ x : ℚ} {n : Int} (h0 : 0 ≤ φ) (h1 : φ < 1)
    (hx : x = (if neg then -1 else 1) * (k + φ))
    (hup : RoundsUp rm neg draw k φ → k' = k + 1) (hdown : ¬RoundsUp rm neg draw k φ → k' = k)
    (hnear : rm = 0 → |x - n| ≤ 1 / 2 ∧ (|x - n| = 1 / 2 → n % 2 = 0))
    (hzero : rm = 1 → |(n : ℚ)| ≤ |x| ∧ |x| < |(n : ℚ)| + 1 ∧ 0 ≤ x * n)
    (hfloor : rm = 2 → n ≤ x ∧ x < n + 1) (hrm : rm ≠ 3) : n = if neg then -(k' : Int) else k' := by
  suffices h : (if neg then -n else n) = (k' : Int) by
    rw [← h]
    cases neg <;> simp
  rcases mode_cases rm with rfl | rfl | rfl | rfl
  · obtain ⟨hn, htie⟩ := hnear rfl
    rw [nearest_signed h0 h1 hx hn htie]
    split_ifs with hc
    · rw [hup hc, Nat.cast_succ]
    · rw [hdown hc]
  · obtain ⟨hle, hlt, hsign⟩ := hzero rfl
    rw [toward_zero_signed h0 h1 hx hle hlt hsign, hdown id]
  · obtain ⟨hle, hlt⟩ := hfloor rfl
    rw [floor_signed h0 h1 hx hle hlt]
    split_ifs with hc
    · rw [hup hc, Nat.cast_succ]
    · rw [hdown hc]
  · exact absurd rfl hrm

theorem narrowToIntegerRule : NarrowToIntegerRule := by
  intro sg w rm draw neg m e _ _ lo hi coded at_ x
  refine ⟨⟨wrapInt_coded w _, rfl, rfl⟩, ⟨?_, rfl, rfl⟩, fun n hnear hzero hfloor hrm => ?_⟩
  · cases neg <;> exact wrapInt_coded w _
  · obtain ⟨k, r, s, hsplit⟩ : ∃ k r s, splitAt2 m e 0 = (k, r, s) := ⟨_, _, _, rfl⟩
    have hs := splits_of_splitAt2 hsplit
    have hx : x = (if neg then -1 else 1) * (k + r / 2 ^ s) := by simp only [x, hs.eq, zpow_zero, mul_one]
    have hiff := roundsUp_iff rm neg draw k r s
    have hn := rounded_unique (k' := if roundsUp rm neg draw k r s then k + 1 else k) (Splits.frac_nonneg r s) hs.frac_lt_one hx
      (fun h => if_pos (hiff.mpr h)) (fun h => if_neg (hiff.not.mpr h)) hnear hzero hfloor hrm
    have hnarrow : at_ (.fin neg m e) = _ := narrow_int_fin sg w rm draw neg m e hsplit rfl hn
    rw [hnarrow]
    exact ⟨rfl, decide_eq_true_iff, wrapInt_coded w _⟩

/-- Settles O15: the model's whole part and rest are ⌊x ÷ u⌋ and φ; the code of a multiple of the spacing has its magnitude, and the whole
number that a mode takes is the only one its rule allows. -/
theorem roundingRule : Obligations.RoundingRule := ⟨narrowToIntegerRule, roundingRuleRule⟩

end Sys2Proof.Machine
end

section
/-! The integer and predicate words of S (R109-R113): what each function of the model is on the numbers of its type, how a word with
readable operands gives its result, and from that the statements O11, O12 and O54. -/

namespace Sys2Proof.Machine

/-! ## The numbers of an integer type (R38, R60) -/

theorem wideT_cases (t : BitVec 4) : wideT t = 1 ∨ wideT t = 2 := by
  unfold wideT
  split_ifs <;> simp

theorem intVal_signedT (t : BitVec 4) {w : Nat} (x : BitVec w) : intVal (signedT t) x = tnum t x := by
  simp [intVal, signedT, tnum]

/-- The bits of a value's number are the value. -/
theorem ofInt_tnum (t : BitVec 4) {w : Nat} (x : BitVec w) : BitVec.ofInt w (tnum t x) = x := by
  unfold tnum
  split_ifs <;> simp

theorem tnum_of_signed {t : BitVec 4} (h : t.toNat < 4) {w : Nat} (x : BitVec w) : tnum t x = x.toInt := if_pos h

theorem tnum_of_unsigned {t : BitVec 4} (h : ¬t.toNat < 4) {w : Nat} (x : BitVec w) : tnum t x = x.toNat := if_neg h

theorem tnum_eq_zero (t : BitVec 4) {w : Nat} (x : BitVec w) : tnum t x = 0 ↔ x = 0 := by
  unfold tnum
  split_ifs
  · rw [← BitVec.toInt_inj]
    simp
  · rw [← BitVec.toNat_inj]
    simp

/-! ## The functions of R109 and R110 on numbers -/

section
variable (t : BitVec 4) {w : Nat} (x y : BitVec w)

theorem aluMul_eq : aluMul (signedT t) w x y = BitVec.ofInt w (tnum t x * tnum t y) := by
  rw [BitVec.ofInt_mul, ofInt_tnum, ofInt_tnum]
  rfl

theorem aluMulh_eq : aluMulh (signedT t) w x y = BitVec.ofInt w (tnum t x * tnum t y / 2 ^ w) := by
  simp only [aluMulh, intVal_signedT]

theorem aluMin_eq : aluMin (signedT t) w x y = BitVec.ofInt w (min (tnum t x) (tnum t y)) := by
  simp only [aluMin, intVal_signedT]
  split_ifs with h
  · rw [min_eq_right h.le, ofInt_tnum]
  · rw [min_eq_left (not_lt.mp h), ofInt_tnum]

theorem aluMax_eq : aluMax (signedT t) w x y = BitVec.ofInt w (max (tnum t x) (tnum t y)) := by
  simp only [aluMax, intVal_signedT]
  split_ifs with h
  · rw [max_eq_right h.le, ofInt_tnum]
  · rw [max_eq_left (not_lt.mp h), ofInt_tnum]

/-- Division truncates toward zero; a divisor of 0 gives all ones (R110). -/
theorem aluDiv_eq : aluDiv (signedT t) w x y = if y = 0 then ~~~0 else BitVec.ofInt w ((tnum t x).tdiv (tnum t y)) := by
  unfold aluDiv
  by_cases hy : y = 0
  · simp only [hy, if_pos]
  by_cases ht : t.toNat < 4
  · have hs : signedT t = true := decide_eq_true ht
    rw [if_neg hy, if_neg hy, hs, if_pos rfl, tnum_of_signed ht, tnum_of_signed ht]
    rw [← BitVec.toInt_inj, BitVec.toInt_sdiv, BitVec.toInt_ofInt]
  · have hs : signedT t = false := decide_eq_false ht
    rw [if_neg hy, if_neg hy, hs, if_neg Bool.false_ne_true, tnum_of_unsigned ht, tnum_of_unsigned ht]
    rw [Int.tdiv_eq_ediv_of_nonneg (Int.natCast_nonneg _), ← Int.natCast_ediv, ← BitVec.toNat_udiv, BitVec.ofInt_natCast, BitVec.ofNat_toNat,
      BitVec.setWidth_eq]

/-- The remainder has the dividend's sign; a divisor of 0 gives the dividend (R110). -/
theorem aluRem_eq : aluRem (signedT t) w x y = if y = 0 then x else BitVec.ofInt w ((tnum t x).tmod (tnum t y)) := by
  unfold aluRem
  by_cases hy : y = 0
  · simp only [hy, if_pos]
  by_cases ht : t.toNat < 4
  · have hs : signedT t = true := decide_eq_true ht
    rw [if_neg hy, if_neg hy, hs, if_pos rfl, tnum_of_signed ht, tnum_of_signed ht, ← BitVec.toInt_srem, BitVec.ofInt_toInt]
  · have hs : signedT t = false := decide_eq_false ht
    rw [if_neg hy, if_neg hy, hs, if_neg Bool.false_ne_true, tnum_of_unsigned ht, tnum_of_unsigned ht]
    rw [Int.tmod_eq_emod_of_nonneg (Int.natCast_nonneg _), ← Int.natCast_emod, ← BitVec.toNat_umod, BitVec.ofInt_natCast, BitVec.ofNat_toNat,
      BitVec.setWidth_eq]

end

/-! ## Words that give one result (R33, R96) -/

/-- A result of T's width needs no cut. -/
theorem result_wide (s : State) (st : StreamId) (d : BitVec 7) (t : BitVec 4) (lat : Nat) (v : BitVec (32 * wideT t)) (pred : Bool) :
    result s st d (wideT t) lat (v.setWidth 128) pred =
      .done s { res := some { val := .scalar (v.setWidth 128), dest := dstOf st d (wideT t) pred, lat := lat } } := by
  obtain h | h := wideT_cases t <;> revert v <;> rw [h] <;> intro v
  · rw [result_one, BitVec.setWidth_setWidth_of_le v (by decide), BitVec.setWidth_eq]
  · rw [result_two, BitVec.setWidth_setWidth_of_le v (by decide), BitVec.setWidth_eq]

/-- A value cut to T's width. -/
theorem result_cut (s : State) (st : StreamId) (d : BitVec 7) (t : BitVec 4) (lat : Nat) (v : W128) (pred : Bool) :
    result s st d (wideT t) lat v pred =
      .done s { res := some { val := .scalar ((v.setWidth (32 * wideT t)).setWidth 128), dest := dstOf st d (wideT t) pred, lat := lat } } := by
  obtain h | h := wideT_cases t <;> rw [h]
  · exact result_one ..
  · exact result_two ..

/-- A result of 32 bits needs no cut to one register. -/
theorem result_word (s : State) (st : StreamId) (d : BitVec 7) (lat : Nat) (v : W32) (pred : Bool) :
    result s st d 1 lat (v.setWidth 128) pred = .done s { res := some { val := .scalar (v.setWidth 128), dest := dstOf st d 1 pred, lat := lat } } := by
  rw [result_one, BitVec.setWidth_setWidth_of_le v (by decide), BitVec.setWidth_eq]

/-- A word whose effect is one result gives it. -/
theorem gives_of_body {i : Instr} {st : StreamId} {h : Hdr} {g : BitVec 4} {z : Option Nat} {body : State → Act} {s : State} {d : BitVec 7}
    {w lat : Nat} {v : W128} {pred : Bool} (hx : exec i s = runWord i st h g z s body)
    (hb : body (startWord st s) =
      .done (startWord st s) { res := some { val := .scalar v, dest := dstOf st d w pred, lat := lat } })
    (hs : Starts i st h g s) : Gives i st h d w lat v pred s :=
  hx.trans (runWord_done hs hb)

section
variable {i : Instr} {h : Hdr} {o : FR} {z : Option Nat} {s : State} {a b : W128} {lat : Nat}

theorem gives_int2 {f : Alu2} (hx : exec i s = runWord i .S h o.g z s (int2 .S o lat f)) (ha : s.core.src .S o.a (wideT o.t) = .ok a)
    (hb : s.core.src .S o.b (wideT o.t) = .ok b) {v : BitVec (32 * wideT o.t)}
    (hv : f (signedT o.t) (32 * wideT o.t) (a.setWidth _) (b.setWidth _) = v) (hs : Starts i .S h o.g s) :
    Gives i .S h o.d (wideT o.t) lat (v.setWidth 128) false s := by
  refine gives_of_body hx ?_ hs
  rw [int2, withSrc_ok ha, withSrc_ok hb, ← hv]
  exact result_wide ..

theorem gives_intC {f : AluC} (hx : exec i s = runWord i .S h o.g z s (intC .S o lat f)) (ha : s.core.src .S o.a (wideT o.t) = .ok a)
    (hb : s.core.src .S o.b 1 = .ok b) {v : BitVec (32 * wideT o.t)}
    (hv : f (signedT o.t) (32 * wideT o.t) (a.setWidth _) (b.setWidth 32) = v) (hs : Starts i .S h o.g s) :
    Gives i .S h o.d (wideT o.t) lat (v.setWidth 128) false s := by
  refine gives_of_body hx ?_ hs
  rw [intC, withSrc_ok ha, with32_ok hb, ← hv]
  exact result_wide ..

theorem gives_int1 {f : Alu1} (hx : exec i s = runWord i .S h o.g z s (int1 .S o lat f)) (ha : s.core.src .S o.a (wideT o.t) = .ok a)
    {v : BitVec (32 * wideT o.t)} (hv : f (32 * wideT o.t) (a.setWidth _) = v) (hs : Starts i .S h o.g s) :
    Gives i .S h o.d (wideT o.t) lat (v.setWidth 128) false s := by
  refine gives_of_body hx ?_ hs
  rw [int1, withSrc_ok ha, ← hv]
  exact result_wide ..

end

/-- Settles O11: each word applies one function to its two operands, and `div` and `rem` are those of R110. -/
theorem integerTwoOperand : Obligations.IntegerTwoOperand := by
  intro h o s a b ha hb
  have two {i : Instr} {z : Option Nat} {lat : Nat} {f : Alu2} {v : BitVec (32 * wideT o.t)}
      (hx : exec i s = runWord i .S h o.g z s (int2 .S o lat f))
      (hv : f (signedT o.t) (32 * wideT o.t) (a.setWidth _) (b.setWidth _) = v) : Starts i .S h o.g s →
        Gives i .S h o.d (wideT o.t) lat (v.setWidth 128) false s := gives_int2 hx ha hb hv
  exact ⟨two rfl rfl, two rfl rfl, two rfl (aluMul_eq ..), two rfl (aluMulh_eq ..), two rfl (aluDiv_eq ..), two rfl (aluRem_eq ..),
    two rfl (aluMin_eq ..), two rfl (aluMax_eq ..), two rfl rfl, two rfl rfl, two rfl rfl, two rfl rfl⟩

/-! ## Division and remainder whole (R110) -/

/-- The quotient that R110 describes, not beyond the dividend and less than a divisor from it, is the one of truncation. -/
theorem truncated_unique {x y q : Int} (hle : |q * y| ≤ |x|) (hlt : |x - q * y| < |y|) :
    x.tdiv y = q ∧ x.tmod y = x - q * y := by
  have hy : y ≠ 0 := fun h => by simp [h] at hlt; exact absurd hlt (not_lt.mpr (abs_nonneg _))
  have hsum : x - q * y + y * q = x := by ring
  rw [Int.abs_eq_natAbs y, abs_lt] at hlt
  obtain hx | hx := le_total 0 x
  · rw [abs_of_nonneg hx] at hle
    exact (Int.tdiv_tmod_unique hx hy).mpr ⟨hsum, by linarith [le_abs_self (q * y)], hlt.2⟩
  · rw [abs_of_nonpos hx] at hle
    exact (Int.tdiv_tmod_unique' hx hy).mpr ⟨hsum, hlt.1, by linarith [neg_abs_le (q * y)]⟩

/-- The most negative value is its own negation. -/
theorem ofInt_neg_toInt_min {w : Nat} {x : BitVec w} (hw : 0 < w) (hx : x.toInt = -2 ^ (w - 1)) : BitVec.ofInt w (-x.toInt) = x := by
  have hmin : x = BitVec.intMin w := by
    rw [← BitVec.toInt_inj, BitVec.toInt_intMin, hx, Nat.mod_eq_of_lt (Nat.pow_lt_pow_right one_lt_two (by omega))]
    norm_cast
  rw [BitVec.ofInt_neg, BitVec.ofInt_toInt, hmin, BitVec.neg_intMin]

/-- Nothing but one core has changed over two steps that each change that core only. -/
theorem OnlyCore.trans {s t u : State} (h : OnlyCore s t) (k : OnlyCore t u) : OnlyCore s u := by
  obtain ⟨hs, hc⟩ := h
  obtain ⟨ht, hd⟩ := k
  have hcur := congrArg State.cur hs
  refine ⟨?_, fun j hj => (hd j (hcur ▸ hj)).trans (hc j hj)⟩
  have : { u with cores := s.cores } = { { u with cores := t.cores } with cores := s.cores } := rfl
  rw [this, ht, hs]

/-- A word that has started and gone on has changed its core only (R90, R96). -/
theorem onlyCore_finishWord (st : StreamId) (h : Hdr) (d : Done) (s : State) : OnlyCore s (finishWord st h d s) := onlyCore_setCore ..

theorem onlyCore_startWord (st : StreamId) (s : State) : OnlyCore s (startWord st s) := onlyCore_setCore ..

/-- A word that gives a result has changed its core only, and no byte of memory. -/
theorem Gives.frame {i : Instr} {st : StreamId} {h : Hdr} {d : BitVec 7} {w lat : Nat} {v : W128} {pred : Bool} {s t : State}
    (hg : Gives i st h d w lat v pred s) (ht : exec i s = .next t) : OnlyCore s t ∧ ∀ pa, t.mem.byte pa = s.mem.byte pa := by
  obtain rfl := Host.Outcome.next.inj (hg.symm.trans ht)
  exact ⟨(onlyCore_startWord st s).trans (onlyCore_finishWord ..), fun pa => rfl⟩

/-- Settles O54: O11 gives quotient and remainder; the most negative dividend by −1 is the one case where they wrap. -/
theorem divideAndRemainder : Obligations.DivideAndRemainder := by
  intro h o s a b hsd hsr ha hb w x y lat gives
  obtain ⟨-, -, -, -, hdiv, hrem, -⟩ := integerTwoOperand h o s a b ha hb
  have hd := hdiv hsd
  have hr := hrem hsr
  refine ⟨fun hy => ?zero, fun ht hx hy => ?overflow, fun q hy _ hle hlt _ => ?truncated, fun i hi t ht => ?frame⟩
  case zero =>
    rw [if_pos hy] at hd hr
    exact ⟨hd, hr⟩
  case overflow =>
    have hy0 : y ≠ 0 := fun h0 => by simp [h0] at hy
    rw [if_neg hy0, tnum_of_signed ht, tnum_of_signed ht] at hd hr
    beta_reduce at hd hr
    have hw : 0 < w := by
      have := wideT_cases o.t
      omega
    have hq : BitVec.ofInt w (x.toInt.tdiv y.toInt) = x := by rw [hy, Int.tdiv_neg, Int.tdiv_one, ofInt_neg_toInt_min hw hx]
    have hm : BitVec.ofInt w (x.toInt.tmod y.toInt) = 0 := by rw [hy, Int.tmod_neg, Int.tmod_one]; rfl
    rw [hq] at hd
    rw [hm] at hr
    exact ⟨hd, hr⟩
  case truncated =>
    obtain ⟨hq, hm⟩ := truncated_unique hle hlt
    rw [if_neg hy, hq] at hd
    rw [if_neg hy, hm] at hr
    exact ⟨hd, hr⟩
  case frame =>
    obtain rfl | hi := List.mem_cons.mp hi
    · exact hd.frame ht
    · obtain rfl := List.mem_singleton.mp hi
      exact hr.frame ht

/-! ## Shifts, bit fields and counts (R109) -/

section
variable {w : Nat} (x : BitVec w) (n : W32)

theorem aluShl_eq (sg : Bool) : aluShl sg w x n = BitVec.ofNat w (x.toNat * 2 ^ min n.toNat w) := by
  unfold aluShl
  split_ifs with h
  · rw [min_eq_right h, ← BitVec.toNat_inj]
    simp
  · rw [min_eq_left (not_le.mp h).le, ← BitVec.toNat_inj]
    simp [Nat.shiftLeft_eq]

theorem aluShr_eq (sg : Bool) : aluShr sg w x n = BitVec.ofNat w (x.toNat / 2 ^ min n.toNat w) := by
  unfold aluShr
  split_ifs with h
  · rw [min_eq_right h, Nat.div_eq_of_lt x.isLt]
    rfl
  · rw [min_eq_left (not_le.mp h).le, ← Nat.shiftRight_eq_div_pow, ← BitVec.toNat_ushiftRight, BitVec.ofNat_toNat, BitVec.setWidth_eq]

theorem aluSar_eq (sg : Bool) : aluSar sg w x n = BitVec.ofInt w (x.toInt / 2 ^ min n.toNat w) := by
  have h : x.toInt / 2 ^ min n.toNat w = (x.sshiftRight (min n.toNat w)).toInt := by
    rw [BitVec.toInt_sshiftRight, Int.shiftRight_eq_div_pow]
    norm_cast
  rw [h, BitVec.ofInt_toInt]
  rfl

/-- Position and width of a field, as the control's value gives them. -/
theorem fieldOf_eq : fieldOf w n = (n.toNat % 64, min (n.toNat / 256 % 128) (w - n.toNat % 64)) := by
  simp [fieldOf, Nat.shiftRight_eq_div_pow]

/-- The low k bits of a number read as a value of k bits, with its sign or without. -/
theorem intOf_eq {sg : Bool} {k c : Nat} (hk : k ≠ 0) :
    intOf sg k c = if sg = true then (BitVec.ofNat k c).toInt else ((BitVec.ofNat k c).toNat : Int) := by
  have hpow : 2 ^ k = 2 * 2 ^ (k - 1) := by rw [← Nat.pow_succ', Nat.succ_eq_add_one, Nat.sub_add_cancel (Nat.one_le_iff_ne_zero.mpr hk)]
  cases sg
  · simp [intOf]
  · simp only [intOf, BitVec.toInt_eq_toNat_cond, BitVec.toNat_ofNat, Bool.true_and, decide_eq_true_eq, if_true]
    have hcast : ((2 ^ k : Nat) : Int) = 2 ^ k := by norm_cast
    split_ifs <;> omega

theorem aluBfx_eq (t : BitVec 4) : aluBfx (signedT t) w x n =
    if min (n.toNat / 256 % 128) (w - n.toNat % 64) = 0 then 0 else
      let f : BitVec (min (n.toNat / 256 % 128) (w - n.toNat % 64)) := BitVec.ofNat _ (x.toNat / 2 ^ (n.toNat % 64))
      if t.toNat < 4 then BitVec.ofInt w f.toInt else BitVec.ofNat w f.toNat := by
  simp only [aluBfx, fieldOf_eq]
  split_ifs with hk ht
  · rfl
  · rw [intOf_eq hk, signedT, decide_eq_true ht, if_pos rfl]
  · rw [intOf_eq hk, signedT, decide_eq_false ht, if_neg Bool.false_ne_true, BitVec.ofInt_natCast]

theorem aluClz_zero : aluClz w 0 = BitVec.ofNat w w := if_pos rfl

theorem aluCtz_zero : aluCtz w 0 = BitVec.ofNat w w := by
  have hf : (List.range w).find? (fun i => (0 : BitVec w).getLsbD i) = none := List.find?_eq_none.mpr fun i _ => by simp
  rw [aluCtz, hf]
  rfl

/-- The leading one of a value stands at k. -/
theorem aluClz_top {k : Nat} (h : x.toNat / 2 ^ k = 1) : aluClz w x = BitVec.ofNat w (w - 1 - k) := by
  have hx : x.toNat ≠ 0 := fun h0 => by simp [h0] at h
  have h0 : x ≠ 0 := fun h0 => hx (by rw [h0]; rfl)
  obtain ⟨hle, hlt⟩ := (Nat.div_eq_iff (Nat.two_pow_pos k)).mp h
  have hlog : x.toNat.log2 = k := (Nat.log2_eq_iff hx).mpr ⟨by omega, by rw [Nat.pow_succ]; omega⟩
  rw [aluClz, if_neg h0, hlog]

/-- The lowest one of a value stands at k. -/
theorem aluCtz_low {k : Nat} (hk : k < w) (h : x.getLsbD k = true) (hlow : ∀ j, j < k → x.getLsbD j = false) :
    aluCtz w x = BitVec.ofNat w k := by
  have hf : (List.range w).find? (fun i => x.getLsbD i) = some k :=
    List.find?_range_eq_some.mpr ⟨h, List.mem_range.mpr hk, fun j hj => by rw [hlow j hj]; rfl⟩
  rw [aluCtz, hf]
  rfl

theorem aluPopc_eq : aluPopc w x = BitVec.ofNat w ((List.range w).countP fun k => x.getLsbD k) := by
  rw [aluPopc, List.countP_eq_length_filter]

end

theorem integerBitsRule : IntegerBitsRule := by
  intro h o s a b ha hb w x n pos len gives
  have ctl {i : Instr} {z : Option Nat} {f : AluC} {v : BitVec w} (hx : exec i s = runWord i .S h o.g z s (intC .S o 1 f))
      (hv : f (signedT o.t) w x (b.setWidth 32) = v) : gives i v := gives_intC hx ha hb hv
  have one {i : Instr} {z : Option Nat} {f : Alu1} {v : BitVec w} (hx : exec i s = runWord i .S h o.g z s (int1 .S o 1 f))
      (hv : f w x = v) : gives i v := gives_int1 hx ha hv
  exact ⟨ctl rfl (aluShl_eq ..), ctl rfl (aluShr_eq ..), ctl rfl (aluSar_eq ..), ctl rfl rfl, ctl rfl (aluBfx_eq ..),
    fun h0 => ⟨one rfl (h0 ▸ aluClz_zero), one rfl (h0 ▸ aluCtz_zero)⟩, fun k _ hk => one rfl (aluClz_top x hk),
    fun k hk hb hlow => one rfl (aluCtz_low x hk hb hlow), one rfl (aluPopc_eq x), one rfl rfl⟩

/-! ## Selects, compares, immediates and predicates (R109, R112, R113) -/

/-- A truth value needs no cut to one register. -/
theorem result_bit (s : State) (d : BitVec 7) (lat : Nat) (p : Bool) (pred : Bool) :
    result s .S d 1 lat (bitVal p) pred = .done s { res := some { val := .scalar (bitVal p), dest := dstOf .S d 1 pred, lat := lat } } := by
  rw [result_one]
  cases p <;> rfl

theorem aluBfi_eq {w : Nat} (x y : BitVec w) (ctl : W32) : aluBfi w x y ctl =
    let field : BitVec w := BitVec.ofNat w (2 ^ min (ctl.toNat / 256 % 128) (w - ctl.toNat % 64) - 1) <<< (ctl.toNat % 64)
    (x &&& ~~~field) ||| (y <<< (ctl.toNat % 64) &&& field) := by
  have hfield (k p : Nat) : BitVec.ofNat w ((2 ^ k - 1) * 2 ^ p) = BitVec.ofNat w (2 ^ k - 1) <<< p := by
    rw [← BitVec.toNat_inj]
    simp [Nat.shiftLeft_eq]
  simp only [aluBfi, fieldOf_eq, hfield]

/-- The truth of a condition code of `cmp` on two integers (R112). -/
def intCondition (n : Nat) (x y : Int) : Bool :=
  match n with | 0 => x = y | 1 => x ≠ y | 2 => x < y | 3 => x ≤ y | 4 => y < x | _ => y ≤ x

theorem cmpInt_eq {n : Nat} (hn : n ≤ 5) (x y : Int) : cmpInt n x y = intCondition n x y := by
  have hlt := compare_lt_iff_lt (a := x) (b := y)
  have heq := compare_eq_iff_eq (a := x) (b := y)
  have hgt := compare_gt_iff_gt (a := x) (b := y)
  unfold cmpInt
  interval_cases n <;> simp only [condHolds, intCondition, Option.some.injEq, hlt, heq, hgt] <;> grind

/-- The code of an immediate specifier that holds a number. -/
theorem immNat_of_immOf {sp : BitVec 7} {n : Nat} (h : immOf sp = some (n : Int)) : immNat sp = n := by
  rw [immNat, h]
  rfl

/-- A number read from eight bits, with their sign. -/
theorem intOf_byte (a : W128) : intOf true 8 (a.setWidth 32 : W32).toNat = (a.setWidth 8 : BitVec 8).toInt := by
  rw [intOf_eq (by decide), if_pos rfl, BitVec.ofNat_toNat, BitVec.setWidth_setWidth_of_le a (by decide)]

theorem setWidth_ofInt {v w : Nat} (h : w ≤ v) (i : Int) : (BitVec.ofInt v i).setWidth w = BitVec.ofInt w i := by
  have hd : ((2 ^ w : Nat) : Int) ∣ (2 ^ v : Nat) := Int.natCast_dvd_natCast.mpr (Nat.pow_dvd_pow 2 h)
  rw [← BitVec.toNat_inj, BitVec.toNat_setWidth, BitVec.toNat_ofInt, BitVec.toNat_ofInt]
  zify
  rw [Int.toNat_of_nonneg (Int.emod_nonneg _ (by positivity)), Int.toNat_of_nonneg (Int.emod_nonneg _ (by positivity))]
  exact_mod_cast Int.emod_emod_of_dvd i hd

theorem integerSelectAndCompareRule : IntegerSelectAndCompareRule := by
  intro h o f s a b c w cut bit gives
  have hw : w ≤ 128 := by
    have := wideT_cases o.t
    omega
  refine ⟨fun ha hb hc => ?mad, fun ha hb hc => ?bfi, fun hc ha hb => ?sel, fun ha hc h0 => ?keep, fun ha hc h0 hd hb => ?kept,
    fun ha ht => ?ext, fun ha hb => ?cmp, fun ha hb => ?preds, fun ha => ?pnot, ?movi, fun ha => ?movh⟩
  case mad =>
    refine gives_of_body rfl ?_
    rw [withSrc_ok ha, withSrc_ok hb, withSrc_ok hc, result_cut, BitVec.setWidth_add _ _ hw, BitVec.setWidth_mul _ _ hw]
    rfl
  case bfi =>
    refine gives_of_body rfl ?_
    rw [withSrc_ok ha, withSrc_ok hb, with32_ok hc, aluBfi_eq]
    exact result_wide ..
  case sel =>
    refine gives_of_body rfl ?_
    rw [with32_ok hc, withSrc_ok ha, withSrc_ok hb, result_cut]
  case keep =>
    refine gives_of_body rfl ?_
    rw [withSrc_ok ha, with32_ok hc, if_pos h0, result_cut]
  case kept =>
    refine gives_of_body rfl ?_
    rw [withSrc_ok ha, with32_ok hc, if_neg (not_not.mpr h0), if_pos hd, withSrc_ok hb, result_cut]
  case ext =>
    have hext (n : Nat) : extAct .S o n (startWord .S s) = result (startWord .S s) .S o.d n 1 (BitVec.ofInt 128 (a.setWidth 8 : BitVec 8).toInt) := by
      rw [extAct, with32_ok ha, ht, ← intOf_byte]
      rfl
    refine gives_of_body rfl ?_
    rw [hext]
    split_ifs
    · rw [result_two, setWidth_ofInt (by decide)]
    · rw [result_one, setWidth_ofInt (by decide)]
  case cmp =>
    intro x y holds n hn hi
    refine gives_of_body rfl ?_
    rw [cmpAct, withSrc_ok ha, withSrc_ok hb, result_bit]
    dsimp only
    rw [immNat_of_immOf hi, intVal_signedT, intVal_signedT, cmpInt_eq hn]
    rfl
  case preds =>
    have two {i : Instr} {f : Bool → Bool → Bool} (hx : exec i s = runWord i .S h o.g (some 1) s (predAct o f)) :
        gives i 1 1 (bit (f (decide (a.setWidth 32 ≠ (0 : W32))) (decide (b.setWidth 32 ≠ (0 : W32))))) true := by
      refine gives_of_body hx ?_
      rw [predAct, with32_ok ha, with32_ok hb, result_bit]
      rfl
    exact ⟨two rfl, two rfl, two rfl⟩
  case pnot =>
    refine gives_of_body rfl ?_
    rw [with32_ok ha, result_bit]
    rfl
  case movi =>
    refine gives_of_body rfl ?_
    rw [result_one, BitVec.signExtend, setWidth_ofInt (by decide)]
    rfl
  case movh =>
    have hlow : (a.setWidth 32 : W32).extractLsb' 0 16 = a.extractLsb' 0 16 := by
      ext i hi
      simp only [BitVec.getElem_extractLsb', BitVec.getLsbD_setWidth, Nat.zero_add, show i < 32 by omega, decide_true, Bool.true_and]
    refine gives_of_body rfl ?_
    rw [with32_ok ha, hlow]
    exact result_word ..

/-- Settles O12: each shift, field and count is its function on numbers, each select, comparison and predicate its choice. -/
theorem integerBits : Obligations.IntegerBits := ⟨integerBitsRule, integerSelectAndCompareRule⟩

end Sys2Proof.Machine
end

section
/-! What a word that starts leaves (R90, R96, R101), and a halting fault (R98, R165, R344): how raising the halt line reaches the cores of a
context, what stays of each stream, and from that the statement O10. -/

namespace Sys2Proof.Machine

/-! ## A started word (R90, R96, R101) -/

/-- A count of an event changes the counters only. -/
theorem Core.pmcAdd_only (c : Core) (ev n : Nat) : ∃ p, c.pmcAdd ev n = { c with pmc := p } := by
  unfold Core.pmcAdd
  split_ifs
  · exact ⟨c.pmc, rfl⟩
  · exact ⟨_, rfl⟩

/-- A word names no token queue twice (R29, R100). -/
theorem tokenQueues_nodup (st : StreamId) (pop : Bool) (bits : BitVec 3) : (tokenQueues st pop bits).Nodup := by
  revert bits
  cases st <;> cases pop <;> decide

/-- One token is taken from each queue of a list without repetition, and from no other. -/
theorem sget_takeTokens {l : List Nat} (hl : l.Nodup) (m : Sparse Nat) (q : Nat) :
    sget 0 (l.foldl (fun m q => sset 0 m q (sget 0 m q - 1)) m) q = if q ∈ l then sget 0 m q - 1 else sget 0 m q := by
  induction l generalizing m with
  | nil => rfl
  | cons a l ih =>
    obtain ⟨ha, hl⟩ := List.nodup_cons.mp hl
    rw [List.foldl_cons, ih hl, sget_sset]
    by_cases hq : q = a
    · subst hq
      simp [ha]
    · simp [hq]

/-- The stream of a word that goes on: at the next word or at the target, unless it has halted (R90). -/
def Stream.goOn (m : Stream) (d : Done) (clk : Nat) : Stream :=
  if m.st = .halted then m else { m with pc := d.target.getD (m.pc + 8), last := clk, atAlign := none }

theorem Stream.goOn_live {m : Stream} (h : m.st ≠ .halted) (d : Done) (clk : Nat) :
    m.goOn d clk = { m with pc := d.target.getD (m.pc + 8), last := clk, atAlign := none } := if_neg h

/-- The core of a word that has started, but for its counters. -/
theorem finishWord_core (st : StreamId) (h : Hdr) (d : Done) (s : State) : ∃ p, (finishWord st h d s).core =
    { s.core.modStr st fun m => m.goOn d s.core.clk with
      tokens := (tokenQueues st true h.pop).foldl (fun m q => sset 0 m q (sget 0 m q - 1)) s.core.tokens
      flight := s.core.flight ++ inFlightOf st h (s.clockOf st) s.core.nextSeq (s.core.str st).pc (s.core.str st).loops d
      nextSeq := s.core.nextSeq + 1
      aTime := if st = .A then s.now + 1 else s.core.aTime
      pmc := p } := by
  unfold finishWord
  dsimp only
  rw [State.core_setCore]
  obtain ⟨p, hp⟩ := Core.pmcAdd_only _ (streamNo st + 1) 1
  rw [hp]
  exact ⟨p, by cases st <;> rfl⟩

theorem startedWordFrameRule : StartedWordFrameRule := by
  intro st h d s t c e
  obtain ⟨p, he⟩ : ∃ p, e = _ := finishWord_core st h d s
  have hstr (st' : StreamId) : e.str st' = (c.modStr st fun m => m.goOn d c.clk).str st' := by
    rw [he]
    cases st' <;> rfl
  refine ⟨onlyCore_finishWord .., fun pa => rfl, fun st' hne => (hstr st').trans (Core.str_modStr_other _ _ _ _ hne), fun hlive => ?_,
    fun q => ?_, ?_⟩
  · rw [hstr, Core.str_modStr, Stream.goOn_live hlive]
    exact ⟨rfl, rfl, rfl, rfl⟩
  · rw [he]
    exact sget_takeTokens (tokenQueues_nodup ..) _ q
  · rw [he]
    simp [c]

/-! ## The halt line reaches the cores of a context (R344) -/

theorem withdrawAcq_only (s : State) (k : Nat) : ∃ o q, withdrawAcq s k = { s with outbox := o, lockQ := q } := by
  unfold withdrawAcq
  refine List.foldlRecOn _ _ (motive := fun t : State => ∃ o q, t = { s with outbox := o, lockQ := q }) ⟨s.outbox, _, rfl⟩ ?_
  rintro t ⟨o, q, rfl⟩ tag -
  dsimp only
  split
  · exact ⟨_, q, rfl⟩
  · exact ⟨o, q, rfl⟩

theorem withdrawAll_only (s : State) (x : Nat) : ∃ o q, withdrawAll s x = { s with outbox := o, lockQ := q } := by
  refine List.foldlRecOn _ _ (motive := fun t : State => ∃ o q, t = { s with outbox := o, lockQ := q }) ⟨s.outbox, s.lockQ, rfl⟩ ?_
  rintro t ⟨o, q, rfl⟩ e -
  obtain ⟨o', q', h⟩ := withdrawAcq_only { s with outbox := o, lockQ := q } e.1
  exact ⟨o', q', h⟩

/-- The tags of the fabric accesses that wait at connections that are not open (R343, R389). -/
def waitingTags (l : List Conn) : List W64 :=
  (l.filter fun c => c.closed || c.st ≠ .openSt).flatMap fun c => (c.waiting.filter fun m => m.kind = 0 || m.kind = 2 || m.kind = 4).map (·.aux)

theorem mem_waitingTags {l : List Conn} {g : W64} : g ∈ waitingTags l ↔
    ∃ c ∈ l, (c.closed || c.st ≠ .openSt) = true ∧ ∃ m ∈ c.waiting, (m.kind = 0 || m.kind = 2 || m.kind = 4) = true ∧ m.aux = g := by
  simp only [waitingTags, List.mem_flatMap, List.mem_filter, List.mem_map, and_assoc]

/-- A core none of whose accesses waits at such a connection. -/
theorem connWaits_nil {s : State} {k : Nat} : connWaits s k = [] ↔
    ∀ f ∈ (s.getC k).aFlight, f.asked.isSome = true → ∀ g, f.fab = some g → g ∉ waitingTags s.conns := by
  rw [show connWaits s k = ((s.getC k).aFlight.filter fun f => f.asked.isSome && f.fab.any (waitingTags s.conns).contains).filterMap (·.fab) from rfl,
    List.filterMap_eq_nil_iff]
  simp only [List.mem_filter, Bool.and_eq_true, and_imp]
  refine forall₂_congr fun f _ => forall_congr' fun _ => ?_
  cases hf : f.fab <;> simp

/-- What taking back the accesses of cores that wait at a connection keeps: all but messages and what the cores have in flight; and a core
none of whose accesses waits. -/
structure RecallKeeps (s t : State) : Prop where
  only : { t with cores := s.cores, conns := s.conns, fabOut := s.fabOut } = s
  core : ∀ k, ∃ l, t.getC k = { s.getC k with flight := l }
  idle : ∀ k, connWaits s k = [] → t.getC k = s.getC k ∧ connWaits t k = []

theorem RecallKeeps.refl (s : State) : RecallKeeps s s := ⟨rfl, fun k => ⟨(s.getC k).flight, rfl⟩, fun _ h => ⟨rfl, h⟩⟩

theorem RecallKeeps.trans {s t u : State} (h : RecallKeeps s t) (k : RecallKeeps t u) : RecallKeeps s u := by
  obtain ⟨ho, hc, hi⟩ := h
  refine ⟨?_, fun j => ?_, fun j hj => ?_⟩
  · have := k.only
    rw [← ho, ← this]
  · obtain ⟨l, hl⟩ := hc j
    obtain ⟨l', hl'⟩ := k.core j
    exact ⟨l', by rw [hl', hl]⟩
  · obtain ⟨hc, hw⟩ := hi j hj
    obtain ⟨hc', hw'⟩ := k.idle j hw
    exact ⟨hc'.trans hc, hw'⟩

theorem recallWaiting_keeps (s : State) (j : Nat) : RecallKeeps s (recallWaiting s j) := by
  by_cases hj : connWaits s j = []
  · rw [recallWaiting_none hj]
    exact .refl s
  obtain ⟨tag, tags, htags⟩ := List.exists_cons_of_ne_nil hj
  have hcons {k : Nat} (hk : k ≠ j) : (recallWaiting s j).getC k = s.getC k := by
    unfold recallWaiting
    rw [htags]
    exact State.getC_putC_other _ _ _ _ hk
  refine ⟨?_, fun k => ?_, fun k hk => ?_⟩
  · unfold recallWaiting
    rw [htags]
    rfl
  · by_cases h : k = j
    · subst h
      unfold recallWaiting
      rw [htags]
      exact ⟨_, State.getC_putC ..⟩
    · exact ⟨(s.getC k).flight, hcons h⟩
  · have h : k ≠ j := fun h => hj (h ▸ hk)
    refine ⟨hcons h, connWaits_nil.mpr fun f hf ha g hg hin => ?_⟩
    rw [hcons h] at hf
    refine connWaits_nil.mp hk f hf ha g hg ?_
    unfold recallWaiting at hin
    rw [htags] at hin
    obtain ⟨c, hc, ho, m, hm, hkind, haux⟩ := mem_waitingTags.mp hin
    obtain ⟨c0, hc0, rfl⟩ := List.mem_map.mp hc
    exact mem_waitingTags.mpr ⟨c0, hc0, ho, m, (List.mem_filter.mp hm).1, hkind, haux⟩

theorem recallAll_keeps (s : State) (x : Nat) : RecallKeeps s (recallAll s x) :=
  List.foldlRecOn _ _ (.refl s) fun t ht e _ => ht.trans (recallWaiting_keeps t e.1)

/-- The cores of a context obey its halt line. -/
def haltCores (l : Sparse Core) (x : Nat) : Sparse Core := l.map fun e => if e.2.inst.any (·.ctx = x) then (e.1, e.2.halt) else e

theorem sget_haltCores (l : Sparse Core) (x k : Nat) : sget Core.reset (haltCores l x) k =
    if (sget Core.reset l k).inst.any (·.ctx = x) then (sget Core.reset l k).halt else sget Core.reset l k := by
  induction l with
  | nil => rfl
  | cons e l ih =>
    obtain ⟨j, c⟩ := e
    have hhead : (if c.inst.any (·.ctx = x) then (j, c.halt) else (j, c)) = (j, if c.inst.any (·.ctx = x) then c.halt else c) := by
      split_ifs <;> rfl
    simp only [haltCores, List.map_cons, hhead, sget] at ih ⊢
    by_cases h : k = j
    · simp only [h, if_true]
    · simp only [h, if_false, ih]

/-- What the line of a context keeps: the first code and agent, and the operations that cross a threshold while it is up (R80, R344). -/
def haltNote (now : Nat) (first : BitVec 16) (code : Byte) (c : Ctx) : Halt :=
  match c.halt with
  | some h => if 1536 ≤ first.toNat then { h with crossed := h.crossed ++ [first.toNat - 1536] } else h
  | none => { code := code, first := first, since := now, running := (c.ops.filter fun e => e.2.st = .running).map (·.1), crossed := [], broke := false }

/-- The halt line of a context that can be halted (R342, R344): its cores' waiting accesses are taken back, its streams halt, and the line is
noted. -/
theorem raiseHalt_eq {s : State} {x : Nat} (h : (s.getX x).st.halts = true) (first : BitVec 16) (code : Byte) :
    ∃ o q u, RecallKeeps { s with outbox := o, lockQ := q } u ∧ raiseHalt s x first code =
      ({ u with cores := haltCores u.cores x } : State).modX x fun c => { c with halt := some (haltNote s.now first code c) } := by
  obtain ⟨o, q, hw⟩ := withdrawAll_only s x
  have hk := recallAll_keeps (withdrawAll s x) x
  have hnow : (recallAll (withdrawAll s x) x).now = s.now := by
    have := congrArg State.now hk.only
    rw [hw] at this ⊢
    exact this
  refine ⟨o, q, recallAll (withdrawAll s x) x, hw ▸ hk, ?_⟩
  unfold raiseHalt
  rw [h, ← hnow]
  rfl

/-- A context that no halt line stops (R342). -/
theorem raiseHalt_refused {s : State} {x : Nat} (h : (s.getX x).st.halts = false) (first : BitVec 16) (code : Byte) :
    raiseHalt s x first code = s := by
  unfold raiseHalt
  rw [h]
  rfl

/-- What raising a context's halt line leaves of a core: nothing but what it has in flight changes, or it obeys the line. -/
theorem raiseHalt_core (s : State) (x : Nat) (first : BitVec 16) (code : Byte) (k : Nat) : ∃ l, (connWaits s k = [] → l = (s.getC k).flight) ∧
    ((raiseHalt s x first code).getC k = { s.getC k with flight := l } ∨
      (raiseHalt s x first code).getC k = Core.halt { s.getC k with flight := l }) := by
  by_cases h : (s.getX x).st.halts = true
  · obtain ⟨o, q, u, hk, he⟩ := raiseHalt_eq h first code
    obtain ⟨l, hl⟩ : ∃ l, u.getC k = { s.getC k with flight := l } := hk.core k
    refine ⟨l, fun hw => ?_, ?_⟩
    · have hidle : u.getC k = s.getC k := (hk.idle k hw).1
      exact (congrArg Core.flight hl).symm.trans (congrArg Core.flight hidle)
    · rw [he, ← hl]
      have hc := sget_haltCores u.cores x k
      split_ifs at hc
      · exact .inr hc
      · exact .inl hc
  · refine ⟨(s.getC k).flight, fun _ => rfl, .inl ?_⟩
    rw [raiseHalt_refused (Bool.not_eq_true _ ▸ h)]

theorem raiseHalt_cur (s : State) (x : Nat) (first : BitVec 16) (code : Byte) : (raiseHalt s x first code).cur = s.cur := by
  by_cases h : (s.getX x).st.halts = true
  · obtain ⟨o, q, u, hk, he⟩ := raiseHalt_eq h first code
    have hcur := congrArg State.cur hk.only
    rw [he]
    exact hcur
  · rw [raiseHalt_refused (Bool.not_eq_true _ ▸ h)]

theorem raiseHalt_getX {s : State} {x : Nat} (h : (s.getX x).st.halts = true) (first : BitVec 16) (code : Byte) :
    (raiseHalt s x first code).getX x = { s.getX x with halt := some (haltNote s.now first code (s.getX x)) } := by
  obtain ⟨o, q, u, hk, he⟩ := raiseHalt_eq h first code
  have hx := congrArg (State.getX · x) hk.only
  rw [he, State.getX_modX]
  exact congrArg (fun c : Ctx => { c with halt := some (haltNote s.now first code c) }) hx

/-- What A abandons leaves its other streams, and of A its fault and its state (R175). -/
theorem Core.abandonA_only (c : Core) : ∃ pc loops al fl oq tk sq, c.abandonA =
    { c with a := { c.a with pc := pc, loops := loops, atAlign := al }, flight := fl, oq := oq, tokens := tk, sq := sq } := by
  unfold Core.abandonA
  split
  · exact ⟨_, _, _, _, _, _, _, rfl⟩
  · exact ⟨c.a.pc, c.a.loops, c.a.atAlign, c.flight, c.oq, c.tokens, c.sq, rfl⟩

/-- Where every started word of A has passed its checks nothing is abandoned. -/
theorem Core.abandonA_none {c : Core} (h : c.aPending = false) : c.abandonA = c := by
  have hf : c.aFlight.find? (fun f => f.acc.isSome) = none := List.find?_eq_none.mpr (List.any_eq_false.mp h)
  unfold Core.abandonA
  rw [hf]

theorem Stream.halt_pc (m : Stream) : m.halt.pc = m.pc := by
  unfold Stream.halt
  split <;> rfl

theorem Stream.halt_fault (m : Stream) : m.halt.fault = m.fault := by
  unfold Stream.halt
  split <;> rfl

theorem Core.halt_str (c : Core) (st : StreamId) : c.halt.str st = (c.abandonA.str st).halt := by
  cases st <;> rfl

theorem Core.halt_fault (c : Core) (st : StreamId) : (c.halt.str st).fault = (c.str st).fault := by
  obtain ⟨_, _, _, _, _, _, _, h⟩ := c.abandonA_only
  rw [Core.halt_str, Stream.halt_fault, h]
  cases st <;> rfl

/-- A halt leaves the pc of a stream, but for A's where it abandons words (R175, R344). -/
theorem Core.halt_pc (c : Core) {st : StreamId} (h : st ≠ .A ∨ c.aPending = false) : (c.halt.str st).pc = (c.str st).pc := by
  rw [Core.halt_str, Stream.halt_pc]
  rcases h with h | h
  · obtain ⟨_, _, _, _, _, _, _, ha⟩ := c.abandonA_only
    rw [ha]
    cases st <;> first | rfl | exact absurd rfl h
  · rw [Core.abandonA_none h]

/-! ## A word's halting fault (R98, R165, R344) -/

theorem withSrc_bad {s : State} {st : StreamId} {sp : BitVec 7} {w : Nat} {k : W128 → Act} (h : s.core.src st sp w = .bad) :
    withSrc (startWord st s) st sp w k = .fault (stopCode cREG) := by
  simp only [withSrc, startWord_src, h]

theorem faultOrWait_unpassed {s : State} (h : s.core.aUnpassed = true) (f : StopInfo) : faultOrWait s .A f = stall .A s := by
  simp [faultOrWait, h]

/-- The narrow integer types take one register (R33, R38). -/
theorem wideT_of_narrow {t : BitVec 4} {sg : Bool} (h : tyOf t.toNat = .int sg 8 ∨ tyOf t.toNat = .int sg 16) : wideT t = 1 := by
  revert sg t
  decide

/-- `mov` of A faults where its source is invalid, whatever its type (R98, R161). -/
theorem exec_aMov_bad {h : Hdr} {o : FR} {s : State} (hs : Starts (.aMov h o) .A h o.g s) (hbad : s.core.src .A o.a (wideT o.t) = .bad) :
    exec (.aMov h o) s = .next (faultOrWait s .A (stopCode cREG)) := by
  have hone {w : Nat} (hw : wideT o.t = 1) : extAct .A o w (startWord .A s) = .fault (stopCode cREG) := by
    rw [extAct, with32, withSrc_bad (hw ▸ hbad)]
  refine runWord_fault hs ?_
  split
  · exact hone (wideT_of_narrow (.inl ‹_›))
  · exact hone (wideT_of_narrow (.inr ‹_›))
  · rw [withSrc_bad hbad]

/-- A residue mismatch is counted in a register. -/
theorem countResidue_only (s : State) (fn : Nat) (code : Byte) (va : W64) : ∃ d, countResidue s fn code va = { s with dc := d } := by
  unfold countResidue
  split_ifs
  · exact ⟨s.dc, rfl⟩
  · split
    · exact ⟨_, rfl⟩
    · exact ⟨s.dc, rfl⟩

/-- The state in which a word's fault raises the line: its stream keeps the fault, a residue mismatch is counted. -/
theorem haltWord_eq (s : State) (st : StreamId) (f : StopInfo) : ∃ d, haltWord s st f =
    raiseHalt (({ s with dc := d } : State).setCore (s.core.modStr st fun m => { m with fault := some f })) s.core.ctx
      (BitVec.ofNat 16 (4 * s.cur + streamNo st)) f.code := by
  obtain ⟨d, hd⟩ := countResidue_only (s.setCore (s.core.modStr st fun m => { m with fault := some f }))
    ((s.setCore (s.core.modStr st fun m => { m with fault := some f })).coreFn s.core) f.code f.addr
  exact ⟨d, congrArg (fun t => raiseHalt t _ _ _) hd⟩

/-- The faulting core: but for what it has in flight, and for the halt where its context obeys the line, only the fault is kept. -/
theorem haltWord_core (s : State) (st : StreamId) (f : StopInfo) :
    let c := s.core.modStr st fun m => { m with fault := some f }
    ∃ l, (connWaits s s.cur = [] → l = s.core.flight) ∧
      ((haltWord s st f).core = { c with flight := l } ∨ (haltWord s st f).core = Core.halt { c with flight := l }) := by
  intro c
  obtain ⟨d, hd⟩ := haltWord_eq s st f
  have hcore : (haltWord s st f).core = (haltWord s st f).getC s.cur := by
    unfold State.core
    rw [hd, raiseHalt_cur]
    rfl
  obtain ⟨l, hl, h⟩ := raiseHalt_core (({ s with dc := d } : State).setCore c) s.core.ctx (BitVec.ofNat 16 (4 * s.cur + streamNo st)) f.code s.cur
  have hc : (({ s with dc := d } : State).setCore c).getC s.cur = c := State.core_setCore s c
  have hf : c.flight = s.core.flight := Core.modStr_flight ..
  rw [hc] at hl h
  rw [hcore, hd]
  refine ⟨l, fun hw => (hl (connWaits_nil.mpr ?_)).trans hf, h⟩
  rw [hc, Core.aFlight, hf]
  exact connWaits_nil.mp hw

/-- The noted line of the context of a faulting word. -/
theorem haltWord_ctx {s : State} {st : StreamId} {f : StopInfo} (hs : (s.getX s.core.ctx).st.halts = true) :
    ((haltWord s st f).getX s.core.ctx).halt =
      some (haltNote s.now (BitVec.ofNat 16 (4 * s.cur + streamNo st)) f.code (s.getX s.core.ctx)) := by
  obtain ⟨d, hd⟩ := haltWord_eq s st f
  rw [hd]
  exact congrArg Ctx.halt (raiseHalt_getX (s := ({ s with dc := d } : State).setCore _) hs _ _)

theorem invalidRegisterFaultsRule : InvalidRegisterFaultsRule := by
  intro h o s raised
  refine ⟨fun hs hbad => ?mov, fun hs hbad => ⟨fun hp => ?fault, fun hp ha => ?waits⟩, fun st f => ⟨fun hst => ?pc, ?kept, fun hn _ hx => ?line⟩⟩
  case mov =>
    exact (runWord_fault hs (by rw [int1, withSrc_bad hbad])).trans (by rw [faultOrWait_trio (by decide)]; rfl)
  case fault => exact (exec_aMov_bad hs hbad).trans (by rw [faultOrWait_passed hp]; rfl)
  case waits =>
    have hl : (s.core.str .A).st.live = true := (Bool.and_eq_true _ _ ▸ hs.runs).2
    have hstr : (stall .A s).core.a = { s.core.a with st := .blocked } := stall_str hl ha
    exact ⟨stall .A s, (exec_aMov_bad hs hbad).trans (by rw [faultOrWait_unpassed hp]), stall_onlyCore .A s, by rw [hstr],
      by rw [hstr], stall_flight .A s⟩
  case pc =>
    obtain ⟨l, hl, h | h⟩ := haltWord_core s st f
    · rw [h, Core.str_withFlight, Core.str_modStr]
    · rw [h, Core.halt_pc, Core.str_withFlight, Core.str_modStr]
      refine hst.imp id fun ⟨hp, hw⟩ => ?_
      unfold Core.aPending Core.aFlight
      rw [hl hw]
      exact hp
  case kept =>
    obtain ⟨l, -, h | h⟩ := haltWord_core s st f
    · rw [h, Core.str_withFlight, Core.str_modStr]
    · rw [h, Core.halt_fault, Core.str_withFlight, Core.str_modStr]
  case line =>
    rw [haltWord_ctx hx, haltNote, hn]
    rfl

/-- Settles O10: `finishWord` writes the parts of its core that R90 names; a fault raises the line, which keeps each stream's fault and pc. -/
theorem startedWordFrame : Obligations.StartedWordFrame := ⟨startedWordFrameRule, invalidRegisterFaultsRule⟩

end Sys2Proof.Machine
end

section
/-! The common block (R94, R104-R108), calls and tables, and the control and system registers (R117-R125, R347, R348): what the effect of each
word is on the state in which it starts, and from that the statements O13 and O14. -/

namespace Sys2Proof.Machine

/-! ## Words that only pass, and words that fault -/

/-- A word whose effect is a state and a target passes. -/
theorem passes_of_body {i : Instr} {st : StreamId} {h : Hdr} {g : BitVec 4} {z : Option Nat} {body : State → Act} {s s' : State} {t : Option Nat}
    (hs : Starts i st h g s) (hx : exec i s = runWord i st h g z s body) (hb : body (startWord st s) = .done s' { target := t }) :
    Passes i st h t s s' := hx.trans (runWord_done hs hb)

/-- A word whose effect is a fault halts, in A where no started word has a check before it (R98, R165). -/
theorem halts_of_body {i : Instr} {st : StreamId} {h : Hdr} {g : BitVec 4} {z : Option Nat} {body : State → Act} {s : State} {f : StopInfo}
    (hs : Starts i st h g s) (hx : exec i s = runWord i st h g z s body) (hb : body (startWord st s) = .fault f)
    (hA : st = .A → s.core.aUnpassed = false) : exec i s = .next (haltWord s st f) := by
  rw [hx, runWord_fault hs hb]
  by_cases hst : st = .A
  · rw [faultOrWait_passed (hA hst)]
  · rw [faultOrWait_trio hst]

theorem startWord_str (st : StreamId) (s : State) : (startWord st s).core.str st = { s.core.str st with st := .aligned } := by
  rw [startWord_core, Core.str_modStr]

theorem startWord_flight (st : StreamId) (s : State) : (startWord st s).core.flight = s.core.flight := by
  rw [startWord_core, Core.modStr_flight]

theorem startWord_aPending (st : StreamId) (s : State) : (startWord st s).core.aPending = s.core.aPending := by
  unfold Core.aPending Core.aFlight
  rw [startWord_flight]

theorem startWord_coreInst (st : StreamId) (s : State) : (startWord st s).coreInst (startWord st s).core = s.coreInst s.core := by
  rw [startWord_core]
  unfold State.coreInst
  rw [Core.modStr_inst]
  rfl

/-- What has passed its checks has performed its access (R165). -/
theorem aPending_of_passed {c : Core} (h : c.aUnpassed = false) : c.aPending = false := by
  refine List.any_eq_false.mpr fun f hf hacc => List.any_eq_false.mp h f hf ?_
  rw [InFlight.unpassed, hacc, Bool.or_true]

/-- The target of a relative branch (R40). -/
theorem relPc_of_awayFrom {pc k : Nat} {off : Int} (h : awayFrom pc off k) : relPc pc off = k := by
  obtain ⟨hlt, n, hk⟩ := h
  unfold relPc
  omega

/-! ## The common block -/

/-- The predicate of a branch, on V of any lane or of all (R108). -/
def branchHolds (c : Core) (st : StreamId) (o : FB) : Bool :=
  let lanes : W64 := if o.p = 0 then ~~~0 else sget 0 c.vpreds o.p.toNat
  match st with
  | .V => if o.k.getLsbD 0 then lanes = ~~~0 else lanes ≠ 0
  | .A => o.p = 0 || c.apreds.getLsbD o.p.toNat
  | _ => o.p = 0 || c.preds.getLsbD o.p.toNat

/-- A branch that waits for no predicate in flight is taken where its predicate is not the one it names (R108). -/
theorem branchTaken_eq {c : Core} {st : StreamId} {o : FB} (h : st = .A → ∀ f ∈ c.flight, f.dest ≠ .apred o.p.toNat) :
    branchTaken c st o = some (branchHolds c st o != (o.n = 1)) := by
  have hp : (o.p.toNat = 0) = (o.p = 0) := by simp [← BitVec.toNat_inj]
  have hw : (decide (st = .A) && c.flight.any fun f => decide (f.dest = .apred o.p.toNat)) = false := by
    by_cases hst : st = .A
    · simpa [hst] using h hst
    · simp [hst]
  unfold branchTaken branchHolds
  simp only [hp, hw]
  cases st <;> rfl

theorem startWord_branchHolds (st : StreamId) (s : State) (o : FB) : branchHolds (startWord st s).core st o = branchHolds s.core st o := by
  unfold branchHolds
  rw [startWord_core, Core.modStr_vpreds, Core.modStr_apreds, Core.modStr_preds]

theorem bne_decide_of_eq {b : Bool} {p : Prop} [Decidable p] (h : (b = true) = p) : (b != decide p) = false := by
  subst h
  simp

theorem bne_decide_of_ne {b : Bool} {p : Prop} [Decidable p] (h : (b = true) ≠ p) : (b != decide p) = true := by
  by_contra hb
  rw [Bool.not_eq_true, bne_eq_false_iff_eq] at hb
  exact h (by rw [hb, decide_eq_true_eq])

/-- A loop is entered at the word after it where its count and the stack are within their limits (R105). -/
theorem loopAct_enters {st : StreamId} {level : BitVec 3} {v : W32} {s : State} {i : Inst} (hi : s.coreInst s.core = some i)
    (hle : v.toNat ≤ i.loopMax level.toNat) (h0 : v ≠ 0) (hlen : (s.core.str st).loops.length < 8) :
    loopAct st level v.toNat s = noResult (s.setCore (s.core.modStr st fun m =>
      { m with loops := { count := v.toNat, index := 0, body := (s.core.str st).pc + 8 } :: (s.core.str st).loops })) := by
  have hn : v.toNat ≠ 0 := fun h => h0 (BitVec.eq_of_toNat_eq h)
  simp [loopAct, hi, hn, Nat.not_lt.mpr hle, Nat.not_le.mpr hlen, Core.modStr]

/-- A count above LOOPMAX is LOOP_DEPTH (R56). -/
theorem loopAct_depth {st : StreamId} {level : BitVec 3} {n : Nat} {s : State} {i : Inst} (hi : s.coreInst s.core = some i)
    (hlt : i.loopMax level.toNat < n) : loopAct st level n s = .fault (stopCode cLOOP) := by
  simp [loopAct, hi, hlt]

theorem startWord_str_other {st o : StreamId} (h : o ≠ st) (s : State) : (startWord st s).core.str o = s.core.str o := by
  rw [startWord_core, Core.str_modStr_other _ _ _ _ h]

theorem atAlignOrEnded_of {m : Stream} (h : m.st = .stopped ∨ m.st = .halted ∨ m.atAlign = some 0) : atAlignOrEnded m = true := by
  rcases h with h | h | h <;> simp [atAlignOrEnded, StreamSt.ended, h]

/-- The core after the last `align` of the trio (R94). -/
def Core.aligned (c : Core) : Core :=
  { c with s := releaseAlign c.s, v := releaseAlign c.v, x := releaseAlign c.x, trioAligns := c.trioAligns + 1 }

theorem Core.str_aligned {c : Core} {o : StreamId} (h : o ≠ .A) : c.aligned.str o = releaseAlign (c.str o) := by
  cases o <;> first | rfl | exact absurd rfl h

/-- The last `align` of the trio lets the others issue (R94). -/
theorem alignAct_last {st : StreamId} {s : State} (hA : st ≠ .A) (h1 : (s.core.str st).atAlign ≠ some 1)
    (ho : ∀ o, o ≠ st → o ≠ .A → atAlignOrEnded (s.core.str o) = true) : alignAct st s = noResult (s.setCore s.core.aligned) := by
  have hall : (([StreamId.S, .V, .X].filter (· ≠ st)).all fun o => atAlignOrEnded (s.core.str o)) = true := by
    refine List.all_eq_true.mpr fun o hin => ?_
    obtain ⟨hmem, hne⟩ := List.mem_filter.mp hin
    exact ho o (of_decide_eq_true hne) (by rintro rfl; simp at hmem)
  cases st
  case A => exact absurd rfl hA
  all_goals
    simp only [alignAct]
    rw [if_neg h1, if_pos hall]
    rfl

theorem StreamSt.not_ended_of_live {m : StreamSt} (h : m.live = true) : m.ended = false := by
  cases m <;> first | rfl | exact absurd h Bool.false_ne_true

/-- A passes an `align` of the trio that it has not been matched with (R94). -/
theorem alignAct_matched {s : State} (hp : s.core.aPending = false) (ht : 0 < s.core.trioAligns)
    (hlive : (s.core.s.st.live || s.core.v.st.live || s.core.x.st.live) = true) :
    alignAct .A s = noResult (s.setCore { s.core with trioAligns := s.core.trioAligns - 1 }) := by
  have hnot : (s.core.s.st.ended && s.core.v.st.ended && s.core.x.st.ended) = false := by
    simp only [Bool.or_eq_true] at hlive
    rcases hlive with (h | h) | h <;> simp [StreamSt.not_ended_of_live h]
  simp [alignAct, hp, hnot, ht]

theorem commonBlockRule : CommonBlockRule := by
  intro st h no fl fi fb s c m s1 withLoops
  have hstr : s1.core.str st = { m with st := .aligned } := startWord_str st s
  refine ⟨fun hs => passes_of_body hs rfl rfl, fun hs hA => ?stop, fun hs hA => ?br, fun n i hs hV hc hn hi hle h0 hlen => ?enter,
    fun n i hs hV hc hn hi hA hlt => ?depth, fun e l hs he => ?endl, fun hs hA h1 ho => ?align, fun hs hp ht hlive => ?alignA,
    fun hs hA hb => ?hold, fun hs hA hb => ?trap, fun hr ha => ?pool⟩
  case stop =>
    refine passes_of_body hs rfl ?_
    rw [startWord_aPending, if_neg (by simpa using hA)]
    rfl
  case br =>
    have htaken : branchTaken s1.core st fb = some (branchHolds c st fb != (fb.n = 1)) := by
      rw [branchTaken_eq fun hst => by rw [startWord_flight]; exact hA hst, startWord_branchHolds]
    refine ⟨fun heq => passes_of_body hs rfl ?_, fun hne k hk => passes_of_body hs rfl ?_⟩
    all_goals rw [htaken]
    · have hnot : (branchHolds c st fb != decide (fb.n = 1)) = false := bne_decide_of_eq heq
      rw [hnot]
      rfl
    · have htake : (branchHolds c st fb != decide (fb.n = 1)) = true := bne_decide_of_ne hne
      rw [htake, hstr]
      exact congrArg (fun t => Act.done s1 { target := some t }) (relPc_of_awayFrom hk)
  case enter =>
    refine passes_of_body hs rfl ?_
    rw [if_neg hc, if_neg hV, with32_ok hn]
    have hact := loopAct_enters (level := fl.level) (startWord_coreInst st s ▸ hi) hle h0 (by rw [hstr]; exact hlen)
    rw [hstr] at hact
    exact hact
  case depth =>
    refine halts_of_body hs rfl ?_ hA
    rw [if_neg hc, if_neg hV, with32_ok hn]
    exact loopAct_depth (startWord_coreInst st s ▸ hi) hlt
  case endl =>
    have hl : (s1.core.str st).loops = e :: l := by rw [hstr, ← he]
    refine ⟨fun hlt => passes_of_body hs rfl ?_, fun hle => passes_of_body hs rfl ?_⟩
    all_goals
      dsimp only
      rw [hl]
      dsimp only
    · rw [if_pos hlt]
      rfl
    · rw [if_neg (Nat.not_lt.mpr hle)]
      rfl
  case align =>
    have hother {o : StreamId} (hne : o ≠ st) : s1.core.str o = c.str o := startWord_str_other hne s
    have hact : alignAct st s1 = _ := alignAct_last hA (by rw [hstr]; exact h1) fun o hne hoA => by
      rw [hother hne]
      exact atAlignOrEnded_of (ho o hne hoA)
    refine ⟨_, passes_of_body hs rfl hact, ?_⟩
    rw [State.core_setCore]
    refine ⟨congrArg (· + 1) (by rw [startWord_core, Core.modStr_trioAligns]), fun o hoA hw => ?_⟩
    have hw1 : (s1.core.str o).atAlign = some 0 := by
      by_cases hne : o = st
      · subst hne
        rw [hstr]
        exact hw
      · rw [hother hne]
        exact hw
    rw [Core.str_aligned hoA, releaseAlign, hw1]
    rfl
  case alignA =>
    refine passes_of_body hs rfl ?_
    have hcount : (startWord .A s).core.trioAligns = c.trioAligns := by rw [startWord_core, Core.modStr_trioAligns]
    have hother {o : StreamId} (hne : o ≠ .A) : (startWord .A s).core.str o = c.str o := startWord_str_other hne s
    have hact := alignAct_matched (s := startWord .A s) (startWord_aPending .A s ▸ hp) (hcount ▸ ht) (by
      rw [show (startWord .A s).core.s = c.s from hother (by decide : StreamId.S ≠ .A),
        show (startWord .A s).core.v = c.v from hother (by decide : StreamId.V ≠ .A),
        show (startWord .A s).core.x = c.x from hother (by decide : StreamId.X ≠ .A)]
      exact hlive)
    rw [hcount] at hact
    exact hact
  case hold =>
    have hdbg : s1.core.dbg = c.dbg := by rw [startWord_core, Core.modStr_dbg]
    have hpend : (decide (st = .A) && s1.core.aPending) = false := by
      rw [startWord_aPending]
      exact Bool.and_eq_false_imp.mpr fun hst => aPending_of_passed (hA (of_decide_eq_true hst))
    refine passes_of_body hs rfl ?_
    dsimp only
    rw [hpend, hdbg, hb]
    rfl
  case trap =>
    have hdbg : s1.core.dbg = c.dbg := by rw [startWord_core, Core.modStr_dbg]
    have hpend : (decide (st = .A) && s1.core.aPending) = false := by
      rw [startWord_aPending]
      exact Bool.and_eq_false_imp.mpr fun hst => aPending_of_passed (hA (of_decide_eq_true hst))
    refine halts_of_body hs rfl ?_ hA
    dsimp only
    rw [hpend, hdbg, hb]
    rfl
  case pool =>
    show execPool st h fi s = _
    unfold execPool
    rw [hr, ha]
    rfl

theorem withCode_held {s : State} {st : StreamId} {off : Nat} {w : W64} {k : W64 → Act} (h : sfind (s.core.str st).cache off = some w) :
    withCode s st off k = k w := by
  simp only [withCode, h]

/-- The two halves of a literal, lane by lane (R107). -/
theorem literalLanes_eq (w : W64) : ((List.range 64).map fun i => if i % 2 = 0 then w &&& 0xFFFFFFFF else w >>> 32) =
    (List.range 64).map fun i => if i % 2 = 0 then (w.extractLsb' 0 32).setWidth 64 else (w.extractLsb' 32 32).setWidth 64 := by
  have hlow : w &&& 0xFFFFFFFF = (w.extractLsb' 0 32).setWidth 64 := by
    rw [and_low_word]
    refine BitVec.eq_of_toNat_eq ?_
    simp
  have hhigh : w >>> 32 = (w.extractLsb' 32 32).setWidth 64 := by
    refine BitVec.eq_of_toNat_eq ?_
    have := w.isLt
    simp only [BitVec.toNat_ushiftRight, BitVec.toNat_setWidth, BitVec.extractLsb'_toNat, Nat.shiftRight_eq_div_pow]
    omega
  rw [hlow, hhigh]

theorem literalWordRule : LiteralWordRule := by
  intro st h o s k w hs hk hw
  have hcode (f : W64 → Act) : withCode (startWord st s) st (relPc ((startWord st s).core.str st).pc o.imm.toInt) f = f w := by
    rw [startWord_str, relPc_of_awayFrom hk, withCode_held (by rw [startWord_str]; exact hw)]
  refine ⟨fun hV => gives_of_body rfl ?_ hs, fun hV => ?_⟩
  · rw [hcode, if_neg hV, result_two, BitVec.setWidth_setWidth_of_le w (by decide), BitVec.setWidth_eq]
  · subst hV
    refine runWord_done hs ?_
    rw [hcode, if_pos rfl, literalLanes_eq]
    rfl

/-- Settles O13: each word of the block by its effect on the state in which it starts, `ldlit` by the two halves of its literal. -/
theorem commonBlock : Obligations.CommonBlock := ⟨commonBlockRule, literalWordRule⟩

/-! ## Calls and tables (R117, R118) -/

/-- `jmp` and `swt` jump by the entry that the cache holds (R49, R118). -/
theorem tableJump_held {s : State} {first n k : Nat} {e : W64} (he : sfind s.core.s.cache (first + 8 * n) = some e)
    (hk : awayFrom (first + 8 * n) (e.setWidth 32 : W32).toInt k) : tableJump s first n = .done s { target := some k } := by
  rw [tableJump, withCode_held (show sfind (s.core.str .S).cache _ = _ from he), relPc_of_awayFrom hk]

theorem callsAndTablesRule : CallsAndTablesRule := by
  intro h no fi fb s c s1 holds
  have hstr : s1.core.s = { c.s with st := .aligned } := startWord_str .S s
  have hcalls : s1.core.calls = c.calls := by rw [startWord_core, Core.modStr_calls]
  have htaken : branchTaken s1.core .S fb = some holds := by
    rw [branchTaken_eq fun hst => absurd hst (by decide), startWord_branchHolds]
    rfl
  refine ⟨fun hs ht => ⟨fun hlen k hk => ?call, fun hlen => ?deep⟩, fun hs hf => ?pass, fun hs => ⟨fun pc l hl => ?ret, fun hl => ?empty⟩,
    fun i first p e k n _ hfirst hi hp => ?tables⟩
  case call =>
    refine passes_of_body hs rfl ?_
    dsimp only
    rw [htaken, ht]
    dsimp only
    rw [hcalls, if_neg (Nat.not_le.mpr hlen), hstr, relPc_of_awayFrom hk]
  case deep =>
    refine halts_of_body hs rfl ?_ (fun hst => absurd hst (by decide))
    dsimp only
    rw [htaken, ht]
    dsimp only
    rw [hcalls, if_pos hlen]
    rfl
  case pass =>
    refine passes_of_body hs rfl ?_
    dsimp only
    rw [htaken, hf]
    rfl
  case ret =>
    refine passes_of_body hs rfl ?_
    dsimp only
    rw [hcalls, hl]
  case empty =>
    refine halts_of_body hs rfl ?_ (fun hst => absurd hst (by decide))
    dsimp only
    rw [hcalls, hl]
    rfl
  case tables =>
    intro count idx he hk
    have hrel : relPc s1.core.s.pc fi.imm.toInt = first := by rw [hstr, relPc_of_awayFrom hfirst]
    have hpool {f : W64 → Act} : withCode s1 .S (first - 8) f = f p :=
      withCode_held (show sfind s1.core.s.cache _ = _ by rw [hstr]; exact hp)
    have hjump : tableJump s1 first n = .done s1 { target := some k } := tableJump_held (by rw [hstr]; exact he) hk
    refine ⟨fun hs hn hlt => passes_of_body hs rfl ?_, fun hs hle => halts_of_body hs rfl ?_ (fun hst => absurd hst (by decide)),
      fun hs hn => passes_of_body hs rfl ?_⟩
    all_goals
      dsimp only
      rw [hrel, with32_ok hi, hpool]
    · rw [if_neg (not_le.mpr (lt_of_eq_of_lt hn hlt)), hn]
      exact hjump
    · rw [if_pos hle]
      rfl
    · rw [← hn]
      exact hjump

/-! ## Control and system registers, clocks, `trap` and `evpost` (R119-R125, R347, R348) -/

/-- A control register is read as the core of a word holds it (R123). -/
theorem gives_mvrc {h : Hdr} {o : FI} {s : State} {v : W32} (hs : Starts (.mvrc h o) .S h 0 s) (hn : (o.imm.extractLsb' 0 12).toNat < 0x040)
    (hv : readCtl (startWord .S s) (o.imm.extractLsb' 0 12).toNat = v) : Gives (.mvrc h o) .S h o.d 1 2 (v.setWidth 128) false s := by
  refine gives_of_body rfl ?_ hs
  dsimp only
  rw [if_neg (by simp only [Bool.or_eq_true, decide_eq_true_eq]; omega), hv, result_word]

theorem gives_sysr {h : Hdr} {o : FI} {s : State} {v : W32} (hs : Starts (.sysr h o) .S h 0 s)
    (hv : readSys (startWord .S s) (o.imm.extractLsb' 0 12).toNat = v) : Gives (.sysr h o) .S h o.d 1 4 (v.setWidth 128) false s := by
  refine gives_of_body rfl ?_ hs
  rw [hv, result_word]

/-- A filled element of an operand queue is popped whole (R120, R158). -/
theorem exec_mvrc_queue {h : Hdr} {o : FI} {s : State} {q : Nat} {l : List Byte} (hs : Starts (.mvrc h o) .S h 0 s) (hq : q < 2)
    (hn : (o.imm.extractLsb' 0 12).toNat = 0x040 + q) (hl : l.length = 4)
    (hoq : sget [] s.core.oq (6 + q) = [{ bytes := l, filled := true, fresh := false }]) :
    ∃ s', s'.core.oq = sset [] s.core.oq (6 + q) [] ∧ exec (.mvrc h o) s = .next (finishWord .S h
      { res := some { val := .scalar (BitVec.ofNat 128 (leNat l)), dest := dstOf .S o.d 1 false, lat := 2 } } s') := by
  have hlt : leNat l < 2 ^ 32 := by simpa [hl] using leNat_lt l
  have hcut : ((BitVec.ofNat 128 (leNat l)).setWidth 32).setWidth 128 = BitVec.ofNat 128 (leNat l) := by
    refine BitVec.eq_of_toNat_eq ?_
    simp only [BitVec.toNat_setWidth, BitVec.toNat_ofNat]
    omega
  have hk : 0x040 + q - 0x040 + 6 = 6 + q := by omega
  have hoq1 : sget [] (startWord .S s).core.oq (6 + q) = [{ bytes := l, filled := true, fresh := false }] := by rw [startWord_oq, hoq]
  refine ⟨(startWord .S s).setCore { (startWord .S s).core with oq := sset [] (startWord .S s).core.oq (6 + q) [] }, ?_, runWord_done hs ?_⟩
  · rw [State.core_setCore, startWord_oq]
  · dsimp only
    rw [hn, if_pos (by simp only [Bool.or_eq_true, decide_eq_true_eq]; omega), hk, popOq_whole hl hoq1 (by decide), result_one, hcut]

theorem controlRegistersRule : ControlRegistersRule := by
  intro h fi o s c s1 n late reads readsSys
  refine ⟨fun v hv hn hs => ?mvcr, fun v hv hs => ?sysw, fun hs => ?mvrc, fun hs k hk => ?sysr, fun hs => ?clk, fun hs => ?trap,
    fun a b v ha hb hs hr => ?evpost⟩
  case mvcr =>
    refine runWord_done hs ?_
    rw [with32_ok hv]
    dsimp only
    rw [if_neg fun hc => hn (of_decide_eq_true (Bool.and_elim_left hc))]
    rfl
  case sysw =>
    refine runWord_done hs ?_
    rw [with32_ok hv]
    rfl
  case mvrc =>
    have hc : s1.core = c.modStr .S fun m => { m with st := .aligned } := startWord_core .S s
    have small {k : Nat} (hn : n = k) (hk : k < 0x040) : n < 0x040 := hn ▸ hk
    refine ⟨fun hn => gives_mvrc hs (by omega) ?_, fun hn => gives_mvrc hs (small hn (by decide)) ?_, fun hn => gives_mvrc hs (small hn (by decide)) ?_,
      fun hn => gives_mvrc hs (small hn (by decide)) ?_, fun hn => gives_mvrc hs (small hn (by decide)) ?_,
      fun hn => gives_mvrc hs (small hn (by decide)) ?_, fun hn => gives_mvrc hs (small hn (by decide)) ?_,
      fun hn => gives_mvrc hs (small hn (by decide)) ?_, fun hn => gives_mvrc hs (small hn (by decide)) ?_,
      fun q l hn hq hoq hl => exec_mvrc_queue hs hq hn hl hoq⟩
    all_goals
      show readCtl s1 n = _
      simp only [readCtl, hc, hn, Core.modStr_tsh, Core.modStr_xseed, Core.modStr_satslot, Core.modStr_rmode, Core.modStr_opprio]
      rfl
  case sysr =>
    have hc : s1.core = c.modStr .S fun m => { m with st := .aligned } := startWord_core .S s
    refine ⟨fun hn => gives_sysr hs ?_, fun hn => gives_sysr hs ?_⟩
    all_goals
      show readSys s1 n = _
      simp only [readSys, hc, hn, Core.modStr_pmc, Core.modStr_pmsel]
      interval_cases k <;> rfl
  case clk =>
    refine ⟨fun hm => gives_of_body rfl ?_ hs, fun hm => gives_of_body rfl ?_ hs⟩
    · rw [if_pos hm, result_two, BitVec.setWidth_ofNat_of_le (by decide)]
      rfl
    · rw [if_neg hm, result_one, BitVec.setWidth_ofNat_of_le (by decide), startWord_core, Core.modStr_clk]
  case trap => exact halts_of_body hs rfl rfl fun hst => absurd hst (by decide)
  case evpost =>
    have hreq : s1.core.req = .replied v := by rw [startWord_core, Core.modStr_req, hr]
    refine runWord_done hs ?_
    rw [with32_ok ha, with64_ok hb, requestAct]
    dsimp only
    rw [hreq]
    dsimp only
    rw [result_one, BitVec.setWidth_setWidth_of_le v (by decide)]

/-- Settles O14: a branch of S by its predicate, a table by its pool word and entry, a register by the one case of its number. -/
theorem callsAndTables : Obligations.CallsAndTables := ⟨callsAndTablesRule, controlRegistersRule⟩

end Sys2Proof.Machine
end

section
/-! The float words of S (R111, R114-R116): the exact operations on rational values, the choice of `fmin` and `fmax`, classes and conversions,
and from that the statement O16. -/

namespace Sys2Proof.Machine

/-! ## Exact values (R63-R65, R72, R115) -/

/-- The rational number of a finite value. -/
theorem Num.rat_fin (neg : Bool) (m : Nat) (e : Int) : (Num.fin neg m e).rat = some ((if neg then -1 else 1) * (m * 2 ^ e : ℚ)) := rfl

theorem Num.exists_fin_of_rat {x : Num} {p : ℚ} (h : x.rat = some p) : ∃ neg m e, x = .fin neg m e ∧ p = (if neg then -1 else 1) * (m * 2 ^ e) := by
  cases x with
  | nan => cases h
  | inf neg => cases h
  | fin neg m e => exact ⟨neg, m, e, rfl, (Option.some.inj h).symm⟩

/-- A value as whole spacings of a grid below its own. -/
theorem scaled_mul (neg : Bool) (m : Nat) {e lo : Int} (h : lo ≤ e) :
    (scaled neg m e lo : ℚ) * 2 ^ lo = (if neg then -1 else 1) * (m * 2 ^ e) := by
  have he : (2 : ℚ) ^ e = 2 ^ (e - lo).toNat * 2 ^ lo := by
    rw [← zpow_natCast, ← zpow_add₀ two_ne_zero, Int.toNat_of_nonneg (sub_nonneg.mpr h), sub_add_cancel]
  unfold scaled
  rw [he]
  cases neg <;> simp <;> ring

/-- An integer by its sign and magnitude. -/
theorem signed_natAbs (k : Int) : (if decide (k < 0) = true then -1 else 1 : ℚ) * k.natAbs = k := by
  rw [Nat.cast_natAbs]
  by_cases h : k < 0
  · rw [decide_eq_true h, if_pos rfl, abs_of_neg h]
    simp
  · rw [decide_eq_false h, if_neg Bool.false_ne_true, abs_of_nonneg (not_lt.mp h), one_mul]

/-- The sum of finite values is exact (R65). -/
theorem Num.rat_add {x y : Num} {p q : ℚ} (rd : Bool) (hx : x.rat = some p) (hy : y.rat = some q) : (x.add rd y).rat = some (p + q) := by
  obtain ⟨a, m, e, rfl, rfl⟩ := Num.exists_fin_of_rat hx
  obtain ⟨b, n, g, rfl, rfl⟩ := Num.exists_fin_of_rat hy
  rw [← scaled_mul a m (min_le_left e g), ← scaled_mul b n (min_le_right e g), ← add_mul, ← Int.cast_add]
  simp only [Num.add]
  generalize scaled a m e (min e g) + scaled b n g (min e g) = k
  by_cases h : k = 0
  · rw [if_pos h, Num.rat_fin, h]
    simp
  · rw [if_neg h, Num.rat_fin, ← mul_assoc, signed_natAbs]

theorem Num.rat_neg {y : Num} {q : ℚ} (hy : y.rat = some q) : y.neg.rat = some (-q) := by
  obtain ⟨b, n, g, rfl, rfl⟩ := Num.exists_fin_of_rat hy
  rw [Num.neg, Num.rat_fin]
  cases b <;> simp

/-- The product of finite values is exact. -/
theorem Num.rat_mul {x y : Num} {p q : ℚ} (hx : x.rat = some p) (hy : y.rat = some q) : (x.mul y).rat = some (p * q) := by
  obtain ⟨a, m, e, rfl, rfl⟩ := Num.exists_fin_of_rat hx
  obtain ⟨b, n, g, rfl, rfl⟩ := Num.exists_fin_of_rat hy
  rw [Num.mul, Num.rat_fin, zpow_add₀ two_ne_zero]
  congr 1
  cases a <;> cases b <;> simp <;> ring

/-- Finite values compare as their numbers (R115). -/
theorem Num.cmp_rat {x y : Num} {p q : ℚ} (hx : x.rat = some p) (hy : y.rat = some q) : x.cmp y = some (compare p q) := by
  obtain ⟨a, m, e, rfl, rfl⟩ := Num.exists_fin_of_rat hx
  obtain ⟨b, n, g, rfl, rfl⟩ := Num.exists_fin_of_rat hy
  rw [← scaled_mul a m (min_le_left e g), ← scaled_mul b n (min_le_right e g)]
  simp only [Num.cmp]
  generalize scaled a m e (min e g) = j
  generalize scaled b n g (min e g) = k
  have hpos : (0 : ℚ) < 2 ^ min e g := by positivity
  congr 1
  obtain h | h | h := lt_trichotomy j k
  · rw [compare_lt_iff_lt.mpr h, eq_comm, compare_lt_iff_lt]
    exact mul_lt_mul_of_pos_right (by exact_mod_cast h) hpos
  · rw [h, compare_eq_iff_eq.mpr rfl, compare_eq_iff_eq.mpr rfl]
  · rw [compare_gt_iff_gt.mpr h, eq_comm, compare_gt_iff_gt]
    exact mul_lt_mul_of_pos_right (by exact_mod_cast h) hpos

/-- `fmin` and `fmax` of finite values take one of their operands: the one whose number is the smaller or the larger (R114). -/
theorem fminmax_rat (mx : Bool) {a b : W32} {p q : ℚ} (hp : (f32v a).rat = some p) (hq : (f32v b).rat = some q) :
    (f32v (fminmax mx a b)).rat = some (if mx then max p q else min p q) := by
  have hcmp := Num.cmp_rat hp hq
  obtain ⟨a', m, e, ha, -⟩ := Num.exists_fin_of_rat hp
  obtain ⟨b', n, g, hb, -⟩ := Num.exists_fin_of_rat hq
  rw [ha, hb] at hcmp
  simp only [fminmax, ha, hb, hcmp]
  obtain h | h | h := lt_trichotomy p q
  · rw [compare_lt_iff_lt.mpr h]
    cases mx <;> simp [hp, hq, h.le]
  · rw [compare_eq_iff_eq.mpr h]
    subst h
    dsimp only
    split_ifs <;> simp [hp, hq]
  · rw [compare_gt_iff_gt.mpr h]
    cases mx <;> simp [hp, hq, h.le]

theorem classBit_lt (f : FFmt) (code : Nat) : classBit f code < 10 := by
  unfold classBit
  split
  · decide
  · split_ifs <;> decide
  · split_ifs <;> decide

/-! ## Words that give one float or one bit -/

section
variable {i : Instr} {h : Hdr} {o : FR} {z : Option Nat} {s : State} {a b : W128} {lat : Nat}

theorem gives_float2 {f : BitVec 2 → W32 → W32 → W32} (hx : exec i s = runWord i .S h o.g z s (float2 o lat f))
    (ha : s.core.src .S o.a 1 = .ok a) (hb : s.core.src .S o.b 1 = .ok b) (hs : Starts i .S h o.g s) :
    Gives i .S h o.d 1 lat ((f (rmS o.rm) (a.setWidth 32) (b.setWidth 32)).setWidth 128) false s := by
  refine gives_of_body hx ?_ hs
  rw [float2, with32_ok ha, with32_ok hb]
  exact result_word ..

theorem bitVal_eq (p : Bool) : bitVal p = (if p then 1 else 0 : W32).setWidth 128 := by
  cases p <;> rfl

/-- `fclass` gives the bit of its operand's class (R115). -/
theorem gives_fclass {f : FFmt} (ha : s.core.src .S o.a 1 = .ok a) (hf : tyOf o.t.toNat = .flt f) (hs : Starts (.fclass h o) .S h o.g s) :
    Gives (.fclass h o) .S h o.d 1 2 ((BitVec.ofNat 32 (2 ^ classBit f (a.setWidth 32 : W32).toNat)).setWidth 128) false s := by
  refine gives_of_body rfl ?_ hs
  rw [with32_ok ha, hf]
  dsimp only
  rw [result_one, BitVec.setWidth_ofNat_of_le (by decide)]

end

theorem floatWordsRule : FloatWordsRule := by
  intro h o s a ha x rm gives rounded
  refine ⟨?sqrt, fun f hf => ⟨classBit f (a.setWidth 32 : W32).toNat, classBit_lt .., gives_fclass ha hf⟩, fun b hb => ?two⟩
  case sqrt =>
    refine gives_of_body rfl ?_
    rw [with32_ok ha]
    exact result_word ..
  case two =>
    intro y
    have two {i : Instr} {z : Option Nat} {lat : Nat} {f : BitVec 2 → W32 → W32 → W32} {v : W32}
        (hx : exec i s = runWord i .S h o.g z s (float2 o lat f)) (hv : f rm (a.setWidth 32) (b.setWidth 32) = v) : gives i lat v :=
      fun hs => hv ▸ gives_float2 hx ha hb hs
    refine ⟨two rfl rfl, two rfl rfl, two rfl rfl, two rfl rfl, fun c hc => ?fma, two rfl rfl, two rfl rfl, fun n _ hi => ?cmp,
      fun p q hp hq => ?exact⟩
    case fma =>
      refine gives_of_body rfl ?_
      rw [with32_ok ha, with32_ok hb, with32_ok hc]
      exact result_word ..
    case cmp =>
      refine gives_of_body rfl ?_
      rw [with32_ok ha, with32_ok hb, immNat_of_immOf hi, result_bit, bitVal_eq]
    case exact =>
      exact ⟨Num.rat_add _ hp hq, sub_eq_add_neg p q ▸ Num.rat_add _ hp (Num.rat_neg hq), Num.rat_mul hp hq, fminmax_rat false hp hq,
        fminmax_rat true hp hq⟩

/-! ## Conversions (R116) -/

/-- The value of a float's code takes no bit above the sign (R63). -/
theorem FFmt.value_mod (f : FFmt) (c : Nat) : f.value (c % 2 ^ (f.sbits + 1)) = f.value c := by
  have hmag : c % 2 ^ (f.sbits + 1) % 2 ^ f.sbits = c % 2 ^ f.sbits := Nat.mod_mod_of_dvd c (Nat.pow_dvd_pow 2 (Nat.le_succ _))
  have hsign : c % 2 ^ (f.sbits + 1) / 2 ^ f.sbits % 2 = c / 2 ^ f.sbits % 2 := by
    rw [Nat.pow_succ, Nat.mod_mul_right_div_self, Nat.mod_mod]
  unfold FFmt.value
  rw [hmag, hsign]

theorem convert_other {dst src : Nat} (h : dst ≠ src) (rm : BitVec 2) (draw code : Nat) :
    convert dst src rm draw code = narrow (tyOf dst) rm draw ((tyOf src).value code) := if_neg h

/-- A conversion of an integer type to itself copies its bits and counts nothing. -/
theorem convert_same_int {src w : Nat} {sg : Bool} (h : tyOf src = .int sg w) (rm : BitVec 2) (draw code : Nat) :
    convert src src rm draw code = { code := code % 2 ^ w, sat := false, nan := false } := by
  simp only [convert, if_true, h]

/-- So does one of a float type that is no NaN. -/
theorem convert_same_flt {src : Nat} {f : FFmt} (h : tyOf src = .flt f) {code : Nat} (hn : f.value code ≠ .nan) (rm : BitVec 2) (draw : Nat) :
    convert src src rm draw code = { code := code % 2 ^ (f.sbits + 1), sat := false, nan := false } := by
  have hv : (tyOf src).value code ≠ .nan := by rw [h, NTy.value, FFmt.value_mod]; exact hn
  rw [h] at hv
  simp only [convert, if_true, h, if_neg hv]

/-- A type's values fit its registers (R33, R38). -/
theorem bits_le_wide (t : BitVec 4) : (tyOf t.toNat).bits ≤ 32 * wideT t := by
  revert t
  decide

theorem wideT_of_flt {t : BitVec 4} {f : FFmt} (h : tyOf t.toNat = .flt f) : wideT t = 1 := by
  unfold wideT
  split_ifs with ht
  · simp only [Bool.or_eq_true, decide_eq_true_eq] at ht
    rcases ht with rfl | rfl <;> cases h
  · rfl

/-- A code is cut to the registers of T. -/
theorem result_code (s : State) (d : BitVec 7) (t : BitVec 4) (lat code : Nat) : result s .S d (wideT t) lat (BitVec.ofNat 128 code) =
    .done s { res := some { val := .scalar (BitVec.ofNat 128 (code % 2 ^ (32 * wideT t))), dest := dstOf .S d (wideT t) false, lat := lat } } := by
  have hw : 32 * wideT t ≤ 128 := by
    have := wideT_cases t
    omega
  rw [result_cut, BitVec.setWidth_ofNat_of_le hw, ← BitVec.ofNat_toNat, BitVec.toNat_ofNat]

/-- A conversion, whatever its types: its result, and its events in the slot of SATSLOT. -/
theorem exec_fcvt {h : Hdr} {o : FR} {s : State} {a : W128} {src : Nat} (hi : immOf o.c = some (src : Int)) (hsrc : src ≤ 13)
    (ha : s.core.src .S o.a (if src = 3 ∨ src = 7 then 2 else 1) = .ok a) (hs : Starts (.fcvt h o) .S h o.g s) {r : Narrowed}
    (hr : convert o.t.toNat src (rmS o.rm) 0 a.toNat = r) : exec (.fcvt h o) s = .next (finishWord .S h
      { res := some { val := .scalar (BitVec.ofNat 128 (r.code % 2 ^ (32 * wideT o.t))), dest := dstOf .S o.d (wideT o.t) false, lat := 3 } }
      (satWord (startWord .S s) .S s.core.satslot.toNat (if r.sat then 1 else 0) (if r.nan then 1 else 0))) := by
  have hwide : wideT (BitVec.ofNat 4 src) = if src = 3 ∨ src = 7 then 2 else 1 := by
    interval_cases src <;> rfl
  have hslot : (startWord .S s).core.satslot = s.core.satslot := by rw [startWord_core, Core.modStr_satslot]
  refine runWord_done hs ?_
  dsimp only
  rw [immNat_of_immOf hi, withSrc_ok (hwide ▸ ha), hr, hslot]
  exact result_code ..

/-- A conversion that counts nothing gives its code. -/
theorem gives_fcvt {h : Hdr} {o : FR} {s : State} {a : W128} {src : Nat} (hi : immOf o.c = some (src : Int)) (hsrc : src ≤ 13)
    (ha : s.core.src .S o.a (if src = 3 ∨ src = 7 then 2 else 1) = .ok a) (hs : Starts (.fcvt h o) .S h o.g s) {n : Nat}
    (hr : convert o.t.toNat src (rmS o.rm) 0 a.toNat = { code := a.toNat % 2 ^ n, sat := false, nan := false }) (hn : n ≤ 32 * wideT o.t) :
    Gives (.fcvt h o) .S h o.d (wideT o.t) 3 (BitVec.ofNat 128 (a.toNat % 2 ^ n)) false s := by
  have hcode : a.toNat % 2 ^ n % 2 ^ (32 * wideT o.t) = a.toNat % 2 ^ n :=
    Nat.mod_eq_of_lt ((Nat.mod_lt _ (Nat.two_pow_pos n)).trans_le (Nat.pow_le_pow_right two_pos hn))
  have he := exec_fcvt hi hsrc ha hs hr
  rw [hcode] at he
  exact he

theorem conversionWordsRule : ConversionWordsRule := by
  intro h o s a src hi hsrc ha rm r
  refine ⟨fun hs => ⟨⟨_, _, exec_fcvt hi hsrc ha hs rfl⟩, fun hne => exec_fcvt hi hsrc ha hs (convert_other hne ..), fun ht sg w hw => ?int,
    fun ht f hf hn => ?flt⟩, fun hs h1 f hf => ⟨classBit f (a.setWidth 32 : W32).toNat, classBit_lt .., ?fclass⟩⟩
  case int =>
    have hbits := bits_le_wide o.t
    rw [ht, hw] at hbits
    exact gives_fcvt hi hsrc ha hs (ht.symm ▸ convert_same_int hw ..) hbits
  case flt =>
    have hbits := bits_le_wide o.t
    rw [ht, hf] at hbits
    have hone : wideT o.t = 1 := wideT_of_flt (ht.symm ▸ hf)
    have hg := gives_fcvt hi hsrc ha hs (ht.symm ▸ convert_same_flt hf hn ..) hbits
    rw [hone] at hg
    exact hg
  case fclass =>
    have hpow : 2 ^ classBit f (a.setWidth 32 : W32).toNat < 2 ^ 32 := Nat.pow_lt_pow_right one_lt_two ((classBit_lt ..).trans (by decide))
    rw [← BitVec.setWidth_ofNat_of_le_of_lt (w := 32) (by decide) hpow]
    exact gives_fclass h1 hf hs

/-- Settles O16: the exact operations are those of ℚ, a conversion is its narrowing and the count of its events. -/
theorem floatWords : Obligations.FloatWords := ⟨floatWordsRule, conversionWordsRule⟩

end Sys2Proof.Machine
end

section
/-! Translations, replays and fetches (R93, R343, R364, R365): what an invalidation, a walk's return and a replay leave of the benches, and
from that the statement O37. -/

namespace Sys2Proof.Machine

/-! ## Invalidations (R365) -/

/-- A map over the values of a sparse list that sends the default to itself. -/
theorem sget_mapVal {α : Type} {d : α} {f : α → α} (hd : f d = d) (m : Sparse α) (k : Nat) :
    sget d (m.map fun e => (e.1, f e.2)) k = f (sget d m k) := by
  induction m with
  | nil => exact hd.symm
  | cons e m ih =>
    simp only [List.map_cons, sget, ih]
    split_ifs <;> rfl

/-- The entries of a TLB that an invalidation leaves. -/
def keepTlb (p : Nat → W64 → Nat → Bool) (l : List TlbEntry) : List TlbEntry := l.filter fun t => !p t.fn t.base t.size

theorem mem_keepTlb {p : Nat → W64 → Nat → Bool} {l : List TlbEntry} {e : TlbEntry} :
    e ∈ keepTlb p l ↔ e ∈ l ∧ ¬p e.fn e.base e.size = true := by
  simp [keepTlb, List.mem_filter]

/-- An invalidation purges each bench by itself. -/
theorem purgeTlb_getB (s : State) (p : Nat → W64 → Nat → Bool) (b : Nat) : (purgeTlb s p).getB b =
    { s.getB b with tlb := keepTlb p (s.getB b).tlb, utlb := (s.getB b).utlb.map fun u => (u.1, keepTlb p u.2),
                    misses := (s.getB b).misses.filter fun m => !p m.1 m.2 16 } :=
  sget_mapVal (f := fun c : Bench => { c with tlb := keepTlb p c.tlb, utlb := c.utlb.map fun u => (u.1, keepTlb p u.2),
                                              misses := c.misses.filter fun m => !p m.1 m.2 16 }) rfl s.benches b

/-- An invalidation drops from every TLB and micro-TLB what its predicate names, and nothing else (R365). -/
theorem tlbiDone_drops (s : State) {p : Nat → W64 → Nat → Bool} {gone : TlbEntry → Prop}
    (hp : ∀ e : TlbEntry, p e.fn e.base e.size = true ↔ gone e) :
    ∃ t, tlbiDone s p = .next t ∧ t.tlbiBusy = false ∧ t.mem = s.mem ∧ ∀ b e,
      (e ∈ (t.getB b).tlb ↔ e ∈ (s.getB b).tlb ∧ ¬gone e) ∧ ∀ k, e ∈ sget [] (t.getB b).utlb k ↔ e ∈ sget [] (s.getB b).utlb k ∧ ¬gone e := by
  refine ⟨{ purgeTlb s p with tlbiBusy := false }, rfl, rfl, rfl, fun b e => ?_⟩
  have hb : ({ purgeTlb s p with tlbiBusy := false } : State).getB b = _ := purgeTlb_getB s p b
  refine ⟨?_, fun k => ?_⟩
  · rw [hb, mem_keepTlb, hp]
  · rw [hb, sget_mapVal (f := keepTlb p) rfl, mem_keepTlb, hp]

/-! ## The return of a walk (R364) -/

/-- The entry that fills a TLB stands in it, whatever gives way. -/
theorem mem_tlbFill {n : Nat} (hn : 0 < n) (t : TlbEntry) (l : List TlbEntry) : t ∈ tlbFill n t l := by
  obtain ⟨m, rfl⟩ : ∃ m, n = m + 1 := ⟨n - 1, by omega⟩
  simp [tlbFill]

/-- The translation that a walk's leaf gives (R364). -/
def leafEntry (fn : Nat) (va e : W64) : TlbEntry :=
  { fn := fn, base := BitVec.ofNat 64 (va.toNat / 2 ^ pageBits e * 2 ^ pageBits e), size := pageBits e, leaf := e }

/-- The entry's base lies in the page of the VA. -/
theorem leafEntry_base (fn : Nat) (va e : W64) : (leafEntry fn va e).base.toNat / 2 ^ pageBits e = va.toNat / 2 ^ pageBits e := by
  have hle : va.toNat / 2 ^ pageBits e * 2 ^ pageBits e ≤ va.toNat := Nat.div_mul_le_self ..
  rw [leafEntry, BitVec.toNat_ofNat, Nat.mod_eq_of_lt (by omega), Nat.mul_div_cancel _ (Nat.two_pow_pos _)]

/-- A walk that finds a page of HBM ends every miss that its page covers and fills the bench's TLB (R364). -/
theorem exec_walkReturn_leaf {s : State} {bench fn pa : Nat} {va e : W64} (hw : walking s bench = some (fn, va))
    (hl : walk s fn va = .leaf pa e) (he : eState e = 1) :
    exec (.walkReturn bench) s = .next ((({ s with walks := s.walks.filter fun w => !(w.1 = bench &&
        (w.2.1 = fn && decide (w.2.2.toNat / 2 ^ pageBits e = va.toNat / 2 ^ pageBits e))) } : State).modB bench fun b =>
      { b with misses := b.misses.filter fun m => !(m.1 = fn && decide (m.2.toNat / 2 ^ pageBits e = va.toNat / 2 ^ pageBits e)) }).modB bench fun b =>
      { b with tlb := tlbFill tlbSize (leafEntry fn va e) b.tlb }) := by
  refine congrArg Host.Outcome.next ?_
  simp only [hw, hl, he, sHBM, decide_true, Bool.true_or, if_true]
  rfl

/-! ## Replays (R343) -/

/-- The oldest entry of a bench's fault buffer is dropped. -/
def dropOldest (s : State) (bench : Nat) (l : List FaultEntry) : State := s.modB bench fun b => { b with faults := l }

@[simp] theorem dropOldest_faults (s : State) (bench : Nat) (l : List FaultEntry) : ((dropOldest s bench l).getB bench).faults = l :=
  congrArg Bench.faults (State.getB_modB ..)

@[simp] theorem dropOldest_getC (s : State) (bench : Nat) (l : List FaultEntry) (k : Nat) : (dropOldest s bench l).getC k = s.getC k := rfl

/-- The replay of the oldest entry of a hardware buffer, by cases (R343). -/
theorem exec_replay {s : State} {bench : Nat} {f : FaultEntry} {l : List FaultEntry} (hb : bench < 96) (hf : (s.getB bench).faults = f :: l) :
    exec (.replay bench) s = .next (
      if f.op.isNone && !(((s.getC f.core).str f.stream).st.live) then dropOldest s bench l
      else match f.failed with
        | none => if pageWaits s f.fn f.va then s else dropOldest s bench l
        | some code =>
          if f.op.isSome || (f.stream = .S && match (s.getC f.core).req with | .sent _ => true | _ => false) then s
          else if f.stream = .A && (s.getC f.core).aPending then failPending (dropOldest s bench l) f.core { stopCode code with addr := f.va }
          else haltAt (dropOldest s bench l) f.core f.stream { stopCode code with addr := f.va }) := by
  refine congrArg Host.Outcome.next ?_
  rw [if_neg (show ¬hwBenches ≤ bench from by simp only [hwBenches]; omega), hf]
  rfl

/-- An access whose page no longer waits leaves the buffer, and nothing else changes. -/
theorem exec_replay_ready {s : State} {bench : Nat} {f : FaultEntry} {l : List FaultEntry} (hb : bench < 96) (hf : (s.getB bench).faults = f :: l)
    (hn : f.failed = none) (hp : pageWaits s f.fn f.va = false) : exec (.replay bench) s = .next (dropOldest s bench l) := by
  rw [exec_replay hb hf, hn, hp]
  exact congrArg Host.Outcome.next (ite_self _)

/-- An access whose page waits, of an operation or of a stream that it blocks, stays. -/
theorem exec_replay_waits {s : State} {bench : Nat} {f : FaultEntry} {l : List FaultEntry} (hb : bench < 96) (hf : (s.getB bench).faults = f :: l)
    (hn : f.failed = none) (hp : pageWaits s f.fn f.va = true) (hs : f.op.isSome = true ∨ ((s.getC f.core).str f.stream).st = .blocked) :
    exec (.replay bench) s = .next s := by
  have hlive : (f.op.isNone && !((s.getC f.core).str f.stream).st.live) = false := by
    rcases hs with h | h
    · rw [← Option.not_isSome, h]
      rfl
    · rw [h, StreamSt.live]
      simp
  rw [exec_replay hb hf, hlive, hn, hp]
  rfl

/-- A failed access of a stream that it stops goes to that stream: to the oldest access of A that waits, or as the stream's halting fault. -/
theorem exec_replay_failed {s : State} {bench : Nat} {f : FaultEntry} {l : List FaultEntry} {code : Byte} (hb : bench < 96)
    (hf : (s.getB bench).faults = f :: l) (hc : f.failed = some code) (ho : f.op = none) (hS : f.stream ≠ .S)
    (hlive : ((s.getC f.core).str f.stream).st.live = true) :
    exec (.replay bench) s = .next (
      if f.stream = .A && (s.getC f.core).aPending then failPending (dropOldest s bench l) f.core { stopCode code with addr := f.va }
      else haltAt (dropOldest s bench l) f.core f.stream { stopCode code with addr := f.va }) := by
  rw [exec_replay hb hf, hc, ho, hlive]
  simp [hS]

/-- The access that fails while it waits is the oldest that has not been performed (R165). -/
theorem failPending_flight {s : State} {k : Nat} {g : InFlight} (hg : (s.getC k).aFlight.find? (fun e => e.acc.isSome) = some g) (f : StopInfo) :
    { g with acc := some (.failed f) } ∈ ((failPending s k f).getC k).flight := by
  have hacc : g.acc.isSome = true := List.find?_some (p := fun e : InFlight => e.acc.isSome) hg
  obtain ⟨hm, hA⟩ := List.mem_filter.mp (List.mem_of_find?_eq_some hg)
  have hA : g.stream = .A := of_decide_eq_true hA
  unfold failPending
  simp only [hg]
  rw [settleAccess, State.modC, State.getC_putC]
  refine List.mem_map.mpr ⟨g, hm, ?_⟩
  rw [if_pos (by simp [hA, hacc])]

theorem failPending_keeps (s : State) (k : Nat) (f : StopInfo) :
    (failPending s k f).benches = s.benches ∧ (failPending s k f).mem = s.mem := by
  unfold failPending
  split <;> exact ⟨rfl, rfl⟩

/-- Raising a halt line leaves the benches. -/
theorem raiseHalt_benches (s : State) (x : Nat) (first : BitVec 16) (code : Byte) : (raiseHalt s x first code).benches = s.benches := by
  by_cases h : (s.getX x).st.halts = true
  · obtain ⟨o, q, u, hk, he⟩ := raiseHalt_eq h first code
    have hb := congrArg State.benches hk.only
    rw [he]
    exact hb
  · rw [raiseHalt_refused (Bool.not_eq_true _ ▸ h)]

theorem haltAt_benches (s : State) (k : Nat) (st : StreamId) (f : StopInfo) : (haltAt s k st f).benches = s.benches := by
  obtain ⟨d, hd⟩ := haltWord_eq { s with cur := k } st f
  exact (congrArg State.benches hd).trans (raiseHalt_benches ..)

/-- The stream of a core that need not be the executing one keeps its fault for the stop record (R98). -/
theorem haltAt_fault (s : State) (k : Nat) (st : StreamId) (f : StopInfo) : (((haltAt s k st f).getC k).str st).fault = some f := by
  obtain ⟨l, -, h⟩ := haltWord_core { s with cur := k } st f
  have hk : (haltAt s k st f).getC k = (haltWord { s with cur := k } st f).core := by
    obtain ⟨d, hd⟩ := haltWord_eq { s with cur := k } st f
    have hcur : (haltWord { s with cur := k } st f).cur = k := by
      rw [hd, raiseHalt_cur]
      rfl
    exact congrArg (haltWord { s with cur := k } st f).getC hcur.symm
  rw [hk]
  rcases h with h | h
  · rw [h, Core.str_withFlight, Core.str_modStr]
  · rw [h, Core.halt_fault, Core.str_withFlight, Core.str_modStr]

/-- Settles O37: each event by its own equation; a fetched word is `tilesAndWordsArriveRule`. -/
theorem translationEvents : Obligations.TranslationEvents := by
  unfold Obligations.TranslationEvents
  intro s drops
  refine ⟨fun fn => tlbiDone_drops s fun e => by simp, fun fn => tlbiDone_drops s fun e => by simp, tlbiDone_drops s fun e => by simp,
    fun bench fn va pa e hw hl he => ⟨_, exec_walkReturn_leaf hw hl he, ?_, rfl, leafEntry fn va e, ?_, rfl, rfl, rfl, (leafEntry_base ..).symm⟩,
    fun bench f l hb hf => ⟨fun hn hp => ⟨_, exec_replay_ready hb hf hn hp, dropOldest_faults .., rfl, rfl⟩, exec_replay_waits hb hf, ?_, ?_⟩,
    fun core n l hn => ?_⟩
  · rw [State.getB_modB, State.getB_modB, List.mem_filter]
    simp
  · rw [State.getB_modB]
    exact mem_tlbFill (by decide) ..
  · intro code g hc ho hA hst hg
    have hpend : (s.getC f.core).aPending = true := List.any_eq_true.mpr ⟨g, List.mem_of_find?_eq_some hg, List.find?_some (p := fun e : InFlight => e.acc.isSome) hg⟩
    have hex := exec_replay_failed hb hf hc ho (by rw [hA]; decide) (by rw [hA]; exact congrArg StreamSt.live hst)
    rw [hA, hpend] at hex
    obtain ⟨hbenches, hmem⟩ := failPending_keeps (dropOldest s bench l) f.core { stopCode code with addr := f.va }
    exact ⟨_, hex, (congrArg (fun b => (sget Bench.reset b bench).faults) hbenches).trans (dropOldest_faults ..), hmem, _,
      failPending_flight (s := dropOldest s bench l) hg _, rfl, rfl⟩
  · intro code hc ho hS hA hst
    have hlive : ((s.getC f.core).str f.stream).st.live = true := by rcases hst with h | h <;> rw [h] <;> rfl
    have hhalts : (decide (f.stream = .A) && (s.getC f.core).aPending) = false := by
      by_cases h : f.stream = .A
      · rw [hA h, Bool.and_false]
      · simp [h]
    have hex := exec_replay_failed hb hf hc ho hS hlive
    rw [hhalts] at hex
    refine ⟨_, hex, ?_, haltAt_fault ..⟩
    exact (congrArg (fun b => (sget Bench.reset b bench).faults) (haltAt_benches ..)).trans (dropOldest_faults ..)
  · have hst : ([StreamId.S, .V, .A, .X].getD n .S) = streamOf n := by
      interval_cases n <;> rfl
    rw [hst]
    intro c st hinst hstarted haway hal hcache hfault hl
    obtain ⟨t, hex, hword, hpc, hnamed, honly⟩ :=
      (tilesAndWordsArriveRule core s).2 n l hinst hstarted haway (congrArg StreamSt.live hal) hcache hfault hl
    have hmem : t.mem = s.mem := by rw [← honly]
    exact ⟨t, hex, hword, hmem, hpc, hnamed⟩

end Sys2Proof.Machine
end

section
/-! Halts and debug (R126-R128, R248, R316, R344, R345): what the end of operations keeps of the halt fields of their context, the end of a
halt, holds and steps, and from them the statement O40. -/

namespace Sys2Proof.Machine

/-! ## What keeps the halt of every context (R344) -/

/-- The line of a context and what its record says of its last halt (R340, R344). -/
def Ctx.haltFields (c : Ctx) : Option Halt × Byte × W32 × BitVec 16 := (c.halt, c.haltCode, c.haltSeq, c.haltFirst)

/-- The halt fields of every context are those of `s`. -/
structure KeepsHalts (s t : State) : Prop where
  fields : ∀ x, (t.getX x).haltFields = (s.getX x).haltFields

theorem KeepsHalts.of_ctxs {s t : State} (h : t.ctxs = s.ctxs) : KeepsHalts s t :=
  ⟨fun x => congrArg (fun l => (sget Ctx.reset l x).haltFields) h⟩

theorem KeepsHalts.refl (s : State) : KeepsHalts s s := .of_ctxs rfl

theorem KeepsHalts.trans {s t u : State} (h : KeepsHalts s t) (k : KeepsHalts t u) : KeepsHalts s u :=
  ⟨fun x => (k.fields x).trans (h.fields x)⟩

theorem KeepsHalts.foldl {α : Type} (f : State → α → State) (l : List α) (s : State) (hf : ∀ t a, KeepsHalts t (f t a)) :
    KeepsHalts s (l.foldl f s) :=
  List.foldlRecOn l f (.refl s) fun t ht a _ => ht.trans (hf t a)

/-- A change of one context that leaves its halt fields. -/
theorem keepsHalts_modX (s : State) (x : Nat) (f : Ctx → Ctx) (hf : ∀ c, (f c).haltFields = c.haltFields := by intro _; rfl) :
    KeepsHalts s (s.modX x f) := by
  refine ⟨fun y => ?_⟩
  by_cases h : y = x
  · subst h
    rw [State.getX_modX, hf]
  · rw [State.getX_modX_other _ _ _ _ h]

theorem keepsHalts_modO (s : State) (x slot : Nat) (f : Op → Op) : KeepsHalts s (s.modO x slot f) := by
  unfold State.modO
  split
  · exact keepsHalts_modX _ _ _
  · exact .refl s

theorem keepsHalts_imageCtx (s : State) (x : Nat) : KeepsHalts s (s.imageCtx x) := by
  obtain ⟨m, n, r, q, h⟩ := State.imageCtx_only s x
  exact h ▸ .of_ctxs rfl

theorem keepsHalts_imageOp (s : State) (x slot : Nat) : KeepsHalts s (s.imageOp x slot) := by
  obtain ⟨m, n, r, q, h⟩ := State.imageOp_only s x slot
  exact h ▸ .of_ctxs rfl

theorem keepsHalts_setCtxSt (s : State) (x : Nat) (st : CtxSt) : KeepsHalts s (s.setCtxSt x st) :=
  (keepsHalts_modX _ _ _).trans (keepsHalts_imageCtx ..)

theorem keepsHalts_postEvent (s : State) (x type code src : Nat) (va1 vb1 : W64) : KeepsHalts s (postEvent s x type code src va1 vb1) := by
  obtain ⟨q, h⟩ | ⟨t, l, m, n, r, q, i, h⟩ := postEvent_only s x type code src va1 vb1
  · exact h ▸ .of_ctxs rfl
  · exact h ▸ (keepsHalts_modX s x fun c => { c with evtail := t, evlost := l }).trans (.of_ctxs rfl)

theorem keepsHalts_countResidue (s : State) (fn : Nat) (code : Byte) (va : W64) : KeepsHalts s (countResidue s fn code va) := by
  obtain ⟨d, h⟩ := countResidue_only s fn code va
  exact h ▸ .of_ctxs rfl

theorem keepsHalts_abortColl (s : State) (x : Nat) (o : Op) (code : Byte) : KeepsHalts s (abortColl s x o code) := by
  obtain ⟨b, h⟩ := abortColl_only s x o code
  exact h ▸ .of_ctxs rfl

/-! ### The end of an operation (R237-R246) -/

theorem keepsHalts_setOpSt (s : State) (x slot : Nat) (st : OpSt) : KeepsHalts s (setOpSt s x slot st) :=
  (keepsHalts_modO ..).trans (keepsHalts_imageOp ..)

theorem keepsHalts_retireOp (s : State) (x slot : Nat) : KeepsHalts s (retireOp s x slot) := by
  unfold retireOp
  split
  · exact .refl s
  · dsimp only
    split_ifs
    · exact ((keepsHalts_setOpSt s x slot .retired).trans (keepsHalts_modX _ _ _)).trans (keepsHalts_imageCtx ..)
    · exact (keepsHalts_setOpSt s x slot .retired).trans (keepsHalts_modX _ _ _)

theorem keepsHalts_orphanOp (s : State) (x slot : Nat) : KeepsHalts s (orphanOp s x slot) := by
  unfold orphanOp
  split
  · exact .refl s
  · split_ifs
    · exact ((keepsHalts_setOpSt s x slot .orphaned).trans (keepsHalts_modX _ _ _)).trans (keepsHalts_imageCtx ..)
    · exact (keepsHalts_postEvent ..).trans (keepsHalts_retireOp ..)

theorem keepsHalts_tellWaiters (s : State) (x : Nat) (o : Op) : KeepsHalts s (tellWaiters s x o) :=
  .foldl _ _ s fun _ _ => .of_ctxs rfl

theorem keepsHalts_afterFinish (s : State) (x slot : Nat) : KeepsHalts s (afterFinish s x slot) := by
  unfold afterFinish
  split
  · exact .refl s
  next o _ =>
    have h := keepsHalts_tellWaiters s x o
    dsimp only
    split_ifs
    · exact h.trans (keepsHalts_retireOp ..)
    · exact h.trans (keepsHalts_orphanOp ..)
    · exact h
    · exact h.trans (keepsHalts_retireOp ..)
    · exact h

theorem keepsHalts_decideWaiting (s : State) (x : Nat) : KeepsHalts s (decideWaiting s x) := keepsHalts_modX ..

theorem keepsHalts_finishOp (s : State) (x slot : Nat) (st : OpSt) (code : Byte) (index : W32) (addr : W64) :
    KeepsHalts s (finishOp s x slot st code index addr) := by
  unfold finishOp
  split
  · exact .refl s
  next o _ =>
    have h (o' : Op) (p : FaultEntry → Bool) : KeepsHalts s (releaseTiles (dropFaults (decideWaiting (s.putO x slot o') x) p) x o.handle) :=
      ((keepsHalts_modX s x fun c => { c with ops := sput c.ops slot o' }).trans (keepsHalts_decideWaiting ..)).trans (.of_ctxs rfl)
    dsimp only
    split_ifs
    · exact .refl s
    · exact (h _ _).trans ((keepsHalts_imageOp ..).trans (keepsHalts_afterFinish ..))
    · exact (h _ _).trans ((keepsHalts_abortColl ..).trans ((keepsHalts_imageOp ..).trans (keepsHalts_afterFinish ..)))

theorem keepsHalts_failOp (s : State) (x slot : Nat) (code : Byte) (index : W32) (addr : W64) :
    KeepsHalts s (failOp s x slot code index addr) := (keepsHalts_countResidue ..).trans (keepsHalts_finishOp ..)

/-! ### Leases and engine commands (R260-R266, R344) -/

theorem keepsHalts_modE (s : State) (e : Nat) (f : Engine → Engine) : KeepsHalts s (s.modE e f) := .of_ctxs rfl

theorem keepsHalts_modLease (s : State) (x slot : Nat) (f : LeaseInfo → LeaseInfo) : KeepsHalts s (modLease s x slot f) := keepsHalts_modO ..

theorem keepsHalts_holdEngine (s : State) (e x slot : Nat) : KeepsHalts s (holdEngine s e x slot) := by
  have h (g : Engine → Engine) (l : LeaseInfo → LeaseInfo) (o : Op → Op) : KeepsHalts s ((modLease (s.modE e g) x slot l).modO x slot o) :=
    ((keepsHalts_modE ..).trans (keepsHalts_modLease ..)).trans (keepsHalts_modO ..)
  unfold holdEngine
  dsimp only
  split_ifs
  · exact (h _ _ _).trans (keepsHalts_imageOp ..)
  · exact (h _ _ _).trans (keepsHalts_setOpSt ..)

theorem keepsHalts_passEngine (s : State) (e : Nat) : KeepsHalts s (passEngine s e) := by
  unfold passEngine
  split
  · exact keepsHalts_holdEngine ..
  · exact keepsHalts_modE ..

theorem keepsHalts_endLease (s : State) (x slot : Nat) (st : OpSt) (code : Byte) : KeepsHalts s (endLease s x slot st code) := by
  unfold endLease
  split
  · exact .refl s
  · dsimp only
    have h (f : LeaseInfo → LeaseInfo) (l : State → List (Nat × Op)) : KeepsHalts s
        ((l (finishOp (modLease s x slot f) x slot st code 0 0)).foldl (fun s e => failOp s x e.1 cDENIED) (finishOp (modLease s x slot f) x slot st code 0 0)) :=
      ((keepsHalts_modLease ..).trans (keepsHalts_finishOp ..)).trans (.foldl _ _ _ fun _ _ => keepsHalts_failOp ..)
    refine (h (fun l => { l with phase := .none, engine := none }) fun t => leaseCommands t x slot).trans ?_
    split
    · exact .refl _
    · split_ifs
      · split
        · exact ((keepsHalts_modE ..).trans (keepsHalts_modLease ..)).trans (keepsHalts_setOpSt ..)
        · exact keepsHalts_modE ..
      · exact keepsHalts_passEngine ..
      · exact keepsHalts_modE ..

theorem keepsHalts_settleLease (s : State) (x slot : Nat) : KeepsHalts s (settleLease s x slot) := by
  unfold settleLease
  split
  · split_ifs
    · exact keepsHalts_endLease ..
    · exact keepsHalts_endLease ..
    · exact .refl s
  · exact .refl s

theorem keepsHalts_endCommand (s : State) (x slot : Nat) (st : OpSt) (code : Byte) (index : W32) (addr : W64) :
    KeepsHalts s (endCommand s x slot st code index addr) := by
  unfold endCommand
  split
  · exact .refl s
  · dsimp only
    refine .trans (.trans (keepsHalts_finishOp s x slot st code index addr) ?_) (keepsHalts_settleLease ..)
    exact .of_ctxs rfl

theorem keepsHalts_failAny (s : State) (x slot : Nat) (code : Byte) (index : W32) (addr : W64) :
    KeepsHalts s (failAny s x slot code index addr) := by
  unfold failAny
  split_ifs
  · exact (keepsHalts_countResidue ..).trans (keepsHalts_endCommand ..)
  · exact keepsHalts_failOp ..

theorem keepsHalts_parkOp (s : State) (x slot : Nat) : KeepsHalts s (parkOp s x slot) := by
  unfold parkOp
  dsimp only
  have h (l : Sparse Engine) (p : FaultEntry → Bool) : KeepsHalts s (dropFaults { s with engines := l } p) := .of_ctxs rfl
  split_ifs
  · exact (h _ _).trans (keepsHalts_finishOp ..)
  · exact ((h _ _).trans (keepsHalts_modO ..)).trans (keepsHalts_setOpSt ..)

/-- How the line stops an operation leaves the line itself (R344). -/
theorem keepsHalts_stopOp (s : State) (x slot : Nat) (code : Byte) : KeepsHalts s (stopOp s x slot code) := by
  unfold stopOp
  split
  · exact .refl s
  · split_ifs
    · exact .refl s
    · split
      · exact keepsHalts_parkOp ..
      · split_ifs
        · exact keepsHalts_parkOp ..
        · exact keepsHalts_failAny ..
      · exact .refl s
      · exact .refl s
      · exact keepsHalts_failAny ..

/-! ## The end of a halt (R344) -/

/-- A halt whose agents are quiet, or that has waited 2,400 clocks, is written over whatever its operations and records left. -/
theorem exec_haltFinish_ends {s : State} {x : Nat} {h : Halt} (hh : (s.getX x).halt = some h) (hb : h.broke = true)
    (hq : ctxBusy s x = false ∨ h.since + 2400 ≤ s.now) : ∃ (u : State) (seq : W32), seq = (s.getX x).haltSeq + 1 ∧
      exec (.haltFinish x) s = .next ((postEvent
        (u.modX x fun c => { c with haltCode := h.code, haltSeq := seq, haltFirst := h.first, halt := none, migr := none, moved := false })
        x 5 h.code.toNat 0xFFFF (seq.setWidth 64) (h.first.setWidth 64)).setCtxSt x .halted) := by
  have hstop := (KeepsHalts.foldl (fun s slot => stopOp s x slot h.code) h.running s fun t slot => keepsHalts_stopOp t x slot h.code).fields x
  have hseq : ((h.running.foldl (fun s slot => stopOp s x slot h.code) s).getX x).haltSeq = (s.getX x).haltSeq := congrArg (fun f => f.2.2.1) hstop
  have hwait : (ctxBusy s x && decide (s.now < h.since + 2400)) = false := by
    rcases hq with h | h
    · rw [h, Bool.false_and]
    · rw [decide_eq_false (by omega), Bool.and_false]
  apply Exists.intro
  refine ⟨_, congrArg (· + 1) hseq, congrArg Host.Outcome.next ?_⟩
  simp only [hh, hb, hwait]
  rfl

theorem setCtxSt_haltFields (s : State) (x type code src : Nat) (va1 vb1 : W64) (st : CtxSt) :
    (((postEvent s x type code src va1 vb1).setCtxSt x st).getX x).haltFields = (s.getX x).haltFields :=
  ((keepsHalts_postEvent ..).trans (keepsHalts_setCtxSt ..)).fields x

/-- The context is HALTED, its line is down, and its record says with which code, how often and by whom (R340, R344). -/
theorem haltFinish_ends {s : State} {x : Nat} {h : Halt} (hh : (s.getX x).halt = some h) (hb : h.broke = true)
    (hq : ctxBusy s x = false ∨ h.since + 2400 ≤ s.now) : ∃ t, exec (.haltFinish x) s = .next t ∧ (t.getX x).st = .halted ∧
      (t.getX x).haltFields = (none, h.code, (s.getX x).haltSeq + 1, h.first) := by
  obtain ⟨u, seq, rfl, hex⟩ := exec_haltFinish_ends hh hb hq
  refine ⟨_, hex, State.setCtxSt_st .., ?_⟩
  rw [setCtxSt_haltFields, State.getX_modX]
  rfl

/-! ## Operations that a release queues (R237, R248) -/

/-- A current handle names the operation of its slot (R235). -/
theorem Ctx.op?_some {c : Ctx} {h : W32} {o : Op} (ho : c.op? h = some o) : sfind c.ops (hSlot h) = some o ∧ o.handle = h := by
  unfold Ctx.op? at ho
  split_ifs at ho
  split at ho
  next p hp =>
    split_ifs at ho with hr
    cases ho
    exact ⟨hp, not_not.mp fun hne => hr (by simp [hne])⟩
  next => cases ho

/-- An operation that waits for nothing goes on. -/
theorem fateOf_go (c : Ctx) {o : Op} (ha : o.after = none) (hk : kindOf o.body ≠ 8) : fateOf c o = .go := by
  unfold fateOf
  rw [ha]
  dsimp only [Option.map_none]
  split
  · rename_i hs hb
    exact absurd (congrArg kindOf hb) hk
  · rfl

/-- An operation that waits for nothing is QUEUED from now on (R237). -/
theorem advanceOp_queued {s : State} {x slot : Nat} {o : Op} (ho : s.getO x slot = some o) (ha : o.after = none) (hf : o.fate = .undecided)
    (hk : kindOf o.body ≠ 8) : ∃ m n r q, advanceOp s x slot =
      ((s.putO x slot { o with since := s.now }).putO x slot { o with since := s.now, st := .queued, time := recTime s }).withDev m n r q := by
  have hgo : advanceOp s x slot = setOpSt (s.putO x slot { o with since := s.now }) x slot .queued := by
    have hfate : (if o.fate = .undecided then fateOf (s.getX x) o else o.fate) = .go := (if_pos hf).trans (fateOf_go _ ha hk)
    unfold advanceOp
    simp only [ho, hfate]
    split
    · rename_i hb
      exact absurd (congrArg kindOf hb) hk
    · rw [State.modO_some ho]
  obtain ⟨m, n, r, q, h⟩ := setOpSt_only (State.getO_putO s x slot { o with since := s.now }) .queued
  exact ⟨m, n, r, q, hgo.trans h⟩

/-! ## Holds and steps (R126-R128) -/

/-- A hold in effect: the streams of the trio are frozen and A blocks where it stands (R127). -/
def Core.heldAt (c : Core) : Core :=
  let trio (m : Stream) : Stream := if m.st = .aligned then { m with st := .frozen } else m
  { c with dbg := { c.dbg with held := true }, s := trio c.s, v := trio c.v, x := trio c.x, a := if c.a.st = .aligned then { c.a with st := .blocked } else c.a }

theorem Core.heldAt_str (c : Core) (st : StreamId) : (c.heldAt.str st).pc = (c.str st).pc ∧ (c.heldAt.str st).st ≠ .aligned := by
  have h (m : Stream) (q : StreamSt) (hq : q ≠ .aligned) :
      (if m.st = .aligned then { m with st := q } else m).pc = m.pc ∧ (if m.st = .aligned then { m with st := q } else m).st ≠ .aligned := by
    split_ifs with hm
    · exact ⟨rfl, hq⟩
    · exact ⟨rfl, hm⟩
  cases st
  · exact h c.s .frozen (by decide)
  · exact h c.v .frozen (by decide)
  · exact h c.a .blocked (by decide)
  · exact h c.x .frozen (by decide)

/-- A hold takes effect once A has finished its word (R127). -/
theorem exec_debugHold {s : State} {k : Nat} (hh : (s.getC k).dbg.hold = true) (hn : (s.getC k).dbg.held = false) (ht : (s.getC k).dbg.since ≤ s.now)
    (hq : ∀ f ∈ (s.getC k).flight, f.stream ≠ .A) : exec (.debugHold k) s = .next (s.putC k (s.getC k).heldAt) := by
  have hquiet : (s.getC k).aQuiet = true := by
    unfold Core.aQuiet
    rw [Bool.not_eq_true', List.any_eq_false]
    exact fun f hf => by simpa using hq f hf
  refine congrArg Host.Outcome.next (if_neg ?_)
  simp [hh, hn, hquiet, ht]

theorem exec_debugStep {s : State} {k : Nat} (hh : (s.getC k).dbg.held = true) (hb : (s.getC k).dbg.stepBusy = false) :
    exec (.debugStep k) s = .next (s.putC k { s.getC k with dbg := { (s.getC k).dbg with stepBusy := true }, tTime := s.now }) :=
  congrArg Host.Outcome.next (if_pos (by rw [hh, hb]; rfl))

theorem exec_debugStepA {s : State} {k : Nat} (hh : (s.getC k).dbg.held = true) (hb : (s.getC k).dbg.stepABusy = false) :
    exec (.debugStepA k) s = .next (s.putC k { s.getC k with dbg := { (s.getC k).dbg with stepABusy := true }, aTime := s.now }) :=
  congrArg Host.Outcome.next (if_pos (by rw [hh, hb]; rfl))

/-! ## OPDBGREL (R248) -/

theorem exec_opdbgrel_stale {s : State} {hd : W32} (h : (s.getX s.opdbgCtx.toNat).op? hd = none) :
    exec (.opdbgrel hd) s = .next { s with opdbgResult := 3 } := by
  refine congrArg Host.Outcome.next ?_
  dsimp only
  rw [h]

theorem exec_opdbgrel_free {s : State} {hd : W32} {o : Op} (h : (s.getX s.opdbgCtx.toNat).op? hd = some o) (hs : o.st ≠ .held) :
    exec (.opdbgrel hd) s = .next { s with opdbgResult := 2 } := by
  refine congrArg Host.Outcome.next ?_
  dsimp only
  rw [h]
  exact if_neg hs

/-- A HELD operation that waits for nothing is released into its queue. -/
theorem opdbgrel_releases {s : State} {hd : W32} {o : Op} (h : (s.getX s.opdbgCtx.toNat).op? hd = some o) (hs : o.st = .held) (ha : o.after = none)
    (hf : o.fate = .undecided) (hk : kindOf o.body ≠ 8) : ∃ t, exec (.opdbgrel hd) s = .next t ∧ t.opdbgResult = 1 ∧
      t.getO s.opdbgCtx.toNat (hSlot hd) = some { o with since := s.now, st := .queued, time := recTime s } ∧
      ∀ j, j ≠ hSlot hd → t.getO s.opdbgCtx.toNat j = s.getO s.opdbgCtx.toNat j := by
  obtain ⟨m, n, r, q, hadv⟩ := advanceOp_queued (s := { s with opdbgResult := 1 }) (x := s.opdbgCtx.toNat) (Ctx.op?_some h).1 ha hf hk
  refine ⟨_, congrArg Host.Outcome.next (?_ : _ = advanceOp { s with opdbgResult := 1 } s.opdbgCtx.toNat (hSlot hd)), ?_⟩
  · dsimp only
    rw [h]
    exact if_pos hs
  · rw [hadv]
    exact ⟨rfl, State.getO_putO .., fun j hj => (State.getO_putO_other _ _ _ _ _ hj).trans (State.getO_putO_other _ _ _ _ _ hj)⟩

/-- Settles O40: the end of a halt by what its steps keep of the line; holds, steps and releases by their equations. -/
theorem haltAndDebug : Obligations.HaltAndDebug := by
  unfold Obligations.HaltAndDebug
  intro s
  refine ⟨fun x h hh hb => ?_, fun x h hh hb hq => ?_, fun x h hh hb hq ht => ?_, fun k => ⟨fun hh hn ht hq => ?_, fun hh hb => ?_, fun hh hb => ?_⟩,
    fun hd => ⟨exec_opdbgrel_stale, fun o => exec_opdbgrel_free, fun o h hs ha hf hk => ?_⟩⟩
  · refine congrArg Host.Outcome.next ?_
    simp only [hh, hb]
    rfl
  · obtain ⟨t, hex, hst, hfields⟩ := haltFinish_ends hh hb hq
    exact ⟨t, hex, hst, congrArg (fun f => f.1) hfields, congrArg (fun f => f.2.1) hfields, congrArg (fun f => f.2.2.1) hfields,
      congrArg (fun f => f.2.2.2) hfields⟩
  · refine congrArg Host.Outcome.next ?_
    simp only [hh, hb, hq, ht]
    rfl
  · refine ⟨_, exec_debugHold hh hn ht hq, ?_⟩
    rw [State.getC_putC]
    exact ⟨rfl, rfl, rfl, rfl, Core.heldAt_str _, fun j hj => State.getC_putC_other _ _ _ _ hj⟩
  · refine ⟨_, exec_debugStep hh hb, ?_⟩
    rw [State.getC_putC]
    exact ⟨rfl, rfl, rfl, fun st => by cases st <;> rfl⟩
  · refine ⟨_, exec_debugStepA hh hb, ?_⟩
    rw [State.getC_putC]
    exact ⟨rfl, rfl, rfl, fun st => by cases st <;> rfl⟩
  · obtain ⟨t, hex, hres, ho, hothers⟩ := opdbgrel_releases h hs ha hf hk
    exact ⟨t, _, hex, hres, ho, rfl, rfl, (Ctx.op?_some h).2, hothers⟩

end Sys2Proof.Machine
end

section
/-! Float words and creating words (R48, R114-R116, R217-R223, R234, R236-R238): a slot, a handle and a QUEUED operation for every creating
word, and from that the statement O60. -/

namespace Sys2Proof.Machine

/-! ## Creation (R234, R236, R237) -/

/-- The slot and generation of the next operation (R236). -/
theorem nextSlot_of_freeSlot {c : Ctx} {slot gen : Nat} (h : FreeSlot c slot gen) : nextSlot c = some (slot, gen) := by
  unfold nextSlot
  rcases h with ⟨hlt, rfl, rfl⟩ | ⟨hge, l, o, hret, hfind, hgen⟩
  · rw [if_pos hlt]
  · rw [if_neg (Nat.not_lt.mpr hge), hret]
    dsimp only
    rw [hfind, hgen]
    rfl

/-- A handle holds GEN, SLOT and KIND (R234). -/
theorem mkHandle_of_lt {gen slot kind : Nat} (hg : gen < 4096) (hs : slot < 4096) (hk : kind < 16) :
    mkHandle gen slot kind = BitVec.ofNat 32 (gen * 2 ^ 20 + slot * 2 ^ 8 + kind * 2 ^ 4) := by
  rw [mkHandle, Nat.mod_eq_of_lt hg, Nat.mod_eq_of_lt hs, Nat.mod_eq_of_lt hk]
  rfl

theorem kindOf_lt (b : OpBody) : kindOf b < 16 := by
  unfold kindOf
  split <;> first | omega | split_ifs <;> omega

theorem placeOp_core (s : State) (x slot : Nat) (o : Op) : (placeOp s x slot o).core = s.core := by
  unfold placeOp
  dsimp only
  obtain ⟨m, n, r, q, e⟩ := State.imageOp_only
    { s.modX x (fun c => { c with ops := sput c.ops slot o, retired := c.retired.filter fun n => n ≠ slot }) with opCount := s.opCount + 1 } x slot
  exact (congrArg (fun t : State => t.core) e).trans rfl

/-- The operation of a handle is QUEUED in its slot. -/
def QueuedOp (t : State) (x slot : Nat) (hd : W32) : Prop := ∃ p, t.getO x slot = some p ∧ p.handle = hd ∧ p.st = .queued

/-- An operation without an after-handle, created out of debug, is QUEUED in the free slot under the next handle (R236, R237). -/
theorem createOp_queued {s : State} {st : StreamId} {n : NewOp} {body : OpBody} {slot gen : Nat} (k : State → W32 → Nat → Act)
    (hf : FreeSlot (s.getX s.core.ctx) slot gen) (hd : s.core.dbg.dbgHold = false) (ha : n.after = none) (hk : kindOf body ≠ 8) :
    ∃ u, createOp s st n body k = k u (mkHandle gen slot (kindOf body)) slot ∧ QueuedOp u s.core.ctx slot (mkHandle gen slot (kindOf body)) := by
  obtain ⟨o, ho⟩ : ∃ o, o = newOp s st (mkHandle gen slot (kindOf body)) n body := ⟨_, rfl⟩
  have hcore : (placeOp s s.core.ctx slot o).core = s.core := placeOp_core ..
  obtain ⟨v, hv⟩ : ∃ v, v = (placeOp s s.core.ctx slot o).setCore (s.core.pmcAdd 8 1) := ⟨_, rfl⟩
  have hvc : v.core = s.core.pmcAdd 8 1 := by rw [hv, State.core_setCore]
  obtain ⟨p, hp⟩ := Core.pmcAdd_only s.core 8 1
  have hctx : v.core.ctx = s.core.ctx := by rw [hvc, hp]; rfl
  have hdbg : v.core.dbg = s.core.dbg := by rw [hvc, hp]
  have hvo : v.getO s.core.ctx slot = some o := by
    rw [hv]
    exact placeOp_getO ..
  obtain ⟨m', f', r', q', hadv⟩ := advanceOp_queued hvo (by rw [ho]; exact ha) (by rw [ho]; rfl) (by rw [ho]; exact hk)
  refine ⟨advanceOp v s.core.ctx slot, ?_, { o with since := v.now, st := .queued, time := recTime v }, ?_, by rw [ho]; rfl, rfl⟩
  · unfold createOp makeOp
    simp only [nextSlot_of_freeSlot hf]
    rw [← ho, hcore, ← hv, hctx, hdbg, hd]
    rfl
  · rw [hadv]
    exact State.getO_putO ..

theorem withAfter_none {s : State} {st : StreamId} {o : FO} {k : NewOp → Act} (h : o.af = 0) :
    withAfter s st o k = k { prio := o.pr.toNat, det := o.dt = 1, after := none } := by
  simp [withAfter, h]

/-- The word i of stream st creates a QUEUED operation of a kind in a free slot and gives its handle. -/
def CreatesQueued (slot gen : Nat) (i : Instr) (st : StreamId) (h : Hdr) (d : BitVec 7) (kind : Nat) (s : State) : Prop :=
  let hd : W32 := BitVec.ofNat 32 (gen * 2 ^ 20 + slot * 2 ^ 8 + kind * 2 ^ 4)
  ∃ t, exec i s = .next (finishWord st h { res := some { val := .scalar (hd.setWidth 128), dest := dstOf st d 1 false, lat := 2 } } t) ∧
    QueuedOp t s.core.ctx slot hd

/-- What a word adds to the operation that it has created leaves its handle and its state. -/
def KeepsQueued (x slot : Nat) (f : State → W32 → Nat → State) : Prop := ∀ u hd, QueuedOp u x slot hd → QueuedOp (f u hd slot) x slot hd

theorem startWord_ctx (st : StreamId) (s : State) : (startWord st s).core.ctx = s.core.ctx := by
  rw [startWord_core, Core.ctx, Core.modStr_inst]
  rfl

theorem startWord_dbg (st : StreamId) (s : State) : (startWord st s).core.dbg = s.core.dbg := by
  rw [startWord_core, Core.modStr_dbg]

section
variable {s : State} {slot gen : Nat} {i : Instr} {st : StreamId} {h : Hdr} {g : BitVec 4} {d : BitVec 7} {body : State → Act}

/-- A word that passes its checks and then creates an operation. -/
theorem createsQueued_of_body {v : State} {pr : Nat} {det : Bool} {b : OpBody} {kind : Nat} {f : State → W32 → Nat → State}
    (hs : Starts i st h g s) (hx : exec i s = runWord i st h g (some 2) s body)
    (hb : body (startWord st s) = createOp v st ⟨pr, det, none⟩ b fun u hd slot => result (f u hd slot) st d 1 2 (hd.setWidth 128))
    (hk : kindOf b = kind) (hj : kind ≠ 8) (hc : v.core.ctx = s.core.ctx) (hdbg : v.core.dbg = s.core.dbg)
    (hv : v.ctxs = s.ctxs) (hslot : slot < 4096) (hgen : gen < 4096) (hf : FreeSlot (s.getX s.core.ctx) slot gen)
    (hd : s.core.dbg.dbgHold = false) (hkeep : KeepsQueued s.core.ctx slot f) : CreatesQueued slot gen i st h d kind s := by
  have hfree : FreeSlot (v.getX v.core.ctx) slot gen := by
    unfold State.getX
    rw [hv, hc]
    exact hf
  obtain ⟨u, hu, hq⟩ := createOp_queued (st := st) (n := ⟨pr, det, none⟩) (body := b)
    (fun u hd slot => result (f u hd slot) st d 1 2 (hd.setWidth 128)) hfree (by rw [hdbg, hd]) rfl (by rw [hk]; exact hj)
  rw [hc] at hq
  rw [mkHandle_of_lt hgen hslot (kindOf_lt b), hk] at hu hq
  exact ⟨_, hx.trans (runWord_done hs (hb.trans (hu.trans (result_word ..)))), hkeep u _ hq⟩

/-- The same for a word that changes nothing before it creates its operation. -/
theorem createsQueued_at_start {pr : Nat} {det : Bool} {b : OpBody} {kind : Nat} {f : State → W32 → Nat → State}
    (hs : Starts i st h g s) (hx : exec i s = runWord i st h g (some 2) s body)
    (hb : body (startWord st s) = createOp (startWord st s) st ⟨pr, det, none⟩ b fun u hd slot => result (f u hd slot) st d 1 2 (hd.setWidth 128))
    (hk : kindOf b = kind) (hj : kind ≠ 8) (hslot : slot < 4096) (hgen : gen < 4096)
    (hf : FreeSlot (s.getX s.core.ctx) slot gen) (hd : s.core.dbg.dbgHold = false) (hkeep : KeepsQueued s.core.ctx slot f) :
    CreatesQueued slot gen i st h d kind s :=
  createsQueued_of_body hs hx hb hk hj (startWord_ctx ..) (startWord_dbg ..) (startWord_ctxs ..) hslot hgen hf hd hkeep

end

theorem keepsQueued_id {x slot : Nat} : KeepsQueued x slot fun u _ _ => u := fun _ _ h => h

/-- A command that joins its core's order and names its tiles (R202, R217). -/
theorem placeCmd_getO (s : State) (h : W32) (slot : Nat) (ins outs : List Nat) (x j : Nat) : (placeCmd s h slot ins outs).getO x j = s.getO x j := by
  unfold placeCmd
  dsimp only
  split_ifs <;> rfl

theorem keepsQueued_placeCmd {x slot : Nat} (ins outs : List Nat) : KeepsQueued x slot fun u hd slot => placeCmd u hd slot ins outs := by
  rintro u hd ⟨p, hp, hh, hst⟩
  exact ⟨p, (placeCmd_getO ..).trans hp, hh, hst⟩

/-- A copy keeps its captured entries with its operation. -/
theorem keepsQueued_capture {x slot : Nat} (got : List Byte) : KeepsQueued x slot fun u _ slot => u.modO x slot fun p => { p with got := got } := by
  rintro u hd ⟨p, hp, hh, hst⟩
  refine ⟨{ p with got := got }, ?_, hh, hst⟩
  dsimp only
  rw [State.modO_some hp, State.getO_putO]

/-! ## Leases, launches, glazes, copies and bank dots (R234, R270, R298, R334, R378, R411) -/

/-- A word of A before which every started word has passed its checks (R165). -/
theorem whenPassed_ok {st : StreamId} {s : State} {k : Act} (h : s.core.aUnpassed = false) : whenPassed (startWord st s) k = k := by
  have hu : (startWord st s).core.aUnpassed = false := by
    unfold Core.aUnpassed Core.aFlight
    rw [startWord_flight]
    exact h
  rw [whenPassed, hu]
  rfl

section
variable {s : State} {slot gen : Nat} {h : Hdr} {o : FO} {a b : W128}
variable (haf : o.af = 0) (hslot : slot < 4096) (hgen : gen < 4096) (hf : FreeSlot (s.getX s.core.ctx) slot gen) (hd : s.core.dbg.dbgHold = false)
include haf hslot hgen hf hd

theorem lease_creates (hs : Starts (.lease h o) .S h o.g s) : CreatesQueued slot gen (.lease h o) .S h o.d 4 s :=
  createsQueued_at_start hs rfl (withAfter_none haf) rfl (by decide) hslot hgen hf hd keepsQueued_id

theorem glzs_creates (ha : s.core.src .S o.a 1 = .ok a) (hb : s.core.src .S o.b 1 = .ok b) (hs : Starts (.glzs h o) .S h o.g s) :
    CreatesQueued slot gen (.glzs h o) .S h o.d 7 s :=
  createsQueued_at_start hs rfl (by rw [with32_ok ha, with32_ok hb, withAfter_none haf]) rfl (by decide) hslot hgen hf hd keepsQueued_id

theorem qlaunch_creates (ha : s.core.src .S o.a 1 = .ok a) (hb : s.core.src .S o.b 2 = .ok b) (hs : Starts (.qlaunch h o) .S h o.g s) :
    CreatesQueued slot gen (.qlaunch h o) .S h o.d 5 s :=
  createsQueued_at_start hs rfl (by rw [with32_ok ha, with64_ok hb, withAfter_none haf]) rfl (by decide) hslot hgen hf hd keepsQueued_id

/-- A word of a palette engine under a good lease (R271). -/
theorem engineWord_creates {i : Instr} {op kind : Nat} (hx : exec i s = engineWord i h o op s) (ha : s.core.src .S o.a 1 = .ok a)
    (hb : s.core.src .S o.b 2 = .ok b) (hl : leaseOperand s s.core.ctx op (a.setWidth 32) = none)
    (hk : ∀ l va r, kindOf (.engine (BitVec.ofNat 8 op) l va r) = kind) (hj : kind ≠ 8) (hs : Starts i .S h o.g s) :
    CreatesQueued slot gen i .S h o.d kind s := by
  have hgood : leaseOperand (startWord .S s) (startWord .S s).core.ctx op (a.setWidth 32) = none := by
    rw [startWord_ctx]
    exact hl
  refine createsQueued_at_start (pr := o.pr.toNat) (det := o.dt = 1) (f := fun u _ _ => u) hs hx ?_ (hk (a.setWidth 32) (b.setWidth 64) (o.m.getLsbD 0)) hj hslot hgen hf hd keepsQueued_id
  rw [with32_ok ha, with64_ok hb, withAfter_none haf]
  dsimp only
  rw [hgood]

theorem cpy_creates {inst : Inst} (hinst : s.coreInst s.core = some inst) (ha : s.core.src .A o.a 1 = .ok a) (hb : s.core.src .A o.b 2 = .ok b)
    (hu : s.core.aUnpassed = false) (hn : (a.extractLsb' 16 16).toNat ≠ 0)
    (hlen : (a.extractLsb' 0 16).toNat + (a.extractLsb' 16 16).toNat ≤ field inst.launch 0x16 2) (hs : Starts (.cpy h o) .A h o.g s) :
    CreatesQueued slot gen (.cpy h o) .A h o.d 1 s := by
  have hlo : (a.setWidth 32 : W32).extractLsb' 0 16 = a.extractLsb' 0 16 := by
    ext i hi
    simp [show i < 32 by omega]
  have hhi : (a.setWidth 32 : W32).extractLsb' 16 16 = a.extractLsb' 16 16 := by
    ext i hi
    simp [show 16 + i < 32 by omega]
  refine createsQueued_at_start (pr := o.pr.toNat) (det := o.dt = 1)
    (b := .copy (a.extractLsb' 0 16).toNat (a.extractLsb' 16 16).toNat (startWord .A s).core.stage.toNat ((b.setWidth 64 : W64).extractLsb' 0 32) ((b.setWidth 64 : W64).extractLsb' 32 32)) hs rfl ?_ rfl
    (by decide) hslot hgen hf hd (keepsQueued_capture (captureCopy inst (a.extractLsb' 0 16).toNat (a.extractLsb' 16 16).toNat))
  rw [with32_ok ha, with64_ok hb, withAfter_none haf, whenPassed_ok hu]
  dsimp only
  have hlen' : ¬(decide ((a.extractLsb' 16 16).toNat = 0) ||
      decide (inst.schedLen < (a.extractLsb' 0 16).toNat + (a.extractLsb' 16 16).toNat)) = true := by
    rw [decide_eq_false hn, decide_eq_false (Nat.not_lt.mpr (show _ ≤ inst.schedLen from hlen))]
    exact Bool.false_ne_true
  rw [startWord_coreInst, hinst, hlo, hhi, if_neg hlen', startWord_ctx]

theorem bdot_creates (ha : s.core.src .A o.a 2 = .ok a) (hu : s.core.aUnpassed = false) (hs : Starts (.bdot h o) .A h o.g s) :
    CreatesQueued slot gen (.bdot h o) .A h o.d 6 s := by
  refine createsQueued_at_start (pr := o.pr.toNat) (det := o.dt = 1) (f := fun u _ _ => u) (b := .bdot (a.setWidth 64)) hs rfl ?_ rfl (by decide) hslot hgen hf hd keepsQueued_id
  rw [with64_ok ha, withAfter_none haf, whenPassed_ok hu]

theorem wlease_creates (hs : Starts (.wlease h o) .X h o.g s) : CreatesQueued slot gen (.wlease h o) .X h o.d 4 s :=
  createsQueued_at_start hs rfl (withAfter_none haf) rfl (by decide) hslot hgen hf hd keepsQueued_id

theorem wload_creates (ha : s.core.src .X o.a 2 = .ok a) (hs : Starts (.wload h o) .X h o.g s) : CreatesQueued slot gen (.wload h o) .X h o.d 0 s :=
  createsQueued_at_start hs rfl (by rw [with64_ok ha, arrayWord, withAfter_none haf]) rfl (by decide) hslot hgen hf hd (keepsQueued_placeCmd [] [])

theorem wdrain_creates (ha : s.core.src .X o.a 2 = .ok a) (hm : o.m.getLsbD 0 = false) (hs : Starts (.wdrain h o) .X h o.g s) :
    CreatesQueued slot gen (.wdrain h o) .X h o.d 0 s :=
  createsQueued_at_start hs rfl (by rw [hm, if_neg Bool.false_ne_true, with64_ok ha, arrayWord, withAfter_none haf]) rfl (by decide) hslot hgen hf hd
    (keepsQueued_placeCmd [] [])

end

/-! ## Matrix words of integer and e4m3 activations (R211, R212, R219-R221) -/

/-- The activations of i8 and e4m3: both reduce 256 values of one tile to 256 outputs (R211, R212). -/
structure OneTile (k : ActKind) (et : BitVec 5) : Prop where
  kind : actKind et = some k
  red : ∀ tr, redLen k tr = 256
  out : ∀ tr, outLen k tr = 256
  tiles : inTiles k 256 = 1
  outer : outerX k = 256
  outEt : outEt k 0 = if et = 0 then 2 else 8

theorem oneTile_of_et {et : BitVec 5} (h : et = 0x00 ∨ et = 0x0B) : ∃ k, OneTile k et := by
  rcases h with rfl | rfl
  · exact ⟨.int, rfl, fun _ => rfl, fun _ => rfl, rfl, rfl, rfl⟩
  · exact ⟨.fp8, rfl, fun _ => rfl, fun _ => rfl, rfl, rfl, rfl⟩

/-- A tile that a matrix word reads (R203, R212). -/
structure FullTile (s : State) (et rows t : Nat) : Prop where
  usable : (s.shape t).usable = true
  et : (s.shape t).et = et
  rows : (s.shape t).rows = rows
  cols : (s.shape t).cols = 256
  full : (s.core.tile t).full = true

/-- A tile that a matrix word writes (R202, R203, R212). -/
structure FreeTile (s : State) (et rows t : Nat) : Prop where
  usable : (s.shape t).usable = true
  et : (s.shape t).et = et
  rows : (s.shape t).rows = rows
  cols : (s.shape t).cols = 64
  free : s.core.tileBusy t = false
  full : (s.core.tile t).full = true

theorem startWord_shape (st : StreamId) (s : State) (t : Nat) : (startWord st s).shape t = s.shape t := by
  rw [State.shape, startWord_core, Core.modStr_tsh]
  rfl

theorem startWord_tile (st : StreamId) (s : State) (t : Nat) : (startWord st s).core.tile t = s.core.tile t := by
  rw [Core.tile, startWord_core, Core.modStr_tiles]
  rfl

theorem startWord_tileBusy (st : StreamId) (s : State) (t : Nat) : (startWord st s).core.tileBusy t = s.core.tileBusy t := by
  rw [Core.tileBusy, startWord_core, Core.modStr_busyTiles]
  rfl

theorem FullTile.start {s : State} {et rows t : Nat} (h : FullTile s et rows t) (st : StreamId) : FullTile (startWord st s) et rows t := by
  obtain ⟨hu, he, hr, hc, hf⟩ := h
  exact ⟨by rwa [startWord_shape], by rwa [startWord_shape], by rwa [startWord_shape], by rwa [startWord_shape], by rwa [startWord_tile]⟩

theorem FreeTile.start {s : State} {et rows t : Nat} (h : FreeTile s et rows t) (st : StreamId) : FreeTile (startWord st s) et rows t := by
  obtain ⟨hu, he, hr, hc, hb, hf⟩ := h
  exact ⟨by rwa [startWord_shape], by rwa [startWord_shape], by rwa [startWord_shape], by rwa [startWord_shape], by rwa [startWord_tileBusy],
    by rwa [startWord_tile]⟩

theorem tileGroup_one (t : BitVec 4) : tileGroup t 1 = [t.toNat] := rfl

theorem tileGroup_four (t : BitVec 4) : tileGroup t 4 = [t.toNat, t.toNat + 1, t.toNat + 2, t.toNat + 3] := rfl

section
variable {s : State} {et rows : Nat} {ts : List Nat} {k : Act}

theorem groupOk_full (h : ∀ t ∈ ts, FullTile s et rows t) : groupOk s ts et rows 256 = true := by
  refine List.all_eq_true.mpr fun t ht => ?_
  obtain ⟨hu, he, hr, hc, -⟩ := h t ht
  simp [hu, he, hr, hc]

theorem groupOk_free (h : ∀ t ∈ ts, FreeTile s et rows t) : groupOk s ts et rows 64 = true := by
  refine List.all_eq_true.mpr fun t ht => ?_
  obtain ⟨hu, he, hr, hc, -, -⟩ := h t ht
  simp [hu, he, hr, hc]

theorem whenFull_ok (h : ∀ t ∈ ts, FullTile s et rows t) : whenFull s ts k = k :=
  if_pos (List.all_eq_true.mpr fun t ht => (h t ht).full)

theorem whenAllWritable_ok (h : ∀ t ∈ ts, FreeTile s et rows t) : whenAllWritable s ts k = k := by
  refine if_neg fun hany => ?_
  obtain ⟨t, ht, hw⟩ := List.any_eq_true.mp hany
  simp [(h t ht).free, (h t ht).full] at hw

end

/-- The checks of `wdot` and `wtdot` passed, the X generators advance and the command is created (R219, R225). -/
theorem dotAct_creates {o : FW} {tr : Bool} {s : State} {k : ActKind} (hk : OneTile k o.et) (hot : o.m.extractLsb' 0 2 = 0) (hacc : o.acc = 0)
    (hin : FullTile s o.et.toNat (s.shape o.ta.toNat).rows o.ta.toNat)
    (hout : ∀ t ∈ tileGroup o.tout 4, FreeTile s (outEt k 0) (s.shape o.ta.toNat).rows t) : ∃ m g,
      dotAct o tr s = createOp (s.setCore { s.core with xgen := g }) .X ⟨o.pr.toNat, o.dt = 1, none⟩ (.dot tr m) fun u hd slot =>
        result (placeCmd u hd slot [o.ta.toNat] (tileGroup o.tout 4)) .X o.d 1 2 (hd.setWidth 128) := by
  have hins : ∀ t ∈ [o.ta.toNat], FullTile s o.et.toNat (s.shape o.ta.toNat).rows t := by simpa using hin
  have hupper : (decide (o.acc = 2) && decide (benchOf s.cur % 2 = 1)) = false := by simp [hacc]
  have hacc2 : o.acc ≠ 2 := by rw [hacc]; decide
  have hlen : outTiles 256 0 = 4 := rfl
  have hcols : outCols 0 = 64 := rfl
  unfold dotAct
  simp only [hk.kind, hk.red, hk.out, hk.tiles, hot, hupper, hlen, hcols, tileGroup_one, Nat.div_one, Bool.false_eq_true, if_false]
  rw [groupOk_full hins, groupOk_free hout, if_neg (by decide), whenFull_ok hins, whenAllWritable_ok hout, if_pos hacc, if_neg hacc2]
  exact ⟨_, _, rfl⟩

section
variable {s : State} {slot gen : Nat} {h : Hdr} {o : FW} {k : ActKind}
variable (hslot : slot < 4096) (hgen : gen < 4096) (hf : FreeSlot (s.getX s.core.ctx) slot gen) (hd : s.core.dbg.dbgHold = false)
variable (hk : OneTile k o.et) (hin : FullTile s o.et.toNat (s.shape o.ta.toNat).rows o.ta.toNat)
include hslot hgen hf hd hk hin

/-- `wdot` and `wtdot` without a pair. -/
theorem dot_creates {i : Instr} {tr : Bool} (hx : exec i s = runWord i .X h o.g (some 2) s (dotAct o tr)) (hot : o.m.extractLsb' 0 2 = 0)
    (hacc : o.acc = 0) (hout : ∀ t ∈ tileGroup o.tout 4, FreeTile s (outEt k 0) (s.shape o.ta.toNat).rows t) (hs : Starts i .X h o.g s) :
    CreatesQueued slot gen i .X h o.d 0 s := by
  obtain ⟨m, g, hb⟩ := dotAct_creates (tr := tr) (s := startWord .X s) hk hot hacc (by rw [startWord_shape]; exact hin.start .X)
    (by rw [startWord_shape]; exact fun t ht => (hout t ht).start .X)
  refine createsQueued_of_body hs hx hb rfl (by decide) ?_ ?_ (startWord_ctxs .X s) hslot hgen hf hd (keepsQueued_placeCmd _ _)
  · rw [State.core_setCore]
    exact startWord_ctx ..
  · rw [State.core_setCore]
    exact startWord_dbg ..

theorem wouter_creates (hdy : FullTile s o.et.toNat (s.shape o.ta.toNat).rows o.tout.toNat) (hs : Starts (.wouter h o) .X h o.g s) :
    CreatesQueued slot gen (.wouter h o) .X h o.d 0 s := by
  have hx : ∀ t ∈ [o.ta.toNat], FullTile (startWord .X s) o.et.toNat (s.shape o.ta.toNat).rows t := by simpa using hin.start .X
  have hy : ∀ t ∈ [o.tout.toNat], FullTile (startWord .X s) o.et.toNat (s.shape o.ta.toNat).rows t := by simpa using hdy.start .X
  have hxy : ∀ t ∈ [o.ta.toNat] ++ [o.tout.toNat], FullTile (startWord .X s) o.et.toNat (s.shape o.ta.toNat).rows t := by
    simpa using ⟨hin.start .X, hdy.start .X⟩
  refine createsQueued_at_start (pr := o.pr.toNat) (det := o.dt = 1)
    (b := .wouter (captured (startWord .X s) o (s.shape o.ta.toNat).rows ([o.ta.toNat] ++ [o.tout.toNat]))) hs rfl ?_ rfl (by decide) hslot hgen hf hd
    (keepsQueued_placeCmd ([o.ta.toNat] ++ [o.tout.toNat]) [])
  simp only [hk.kind, hk.outer, hk.tiles, tileGroup_one, Nat.div_one, startWord_shape]
  rw [groupOk_full hx, groupOk_full hy, if_neg (by decide), whenFull_ok hxy]

end

/-! ## O60 -/

/-- Settles O60: the float words are those of O16; each creating word passes its checks and then creates its operation. -/
theorem floatAndCreatingWordsComplete : Obligations.FloatAndCreatingWordsComplete := by
  unfold Obligations.FloatAndCreatingWordsComplete
  intro h s slot gen c hdl gives creates
  refine ⟨fun o a ha => ?float, fun o a src hi hsrc ha hs => ((conversionWordsRule h o s a src hi hsrc ha).1 hs).1, fun hf hslot hgen hdbg => ⟨fun o a b haf => ?ops, ?matrix⟩⟩
  case float =>
    have hg {i : Instr} {lat : Nat} {v : W32} (hi : Starts i .S h o.g s → Gives i .S h o.d 1 lat (v.setWidth 128) false s) : gives i o.g o.d 1 lat :=
      fun hs => ⟨_, _, hi hs⟩
    obtain ⟨hsqrt, hclass, htwo⟩ := floatWordsRule h o s a ha
    refine ⟨hg hsqrt, fun f hf => ?_, fun b hb => ?_⟩
    · obtain ⟨n, -, hn⟩ := hclass f hf
      exact hg hn
    · obtain ⟨hadd, hsub, hmul, hdiv, hfma, hmin, hmax, hcmp, -⟩ := htwo b hb
      exact ⟨hg hadd, hg hsub, hg hmul, hg hdiv, hg hmin, hg hmax, fun e he => hg (hfma e he), fun n hn hi => hg (hcmp n hn hi)⟩
  case ops =>
    refine ⟨fun k hk hs => lease_creates haf hslot hgen hf hdbg hs, fun ha hb hs => glzs_creates haf hslot hgen hf hdbg ha hb hs,
      fun ha hb => ⟨fun hs => qlaunch_creates haf hslot hgen hf hdbg ha hb hs, ?_⟩,
      fun hu => ⟨fun inst hinst ha hb hn hlen hs => cpy_creates haf hslot hgen hf hdbg hinst ha hb hu hn hlen hs,
        fun ha hs => bdot_creates haf hslot hgen hf hdbg ha hu hs⟩,
      fun hs => wlease_creates haf hslot hgen hf hdbg hs,
      fun ha => ⟨fun hs => wload_creates haf hslot hgen hf hdbg ha hs, fun hm hs => wdrain_creates haf hslot hgen hf hdbg ha hm hs⟩⟩
    have he {i : Instr} {op kind : Nat} (hx : exec i s = engineWord i h o op s)
        (hk : ∀ l va r, kindOf (.engine (BitVec.ofNat 8 op) l va r) = kind) (hj : kind ≠ 8) (hl : leaseOperand s c.ctx op (a.setWidth 32) = none) :
        creates i .S o.d o.g kind := engineWord_creates haf hslot hgen hf hdbg hx ha hb hl hk hj
    simp only [List.forall_mem_cons, List.not_mem_nil, false_imp_iff, implies_true, and_true]
    refine ⟨?_, ?_, ?_, ?_, ?_, ?_, ?_, ?_, ?_, ?_, ?_, ?_, ?_, ?_⟩ <;> exact he rfl (fun _ _ _ => rfl) (by decide)
  case matrix =>
    intro o ta tout full out het hot hta
    obtain ⟨k, hk⟩ := oneTile_of_et het
    obtain ⟨hu, he, -, hc, hfull⟩ := hta
    have hin : FullTile s o.et.toNat (s.shape ta).rows ta := ⟨hu, he, rfl, hc, hfull⟩
    refine ⟨fun hacc hout => ?_, fun ⟨hu, he, hr, hc, hfull⟩ => wouter_creates hslot hgen hf hdbg hk hin ⟨hu, he, hr, hc, hfull⟩⟩
    have hfree : ∀ t ∈ tileGroup o.tout 4, FreeTile s (outEt k 0) (s.shape ta).rows t := by
      intro t ht
      obtain ⟨hu, he, hr, hc, hb, hfull⟩ := hout t ht
      exact ⟨hu, he.trans hk.outEt.symm, hr, hc, hb, hfull⟩
    exact ⟨dot_creates hslot hgen hf hdbg hk hin rfl hot hacc hfree, dot_creates hslot hgen hf hdbg hk hin rfl hot hacc hfree⟩

end Sys2Proof.Machine
end

section
/-! From the dispatcher round to node end (R89, R283, R287, R289, R290, R300, R301, R305, R333): what a choice of cores gives, how cores are
bound to an instance, a core's start, and the end of a node; and from them the statement O45. -/

namespace Sys2Proof.Machine

/-! ## A round and its choice (R300, R333) -/

theorem one_le_atMost (b t u : Nat) : 1 ≤ atMost b t u := Nat.le_add_right ..

theorem atMost_le {b : Nat} (hb : 0 < b) (t u : Nat) : atMost b t u ≤ b := by
  have := Nat.mod_lt (Config.delay t u) hb
  unfold atMost
  omega

/-- A round that is due, with the credits that it gives. -/
theorem exec_dispatcherRound_due {s : State} (h : s.lastRound + 2400 ≤ s.now) : ∃ d, exec .dispatcherRound s = .next (
    let u : State := { s with lastRound := s.now, deficit := d }
    let l := sortBy (candBefore u) (candidates s)
    ((l.filter (fun c => decide (c.readyAt + 1200000 ≤ s.now)) ++ l.filter fun c => !decide (c.readyAt + 1200000 ≤ s.now)).foldl
      (chooseNode ((candidates s).map (·.part)).eraseDups) (u, [])).1) := by
  have hle := atMost_le (b := 2400) (by decide) s.lastRound 0
  exact ⟨_, congrArg Host.Outcome.next (if_neg (by omega))⟩

/-- Whole units that start at multiples of their size hold each core once. -/
theorem nodup_units {l : List Nat} (hl : l.Nodup) (n : Nat) : (l.flatMap fun u => (List.range n).map fun i => n * u + i).Nodup := by
  refine List.nodup_flatMap.mpr ⟨fun u _ => (List.nodup_range).map fun i j h => by simpa using h, hl.imp fun {u v} hne => ?_⟩
  intro k hu hv
  obtain ⟨i, hi, rfl⟩ := List.mem_map.mp hu
  obtain ⟨j, hj, h⟩ := List.mem_map.mp hv
  rw [List.mem_range] at hi hj
  have hpos : 0 < n := by omega
  have hdiv := congrArg (· / n) h
  simp only [Nat.mul_add_div hpos, Nat.div_eq_of_lt hi, Nat.div_eq_of_lt hj, Nat.add_zero] at hdiv
  exact hne hdiv.symm

/-- A choice takes each core once, and free ones (R300, R301). -/
theorem chooseCores_spec {s : State} {n : Nat} {benches : Bool} {aside l : List Nat} (h : chooseCores s n benches aside = some l) :
    l.Nodup ∧ ∀ k ∈ l, coreFree s k = true := by
  obtain ⟨unit, hunit⟩ : ∃ u, u = if !benches then 1 else if n % 8 = 0 then 8 else 4 := ⟨_, rfl⟩
  unfold chooseCores at h
  rw [← hunit] at h
  dsimp only at h
  split_ifs at h
  cases h
  refine ⟨nodup_units ((List.take_sublist ..).nodup ((List.nodup_range).filter _)) _, fun k hk => ?_⟩
  obtain ⟨u, hu, hk⟩ := List.mem_flatMap.mp hk
  obtain ⟨i, hi, rfl⟩ := List.mem_map.mp hk
  have hfree := (List.mem_filter.mp (List.mem_of_mem_take hu)).2
  exact (Bool.and_eq_true _ _ ▸ List.all_eq_true.mp hfree i hi).1

/-! ## Cores bound to an instance (R300, R301) -/

/-- Each core of a list takes the instance and its index. -/
def State.bindAll (s : State) (key : InstKey) (l : List (Nat × Nat)) : State :=
  l.foldl (fun s e => s.modC e.1 fun c => { c with inst := some key, gidx := e.2, started := false }) s

theorem bindAll_only (s : State) (key : InstKey) (l : List (Nat × Nat)) : ∃ cs, s.bindAll key l = { s with cores := cs } := by
  refine List.foldlRecOn l _ (motive := fun t : State => ∃ cs, t = { s with cores := cs }) ⟨s.cores, rfl⟩ ?_
  rintro t ⟨cs, rfl⟩ e -
  exact ⟨_, rfl⟩

theorem bindAll_other {key : InstKey} {k : Nat} {l : List (Nat × Nat)} (h : k ∉ l.map (·.1)) (s : State) :
    (s.bindAll key l).getC k = s.getC k := by
  induction l generalizing s with
  | nil => rfl
  | cons e l ih =>
    rw [List.map_cons, List.mem_cons, not_or] at h
    exact (ih h.2 _).trans (State.getC_putC_other _ _ _ _ h.1)

theorem bindAll_bound {key : InstKey} {l : List (Nat × Nat)} (hl : (l.map (·.1)).Nodup) {e : Nat × Nat} (he : e ∈ l) (s : State) :
    ((s.bindAll key l).getC e.1).inst = some key ∧ ((s.bindAll key l).getC e.1).gidx = e.2 := by
  induction l generalizing s with
  | nil => exact absurd he List.not_mem_nil
  | cons a l ih =>
    obtain ⟨ha, hl⟩ := List.nodup_cons.mp hl
    rcases List.mem_cons.mp he with rfl | he
    · have h := bindAll_other (key := key) ha (s.modC e.1 fun c => { c with inst := some key, gidx := e.2, started := false })
      rw [State.modC, State.getC_putC] at h
      exact ⟨congrArg Core.inst h, congrArg Core.gidx h⟩
    · exact ih hl he _

/-! ## Instances and nodes (R283, R325, R332) -/

theorem Ctx.inst?_map {c : Ctx} {key : InstKey} {i : Inst} (h : c.inst? key = some i) (f : Inst → Inst) :
    ({ c with insts := c.insts.map fun e => if e.1 = key then (e.1, f e.2) else e } : Ctx).inst? key = some (f i) := by
  have hp (e : InstKey × Inst) : decide ((if e.1 = key then (e.1, f e.2) else e).1 = key) = decide (e.1 = key) := by split_ifs <;> rfl
  unfold Ctx.inst? at h ⊢
  obtain ⟨e, he, rfl⟩ := Option.map_eq_some_iff.mp h
  have hkey : e.1 = key := of_decide_eq_true (List.find?_some (p := fun e : InstKey × Inst => decide (e.1 = key)) he)
  dsimp only
  rw [List.find?_map, show ((fun e : InstKey × Inst => decide (e.1 = key)) ∘ fun e => if e.1 = key then (e.1, f e.2) else e) = fun e => decide (e.1 = key) from funext hp, he]
  simp [hkey]

theorem getInst_modInst {s : State} {key : InstKey} {i : Inst} (h : s.getInst key = some i) (f : Inst → Inst) :
    (s.modInst key f).getInst key = some (f i) := by
  unfold State.getInst State.modInst
  rw [State.getX_modX]
  exact Ctx.inst?_map h f

theorem State.getQ_modQ (s : State) (x q : Nat) (f : Queue → Queue) : (s.modQ x q f).getQ x q = f (s.getQ x q) := by
  unfold State.getQ State.modQ
  rw [State.getX_modX]
  exact sget_sput_same ..

/-- A change of a queue leaves the instances of its context. -/
theorem State.getInst_modQ (s : State) (key : InstKey) (f : Queue → Queue) : (s.modQ key.ctx key.q f).getInst key = s.getInst key := by
  unfold State.getInst State.modQ
  rw [State.getX_modX]
  rfl

theorem getNode_modNode {s : State} {x q seq : Nat} {n : Node} (h : s.getNode x q seq = some n) (f : Node → Node) :
    (s.modNode x q seq f).getNode x q seq = some (f n) := by
  unfold State.modNode
  rw [h]
  unfold State.getNode State.putNode
  rw [State.getQ_modQ]
  exact sfind_sput_same ..

/-- A change of a node leaves the cores and the instances. -/
theorem modNode_keeps (s : State) (key : InstKey) (f : Node → Node) : (s.modNode key.ctx key.q key.seq f).cores = s.cores ∧
    (s.modNode key.ctx key.q key.seq f).mem = s.mem ∧ (s.modNode key.ctx key.q key.seq f).getInst key = s.getInst key := by
  unfold State.modNode
  split
  · exact ⟨rfl, rfl, State.getInst_modQ ..⟩
  · exact ⟨rfl, rfl, rfl⟩

theorem imageNode_only (s : State) (x q seq : Nat) : ∃ m n r d, imageNode s x q seq = s.withDev m n r d := by
  unfold imageNode
  dsimp only
  split
  · exact ⟨s.mem, s.free, s.residues, s.devQ, rfl⟩
  · obtain ⟨m, n, r, d, h⟩ := State.devWrite_only s (s.getX x).fn ((s.getQ x q).slotVa seq + 6) [BitVec.ofNat 8 (NodeSt.code _), Node.code _]
    rw [h]
    obtain ⟨m', n', r', d', h'⟩ := State.devWrite_only (s.withDev m n r d) (s.getX x).fn ((s.getQ x q).slotVa seq + 0x18) _
    exact ⟨m', n', r', d', h'⟩

/-- PROG moves over finished nodes only (R325). -/
theorem Queue.sfind_advance {q : Queue} {seq : Nat} {n : Node} (h : sfind q.nodes seq = some n) (hn : n.done = false) (fuel : Nat) :
    sfind (q.advance fuel).nodes seq = some n := by
  induction fuel generalizing q with
  | zero => exact h
  | succ fuel ih =>
    unfold Queue.advance
    split_ifs
    · exact h
    · split
      next m hm =>
        split_ifs with hd
        · have hne : seq ≠ q.prog.toNat := by
            rintro rfl
            rw [h] at hm
            cases hm
            exact Bool.false_ne_true (hn.symm.trans hd)
          refine ih ?_
          show sfind (sdel q.nodes q.prog.toNat) seq = some n
          rw [sfind_sdel, if_neg hne, h]
        · exact h
      next => exact h

theorem Queue.settle_nodes (q : Queue) : q.settle.nodes = (q.advance (q.tail - q.prog).toNat).nodes := by
  unfold Queue.settle
  dsimp only
  split <;> rfl

theorem Queue.start_nodes (q : Queue) : q.start.nodes = q.nodes := by
  unfold Queue.start
  split_ifs <;> rfl

/-- A context that follows its nodes takes another state, and its record is written (R342). -/
theorem settleCtx_only (s : State) (x : Nat) : settleCtx s x = s ∨ ∃ st, settleCtx s x = s.setCtxSt x st := by
  have h (p : Prop) [Decidable p] (st : CtxSt) : (if p then s else s.setCtxSt x st) = s ∨ ∃ st', (if p then s else s.setCtxSt x st) = s.setCtxSt x st' := by
    split_ifs
    · exact .inl rfl
    · exact .inr ⟨st, rfl⟩
  unfold settleCtx
  dsimp only
  split
  · exact h _ _
  · exact h _ _
  · exact h _ _
  · exact .inl rfl

/-- What a change of a context's state and images keep: the cores, and the queues and instances of every context. -/
structure KeepsNodes (s t : State) : Prop where
  cores : t.cores = s.cores
  ctx : ∀ x, (t.getX x).queues = (s.getX x).queues ∧ (t.getX x).insts = (s.getX x).insts

theorem KeepsNodes.trans {s t u : State} (h : KeepsNodes s t) (k : KeepsNodes t u) : KeepsNodes s u :=
  ⟨k.cores.trans h.cores, fun x => ⟨(k.ctx x).1.trans (h.ctx x).1, (k.ctx x).2.trans (h.ctx x).2⟩⟩

theorem KeepsNodes.getNode {s t : State} (h : KeepsNodes s t) (x q seq : Nat) : t.getNode x q seq = s.getNode x q seq :=
  congrArg (fun l => sfind (sget Queue.reset l q).nodes seq) (h.ctx x).1

theorem KeepsNodes.getInst {s t : State} (h : KeepsNodes s t) (key : InstKey) : t.getInst key = s.getInst key :=
  congrArg (fun l : List (InstKey × Inst) => (l.find? fun e : InstKey × Inst => decide (e.1 = key)).map Prod.snd) (h.ctx key.ctx).2

theorem KeepsNodes.of_ctxs {s t : State} (hc : t.cores = s.cores) (hx : t.ctxs = s.ctxs) : KeepsNodes s t :=
  ⟨hc, fun x => ⟨congrArg (fun l => (sget Ctx.reset l x).queues) hx, congrArg (fun l => (sget Ctx.reset l x).insts) hx⟩⟩

theorem keepsNodes_imageNode (s : State) (x q seq : Nat) : KeepsNodes s (imageNode s x q seq) := by
  obtain ⟨m, n, r, d, h⟩ := imageNode_only s x q seq
  exact h ▸ .of_ctxs rfl rfl

theorem keepsNodes_setCtxSt (s : State) (x : Nat) (st : CtxSt) : KeepsNodes s (s.setCtxSt x st) := by
  obtain ⟨m, n, r, d, h⟩ := State.setCtxSt_only s x st
  rw [h]
  refine ⟨rfl, fun y => ?_⟩
  show ((s.modX x fun c => { c with st := st }).getX y).queues = _ ∧ ((s.modX x fun c => { c with st := st }).getX y).insts = _
  by_cases hy : y = x
  · subst hy
    rw [State.getX_modX]
    exact ⟨rfl, rfl⟩
  · rw [State.getX_modX_other _ _ _ _ hy]
    exact ⟨rfl, rfl⟩

theorem keepsNodes_settleCtx (s : State) (x : Nat) : KeepsNodes s (settleCtx s x) := by
  rcases settleCtx_only s x with h | ⟨st, h⟩
  · rw [h]
    exact .of_ctxs rfl rfl
  · rw [h]
    exact keepsNodes_setCtxSt s x st

/-- A node that has not finished stays as its queue settles, and so do cores and instances (R325, R332). -/
theorem settleQueue_keeps {s : State} {key : InstKey} {n : Node} (hn : s.getNode key.ctx key.q key.seq = some n) (hd : n.done = false) :
    (settleQueue s key.ctx key.q).getNode key.ctx key.q key.seq = some n ∧ (settleQueue s key.ctx key.q).getInst key = s.getInst key ∧
      (settleQueue s key.ctx key.q).cores = s.cores := by
  have h := keepsNodes_settleCtx (s.modQ key.ctx key.q Queue.settle) key.ctx
  refine ⟨(h.getNode ..).trans ?_, (h.getInst key).trans (State.getInst_modQ ..), h.cores⟩
  unfold State.getNode
  rw [State.getQ_modQ, Queue.settle_nodes]
  exact Queue.sfind_advance hn hd _

/-! ## Binding and choosing (R300, R301, R333) -/

/-- The instance holds its cores, and its node runs; nothing else of either changes. -/
theorem bindCores_spec {s : State} {key : InstKey} {l : List Nat} {i : Inst} {n : Node} (hi : s.getInst key = some i)
    (hn : s.getNode key.ctx key.q key.seq = some n) (hd : n.done = false) :
    (bindCores s key l).cores = (s.bindAll key l.zipIdx).cores ∧ (bindCores s key l).getInst key = some { i with cores := l } ∧
      (bindCores s key l).getNode key.ctx key.q key.seq = some { n with st := .running } := by
  obtain ⟨cs, hcs⟩ := bindAll_only s key l.zipIdx
  obtain ⟨u, hu⟩ : ∃ u, u = (s.bindAll key l.zipIdx).modInst key fun i => { i with cores := l } := ⟨_, rfl⟩
  have hui : u.getInst key = some { i with cores := l } := by
    rw [hu]
    refine getInst_modInst ?_ fun i => { i with cores := l }
    rw [hcs]
    exact hi
  have hun : u.getNode key.ctx key.q key.seq = some n := by
    have hq : u.getQ key.ctx key.q = s.getQ key.ctx key.q := by
      rw [hu, hcs]
      unfold State.getQ State.modInst
      rw [State.getX_modX]
      rfl
    unfold State.getNode
    rw [hq]
    exact hn
  obtain ⟨v, hv⟩ : ∃ v, v = (u.modNode key.ctx key.q key.seq fun n => { n with st := .running }).modQ key.ctx key.q Queue.start := ⟨_, rfl⟩
  obtain ⟨hmc, -, hmi⟩ := modNode_keeps u key fun n => { n with st := .running }
  have hvi : v.getInst key = some { i with cores := l } := by rw [hv, State.getInst_modQ, hmi, hui]
  have hvn : v.getNode key.ctx key.q key.seq = some { n with st := .running } := by
    rw [hv]
    unfold State.getNode
    rw [State.getQ_modQ, Queue.start_nodes]
    exact getNode_modNode hun _
  have hvc : v.cores = (s.bindAll key l.zipIdx).cores := by
    rw [hv]
    refine hmc.trans ?_
    rw [hu]
    rfl
  have himage := keepsNodes_imageNode v key.ctx key.q key.seq
  obtain ⟨hsn, hsi, hsc⟩ := settleQueue_keeps ((himage.getNode ..).trans hvn) hd
  rw [show bindCores s key l = settleQueue (imageNode v key.ctx key.q key.seq) key.ctx key.q by rw [hv, hu]; rfl]
  exact ⟨hsc.trans (himage.cores.trans hvc), hsi.trans ((himage.getInst key).trans hvi), hsn⟩

/-- A choice whose cores are there binds them (R300, R333). -/
theorem chooseNode_binds {s : State} {c : Cand} {n : Node} {i : Inst} {l : List Nat} (hn : s.getNode c.x c.q c.seq = some n)
    (hi : s.getInst { ctx := c.x, q := c.q, seq := c.seq } = some i)
    (hfit : partCores s c.part + i.size ≤ (dcGet s (0x00290004 + 0x10 * c.part)).toNat)
    (hl : chooseCores s i.size (field i.launch 6 2 % 2 = 1) [] = some l) :
    chooseNode [c.part] (s, []) c = (bindCores s { ctx := c.x, q := c.q, seq := c.seq } l, []) := by
  have hsel : selectNode s c.x c.q c.seq n = s := by
    unfold selectNode
    dsimp only
    rw [hi]
    rfl
  have hshare : ((dcGet s (0x00290000 + 0x10 * c.part)).toNat = 0 && [c.part].any (· ≠ c.part)) = false := by simp
  unfold chooseNode
  simp only [hn, hsel, hi, hshare, hfit, hl]
  rfl

/-- A round with one candidate binds the cores that it needs. -/
theorem exec_dispatcherRound_binds {s : State} {c : Cand} {n : Node} {i : Inst} {l : List Nat} (h : s.lastRound + 2400 ≤ s.now)
    (hc : candidates s = [c]) (hn : s.getNode c.x c.q c.seq = some n) (hi : s.getInst { ctx := c.x, q := c.q, seq := c.seq } = some i)
    (hfit : partCores s c.part + i.size ≤ (dcGet s (0x00290004 + 0x10 * c.part)).toNat)
    (hl : chooseCores s i.size (field i.launch 6 2 % 2 = 1) [] = some l) : ∃ d,
      exec .dispatcherRound s = .next (bindCores { s with lastRound := s.now, deficit := d } { ctx := c.x, q := c.q, seq := c.seq } l) := by
  obtain ⟨d, hex⟩ := exec_dispatcherRound_due h
  have hb := chooseNode_binds (s := { s with lastRound := s.now, deficit := d }) hn hi hfit hl
  refine ⟨d, hex.trans (congrArg Host.Outcome.next ?_)⟩
  have hlist : ([c].filter (fun c => decide (c.readyAt + 1200000 ≤ s.now)) ++ [c].filter fun c => !decide (c.readyAt + 1200000 ≤ s.now)) = [c] := by
    by_cases hold : c.readyAt + 1200000 ≤ s.now <;> simp [hold]
  have hsort : sortBy (candBefore { s with lastRound := s.now, deficit := d }) [c] = [c] := rfl
  have hparts : (([c] : List Cand).map (·.part)).eraseDups = [c.part] := rfl
  rw [hc]
  dsimp only
  rw [hsort, hlist, hparts, List.foldl_cons, List.foldl_nil, hb]

/-! ## Starts (R287, R290) -/

theorem startStream_aligned {entry : Nat} (h : entry ≠ 0xFFFFFFFF) (now : Nat) (cache : Sparse W64) :
    (startStream entry now cache).st = .aligned ∧ (startStream entry now cache).pc = entry := by
  unfold startStream
  rw [if_neg h]
  exact ⟨rfl, rfl⟩

/-- A core at the start of a node, before its initialisers (R290). -/
def atStart (c : Core) (i : Inst) (cache : Sparse W64) (now : Nat) : Core :=
  { c.blank with inst := c.inst, gidx := c.gidx, started := true, tTime := now, aTime := now
                 s := startStream (field i.header 0x10 4) 0 cache, v := startStream (field i.header 0x14 4) 0 cache
                 a := startStream (field i.header 0x18 4) 0 cache, x := startStream (field i.header 0x1C 4) 0 cache }

theorem startedCore_eq (c : Core) (i : Inst) (cache : Sparse W64) (now : Nat) : startedCore c i cache now =
    (List.range (field i.launch 0x13 1)).foldl (fun n j => n.setReg (field i.launch (0x80 + 8 * j) 1) (initValue i c.gidx j)) (atStart c i cache now) := rfl

/-- The initialisers write registers only (R287). -/
theorem startedCore_only (c : Core) (i : Inst) (cache : Sparse W64) (now : Nat) :
    ∃ l, startedCore c i cache now = { atStart c i cache now with named := l } := by
  rw [startedCore_eq]
  refine List.foldlRecOn _ _ (motive := fun n : Core => ∃ l, n = { atStart c i cache now with named := l }) ⟨[], rfl⟩ ?_
  rintro n ⟨l, rfl⟩ j -
  exact ⟨_, rfl⟩

/-- Each stream starts at its entry, or is STOPPED where it has none (R89, R290). -/
theorem startedCore_str (c : Core) (i : Inst) (cache : Sparse W64) (now : Nat) :
    ∀ e ∈ [(StreamId.S, 0), (.V, 1), (.A, 2), (.X, 3)], (startedCore c i cache now).str e.1 = startStream (field i.header (0x10 + 4 * e.2) 4) 0 cache := by
  obtain ⟨l, h⟩ := startedCore_only c i cache now
  rw [h]
  simp only [List.forall_mem_cons, List.not_mem_nil, false_imp_iff, implies_true, and_true]
  exact ⟨rfl, rfl, rfl, rfl⟩

/-- Without initialisers no register is valid (R287). -/
theorem startedCore_reg_none (c : Core) {i : Inst} (cache : Sparse W64) (now : Nat) (h : field i.launch 0x13 1 = 0) (r : Nat) :
    (startedCore c i cache now).reg r = Reg.reset := by
  rw [startedCore_eq, h]
  rfl

/-- One initialiser gives its register its value (R287). -/
theorem startedCore_reg_one (c : Core) {i : Inst} (cache : Sparse W64) (now : Nat) (h : field i.launch 0x13 1 = 1) (r : Nat) :
    (startedCore c i cache now).reg r =
      if r = field i.launch 0x80 1 then { val := initValue i c.gidx 0, valid := true } else Reg.reset := by
  rw [startedCore_eq, h]
  exact Core.reg_setReg ..

/-- The first core of an instance counts it in its context (R290). -/
def countStart (s : State) (key : InstKey) (i : Inst) : State :=
  if i.startedCores = [] then
    (s.modX key.ctx fun c => { c with instCount := c.instCount + 1 }).modInst key fun i => { i with number := (s.getX key.ctx).instCount + 1 }
  else s

theorem countStart_spec {s : State} {key : InstKey} {i : Inst} (hi : s.getInst key = some i) :
    (countStart s key i).cores = s.cores ∧ (countStart s key i).mem = s.mem ∧ ∃ n, (countStart s key i).getInst key = some { i with number := n } := by
  unfold countStart
  split_ifs
  · refine ⟨rfl, rfl, _, getInst_modInst ?_ _⟩
    unfold State.getInst
    rw [State.getX_modX]
    exact hi
  · exact ⟨rfl, rfl, i.number, hi⟩

/-- NODE_START on a core that the instance holds and has not started yet (R290). -/
theorem exec_nodeStart {s : State} {key : InstKey} {i : Inst} {g k : Nat} (hi : s.getInst key = some i) (hr : i.st = .resident)
    (hk : i.cores[g]? = some k) (hn : k ∉ i.startedCores) (hs : serves s key.ctx = true) (hd : (s.getX key.ctx).departs = false) : ∃ cache,
      exec (.nodeStart key.ctx key.q key.seq g) s = .next (((countStart s key i).putC k (startedCore ((countStart s key i).getC k) i cache s.now)).modInst key fun i =>
        { i with startedCores := i.startedCores ++ [k], st := if i.startedCores.length + 1 = i.cores.length then .running else .resident }) := by
  have hgo : (decide (i.st ≠ .resident) || i.startedCores.contains k || !serves s key.ctx || ((s.getX key.ctx).departs && decide (i.startedCores = []))) = false := by
    simp [hr, hn, hs, hd]
  have hnow : (countStart s key i).now = s.now := by
    unfold countStart
    split_ifs <;> rfl
  refine ⟨cacheFill (countStart s key i) k i, congrArg Host.Outcome.next ?_⟩
  dsimp only
  rw [hi]
  dsimp only
  rw [hk]
  dsimp only
  rw [hgo, if_neg Bool.false_ne_true, ← hnow]
  rfl

/-! ## The end of a node (R89, R301) -/

/-- One core of an instance is free of it: its acquires are withdrawn, its claim ends, its faults are dropped (R230, R301). -/
def freeCore (s : State) (k : Nat) : State :=
  let s := releaseClaim (withdrawAcq s k) k
  dropFaults (s.putC k (s.getC k).blank) fun f => f.core = k && f.op.isNone

theorem releaseClaim_keeps (s : State) (k : Nat) : (releaseClaim s k).cores = s.cores ∧ (releaseClaim s k).ctxs = s.ctxs := by
  unfold releaseClaim
  split_ifs <;> exact ⟨rfl, rfl⟩

theorem freeCore_ctxs (s : State) (k : Nat) : (freeCore s k).ctxs = s.ctxs := by
  obtain ⟨o, q, h⟩ := withdrawAcq_only s k
  refine (releaseClaim_keeps (withdrawAcq s k) k).2.trans ?_
  rw [h]

theorem freeCore_getC (s : State) (k j : Nat) : (freeCore s k).getC j = if j = k then (s.getC k).blank else s.getC j := by
  obtain ⟨o, q, h⟩ := withdrawAcq_only s k
  have hc (i : Nat) : (releaseClaim (withdrawAcq s k) k).getC i = s.getC i :=
    congrArg (fun l => sget Core.reset l i) ((releaseClaim_keeps (withdrawAcq s k) k).1.trans (by rw [h]))
  rw [← hc k, ← hc j]
  exact sget_sput ..

theorem freeCores_ctxs (s : State) (l : List Nat) : (freeCores s l).ctxs = s.ctxs :=
  List.foldlRecOn l _ (motive := fun t : State => t.ctxs = s.ctxs) rfl fun t ht k _ => (freeCore_ctxs t k).trans ht

/-- The cores that are freed hold no instance, and a free core holds none again. -/
theorem freeCores_inst {l : List Nat} {k : Nat} {s : State} (h : k ∈ l ∨ (s.getC k).inst = none) : ((freeCores s l).getC k).inst = none := by
  induction l generalizing s with
  | nil => exact h.resolve_left List.not_mem_nil
  | cons a l ih =>
    refine ih (s := freeCore s a) ?_
    rw [freeCore_getC]
    by_cases ha : k = a
    · exact .inr (by rw [if_pos ha]; rfl)
    · rw [if_neg ha]
      exact h.imp_left fun hk => (List.mem_cons.mp hk).resolve_left ha

theorem dropInst_spec {s : State} {key : InstKey} {i : Inst} (hi : s.getInst key = some i) :
    (dropInst s key).getInst key = none ∧ (∀ k ∈ i.cores, ((dropInst s key).getC k).inst = none) ∧
      ∀ q seq, (dropInst s key).getNode key.ctx q seq = s.getNode key.ctx q seq := by
  have hx : (freeCores s i.cores).getX key.ctx = s.getX key.ctx := congrArg (sget Ctx.reset · key.ctx) (freeCores_ctxs ..)
  unfold dropInst
  rw [hi]
  dsimp only
  refine ⟨?_, fun k hk => freeCores_inst (.inl hk), fun q seq => ?_⟩
  · unfold State.getInst Ctx.inst?
    rw [State.getX_modX, Option.map_eq_none_iff, List.find?_eq_none]
    intro e he
    simpa using (List.mem_filter.mp he).2
  · unfold State.getNode State.getQ
    rw [State.getX_modX, hx]

/-- The cores of an instance have ended: every stream is STOPPED and none is away (R89). -/
theorem exec_nodeEnd_stopped {s : State} {key : InstKey} {i : Inst} (hi : s.getInst key = some i) (hr : i.st = .running)
    (hh : (s.getX key.ctx).halt = none) (hne : i.cores ≠ []) (hstop : ∀ k ∈ i.cores, (s.getC k).allStopped = true ∧ (s.getC k).away = false) :
    exec (.nodeEnd key.ctx key.q key.seq) s = .next (
      if (nodeOps s key).any (fun e => !e.2.st.finished) || upperOpen s key || i.cores.any (fun k => (s.getC k).flight.any fun f => f.stream = .A) then
        s.modInst key fun i => { i with st := .draining }
      else endNode (dropInst (settleNodeOps s key) key) key.ctx key.q key.seq 0) := by
  have hruns : ((decide (i.st ≠ .running) && decide (i.st ≠ .draining)) || (s.getX key.ctx).halt.isSome) = false := by simp [hr, hh]
  have hall : (i.cores.all fun k => (s.getC k).allStopped && !(s.getC k).away) = true :=
    List.all_eq_true.mpr fun k hk => by simp [hstop k hk]
  have hquiet : (decide (i.cores = []) || !(i.cores.all fun k => (s.getC k).allStopped && !(s.getC k).away)) = false := by simp [hne, hall]
  refine congrArg Host.Outcome.next ?_
  dsimp only
  rw [hi]
  dsimp only
  rw [hruns, if_neg Bool.false_ne_true, hquiet, if_neg Bool.false_ne_true]

/-! ## The dissolution of a table (R305) -/

/-- The tables of every context are those of `s`. -/
structure KeepsPgs (s t : State) : Prop where
  pgs : ∀ x, (t.getX x).pgs = (s.getX x).pgs

theorem KeepsPgs.of_ctxs {s t : State} (h : t.ctxs = s.ctxs) : KeepsPgs s t := ⟨fun x => congrArg (fun l => (sget Ctx.reset l x).pgs) h⟩

theorem KeepsPgs.refl (s : State) : KeepsPgs s s := .of_ctxs rfl

theorem KeepsPgs.trans {s t u : State} (h : KeepsPgs s t) (k : KeepsPgs t u) : KeepsPgs s u := ⟨fun x => (k.pgs x).trans (h.pgs x)⟩

theorem KeepsPgs.foldl {α : Type} (f : State → α → State) (l : List α) (s : State) (hf : ∀ t a, KeepsPgs t (f t a)) : KeepsPgs s (l.foldl f s) :=
  List.foldlRecOn l f (.refl s) fun t ht a _ => ht.trans (hf t a)

theorem keepsPgs_modX (s : State) (x : Nat) (f : Ctx → Ctx) (hf : ∀ c, (f c).pgs = c.pgs := by intro _; rfl) : KeepsPgs s (s.modX x f) := by
  refine ⟨fun y => ?_⟩
  by_cases h : y = x
  · subst h
    rw [State.getX_modX, hf]
  · rw [State.getX_modX_other _ _ _ _ h]

theorem KeepsPgs.pg? {s t : State} (h : KeepsPgs s t) (x : Nat) (id : W32) : (t.getX x).pg? id = (s.getX x).pg? id := by
  unfold Ctx.pg?
  rw [h.pgs]

theorem keepsPgs_breakBar (s : State) (x b : Nat) (code : Byte) : KeepsPgs s (s.breakBar x b code) := by
  obtain h | ⟨bs, m, n, r, q, o, a, h⟩ := State.breakBar_only s x b code
  · rw [h]
    exact .refl s
  · rw [h]
    exact (keepsPgs_modX s x fun c => { c with barriers := bs }).trans (.of_ctxs rfl)

theorem keepsPgs_breakTable (s : State) (x : Nat) (id : W32) : KeepsPgs s (breakTable s x id) :=
  .foldl _ _ s fun t e => (keepsPgs_breakBar t x e.1 cREFUSED).trans (.of_ctxs rfl)

theorem keepsPgs_endNode (s : State) (x q seq : Nat) (code : Byte) (foff : W32) : KeepsPgs s (endNode s x q seq code foff) := by
  unfold endNode State.modNode
  split
  · unfold State.putNode State.modQ
    exact keepsPgs_modX ..
  · exact .refl s

theorem keepsPgs_failWaiting (s : State) (x : Nat) (id : W32) : KeepsPgs s (failWaiting s x id) :=
  .foldl _ _ s fun t e => keepsPgs_endNode t x e.1 e.2 cREFUSED 0

theorem Ctx.pg?_map {c : Ctx} {id : W32} {u : PgTable} (h : c.pg? id = some u) (f : PgTable → PgTable) :
    ({ c with pgs := c.pgs.map fun e => if e.1 = id then (e.1, f e.2) else e } : Ctx).pg? id = some (f u) := by
  have hp (e : W32 × PgTable) : decide ((if e.1 = id then (e.1, f e.2) else e).1 = id) = decide (e.1 = id) := by split_ifs <;> rfl
  unfold Ctx.pg? at h ⊢
  obtain ⟨e, he, rfl⟩ := Option.map_eq_some_iff.mp h
  have hid : e.1 = id := of_decide_eq_true (List.find?_some (p := fun e : W32 × PgTable => decide (e.1 = id)) he)
  dsimp only
  rw [List.find?_map, show ((fun e : W32 × PgTable => decide (e.1 = id)) ∘ fun e => if e.1 = id then (e.1, f e.2) else e) = fun e => decide (e.1 = id) from funext hp, he]
  simp [hid]

/-- A registered table that dissolves stays registered, DISSOLVED (R305). -/
theorem dissolvePg_pg {s : State} {x : Nat} {id : W32} {u : PgTable} (h : (s.getX x).pg? id = some u) :
    ((dissolvePg s x id).getX x).pg? id = some { u with st := .dissolved } := by
  have hd : ((s.modPg x id fun t => { t with st := .dissolved }).getX x).pg? id = some { u with st := .dissolved } := by
    unfold State.modPg
    rw [State.getX_modX]
    exact Ctx.pg?_map h fun t => { t with st := .dissolved }
  exact (((keepsPgs_breakTable _ x id).trans (keepsPgs_failWaiting _ x id)).pg? x id).trans hd

/-! ## O45 -/

/-- Settles O45: a round binds what `chooseCores` gives; residency, start, end and dissolution by their equations. -/
theorem instanceEvents : Obligations.InstanceEvents := by
  unfold Obligations.InstanceEvents
  intro s
  refine ⟨fun h => ?early, fun h hc => ?empty, fun c n i l h hc hn hd hi hfit hl => ?binds, fun key i hi => ⟨fun hst hne hs hdl hpages => ?resident,
    fun g k hr hk hnew hs hdep => ?start, fun hr hh hne hstop => ⟨fun hops => ?drains, fun n hops hup hfl hn hnr hnf => ?ends⟩⟩,
    fun x id u hu => ⟨fun hf ht => ?dissolves, fun hno => ?stays⟩⟩
  case early =>
    have := one_le_atMost 2400 s.lastRound 0
    exact congrArg Host.Outcome.next (if_pos (by omega))
  case empty =>
    obtain ⟨d, hex⟩ := exec_dispatcherRound_due h
    rw [hc] at hex
    exact ⟨_, hex, rfl, rfl, rfl, rfl⟩
  case binds =>
    obtain ⟨d, hex⟩ := exec_dispatcherRound_binds h hc hn hi hfit hl
    obtain ⟨hnodup, hfree⟩ := chooseCores_spec hl
    obtain ⟨hcores, hinst, hnode⟩ := bindCores_spec (s := { s with lastRound := s.now, deficit := d }) (l := l) hi hn hd
    have hfst : l.zipIdx.map Prod.fst = l := List.zipIdx_map_fst ..
    have hc (k : Nat) := congrArg (fun cs => sget Core.reset cs k) hcores
    have hbound {a : Nat} (ha : a < l.length) := bindAll_bound (key := { ctx := c.x, q := c.q, seq := c.seq }) (hfst.symm ▸ hnodup)
      (List.mk_mem_zipIdx_iff_getElem?.mpr (List.getElem?_eq_getElem ha)) { s with lastRound := s.now, deficit := d }
    refine ⟨_, _, _, hex, hinst, rfl, rfl, hnode, rfl, fun k hk => ⟨hfree k hk, ?_⟩, fun a ha => ?_, fun k hk => ?_⟩
    · obtain ⟨a, ha, rfl⟩ := List.mem_iff_getElem.mp hk
      exact (congrArg Core.inst (hc _)).trans (hbound ha).1
    · exact (congrArg Core.gidx (hc _)).trans (hbound ha).2
    · exact (hc k).trans (bindAll_other (hfst.symm ▸ hk) _)
  case resident =>
    have hgo : (decide (i.st ≠ .admitted) || decide (i.cores = []) || !serves s key.ctx) = false := by simp [hst, hne, hs]
    have hi' : (dropOpEntry s key.ctx (nodeKey key.q key.seq 2)).getInst key = some i := hi
    refine ⟨(dropOpEntry s key.ctx (nodeKey key.q key.seq 2)).modInst key fun i => { i with st := .resident }, congrArg Host.Outcome.next ?_,
      getInst_modInst hi' _, rfl, rfl⟩
    dsimp only
    rw [hi]
    dsimp only
    rw [hgo, if_neg Bool.false_ne_true, hpages, hdl]
    rfl
  case start =>
    obtain ⟨hcores, hmem, m, hcount⟩ := countStart_spec hi
    obtain ⟨cache, hex⟩ := exec_nodeStart hi hr hk hnew hs hdep
    have hc (j : Nat) : (countStart s key i).getC j = s.getC j := congrArg (sget Core.reset · j) hcores
    obtain ⟨l, hstarted⟩ := startedCore_only (s.getC k) i cache s.now
    obtain ⟨v, hv⟩ : ∃ v, v = (countStart s key i).putC k (startedCore (s.getC k) i cache s.now) := ⟨_, rfl⟩
    have hvk : v.getC k = startedCore (s.getC k) i cache s.now := by rw [hv, State.getC_putC]
    have hvi : v.getInst key = some { i with number := m } := by
      rw [hv]
      exact hcount
    rw [hc, ← hv] at hex
    refine ⟨_, _, hex, getInst_modInst hvi _, rfl, ?_, ?_, fun j hj => ?_, ?_⟩
    · rw [← hmem, hv]
      rfl
    · dsimp only
      split_ifs with hlast
      · exact iff_of_true rfl hlast
      · exact iff_of_false (by decide) hlast
    · refine Eq.trans ?_ (hc j)
      rw [← State.getC_putC_other (countStart s key i) k j (startedCore (s.getC k) i cache s.now) hj, ← hv]
      rfl
    · have htk (f : Inst → Inst) : (v.modInst key f).getC k = startedCore (s.getC k) i cache s.now := hvk
      rw [htk]
      refine ⟨by rw [hstarted]; rfl, by rw [hstarted]; rfl, by rw [hstarted]; rfl, by rw [hstarted]; rfl, fun e he => ⟨fun hstop => ?_, fun hrun => ?_⟩,
        startedCore_reg_none _ _ _, startedCore_reg_one _ _ _⟩
      · rw [startedCore_str _ _ _ _ e he, hstop]
        rfl
      · rw [startedCore_str _ _ _ _ e he]
        exact startStream_aligned hrun ..
  case drains =>
    have hany : (nodeOps s key).any (fun e => !e.2.st.finished) = true := by
      obtain ⟨e, he, hf⟩ := hops
      exact List.any_eq_true.mpr ⟨e, he, by simp [hf]⟩
    have hex := exec_nodeEnd_stopped hi hr hh hne hstop
    rw [hany, Bool.true_or, Bool.true_or, if_pos rfl] at hex
    exact ⟨_, hex, getInst_modInst hi _, rfl, rfl⟩
  case ends =>
    have hflight : i.cores.any (fun k => (s.getC k).flight.any fun f => f.stream = .A) = false :=
      List.any_eq_false.mpr fun k hk => by simp [hfl k hk]
    have hsettle : settleNodeOps s key = s := by
      unfold settleNodeOps
      rw [hops]
      rfl
    have hex := exec_nodeEnd_stopped hi hr hh hne hstop
    rw [hops, hup, hflight, hsettle] at hex
    obtain ⟨hdi, hdc, hdn⟩ := dropInst_spec hi
    obtain ⟨hec, -, hei⟩ := modNode_keeps (dropInst s key) key fun n => if n.st.finished || n.fault.isSome then n else { n with fault := some 0, foff := 0 }
    refine ⟨_, _, hex, hei.trans hdi, fun k hk => ?_, getNode_modNode ((hdn ..).trans hn) _, ?_⟩
    · exact (congrArg (fun cs => (sget Core.reset cs k).inst) hec).trans (hdc k hk)
    · rw [hnr, hnf]
      rfl
  case dissolves =>
    refine ⟨dissolvePg s x id, _, congrArg Host.Outcome.next ?_, dissolvePg_pg hu, rfl⟩
    rw [hu]
    dsimp only
    rw [hf, decide_eq_true ht]
    rfl
  case stays =>
    refine congrArg Host.Outcome.next ?_
    have hwait : (decide (u.st = .forming) && decide (u.since + 12000000 ≤ s.now)) = false := by
      rcases hno with h | h
      · rw [decide_eq_false h, Bool.false_and]
      · rw [decide_eq_false (Nat.not_le.mpr h), Bool.and_false]
    rw [hu]
    dsimp only
    rw [hwait]
    rfl

end Sys2Proof.Machine
end

section
/-! The arithmetic of V (R37, R129, R134, R135): what a result of 32-bit lanes is, a word that applies one function to lanes i of up to three
sources, and from that the statement O18. -/

namespace Sys2Proof.Machine

/-! ## Results of V (R32, R37) -/

/-- Listing a value twice at one key is listing the later one. -/
theorem sput_sput {α : Type} (m : Sparse α) (k : Nat) (v w : α) : sput (sput m k v) k w = sput m k w := by
  induction m with
  | nil => simp [sput]
  | cons e l ih =>
    obtain ⟨a, b⟩ := e
    by_cases hk : k = a
    · simp [sput, hk]
    · by_cases hlt : k < a
      · simp [sput, hk, hlt]
      · simp [sput, hk, hlt, ih]

/-- A word that has started finds its core listed, so writing it back changes nothing. -/
theorem startWord_setCore_core (st : StreamId) (s : State) : (startWord st s).setCore (startWord st s).core = startWord st s := by
  rw [startWord_core]
  exact congrArg (fun cs => { s with cores := cs }) (sput_sput ..)

/-- A mode other than SR draws nothing (R74). -/
theorem laneDraws_undrawn {rm : BitVec 2} (h : rm ≠ 3) (mask : W64) (gens : List W32) : laneDraws rm mask gens = ([], gens) := if_neg h

theorem lane32_lanes32 (f : Nat → W32) {i : Nat} (hi : i < 64) : lane32 (lanes32 f) i = f i := by
  simp [lane32, lanes32, hi]

theorem lane32_lanesOf (f : Nat → W64) {i : Nat} (hi : i < 64) : lane32 (lanesOf f) i = (f i).setWidth 32 := by
  rw [lane32, getD_lanesOf f hi]

theorem setWidth_word_lane_word (v : W32) : (v.setWidth 64 : W64).setWidth 32 = v := by
  rw [BitVec.setWidth_setWidth_of_le v (by decide), BitVec.setWidth_eq]

/-- A result of 32-bit lanes keeps only the low 32 bits of its guard-true lanes. -/
theorem vresult_congr {l l' : List W64} {mask : W64} (hl : ∀ i, i < 64 → mask.getLsbD i = true → lane32 l i = lane32 l' i) (s : State)
    (d : BitVec 7) (lat : Nat) (pred : Bool) : vresult s d 1 lat mask l pred = vresult s d 1 lat mask l' pred := by
  have hcut : ((List.range 64).map fun i => if mask.getLsbD i then l.getD i 0 &&& 0xFFFFFFFF else 0) =
      (List.range 64).map fun i => if mask.getLsbD i then l'.getD i 0 &&& 0xFFFFFFFF else 0 := by
    refine List.map_congr_left fun i hi => ite_congr rfl (fun hm => ?_) fun _ => rfl
    rw [and_low_word, and_low_word]
    exact congrArg (BitVec.setWidth 64) (hl i (List.mem_range.mp hi) hm)
  simp only [vresult, if_true, hcut]

section
variable {i : Instr} {h : Hdr} {z : Option Nat} {s : State} {body : State → Act} {d : BitVec 7} {w lat : Nat} {mask : W64} {l : List W64}
  {pred : Bool}

/-- A word whose effect is one result of V gives it. -/
theorem givesLanes_of_body (hx : exec i s = runWord i .V h 0 z s body)
    (hb : body (startWord .V s) = vresult (startWord .V s) d w lat mask l pred) (hs : Starts i .V h 0 s) :
    GivesLanes i h d w lat mask l pred s := hx.trans (runWord_done hs hb)

/-- A word whose effect is one result of 32-bit lanes gives the value of each guard-true lane. -/
theorem givesLanes32_of_body {f : Nat → W32} (hx : exec i s = runWord i .V h 0 z s body)
    (hb : body (startWord .V s) = vresult (startWord .V s) d 1 lat mask l pred)
    (hl : ∀ k, k < 64 → mask.getLsbD k = true → lane32 l k = f k) (hs : Starts i .V h 0 s) :
    GivesLanes i h d 1 lat mask (lanes32 f) pred s :=
  givesLanes_of_body hx (hb.trans (vresult_congr (fun k hk hm => by rw [hl k hk hm, lane32_lanes32 f hk]) ..)) hs

end

/-! ## Words of up to three sources and one result per lane (R134-R136) -/

theorem vsrc_zero (c : Core) : c.vsrc 0b1011000 1 = some (List.replicate 64 0) := rfl

section
variable {i : Instr} {h : Hdr} {o : FR} {z : Option Nat} {s : State} {a b c : List W64} {n lat : Nat} {rm : BitVec 2}
  {f : Nat → W32 → W32 → W32 → W32} {v : Nat → W32}

/-- Without a draw lane i of the result comes from lanes i of the sources. -/
theorem vmap_undrawn (hrm : rm ≠ 3) (ha : s.core.vsrc o.a 1 = some a) (hb : s.core.vsrc (if 2 ≤ n then o.b else 0b1011000) 1 = some b)
    (hc : s.core.vsrc (if 3 ≤ n then o.c else 0b1011000) 1 = some c) : vmap o n lat rm f (startWord .V s) =
      vresult (startWord .V s) o.d 1 lat (guardLanes s.core o.g)
        (lanesOf fun k => (f 0 (lane32 a k) (lane32 b k) (lane32 c k)).setWidth 64) := by
  unfold vmap
  rw [withV_ok ha, withV_ok hb, withV_ok hc, startWord_vguard]
  dsimp only
  rw [laneDraws_undrawn hrm]
  dsimp only
  rw [startWord_setCore_core]
  rfl

theorem givesLanes_vmap (hx : exec i s = runWord i .V h 0 z s (vmap o n lat rm f)) (hrm : rm ≠ 3) (ha : s.core.vsrc o.a 1 = some a)
    (hb : s.core.vsrc (if 2 ≤ n then o.b else 0b1011000) 1 = some b) (hc : s.core.vsrc (if 3 ≤ n then o.c else 0b1011000) 1 = some c)
    (hv : ∀ k, f 0 (lane32 a k) (lane32 b k) (lane32 c k) = v k) (hs : Starts i .V h 0 s) :
    GivesLanes i h o.d 1 lat (guardLanes s.core o.g) (lanes32 v) false s :=
  givesLanes32_of_body hx (vmap_undrawn hrm ha hb hc) (fun k hk _ => by rw [lane32_lanesOf _ hk, setWidth_word_lane_word, hv]) hs

/-- A word of one source. -/
theorem givesLanes_vmap_one (hx : exec i s = runWord i .V h 0 z s (vmap o 1 lat rm f)) (hrm : rm ≠ 3) (ha : s.core.vsrc o.a 1 = some a)
    (hv : ∀ k y z, f 0 (lane32 a k) y z = v k) : Starts i .V h 0 s → GivesLanes i h o.d 1 lat (guardLanes s.core o.g) (lanes32 v) false s :=
  givesLanes_vmap hx hrm ha (vsrc_zero _) (vsrc_zero _) fun _ => hv ..

/-- A word of two sources. -/
theorem givesLanes_vmap_two (hx : exec i s = runWord i .V h 0 z s (vmap o 2 lat rm f)) (hrm : rm ≠ 3) (ha : s.core.vsrc o.a 1 = some a)
    (hb : s.core.vsrc o.b 1 = some b) (hv : ∀ k z, f 0 (lane32 a k) (lane32 b k) z = v k) :
    Starts i .V h 0 s → GivesLanes i h o.d 1 lat (guardLanes s.core o.g) (lanes32 v) false s :=
  givesLanes_vmap hx hrm ha hb (vsrc_zero _) fun _ => hv ..

/-- A word of three sources. -/
theorem givesLanes_vmap_three (hx : exec i s = runWord i .V h 0 z s (vmap o 3 lat rm f)) (hrm : rm ≠ 3) (ha : s.core.vsrc o.a 1 = some a)
    (hb : s.core.vsrc o.b 1 = some b) (hc : s.core.vsrc o.c 1 = some c) (hv : ∀ k, f 0 (lane32 a k) (lane32 b k) (lane32 c k) = v k) :
    Starts i .V h 0 s → GivesLanes i h o.d 1 lat (guardLanes s.core o.g) (lanes32 v) false s :=
  givesLanes_vmap hx hrm ha hb hc hv

end

/-! ## Arithmetic (R134, R135) -/

section
variable {o : FR} (f : W32 → W32 → W32 → W32) (g : Bool → W32 → W32 → W32 → W32)

theorem byType_f32 (ht : o.t = 8) : byType o f g = f := if_pos ht

theorem byType_int (ht : o.t = 2 ∨ o.t = 6) : byType o f g = g (signedT o.t) := by
  unfold byType
  rcases ht with h | h <;> rw [h] <;> rfl

theorem rmV_f32 (ht : o.t = 8) : rmV o = o.rm := if_pos ht

theorem rmV_int (ht : o.t = 2 ∨ o.t = 6) : rmV o = 0 := by
  unfold rmV
  rcases ht with h | h <;> rw [h] <;> rfl

end

/-- The magnitude of a signed number; the smallest one is its own. -/
theorem abs_eq_ofInt_toInt (x : W32) : (if x.msb then -x else x) = BitVec.ofInt 32 |x.toInt| := by
  by_cases h : x.msb
  · rw [if_pos h, abs_of_neg (BitVec.toInt_neg_of_msb_true h), BitVec.ofInt_neg, BitVec.ofInt_toInt]
  · rw [if_neg h, abs_of_nonneg (BitVec.toInt_nonneg_of_msb_false (by simpa using h)), BitVec.ofInt_toInt]

theorem neg_eq_ofInt_toInt (x : W32) : -x = BitVec.ofInt 32 (-x.toInt) := by rw [BitVec.ofInt_neg, BitVec.ofInt_toInt]

theorem mul_add_eq_ofInt_tnum (t : BitVec 4) (x y z : W32) : x * y + z = BitVec.ofInt 32 (tnum t x * tnum t y + tnum t z) := by
  rw [BitVec.ofInt_add, BitVec.ofInt_mul, ofInt_tnum, ofInt_tnum, ofInt_tnum]

/-- Settles O18: each word maps one function of its type over the lanes, and draws nothing. -/
theorem laneArithmetic : Obligations.LaneArithmetic := by
  intro h o s a b c ha hb x y z gives of
  have one {i : Instr} {z : Option Nat} {lat : Nat} {rm : BitVec 2} {f : Nat → W32 → W32 → W32 → W32} {v : Nat → W32}
      (hx : exec i s = runWord i .V h 0 z s (vmap o 1 lat rm f)) (hrm : rm ≠ 3) (hv : ∀ k u w, f 0 (x k) u w = v k) : gives i lat v :=
    givesLanes_vmap_one hx hrm ha hv
  have two {i : Instr} {z : Option Nat} {lat : Nat} {rm : BitVec 2} {f : Nat → W32 → W32 → W32 → W32} {v : Nat → W32}
      (hx : exec i s = runWord i .V h 0 z s (vmap o 2 lat rm f)) (hrm : rm ≠ 3) (hv : ∀ k w, f 0 (x k) (y k) w = v k) : gives i lat v :=
    givesLanes_vmap_two hx hrm ha hb hv
  refine ⟨fun ht => ?int, fun ht => ?signed, fun ht hne => ?f32, one rfl (by decide) fun _ _ _ => rfl, one rfl (by decide) fun _ _ _ => rfl,
    one rfl (by decide) fun _ _ _ => rfl, one rfl (by decide) fun _ _ _ => rfl⟩
  case int =>
    have hrm : rmV o ≠ 3 := by rw [rmV_int ht]; decide
    refine ⟨two rfl hrm fun k w => ?_, two rfl hrm fun k w => ?_, two rfl hrm fun k w => ?_,
      fun hc => givesLanes_vmap_three rfl hrm ha hb hc fun k => ?_, two rfl (by decide) fun k w => ?_, two rfl (by decide) fun k w => ?_⟩
    all_goals rw [byType_int _ _ ht]
    · exact aluMul_eq ..
    · exact mul_add_eq_ofInt_tnum ..
    · exact aluMin_eq ..
    · exact aluMax_eq ..
  case signed =>
    refine ⟨one rfl (by decide) fun k u w => ?_, one rfl (by decide) fun k u w => ?_⟩
    all_goals rw [byType_int _ _ (.inl ht)]
    · exact abs_eq_ofInt_toInt _
    · exact neg_eq_ofInt_toInt _
  case f32 =>
    have hrm : rmV o ≠ 3 := by rwa [rmV_f32 ht]
    refine ⟨two rfl hrm fun k w => ?_, two rfl hrm fun k w => ?_, two rfl hrm fun k w => ?_,
      fun hc => givesLanes_vmap_three rfl hrm ha hb hc fun k => ?_, two rfl hne fun _ _ => rfl, one rfl hne fun _ _ _ => rfl,
      two rfl (by decide) fun k w => ?_, two rfl (by decide) fun k w => ?_, one rfl (by decide) fun k u w => ?_,
      one rfl (by decide) fun k u w => ?_⟩
    all_goals rw [byType_f32 _ _ ht]
    all_goals rfl

end Sys2Proof.Machine
end

section
/-! Bits, comparisons, wide words, scans and reductions of V (R82, R112, R136-R138): truth values in lanes, the running results of a scan, the
pairwise tree of a sum, and from that the statement O19. -/

namespace Sys2Proof.Machine

/-! ## Bits, comparisons and wide words (R136, R137) -/

/-- A truth value in each lane. -/
theorem lane32_truths (p : Nat → Bool) {k : Nat} (hk : k < 64) : lane32 (lanesOf fun i => if p i then 1 else 0) k = if p k then 1 else 0 := by
  rw [lane32_lanesOf _ hk]
  cases p k <;> rfl

/-- T of a comparison or a widening word is i32 or n32. -/
theorem intVal_int {t : BitVec 4} (ht : t = 2 ∨ t = 6) (x : W32) : intVal (decide (t = 2)) x = tnum t x := by
  rcases ht with rfl | rfl <;> rfl

/-- A lane extended to 64 bits is its number. -/
theorem extLane_eq {o : FR} (ht : o.t = 2 ∨ o.t = 6) (x : W32) : extLane o x = BitVec.ofInt 64 (tnum o.t x) := by
  rcases ht with h | h
  · rw [extLane, if_pos h, h]
    rfl
  · rw [extLane, h, if_neg (by decide), tnum_of_unsigned (by decide), BitVec.ofInt_natCast, BitVec.ofNat_toNat]

/-- A word whose accepted codes demand an integer T has one. -/
theorem int_of_accepted {service : Bool} {i : Instr} {t : BitVec 4} (ha : accepted service i = true)
    (hd : Demand.code (tIn t [2, 6]) ∈ demands i) : t = 2 ∨ t = 6 := by
  have ht : tIn t [2, 6] = true := List.all_eq_true.mp ha _ hd
  simpa [tIn, ← BitVec.toNat_inj] using ht

theorem laneBitsAndCompareRule : LaneBitsAndCompareRule := by
  intro h o s a b c mask x y ext gives holds
  refine ⟨fun ha hb => ?narrow, fun ha hb hm hs => ?wide⟩
  case narrow =>
    have two {i : Instr} {z : Option Nat} {f : Nat → W32 → W32 → W32 → W32} {v : Nat → W32}
        (hx : exec i s = runWord i .V h 0 z s (vmap o 2 1 0 f)) (hv : ∀ k w, f 0 (x k) (y k) w = v k) : gives i v :=
      givesLanes_vmap_two hx (by decide) ha hb hv
    refine ⟨two rfl fun _ _ => rfl, two rfl fun _ _ => rfl, two rfl fun _ _ => rfl, two rfl fun _ _ => aluShl_eq ..,
      two rfl fun _ _ => aluShr_eq .., two rfl fun _ _ => aluSar_eq .., fun hc => givesLanes_vmap_three rfl (by decide) ha hb hc fun _ => rfl,
      fun n hn hi ht => ?cmpInt, fun n _ hi ht => ?cmpF32, fun hs => ?wmul, fun hm hs => ?wadd⟩
    case cmpInt =>
      have ht8 : ¬o.t = 8 := by rcases ht with h | h <;> rw [h] <;> decide
      refine givesLanes32_of_body rfl ?_ fun k hk _ => lane32_truths (fun i => holds n (tnum o.t (x i)) (tnum o.t (y i))) hk
      rw [withV_ok ha, withV_ok hb, startWord_vguard]
      dsimp only
      simp only [if_neg ht8, immNat_of_immOf hi, intVal_int ht, cmpInt_eq hn]
      rfl
    case cmpF32 =>
      refine givesLanes32_of_body rfl ?_ fun k hk _ => lane32_truths (fun i => condHolds n ((f32v (x i)).cmp (f32v (y i)))) hk
      rw [withV_ok ha, withV_ok hb, startWord_vguard]
      dsimp only
      simp only [if_pos ht, immNat_of_immOf hi]
      rfl
    case wmul =>
      refine givesLanes_of_body rfl ?_ hs
      rw [withV_ok ha, withV_ok hb, startWord_vguard]
      simp only [extLane_eq (int_of_accepted hs.codes (List.mem_cons_self ..))]
      rfl
    case wadd =>
      refine givesLanes_of_body rfl ?_ hs
      simp only [hm, Bool.false_eq_true, if_false]
      rw [withV_ok ha, withV_ok hb, startWord_vguard]
      simp only [extLane_eq (int_of_accepted hs.codes (List.mem_cons_self ..))]
      rfl
  case wide =>
    refine givesLanes_of_body rfl ?_ hs
    simp only [hm, if_true]
    rw [withV_ok ha, withV_ok hb, startWord_vguard]
    simp only [extLane_eq (int_of_accepted hs.codes (List.mem_cons_self ..))]
    rfl

/-! ## Scans and reductions (R138, R82) -/

@[simp] theorem length_runs (f : W32 → W32 → W32) (x : W32) (l : List W32) : (runs f x l).length = l.length := by
  induction l generalizing x with
  | nil => rfl
  | cons y l ih => rw [runs, List.length_cons, List.length_cons, ih]

/-- Running result k takes the start and the first k + 1 values in order. -/
theorem getD_runs (f : W32 → W32 → W32) (x d : W32) {l : List W32} {k : Nat} (hk : k < l.length) :
    (runs f x l).getD k d = (l.take (k + 1)).foldl f x := by
  induction l generalizing x k with
  | nil => exact absurd hk (Nat.not_lt_zero k)
  | cons y l ih =>
    cases k with
    | zero => simp [runs]
    | succ k =>
      rw [runs, List.getD_cons_succ, ih (f x y) (Nat.lt_of_succ_lt_succ hk), List.take_succ_cons, List.foldl_cons]

/-- A lane of a vector of 32-bit values. -/
theorem lane32_map (l : List W32) (k : Nat) : lane32 (l.map fun x => x.setWidth 64) k = l.getD k 0 := by
  have hd : (l.map fun x => (x.setWidth 64 : W64)).getD k 0 = (l.getD k 0).setWidth 64 := List.getD_map (d := (0 : W32)) ..
  rw [lane32, hd, setWidth_word_lane_word]

/-- A level halves the values. -/
theorem length_treeLevel {α : Type} (op : α → α → α) : ∀ l : List α, (treeLevel op l).length = (l.length + 1) / 2
  | [] => by simp [treeLevel]
  | [_] => by simp [treeLevel]
  | a :: b :: l => by
    rw [treeLevel, List.length_cons, length_treeLevel op l]
    simp only [List.length_cons]
    omega

section
variable {α : Type} [AddMonoid α]

theorem sum_treeLevel : ∀ l : List α, (treeLevel (· + ·) l).sum = l.sum
  | [] => rfl
  | [_] => rfl
  | a :: b :: l => by rw [treeLevel, List.sum_cons, sum_treeLevel l, List.sum_cons, List.sum_cons, add_assoc]

/-- The levels of a sum over 2^n values leave their sum. -/
theorem treeRun_add (n : Nat) : ∀ {l : List α}, l.length = 2 ^ n → treeRun (· + ·) n l = [l.sum] := by
  induction n with
  | zero =>
    intro l hl
    obtain ⟨x, rfl⟩ := List.length_eq_one_iff.mp hl
    rw [treeRun, List.sum_singleton]
  | succ n ih =>
    intro l hl
    have hlen : (treeLevel (· + ·) l).length = 2 ^ n := by
      rw [length_treeLevel, hl, pow_succ]
      omega
    rw [treeRun, ih hlen, sum_treeLevel]

/-- The pairwise tree of a sum over 64 lanes is their sum. -/
theorem tree_add (unit : α) {l : List α} (hl : l.length = 64) : tree (· + ·) unit l = l.sum := by
  have hk : log2Up 64 = 6 := by decide
  have hpad : 2 ^ 6 - 64 = 0 := rfl
  unfold tree
  rw [hl, hk]
  dsimp only
  rw [hpad, List.replicate_zero, List.append_nil, treeRun_add 6 hl, List.headD_cons]

end

/-- A sum of 32-bit values is the sum of their numbers, cut to 32 bits. -/
theorem ofNat_sum_toNat (l : List W32) : BitVec.ofNat 32 (l.map BitVec.toNat).sum = l.sum := by
  induction l with
  | nil => rfl
  | cons x l ih => rw [List.map_cons, List.sum_cons, BitVec.ofNat_add, ih, BitVec.ofNat_toNat, BitVec.setWidth_eq, List.sum_cons]

section
variable {h : Hdr} {o : FR} {s : State} {a b : List W64} (ha : s.core.vsrc o.a 1 = some a) (hb : s.core.vsrc o.b 1 = some b)
include ha hb

/-- Lane k of `vscan` takes the lanes up to k, or with `.x` those below k, lane 0 then the carry-in alone (R138). -/
theorem givesLanes_vscan {v : Nat → W32}
    (hincl : o.m.getLsbD 0 = false → ∀ k, k < 64 → v k = ((scanLanes o (guardLanes s.core o.g) a).take (k + 1)).foldl (scanOp o) (lane32 b 63))
    (hfirst : o.m.getLsbD 0 = true → v 0 = if o.t = 8 then oneNaN (lane32 b 63) else lane32 b 63)
    (hexcl : o.m.getLsbD 0 = true → ∀ k, k + 1 < 64 →
      v (k + 1) = ((scanLanes o (guardLanes s.core o.g) a).take (k + 1)).foldl (scanOp o) (lane32 b 63))
    (hs : Starts (.vscan h o) .V h 0 s) : GivesLanes (.vscan h o) h o.d 1 8 (guardLanes s.core o.g) (lanes32 v) false s := by
  have hlen : (scanLanes o (guardLanes s.core o.g) a).length = 64 := by simp [scanLanes]
  refine givesLanes32_of_body rfl (l := List.map (fun x => x.setWidth 64) (if o.m.getLsbD 0 then
      (if o.t = 8 then oneNaN (lane32 b 63) else lane32 b 63) :: (runs (scanOp o) (lane32 b 63) (scanLanes o (guardLanes s.core o.g) a)).take 63
    else runs (scanOp o) (lane32 b 63) (scanLanes o (guardLanes s.core o.g) a))) ?_ (fun k hk _ => ?_) hs
  · rw [withV_ok ha, withV_ok hb, startWord_vguard]
    rfl
  · rw [lane32_map]
    by_cases hm : o.m.getLsbD 0 = true
    · rw [if_pos hm]
      cases k with
      | zero => exact (hfirst hm).symm
      | succ k =>
        rw [List.getD_cons_succ, hexcl hm k hk, ← getD_runs _ _ 0 (by omega)]
        simp [List.getD_eq_getElem?_getD, show k < 63 by omega]
    · rw [if_neg hm, getD_runs _ _ _ (hlen ▸ hk), hincl (Bool.eq_false_iff.mpr hm) k hk]

/-- Every lane of `vred`: the carry-in with the tree over the lanes. -/
theorem givesLanes_vred (hs : Starts (.vred h o) .V h 0 s) :
    GivesLanes (.vred h o) h o.d 1 8 (guardLanes s.core o.g)
      (lanes32 fun _ => scanOp o (lane32 b 63) (tree (scanOp o) (scanUnit o) (scanLanes o (guardLanes s.core o.g) a))) false s := by
  refine givesLanes32_of_body rfl (l := lanesOf fun _ =>
    (scanOp o (lane32 b 63) (tree (scanOp o) (scanUnit o) (scanLanes o (guardLanes s.core o.g) a))).setWidth 64) ?_ (fun k hk _ => ?_) hs
  · rw [withV_ok ha, withV_ok hb, startWord_vguard]
    rfl
  · rw [lane32_lanesOf _ hk, setWidth_word_lane_word]

end

theorem aluMin_intVal (sg : Bool) (x y : W32) : aluMin sg 32 x y = BitVec.ofInt 32 (min (intVal sg x) (intVal sg y)) := by
  cases sg
  · exact aluMin_eq 4 x y
  · exact aluMin_eq 0 x y

theorem aluMax_intVal (sg : Bool) (x y : W32) : aluMax sg 32 x y = BitVec.ofInt 32 (max (intVal sg x) (intVal sg y)) := by
  cases sg
  · exact aluMax_eq 4 x y
  · exact aluMax_eq 0 x y

theorem laneScansRule : LaneScansRule := by
  intro h o s a b n ha hb hn hi mask small large op unit enters upTo
  have hop : op = scanOp o := by
    funext u v
    simp only [op, scanOp, immNat_of_immOf hi]
    interval_cases n
    · rfl
    · rw [aluMin_intVal]
      by_cases ht : o.t = 2 <;> simp only [ht, if_true, if_false] <;> rfl
    · rw [aluMax_intVal]
      by_cases ht : o.t = 2 <;> simp only [ht, if_true, if_false] <;> rfl
    all_goals rfl
  have hunit : unit = scanUnit o := by
    simp only [unit, scanUnit, immNat_of_immOf hi]
    interval_cases n <;> rfl
  have henters : (List.range 64).map enters = scanLanes o mask a := by
    simp only [enters, hunit]
    rfl
  have hupTo {k : Nat} (hk : k ≤ 64) : upTo k = ((scanLanes o mask a).take k).foldl (scanOp o) (lane32 b 63) := by
    rw [← henters, ← List.map_take, List.take_range, min_eq_left hk, ← hop]
  refine ⟨fun hs => ?scan, fun hs => ?red, fun ht h0 hs => ?sum⟩
  case scan =>
    refine givesLanes_vscan ha hb (fun hm k hk => ?_) (fun hm => ?_) (fun hm k hk => ?_) hs
    · rw [hm, ← hupTo hk]
      rfl
    · have hfirst : upTo 0 = lane32 b 63 := rfl
      rw [hm, hfirst]
      by_cases ht : o.t = 8
      · simp [ht, oneNaN, f32NaN]
      · rw [if_neg ht]
        exact (if_neg (by decide)).trans (if_neg fun ⟨_, h8, _⟩ => ht h8)
    · rw [hm, ← hupTo hk.le]
      rfl
  case red =>
    rw [hop, hunit, henters]
    exact givesLanes_vred ha hb hs
  case sum =>
    have hadd : scanOp o = (· + ·) := by
      funext u v
      rw [scanOp, immNat_of_immOf hi, h0]
      exact if_neg ht
    have hg := givesLanes_vred ha hb hs
    have hsum : (List.range 64).map (fun i => (enters i).toNat) = ((List.range 64).map enters).map BitVec.toNat := (List.map_map ..).symm
    rw [hadd, tree_add _ (by simp [scanLanes])] at hg
    rw [hsum, BitVec.ofNat_add, ofNat_sum_toNat, BitVec.ofNat_toNat, BitVec.setWidth_eq, henters]
    exact hg

/-- Settles O19: bits and comparisons lane by lane; a scan is the list of its partial folds, and a reduction's tree of sums the sum. -/
theorem laneBitsAndCompare : Obligations.LaneBitsAndCompare := ⟨laneBitsAndCompareRule, laneScansRule⟩

end Sys2Proof.Machine
end

section
/-! Words of V that move lanes, and those on truth values (R139, R149, R150), and the statement O20. -/

namespace Sys2Proof.Machine

/-- A word over truth values of the lanes. -/
theorem givesLanes_vpredAct {i : Instr} {h : Hdr} {o : FR} {z : Option Nat} {s : State} {a b : List W64} {n : Nat}
    {f : Bool → Bool → Bool} {p : Nat → Bool} (hx : exec i s = runWord i .V h 0 z s (vpredAct o n f)) (ha : s.core.vsrc o.a 1 = some a)
    (hb : s.core.vsrc (if 2 ≤ n then o.b else 0b1011000) 1 = some b) (hp : ∀ k, f (lane32 a k ≠ 0) (lane32 b k ≠ 0) = p k)
    (hs : Starts i .V h 0 s) :
    GivesLanes i h o.d 1 1 (guardLanes s.core o.g) (lanes32 fun k => if p k then 1 else 0) true s := by
  refine givesLanes32_of_body hx ?_ (fun k hk _ => lane32_truths p hk) hs
  rw [vpredAct, withV_ok ha, withV_ok hb, startWord_vguard]
  simp only [← hp]
  rfl

/-- A list that a lane selects from, beyond its end 0. -/
theorem lane32_map_getD (a : List W64) (l : List Nat) (k : Nat) :
    lane32 (l.map fun i => a.getD i 0) k = if k < l.length then lane32 a (l.getD k 0) else 0 := by
  split_ifs with hk
  · simp [lane32, hk]
  · simp [lane32, hk]

theorem lane32_set {a : List W64} {j : Nat} (hj : j < a.length) (v : W64) (k : Nat) :
    lane32 (a.set j v) k = if k = j then v.setWidth 32 else lane32 a k := by
  split_ifs with hk
  · simp [lane32, hk, hj]
  · simp [lane32, List.getD_eq_getElem?_getD, List.getElem?_set_ne (Ne.symm hk)]

/-- Settles O20: each word's lanes by the lane of its source that they take, `vcomp` by the list of the lanes it keeps. -/
theorem laneMoves : Obligations.LaneMoves := by
  intro h o s a b c mask at_ idx gives truth
  refine ⟨fun ha hb => ⟨fun hm => ?perm, fun hm hc => ?permTwo, ?bcast, fun hm => ?rot, fun hm => ?rotZero, fun hs => ?comp, fun hs hg hd => ?ext,
    givesLanes_vpredAct rfl ha hb fun _ => rfl, givesLanes_vpredAct rfl ha hb fun _ => rfl⟩, fun ha hb hc hlen => ?ins,
    fun ha => ⟨fun hm => ?mov, givesLanes_vpredAct rfl ha (vsrc_zero _) fun _ => ?not, ?cnt⟩, fun ha hlen hm hs => ?movWide⟩
  case perm =>
    refine givesLanes32_of_body rfl (l := lanesOf fun i => a.getD (idx i 64) 0) ?_ fun k hk _ => lane32_lanesOf _ hk
    rw [withV_ok ha, withV_ok hb, hm]
    dsimp only
    rw [if_neg Bool.false_ne_true, withV_ok (vsrc_zero _), startWord_vguard]
    rfl
  case permTwo =>
    refine givesLanes32_of_body rfl (l := lanesOf fun i => if idx i 128 < 64 then a.getD (idx i 128) 0 else c.getD (idx i 128 - 64) 0) ?_
      fun k hk _ => ?_
    · rw [withV_ok ha, withV_ok hb, hm]
      dsimp only
      rw [if_pos rfl, withV_ok hc, startWord_vguard]
      rfl
    · rw [lane32_lanesOf _ hk]
      exact apply_ite ..
  case bcast =>
    refine givesLanes32_of_body rfl (l := lanesOf fun _ => a.getD (idx 0 64) 0) ?_ fun k hk _ => lane32_lanesOf _ hk
    rw [withV_ok ha, withV_ok hb, startWord_vguard]
    rfl
  case rot =>
    refine givesLanes32_of_body rfl (l := lanesOf fun i => a.getD ((i + 64 - idx 0 64) % 64) 0) ?_ fun k hk _ => lane32_lanesOf _ hk
    rw [withV_ok ha, withV_ok hb, startWord_vguard, hm]
    rfl
  case rotZero =>
    refine givesLanes32_of_body rfl (l := lanesOf fun i => if idx 0 64 ≤ i then a.getD (i - idx 0 64) 0 else 0) ?_ fun k hk _ => ?_
    · rw [withV_ok ha, withV_ok hb, startWord_vguard, hm]
      rfl
    · rw [lane32_lanesOf _ hk]
      split_ifs with hle hlt hlt
      · omega
      · rfl
      · rfl
      · omega
  case comp =>
    intro kept
    refine givesLanes32_of_body rfl (l := kept.map fun i => a.getD i 0) ?_ (fun k _ _ => lane32_map_getD a kept k) hs
    rw [withV_ok ha, withV_ok hb, startWord_vguard]
    rfl
  case ext =>
    refine ⟨lanesOf fun _ => a.getD (idx 0 64) 0, by simp [lanesOf], by simp [lanesOf], ?_⟩
    have hdst : dstOf .V o.d 1 false = .named (o.d.extractLsb' 0 6).toNat 1 := if_pos hd
    refine runWord_done hs ?_
    rw [withV_ok ha, withV_ok hb, startWord_vguard, if_pos hg, hdst]
    rfl
  case ins =>
    have hlt : idx 0 64 < a.length := by
      rw [hlen]
      exact Nat.mod_lt _ (by decide)
    refine givesLanes32_of_body rfl (l := a.set (idx 0 64) (c.getD 0 0)) ?_ fun k _ _ => lane32_set hlt _ k
    rw [withV_ok ha, withV_ok hb, withV_ok hc, startWord_vguard]
    rfl
  case mov =>
    refine givesLanes32_of_body rfl (l := a) ?_ fun _ _ _ => rfl
    rw [hm]
    dsimp only
    rw [if_neg Bool.false_ne_true, withV_ok ha, startWord_vguard]
  case not => simp [at_]
  case cnt =>
    refine givesLanes32_of_body rfl (l := lanesOf fun _ =>
      BitVec.ofNat 64 ((List.range 64).filter fun i => at_ a i ≠ 0 && mask.getLsbD i).length) ?_ fun k hk _ => ?_
    · rw [withV_ok ha, startWord_vguard]
      rfl
    · rw [lane32_lanesOf _ hk]
      exact BitVec.setWidth_ofNat_of_le (by decide) _
  case movWide =>
    refine givesLanes_of_body rfl ?_ hs
    rw [hm]
    dsimp only
    rw [if_pos rfl, withV_ok ha, startWord_vguard]

end Sys2Proof.Machine
end

section
/-! Conversions of V (R70, R71, R133, R140-R143): the codes of the element formats fit a byte, the exponent of a block is that of its largest
magnitude, a conversion counts the events of its guard-true lanes, and from that the statement O21. -/

namespace Sys2Proof.Machine

/-! ## Codes of element formats (R63, R71) -/

/-- An exponent below v + j leaves fewer than 2^j whole spacings 2^v. -/
theorem splitAt2_lt {k : Nat} (hk : k ≠ 0) {u v : Int} {j : Nat} (h : expOf k u < v + j) : (splitAt2 k u v).1 < 2 ^ j := by
  have hlt : ¬(2 : ℚ) ^ (v + j) ≤ k * 2 ^ u := by
    rw [zpow_le_iff_le_expOf hk]
    omega
  exact (natCast_mul_zpow_lt ..).mp ((splitAt2_splits k u v).whole_le.trans_lt (not_le.mp hlt))

theorem FFmt.signed_lt (f : FFmt) (neg : Bool) {mag : Nat} (h : mag < 2 ^ f.sbits) : f.signed neg mag < 2 ^ (f.sbits + 1) := by
  rw [FFmt.signed, pow_succ]
  split_ifs <;> omega

/-- A code takes no more than its format's bits where the exponent has a field. -/
theorem FFmt.code_lt (f : FFmt) (neg : Bool) {k : Nat} {u : Int} (h : k ≠ 0 → expOf k u + f.bias < 2 ^ f.ebits) :
    f.code neg k u < 2 ^ (f.sbits + 1) := by
  refine f.signed_lt neg ?_
  have hbits : 2 ^ f.sbits = 2 ^ f.ebits * 2 ^ f.fbits := by rw [FFmt.sbits, pow_add]
  by_cases hk : k = 0
  · rw [if_pos hk]
    positivity
  rw [if_neg hk]
  dsimp only
  split_ifs with hsub
  · have hq : (splitAt2 k u f.umin).1 < 2 ^ f.fbits := splitAt2_lt hk (by rw [FFmt.umin]; omega)
    exact hq.trans_le (hbits ▸ Nat.le_mul_of_pos_left _ (by positivity))
  · have hq : (splitAt2 k u (expOf k u - f.fbits)).1 < 2 ^ (f.fbits + 1) := splitAt2_lt hk (by push_cast; omega)
    have hexp : (expOf k u + f.bias).toNat + 1 ≤ 2 ^ f.ebits := by
      have hcast : ((2 ^ f.ebits : Nat) : Int) = 2 ^ f.ebits := by norm_cast
      have := h hk
      have hpos : 0 < 2 ^ f.ebits := by positivity
      omega
    have hmul := Nat.mul_le_mul_right (2 ^ f.fbits) hexp
    rw [pow_succ] at hq
    rw [add_mul, one_mul] at hmul
    omega

/-- What is not beyond the largest finite value has no larger exponent. -/
theorem FFmt.expOf_le_of_not_beyond {f : FFmt} {m k : Nat} {e u : Int} (hv : f.value f.maxCode = .fin false m e) (hm : m ≠ 0) (hk : k ≠ 0)
    (hb : f.beyond k u = false) : expOf k u ≤ expOf m e := by
  have hle : (k * 2 ^ u : ℚ) ≤ m * 2 ^ e := by
    rw [← not_lt, ← cmpMag_gt_iff]
    rw [FFmt.beyond, hv] at hb
    exact of_decide_eq_false hb
  rw [← zpow_le_iff_le_expOf hm]
  exact ((zpow_le_iff_le_expOf hk u _).mpr le_rfl).trans hle

/-- The element formats of MX blocks (R142). -/
def FFmt.IsElement (f : FFmt) : Prop := f = .e4m3 ∨ f = .e5m2 ∨ f = .e2m1

/-- The code of a narrowed element is a byte. -/
theorem narrow_element_lt {f : FFmt} (hf : f.IsElement) (rm : BitVec 2) (draw : Nat) (neg : Bool) (m : Nat) (e : Int) :
    (narrow (.flt f) rm draw (.fin neg m e)).code < 256 := by
  have hbyte : 2 ^ (f.sbits + 1) ≤ 256 := by rcases hf with rfl | rfl | rfl <;> decide
  have hmax : f.maxCode < 2 ^ f.sbits := by rcases hf with rfl | rfl | rfl <;> decide
  obtain ⟨n, g, hv, hn, htop⟩ : ∃ n g, f.value f.maxCode = .fin false n g ∧ n ≠ 0 ∧ expOf n g + f.bias < 2 ^ f.ebits := by
    rcases hf with rfl | rfl | rfl
    · exact ⟨14, 5, by decide, by decide, by decide⟩
    · exact ⟨7, 13, by decide, by decide, by decide⟩
    · exact ⟨3, 1, by decide, by decide, by decide⟩
  obtain ⟨k, u, hnarrow⟩ : ∃ k u, narrow (.flt f) rm draw (.fin neg m e) =
    if f.beyond k u then { code := f.signed neg f.maxCode, sat := true, nan := false } else { code := f.code neg k u, sat := false, nan := false } :=
      ⟨_, _, rfl⟩
  rw [hnarrow]
  refine lt_of_lt_of_le ?_ hbyte
  split_ifs with hb
  · exact f.signed_lt neg hmax
  · refine f.code_lt neg fun hk => lt_of_le_of_lt ?_ htop
    exact add_le_add_left (FFmt.expOf_le_of_not_beyond hv hn hk (Bool.eq_false_iff.mpr hb)) _

/-! ## The exponent of a block (R70) -/

/-- The number of a magnitude. -/
def magRat (p : Nat × Int) : ℚ := p.1 * 2 ^ p.2

theorem magRat_mag {x : Num} {r : ℚ} (h : x.rat = some r) : magRat x.mag = |r| := by
  obtain ⟨neg, m, e, rfl, rfl⟩ := Num.exists_fin_of_rat h
  have hpos : (0 : ℚ) ≤ m * 2 ^ e := by positivity
  rw [abs_mul, abs_of_nonneg hpos]
  cases neg <;> simp [magRat, Num.mag]

theorem magRat_magMax (p q : Nat × Int) : magRat (magMax p q) = max (magRat p) (magRat q) := by
  have hswap : cmpMag p.1 p.2 q.1 q.2 = .lt ↔ cmpMag q.1 q.2 p.1 p.2 = .gt := by
    rw [cmpMag, cmpMag, Nat.compare_eq_lt, Nat.compare_eq_gt, min_comm]
  unfold magMax
  split_ifs with h
  · rw [hswap, cmpMag_gt_iff] at h
    exact (max_eq_right h.le).symm
  · rw [hswap, cmpMag_gt_iff, not_lt] at h
    exact (max_eq_left h).symm

/-- The largest magnitude of a list, from a start. -/
theorem magRat_foldl_magMax {l : List Num} {p : Nat × Int} {m : ℚ} (hp : magRat p ≤ m) (hle : ∀ x ∈ l, magRat x.mag ≤ m)
    (hmax : magRat p = m ∨ ∃ x ∈ l, magRat x.mag = m) : magRat (l.foldl (fun a x => magMax a x.mag) p) = m := by
  induction l generalizing p with
  | nil => simpa using hmax
  | cons x l ih =>
    rw [List.forall_mem_cons] at hle
    simp only [List.mem_cons, exists_eq_or_imp] at hmax
    have hstep := magRat_magMax p x.mag
    refine ih (hstep ▸ max_le hp hle.1) hle.2 ?_
    rw [hstep]
    obtain h | h | h := hmax
    · exact .inl (h ▸ max_eq_left (h ▸ hle.1))
    · exact .inl (h ▸ max_eq_right (h ▸ hp))
    · exact .inr h

/-- The exponent of a block whose largest magnitude is m. -/
theorem blockX_eq (fmt : FFmt) {b : List Num} {m : ℚ} (hm : 0 ≤ m) (hle : ∀ x ∈ b, magRat x.mag ≤ m)
    (hmax : ∃ x ∈ b, magRat x.mag = m) :
    blockX fmt b = if m = 0 then -127 else min (max (Int.log 2 m - emaxOf fmt) (-127)) 127 := by
  have hzero : magRat (0, 0) = 0 := by simp [magRat]
  have hfold := magRat_foldl_magMax (hzero ▸ hm) hle (.inr hmax)
  unfold blockX
  generalize b.foldl (fun a x => magMax a x.mag) (0, 0) = p at hfold
  obtain ⟨k, e⟩ := p
  have hk : k = 0 ↔ m = 0 := by
    rw [← hfold, magRat, mul_eq_zero, Nat.cast_eq_zero, or_iff_left (zpow_ne_zero _ two_ne_zero)]
  dsimp only
  by_cases h0 : k = 0
  · rw [if_pos h0, if_pos (hk.mp h0)]
  · rw [if_neg h0, if_neg (hk.not.mp h0), ← hfold, magRat, log_natCast_mul_zpow h0]

/-! ## Words of narrowed lanes (R133, R140, R142, R143) -/

/-- SATSLOT is the slot of a conversion without `.slot`. -/
theorem withSlotV_satslot {s : State} {o : FR} (hm : o.m.getLsbD 0 = false) (sp : BitVec 7) (k : Nat → Act) :
    withSlotV (startWord .V s) o sp k = k s.core.satslot.toNat := by
  have hslot : (startWord .V s).core.satslot = s.core.satslot := by rw [startWord_core, Core.modStr_satslot]
  rw [withSlotV, hm, if_neg Bool.false_ne_true, hslot]

/-- The number of guard-true lanes whose narrowing counts an event. -/
def eventLanes (mask : W64) (f : Nat → Narrowed) (p : Narrowed → Bool) : Nat := ((List.range 64).filter fun i => mask.getLsbD i && p (f i)).length

theorem length_live_filter (mask : W64) (f : Nat → Narrowed) (p : Narrowed → Bool) :
    (((((List.range 64).map f).zipIdx.filter fun e => mask.getLsbD e.2).map (·.1)).filter p).length = eventLanes mask f p := by
  have hz : ((List.range 64).map f).zipIdx = (List.range 64).map fun i => (f i, i) := by
    refine List.ext_getElem (by simp) fun i hi _ => ?_
    simp
  rw [← List.countP_eq_length_filter, List.countP_map, List.countP_filter, hz, List.countP_map, eventLanes, List.countP_eq_length_filter]
  exact congrArg List.length (List.filter_congr fun i _ => Bool.and_comm ..)

/-- A result of V, lane by lane. -/
theorem vresult_of_lanes {l : List W64} {v : Nat → W64} {mask : W64} {w : Nat}
    (hv : ∀ k, k < 64 → mask.getLsbD k = true → (if w = 1 then l.getD k 0 &&& 0xFFFFFFFF else l.getD k 0) = v k) (s : State) (d : BitVec 7)
    (lat : Nat) (pred : Bool) : vresult s d w lat mask l pred = .done s
      { res := some { val := .lanes ((List.range 64).map fun k => if mask.getLsbD k then v k else 0)
                      dest := vdstOf d (w = 2) pred mask, lat := lat } } := by
  have hl : ((List.range 64).map fun k => if mask.getLsbD k then (if w = 1 then l.getD k 0 &&& 0xFFFFFFFF else l.getD k 0) else 0) =
      (List.range 64).map fun k => if mask.getLsbD k then v k else 0 :=
    List.map_congr_left fun k hk => ite_congr rfl (hv k (List.mem_range.mp hk)) fun _ => rfl
  simp only [vresult, hl]

/-- A code is cut to the lane of its type. -/
theorem cut_code {w : Nat} (hw : w = 1 ∨ w = 2) (code : Nat) :
    (if w = 1 then BitVec.ofNat 64 code &&& 0xFFFFFFFF else BitVec.ofNat 64 code) = BitVec.ofNat 64 (code % 2 ^ (32 * w)) := by
  rcases hw with rfl | rfl
  · rw [if_pos rfl, and_low_word, BitVec.setWidth_ofNat_of_le (by decide)]
    exact BitVec.eq_of_toNat_eq (by simp)
  · rw [if_neg (by decide)]
    exact BitVec.eq_of_toNat_eq (by simp)

section
variable {s : State} {o : FR} {w : Nat} (f : Nat → Narrowed)

/-- A conversion without a draw: its codes, and the events of its guard-true lanes (R133). -/
theorem vconvEnd_undrawn (hw : w = 1 ∨ w = 2) (lat slot : Nat) (mask : W64) :
    vconvEnd (startWord .V s) o w lat slot mask (startWord .V s).core.vgen ((List.range 64).map f) =
      .done (satWord (startWord .V s) .V slot (eventLanes mask f (·.sat)) (eventLanes mask f (·.nan)))
        { res := some { val := .lanes ((List.range 64).map fun k => if mask.getLsbD k then BitVec.ofNat 64 ((f k).code % 2 ^ (32 * w)) else 0)
                        dest := vdstOf o.d (w = 2) false mask, lat := lat } } := by
  unfold vconvEnd
  dsimp only
  rw [startWord_setCore_core, length_live_filter, length_live_filter]
  refine vresult_of_lanes (fun k hk _ => ?_) ..
  rw [← cut_code hw]
  simp [hk]

/-- A conversion word whose effect ends with the narrowed lanes `f`. -/
theorem exec_of_vconvEnd {i : Instr} {h : Hdr} {z : Option Nat} {body : State → Act} {lat slot : Nat} {mask : W64}
    (hx : exec i s = runWord i .V h 0 z s body) (hw : w = 1 ∨ w = 2)
    (hb : body (startWord .V s) = vconvEnd (startWord .V s) o w lat slot mask (startWord .V s).core.vgen ((List.range 64).map f))
    (hs : Starts i .V h 0 s) : exec i s = .next (finishWord .V h
      { res := some { val := .lanes ((List.range 64).map fun k => if mask.getLsbD k then BitVec.ofNat 64 ((f k).code % 2 ^ (32 * w)) else 0)
                      dest := vdstOf o.d (w = 2) false mask, lat := lat } }
      (satWord (startWord .V s) .V slot (eventLanes mask f (·.sat)) (eventLanes mask f (·.nan)))) :=
  hx.trans (runWord_done hs (hb.trans (vconvEnd_undrawn f hw ..)))

end

/-! ## Blocks of 64 lanes (R70, R141, R142) -/

theorem mxFmt_eq (t : BitVec 4) : mxFmt t = if t = 12 then .e5m2 else if t = 13 then .e2m1 else .e4m3 := by
  revert t
  decide

theorem isElement_mxFmt (t : BitVec 4) : (mxFmt t).IsElement := by
  rw [mxFmt_eq, FFmt.IsElement]
  split_ifs <;> simp

theorem emaxOf_element {f : FFmt} (hf : f.IsElement) : emaxOf f = if f = .e5m2 then 15 else if f = .e2m1 then 2 else 8 := by
  rcases hf with rfl | rfl | rfl <;> rfl

/-- An element under its scale is its value times a power of two; under the scale 0xFF it is the canonical NaN. -/
theorem toF32_dequant (f : FFmt) (x : W32) (code : Nat) : toF32 0 0 (dequant f (x.extractLsb' 8 8) code) =
    if x.toNat / 256 % 256 = 255 then 0x7FC00000
    else toF32 0 0 ((f.value (code % 2 ^ (f.ebits + f.fbits + 1))).scale2 ((x.toNat / 256 % 256 : Nat) - 127)) := by
  have hscale : (x.extractLsb' 8 8).toNat = x.toNat / 256 % 256 := by
    rw [BitVec.extractLsb'_toNat, Nat.shiftRight_eq_div_pow]
  have hff : x.extractLsb' 8 8 = 0xFF ↔ x.toNat / 256 % 256 = 255 := by
    rw [← BitVec.toNat_inj, hscale]
    rfl
  rw [dequant, ← hscale]
  by_cases h : x.extractLsb' 8 8 = 0xFF
  · rw [if_pos h, if_pos (hscale ▸ hff.mp h)]
    rfl
  · rw [if_neg h, if_neg (hscale ▸ hff.not.mp h)]
    rfl

/-- A code with its scale above it fills 16 bits. -/
theorem code_or_scale_eq {c n : Nat} (hc : c < 256) (hn : n < 256) :
    ((BitVec.ofNat 8 c).setWidth 64 ||| ((BitVec.ofNat 8 n).setWidth 64 <<< 8) : W64) = BitVec.ofNat 64 (c + 256 * n) := by
  refine BitVec.eq_of_toNat_eq ?_
  have hor : n * 2 ^ 8 + c = n * 2 ^ 8 ||| c := by rw [← Nat.shiftLeft_eq, Nat.shiftLeft_add_eq_or_of_lt hc]
  rw [BitVec.toNat_or, BitVec.toNat_shiftLeft, Nat.shiftLeft_eq, BitVec.toNat_setWidth, BitVec.toNat_setWidth, BitVec.toNat_ofNat,
    BitVec.toNat_ofNat, BitVec.toNat_ofNat, Nat.mod_eq_of_lt hc, Nat.mod_eq_of_lt hn, Nat.mod_eq_of_lt (by omega : c < 2 ^ 64),
    Nat.mod_eq_of_lt (by omega : n < 2 ^ 64), Nat.mod_eq_of_lt (by omega : n * 2 ^ 8 < 2 ^ 64), Nat.mod_eq_of_lt (by omega : c + 256 * n < 2 ^ 64),
    Nat.or_comm, ← hor]
  omega

/-- No lane is left out of the mask of all lanes. -/
theorem getLsbD_not_zero {i : Nat} (hi : i < 64) : (~~~0 : W64).getLsbD i = true := by
  rw [BitVec.getLsbD_not]
  simp [hi]

theorem eventLanes_all (f : Nat → Narrowed) (p : Narrowed → Bool) : (((List.range 64).map f).filter p).length = eventLanes (~~~0) f p := by
  rw [List.filter_map, List.length_map, eventLanes]
  exact congrArg List.length (List.filter_congr fun i hi => by rw [getLsbD_not_zero (List.mem_range.mp hi)]; rfl)

theorem isFin_of_rat {y : Num} {r : ℚ} (h : y.rat = some r) : y.isFin = true := by
  obtain ⟨neg, m, e, rfl, -⟩ := Num.exists_fin_of_rat h
  rfl

theorem blockBad_of_isFin {b : List Num} (hfin : ∀ y ∈ b, y.isFin = true) : blockBad b = false :=
  List.any_eq_false.mpr fun y hy => by simp [hfin y hy]

/-- A block of finite values quantised without a draw (R70). -/
theorem quantBlock_undrawn {x : Nat → Num} {fmt : FFmt} {rm : BitVec 2} (hfin : ∀ y ∈ (List.range 64).map x, y.isFin = true) {X : Int}
    (hX : blockX fmt ((List.range 64).map x) = X) :
    quantBlock fmt rm [] ((List.range 64).map x) =
      let q (i : Nat) := narrow (.flt fmt) rm 0 ((x i).scale2 (-X))
      { scale := BitVec.ofInt 8 (X + 127), codes := (List.range 64).map fun i => BitVec.ofNat 8 (q i).code,
        sats := eventLanes (~~~0) q (·.sat), nans := eventLanes (~~~0) q (·.nan) } := by
  have hr : (((List.range 64).map x).zipIdx.map fun (v, i) => narrow (.flt fmt) rm (([] : List Nat).getD i 0) (v.scale2 (-X))) =
      (List.range 64).map fun i => narrow (.flt fmt) rm 0 ((x i).scale2 (-X)) := by
    rw [map_zipIdx_range (by simp) .zero]
    exact List.map_congr_left fun i hi => by simp [List.mem_range.mp hi]
  unfold quantBlock
  rw [blockBad_of_isFin hfin, if_neg Bool.false_ne_true, hX]
  dsimp only
  rw [hr, eventLanes_all, eventLanes_all, List.map_map]
  rfl

theorem blockX_range (fmt : FFmt) (b : List Num) : -127 ≤ blockX fmt b ∧ blockX fmt b ≤ 127 := by
  unfold blockX
  dsimp only
  split_ifs <;> omega

theorem narrow_scale2_lt {y : Num} (hfin : y.isFin = true) {f : FFmt} (hf : f.IsElement) (rm : BitVec 2) (draw : Nat) (k : Int) :
    (narrow (.flt f) rm draw (y.scale2 k)).code < 256 := by
  cases y with
  | nan => cases hfin
  | inf neg => cases hfin
  | fin neg m e => exact narrow_element_lt hf ..

/-- `vmxq` of 64 finite lanes under a true guard, without a draw. -/
theorem exec_vmxq_finite {h : Hdr} {o : FR} {s : State} {a : List W64} (ha : s.core.vsrc o.a 1 = some a) (hrm : o.rm ≠ 3)
    (hm : o.m.getLsbD 0 = false) (hmask : guardLanes s.core o.g = ~~~0)
    (hfin : ∀ y ∈ (List.range 64).map fun i => f32v (lane32 a i), y.isFin = true) (hs : Starts (.vmxq h o) .V h 0 s) :
    let X := blockX (mxFmt o.t) ((List.range 64).map fun i => f32v (lane32 a i))
    let q (i : Nat) := narrow (.flt (mxFmt o.t)) o.rm 0 ((f32v (lane32 a i)).scale2 (-X))
    exec (.vmxq h o) s = .next (finishWord .V h
      { res := some { val := .lanes ((List.range 64).map fun i => BitVec.ofNat 64 ((q i).code + 256 * (X + 127).toNat))
                      dest := vdstOf o.d false false (guardLanes s.core o.g), lat := 6 } }
      (satWord (startWord .V s) .V s.core.satslot.toNat (eventLanes (guardLanes s.core o.g) q (·.sat))
        (eventLanes (guardLanes s.core o.g) q (·.nan)))) := by
  intro X q
  have hvals : ((List.range 64).map fun i => if (~~~0 : W64).getLsbD i then f32v (l32 a i) else .zero) =
      (List.range 64).map fun i => f32v (lane32 a i) :=
    List.map_congr_left fun i hi => if_pos (getLsbD_not_zero (List.mem_range.mp hi))
  have hX : (X + 127).toNat < 256 ∧ BitVec.ofInt 8 (X + 127) = BitVec.ofNat 8 (X + 127).toNat := by
    obtain ⟨hlo, hhi⟩ : -127 ≤ X ∧ X ≤ 127 := blockX_range ..
    refine ⟨by omega, ?_⟩
    rw [← BitVec.ofInt_natCast, Int.toNat_of_nonneg (by omega)]
  refine runWord_done hs ?_
  rw [withV_ok ha, withSlotV_satslot hm, startWord_vguard, hmask]
  dsimp only
  rw [hvals, laneDraws_undrawn hrm, ite_self]
  dsimp only
  rw [startWord_setCore_core, quantBlock_undrawn hfin rfl]
  dsimp only
  rw [List.map_map, hX.2, vresult_of_lanes (v := fun i => BitVec.ofNat 64 ((q i).code + 256 * (X + 127).toNat)) fun k hk _ => ?lane]
  case lane =>
    have hcode : (q k).code < 256 := narrow_scale2_lt (hfin _ (List.mem_map_of_mem (List.mem_range.mpr hk))) (isElement_mxFmt o.t) ..
    have hget (f : Nat → W64) : ((List.range 64).map f).getD k 0 = f k := getD_lanesOf f hk
    rw [if_pos rfl, hget, Function.comp_apply, code_or_scale_eq hcode hX.1, and_low_word, BitVec.setWidth_ofNat_of_le (by decide),
      BitVec.setWidth_ofNat_of_le_of_lt (by decide) (by omega)]
  rw [List.map_congr_left fun k hk => if_pos (getLsbD_not_zero (List.mem_range.mp hk))]
  rfl

/-- Settles O21: each conversion by the narrowing of its lanes, `vmxq` by the exponent of the largest magnitude, whose codes are bytes. -/
theorem laneConversions : Obligations.LaneConversions := by
  intro h o s a b src mask slot live converts num fmt
  have hfmt : fmt = mxFmt o.t := (mxFmt_eq o.t).symm
  refine ⟨fun ha hsrc hi hrm hm hs => ?cvt, fun ha hb hrm hm hs => ?satr, fun ha hs => ?mxd,
    fun ha hrm hm hmask hs r m j X hr hj hrj hle hX => ?mxq⟩
  case cvt =>
    refine exec_of_vconvEnd _ rfl (wideT_cases o.t) ?_ hs
    dsimp only
    rw [immNat_of_immOf hi, withV_ok ha, withSlotV_satslot hm, startWord_vguard, laneDraws_undrawn hrm]
    rfl
  case satr =>
    refine exec_of_vconvEnd _ rfl (.inl rfl) ?_ hs
    rw [withV_ok ha, withV_ok hb, withSlotV_satslot hm, startWord_vguard]
    dsimp only
    rw [laneDraws_undrawn hrm]
    rfl
  case mxd =>
    intro scale
    refine givesLanes32_of_body rfl (l := lanesOf fun i =>
      (toF32 0 0 (dequant fmt ((lane32 a 0).extractLsb' 8 8) ((lane32 a i).toNat % 256))).setWidth 64) ?_ (fun k hk _ => ?_) hs
    · rw [withV_ok ha, startWord_vguard, hfmt]
      rfl
    · rw [lane32_lanesOf _ hk, setWidth_word_lane_word, toF32_dequant]
  case mxq =>
    intro q
    have hfin : ∀ y ∈ (List.range 64).map num, y.isFin = true := by
      intro y hy
      obtain ⟨i, hi, rfl⟩ := List.mem_map.mp hy
      exact isFin_of_rat (hr i (List.mem_range.mp hi))
    have hblock : blockX fmt ((List.range 64).map num) = X := by
      rw [blockX_eq fmt (hrj ▸ abs_nonneg _), hX, emaxOf_element (hfmt ▸ isElement_mxFmt o.t)]
      · intro y hy
        obtain ⟨i, hi, rfl⟩ := List.mem_map.mp hy
        rw [magRat_mag (hr i (List.mem_range.mp hi))]
        exact hle i (List.mem_range.mp hi)
      · exact ⟨num j, List.mem_map_of_mem (List.mem_range.mpr hj), (magRat_mag (hr j hj)).trans hrj⟩
    have hexec := exec_vmxq_finite ha hrm hm hmask hfin hs
    rw [← hfmt, hblock] at hexec
    exact hexec

end Sys2Proof.Machine
end

section
/-! # Memory stays canonical (O6, O5; R163, R165, R366, R414, R423)

Every function of the model that gives a state keeps the canonical form of memory. The lemmas follow
the model's order, one per function: `F_mem` where `F` writes no memory, `F_wf` where it answers a
state, and `F_memOk` where it answers a state or something else; there the state an answer carries is
read by an accessor `state?`. An operation is then settled by the lemmas of the operations it calls, and
`step_memOk` is the last of them. -/

set_option Elab.async false

namespace Sys2Proof.Machine

/-! ## The canonical form carried through answers, pairs and loops -/

/-- The state of a pair that an operation answered. -/
theorem fst_wf {α : Type} {p : State × α} {t : State} {a : α} (w : p.1.mem.wf = true) (e : p = (t, a)) :
    t.mem.wf = true := by
  subst e
  exact w

/-- A loop whose every step keeps the canonical form keeps it. -/
theorem foldl_wf {α : Type} {f : State → α → State} {l : List α} {s : State} (hf : ∀ s a, s.mem.wf = true →
    (f s a).mem.wf = true)
    (h : s.mem.wf = true) : (l.foldl f s).mem.wf = true := List.foldlRecOn (motive := fun t :
      State => t.mem.wf = true) l f h fun _ ht a _ => hf _ a ht

/-- A loop whose every step writes no memory writes none. -/
theorem foldl_mem {α : Type} {f : State → α → State} {l : List α} {s : State} (hf : ∀ s a, (f s a).mem = s.mem) :
    (l.foldl f s).mem = s.mem := List.foldlRecOn (motive := fun t : State => t.mem = s.mem) l f rfl fun _ ht a _ =>
      (hf _ a).trans ht

/-- A loop over a state and a value, whose every step keeps the canonical form, keeps it. -/
theorem foldl_fst_wf {α β : Type} {f : State × β → α → State × β} {l : List α} {p : State × β}
    (hf : ∀ p a, p.1.mem.wf = true → (f p a).1.mem.wf = true) (h : p.1.mem.wf = true) : (l.foldl f p).1.mem.wf = true :=
  List.foldlRecOn (motive := fun q : State × β => q.1.mem.wf = true) l f h fun _ hq a _ => hf _ a hq

/-- Memory is canonical in the state that an answer leaves, where it leaves one. -/
inductive MemOk : Option State → Prop
  | none : MemOk none
  | some {s : State} (w : s.mem.wf = true) : MemOk (some s)

/-- The state of an answer that is known. -/
theorem MemOk.of_eq {α : Type} {f : α → Option State} {a b : α} {t : State} (w : MemOk (f a)) (e : a = b)
    (ht : f b = Option.some t := by rfl) :
    t.mem.wf = true := by
  subst e
  rw [ht] at w
  cases w
  assumption

theorem MemOk.of_some {o : Option State} {t : State} (w : MemOk o) (e : o = Option.some t) :
    t.mem.wf = true := w.of_eq (f := id) e

/-- An answer with the memory of a canonical state. -/
theorem MemOk.of_mem {s t : State} (h : s.mem.wf = true) (e : t.mem = s.mem) : MemOk (Option.some t) := .some
    ((congrArg Memory.wf e).trans h)

/-- A state that depends on a condition. -/
theorem ite_wf {p : Prop} {_ : Decidable p} {a b : State} (ha : a.mem.wf = true) (hb : b.mem.wf = true) :
    (if p then a else b).mem.wf = true := by
  split
  · exact ha
  · exact hb

/-- An answer that depends on a condition. -/
theorem MemOk.ite {p : Prop} {_ : Decidable p} {a b : Option State} (ha : MemOk a) (hb : MemOk b) :
    MemOk (if p then a else b) := by
  split
  · exact ha
  · exact hb

/-- The state that a write leaves. -/
def Wr.state? : Wr → Option State
  | .ok s => some s
  | _ => none

/-- The state that a posted event leaves. -/
def Posted.state? : Posted → Option State
  | .written s | .dropped s => some s
  | .wait _ => none

/-- The state that a slot update leaves. -/
def SatUpd.state? : SatUpd → Option State
  | .done s _ => some s
  | .wait _ => none

/-- The state that a waiting access of the device leaves. -/
def DevTry.state? : DevTry → Option State
  | .done s => some s
  | .wait _ => none

/-- The state that a word's action leaves. -/
def Act.state? : Act → Option State
  | .wait s | .done s _ => some s
  | .fault _ => none

/-- The state that a core's read leaves. -/
def CoreRd.state? : CoreRd → Option State
  | .wait s | .ok s _ => some s
  | .fault _ => none

/-- The state that an access leaves. -/
def Perf.state? : Perf → Option State
  | .wait s | .bytes s _ _ | .sent s _ => some s
  | .fault _ => none

/-- The state that an operation's read leaves. -/
def OpRd.state? : OpRd → Option State
  | .ok s _ | .wait s => some s
  | .bad .. => none

/-- The state that the read of a line leaves. -/
def LineRd.state? : LineRd → Option State
  | .ok s _ => some s
  | _ => none

/-- The state that an engine's step leaves. -/
def UnitOut.state? : UnitOut → Option State
  | .done s .. | .wait s => some s
  | .bad .. => none

/-- The state that the choice of a clock leaves. -/
def Pick.state? : Pick → Option State
  | .word _ s | .ev _ s | .to s => some s
  | .none => Option.none

/-- The state that a part of admission leaves. -/
def Adm.state? {α : Type} : Adm α → Option State
  | .ok s _ | .wait s | .fail s _ _ => some s

/-- The state that an instruction or a clock leaves. -/
def outState? : Host.Outcome State Fault Refusal → Option State
  | .next s => some s
  | _ => none

/-- An answer of any kind that depends on a condition. -/
theorem MemOk.of_ite {α : Type} {f : α → Option State} {p : Prop} {_ : Decidable p} {a b : α} (ha : MemOk (f a))
    (hb : MemOk (f b)) :
    MemOk (f (if p then a else b)) := by
  split
  · exact ha
  · exact hb

theorem writePerm_memOk {s : State} (h : s.mem.wf = true) (b : Via) (fn : Nat) (p : Perm) (fab : Bool) (va : W64)
    (l : List Byte) :
    MemOk (writePerm s b fn p fab va l).state? := by
  cases e : writePerm s b fn p fab va l with
  | ok t => exact .some (writePerm_wf h e)
  | wait => exact .none
  | bad => exact .none

theorem tryEvent_memOk {s : State} (h : s.mem.wf = true) (x type code src : Nat) (va1 vb1 : W64) (time : Nat) :
    MemOk (tryEvent s x type code src va1 vb1 time).state? := by
  cases e : tryEvent s x type code src va1 vb1 time with
  | written t => exact .some (tryEvent_wf h (.inl e))
  | dropped t => exact .some (tryEvent_wf h (.inr e))
  | wait => exact .none

/-- A word's halting fault writes no memory. -/
@[simp] theorem haltWord_mem (s : State) (st : StreamId) (f : StopInfo) : (haltWord s st f).mem = s.mem := by
  unfold haltWord
  simp

@[simp] theorem faultOrWait_mem (s : State) (st : StreamId) (f : StopInfo) : (faultOrWait s st f).mem = s.mem := by
  unfold faultOrWait
  split
  · exact stall_mem ..
  · exact haltWord_mem ..

/-- A word whose action keeps the canonical form keeps it, whether it starts, waits or faults (R89, R92, R126). -/
theorem runWord_memOk {i : Instr} {st : StreamId} {hd : Hdr} {g : BitVec 4} {z : Option Nat} {s : State}
    {body : State → Act}
    (h : s.mem.wf = true) (hb : ∀ s, s.mem.wf = true → MemOk (body s).state?) :
      MemOk (outState? (runWord i st hd g z s body)) := by
  refine .some (issue_wf h fun s' hs => ?_)
  rcases hs with e | ⟨d, e⟩
  · exact (hb (startWord st s) h).of_eq e
  · exact (hb (startWord st s) h).of_eq e

@[simp] theorem dcPut_mem (s : State) (a : Nat) (v : W32) : (dcPut s a v).mem = s.mem := rfl

@[simp] theorem ringAdvance_mem (s : State) (p k : Nat) : (ringAdvance s p k).mem = s.mem := rfl

theorem ringReturn_wf {s : State} (h : s.mem.wf = true) (p : Nat) (pa : W64) : (ringReturn s p pa).mem.wf = true := by
  unfold ringReturn
  dsimp only
  split
  · simp [h, State.wf_paStore]
  · exact h

theorem ringSkip_wf {s : State} (h : s.mem.wf = true) (p k n : Nat) : (ringSkip s p k n).mem.wf = true := by
  induction n generalizing s with
  | zero => exact h
  | succ n ih =>
    unfold ringSkip
    split
    · split
      · exact h
      · exact ih (ringReturn_wf (by simpa using h) ..)
    · exact h

/-- A word goes on with the value of a source once it has one. -/
theorem withSrc_memOk {s : State} (h : s.mem.wf = true) (st : StreamId) (sp : BitVec 7) (w : Nat) {k : W128 → Act}
    (hk : ∀ v, MemOk (k v).state?) : MemOk (withSrc s st sp w k).state? := by
  unfold withSrc
  split
  · exact hk _
  · exact .some h
  · exact .none

theorem with32_memOk {s : State} (h : s.mem.wf = true) (st : StreamId) (sp : BitVec 7) {k : W32 → Act}
    (hk : ∀ v, MemOk (k v).state?) :
    MemOk (with32 s st sp k).state? := withSrc_memOk h _ _ _ fun _ => hk _

theorem with64_memOk {s : State} (h : s.mem.wf = true) (st : StreamId) (sp : BitVec 7) {k : W64 → Act}
    (hk : ∀ v, MemOk (k v).state?) :
    MemOk (with64 s st sp k).state? := withSrc_memOk h _ _ _ fun _ => hk _

theorem withV_memOk (s : State) (sp : BitVec 7) (w : Nat) {k : List W64 → Act} (hk : ∀ v, MemOk (k v).state?) :
    MemOk (withV s sp w k).state? := by
  unfold withV
  split
  · exact hk _
  · exact .none

/-- A word goes on with the elements of an operand queue once it holds them. -/
theorem popOq_memOk {s : State} (h : s.mem.wf = true) (q n : Nat) {f : State → List Byte → Act}
    (hf : ∀ t l, t.mem.wf = true → MemOk (f t l).state?) : MemOk (popOq s q n f).state? := by
  unfold popOq
  dsimp only
  split
  · exact hf _ _ h
  · split
    · exact .none
    · exact .some h

/-- A word goes on with a literal once its bytes are there. -/
theorem withCode_memOk {s : State} (h : s.mem.wf = true) (st : StreamId) (off : Nat) {k : W64 → Act}
    (hk : ∀ v, MemOk (k v).state?) :
    MemOk (withCode s st off k).state? := by
  unfold withCode
  split
  · exact hk _
  · exact .some h

theorem tileType_memOk : MemOk tileType.state? := .none

/-- A word over a handle gives its result in the state that its action leaves (R249). -/
theorem handleWord_memOk {s : State} (o : FR) (lat : Nat) {f : State → W32 → State × W32} (h : s.mem.wf = true)
    (hf : ∀ a, (f s a).1.mem.wf = true) : MemOk (handleWord o lat f s).state? := with32_memOk h _ _ fun _ => .some
      (hf _)

@[simp] theorem dcCount_mem (s : State) (a n : Nat) : (dcCount s a n).mem = s.mem := rfl

@[simp] theorem State.newResidues_mem (s : State) (fmt pa n : Nat) : (s.newResidues fmt pa n).mem = s.mem := rfl

theorem writeVa_memOk {s : State} (h : s.mem.wf = true) (b : Via) (fn : Nat) (va : W64) (l : List Byte) :
    MemOk (writeVa s b fn va l).state? :=
  writePerm_memOk h ..

theorem ringTake_wf {s : State} (h : s.mem.wf = true) (p k : Nat) : (ringTake s p k).1.mem.wf = true := by
  unfold ringTake
  dsimp only
  split <;> simp [h, ringSkip_wf]

@[simp] theorem State.modC_mem (s : State) (k : Nat) (f : Core → Core) : (s.modC k f).mem = s.mem := rfl

@[simp] theorem State.modQ_mem (s : State) (x q : Nat) (f : Queue → Queue) : (s.modQ x q f).mem = s.mem := rfl

@[simp] theorem State.modInst_mem (s : State) (k : InstKey) (f : Inst → Inst) : (s.modInst k f).mem = s.mem := rfl

@[simp] theorem State.sendMembers_mem (s : State) (fn : Nat) (t : PgTable) (kind : Nat) (aux : W64)
    (payload : List Byte) : (s.sendMembers fn t kind aux payload).mem = s.mem := by
  unfold State.sendMembers
  refine foldl_mem fun s e => ?_
  rfl

@[simp] theorem State.barCast_mem (s : State) (x b : Nat) (id : W32) (pay : List Byte) (u : BarUpdate) :
    (s.barCast x b id pay u).mem = s.mem := by
  unfold State.barCast
  split
  · dsimp only
    refine (foldl_mem fun s e => ?_).trans ?_
    · rfl
    · simp
  · dsimp only
    refine foldl_mem fun s e => ?_
    rfl

@[simp] theorem fireMsix_mem (s : State) (x : Nat) : (fireMsix s x).mem = s.mem := rfl

@[simp] theorem haltAt_mem (s : State) (k : Nat) (st : StreamId) (f : StopInfo) : (haltAt s k st f).mem = s.mem := by
  unfold haltAt
  simp

theorem trySat_memOk {s : State} (h : s.mem.wf = true) (x slot n nans : Nat) :
    MemOk (trySat s x slot n nans).state? := by
  unfold trySat
  dsimp only
  split
  · exact .some h
  · exact .none
  · split
    · refine .some ?_
      rename_i t1 hw1
      have w1 : t1.mem.wf = true := (writeVa_memOk h ..).of_eq hw1
      exact w1
    · exact .none
    · exact .some h

theorem satEvent_wf {s : State} (h : s.mem.wf = true) (x slot src : Nat) (act : BitVec 2) (count : W32) :
    (satEvent s x slot src act count).mem.wf = true := by
  unfold satEvent
  split
  · exact postEvent_wf h ..
  · exact h

@[simp] theorem haltOp_mem (s : State) (x slot : Nat) : (haltOp s x slot).mem = s.mem := by
  unfold haltOp
  simp

theorem devTry_memOk {s : State} (h : s.mem.wf = true) (e : DevPend) : MemOk (devTry s e).state? := by
  unfold devTry
  split
  · split
    · exact .some h
    · split
      · exact .none
      · split
        · refine .some ?_
          rename_i t1 hw1
          have w1 : t1.mem.wf = true := mergeVa_wf h hw1
          exact w1
        · exact .some h
        · exact .none
  · split
    · exact .some h
    · split
      · exact .none
      · split
        · refine .some ?_
          rename_i t1 hw1
          have w1 : t1.mem.wf = true := (writeVa_memOk h ..).of_eq hw1
          exact w1
        · exact .some h
        · exact .none
  · split
    · exact .some (eventLost_wf h ..)
    · split
      · exact .none
      · split
        · refine .some ?_
          rename_i t1 hw1
          have w1 : t1.mem.wf = true := (tryEvent_memOk h ..).of_eq hw1
          exact w1
        · refine .some ?_
          rename_i t1 hw1
          have w1 : t1.mem.wf = true := (tryEvent_memOk h ..).of_eq hw1
          exact w1
        · exact .none
  · split
    · exact .some h
    · split
      · exact .none
      · refine .some ?_
        rename_i t1 hw1
        have w1 : t1.mem.wf = true := (trySat_memOk h ..).of_eq hw1
        exact w1
      · dsimp only
        refine .some ?_
        rename_i t1 _ _ hw1
        have w1 : t1.mem.wf = true := (trySat_memOk h ..).of_eq hw1
        repeat' split
        all_goals simp [w1, satEvent_wf]

theorem result_memOk {s : State} (h : s.mem.wf = true) (st : StreamId) (d : BitVec 7) (w lat : Nat) (v : W128)
    (pred : Bool) : MemOk (result s st d w lat v pred).state? := by
  unfold result
  dsimp only
  exact .some h

theorem noResult_memOk {s : State} (h : s.mem.wf = true) : MemOk (noResult s).state? := .some h

theorem vresult_memOk {s : State} (h : s.mem.wf = true) (d : BitVec 7) (w lat : Nat) (mask : W64) (l : List W64)
    (pred : Bool) : MemOk (vresult s d w lat mask l pred).state? := by
  unfold vresult
  dsimp only
  exact .some h

/-! ### Cached translations (R364, R365) -/

@[simp] theorem purgeTlb_mem (s : State) (p : Nat → W64 → Nat → Bool) : (purgeTlb s p).mem = s.mem := rfl

@[simp] theorem purgePage_mem (s : State) (fn : Nat) (va : W64) : (purgePage s fn va).mem = s.mem := rfl

@[simp] theorem benchMiss_mem (s : State) (b fn : Nat) (va : W64) : (benchMiss s b fn va).mem = s.mem := by
  unfold benchMiss
  dsimp only
  split <;> rfl

@[simp] theorem noteMiss_mem (s : State) (v : Via) (fn : Nat) (va : W64) : (noteMiss s v fn va).mem = s.mem := by
  unfold noteMiss
  split
  · rfl
  · dsimp only
    split
    · rfl
    · simp
  · dsimp only
    split
    · rfl
    · split
      · rfl
      · simp

@[simp] theorem counterTake_mem (s : State) (fn : Nat) (va e : W64) : (counterTake s fn va e).mem = s.mem := by
  unfold counterTake
  dsimp only
  repeat' split
  all_goals rfl

@[simp] theorem counterDrop_mem (s : State) (fn : Nat) (va : W64) : (counterDrop s fn va).mem = s.mem := rfl

@[simp] theorem counterSync_mem (s : State) (fn : Nat) (va e : W64) : (counterSync s fn va e).mem = s.mem := by
  unfold counterSync
  split
  · dsimp only
    split
    · rfl
    · simp
  · dsimp only
    split
    · rfl
    · rfl

/-! ### Moves (R366, R367) -/

theorem zeroFill_wf {s : State} (h : s.mem.wf = true) (key : Nat) (pa : W64) : (zeroFill s key pa).mem.wf = true := by
  unfold zeroFill
  simp [h, Memory.wf_zeroFrame, Memory.wf_setOwner]

theorem moveBegin_wf {s : State} (h : s.mem.wf = true) (m : PageMove) : (moveBegin s m).mem.wf = true := by
  unfold moveBegin
  split <;> simp [h, State.wf_paStore]

theorem moveQueue_wf {s : State} (h : s.mem.wf = true) (m : PageMove) : (moveQueue s m).mem.wf = true := by
  unfold moveQueue
  split
  · exact h
  · exact moveBegin_wf h ..

theorem giveBack_wf {s : State} (h : s.mem.wf = true) (fn : Nat) (frame : Option W64) :
    (giveBack s fn frame).mem.wf = true := by
  unfold giveBack
  split
  · exact ringReturn_wf h ..
  · exact h

theorem ownRows_wf {s : State} (h : s.mem.wf = true) (fn pa : Nat) : (ownRows s fn pa).mem.wf = true := by
  unfold ownRows
  simp [h, State.wf_paStore]

@[simp] theorem moveLocks_mem (s : State) (fn : Nat) (va : W64) (new : Option Nat) :
    (moveLocks s fn va new).mem = s.mem := rfl

theorem moveToHbm_wf {s : State} (h : s.mem.wf = true) (fn : Nat) (va : W64) (entryPa : Nat) (e : W64) :
    (moveToHbm s fn va entryPa e).mem.wf = true := by
  unfold moveToHbm
  split
  · rename_i t1 hw1
    have w1 : t1.mem.wf = true := fst_wf (ringTake_wf h ..) hw1
    exact w1
  · rename_i t1 _ hw1
    have w1 : t1.mem.wf = true := fst_wf (ringTake_wf h ..) hw1
    simp [w1, moveBegin_wf]

theorem countAccess_wf {s : State} (h : s.mem.wf = true) (fn : Nat) (va : W64) :
    (countAccess s fn va).mem.wf = true := by
  unfold countAccess
  split
  · exact h
  · dsimp only
    split
    · simp [h]
    · split
      · simp [h]
      · split
        · simp [h, moveToHbm_wf]
        · simp [h]

theorem countLines_wf {s : State} (h : s.mem.wf = true) (fn : Nat) (va : W64) (n : Nat) :
    (countLines s fn va n).mem.wf = true := by
  unfold countLines
  refine foldl_wf (fun s e h => ?_) ?_
  · simp [h, countAccess_wf]
  · exact h

@[simp] theorem enterFault_mem (s : State) (k : Nat) (st : StreamId) (op : Option (Nat × Nat)) (fn : Nat) (va : W64)
    (write : Bool) : (enterFault s k st op fn va write).mem = s.mem := by
  unfold enterFault
  dsimp only
  split <;> rfl

@[simp] theorem dropFaults_mem (s : State) (p : FaultEntry → Bool) : (dropFaults s p).mem = s.mem := rfl

@[simp] theorem failPage_mem (s : State) (fn : Nat) (va : W64) (code : Byte) :
    (failPage s fn va code).mem = s.mem := rfl

@[simp] theorem noteAccess_mem (s : State) (va : W64) : (noteAccess s va).mem = s.mem := by
  unfold noteAccess
  simp

theorem readCore_memOk {s : State} (h : s.mem.wf = true) (st : StreamId) (p : Perm) (va : W64) (n : Nat) :
    MemOk (readCore s st p va n).state? := by
  unfold readCore
  dsimp only
  split
  · exact .some h
  · split
    · exact .none
    · exact .some (by simp [h])
    · exact .some h

theorem coreRead_memOk {s : State} (h : s.mem.wf = true) (st : StreamId) (p : Perm) (va : W64) (n : Nat)
    (k : State → List Byte → Act) (hk : ∀ t y1, t.mem.wf = true → MemOk (k t y1).state?) :
    MemOk (coreRead s st p va n k).state? := by
  unfold coreRead
  split
  · refine .some ?_
    rename_i t1 hw1
    have w1 : t1.mem.wf = true := (readCore_memOk h ..).of_eq hw1
    exact w1
  · exact .none
  · rename_i t1 _ hw1
    have w1 : t1.mem.wf = true := (readCore_memOk h ..).of_eq hw1
    exact hk _ _ w1

/-! ### Lock words (R191-R193) -/

theorem grantLock_wf {s : State} (h : s.mem.wf = true) (pa : Nat) : (grantLock s pa).mem.wf = true := by
  unfold grantLock
  split
  · exact h
  · split
    · dsimp only
      split
      · exact h
      · simp [h, State.wf_paStore]
    · dsimp only
      split
      · exact h
      · simp [h, State.wf_paStore]

theorem lockCheck_wf {s : State} (h : s.mem.wf = true) (pa n : Nat) : (lockCheck s pa n).mem.wf = true := by
  unfold lockCheck
  refine foldl_wf (fun s e h => ?_) ?_
  · simp [h, grantLock_wf]
  · exact h

theorem writeCore_memOk {s : State} (h : s.mem.wf = true) (st : StreamId) (va : W64) (l : List Byte) :
    MemOk (writeCore s st va l).state? := by
  unfold writeCore
  dsimp only
  split
  · exact .some h
  · split
    · exact .none
    · exact .some (by simp [h])
    · refine .some ?_
      rename_i t1 hw1
      have w1 : t1.mem.wf = true := (writeVa_memOk h ..).of_eq hw1
      repeat' split
      all_goals simp [w1, countLines_wf, lockCheck_wf]

theorem coreWrite_memOk {s : State} (h : s.mem.wf = true) (st : StreamId) (va : W64) (l : List Byte)
    (k : State → Act) (hk : ∀ t, t.mem.wf = true → MemOk (k t).state?) : MemOk (coreWrite s st va l k).state? := by
  unfold coreWrite
  split
  · refine .some ?_
    rename_i t1 hw1
    have w1 : t1.mem.wf = true := (writeCore_memOk h ..).of_eq hw1
    exact w1
  · exact .none
  · rename_i t1 _ hw1
    have w1 : t1.mem.wf = true := (writeCore_memOk h ..).of_eq hw1
    exact hk _ w1

theorem drainDev_wf {s : State} (h : s.mem.wf = true) (l : List DevPend) : (drainDev l s).mem.wf = true := by
  induction l generalizing s with
  | nil => exact h
  | cons e l ih =>
    unfold drainDev
    refine ih ?_
    split
    · rename_i t hw
      exact (devTry_memOk h e).of_eq hw
    · exact h

theorem moveEnd_wf {s : State} (h : s.mem.wf = true) (m : PageMove) : (moveEnd s m).mem.wf = true := by
  unfold moveEnd
  dsimp only
  split
  · simp [h, giveBack_wf]
  · refine giveBack_wf ?_ ..
    rw [purgePage_mem]
    split
    all_goals
      simp only [counterTake_mem, moveLocks_mem]
      refine State.wf_paStore ?_ _ _
      split
      · exact h
      · simp [h, zeroFill_wf, Memory.wf_storeList]

@[simp] theorem dbgWrite_mem (s : State) (k : Nat) (v : W32) : (dbgWrite s k v).mem = s.mem := by
  unfold dbgWrite
  dsimp only
  repeat' split
  all_goals rfl

@[simp] theorem queueWrite_mem (s : State) (x q o : Nat) (v : W32) : (queueWrite s x q o v).mem = s.mem := by
  unfold queueWrite
  dsimp only
  repeat' split
  all_goals rfl

@[simp] theorem mailCommand_mem (s : State) (v : W32) : (mailCommand s v).mem = s.mem := by
  unfold mailCommand
  repeat' split
  all_goals rfl

@[simp] theorem mailWrite_mem (s : State) (o : Nat) (v : W32) : (mailWrite s o v).mem = s.mem := by
  unfold mailWrite
  repeat' split
  all_goals simp

@[simp] theorem State.modPort_mem (s : State) (q : Nat) (f : Port → Port) : (s.modPort q f).mem = s.mem := rfl

@[simp] theorem portWrite_mem (s : State) (q : Nat) (v : W32) : (portWrite s q v).mem = s.mem := by
  unfold portWrite
  repeat' split
  all_goals rfl

theorem slotWrite_memOk {s : State} (h : s.mem.wf = true) (o : Nat) (v : W32) : MemOk (slotWrite s o v) := by
  unfold slotWrite
  dsimp only
  split
  · refine .some ?_
    split
    · simp [h]
    · exact h
  · split
    · exact .some h
    · split
      · exact .some h
      · split
        · split
          · exact .some h
          · split
            · exact .some h
            · split
              · exact .some h
              · exact .some h
        · exact .none

@[simp] theorem hostWrite_mem (s : State) (x a : Nat) (v : W32) : (hostWrite s x a v).mem = s.mem := by
  unfold hostWrite
  repeat' split
  all_goals simp

/-! ### Writing -/

@[simp] theorem scanCommand_mem (s : State) (v : W32) : (scanCommand s v).mem = s.mem := by
  unfold scanCommand
  dsimp only
  split <;> rfl

@[simp] theorem ctxCommand_mem (s : State) (v : W32) : (ctxCommand s v).mem = s.mem := by
  unfold ctxCommand
  dsimp only
  repeat' split
  all_goals rfl

@[simp] theorem tlbiCommand_mem (s : State) (v : W32) : (tlbiCommand s v).mem = s.mem := by
  unfold tlbiCommand
  dsimp only
  split <;> rfl

@[simp] theorem pctlWrite_mem (s : State) (a p : Nat) (v : W32) : (pctlWrite s a p v).mem = s.mem := by
  unfold pctlWrite
  dsimp only
  repeat' split
  all_goals rfl

/-- A register write changes registers and posts events; none of them writes memory (R126, R325, R338, R341, R365). -/
theorem regWrite_memOk {s : State} (h : s.mem.wf = true) (who : Accessor) (a : Nat) (v : W32) :
    MemOk (regWrite s who a v) := by
  unfold regWrite
  refine MemOk.ite .none <| MemOk.ite (.of_mem h (dbgWrite_mem ..)) <| MemOk.ite (.some h) <| MemOk.ite (.some h) <|
    MemOk.ite (.of_mem h ?queue) <| MemOk.ite (.of_mem h ?window) <| MemOk.ite (.of_mem h (pctlWrite_mem ..)) <|
    MemOk.ite (.some h) <| MemOk.ite (.of_mem h (ctxCommand_mem ..)) <| MemOk.ite (.of_mem h (tlbiCommand_mem ..)) <|
    MemOk.ite (.some h) <| MemOk.ite (.some h) <| MemOk.ite (.of_mem h (scanCommand_mem ..)) <| MemOk.ite (.some h) <|
    MemOk.ite (MemOk.ite (.of_mem h ?ring) (.some h)) <| MemOk.ite (.of_mem h (portWrite_mem ..)) <|
    MemOk.ite (slotWrite_memOk h ..) <| MemOk.ite (.of_mem h ?device) <| MemOk.ite (.of_mem h (dcPut_mem ..)) <|
    MemOk.ite (.some h) .none
  case queue =>
    split
    · exact queueWrite_mem ..
    · rfl
  case window =>
    split
    · rfl
    · rfl
  case ring =>
    split
    · rfl
    · split
      · rfl
      · rfl
  case device =>
    split
    · rfl
    · split
      · rfl
      · rfl

/-! ### The shapes of integer words -/

theorem int2_memOk {s : State} (h : s.mem.wf = true) (st : StreamId) (o : FR) (lat : Nat) (f : Alu2) :
    MemOk (int2 st o lat f s).state? :=
  withSrc_memOk h _ _ _ fun _ => by simp [h, result_memOk, withSrc_memOk]

theorem intC_memOk {s : State} (h : s.mem.wf = true) (st : StreamId) (o : FR) (lat : Nat) (f : AluC) :
    MemOk (intC st o lat f s).state? :=
  withSrc_memOk h _ _ _ fun _ => by simp [h, result_memOk, with32_memOk]

theorem int1_memOk {s : State} (h : s.mem.wf = true) (st : StreamId) (o : FR) (lat : Nat) (f : Alu1) :
    MemOk (int1 st o lat f s).state? := by
  unfold int1
  simp [h, result_memOk, withSrc_memOk]

theorem cmpAct_memOk {s : State} (h : s.mem.wf = true) (st : StreamId) (o : FR) : MemOk (cmpAct st o s).state? := by
  unfold cmpAct
  dsimp only
  exact withSrc_memOk h _ _ _ fun _ => by simp [h, result_memOk, withSrc_memOk]

theorem extAct_memOk {s : State} (h : s.mem.wf = true) (st : StreamId) (o : FR) (w : Nat) :
    MemOk (extAct st o w s).state? := by
  unfold extAct
  simp [h, result_memOk, with32_memOk]

/-! ### The words of S -/

theorem execAdd_memOk {s : State} (h : s.mem.wf = true) (hd : Hdr) (o : FR) : MemOk (outState? (execAdd hd o s)) :=
  runWord_memOk h fun _ h1 => by simp [h1, int2_memOk]

theorem execSub_memOk {s : State} (h : s.mem.wf = true) (hd : Hdr) (o : FR) : MemOk (outState? (execSub hd o s)) :=
  runWord_memOk h fun _ h1 => by simp [h1, int2_memOk]

theorem execMul_memOk {s : State} (h : s.mem.wf = true) (hd : Hdr) (o : FR) : MemOk (outState? (execMul hd o s)) :=
  runWord_memOk h fun _ h1 => by simp [h1, int2_memOk]

theorem execMulh_memOk {s : State} (h : s.mem.wf = true) (hd : Hdr) (o : FR) : MemOk (outState? (execMulh hd o s)) :=
  runWord_memOk h fun _ h1 => by simp [h1, int2_memOk]

theorem execDiv_memOk {s : State} (h : s.mem.wf = true) (hd : Hdr) (o : FR) : MemOk (outState? (execDiv hd o s)) :=
  runWord_memOk h fun _ h1 => by simp [h1, int2_memOk]

theorem execRem_memOk {s : State} (h : s.mem.wf = true) (hd : Hdr) (o : FR) : MemOk (outState? (execRem hd o s)) :=
  runWord_memOk h fun _ h1 => by simp [h1, int2_memOk]

theorem execMin_memOk {s : State} (h : s.mem.wf = true) (hd : Hdr) (o : FR) : MemOk (outState? (execMin hd o s)) :=
  runWord_memOk h fun _ h1 => by simp [h1, int2_memOk]

theorem execMax_memOk {s : State} (h : s.mem.wf = true) (hd : Hdr) (o : FR) : MemOk (outState? (execMax hd o s)) :=
  runWord_memOk h fun _ h1 => by simp [h1, int2_memOk]

theorem execAnd_memOk {s : State} (h : s.mem.wf = true) (hd : Hdr) (o : FR) : MemOk (outState? (execAnd hd o s)) :=
  runWord_memOk h fun _ h1 => by simp [h1, int2_memOk]

theorem execOr_memOk {s : State} (h : s.mem.wf = true) (hd : Hdr) (o : FR) : MemOk (outState? (execOr hd o s)) :=
  runWord_memOk h fun _ h1 => by simp [h1, int2_memOk]

theorem execXor_memOk {s : State} (h : s.mem.wf = true) (hd : Hdr) (o : FR) : MemOk (outState? (execXor hd o s)) :=
  runWord_memOk h fun _ h1 => by simp [h1, int2_memOk]

theorem execAndn_memOk {s : State} (h : s.mem.wf = true) (hd : Hdr) (o : FR) : MemOk (outState? (execAndn hd o s)) :=
  runWord_memOk h fun _ h1 => by simp [h1, int2_memOk]

theorem execShl_memOk {s : State} (h : s.mem.wf = true) (hd : Hdr) (o : FR) : MemOk (outState? (execShl hd o s)) :=
  runWord_memOk h fun _ h1 => by simp [h1, intC_memOk]

theorem execShr_memOk {s : State} (h : s.mem.wf = true) (hd : Hdr) (o : FR) : MemOk (outState? (execShr hd o s)) :=
  runWord_memOk h fun _ h1 => by simp [h1, intC_memOk]

theorem execSar_memOk {s : State} (h : s.mem.wf = true) (hd : Hdr) (o : FR) : MemOk (outState? (execSar hd o s)) :=
  runWord_memOk h fun _ h1 => by simp [h1, intC_memOk]

theorem execRot_memOk {s : State} (h : s.mem.wf = true) (hd : Hdr) (o : FR) : MemOk (outState? (execRot hd o s)) :=
  runWord_memOk h fun _ h1 => by simp [h1, intC_memOk]

theorem execBfx_memOk {s : State} (h : s.mem.wf = true) (hd : Hdr) (o : FR) : MemOk (outState? (execBfx hd o s)) :=
  runWord_memOk h fun _ h1 => by simp [h1, intC_memOk]

theorem execClz_memOk {s : State} (h : s.mem.wf = true) (hd : Hdr) (o : FR) : MemOk (outState? (execClz hd o s)) :=
  runWord_memOk h fun _ h1 => by simp [h1, int1_memOk]

theorem execCtz_memOk {s : State} (h : s.mem.wf = true) (hd : Hdr) (o : FR) : MemOk (outState? (execCtz hd o s)) :=
  runWord_memOk h fun _ h1 => by simp [h1, int1_memOk]

theorem execPopc_memOk {s : State} (h : s.mem.wf = true) (hd : Hdr) (o : FR) : MemOk (outState? (execPopc hd o s)) :=
  runWord_memOk h fun _ h1 => by simp [h1, int1_memOk]

theorem execMov_memOk {s : State} (h : s.mem.wf = true) (hd : Hdr) (o : FR) : MemOk (outState? (execMov hd o s)) :=
  runWord_memOk h fun _ h1 => by simp [h1, int1_memOk]

theorem execMad_memOk {s : State} (h : s.mem.wf = true) (hd : Hdr) (o : FR) : MemOk (outState? (execMad hd o s)) := by
  unfold execMad
  refine runWord_memOk h fun _ h1 => ?_
  exact withSrc_memOk (by simp [h1]) _ _ _ fun _ => withSrc_memOk (by simp [h1]) _ _ _ fun _ => by simp
    [h1, result_memOk, withSrc_memOk]

theorem execBfi_memOk {s : State} (h : s.mem.wf = true) (hd : Hdr) (o : FR) : MemOk (outState? (execBfi hd o s)) := by
  unfold execBfi
  refine runWord_memOk h fun _ h1 => ?_
  exact withSrc_memOk (by simp [h1]) _ _ _ fun _ => withSrc_memOk (by simp [h1]) _ _ _ fun _ => by simp
    [h1, result_memOk, with32_memOk]

theorem execExt_memOk {s : State} (h : s.mem.wf = true) (hd : Hdr) (o : FR) : MemOk (outState? (execExt hd o s)) := by
  unfold execExt
  split <;> exact runWord_memOk h fun _ h1 => by simp [h1, extAct_memOk]

theorem execSel_memOk {s : State} (h : s.mem.wf = true) (hd : Hdr) (o : FR) : MemOk (outState? (execSel hd o s)) := by
  unfold execSel
  refine runWord_memOk h fun _ h1 => ?_
  refine with32_memOk (by simp [h1]) _ _ fun _ => ?_
  split
  · exact withSrc_memOk (by simp [h1]) _ _ _ fun _ => by simp [h1, result_memOk, withSrc_memOk]
  · exact withSrc_memOk (by simp [h1]) _ _ _ fun _ => by simp [h1, result_memOk, withSrc_memOk]

theorem execCmp_memOk {s : State} (h : s.mem.wf = true) (hd : Hdr) (o : FR) : MemOk (outState? (execCmp hd o s)) :=
  runWord_memOk h fun _ h1 => by simp [h1, cmpAct_memOk]

theorem execMovi_memOk {s : State} (h : s.mem.wf = true) (hd : Hdr) (o : FI) : MemOk (outState? (execMovi hd o s)) :=
  runWord_memOk h fun _ h1 => by simp [h1, result_memOk]

theorem execMovh_memOk {s : State} (h : s.mem.wf = true) (hd : Hdr) (o : FI) : MemOk (outState? (execMovh hd o s)) :=
  runWord_memOk h fun _ h1 => by simp [h1, result_memOk, with32_memOk]

theorem execKeep_memOk {s : State} (h : s.mem.wf = true) (hd : Hdr) (o : FR) : MemOk (outState? (execKeep hd o s)) := by
  unfold execKeep
  split
  · refine runWord_memOk h fun _ h1 => ?_
    refine withSrc_memOk (by simp [h1]) _ _ _ fun _ => ?_
    refine with32_memOk (by simp [h1]) _ _ fun _ => ?_
    split
    · simp [h1, result_memOk]
    · simp [h1, result_memOk, withSrc_memOk]
  · refine runWord_memOk h fun _ h1 => ?_
    refine withSrc_memOk (by simp [h1]) _ _ _ fun _ => ?_
    refine with32_memOk (by simp [h1]) _ _ fun _ => ?_
    split
    · simp [h1, result_memOk]
    · simp [h1, result_memOk]

theorem predAct_memOk {s : State} (h : s.mem.wf = true) (o : FR) (f : Bool → Bool → Bool) :
    MemOk (predAct o f s).state? :=
  with32_memOk h _ _ fun _ => by simp [h, result_memOk, with32_memOk]

theorem execPand_memOk {s : State} (h : s.mem.wf = true) (hd : Hdr) (o : FR) : MemOk (outState? (execPand hd o s)) :=
  runWord_memOk h fun _ h1 => by simp [h1, predAct_memOk]

theorem execPor_memOk {s : State} (h : s.mem.wf = true) (hd : Hdr) (o : FR) : MemOk (outState? (execPor hd o s)) :=
  runWord_memOk h fun _ h1 => by simp [h1, predAct_memOk]

theorem execPxor_memOk {s : State} (h : s.mem.wf = true) (hd : Hdr) (o : FR) : MemOk (outState? (execPxor hd o s)) :=
  runWord_memOk h fun _ h1 => by simp [h1, predAct_memOk]

theorem execPnot_memOk {s : State} (h : s.mem.wf = true) (hd : Hdr) (o : FR) : MemOk (outState? (execPnot hd o s)) :=
  runWord_memOk h fun _ h1 => by simp [h1, result_memOk, with32_memOk]

theorem float2_memOk {s : State} (h : s.mem.wf = true) (o : FR) (lat : Nat) (f : BitVec 2 → W32 → W32 → W32) :
    MemOk (float2 o lat f s).state? :=
  with32_memOk h _ _ fun _ => by simp [h, result_memOk, with32_memOk]

theorem execFadd_memOk {s : State} (h : s.mem.wf = true) (hd : Hdr) (o : FR) : MemOk (outState? (execFadd hd o s)) :=
  runWord_memOk h fun _ h1 => by simp [h1, float2_memOk]

theorem execFsub_memOk {s : State} (h : s.mem.wf = true) (hd : Hdr) (o : FR) : MemOk (outState? (execFsub hd o s)) :=
  runWord_memOk h fun _ h1 => by simp [h1, float2_memOk]

theorem execFmul_memOk {s : State} (h : s.mem.wf = true) (hd : Hdr) (o : FR) : MemOk (outState? (execFmul hd o s)) :=
  runWord_memOk h fun _ h1 => by simp [h1, float2_memOk]

theorem execFfma_memOk {s : State} (h : s.mem.wf = true) (hd : Hdr) (o : FR) : MemOk (outState? (execFfma hd o s)) := by
  unfold execFfma
  refine runWord_memOk h fun _ h1 => ?_
  exact with32_memOk (by simp [h1]) _ _ fun _ => with32_memOk (by simp [h1]) _ _ fun _ => by simp
    [h1, result_memOk, with32_memOk]

theorem execFdiv_memOk {s : State} (h : s.mem.wf = true) (hd : Hdr) (o : FR) : MemOk (outState? (execFdiv hd o s)) :=
  runWord_memOk h fun _ h1 => by simp [h1, float2_memOk]

theorem execFsqrt_memOk {s : State} (h : s.mem.wf = true) (hd : Hdr) (o : FR) : MemOk (outState? (execFsqrt hd o s)) :=
  runWord_memOk h fun _ h1 => by simp [h1, result_memOk, with32_memOk]

theorem execFmin_memOk {s : State} (h : s.mem.wf = true) (hd : Hdr) (o : FR) : MemOk (outState? (execFmin hd o s)) :=
  runWord_memOk h fun _ h1 => by simp [h1, float2_memOk]

theorem execFmax_memOk {s : State} (h : s.mem.wf = true) (hd : Hdr) (o : FR) : MemOk (outState? (execFmax hd o s)) :=
  runWord_memOk h fun _ h1 => by simp [h1, float2_memOk]

theorem execFcmp_memOk {s : State} (h : s.mem.wf = true) (hd : Hdr) (o : FR) : MemOk (outState? (execFcmp hd o s)) :=
  runWord_memOk h fun _ h1 => with32_memOk (by simp [h1]) _ _ fun _ => by simp [h1, result_memOk, with32_memOk]

theorem execFcvt_memOk {s : State} (h : s.mem.wf = true) (hd : Hdr) (o : FR) : MemOk (outState? (execFcvt hd o s)) := by
  unfold execFcvt
  dsimp only
  exact runWord_memOk h fun _ h1 => withSrc_memOk (by simp [h1]) _ _ _ fun _ => by simp [h1, satWord_wf, result_memOk]

theorem execFclass_memOk {s : State} (h : s.mem.wf = true) (hd : Hdr) (o : FR) :
    MemOk (outState? (execFclass hd o s)) := by
  unfold execFclass
  split <;> exact runWord_memOk h fun _ h1 => by simp [h1, result_memOk, with32_memOk]

theorem vmap_memOk {s : State} (h : s.mem.wf = true) (o : FR) (n lat : Nat) (rm : BitVec 2)
    (f : Nat → W32 → W32 → W32 → W32) : MemOk (vmap o n lat rm f s).state? := by
  unfold vmap
  repeat' split
  all_goals exact withV_memOk _ _ _ fun _ => withV_memOk _ _ _ fun _ => by simp [h, vresult_memOk, withV_memOk]

theorem execVadd_memOk {s : State} (h : s.mem.wf = true) (hd : Hdr) (o : FR) : MemOk (outState? (execVadd hd o s)) :=
  runWord_memOk h fun _ h1 => by simp [h1, vmap_memOk]

theorem execVsub_memOk {s : State} (h : s.mem.wf = true) (hd : Hdr) (o : FR) : MemOk (outState? (execVsub hd o s)) :=
  runWord_memOk h fun _ h1 => by simp [h1, vmap_memOk]

theorem execVmul_memOk {s : State} (h : s.mem.wf = true) (hd : Hdr) (o : FR) : MemOk (outState? (execVmul hd o s)) :=
  runWord_memOk h fun _ h1 => by simp [h1, vmap_memOk]

theorem execVfma_memOk {s : State} (h : s.mem.wf = true) (hd : Hdr) (o : FR) : MemOk (outState? (execVfma hd o s)) :=
  runWord_memOk h fun _ h1 => by simp [h1, vmap_memOk]

theorem execVmin_memOk {s : State} (h : s.mem.wf = true) (hd : Hdr) (o : FR) : MemOk (outState? (execVmin hd o s)) :=
  runWord_memOk h fun _ h1 => by simp [h1, vmap_memOk]

theorem execVmax_memOk {s : State} (h : s.mem.wf = true) (hd : Hdr) (o : FR) : MemOk (outState? (execVmax hd o s)) :=
  runWord_memOk h fun _ h1 => by simp [h1, vmap_memOk]

theorem execVabs_memOk {s : State} (h : s.mem.wf = true) (hd : Hdr) (o : FR) : MemOk (outState? (execVabs hd o s)) :=
  runWord_memOk h fun _ h1 => by simp [h1, vmap_memOk]

theorem execVneg_memOk {s : State} (h : s.mem.wf = true) (hd : Hdr) (o : FR) : MemOk (outState? (execVneg hd o s)) :=
  runWord_memOk h fun _ h1 => by simp [h1, vmap_memOk]

theorem execVdiv_memOk {s : State} (h : s.mem.wf = true) (hd : Hdr) (o : FR) : MemOk (outState? (execVdiv hd o s)) :=
  runWord_memOk h fun _ h1 => by simp [h1, vmap_memOk]

theorem execVsqrt_memOk {s : State} (h : s.mem.wf = true) (hd : Hdr) (o : FR) : MemOk (outState? (execVsqrt hd o s)) :=
  runWord_memOk h fun _ h1 => by simp [h1, vmap_memOk]

theorem execVrcp_memOk {s : State} (h : s.mem.wf = true) (hd : Hdr) (o : FR) : MemOk (outState? (execVrcp hd o s)) :=
  runWord_memOk h fun _ h1 => by simp [h1, vmap_memOk]

theorem execVrsqrt_memOk {s : State} (h : s.mem.wf = true) (hd : Hdr) (o : FR) :
    MemOk (outState? (execVrsqrt hd o s)) :=
  runWord_memOk h fun _ h1 => by simp [h1, vmap_memOk]

theorem execVexp2_memOk {s : State} (h : s.mem.wf = true) (hd : Hdr) (o : FR) : MemOk (outState? (execVexp2 hd o s)) :=
  runWord_memOk h fun _ h1 => by simp [h1, vmap_memOk]

theorem execVlog2_memOk {s : State} (h : s.mem.wf = true) (hd : Hdr) (o : FR) : MemOk (outState? (execVlog2 hd o s)) :=
  runWord_memOk h fun _ h1 => by simp [h1, vmap_memOk]

theorem execVand_memOk {s : State} (h : s.mem.wf = true) (hd : Hdr) (o : FR) : MemOk (outState? (execVand hd o s)) :=
  runWord_memOk h fun _ h1 => by simp [h1, vmap_memOk]

theorem execVor_memOk {s : State} (h : s.mem.wf = true) (hd : Hdr) (o : FR) : MemOk (outState? (execVor hd o s)) :=
  runWord_memOk h fun _ h1 => by simp [h1, vmap_memOk]

theorem execVxor_memOk {s : State} (h : s.mem.wf = true) (hd : Hdr) (o : FR) : MemOk (outState? (execVxor hd o s)) :=
  runWord_memOk h fun _ h1 => by simp [h1, vmap_memOk]

theorem execVshl_memOk {s : State} (h : s.mem.wf = true) (hd : Hdr) (o : FR) : MemOk (outState? (execVshl hd o s)) :=
  runWord_memOk h fun _ h1 => by simp [h1, vmap_memOk]

theorem execVshr_memOk {s : State} (h : s.mem.wf = true) (hd : Hdr) (o : FR) : MemOk (outState? (execVshr hd o s)) :=
  runWord_memOk h fun _ h1 => by simp [h1, vmap_memOk]

theorem execVsar_memOk {s : State} (h : s.mem.wf = true) (hd : Hdr) (o : FR) : MemOk (outState? (execVsar hd o s)) :=
  runWord_memOk h fun _ h1 => by simp [h1, vmap_memOk]

theorem execVcmp_memOk {s : State} (h : s.mem.wf = true) (hd : Hdr) (o : FR) : MemOk (outState? (execVcmp hd o s)) := by
  unfold execVcmp
  split <;> exact runWord_memOk h fun _ h1 => withV_memOk _ _ _ fun _ => by simp [h1, vresult_memOk, withV_memOk]

theorem execVsel_memOk {s : State} (h : s.mem.wf = true) (hd : Hdr) (o : FR) : MemOk (outState? (execVsel hd o s)) :=
  runWord_memOk h fun _ h1 => by simp [h1, vmap_memOk]

theorem execVwadd_memOk {s : State} (h : s.mem.wf = true) (hd : Hdr) (o : FR) :
    MemOk (outState? (execVwadd hd o s)) := by
  unfold execVwadd
  dsimp only
  split <;> exact runWord_memOk h fun _ h1 => withV_memOk _ _ _ fun _ => by simp [h1, vresult_memOk, withV_memOk]

theorem execVwmul_memOk {s : State} (h : s.mem.wf = true) (hd : Hdr) (o : FR) : MemOk (outState? (execVwmul hd o s)) :=
  runWord_memOk h fun _ h1 => withV_memOk _ _ _ fun _ => by simp [h1, vresult_memOk, withV_memOk]

/-! ### Cross-lane words (R138, R139) -/

theorem execVscan_memOk {s : State} (h : s.mem.wf = true) (hd : Hdr) (o : FR) :
    MemOk (outState? (execVscan hd o s)) := by
  unfold execVscan
  repeat' split
  all_goals exact runWord_memOk h fun _ h1 => withV_memOk _ _ _ fun _ => by simp [h1, vresult_memOk, withV_memOk]

theorem execVred_memOk {s : State} (h : s.mem.wf = true) (hd : Hdr) (o : FR) : MemOk (outState? (execVred hd o s)) := by
  unfold execVred
  dsimp only
  exact runWord_memOk h fun _ h1 => withV_memOk _ _ _ fun _ => by simp [h1, vresult_memOk, withV_memOk]

theorem execVperm_memOk {s : State} (h : s.mem.wf = true) (hd : Hdr) (o : FR) :
    MemOk (outState? (execVperm hd o s)) := by
  unfold execVperm
  split <;> exact runWord_memOk h fun _ h1 => withV_memOk _ _ _ fun _ => withV_memOk _ _ _ fun _ => by simp
    [h1, vresult_memOk, withV_memOk]

theorem execVbcast_memOk {s : State} (h : s.mem.wf = true) (hd : Hdr) (o : FR) :
    MemOk (outState? (execVbcast hd o s)) :=
  runWord_memOk h fun _ h1 => withV_memOk _ _ _ fun _ => by simp [h1, vresult_memOk, withV_memOk]

theorem execVrot_memOk {s : State} (h : s.mem.wf = true) (hd : Hdr) (o : FR) : MemOk (outState? (execVrot hd o s)) := by
  unfold execVrot
  split <;> exact runWord_memOk h fun _ h1 => withV_memOk _ _ _ fun _ => by simp [h1, vresult_memOk, withV_memOk]

theorem execVcomp_memOk {s : State} (h : s.mem.wf = true) (hd : Hdr) (o : FR) :
    MemOk (outState? (execVcomp hd o s)) := by
  unfold execVcomp
  dsimp only
  exact runWord_memOk h fun _ h1 => withV_memOk _ _ _ fun _ => by simp [h1, vresult_memOk, withV_memOk]

/-! ### Conversions (R140-R143) -/

theorem withSlotV_memOk {s : State} (o : FR) (sp : BitVec 7) (k : Nat → Act) (hk : ∀ y, MemOk (k y).state?) :
    MemOk (withSlotV s o sp k).state? := by
  unfold withSlotV
  split
  · exact withV_memOk _ _ _ fun _ => hk ..
  · exact hk ..

theorem vconvEnd_memOk {s : State} (h : s.mem.wf = true) (o : FR) (w lat slot : Nat) (mask : W64) (gens : List W32)
    (r : List Narrowed) : MemOk (vconvEnd s o w lat slot mask gens r).state? := by
  unfold vconvEnd
  dsimp only
  simp [h, satWord_wf, vresult_memOk]

theorem execVcvt_memOk {s : State} (h : s.mem.wf = true) (hd : Hdr) (o : FR) : MemOk (outState? (execVcvt hd o s)) := by
  unfold execVcvt
  dsimp only
  exact runWord_memOk h fun _ h1 => withV_memOk _ _ _ fun _ => by simp [h1, vconvEnd_memOk, withSlotV_memOk]

theorem execVmxq_memOk {s : State} (h : s.mem.wf = true) (hd : Hdr) (o : FR) : MemOk (outState? (execVmxq hd o s)) := by
  unfold execVmxq
  dsimp only
  refine runWord_memOk h fun _ h1 => ?_
  refine withV_memOk _ _ _ fun _ => ?_
  split
  · dsimp only
    exact withSlotV_memOk _ _ _ fun _ => by simp [h1, satWord_wf, vresult_memOk]
  · exact withSlotV_memOk _ _ _ fun _ => by simp [h1, satWord_wf, vresult_memOk]

theorem execVmxd_memOk {s : State} (h : s.mem.wf = true) (hd : Hdr) (o : FR) : MemOk (outState? (execVmxd hd o s)) := by
  unfold execVmxd
  dsimp only
  exact runWord_memOk h fun _ h1 => by simp [h1, vresult_memOk, withV_memOk]

theorem execVsatr_memOk {s : State} (h : s.mem.wf = true) (hd : Hdr) (o : FR) :
    MemOk (outState? (execVsatr hd o s)) := by
  unfold execVsatr
  dsimp only
  exact runWord_memOk h fun _ h1 => withV_memOk _ _ _ fun _ => withV_memOk _ _ _ fun _ => by simp
    [h1, vconvEnd_memOk, withSlotV_memOk]

theorem execVseed_memOk {s : State} (h : s.mem.wf = true) (hd : Hdr) (o : FR) :
    MemOk (outState? (execVseed hd o s)) := by
  unfold execVseed
  dsimp only
  exact runWord_memOk h fun _ h1 => by simp [h1, noResult_memOk, withV_memOk]

theorem execVrand_memOk {s : State} (h : s.mem.wf = true) (hd : Hdr) (o : FR) :
    MemOk (outState? (execVrand hd o s)) := by
  unfold execVrand
  split <;> exact runWord_memOk h fun _ h1 => by simp [h1, vresult_memOk]

theorem execVpop_memOk {s : State} (h : s.mem.wf = true) (hd : Hdr) (o : FI) : MemOk (outState? (execVpop hd o s)) :=
  runWord_memOk h fun _ h1 => popOq_memOk (by simp [h1]) _ _ fun _ _ h2 => by simp [h2, vresult_memOk]

theorem execVmov_memOk {s : State} (h : s.mem.wf = true) (hd : Hdr) (o : FR) : MemOk (outState? (execVmov hd o s)) := by
  unfold execVmov
  split <;> exact runWord_memOk h fun _ h1 => by simp [h1, vresult_memOk, withV_memOk]

theorem execVins_memOk {s : State} (h : s.mem.wf = true) (hd : Hdr) (o : FR) : MemOk (outState? (execVins hd o s)) :=
  runWord_memOk h fun _ h1 => withV_memOk _ _ _ fun _ => withV_memOk _ _ _ fun _ => by simp
    [h1, vresult_memOk, withV_memOk]

/-! ### Vector predicates (R150) -/

theorem vpredAct_memOk {s : State} (h : s.mem.wf = true) (o : FR) (n : Nat) (f : Bool → Bool → Bool) :
    MemOk (vpredAct o n f s).state? := by
  unfold vpredAct
  split <;> exact withV_memOk _ _ _ fun _ => by simp [h, vresult_memOk, withV_memOk]

theorem execVpand_memOk {s : State} (h : s.mem.wf = true) (hd : Hdr) (o : FR) : MemOk (outState? (execVpand hd o s)) :=
  runWord_memOk h fun _ h1 => by simp [h1, vpredAct_memOk]

theorem execVpor_memOk {s : State} (h : s.mem.wf = true) (hd : Hdr) (o : FR) : MemOk (outState? (execVpor hd o s)) :=
  runWord_memOk h fun _ h1 => by simp [h1, vpredAct_memOk]

theorem execVpnot_memOk {s : State} (h : s.mem.wf = true) (hd : Hdr) (o : FR) : MemOk (outState? (execVpnot hd o s)) :=
  runWord_memOk h fun _ h1 => by simp [h1, vpredAct_memOk]

theorem execVpcnt_memOk {s : State} (h : s.mem.wf = true) (hd : Hdr) (o : FR) :
    MemOk (outState? (execVpcnt hd o s)) := by
  unfold execVpcnt
  dsimp only
  exact runWord_memOk h fun _ h1 => by simp [h1, vresult_memOk, withV_memOk]

theorem withTile_memOk {s : State} (h : s.mem.wf = true) (t : Nat) (k : Tile → Act) (hk : ∀ y, MemOk (k y).state?) :
    MemOk (withTile s t k).state? := by
  unfold withTile
  dsimp only
  split
  · exact .some h
  · split
    · exact .none
    · exact hk ..

theorem whenWritable_memOk {s : State} (h : s.mem.wf = true) (t : Nat) (k : Act) (hk : MemOk k.state?) :
    MemOk (whenWritable s t k).state? := by
  unfold whenWritable
  dsimp only
  split
  · exact .some h
  · exact hk

theorem tileWrite_memOk {s : State} (h : s.mem.wf = true) (t : Nat) (sh : TShape) (lat : Nat)
    (elems : List (Nat × W32)) (scales : List (Nat × Byte)) : MemOk (tileWrite s t sh lat elems scales).state? := by
  unfold tileWrite
  dsimp only
  exact .some h

/-! ### The words of the tile group (R206-R210) -/

theorem withDst_memOk {s : State} (h : s.mem.wf = true) (o : FT) (k : TShape → Act) (hk : ∀ y, MemOk (k y).state?) :
    MemOk (withDst s o k).state? := by
  unfold withDst
  dsimp only
  split
  · simp [tileType_memOk]
  · exact whenWritable_memOk h _ _ (hk ..)

theorem withSrcTile_memOk {s : State} (h : s.mem.wf = true) (t : BitVec 4) (k : TShape → Tile → Act)
    (hk : ∀ y y1, MemOk (k y y1).state?) : MemOk (withSrcTile s t k).state? := by
  unfold withSrcTile
  dsimp only
  split
  · simp [tileType_memOk]
  · exact withTile_memOk h _ _ fun _ => hk ..

theorem execTzero_memOk {s : State} (h : s.mem.wf = true) (hd : Hdr) (o : FT) :
    MemOk (outState? (execTzero hd o s)) := by
  unfold execTzero
  dsimp only
  exact runWord_memOk h fun _ h1 => by simp [h1, tileWrite_memOk, withDst_memOk]

theorem withSpad_memOk {s : State} (h : s.mem.wf = true) (o : FT) (n : Nat) (k : Nat → Act)
    (hk : ∀ y, MemOk (k y).state?) : MemOk (withSpad s o n k).state? := by
  unfold withSpad
  dsimp only
  refine with32_memOk h _ _ fun _ => ?_
  split
  · exact .none
  · split
    · exact .none
    · exact hk ..

theorem execTmov_memOk {s : State} (h : s.mem.wf = true) (hd : Hdr) (o : FT) : MemOk (outState? (execTmov hd o s)) := by
  unfold execTmov
  dsimp only
  split
  · dsimp only
    refine runWord_memOk h fun _ h1 => ?_
    refine withDst_memOk (by simp [h1]) _ _ fun _ => ?_
    refine withSrcTile_memOk (by simp [h1]) _ _ fun _ _ => ?_
    split
    · simp [tileType_memOk]
    · simp [h1, tileWrite_memOk]
  · dsimp only
    refine runWord_memOk h fun _ h1 => ?_
    refine withDst_memOk (by simp [h1]) _ _ fun _ => ?_
    refine withSrcTile_memOk (by simp [h1]) _ _ fun _ _ => ?_
    split
    · simp [tileType_memOk]
    · simp [h1, tileWrite_memOk]

theorem execTfill_memOk {s : State} (h : s.mem.wf = true) (hd : Hdr) (o : FT) :
    MemOk (outState? (execTfill hd o s)) := by
  unfold execTfill
  dsimp only
  exact runWord_memOk h fun _ h1 => withDst_memOk (by simp [h1]) _ _ fun _ => by simp
    [h1, tileWrite_memOk, with32_memOk]

theorem execTcvt_memOk {s : State} (h : s.mem.wf = true) (hd : Hdr) (o : FT) : MemOk (outState? (execTcvt hd o s)) := by
  unfold execTcvt
  split
  · split
    · dsimp only
      refine runWord_memOk h fun _ h1 => ?_
      refine withDst_memOk (by simp [h1]) _ _ fun _ => ?_
      split
      · refine withSrcTile_memOk (by simp [h1]) _ _ fun _ _ => ?_
        split
        · simp [tileType_memOk]
        · exact withSrc_memOk (by simp [h1]) _ _ _ fun _ => by simp [h1, satWord_wf, tileWrite_memOk]
      · refine withSrcTile_memOk (by simp [h1]) _ _ fun _ _ => ?_
        split
        · simp [tileType_memOk]
        · exact withSrc_memOk (by simp [h1]) _ _ _ fun _ => by simp [h1, satWord_wf, tileWrite_memOk]
    · dsimp only
      refine runWord_memOk h fun _ h1 => ?_
      refine withDst_memOk (by simp [h1]) _ _ fun _ => ?_
      split
      · refine withSrcTile_memOk (by simp [h1]) _ _ fun _ _ => ?_
        split
        · simp [tileType_memOk]
        · exact withSrc_memOk (by simp [h1]) _ _ _ fun _ => by simp [h1, satWord_wf, tileWrite_memOk]
      · refine withSrcTile_memOk (by simp [h1]) _ _ fun _ _ => ?_
        split
        · simp [tileType_memOk]
        · exact withSrc_memOk (by simp [h1]) _ _ _ fun _ => by simp [h1, satWord_wf, tileWrite_memOk]
  · split
    · dsimp only
      refine runWord_memOk h fun _ h1 => ?_
      refine withDst_memOk (by simp [h1]) _ _ fun _ => ?_
      split
      · refine withSrcTile_memOk (by simp [h1]) _ _ fun _ _ => ?_
        split
        · simp [tileType_memOk]
        · exact withSrc_memOk (by simp [h1]) _ _ _ fun _ => by simp [h1, satWord_wf, tileWrite_memOk]
      · refine withSrcTile_memOk (by simp [h1]) _ _ fun _ _ => ?_
        split
        · simp [tileType_memOk]
        · exact withSrc_memOk (by simp [h1]) _ _ _ fun _ => by simp [h1, satWord_wf, tileWrite_memOk]
    · dsimp only
      refine runWord_memOk h fun _ h1 => ?_
      refine withDst_memOk (by simp [h1]) _ _ fun _ => ?_
      split
      · refine withSrcTile_memOk (by simp [h1]) _ _ fun _ _ => ?_
        split
        · simp [tileType_memOk]
        · exact withSrc_memOk (by simp [h1]) _ _ _ fun _ => by simp [h1, satWord_wf, tileWrite_memOk]
      · refine withSrcTile_memOk (by simp [h1]) _ _ fun _ _ => ?_
        split
        · simp [tileType_memOk]
        · exact withSrc_memOk (by simp [h1]) _ _ _ fun _ => by simp [h1, satWord_wf, tileWrite_memOk]

theorem tileArith_memOk {s : State} (h : s.mem.wf = true) (o : FT) (f : BitVec 2 → Nat → W32 → W32 → W32)
    (g : W32 → W32 → W32) : MemOk (tileArith o f g s).state? := by
  unfold tileArith
  dsimp only
  split
  · split
    · refine withDst_memOk h _ _ fun _ => ?_
      split
      · refine withSrcTile_memOk h _ _ fun _ _ => ?_
        refine withSrcTile_memOk h _ _ fun _ _ => ?_
        split
        · simp [tileType_memOk]
        · simp [h, tileWrite_memOk]
      · refine withSrcTile_memOk h _ _ fun _ _ => ?_
        refine withSrcTile_memOk h _ _ fun _ _ => ?_
        split
        · simp [tileType_memOk]
        · simp [h, tileWrite_memOk]
    · refine withDst_memOk h _ _ fun _ => ?_
      split
      · refine withSrcTile_memOk h _ _ fun _ _ => ?_
        refine withSrcTile_memOk h _ _ fun _ _ => ?_
        split
        · simp [tileType_memOk]
        · simp [h, tileWrite_memOk]
      · refine withSrcTile_memOk h _ _ fun _ _ => ?_
        refine withSrcTile_memOk h _ _ fun _ _ => ?_
        split
        · simp [tileType_memOk]
        · simp [h, tileWrite_memOk]
  · split
    · refine withDst_memOk h _ _ fun _ => ?_
      split
      · refine withSrcTile_memOk h _ _ fun _ _ => ?_
        refine withSrcTile_memOk h _ _ fun _ _ => ?_
        split
        · simp [tileType_memOk]
        · simp [h, tileWrite_memOk]
      · refine withSrcTile_memOk h _ _ fun _ _ => ?_
        refine withSrcTile_memOk h _ _ fun _ _ => ?_
        split
        · simp [tileType_memOk]
        · simp [h, tileWrite_memOk]
    · refine withDst_memOk h _ _ fun _ => ?_
      split
      · refine withSrcTile_memOk h _ _ fun _ _ => ?_
        refine withSrcTile_memOk h _ _ fun _ _ => ?_
        split
        · simp [tileType_memOk]
        · simp [h, tileWrite_memOk]
      · refine withSrcTile_memOk h _ _ fun _ _ => ?_
        refine withSrcTile_memOk h _ _ fun _ _ => ?_
        split
        · simp [tileType_memOk]
        · simp [h, tileWrite_memOk]

theorem execTadd_memOk {s : State} (h : s.mem.wf = true) (hd : Hdr) (o : FT) : MemOk (outState? (execTadd hd o s)) :=
  runWord_memOk h fun _ h1 => by simp [h1, tileArith_memOk]

theorem execTmul_memOk {s : State} (h : s.mem.wf = true) (hd : Hdr) (o : FT) : MemOk (outState? (execTmul hd o s)) :=
  runWord_memOk h fun _ h1 => by simp [h1, tileArith_memOk]

theorem execTscale_memOk {s : State} (h : s.mem.wf = true) (hd : Hdr) (o : FT) :
    MemOk (outState? (execTscale hd o s)) := by
  unfold execTscale
  dsimp only
  refine runWord_memOk h fun _ h1 => ?_
  refine withDst_memOk (by simp [h1]) _ _ fun _ => ?_
  split
  · refine withSrcTile_memOk (by simp [h1]) _ _ fun _ _ => ?_
    split
    · simp [h1, tileType_memOk, with32_memOk]
    · exact with32_memOk (by simp [h1]) _ _ fun _ => by simp [h1, satWord_wf, tileWrite_memOk]
  · refine withSrcTile_memOk (by simp [h1]) _ _ fun _ _ => ?_
    split
    · simp [h1, tileType_memOk, with32_memOk]
    · simp [h1, tileWrite_memOk, with32_memOk]

theorem tileReduce_memOk {s : State} (h : s.mem.wf = true) (o : FT) (f : W32 → W32 → W32) (unit : W32) :
    MemOk (tileReduce o f unit s).state? := by
  unfold tileReduce
  dsimp only
  refine withDst_memOk h _ _ fun _ => ?_
  refine withSrcTile_memOk h _ _ fun _ _ => ?_
  refine with32_memOk h _ _ fun _ => ?_
  split
  · simp [tileType_memOk]
  · exact tileWrite_memOk h ..

theorem execTrmax_memOk {s : State} (h : s.mem.wf = true) (hd : Hdr) (o : FT) :
    MemOk (outState? (execTrmax hd o s)) := by
  unfold execTrmax
  repeat' split
  all_goals exact runWord_memOk h fun _ h1 => by simp [h1, tileReduce_memOk]

theorem execTrsum_memOk {s : State} (h : s.mem.wf = true) (hd : Hdr) (o : FT) :
    MemOk (outState? (execTrsum hd o s)) := by
  unfold execTrsum
  split <;> exact runWord_memOk h fun _ h1 => by simp [h1, tileReduce_memOk]

theorem lateMask_memOk {s : State} (h : s.mem.wf = true) (v : W128) (d : Dest) : MemOk (lateMask s v d).state? :=
    .some h

theorem execRmset_memOk {s : State} (h : s.mem.wf = true) (hd : Hdr) (o : FT) :
    MemOk (outState? (execRmset hd o s)) := by
  unfold execRmset
  split
  · exact runWord_memOk h fun _ h1 => by simp [h1, lateMask_memOk, with32_memOk]
  · exact runWord_memOk h fun _ h1 => by simp [h1, lateMask_memOk, with64_memOk]

theorem execCmset_memOk {s : State} (h : s.mem.wf = true) (hd : Hdr) (o : FT) :
    MemOk (outState? (execCmset hd o s)) := by
  unfold execCmset
  split
  · dsimp only
    exact runWord_memOk h fun _ h1 => by simp [h1, lateMask_memOk, with32_memOk]
  · dsimp only
    exact runWord_memOk h fun _ h1 => by simp [h1, lateMask_memOk, with64_memOk]

/-! ### The tile words of V (R146-R148) -/

theorem withPos_memOk {s : State} (o : FT) (k : W32 → Act) (hk : ∀ y, MemOk (k y).state?) :
    MemOk (withPos s o k).state? :=
  withV_memOk _ _ _ fun _ => hk ..

theorem withTa_memOk {s : State} (o : FT) (k : TShape → Act) (hk : ∀ y, MemOk (k y).state?) :
    MemOk (withTa s o k).state? := by
  unfold withTa
  dsimp only
  split
  · simp [tileType_memOk]
  · exact hk ..

theorem execVtrd_memOk {s : State} (h : s.mem.wf = true) (hd : Hdr) (o : FT) : MemOk (outState? (execVtrd hd o s)) := by
  unfold execVtrd
  split
  · dsimp only
    split
    · refine runWord_memOk h fun _ h1 => ?_
      exact withTa_memOk _ _ fun _ => withPos_memOk _ _ fun _ => by simp [h1, vresult_memOk, withTile_memOk]
    · refine runWord_memOk h fun _ h1 => ?_
      exact withTa_memOk _ _ fun _ => withPos_memOk _ _ fun _ => by simp [h1, vresult_memOk, withTile_memOk]
  · dsimp only
    split
    · refine runWord_memOk h fun _ h1 => ?_
      exact withTa_memOk _ _ fun _ => withPos_memOk _ _ fun _ => by simp [h1, vresult_memOk, withTile_memOk]
    · refine runWord_memOk h fun _ h1 => ?_
      exact withTa_memOk _ _ fun _ => withPos_memOk _ _ fun _ => by simp [h1, vresult_memOk, withTile_memOk]

theorem execVtwr_memOk {s : State} (h : s.mem.wf = true) (hd : Hdr) (o : FT) : MemOk (outState? (execVtwr hd o s)) := by
  unfold execVtwr
  dsimp only
  split
  · refine runWord_memOk h fun _ h1 => ?_
    split
    · refine withTa_memOk _ _ fun _ => ?_
      refine withPos_memOk _ _ fun _ => ?_
      split
      · exact withV_memOk _ _ _ fun _ => whenWritable_memOk (by simp [h1]) _ _ (.some h1)
      · exact withV_memOk _ _ _ fun _ => whenWritable_memOk (by simp [h1]) _ _ (.some h1)
    · refine withTa_memOk _ _ fun _ => ?_
      exact withPos_memOk _ _ fun _ => withV_memOk _ _ _ fun _ => whenWritable_memOk (by simp [h1]) _ _ (.some h1)
  · refine runWord_memOk h fun _ h1 => ?_
    split
    · refine withTa_memOk _ _ fun _ => ?_
      refine withPos_memOk _ _ fun _ => ?_
      split
      · exact withV_memOk _ _ _ fun _ => whenWritable_memOk (by simp [h1]) _ _ (.some h1)
      · exact withV_memOk _ _ _ fun _ => whenWritable_memOk (by simp [h1]) _ _ (.some h1)
    · refine withTa_memOk _ _ fun _ => ?_
      exact withPos_memOk _ _ fun _ => withV_memOk _ _ _ fun _ => whenWritable_memOk (by simp [h1]) _ _ (.some h1)

/-! ### Address arithmetic and compare (R161, R162) -/

theorem execAAdd_memOk {s : State} (h : s.mem.wf = true) (hd : Hdr) (o : FR) : MemOk (outState? (execAAdd hd o s)) :=
  runWord_memOk h fun _ h1 => by simp [h1, int2_memOk]

theorem execASub_memOk {s : State} (h : s.mem.wf = true) (hd : Hdr) (o : FR) : MemOk (outState? (execASub hd o s)) :=
  runWord_memOk h fun _ h1 => by simp [h1, int2_memOk]

theorem execAShl_memOk {s : State} (h : s.mem.wf = true) (hd : Hdr) (o : FR) : MemOk (outState? (execAShl hd o s)) :=
  runWord_memOk h fun _ h1 => by simp [h1, intC_memOk]

theorem execAMul_memOk {s : State} (h : s.mem.wf = true) (hd : Hdr) (o : FR) : MemOk (outState? (execAMul hd o s)) :=
  runWord_memOk h fun _ h1 => by simp [h1, int2_memOk]

theorem execAMovi_memOk {s : State} (h : s.mem.wf = true) (hd : Hdr) (o : FI) : MemOk (outState? (execAMovi hd o s)) :=
  runWord_memOk h fun _ h1 => by simp [h1, result_memOk]

theorem execAMov_memOk {s : State} (h : s.mem.wf = true) (hd : Hdr) (o : FR) : MemOk (outState? (execAMov hd o s)) := by
  unfold execAMov
  split
  · exact runWord_memOk h fun _ h1 => by simp [h1, extAct_memOk]
  · exact runWord_memOk h fun _ h1 => by simp [h1, extAct_memOk]
  · exact runWord_memOk h fun _ h1 => by simp [h1, result_memOk, withSrc_memOk]

theorem execBcmp_memOk {s : State} (h : s.mem.wf = true) (hd : Hdr) (o : FR) : MemOk (outState? (execBcmp hd o s)) :=
  runWord_memOk h fun _ h1 => by simp [h1, cmpAct_memOk]

theorem whenRoom_memOk {s : State} (h : s.mem.wf = true) (k : Act) (hk : MemOk k.state?) :
    MemOk (whenRoom s k).state? := by
  unfold whenRoom
  split
  · exact .some h
  · exact hk

theorem whenPassed_memOk {s : State} (h : s.mem.wf = true) (k : Act) (hk : MemOk k.state?) :
    MemOk (whenPassed s k).state? := by
  unfold whenPassed
  split
  · exact .some h
  · exact hk

theorem whenQuiet_memOk {s : State} (h : s.mem.wf = true) (k : Act) (hk : MemOk k.state?) :
    MemOk (whenQuiet s k).state? := by
  unfold whenQuiet
  split
  · exact .some h
  · exact hk

theorem withBase_memOk {s : State} (h : s.mem.wf = true) (sp : Space) (spec : BitVec 7) (k : W128 → Act)
    (hk : ∀ y, MemOk (k y).state?) : MemOk (withBase s sp spec k).state? :=
  withSrc_memOk h _ _ _ fun _ => hk ..

theorem execVpush_memOk {s : State} (h : s.mem.wf = true) (hd : Hdr) (o : FI) :
    MemOk (outState? (execVpush hd o s)) := by
  unfold execVpush
  dsimp only
  refine runWord_memOk h fun _ h1 => ?_
  split
  · exact withV_memOk _ _ _ fun _ => .some h1
  · simp [h1, noResult_memOk, withV_memOk]

theorem execVext_memOk {s : State} (h : s.mem.wf = true) (hd : Hdr) (o : FR) : MemOk (outState? (execVext hd o s)) := by
  unfold execVext
  refine runWord_memOk h fun _ h1 => ?_
  split
  · exact withV_memOk _ _ _ fun _ => withV_memOk _ _ _ fun _ => .some h1
  · exact withV_memOk _ _ _ fun _ => withV_memOk _ _ _ fun _ => .some h1

theorem execTld_memOk {s : State} (h : s.mem.wf = true) (hd : Hdr) (o : FT) : MemOk (outState? (execTld hd o s)) := by
  unfold execTld
  split
  · split
    · dsimp only
      refine runWord_memOk h fun _ h1 => ?_
      refine withDst_memOk h1 _ _ fun _ => ?_
      refine withSpad_memOk h1 _ _ _ fun _ => ?_
      split
      · exact .some h1
      · split
        · exact .none
        · exact tileWrite_memOk h1 ..
    · dsimp only
      refine runWord_memOk h fun _ h1 => ?_
      refine withDst_memOk h1 _ _ fun _ => ?_
      refine withSpad_memOk h1 _ _ _ fun _ => ?_
      split
      · exact .some h1
      · split
        · exact .none
        · exact tileWrite_memOk h1 ..
  · split
    · dsimp only
      exact runWord_memOk h fun _ h1 => withDst_memOk h1 _ _ fun _ => popOq_memOk h1 _ _ fun _ _ h2 => .some h2
    · dsimp only
      exact runWord_memOk h fun _ h1 => withDst_memOk h1 _ _ fun _ => popOq_memOk h1 _ _ fun _ _ h2 => .some h2

theorem execTst_memOk {s : State} (h : s.mem.wf = true) (hd : Hdr) (o : FT) : MemOk (outState? (execTst hd o s)) := by
  unfold execTst
  split
  · dsimp only
    refine runWord_memOk h fun _ h1 => ?_
    split
    · simp [tileType_memOk]
    · exact withTile_memOk h1 _ _ fun _ => withSpad_memOk h1 _ _ _ fun _ => .some h1
  · split
    · dsimp only
      refine runWord_memOk h fun _ h1 => ?_
      split
      · simp [tileType_memOk]
      · refine withTile_memOk h1 _ _ fun _ => ?_
        split
        · exact .some h1
        · exact .some h1
    · dsimp only
      refine runWord_memOk h fun _ h1 => ?_
      split
      · simp [tileType_memOk]
      · refine withTile_memOk h1 _ _ fun _ => ?_
        split
        · exact .some h1
        · exact .some h1

theorem execBind_memOk {s : State} (h : s.mem.wf = true) (hd : Hdr) (o : FR) : MemOk (outState? (execBind hd o s)) := by
  unfold execBind
  refine runWord_memOk h fun s h => with64_memOk h _ _ fun base => with32_memOk h _ _ fun lines =>
    withSrc_memOk h _ _ _ fun sync => whenPassed_memOk h _ ?_
  refine MemOk.of_ite .none (MemOk.of_ite .none ?_)
  split
  · exact result_memOk h ..
  · exact result_memOk (State.devWrite_wf (by simp [h]) ..) ..

theorem withAddr_memOk {s : State} (sp : Space) (va : W64) (size : Nat) (k : Act) (hk : MemOk k.state?) :
    MemOk (withAddr s sp va size k).state? := by
  unfold withAddr
  split
  · exact .none
  · exact hk

theorem withOff_memOk {s : State} (h : s.mem.wf = true) (o : FM) (indexed : Bool) (k : ℤ → Act)
    (hk : ∀ y, MemOk (k y).state?) : MemOk (withOff s o indexed k).state? := by
  unfold withOff
  split
  · exact with32_memOk h _ _ fun _ => hk ..
  · exact hk ..

theorem withEA_memOk {s : State} (h : s.mem.wf = true) (o : FM) (indexed : Bool) (k : W128 → W64 → Act)
    (hk : ∀ y y1, MemOk (k y y1).state?) : MemOk (withEA s o indexed k).state? := by
  unfold withEA
  dsimp only
  exact withBase_memOk h _ _ _ fun _ => withOff_memOk h _ _ _ fun _ => withAddr_memOk _ _ _ _ (hk ..)

/-! ### The fabric (R163, R172, R387) -/

@[simp] theorem ftcUse_mem (s : State) (dev fn : Nat) : (ftcUse s dev fn).mem = s.mem := by
  unfold ftcUse
  split <;> rfl

@[simp] theorem sendKept_mem (s : State) (fn dev dfn kind : Nat) (va tag : W64) (pay : List Byte) :
    (sendKept s fn dev dfn kind va tag pay).mem = s.mem := rfl

@[simp] theorem fabSend_mem (s : State) (fn dev dfn kind : Nat) (va tag : W64) (pay : List Byte) :
    (fabSend s fn dev dfn kind va tag pay).mem = s.mem := by
  unfold fabSend
  simp

@[simp] theorem coreSend_mem (s : State) (base : W128) (kind : Nat) (va tag : W64) (pay : List Byte) :
    (coreSend s base kind va tag pay).mem = s.mem := by
  unfold coreSend
  simp

theorem l1Fill_wf {s : State} (h : s.mem.wf = true) (line : Nat) : (l1Fill s line).mem.wf = true := by
  unfold l1Fill
  dsimp only
  repeat' split
  all_goals simp [h, countAccess_wf]

theorem l1Read_wf {s : State} (h : s.mem.wf = true) (va : W64) (now : List Byte) :
    (l1Read s va now).1.mem.wf = true := by
  unfold l1Read
  split
  · dsimp only
    split
    · exact h
    · simp [h, l1Fill_wf]
  · dsimp only
    split
    · simp [h, l1Fill_wf]
    · simp [h, l1Fill_wf]

theorem l1ReadAll_wf {s : State} (h : s.mem.wf = true) (va : W64) (l : List Byte) :
    (l1ReadAll s va l).1.mem.wf = true := by
  unfold l1ReadAll
  refine foldl_fst_wf (fun p i hp => ?_) h
  exact l1Read_wf hp ..

/-! ### Performing accesses (R152, R163-R170, R173) -/

theorem performLoad_memOk {s : State} (h : s.mem.wf = true) (tag : W64) (sp : BitVec 2) (base : W128) (va : W64)
    (n : Nat) (bypass : Bool) : MemOk (performLoad s tag sp base va n bypass).state? := by
  unfold performLoad
  split
  · split
    · exact .some h
    · split
      · exact .none
      · exact .some h
  · split
    · exact .some h
    · exact .none
  · split
    · refine .some ?_
      rename_i t1 hw1
      have w1 : t1.mem.wf = true := (readCore_memOk h ..).of_eq hw1
      exact w1
    · exact .none
    · dsimp only
      rename_i t1 _ hw1
      have w1 : t1.mem.wf = true := (readCore_memOk h ..).of_eq hw1
      split
      · exact .some (by simp [w1, countLines_wf])
      · exact .some (by simp [w1, l1ReadAll_wf])
  · exact .some (by simp [h])

theorem performStore_memOk {s : State} (h : s.mem.wf = true) (tag : W64) (sp : BitVec 2) (base : W128) (va : W64)
    (l : List Byte) : MemOk (performStore s tag sp base va l).state? := by
  unfold performStore
  split
  · exact .some h
  · split
    · refine .some ?_
      rename_i t1 hw1
      have w1 : t1.mem.wf = true := (regWrite_memOk h ..).of_some hw1
      exact w1
    · exact .none
  · split
    · refine .some ?_
      rename_i t1 hw1
      have w1 : t1.mem.wf = true := (writeCore_memOk h ..).of_eq hw1
      exact w1
    · exact .none
    · refine .some ?_
      rename_i t1 _ hw1
      have w1 : t1.mem.wf = true := (writeCore_memOk h ..).of_eq hw1
      exact w1
  · exact .some (by simp [h])

theorem performAtomic_memOk {s : State} (h : s.mem.wf = true) (tag : W64) (sp : BitVec 2) (base : W128) (va : W64)
    (op : Nat) (t : BitVec 4) (b c : W64) : MemOk (performAtomic s tag sp base va op t b c).state? := by
  unfold performAtomic
  dsimp only
  split
  · split
    · exact .some h
    · split
      · exact .none
      · refine .some ?_
        split
        · simp [h]
        · exact h
  · exact .some (by simp [h])
  · exact .some (by simp [h])
  · split
    · exact .some h
    · split
      · refine .some ?_
        rename_i t1 hw1
        have w1 : t1.mem.wf = true := (readCore_memOk h ..).of_eq hw1
        exact w1
      · exact .none
      · rename_i t1 _ hw1
        have w1 : t1.mem.wf = true := (readCore_memOk h ..).of_eq hw1
        split
        · exact .some (by simp [w1, countLines_wf])
        · split
          · refine .some ?_
            rename_i t2 hw2
            have w2 : t2.mem.wf = true := (writeCore_memOk w1 ..).of_eq hw2
            exact w2
          · exact .none
          · refine .some ?_
            rename_i t2 _ hw2
            have w2 : t2.mem.wf = true := (writeCore_memOk w1 ..).of_eq hw2
            exact w2

theorem perform_memOk {s : State} (h : s.mem.wf = true) (tag : W64) (acc : Access) :
    MemOk (perform s tag acc).state? := by
  unfold perform
  split
  · exact performLoad_memOk h ..
  · exact performStore_memOk h ..
  · exact performAtomic_memOk h ..
  · exact .none

theorem startAccess_memOk {s : State} (h : s.mem.wf = true) (a : Access) (k : State → List Byte → Nat → Act)
    (hk : ∀ t y1 y2, t.mem.wf = true → MemOk (k t y1 y2).state?) (sent : State → W64 → Act)
    (hsent : ∀ t y1, t.mem.wf = true → MemOk (sent t y1).state?) (later : State → Access → Act)
    (hlater : ∀ t y1, t.mem.wf = true → MemOk (later t y1).state?) : MemOk (startAccess s a k sent later).state? := by
  unfold startAccess
  split
  · exact whenRoom_memOk h _ (hlater _ _ h)
  · split
    · rename_i t1 hw1
      have w1 : t1.mem.wf = true := (perform_memOk h ..).of_eq hw1
      exact whenRoom_memOk h _ (hlater _ _ w1)
    · exact whenRoom_memOk h _ .none
    · rename_i t1 _ _ hw1
      have w1 : t1.mem.wf = true := (perform_memOk h ..).of_eq hw1
      exact whenRoom_memOk h _ (hk _ _ _ w1)
    · rename_i t1 _ hw1
      have w1 : t1.mem.wf = true := (perform_memOk h ..).of_eq hw1
      exact whenRoom_memOk h _ (hsent _ _ w1)

/-! ### Loads (R166-R169) -/

theorem loadAct_memOk {s : State} (h : s.mem.wf = true) (o : FM) (indexed : Bool) :
    MemOk (loadAct o indexed s).state? := by
  unfold loadAct
  dsimp only
  refine withEA_memOk h _ _ _ fun _ _ => ?_
  refine startAccess_memOk h _ _ (fun _ _ _ h1 => ?_) _ (fun _ _ h1 => ?_) _ fun _ _ h1 => ?_
  · exact .some h1
  · exact .some h1
  · exact .some h1

theorem execLd_memOk {s : State} (h : s.mem.wf = true) (hd : Hdr) (o : FM) : MemOk (outState? (execLd hd o s)) :=
  runWord_memOk h fun _ h1 => loadAct_memOk h1 ..

theorem execLdx_memOk {s : State} (h : s.mem.wf = true) (hd : Hdr) (o : FM) : MemOk (outState? (execLdx hd o s)) :=
  runWord_memOk h fun _ h1 => loadAct_memOk h1 ..

@[simp] theorem reserve_mem (s : State) (k n : Nat) : (reserve s k n).mem = s.mem := rfl

theorem whenElemRoom_memOk {s : State} (h : s.mem.wf = true) (k n : Nat) (f : Act) (hf : MemOk f.state?) :
    MemOk (whenElemRoom s k n f).state? := by
  unfold whenElemRoom
  split
  · exact .some h
  · exact hf

theorem execLdq_memOk {s : State} (h : s.mem.wf = true) (hd : Hdr) (o : FM) : MemOk (outState? (execLdq hd o s)) := by
  unfold execLdq
  dsimp only
  refine runWord_memOk h fun _ h1 => ?_
  refine withEA_memOk h1 _ _ _ fun _ _ => ?_
  refine whenElemRoom_memOk h1 _ _ _ ?_
  refine startAccess_memOk h1 _ _ (fun _ _ _ h2 => ?_) _ (fun _ _ h2 => ?_) _ fun _ _ h2 => ?_
  · exact .some h2
  · exact .some h2
  · exact .some h2

theorem execPf_memOk {s : State} (h : s.mem.wf = true) (hd : Hdr) (o : FM) : MemOk (outState? (execPf hd o s)) := by
  unfold execPf
  split
  · dsimp only
    refine runWord_memOk h fun _ h1 => ?_
    split
    · exact .some h1
    · exact noResult_memOk h1 ..
    · split
      · exact noResult_memOk h1 ..
      · split
        · simp [h1, countAccess_wf, noResult_memOk]
        · exact noResult_memOk h1 ..
  · dsimp only
    refine runWord_memOk h fun _ h1 => ?_
    split
    · exact .some h1
    · exact noResult_memOk h1 ..
    · split
      · exact noResult_memOk h1 ..
      · split
        · simp [h1, l1Fill_wf, noResult_memOk]
        · exact noResult_memOk h1 ..

/-! ### Stores (R166-R168) -/

theorem accessOnly_memOk {s : State} (h : s.mem.wf = true) (a : Access) : MemOk (accessOnly s a).state? := by
  unfold accessOnly
  dsimp only
  refine startAccess_memOk h _ _ (fun _ _ _ h1 => ?_) _ (fun _ _ h1 => ?_) _ fun _ _ h1 => ?_
  · exact .some h1
  · exact .some h1
  · exact .some h1

theorem storeAct_memOk {s : State} (h : s.mem.wf = true) (o : FM) (indexed : Bool) :
    MemOk (storeAct o indexed s).state? :=
  withSrc_memOk h _ _ _ fun _ => by simp [h, accessOnly_memOk, withEA_memOk]

theorem execSt_memOk {s : State} (h : s.mem.wf = true) (hd : Hdr) (o : FM) : MemOk (outState? (execSt hd o s)) :=
  runWord_memOk h fun _ h1 => storeAct_memOk h1 ..

theorem execStx_memOk {s : State} (h : s.mem.wf = true) (hd : Hdr) (o : FM) : MemOk (outState? (execStx hd o s)) :=
  runWord_memOk h fun _ h1 => storeAct_memOk h1 ..

theorem execStq_memOk {s : State} (h : s.mem.wf = true) (hd : Hdr) (o : FM) : MemOk (outState? (execStq hd o s)) := by
  unfold execStq
  dsimp only
  refine runWord_memOk h fun _ h1 => ?_
  split
  · split
    · exact withEA_memOk h1 _ _ _ fun _ _ => .none
    · exact withEA_memOk h1 _ _ _ fun _ _ => .some h1
  · exact withEA_memOk h1 _ _ _ fun _ _ => by simp [h1, accessOnly_memOk, whenRoom_memOk]

/-! ### Atomics (R173) -/

theorem atomicAct_memOk {s : State} (h : s.mem.wf = true) (o : FR) (op : Nat) : MemOk (atomicAct o op s).state? := by
  unfold atomicAct
  dsimp only
  split
  · refine withBase_memOk h _ _ _ fun _ => ?_
    refine withSrc_memOk h _ _ _ fun _ => ?_
    refine withSrc_memOk h _ _ _ fun _ => ?_
    refine withAddr_memOk _ _ _ _ ?_
    refine startAccess_memOk h _ _ (fun _ _ _ h1 => ?_) _ (fun _ _ h1 => ?_) _ fun _ _ h1 => ?_
    · exact .some h1
    · exact .some h1
    · exact .some h1
  · refine withBase_memOk h _ _ _ fun _ => ?_
    refine withSrc_memOk h _ _ _ fun _ => ?_
    refine withSrc_memOk h _ _ _ fun _ => ?_
    refine withAddr_memOk _ _ _ _ ?_
    refine startAccess_memOk h _ _ (fun _ _ _ h1 => ?_) _ (fun _ _ h1 => ?_) _ fun _ _ h1 => ?_
    · exact .some h1
    · exact .some h1
    · exact .some h1

theorem execAmo_memOk {s : State} (h : s.mem.wf = true) (hd : Hdr) (o : FR) : MemOk (outState? (execAmo hd o s)) :=
  runWord_memOk h fun _ h1 => atomicAct_memOk h1 ..

theorem execAmoswp_memOk {s : State} (h : s.mem.wf = true) (hd : Hdr) (o : FR) :
    MemOk (outState? (execAmoswp hd o s)) :=
  runWord_memOk h fun _ h1 => atomicAct_memOk h1 ..

theorem execAmocas_memOk {s : State} (h : s.mem.wf = true) (hd : Hdr) (o : FR) :
    MemOk (outState? (execAmocas hd o s)) :=
  runWord_memOk h fun _ h1 => atomicAct_memOk h1 ..

theorem execOqst_memOk {s : State} (h : s.mem.wf = true) (hd : Hdr) (o : FR) : MemOk (outState? (execOqst hd o s)) := by
  unfold execOqst
  dsimp only
  refine runWord_memOk h fun _ h1 => ?_
  split
  · exact .some h1
  · split
    · exact withSrc_memOk h1 _ _ _ fun _ => whenElemRoom_memOk h1 _ _ _ (.some h1)
    · exact whenElemRoom_memOk h1 _ _ _ (.some h1)

theorem execFence_memOk {s : State} (h : s.mem.wf = true) (hd : Hdr) (o : FR) :
    MemOk (outState? (execFence hd o s)) := by
  unfold execFence
  split <;> exact runWord_memOk h fun _ h1 => by simp [h1, noResult_memOk, whenQuiet_memOk]

theorem acqHere_memOk {s : State} (h : s.mem.wf = true) (d : BitVec 7) (va : W64) (try_ : Bool) :
    MemOk (acqHere s d va try_).state? := by
  unfold acqHere
  dsimp only
  split
  · exact .some h
  · exact .some h
  · split
    · refine coreRead_memOk h _ _ _ _ _ fun _ _ h1 => ?_
      split
      · exact coreWrite_memOk h1 _ _ _ _ fun _ h2 => .some h2
      · exact .some h1
    · refine coreRead_memOk h _ _ _ _ _ fun _ _ h1 => ?_
      split
      · exact coreWrite_memOk h1 _ _ _ _ fun _ h2 => .some h2
      · split
        · exact .some h1
        · exact .some h1

theorem execAcq_memOk {s : State} (h : s.mem.wf = true) (hd : Hdr) (o : FR) : MemOk (outState? (execAcq hd o s)) := by
  unfold execAcq
  dsimp only
  split
  · split
    · refine runWord_memOk h fun _ h1 => ?_
      refine withBase_memOk h1 _ _ _ fun _ => ?_
      exact withAddr_memOk _ _ _ _ (whenRoom_memOk h1 _ (whenPassed_memOk h1 _ (.some (by simp [h1]))))
    · refine runWord_memOk h fun _ h1 => ?_
      refine withBase_memOk h1 _ _ _ fun _ => ?_
      exact withAddr_memOk _ _ _ _ (whenRoom_memOk h1 _ (whenPassed_memOk h1 _ (.some (by simp [h1]))))
  · split
    · refine runWord_memOk h fun _ h1 => ?_
      refine withBase_memOk h1 _ _ _ fun _ => ?_
      exact withAddr_memOk _ _ _ _ (whenRoom_memOk h1 _ (whenPassed_memOk h1 _ (.some (by simp [h1]))))
    · refine runWord_memOk h fun _ h1 => ?_
      refine withBase_memOk h1 _ _ _ fun _ => ?_
      exact withAddr_memOk _ _ _ _ (whenRoom_memOk h1 _ (whenPassed_memOk h1 _ (.some (by simp [h1]))))
  · refine runWord_memOk h fun _ h1 => ?_
    exact withBase_memOk h1 _ _ _ fun _ => withAddr_memOk _ _ _ _
      (whenRoom_memOk h1 _ (by simp [h1, acqHere_memOk, whenPassed_memOk]))

theorem execRel_memOk {s : State} (h : s.mem.wf = true) (hd : Hdr) (o : FR) : MemOk (outState? (execRel hd o s)) := by
  unfold execRel
  dsimp only
  exact runWord_memOk h fun _ h1 => withBase_memOk h1 _ _ _ fun _ => by simp [h1, accessOnly_memOk, withAddr_memOk]

theorem execUnbind_memOk {s : State} (h : s.mem.wf = true) (hd : Hdr) (o : FR) :
    MemOk (outState? (execUnbind hd o s)) := by
  unfold execUnbind
  dsimp only
  refine runWord_memOk h fun _ h1 => ?_
  refine with32_memOk h1 _ _ fun _ => ?_
  split
  · exact whenPassed_memOk h1 _ .none
  · split
    · simp [h1, noResult_memOk, whenPassed_memOk]
    · exact whenPassed_memOk h1 _ (by simp [h1, State.devWrite_wf, noResult_memOk])

theorem execLfe_memOk {s : State} (h : s.mem.wf = true) (hd : Hdr) (o : FM) : MemOk (outState? (execLfe hd o s)) := by
  unfold execLfe
  split
  · dsimp only
    exact runWord_memOk h fun _ h1 => withEA_memOk h1 _ _ _ fun _ _ => by simp [h1, noResult_memOk, whenPassed_memOk]
  · dsimp only
    exact runWord_memOk h fun _ h1 => withEA_memOk h1 _ _ _ fun _ _ => by simp [h1, noResult_memOk, whenPassed_memOk]
  · dsimp only
    refine runWord_memOk h fun _ h1 => ?_
    refine withEA_memOk h1 _ _ _ fun _ _ => ?_
    split
    · simp [h1, noResult_memOk, whenPassed_memOk]
    · exact whenPassed_memOk h1 _ (.some h1)
  · dsimp only
    refine runWord_memOk h fun _ h1 => ?_
    refine withEA_memOk h1 _ _ _ fun _ _ => ?_
    split
    · exact whenPassed_memOk h1 _ (.some h1)
    · simp [h1, noResult_memOk, whenPassed_memOk]

/-! ### Accesses that wait (R152, R164, R165, R343) -/

@[simp] theorem settleAccess_mem (s : State) (k seq : Nat) (f : InFlight → InFlight) :
    (settleAccess s k seq f).mem = s.mem := rfl

@[simp] theorem faultFlight_mem (s : State) (k : Nat) (g : InFlight) (f : StopInfo) :
    (faultFlight s k g f).mem = s.mem := by
  unfold faultFlight
  simp

theorem advanceAcc_memOk {s : State} (h : s.mem.wf = true) (k : Nat) : MemOk (advanceAcc s k) := by
  unfold advanceAcc
  dsimp only
  split
  · exact .none
  · split
    · exact .none
    · split
      · exact .none
      · split
        · rename_i t1 hw1
          have w1 : t1.mem.wf = true := (perform_memOk (by simp [h]) ..).of_eq hw1
          split
          · exact .none
          · exact .some w1
        · split
          · exact .none
          · exact .some (by simp [h])
        · refine .some ?_
          rename_i t1 _ _ hw1
          have w1 : t1.mem.wf = true := (perform_memOk (by simp [h]) ..).of_eq hw1
          simp [w1]
        · refine .some ?_
          rename_i t1 _ hw1
          have w1 : t1.mem.wf = true := (perform_memOk (by simp [h]) ..).of_eq hw1
          simp [w1]

theorem execCall_memOk {s : State} (h : s.mem.wf = true) (hd : Hdr) (o : FB) : MemOk (outState? (execCall hd o s)) := by
  unfold execCall
  dsimp only
  refine runWord_memOk h fun _ h1 => ?_
  split
  · split
    · exact .none
    · exact .some h1
  · exact noResult_memOk h1 ..

theorem execRet_memOk {s : State} (h : s.mem.wf = true) (hd : Hdr) (o : NO) : MemOk (outState? (execRet hd o s)) := by
  unfold execRet
  dsimp only
  refine runWord_memOk h fun _ h1 => ?_
  split
  · exact .none
  · exact .some h1

theorem tableJump_memOk {s : State} (h : s.mem.wf = true) (first i : Nat) : MemOk (tableJump s first i).state? :=
  withCode_memOk h _ _ fun _ => .some h

theorem execJmp_memOk {s : State} (h : s.mem.wf = true) (hd : Hdr) (o : FI) : MemOk (outState? (execJmp hd o s)) := by
  unfold execJmp
  dsimp only
  refine runWord_memOk h fun _ h1 => ?_
  refine with32_memOk h1 _ _ fun _ => ?_
  refine withCode_memOk h1 _ _ fun _ => ?_
  split
  · exact .none
  · exact tableJump_memOk h1 ..

theorem execSwt_memOk {s : State} (h : s.mem.wf = true) (hd : Hdr) (o : FI) : MemOk (outState? (execSwt hd o s)) := by
  unfold execSwt
  dsimp only
  exact runWord_memOk h fun _ h1 => with32_memOk h1 _ _ fun _ => by simp [h1, tableJump_memOk, withCode_memOk]

/-! ### Control registers (R119-R123) -/

theorem lateWrite_memOk {s : State} (h : s.mem.wf = true) (v : W32) (d : Dest) : MemOk (lateWrite s v d).state? :=
    .some h

theorem execMvcr_memOk {s : State} (h : s.mem.wf = true) (hd : Hdr) (o : FI) : MemOk (outState? (execMvcr hd o s)) := by
  unfold execMvcr
  dsimp only
  refine runWord_memOk h fun _ h1 => ?_
  split
  · exact with32_memOk h1 _ _ fun _ => .some h1
  · simp [h1, lateWrite_memOk, with32_memOk]

theorem execMvrc_memOk {s : State} (h : s.mem.wf = true) (hd : Hdr) (o : FI) : MemOk (outState? (execMvrc hd o s)) := by
  unfold execMvrc
  dsimp only
  split
  · exact runWord_memOk h fun _ h1 => popOq_memOk h1 _ _ fun _ _ h2 => result_memOk h2 ..
  · exact runWord_memOk h fun _ h1 => result_memOk h1 ..

theorem execClk_memOk {s : State} (h : s.mem.wf = true) (hd : Hdr) (o : FR) : MemOk (outState? (execClk hd o s)) := by
  unfold execClk
  split <;> exact runWord_memOk h fun _ h1 => result_memOk h1 ..

theorem execTrap_memOk {s : State} (h : s.mem.wf = true) (hd : Hdr) (o : FI) : MemOk (outState? (execTrap hd o s)) := by
  unfold execTrap
  dsimp only
  exact runWord_memOk h fun _ h1 => .none

theorem requestAct_memOk {s : State} (h : s.mem.wf = true) (d : BitVec 7) (w lat : Nat) (k : Ask) :
    MemOk (requestAct s d w lat k).state? := by
  unfold requestAct
  dsimp only
  split
  · exact .some h
  · exact .some h
  · exact .some h
  · simp [h, result_memOk]
  · exact .none

theorem execEvpost_memOk {s : State} (h : s.mem.wf = true) (hd : Hdr) (o : FR) :
    MemOk (outState? (execEvpost hd o s)) :=
  runWord_memOk h fun _ h1 => with32_memOk h1 _ _ fun _ => by simp [h1, requestAct_memOk, with64_memOk]

theorem execSysr_memOk {s : State} (h : s.mem.wf = true) (hd : Hdr) (o : FI) : MemOk (outState? (execSysr hd o s)) :=
  runWord_memOk h fun _ h1 => result_memOk h1 ..

theorem execSysw_memOk {s : State} (h : s.mem.wf = true) (hd : Hdr) (o : FI) : MemOk (outState? (execSysw hd o s)) :=
  runWord_memOk h fun _ h1 => by simp [h1, lateWrite_memOk, with32_memOk]

theorem startOp_wf {s : State} (h : s.mem.wf = true) (x slot : Nat) : (startOp s x slot).mem.wf = true := by
  unfold startOp
  simp [h, setOpSt_wf]

@[simp] theorem decideWaiting_mem (s : State) (x : Nat) : (decideWaiting s x).mem = s.mem := rfl

/-! ### Creation (R236, R237) -/

theorem makeOp_memOk {s : State} (h : s.mem.wf = true) (st : StreamId) (n : NewOp) (body : OpBody)
    (k : State → W32 → Nat → Act) (hk : ∀ t y1 y2, t.mem.wf = true → MemOk (k t y1 y2).state?) :
    MemOk (makeOp s st n body k).state? := by
  unfold makeOp
  dsimp only
  split
  · exact .none
  · exact hk _ _ _ (by simp [h, placeOp_wf])

theorem createOp_memOk {s : State} (h : s.mem.wf = true) (st : StreamId) (n : NewOp) (body : OpBody)
    (k : State → W32 → Nat → Act) (hk : ∀ t y1 y2, t.mem.wf = true → MemOk (k t y1 y2).state?) :
    MemOk (createOp s st n body k).state? := by
  unfold createOp
  dsimp only
  refine makeOp_memOk h _ _ _ _ fun _ _ _ h1 => ?_
  split
  · exact hk _ _ _ (setOpSt_wf h1 ..)
  · exact hk _ _ _ (advanceOp_wf h1 ..)

theorem withAfter_memOk {s : State} (h : s.mem.wf = true) (st : StreamId) (o : FO) (k : NewOp → Act)
    (hk : ∀ y, MemOk (k y).state?) : MemOk (withAfter s st o k).state? := by
  unfold withAfter
  dsimp only
  split
  · exact with32_memOk h _ _ fun _ => hk ..
  · exact hk ..

theorem creating_memOk {s : State} (h : s.mem.wf = true) (st : StreamId) (o : FO) {body : State → (OpBody → Act) → Act}
    (hbody : ∀ t k, t.mem.wf = true → (∀ b, MemOk (k b).state?) → MemOk (body t k).state?) :
      MemOk (creating s st o body).state? :=
  withAfter_memOk h _ _ _ fun _ => hbody _ _ h fun _ => createOp_memOk h _ _ _ _ fun _ _ _ ht => result_memOk ht ..

/-! ### The words (R249-R258) -/

theorem execOwait_memOk {s : State} (h : s.mem.wf = true) (hd : Hdr) (o : FR) :
    MemOk (outState? (execOwait hd o s)) := by
  unfold execOwait
  dsimp only
  refine runWord_memOk h fun _ h1 => ?_
  split
  · simp [h1, result_memOk, with32_memOk]
  · refine with32_memOk h1 _ _ fun _ => ?_
    split
    · simp [h1, result_memOk]
    · split
      · exact .some h1
      · split
        · simp [h1, retireOp_wf, result_memOk]
        · simp [h1, result_memOk]

theorem execOtest_memOk {s : State} (h : s.mem.wf = true) (hd : Hdr) (o : FR) : MemOk (outState? (execOtest hd o s)) :=
  runWord_memOk h fun _ h1 => by simp [h1, handleWord_memOk]

theorem execOjoin_memOk {s : State} (h : s.mem.wf = true) (hd : Hdr) (o : FO) :
    MemOk (outState? (execOjoin hd o s)) := by
  unfold execOjoin
  dsimp only
  split
  · refine runWord_memOk h fun _ h1 => ?_
    refine withSrc_memOk h1 _ _ _ fun _ => ?_
    exact with32_memOk h1 _ _ fun _ => with32_memOk h1 _ _ fun _ => createOp_memOk h1 _ _ _ _ fun _ _ _ h2 =>
      result_memOk h2 ..
  · refine runWord_memOk h fun _ h1 => ?_
    refine withSrc_memOk h1 _ _ _ fun _ => ?_
    exact with32_memOk h1 _ _ fun _ => with32_memOk h1 _ _ fun _ => createOp_memOk h1 _ _ _ _ fun _ _ _ h2 =>
      result_memOk h2 ..

theorem execOdetach_memOk {s : State} (h : s.mem.wf = true) (hd : Hdr) (o : FR) :
    MemOk (outState? (execOdetach hd o s)) := by
  unfold execOdetach
  dsimp only
  refine runWord_memOk h fun _ h1 => ?_
  refine handleWord_memOk _ _ h1 fun _ => ?_
  repeat' split
  all_goals simp [h1, orphanOp_wf]

theorem execOadopt_memOk {s : State} (h : s.mem.wf = true) (hd : Hdr) (o : FR) :
    MemOk (outState? (execOadopt hd o s)) := by
  unfold execOadopt
  dsimp only
  refine runWord_memOk h fun _ h1 => ?_
  refine handleWord_memOk _ _ h1 fun _ => ?_
  repeat' split
  all_goals simp [h1, State.imageCtx_wf, setOpSt_wf]

theorem execOrelease_memOk {s : State} (h : s.mem.wf = true) (hd : Hdr) (o : FR) :
    MemOk (outState? (execOrelease hd o s)) := by
  unfold execOrelease
  dsimp only
  refine runWord_memOk h fun _ h1 => ?_
  refine handleWord_memOk _ _ h1 fun _ => ?_
  repeat' split
  all_goals simp [h1, retireOp_wf]

theorem execOprio_memOk {s : State} (h : s.mem.wf = true) (hd : Hdr) (o : FR) :
    MemOk (outState? (execOprio hd o s)) := by
  unfold execOprio
  dsimp only
  refine runWord_memOk h fun _ h1 => ?_
  refine with32_memOk h1 _ _ fun _ => ?_
  refine handleWord_memOk _ _ h1 fun _ => ?_
  repeat' split
  all_goals simp [h1]

theorem execOfault_memOk {s : State} (h : s.mem.wf = true) (hd : Hdr) (o : FR) :
    MemOk (outState? (execOfault hd o s)) :=
  runWord_memOk h fun _ h1 => by simp [h1, handleWord_memOk, with32_memOk]

/-! ### Leases (R262) -/

@[simp] theorem modLease_mem (s : State) (x slot : Nat) (f : LeaseInfo → LeaseInfo) :
    (modLease s x slot f).mem = s.mem := by
  unfold modLease
  simp

theorem holdEngine_wf {s : State} (h : s.mem.wf = true) (e x slot : Nat) : (holdEngine s e x slot).mem.wf = true := by
  unfold holdEngine
  simp [h, State.imageOp_wf, setOpSt_wf, ite_wf]

theorem wakeEngine_wf {s : State} (h : s.mem.wf = true) (e t x slot : Nat) :
    (wakeEngine s e t x slot).mem.wf = true := by
  unfold wakeEngine
  simp [h, setOpSt_wf, ite_wf]

theorem passEngine_wf {s : State} (h : s.mem.wf = true) (e : Nat) : (passEngine s e).mem.wf = true := by
  unfold passEngine
  split
  · exact holdEngine_wf h ..
  · simp [h]

theorem queueLease_wf {s : State} (h : s.mem.wf = true) (x slot : Nat) (fresh : Bool) :
    (queueLease s x slot fresh).mem.wf = true := by
  unfold queueLease
  simp [h, State.imageOp_wf, ite_wf]

theorem endLease_wf {s : State} (h : s.mem.wf = true) (x slot : Nat) (st : OpSt) (code : Byte) :
    (endLease s x slot st code).mem.wf = true := by
  unfold endLease
  split
  · exact h
  · rename_i l _
    generalize ht :
      ((leaseCommands (finishOp (modLease s x slot fun l => { l with phase := .none, engine := none }) x slot st
      code 0 0) x slot).foldl
      (fun s e => failOp s x e.1 cDENIED)
        (finishOp (modLease s x slot fun l => { l with phase := .none, engine := none }) x slot st code 0 0)) = t
    have w : t.mem.wf = true := by
      rw [← ht]
      exact foldl_wf (fun s e h => failOp_wf h ..) (finishOp_wf (by simp [h]) ..)
    dsimp only
    simp only [ht]
    repeat' split
    all_goals simp [w, passEngine_wf, setOpSt_wf]

theorem settleLease_wf {s : State} (h : s.mem.wf = true) (x slot : Nat) : (settleLease s x slot).mem.wf = true := by
  unfold settleLease
  repeat' split
  all_goals simp [h, endLease_wf]

@[simp] theorem endsRevoke_mem (s : State) (l : LeaseInfo) : (endsRevoke s l).mem = s.mem := by
  unfold endsRevoke
  split <;> rfl

theorem cancelLease_wf {s : State} (h : s.mem.wf = true) (x slot : Nat) : (cancelLease s x slot).mem.wf = true := by
  unfold cancelLease
  split
  · exact h
  · rename_i l _
    generalize ht : (leaseCommands s x slot).foldl (fun s e =>
      if e.2.st = .running then s.modO x e.1 fun o => { o with cancel := true } else cancelOp s x e.1) s = t
    have w : t.mem.wf = true := by
      rw [← ht]
      refine foldl_wf (fun s e h => ?_) h
      split
      · simp [h]
      · exact cancelOp_wf h ..
    dsimp only
    split
    · exact settleLease_wf (by simp [w]) ..
    · exact endLease_wf w ..

/-! ### The words (R251, R270) -/

theorem execOcancel_memOk {s : State} (h : s.mem.wf = true) (hd : Hdr) (o : FR) :
    MemOk (outState? (execOcancel hd o s)) := by
  unfold execOcancel
  dsimp only
  refine runWord_memOk h fun _ h1 => ?_
  refine handleWord_memOk _ _ h1 fun _ => ?_
  repeat' split
  all_goals simp [h1, cancelLease_wf, cancelOp_wf]

theorem execLease_memOk {s : State} (h : s.mem.wf = true) (hd : Hdr) (o : FO) : MemOk (outState? (execLease hd o s)) :=
  runWord_memOk h fun _ h1 => creating_memOk h1 _ _ fun _ _ _ hk2 => hk2 ..

theorem execUnlease_memOk {s : State} (h : s.mem.wf = true) (hd : Hdr) (o : FR) :
    MemOk (outState? (execUnlease hd o s)) := by
  unfold execUnlease
  dsimp only
  refine runWord_memOk h fun _ h1 => ?_
  refine handleWord_memOk _ _ h1 fun _ => ?_
  repeat' split
  all_goals simp [h1, endLease_wf]

theorem execLquery_memOk {s : State} (h : s.mem.wf = true) (hd : Hdr) (o : FR) :
    MemOk (outState? (execLquery hd o s)) := by
  unfold execLquery
  split
  · exact runWord_memOk h fun _ h1 => result_memOk h1 ..
  · exact runWord_memOk h fun _ h1 => by simp [h1, handleWord_memOk]

/-! ### Creating engine commands (R271) -/

theorem engineWord_memOk {s : State} (h : s.mem.wf = true) (i : Instr) (hd : Hdr) (o : FO) (op : Nat) :
    MemOk (outState? (engineWord i hd o op s)) := by
  unfold engineWord
  dsimp only
  refine runWord_memOk h fun _ h1 => ?_
  refine with32_memOk h1 _ _ fun _ => ?_
  split
  · refine with64_memOk h1 _ _ fun _ => ?_
    exact withAfter_memOk h1 _ _ _ fun _ => createOp_memOk h1 _ _ _ _ fun _ _ _ h2 => by simp
      [h2, failOp_wf, result_memOk]
  · refine with64_memOk h1 _ _ fun _ => ?_
    exact withAfter_memOk h1 _ _ _ fun _ => createOp_memOk h1 _ _ _ _ fun _ _ _ h2 => by simp [h2, result_memOk]

theorem execColrs_memOk {s : State} (h : s.mem.wf = true) (hd : Hdr) (o : FO) : MemOk (outState? (execColrs hd o s)) :=
  engineWord_memOk h ..

theorem execColag_memOk {s : State} (h : s.mem.wf = true) (hd : Hdr) (o : FO) : MemOk (outState? (execColag hd o s)) :=
  engineWord_memOk h ..

theorem execColar_memOk {s : State} (h : s.mem.wf = true) (hd : Hdr) (o : FO) : MemOk (outState? (execColar hd o s)) :=
  engineWord_memOk h ..

theorem execCola2a_memOk {s : State} (h : s.mem.wf = true) (hd : Hdr) (o : FO) :
    MemOk (outState? (execCola2a hd o s)) :=
  engineWord_memOk h ..

theorem execColbc_memOk {s : State} (h : s.mem.wf = true) (hd : Hdr) (o : FO) : MemOk (outState? (execColbc hd o s)) :=
  engineWord_memOk h ..

theorem execColcmb_memOk {s : State} (h : s.mem.wf = true) (hd : Hdr) (o : FO) :
    MemOk (outState? (execColcmb hd o s)) :=
  engineWord_memOk h ..

theorem execRtopk_memOk {s : State} (h : s.mem.wf = true) (hd : Hdr) (o : FO) : MemOk (outState? (execRtopk hd o s)) :=
  engineWord_memOk h ..

theorem execRplan_memOk {s : State} (h : s.mem.wf = true) (hd : Hdr) (o : FO) : MemOk (outState? (execRplan hd o s)) :=
  engineWord_memOk h ..

theorem execSortkv_memOk {s : State} (h : s.mem.wf = true) (hd : Hdr) (o : FO) :
    MemOk (outState? (execSortkv hd o s)) :=
  engineWord_memOk h ..

theorem execGathr_memOk {s : State} (h : s.mem.wf = true) (hd : Hdr) (o : FO) : MemOk (outState? (execGathr hd o s)) :=
  engineWord_memOk h ..

theorem execScatr_memOk {s : State} (h : s.mem.wf = true) (hd : Hdr) (o : FO) : MemOk (outState? (execScatr hd o s)) :=
  engineWord_memOk h ..

theorem execSfnap_memOk {s : State} (h : s.mem.wf = true) (hd : Hdr) (o : FO) : MemOk (outState? (execSfnap hd o s)) :=
  engineWord_memOk h ..

theorem execCdpack_memOk {s : State} (h : s.mem.wf = true) (hd : Hdr) (o : FO) :
    MemOk (outState? (execCdpack hd o s)) :=
  engineWord_memOk h ..

theorem execCdunpk_memOk {s : State} (h : s.mem.wf = true) (hd : Hdr) (o : FO) :
    MemOk (outState? (execCdunpk hd o s)) :=
  engineWord_memOk h ..

/-! ### Steps of the palette (R260-R268) -/

theorem execLeaseQueueEntry_memOk {s : State} (h : s.mem.wf = true) (ctx slot : Nat) :
    MemOk (outState? (execLeaseQueueEntry ctx slot s)) := by
  unfold execLeaseQueueEntry
  refine .some ?_
  split
  · exact h
  · split
    · exact h
    · split
      · exact h
      · split
        · exact failOp_wf h ..
        · dsimp only
          split
          · exact failOp_wf (queueLease_wf h ..) ..
          · exact queueLease_wf h ..

theorem execLeaseGrant_memOk {s : State} (h : s.mem.wf = true) (kind : Nat) :
    MemOk (outState? (execLeaseGrant kind s)) := by
  unfold execLeaseGrant
  refine .some ?_
  split
  · simp [h, holdEngine_wf, wakeEngine_wf, ite_wf]
  · exact h

theorem execWakeDone_memOk {s : State} (h : s.mem.wf = true) (engine : Nat) :
    MemOk (outState? (execWakeDone engine s)) := by
  unfold execWakeDone
  refine .some ?_
  dsimp only
  repeat' split
  all_goals simp [h, holdEngine_wf, passEngine_wf]

theorem execQuantumEnd_memOk {s : State} (h : s.mem.wf = true) (engine : Nat) :
    MemOk (outState? (execQuantumEnd engine s)) := by
  unfold execQuantumEnd
  refine .some ?_
  split
  · simp [h, ite_wf]
  · exact h

theorem execEngineYield_memOk {s : State} (h : s.mem.wf = true) (engine : Nat) :
    MemOk (outState? (execEngineYield engine s)) := by
  unfold execEngineYield
  refine .some ?_
  split
  · dsimp only
    split
    · exact h
    · rw [dcCount_mem]
      split
      · exact queueLease_wf (passEngine_wf h ..) ..
      · simp [h, queueLease_wf]
  · exact h

theorem setParked_wf {s : State} (h : s.mem.wf = true) (x slot : Nat) : (setParked s x slot).mem.wf = true := by
  unfold setParked
  simp [h, setOpSt_wf]

theorem parkOp_wf {s : State} (h : s.mem.wf = true) (x slot : Nat) : (parkOp s x slot).mem.wf = true := by
  unfold parkOp
  simp [h, cancelOp_wf, setParked_wf, ite_wf]

theorem dropCommand_wf {s : State} (h : s.mem.wf = true) (e : Nat) (code : Byte) :
    (dropCommand s e code).mem.wf = true := by
  unfold dropCommand
  split
  · exact h
  · split
    · dsimp only
      split
      · simp [h]
      · split
        · simp [h, parkOp_wf]
        · simp [h, failOp_wf]
    · dsimp only
      split
      · simp [h]
      · split
        · simp [h, failOp_wf]
        · simp [h, failOp_wf]

@[simp] theorem sleepEngine_mem (s : State) (e : Nat) : (sleepEngine s e).mem = s.mem := rfl

theorem execForcedEviction_memOk {s : State} (h : s.mem.wf = true) (engine : Nat) :
    MemOk (outState? (execForcedEviction engine s)) := by
  unfold execForcedEviction
  refine .some ?_
  split
  · dsimp only
    split
    · simp [h]
    · split
      · exact h
      · rw [dcCount_mem]
        rw [State.modE_mem]
        split
        · simp [h, dropCommand_wf]
        · exact dropCommand_wf h ..
  · dsimp only
    split
    · exact h
    · split
      · exact h
      · rw [dcCount_mem]
        rw [State.modE_mem]
        split
        · simp [h, dropCommand_wf]
        · exact dropCommand_wf h ..

theorem execScrubDone_memOk {s : State} (h : s.mem.wf = true) (engine : Nat) :
    MemOk (outState? (execScrubDone engine s)) := by
  unfold execScrubDone
  refine .some ?_
  dsimp only
  split
  · exact h
  · split
    · split
      · split
        · simp [h, queueLease_wf, settleLease_wf]
        · simp [h]
      · split
        · exact settleLease_wf (queueLease_wf (passEngine_wf h ..) ..) ..
        · exact passEngine_wf h ..
    · simp [h, passEngine_wf, ite_wf]

theorem execDrowsyTimeout_memOk {s : State} (h : s.mem.wf = true) (engine : Nat) :
    MemOk (outState? (execDrowsyTimeout engine s)) :=
  .some (by simp [h, ite_wf])

theorem execSleepTimeout_memOk {s : State} (h : s.mem.wf = true) (engine : Nat) :
    MemOk (outState? (execSleepTimeout engine s)) :=
  .some (by simp [h, ite_wf])

@[simp] theorem setBudget_mem (s : State) (n : Nat) : (setBudget s n).mem = s.mem := by
  unfold setBudget
  refine (foldl_mem fun s e => ?_).trans rfl
  split
  · exact sleepEngine_mem ..
  · rfl

/-! ### Accesses of an operation (R343) -/

theorem opReadAs_memOk {s : State} (h : s.mem.wf = true) (p : Perm) (k x slot : Nat) (va : W64) (n : Nat) :
    MemOk (opReadAs s p k x slot va n).state? := by
  unfold opReadAs
  dsimp only
  split
  · split
    · exact .none
    · exact .some h
  · split
    · exact .some (by simp [h, countLines_wf])
    · exact .some (by simp [h])
    · exact .none

theorem opRead_memOk {s : State} (h : s.mem.wf = true) (k x slot : Nat) (va : W64) (n : Nat) :
    MemOk (opRead s k x slot va n).state? :=
  opReadAs_memOk h ..

theorem opWrite_memOk {s : State} (h : s.mem.wf = true) (k x slot : Nat) (va : W64) (l : List Byte) :
    MemOk (opWrite s k x slot va l).state? := by
  unfold opWrite
  dsimp only
  split
  · split
    · exact .none
    · exact .some h
  · split
    · refine .some ?_
      rename_i t1 hw1
      have w1 : t1.mem.wf = true := (writeVa_memOk h ..).of_eq hw1
      repeat' split
      all_goals simp [w1, countLines_wf, lockCheck_wf]
    · exact .some (by simp [h])
    · exact .none

@[simp] theorem dropOpEntry_mem (s : State) (x slot : Nat) : (dropOpEntry s x slot).mem = s.mem := rfl

theorem opSat_wf {s : State} (h : s.mem.wf = true) (x slot satslot n nans src : Nat) :
    (opSat s x slot satslot n nans src).1.mem.wf = true := by
  unfold opSat
  split
  · rename_i t1 hw1
    have w1 : t1.mem.wf = true := fst_wf (satAdd_wf h ..) hw1
    exact w1
  · rename_i t1 _ _ hw1
    have w1 : t1.mem.wf = true := fst_wf (satAdd_wf h ..) hw1
    split
    · simp [w1, satEvent_wf]
    · simp [w1, satEvent_wf]

/-- Reading the runs of a row leaves canonical memory, where it reads them all and where a run waits or fails (R343). -/
theorem readRuns_memOk (k x slot : Nat) (r : TRec) (row : Nat) (l : List (Nat × Nat)) {s : State}
    (h : s.mem.wf = true) (acc : List Nat) :
    MemOk ((readRuns k x slot r row l s acc).elim OpRd.state? fun p => some p.1) := by
  induction l generalizing s acc with
  | nil => exact .some h
  | cons p l ih =>
    unfold readRuns
    dsimp only
    have w := opRead_memOk h k x slot (r.elemVa row p.1).1 (runBytes (etBits r.et) (r.elemVa row p.1).2 p.2)
    split
    · rename_i e
      exact ih (w.of_eq e) _
    · exact w

@[simp] theorem State.modClaim_mem (s : State) (core : Nat) (f : Claim → Claim) : (s.modClaim core f).mem = s.mem := rfl

@[simp] theorem pushCmd_mem (s : State) (c : ArrCmd) : (pushCmd s c).mem = s.mem := rfl

@[simp] theorem popCmd_mem (s : State) (b k : Nat) : (popCmd s b k).mem = s.mem := rfl

/-! ### Creating commands (R217) -/

@[simp] theorem placeCmd_mem (s : State) (hd : W32) (slot : Nat) (ins outs : List Nat) :
    (placeCmd s hd slot ins outs).mem = s.mem := by
  unfold placeCmd
  split <;> rfl

theorem arrayWord_memOk {s : State} (h : s.mem.wf = true) (o : FO) (body : (OpBody → Act) → Act)
    (hbody : ∀ y, (∀ b, MemOk (y b).state?) → MemOk (body y).state?) : MemOk (arrayWord s o body).state? := by
  unfold arrayWord
  refine withAfter_memOk h _ _ _ fun _ => ?_
  refine hbody _ ?_
  intro b
  exact createOp_memOk h _ _ _ _ fun _ _ _ h1 => by simp [h1, result_memOk]

theorem execWlease_memOk {s : State} (h : s.mem.wf = true) (hd : Hdr) (o : FO) :
    MemOk (outState? (execWlease hd o s)) := by
  unfold execWlease
  split <;> exact runWord_memOk h fun _ h1 => withAfter_memOk h1 _ _ _ fun _ => createOp_memOk h1 _ _ _ _ fun _ _ _
    h2 => result_memOk h2 ..

theorem execWload_memOk {s : State} (h : s.mem.wf = true) (hd : Hdr) (o : FO) : MemOk (outState? (execWload hd o s)) :=
  runWord_memOk h fun _ h1 => with64_memOk h1 _ _ fun _ => arrayWord_memOk h1 _ _ fun _ hk2 => hk2 ..

theorem execWdrain_memOk {s : State} (h : s.mem.wf = true) (hd : Hdr) (o : FO) :
    MemOk (outState? (execWdrain hd o s)) := by
  unfold execWdrain
  split
  · exact runWord_memOk h fun _ h1 => with32_memOk h1 _ _ fun _ => arrayWord_memOk h1 _ _ fun _ hk2 => hk2 ..
  · exact runWord_memOk h fun _ h1 => with64_memOk h1 _ _ fun _ => arrayWord_memOk h1 _ _ fun _ hk2 => hk2 ..

theorem whenFull_memOk {s : State} (h : s.mem.wf = true) (ts : List Nat) (k : Act) (hk : MemOk k.state?) :
    MemOk (whenFull s ts k).state? := by
  unfold whenFull
  split
  · exact hk
  · exact .some h

theorem whenAllWritable_memOk {s : State} (h : s.mem.wf = true) (ts : List Nat) (k : Act) (hk : MemOk k.state?) :
    MemOk (whenAllWritable s ts k).state? := by
  unfold whenAllWritable
  split
  · exact .some h
  · exact hk

theorem pairHalf_memOk {s : State} (h : s.mem.wf = true) (o : FW) (trans : Bool) (m : MatArgs) (ins outs :
    List Nat) : MemOk (pairHalf s o trans m ins outs).state? := by
  unfold pairHalf
  dsimp only
  split
  · split
    · exact createOp_memOk h _ _ _ _ fun _ _ _ h1 => result_memOk (failOp_wf h1 ..) ..
    · exact createOp_memOk h _ _ _ _ fun _ _ _ h1 => result_memOk (failOp_wf h1 ..) ..
  · split
    · split
      · exact createOp_memOk (by simp [h]) _ _ _ _ fun _ _ _ h1 => by simp [h1, result_memOk]
      · exact createOp_memOk (by simp [h]) _ _ _ _ fun _ _ _ h1 => by simp [h1, result_memOk]
    · split
      · split
        · simp [h, orphanOp_wf, result_memOk]
        · simp [h, result_memOk]
      · split
        · split
          · simp [h, result_memOk]
          · simp [h, failOp_wf, result_memOk]
        · simp [h, failOp_wf, result_memOk]

theorem dotAct_memOk {s : State} (h : s.mem.wf = true) (o : FW) (trans : Bool) : MemOk (dotAct o trans s).state? := by
  unfold dotAct
  split
  · exact noResult_memOk h ..
  · dsimp only
    split
    · split
      · simp [tileType_memOk]
      · split
        · split
          · exact whenFull_memOk h _ _ (whenAllWritable_memOk h _ _ (by simp [h, pairHalf_memOk, whenFull_memOk]))
          · refine whenFull_memOk h _ _ ?_
            refine whenAllWritable_memOk h _ _ ?_
            exact whenFull_memOk h _ _ (createOp_memOk (by simp [h]) _ _ _ _ fun _ _ _ h1 => by simp [h1, result_memOk])
        · split
          · exact whenFull_memOk h _ _ (whenAllWritable_memOk h _ _ (by simp [h, pairHalf_memOk, whenFull_memOk]))
          · refine whenFull_memOk h _ _ ?_
            refine whenAllWritable_memOk h _ _ ?_
            exact whenFull_memOk h _ _ (createOp_memOk (by simp [h]) _ _ _ _ fun _ _ _ h1 => by simp [h1, result_memOk])
    · split
      · simp [tileType_memOk]
      · split
        · split
          · exact whenFull_memOk h _ _ (whenAllWritable_memOk h _ _ (by simp [h, pairHalf_memOk, whenFull_memOk]))
          · refine whenFull_memOk h _ _ ?_
            refine whenAllWritable_memOk h _ _ ?_
            exact whenFull_memOk h _ _ (createOp_memOk (by simp [h]) _ _ _ _ fun _ _ _ h1 => by simp [h1, result_memOk])
        · split
          · exact whenFull_memOk h _ _ (whenAllWritable_memOk h _ _ (by simp [h, pairHalf_memOk, whenFull_memOk]))
          · refine whenFull_memOk h _ _ ?_
            refine whenAllWritable_memOk h _ _ ?_
            exact whenFull_memOk h _ _ (createOp_memOk (by simp [h]) _ _ _ _ fun _ _ _ h1 => by simp [h1, result_memOk])

theorem execWdot_memOk {s : State} (h : s.mem.wf = true) (hd : Hdr) (o : FW) : MemOk (outState? (execWdot hd o s)) :=
  runWord_memOk h fun _ h1 => dotAct_memOk h1 ..

theorem execWtdot_memOk {s : State} (h : s.mem.wf = true) (hd : Hdr) (o : FW) : MemOk (outState? (execWtdot hd o s)) :=
  runWord_memOk h fun _ h1 => dotAct_memOk h1 ..

theorem execWouter_memOk {s : State} (h : s.mem.wf = true) (hd : Hdr) (o : FW) :
    MemOk (outState? (execWouter hd o s)) := by
  unfold execWouter
  split
  · exact runWord_memOk h fun _ h1 => noResult_memOk h1 ..
  · dsimp only
    refine runWord_memOk h fun _ h1 => ?_
    split
    · simp [tileType_memOk]
    · exact whenFull_memOk h1 _ _ (createOp_memOk h1 _ _ _ _ fun _ _ _ h2 => by simp [h2, result_memOk])

theorem execWclr_memOk {s : State} (h : s.mem.wf = true) (hd : Hdr) (o : FT) : MemOk (outState? (execWclr hd o s)) :=
  runWord_memOk h fun _ h1 => by simp [h1, ite_wf, noResult_memOk]

theorem execWrel_memOk {s : State} (h : s.mem.wf = true) (hd : Hdr) (o : FT) : MemOk (outState? (execWrel hd o s)) :=
  runWord_memOk h fun _ h1 => by simp [h1, ite_wf, noResult_memOk]

theorem unbindPair_wf {s : State} (h : s.mem.wf = true) (core : Nat) : (unbindPair s core).mem.wf = true := by
  unfold unbindPair
  split
  · exact h
  · dsimp only
    rw [State.modX_mem]
    refine foldl_wf (fun s e h => ?_) ?_
    · exact failOp_wf h ..
    · refine foldl_wf (fun s e h => ?_) ?_
      · simp [h]
      · exact h

theorem execWpair_memOk {s : State} (h : s.mem.wf = true) (hd : Hdr) (o : FR) :
    MemOk (outState? (execWpair hd o s)) := by
  unfold execWpair
  split
  · dsimp only
    refine runWord_memOk h fun _ h1 => ?_
    split
    · exact result_memOk h1 ..
    · simp [h1, result_memOk]
  · dsimp only
    refine runWord_memOk h fun _ h1 => ?_
    split
    · simp [h1, result_memOk, with32_memOk]
    · refine with32_memOk h1 _ _ fun _ => ?_
      split
      · exact result_memOk h1 ..
      · simp [h1, ite_wf, result_memOk]

theorem endClaim_wf {s : State} (h : s.mem.wf = true) (core : Nat) (code : Byte) :
    (endClaim s core code).mem.wf = true := by
  unfold endClaim
  split
  · exact h
  · split
    · dsimp only
      rw [State.modB_mem]
      repeat' split
      all_goals simp [h, failOp_wf, unbindPair_wf]
    · dsimp only
      rw [State.modB_mem]
      split
      · simp [h, failOp_wf, ite_wf]
      · exact h

theorem startWlease_wf {s : State} (h : s.mem.wf = true) (x slot : Nat) (o : Op) (prio : Nat) :
    (startWlease s x slot o prio).mem.wf = true := by
  unfold startWlease
  repeat' split
  all_goals simp [h, completeOp_wf, setOpSt_wf]

theorem commitRows_wf (x slot : Nat) (m : MatArgs) (k : ActKind) (rows : List (Nat × List W32 × Nat)) (g : List W32)
    {s : State}
    (h : s.mem.wf = true) : (commitRows x slot m k rows g s).1.mem.wf = true := by
  induction rows generalizing s g with
  | nil => exact h
  | cons p rows ih =>
    unfold commitRows
    exact ih _ (opSat_wf (by simp [h]) ..)

/-! ### Starting commands (R213, R215, R226) -/

theorem beginCmd_wf {s : State} (h : s.mem.wf = true) (b : Nat) (a : Active) (occ : Nat) :
    (beginCmd s b a occ).mem.wf = true := by
  unfold beginCmd
  split
  · simp [h, setOpSt_wf, ite_wf]
  · simp [h]

theorem refuseCmd_wf {s : State} (h : s.mem.wf = true) (b k x slot : Nat) (code : Byte) (addr : W64) :
    (refuseCmd s b k x slot code addr).mem.wf = true := by
  unfold refuseCmd
  simp [h, failOp_wf]

theorem startLoad_wf {s : State} (h : s.mem.wf = true) (b k x slot : Nat) (a : W64) (cmd : ArrCmd) :
    (startLoad s b k x slot a cmd).mem.wf = true := by
  unfold startLoad
  split
  · simp [h, refuseCmd_wf, ite_wf]
  · dsimp only
    split
    · rename_i t1 hw1
      have w1 : t1.mem.wf = true := (opRead_memOk h ..).of_eq hw1
      exact w1
    · simp [h, refuseCmd_wf, ite_wf]
    · rename_i t1 _ hw1
      have w1 : t1.mem.wf = true := (opRead_memOk h ..).of_eq hw1
      repeat' split
      all_goals simp [w1, beginCmd_wf, refuseCmd_wf]

theorem startCmd_wf {s : State} (h : s.mem.wf = true) (b k x slot : Nat) (o : Op) :
    (startCmd s b k x slot o).mem.wf = true := by
  unfold startCmd
  split
  · dsimp only
    split
    · simp [h, refuseCmd_wf]
    · exact startLoad_wf h ..
  · split
    · dsimp only
      split
      · simp [h, refuseCmd_wf]
      · simp [h, refuseCmd_wf, ite_wf]
    · dsimp only
      split
      · simp [h, refuseCmd_wf]
      · simp [h, refuseCmd_wf, beginCmd_wf, ite_wf]
  · split
    · dsimp only
      split
      · simp [h, refuseCmd_wf]
      · split
        · split
          · exact refuseCmd_wf h ..
          · simp [h, refuseCmd_wf, beginCmd_wf, ite_wf]
        · split
          · exact refuseCmd_wf h ..
          · simp [h, refuseCmd_wf, beginCmd_wf, ite_wf]
    · dsimp only
      split
      · simp [h, refuseCmd_wf]
      · exact h
  · split
    · dsimp only
      split
      · simp [h, refuseCmd_wf]
      · exact refuseCmd_wf h ..
    · dsimp only
      split
      · simp [h, refuseCmd_wf]
      · simp [h, beginCmd_wf]
  · split
    · dsimp only
      split
      · simp [h, refuseCmd_wf]
      · exact refuseCmd_wf h ..
    · split
      · dsimp only
        split
        · simp [h, refuseCmd_wf]
        · exact refuseCmd_wf h ..
      · dsimp only
        split
        · simp [h, refuseCmd_wf]
        · simp [h, beginCmd_wf]
  · split
    · dsimp only
      split
      · simp [h, refuseCmd_wf]
      · exact refuseCmd_wf h ..
    · split
      · dsimp only
        split
        · simp [h, refuseCmd_wf]
        · exact refuseCmd_wf h ..
      · dsimp only
        split
        · simp [h, refuseCmd_wf]
        · simp [h, beginCmd_wf]
  · dsimp only
    split
    · simp [h, refuseCmd_wf]
    · exact h

@[simp] theorem noteArrival_mem (s : State) (b x slot : Nat) (o : Op) : (noteArrival s b x slot o).mem = s.mem := by
  unfold noteArrival
  split
  · simp
  · rfl

theorem looseCmd_wf {s : State} (h : s.mem.wf = true) (b k : Nat) : (looseCmd s b k).mem.wf = true := by
  unfold looseCmd
  dsimp only
  repeat' split
  all_goals simp [h, endClaim_wf, refuseCmd_wf, unbindPair_wf]

theorem execArrayCommandStart_memOk {s : State} (h : s.mem.wf = true) (bench : Nat) :
    MemOk (outState? (execArrayCommandStart bench s)) := by
  have w : ((List.range 4).foldl (fun s k => looseCmd s bench k) s).mem.wf = true := foldl_wf
    (fun s k h => looseCmd_wf h ..) h
  refine .some (ite_wf w ?_)
  dsimp only
  split
  · exact h
  · split
    · repeat' split
      all_goals simp [h, startLoad_wf]
    · split
      · exact h
      · split
        · split
          · exact ite_wf h (startCmd_wf (by simp [h]) ..)
          · exact h
        · exact ite_wf h (by simp [h])
        · exact h

/-! ### Completing commands -/

theorem loadRows_wf {s : State} (h : s.mem.wf = true) (core x slot b : Nat) (r : TRec) (cols n i : Nat) :
    (loadRows core x slot b r cols n i s).1.mem.wf = true := by
  induction n generalizing i s with
  | zero => exact h
  | succ n ih =>
    unfold loadRows
    dsimp only
    have w {t : OpRd ⊕ (State × List Nat)} (e :
      (if r.rows ≤ i then .inr (s, []) else readRuns core x slot r i r.runs s []) = t) :
        MemOk (t.elim OpRd.state? fun p => some p.1) := by
      subst e
      exact MemOk.of_ite (f := Sum.elim OpRd.state? fun p : State × List Nat => some p.1) (.some h)
        (readRuns_memOk _ _ _ _ _ _ h _)
    split
    · rename_i e
      exact (w e).of_some rfl
    · exact h
    · rename_i e
      exact (w e).of_some rfl
    · rename_i s' codes e
      have w' : s'.mem.wf = true := (w e).of_some rfl
      split
      · rename_i e'
        exact (MemOk.of_ite (f := OpRd.state?) (a := .ok s' []) (.some w') (opRead_memOk w' ..)).of_eq e'
      · exact h
      · rename_i e'
        exact ih ((State.modB_mem ..).symm ▸ (MemOk.of_ite (f := OpRd.state?) (a := .ok s' []) (.some w')
          (opRead_memOk w' ..)).of_eq e') _

@[simp] theorem dropActive_mem (s : State) (b : Nat) (a : Active) : (dropActive s b a).mem = s.mem := rfl

@[simp] theorem nullTag_mem (s : State) (b : Nat) : (nullTag s b).mem = s.mem := rfl

theorem finishLoad_wf {s : State} (h : s.mem.wf = true) (b : Nat) (a : Active) (x slot : Nat) :
    (finishLoad s b a x slot).mem.wf = true := by
  unfold finishLoad
  extract_lets r core isOp t va₁ va
  split
  · simp [h, completeOp_wf]
  · split
    · exact h
    · rename_i rows cols _
      have w := loadRows_wf h core x slot b r cols (rows - a.row) a.row
      split
      · rename_i e
        simp [fst_wf w e]
      · rename_i e
        have w' := fst_wf w e
        extract_lets s₁
        split
        · exact failOp_wf (by simp [s₁, w']) ..
        · simp [s₁, w']
      · rename_i e
        have w' := fst_wf w e
        extract_lets s₁
        split
        · exact completeOp_wf (by simp [s₁, w']) ..
        · simp [s₁, w']

theorem finishDot_wf {s : State} (h : s.mem.wf = true) (x slot : Nat) (m : MatArgs)
    (rows : List (Nat × List W32 × Nat)) :
    (finishDot s x slot m rows).mem.wf = true := by
  unfold finishDot
  split
  · exact h
  · rename_i k _
    have w := commitRows_wf x slot m k rows m.gens h
    split
    rename_i e
    exact ite_wf (failOp_wf (fst_wf w e) ..) (completeOp_wf (fst_wf w e) ..)

theorem finishCmd_wf {s : State} (h : s.mem.wf = true) (b : Nat) (a : Active) : (finishCmd s b a).mem.wf = true := by
  unfold finishCmd
  repeat' split
  all_goals simp [h, completeOp_wf, finishDot_wf, finishLoad_wf]

theorem execArrayCommandComplete_memOk {s : State} (h : s.mem.wf = true) (bench : Nat) :
    MemOk (outState? (execArrayCommandComplete bench s)) := by
  unfold execArrayCommandComplete
  refine .some ?_
  split
  · exact finishCmd_wf h ..
  · exact h

theorem execDrainRowAccepted_memOk {s : State} (h : s.mem.wf = true) (bench : Nat) :
    MemOk (outState? (execDrainRowAccepted bench s)) := by
  unfold execDrainRowAccepted
  refine .some ?_
  split
  · exact h
  · split
    · exact h
    · split
      · dsimp only
        split
        · rename_i t1 _ hw1
          have w1 : t1.mem.wf = true := (opWrite_memOk h ..).of_eq hw1
          simp [w1, completeOp_wf, ite_wf]
        · rename_i t1 hw1
          have w1 : t1.mem.wf = true := (opWrite_memOk h ..).of_eq hw1
          exact w1
        · simp [h, failOp_wf]
      · repeat' split
        all_goals simp [h, completeOp_wf, failOp_wf, ite_wf]
      · exact h

/-! ### Runs (R213, R214, R227) -/

theorem startRun_wf {s : State} (h : s.mem.wf = true) (b : Nat) (c : Claim) : (startRun s b c).mem.wf = true := by
  unfold startRun
  split
  · split
    · dsimp only
      split
      · split
        · simp [h, setOpSt_wf, completeOp_wf]
        · simp [h]
      · split
        · simp [h, setOpSt_wf, completeOp_wf]
        · simp [h]
    · dsimp only
      split
      · split
        · simp [h, setOpSt_wf, completeOp_wf]
        · simp [h]
      · split
        · simp [h, setOpSt_wf, completeOp_wf]
        · simp [h]
  · split
    · dsimp only
      split
      · split
        · simp [h, setOpSt_wf, completeOp_wf]
        · simp [h]
      · split
        · simp [h, setOpSt_wf, completeOp_wf]
        · simp [h]
    · dsimp only
      split
      · split
        · simp [h, setOpSt_wf, completeOp_wf]
        · simp [h]
      · split
        · simp [h, setOpSt_wf, completeOp_wf]
        · simp [h]

theorem execArrayRunStart_memOk {s : State} (h : s.mem.wf = true) (bench : Nat) :
    MemOk (outState? (execArrayRunStart bench s)) := by
  unfold execArrayRunStart
  refine .some ?_
  split
  · exact h
  · split
    · exact h
    · split
      · exact startRun_wf h ..
      · split
        · exact h
        · split
          · exact startRun_wf (startRun_wf h ..) ..
          · exact h

@[simp] theorem passRun_mem (s : State) (b : Nat) : (passRun s b).mem = s.mem := by
  unfold passRun
  split <;> rfl

theorem execArrayRunLimit_memOk {s : State} (h : s.mem.wf = true) (bench : Nat) :
    MemOk (outState? (execArrayRunLimit bench s)) := by
  unfold execArrayRunLimit
  refine .some ?_
  split
  · dsimp only
    split
    · exact h
    · split
      · simp [h]
      · simp [h, ite_wf]
  · dsimp only
    split
    · exact h
    · simp [h, ite_wf]

theorem execPairTimeout_memOk {s : State} (h : s.mem.wf = true) (bench : Nat) :
    MemOk (outState? (execPairTimeout bench s)) := by
  unfold execPairTimeout
  refine .some ?_
  repeat' split
  all_goals simp [h, failOp_wf, ite_wf]

@[simp] theorem ageClaim_mem (s : State) (b k : Nat) : (ageClaim s b k).mem = s.mem := by
  unfold ageClaim
  dsimp only
  repeat' split
  all_goals rfl

/-- A loop over the pieces of a byte whose every step leaves canonical memory leaves it. -/
theorem LineRd.foldl_memOk {α : Type} {f : LineRd → α → LineRd} (hf : ∀ r a, MemOk r.state? → MemOk (f r a).state?)
    (l : List α) {r : LineRd}
    (h : MemOk r.state?) : MemOk (l.foldl f r).state? :=
  List.foldlRecOn (motive := fun r : LineRd => MemOk r.state?) l f h fun _ hr a _ => hf _ a hr

/-! ### A copy operation (R296, R297) -/

theorem readPieces_memOk {s : State} (h : s.mem.wf = true) (b fn : Nat) (ps : List (List Piece)) (acc : List Byte) :
    MemOk (readPieces s b fn ps acc).state? := by
  induction ps generalizing acc with
  | nil => exact .some h
  | cons p l ih =>
    unfold readPieces
    dsimp only
    split
    · exact ih _
    · refine LineRd.foldl_memOk (fun r a hr => ?_) p (.some h)
      split
      · split
        · cases hr with
          | some w => exact .some w
        · exact .none
        · exact .none
      · exact hr

theorem writePieces_memOk {s : State} (h : s.mem.wf = true) (b fn : Nat) (l : List (List Piece × Byte)) :
    MemOk (writePieces b fn l s).state? := by
  induction l generalizing s with
  | nil => exact .some h
  | cons p l ih =>
    unfold writePieces
    dsimp only
    have w := LineRd.foldl_memOk (f := fun (a : LineRd) (q : Piece) =>
        match a with
        | .ok s _ =>
          (match (if q.part = 0 then .ok [0] else readFrom s (.bench b) fn .wr false 2 q.va 1) with
           | .wait v => .wait v
           | .bad c v => .bad c v
           | .ok old => match writeVa s (.bench b) fn q.va [q.get p.2 (old.headD 0)] with
             | .ok s => .ok s []
             | .wait v => .wait v
             | .bad c v => .bad c v)
        | r => r) (fun r a hr => ?_) p.1 (r := .ok s []) (.some h)
    · split
      · rename_i e
        exact ih (w.of_eq e)
      · exact w
    · split
      · cases hr with
        | some w =>
          split
          · exact .none
          · exact .none
          · split
            · rename_i e
              exact .some ((writeVa_memOk w ..).of_eq e)
            · exact .none
            · exact .none
      · exact hr

theorem countPieces_wf {s : State} (h : s.mem.wf = true) (b fn : Nat) (ps : List (List Piece)) :
    (countPieces s b fn ps).mem.wf = true := by
  unfold countPieces
  refine foldl_wf (fun s e h => ?_) ?_
  · simp [h, countAccess_wf]
  · exact h

theorem lineDone_wf {s : State} (h : s.mem.wf = true) (x slot line deliv zfill lines n : Nat) :
    (lineDone s x slot line deliv zfill lines n).mem.wf = true := by
  unfold lineDone
  dsimp only
  repeat' split
  all_goals simp [h, State.imageOp_wf, completeOp_wf]

theorem deliverLine_wf {s : State} (h : s.mem.wf = true) (x slot line : Nat) (o : Op) (c : CopyInfo) :
    (deliverLine s x slot line o c).mem.wf = true := by
  unfold deliverLine
  split
  · split
    · split
      · simp [h, failOp_wf]
      · split
        · dsimp only
          split
          · exact h
          · split
            · exact failOp_wf h ..
            · exact h
            · split
              · exact h
              · split
                · simp [h]
                · exact failOp_wf h ..
                · rename_i t1 _ hw1
                  have w1 : t1.mem.wf = true := (readPieces_memOk h ..).of_eq hw1
                  split
                  · simp [w1, countPieces_wf, lineDone_wf]
                  · exact lineDone_wf (countPieces_wf w1 ..) ..
        · dsimp only
          split
          · exact h
          · split
            · exact failOp_wf h ..
            · exact h
            · split
              · exact h
              · split
                · exact failOp_wf h ..
                · split
                  · simp [h]
                  · exact failOp_wf h ..
                  · rename_i t1 _ hw1
                    have w1 : t1.mem.wf = true := (writePieces_memOk h ..).of_eq hw1
                    simp [w1, countPieces_wf, lineDone_wf]

theorem cancelLine_wf {s : State} (h : s.mem.wf = true) (x slot line : Nat) (o : Op) (c : CopyInfo) :
    (cancelLine s x slot line o c).mem.wf = true := by
  unfold cancelLine
  split
  · exact h
  · dsimp only
    split
    · split
      · exact deliverLine_wf h ..
      · split
        · exact cancelOp_wf (deliverLine_wf h ..) ..
        · exact cancelOp_wf h ..
    · exact deliverLine_wf h ..

theorem execCopyLineDelivery_memOk {s : State} (h : s.mem.wf = true) (ctx slot line : Nat) :
    MemOk (outState? (execCopyLineDelivery ctx slot line s)) := by
  unfold execCopyLineDelivery
  refine .some ?_
  repeat' split
  all_goals simp [h, cancelLine_wf, deliverLine_wf]

theorem startCopy_wf {s : State} (h : s.mem.wf = true) (x slot : Nat) (o : Op) :
    (startCopy s x slot o).mem.wf = true := by
  unfold startCopy
  split
  · exact h
  · simp [h, startOp_wf]

theorem execCpy_memOk {s : State} (h : s.mem.wf = true) (hd : Hdr) (o : FO) : MemOk (outState? (execCpy hd o s)) := by
  unfold execCpy
  dsimp only
  refine runWord_memOk h fun _ h1 => ?_
  split
  · refine with32_memOk h1 _ _ fun _ => ?_
    split
    · refine with64_memOk h1 _ _ fun _ => ?_
      refine withAfter_memOk h1 _ _ _ fun _ => ?_
      exact whenPassed_memOk h1 _ (makeOp_memOk h1 _ _ _ _ fun _ _ _ h2 => result_memOk (failOp_wf h2 ..) ..)
    · refine with64_memOk h1 _ _ fun _ => ?_
      exact withAfter_memOk h1 _ _ _ fun _ => whenPassed_memOk h1 _ (createOp_memOk h1 _ _ _ _ fun _ _ _ h2 =>
        by simp [h2, result_memOk])
  · refine with32_memOk h1 _ _ fun _ => ?_
    split
    · refine with64_memOk h1 _ _ fun _ => ?_
      refine withAfter_memOk h1 _ _ _ fun _ => ?_
      exact whenPassed_memOk h1 _ (makeOp_memOk h1 _ _ _ _ fun _ _ _ h2 => result_memOk (failOp_wf h2 ..) ..)
    · refine with64_memOk h1 _ _ fun _ => ?_
      exact withAfter_memOk h1 _ _ _ fun _ => whenPassed_memOk h1 _ (createOp_memOk h1 _ _ _ _ fun _ _ _ h2 =>
        by simp [h2, result_memOk])

theorem execCstage_memOk {s : State} (h : s.mem.wf = true) (hd : Hdr) (o : FR) :
    MemOk (outState? (execCstage hd o s)) := by
  unfold execCstage
  split
  · dsimp only
    exact runWord_memOk h fun _ h1 => with32_memOk h1 _ _ fun _ => by simp [h1, result_memOk, whenPassed_memOk]
  · dsimp only
    exact runWord_memOk h fun _ h1 => by simp [h1, result_memOk, whenPassed_memOk]

/-! ### The words (R309) -/

theorem execGid_memOk {s : State} (h : s.mem.wf = true) (hd : Hdr) (o : FR) : MemOk (outState? (execGid hd o s)) :=
  runWord_memOk h fun _ h1 => result_memOk h1 ..

theorem execGrank_memOk {s : State} (h : s.mem.wf = true) (hd : Hdr) (o : FR) : MemOk (outState? (execGrank hd o s)) :=
  runWord_memOk h fun _ h1 => result_memOk h1 ..

theorem execGsize_memOk {s : State} (h : s.mem.wf = true) (hd : Hdr) (o : FR) :
    MemOk (outState? (execGsize hd o s)) := by
  unfold execGsize
  split <;> exact runWord_memOk h fun _ h1 => result_memOk h1 ..

theorem execGpeer_memOk {s : State} (h : s.mem.wf = true) (hd : Hdr) (o : FR) :
    MemOk (outState? (execGpeer hd o s)) := by
  unfold execGpeer
  split
  · dsimp only
    exact runWord_memOk h fun _ h1 => result_memOk h1 ..
  · dsimp only
    exact runWord_memOk h fun _ h1 => by simp [h1, result_memOk, with32_memOk]
  · dsimp only
    exact runWord_memOk h fun _ h1 => by simp [h1, result_memOk, with32_memOk]

theorem execGshare_memOk {s : State} (h : s.mem.wf = true) (hd : Hdr) (o : FR) :
    MemOk (outState? (execGshare hd o s)) := by
  unfold execGshare
  split
  · dsimp only
    exact runWord_memOk h fun _ h1 => with32_memOk h1 _ _ fun _ => with32_memOk h1 _ _ fun _ => by simp
      [h1, result_memOk, with32_memOk]
  · dsimp only
    exact runWord_memOk h fun _ h1 => by simp [h1, result_memOk, with32_memOk]
  · dsimp only
    exact runWord_memOk h fun _ h1 => by simp [h1, result_memOk, with32_memOk]

theorem execGclaim_memOk {s : State} (h : s.mem.wf = true) (hd : Hdr) (o : FR) :
    MemOk (outState? (execGclaim hd o s)) := by
  unfold execGclaim
  refine runWord_memOk h fun _ h1 => ?_
  split
  · exact requestAct_memOk h1 ..
  · exact .none

@[simp] theorem replyTo_mem (s : State) (k : Nat) (v : W64) : (replyTo s k v).mem = s.mem := rfl

@[simp] theorem failTo_mem (s : State) (k : Nat) (code : Byte) (va : W64) : (failTo s k code va).mem = s.mem := rfl

theorem homeClaim_wf {s : State} (h : s.mem.wf = true) (k : Nat) (a : Ask) : (homeClaim s k a).mem.wf = true := by
  unfold homeClaim
  split
  · split
    · simp [h]
    · exact h
  · dsimp only
    split
    · simp [h]
    · simp [h]
    · split
      · rename_i t1 hw1
        have w1 : t1.mem.wf = true := (writePerm_memOk h ..).of_eq hw1
        simp [w1, countLines_wf]
      · simp [h]
      · simp [h]

/-! ### Events at the home (R315) -/

@[simp] theorem wakeBar_mem (s : State) (x b : Nat) (e : Barrier) (test : Bool) :
    (wakeBar s x b e test).mem = s.mem := rfl

theorem changeBar_wf {s : State} (h : s.mem.wf = true) (x b : Nat) (e : Barrier) :
    (changeBar s x b e).mem.wf = true := by
  unfold changeBar
  simp [h, ite_wf, State.putBar_wf]

@[simp] theorem castComplete_mem (s : State) (x b : Nat) (before e : Barrier) : (castComplete s x b before e).mem =
    s.mem := by
  unfold castComplete
  split
  · simp
  · rfl

theorem homeEvent_memOk {s : State} (h : s.mem.wf = true) (x b : Nat) (isLeave : Bool) :
    MemOk ((homeEvent s x b isLeave).map Prod.fst) := by
  unfold homeEvent
  rw [Option.map_map]
  cases (if isLeave then (s.getBar x b).leave else (s.getBar x b).arrive) with
  | none => exact .none
  | some r => exact .some (by simp [h, changeBar_wf])

theorem homeInit_wf {s : State} (h : s.mem.wf = true) (k : Nat) (a : Ask) : (homeInit s k a).mem.wf = true := by
  unfold homeInit
  split <;> simp [h, changeBar_wf, ite_wf]

@[simp] theorem finishInit_mem (s : State) (k : Nat) (a : Ask) : (finishInit s k a).mem = s.mem := by
  unfold finishInit
  dsimp only
  repeat' split
  all_goals rfl

/-! ### Arrivals and waits (R320-R323) -/

theorem homeArrive_wf {s : State} (h : s.mem.wf = true) (k : Nat) (a : Ask) : (homeArrive s k a).mem.wf = true := by
  unfold homeArrive
  dsimp only
  split
  · simp [h]
  · split
    · split
      · rename_i e
        rw [replyTo_mem]
        exact (homeEvent_memOk h ..).of_eq e
      · simp [h]
    · split
      · simp [h]
      · simp [h]

@[simp] theorem lostArrive_mem (s : State) (k : Nat) : (lostArrive s k).mem = s.mem := by
  unfold lostArrive
  repeat' split
  all_goals rfl

@[simp] theorem lostArrivals_mem (s : State) (fn peer : Nat) : (lostArrivals s fn peer).mem = s.mem :=
  foldl_mem fun s e => by simp

@[simp] theorem homeWait_mem (s : State) (k : Nat) (a : Ask) : (homeWait s k a).mem = s.mem := by
  unfold homeWait
  dsimp only
  split <;> rfl

theorem execBarrierMulticast_memOk {s : State} (h : s.mem.wf = true) (ctx b : Nat) (u : BarUpdate) :
    MemOk (outState? (execBarrierMulticast ctx b u s)) := by
  unfold execBarrierMulticast
  refine .some ?_
  repeat' split
  all_goals simp [h, changeBar_wf, ite_wf]

theorem messageBreak_wf {s : State} (h : s.mem.wf = true) (fn : Nat) (id : W32) (epoch : Byte) (gen : BitVec 16)
    (code : Byte) (b : Nat) : (messageBreak s fn id epoch gen code b).mem.wf = true := by
  unfold messageBreak
  split
  · simp [h, State.breakBar_wf, ite_wf]
  · refine foldl_wf (fun s e h => ?_) ?_
    · simp [h]
    · exact h

theorem breakTable_wf {s : State} (h : s.mem.wf = true) (x : Nat) (id : W32) : (breakTable s x id).mem.wf = true := by
  unfold breakTable
  dsimp only
  refine foldl_wf (fun s e h => ?_) ?_
  · simp [h, State.breakBar_wf]
  · exact h

/-! ### The words (R320) -/

theorem barAct_memOk {s : State} (h : s.mem.wf = true) (d : BitVec 7) (k : Ask) : MemOk (barAct s d k).state? := by
  unfold barAct
  split
  · exact .none
  · exact requestAct_memOk h ..

theorem execBarinit_memOk {s : State} (h : s.mem.wf = true) (hd : Hdr) (o : FR) :
    MemOk (outState? (execBarinit hd o s)) := by
  unfold execBarinit
  split
  · dsimp only
    refine runWord_memOk h fun _ h1 => ?_
    refine with32_memOk h1 _ _ fun _ => ?_
    refine with32_memOk h1 _ _ fun _ => ?_
    split
    · exact .none
    · exact barAct_memOk h1 ..
  · dsimp only
    refine runWord_memOk h fun _ h1 => ?_
    refine with32_memOk h1 _ _ fun _ => ?_
    refine with32_memOk h1 _ _ fun _ => ?_
    split
    · exact .none
    · refine with32_memOk h1 _ _ fun _ => ?_
      split
      · split
        · exact .none
        · exact barAct_memOk h1 ..
      · split
        · exact .none
        · exact barAct_memOk h1 ..

theorem execBarrive_memOk {s : State} (h : s.mem.wf = true) (hd : Hdr) (o : FR) :
    MemOk (outState? (execBarrive hd o s)) :=
  runWord_memOk h fun _ h1 => by simp [h1, barAct_memOk, with32_memOk]

theorem execBarwait_memOk {s : State} (h : s.mem.wf = true) (hd : Hdr) (o : FR) :
    MemOk (outState? (execBarwait hd o s)) :=
  runWord_memOk h fun _ h1 => with32_memOk h1 _ _ fun _ => by simp [h1, barAct_memOk, with32_memOk]

theorem execBartest_memOk {s : State} (h : s.mem.wf = true) (hd : Hdr) (o : FR) :
    MemOk (outState? (execBartest hd o s)) :=
  runWord_memOk h fun _ h1 => with32_memOk h1 _ _ fun _ => by simp [h1, barAct_memOk, with32_memOk]

theorem execBarleave_memOk {s : State} (h : s.mem.wf = true) (hd : Hdr) (o : FR) :
    MemOk (outState? (execBarleave hd o s)) :=
  runWord_memOk h fun _ h1 => by simp [h1, barAct_memOk, with32_memOk]

theorem execNop_memOk {s : State} (h : s.mem.wf = true) (st : StreamId) (hd : Hdr) (o : NO) :
    MemOk (outState? (execNop st hd o s)) :=
  runWord_memOk h fun _ h1 => noResult_memOk h1 ..

theorem alignAct_memOk {s : State} (h : s.mem.wf = true) (st : StreamId) : MemOk (alignAct st s).state? := by
  unfold alignAct
  dsimp only
  split
  · split
    · exact .some h
    · split
      · exact noResult_memOk h ..
      · split
        · simp [h, noResult_memOk]
        · exact .some h
  · split
    · exact noResult_memOk h ..
    · split
      · simp [h, noResult_memOk]
      · exact .some h

theorem execAlign_memOk {s : State} (h : s.mem.wf = true) (st : StreamId) (hd : Hdr) (o : NO) :
    MemOk (outState? (execAlign st hd o s)) :=
  runWord_memOk h fun _ h1 => alignAct_memOk h1 ..

theorem execStop_memOk {s : State} (h : s.mem.wf = true) (st : StreamId) (hd : Hdr) (o : NO) :
    MemOk (outState? (execStop st hd o s)) := by
  unfold execStop
  refine runWord_memOk h fun _ h1 => ?_
  split
  · exact .some h1
  · simp [h1, noResult_memOk]

theorem loopAct_memOk {s : State} (h : s.mem.wf = true) (st : StreamId) (level : BitVec 3) (count : Nat) :
    MemOk (loopAct st level count s).state? := by
  unfold loopAct
  dsimp only
  split
  · split
    · exact .none
    · split
      · split
        · exact .some h
        · exact .none
        · exact .some (by simp [h])
        · exact .some h
      · simp [h, noResult_memOk]
  · split
    · exact .none
    · split
      · split
        · exact .some h
        · exact .none
        · exact .some (by simp [h])
        · exact .some h
      · simp [h, noResult_memOk]

theorem execLoop_memOk {s : State} (h : s.mem.wf = true) (st : StreamId) (hd : Hdr) (o : FL) :
    MemOk (outState? (execLoop st hd o s)) := by
  unfold execLoop
  split
  · dsimp only
    exact runWord_memOk h fun _ h1 => loopAct_memOk h1 ..
  · split
    · exact runWord_memOk h fun _ h1 => by simp [h1, loopAct_memOk, withV_memOk]
    · exact runWord_memOk h fun _ h1 => by simp [h1, loopAct_memOk, with32_memOk]

theorem execEndl_memOk {s : State} (h : s.mem.wf = true) (st : StreamId) (hd : Hdr) (o : FL) :
    MemOk (outState? (execEndl st hd o s)) := by
  unfold execEndl
  dsimp only
  refine runWord_memOk h fun _ h1 => ?_
  split
  · exact noResult_memOk h1 ..
  · split
    · exact .some h1
    · simp [h1, noResult_memOk]

theorem execBrk_memOk {s : State} (h : s.mem.wf = true) (st : StreamId) (hd : Hdr) (o : FI) :
    MemOk (outState? (execBrk st hd o s)) := by
  unfold execBrk
  dsimp only
  refine runWord_memOk h fun _ h1 => ?_
  split
  · exact .some h1
  · split
    · simp [h1, noResult_memOk]
    · exact .none

theorem execLdlit_memOk {s : State} (h : s.mem.wf = true) (st : StreamId) (hd : Hdr) (o : FI) :
    MemOk (outState? (execLdlit st hd o s)) := by
  unfold execLdlit
  split
  · exact runWord_memOk h fun _ h1 => by simp [h1, vresult_memOk, withCode_memOk]
  · exact runWord_memOk h fun _ h1 => by simp [h1, result_memOk, withCode_memOk]

theorem execPool_memOk {s : State} (h : s.mem.wf = true) (st : StreamId) (hd : Hdr) (o : FI) :
    MemOk (outState? (execPool st hd o s)) :=
  .some (by simp [h, ite_wf])

theorem execBr_memOk {s : State} (h : s.mem.wf = true) (st : StreamId) (hd : Hdr) (o : FB) :
    MemOk (outState? (execBr st hd o s)) := by
  unfold execBr
  refine runWord_memOk h fun _ h1 => ?_
  split
  · exact .some h1
  · exact .some h1

theorem imageNode_wf {s : State} (h : s.mem.wf = true) (x q seq : Nat) : (imageNode s x q seq).mem.wf = true := by
  unfold imageNode
  dsimp only
  split
  · exact h
  · exact State.devWrite_wf (State.devWrite_wf h ..) ..

@[simp] theorem State.putNode_mem (s : State) (x q seq : Nat) (n : Node) : (s.putNode x q seq n).mem = s.mem := rfl

@[simp] theorem State.modNode_mem (s : State) (x q seq : Nat) (f : Node → Node) :
    (s.modNode x q seq f).mem = s.mem := by
  unfold State.modNode
  split <;> rfl

theorem settleCtx_wf {s : State} (h : s.mem.wf = true) (x : Nat) : (settleCtx s x).mem.wf = true := by
  unfold settleCtx
  dsimp only
  repeat' split
  all_goals simp [h, State.setCtxSt_wf]

theorem settleQueue_wf {s : State} (h : s.mem.wf = true) (x q : Nat) : (settleQueue s x q).mem.wf = true := by
  unfold settleQueue
  simp [h, settleCtx_wf]

/-! ### Decrements and ends (R329) -/

@[simp] theorem decNode_mem (s : State) (x q seq : Nat) : (decNode s x q seq).mem = s.mem := rfl

theorem closeNode_wf {s : State} (h : s.mem.wf = true) (x q seq : Nat) (st : NodeSt) (code : Byte) :
    (closeNode s x q seq st code).mem.wf = true := by
  unfold closeNode
  split
  · exact h
  · dsimp only
    split
    · refine settleQueue_wf ?_ ..
      refine postEvent_wf ?_ ..
      rw [State.modQ_mem]
      refine foldl_wf (fun s e h => ?_) ?_
      · simp [h]
      · refine foldl_wf (fun s e h => ?_) ?_
        · simp [h]
        · simp [h, imageNode_wf]
    · refine settleQueue_wf ?_ ..
      refine foldl_wf (fun s e h => ?_) ?_
      · simp [h]
      · refine foldl_wf (fun s e h => ?_) ?_
        · simp [h]
        · simp [h, imageNode_wf]

@[simp] theorem endNode_mem (s : State) (x q seq : Nat) (code : Byte) (foff : W32) :
    (endNode s x q seq code foff).mem = s.mem := by
  unfold endNode
  simp

theorem execNodeFinish_memOk {s : State} (h : s.mem.wf = true) (ctx q seq : Nat) :
    MemOk (outState? (execNodeFinish ctx q seq s)) := by
  unfold execNodeFinish
  refine .some ?_
  repeat' split
  all_goals simp [h, closeNode_wf]

/-! ### Becoming visible (R326, R328) -/

theorem enterNode_wf {s : State} (h : s.mem.wf = true) (x q seq : Nat) (l : List Byte) (early : Option Byte) :
    (enterNode s x q seq l early).mem.wf = true := by
  unfold enterNode
  simp [h, imageNode_wf]

theorem readSlot_wf {s : State} (h : s.mem.wf = true) (x q seq : Nat) : (readSlot s x q seq).mem.wf = true := by
  unfold readSlot
  dsimp only
  split
  · rename_i t1 _ hw1
    have w1 : t1.mem.wf = true := (opRead_memOk h ..).of_eq hw1
    simp [w1, enterNode_wf]
  · rename_i t1 hw1
    have w1 : t1.mem.wf = true := (opRead_memOk h ..).of_eq hw1
    exact w1
  · simp [h, enterNode_wf]

theorem applyTail_wf {s : State} (h : s.mem.wf = true) (x q : Nat) (t : W32) : (applyTail s x q t).mem.wf = true := by
  unfold applyTail
  simp [h, settleQueue_wf, ite_wf]

theorem execQtailWrite_memOk {s : State} (h : s.mem.wf = true) (ctx q : Nat) (val : BitVec 32) :
    MemOk (outState? (execQtailWrite ctx q val s)) := by
  unfold execQtailWrite
  refine .some ?_
  split
  · exact h
  · simp [h, applyTail_wf, ite_wf]

theorem releaseCond_wf {s : State} (h : s.mem.wf = true) (x q seq : Nat) (n : Node) :
    (releaseCond s x q seq n).mem.wf = true := by
  unfold releaseCond
  dsimp only
  split
  · rename_i t1 hw1
    have w1 : t1.mem.wf = true := (opRead_memOk h ..).of_eq hw1
    exact w1
  · simp [h]
  · rename_i t1 _ hw1
    have w1 : t1.mem.wf = true := (opRead_memOk h ..).of_eq hw1
    simp [w1]

theorem execNodeRelease_memOk {s : State} (h : s.mem.wf = true) (ctx q seq : Nat) :
    MemOk (outState? (execNodeRelease ctx q seq s)) := by
  unfold execNodeRelease
  refine .some ?_
  dsimp only
  split
  · exact h
  · split
    · split
      · exact h
      · exact settleQueue_wf (readSlot_wf h ..) ..
    · repeat' split
      all_goals simp [h, imageNode_wf, releaseCond_wf, settleCtx_wf]

/-! ### Copy, signal and wait nodes (R327, R330) -/

theorem runNode_wf {s : State} (h : s.mem.wf = true) (x q seq : Nat) (engine : Option Nat) :
    (runNode s x q seq engine).mem.wf = true := by
  unfold runNode
  simp [h, imageNode_wf, settleQueue_wf]

theorem copyPiece_wf {s : State} (h : s.mem.wf = true) (x q seq : Nat) (n : Node) :
    (copyPiece s x q seq n).mem.wf = true := by
  unfold copyPiece
  split
  · simp [h]
  · split
    · exact h
    · dsimp only
      split
      · rename_i t1 hw1
        have w1 : t1.mem.wf = true := (opRead_memOk h ..).of_eq hw1
        exact w1
      · simp [h]
      · rename_i t1 _ hw1
        have w1 : t1.mem.wf = true := (opRead_memOk h ..).of_eq hw1
        split
        · rename_i t2 hw2
          have w2 : t2.mem.wf = true := (opWrite_memOk w1 ..).of_eq hw2
          exact w2
        · simp [w1]
        · rename_i t2 _ hw2
          have w2 : t2.mem.wf = true := (opWrite_memOk w1 ..).of_eq hw2
          simp [w2]

theorem execCopyNodeRun_memOk {s : State} (h : s.mem.wf = true) (ctx q seq : Nat) :
    MemOk (outState? (execCopyNodeRun ctx q seq s)) := by
  unfold execCopyNodeRun
  refine .some ?_
  repeat' split
  all_goals simp [h, copyPiece_wf, runNode_wf]

theorem signalNode_wf {s : State} (h : s.mem.wf = true) (x q seq : Nat) (n : Node) :
    (signalNode s x q seq n).mem.wf = true := by
  unfold signalNode
  split
  · dsimp only
    split
    · rename_i t1 hw1
      have w1 : t1.mem.wf = true := (opWrite_memOk h ..).of_eq hw1
      exact w1
    · simp [h]
    · rename_i t1 _ hw1
      have w1 : t1.mem.wf = true := (opWrite_memOk h ..).of_eq hw1
      simp [w1]
  · dsimp only
    split
    · rename_i t1 hw1
      have w1 : t1.mem.wf = true := (opReadAs_memOk h ..).of_eq hw1
      exact w1
    · simp [h]
    · rename_i t1 _ hw1
      have w1 : t1.mem.wf = true := (opReadAs_memOk h ..).of_eq hw1
      split
      · rename_i t2 hw2
        have w2 : t2.mem.wf = true := (opWrite_memOk w1 ..).of_eq hw2
        exact w2
      · simp [w1]
      · rename_i t2 _ hw2
        have w2 : t2.mem.wf = true := (opWrite_memOk w1 ..).of_eq hw2
        simp [w2]

theorem execSignalNodeRun_memOk {s : State} (h : s.mem.wf = true) (ctx q seq : Nat) :
    MemOk (outState? (execSignalNodeRun ctx q seq s)) := by
  unfold execSignalNodeRun
  refine .some ?_
  split
  · exact h
  · split
    · exact h
    · split
      · exact signalNode_wf (runNode_wf h ..) ..
      · simp [h, signalNode_wf, ite_wf]

theorem execWaitNodeSatisfied_memOk {s : State} (h : s.mem.wf = true) (ctx q seq : Nat) :
    MemOk (outState? (execWaitNodeSatisfied ctx q seq s)) := by
  unfold execWaitNodeSatisfied
  refine .some ?_
  split
  · exact h
  · split
    · exact h
    · split
      · dsimp only
        split
        · exact runNode_wf h ..
        · split
          · rename_i t1 hw1
            have w1 : t1.mem.wf = true := (opRead_memOk (runNode_wf h ..) ..).of_eq hw1
            exact w1
          · simp [h, runNode_wf]
          · rename_i t1 _ hw1
            have w1 : t1.mem.wf = true := (opRead_memOk (runNode_wf h ..) ..).of_eq hw1
            simp [w1, h, runNode_wf, ite_wf]
      · dsimp only
        split
        · exact h
        · split
          · rename_i t1 hw1
            have w1 : t1.mem.wf = true := (opRead_memOk h ..).of_eq hw1
            exact w1
          · simp [h]
          · rename_i t1 _ hw1
            have w1 : t1.mem.wf = true := (opRead_memOk h ..).of_eq hw1
            simp [w1, h, ite_wf]

/-! ### Commands and registers of a queue (R325, R332) -/

theorem execQueueEnableWrite_memOk {s : State} (h : s.mem.wf = true) (ctx q : Nat) (on : Bool) :
    MemOk (outState? (execQueueEnableWrite ctx q on s)) :=
  .some (by simp [h, ite_wf])

theorem execQueueSuspend_memOk {s : State} (h : s.mem.wf = true) (ctx q : Nat) :
    MemOk (outState? (execQueueSuspend ctx q s)) :=
  .some h

theorem execQueueResume_memOk {s : State} (h : s.mem.wf = true) (ctx q : Nat) :
    MemOk (outState? (execQueueResume ctx q s)) :=
  .some h

theorem execQueueDrain_memOk {s : State} (h : s.mem.wf = true) (ctx q : Nat) :
    MemOk (outState? (execQueueDrain ctx q s)) :=
  .some h

theorem failOpenNodes_wf {s : State} (h : s.mem.wf = true) (x q : Nat) (code : Byte) :
    (failOpenNodes s x q code).mem.wf = true := by
  unfold failOpenNodes
  dsimp only
  rw [State.modQ_mem]
  refine foldl_wf (fun s e h => ?_) ?_
  · simp [h, State.devWrite_wf, ite_wf]
  · exact h

theorem execQueueDead_memOk {s : State} (h : s.mem.wf = true) (ctx q : Nat) :
    MemOk (outState? (execQueueDead ctx q s)) := by
  unfold execQueueDead
  refine .some ?_
  dsimp only
  split
  · exact h
  · simp [h, failOpenNodes_wf, settleCtx_wf]

/-! ### Device appends (R334) -/

theorem execQlaunch_memOk {s : State} (h : s.mem.wf = true) (hd : Hdr) (o : FO) :
    MemOk (outState? (execQlaunch hd o s)) := by
  unfold execQlaunch
  refine runWord_memOk h fun _ h1 => ?_
  refine with32_memOk h1 _ _ fun _ => ?_
  exact with64_memOk h1 _ _ fun _ => withAfter_memOk h1 _ _ _ fun _ => createOp_memOk h1 _ _ _ _ fun _ _ _ h2 =>
    result_memOk h2 ..

theorem appendNode_wf {s : State} (h : s.mem.wf = true) (x slot : Nat) (q : W32) (va : W64) :
    (appendNode s x slot q va).mem.wf = true := by
  unfold appendNode
  split
  · simp [h, failOp_wf]
  · split
    · simp [h, failOp_wf, ite_wf]
    · split
      · rename_i t1 hw1
        have w1 : t1.mem.wf = true := (opRead_memOk h ..).of_eq hw1
        simp [h, failOp_wf, w1, ite_wf]
      · simp [h, failOp_wf, ite_wf]
      · rename_i t1 _ hw1
        have w1 : t1.mem.wf = true := (opRead_memOk h ..).of_eq hw1
        dsimp only
        split
        · split
          · exact failOp_wf h ..
          · split
            · exact failOp_wf w1 ..
            · split
              · exact failOp_wf w1 ..
              · split
                · rename_i t2 hw2
                  have w2 : t2.mem.wf = true := (opWrite_memOk w1 ..).of_eq hw2
                  exact w2
                · exact failOp_wf w1 ..
                · rename_i t2 _ hw2
                  have w2 : t2.mem.wf = true := (opWrite_memOk w1 ..).of_eq hw2
                  exact finishOp_wf (by simp [w2, enterNode_wf, settleQueue_wf]) ..
        · split
          · exact failOp_wf h ..
          · split
            · exact failOp_wf w1 ..
            · split
              · exact failOp_wf w1 ..
              · split
                · rename_i t2 hw2
                  have w2 : t2.mem.wf = true := (opWrite_memOk w1 ..).of_eq hw2
                  exact w2
                · exact failOp_wf w1 ..
                · rename_i t2 _ hw2
                  have w2 : t2.mem.wf = true := (opWrite_memOk w1 ..).of_eq hw2
                  exact finishOp_wf (by simp [w2, enterNode_wf, settleQueue_wf]) ..
        · split
          · exact failOp_wf h ..
          · split
            · exact failOp_wf w1 ..
            · split
              · exact failOp_wf w1 ..
              · split
                · rename_i t2 hw2
                  have w2 : t2.mem.wf = true := (opWrite_memOk w1 ..).of_eq hw2
                  exact w2
                · exact failOp_wf w1 ..
                · rename_i t2 _ hw2
                  have w2 : t2.mem.wf = true := (opWrite_memOk w1 ..).of_eq hw2
                  exact finishOp_wf (by simp [w2, enterNode_wf, settleQueue_wf]) ..
        · simp [h, failOp_wf]

theorem execLaunchAppend_memOk {s : State} (h : s.mem.wf = true) (ctx slot : Nat) :
    MemOk (outState? (execLaunchAppend ctx slot s)) := by
  unfold execLaunchAppend
  refine .some ?_
  repeat' split
  all_goals simp [h, appendNode_wf]

@[simp] theorem homeSignal_mem (s : State) (k : Nat) (a : Ask) : (homeSignal s k a).mem = s.mem := by
  unfold homeSignal
  dsimp only
  repeat' split
  all_goals rfl

theorem execQsignal_memOk {s : State} (h : s.mem.wf = true) (hd : Hdr) (o : FR) :
    MemOk (outState? (execQsignal hd o s)) := by
  unfold execQsignal
  refine runWord_memOk h fun _ h1 => ?_
  refine with32_memOk h1 _ _ fun _ => ?_
  split
  · exact with32_memOk h1 _ _ fun _ => .none
  · simp [h1, requestAct_memOk, with32_memOk]

/-- The next part of admission goes on from the canonical memory of the last. -/
theorem MemOk.andThen {α β : Type} {r : Adm α} {f : State → α → Adm β} (w : MemOk r.state?)
    (hf : ∀ s a, s.mem.wf = true → MemOk (f s a).state?) : MemOk (r.andThen f).state? := by
  cases r with
  | ok s a => exact hf _ _ (w.of_some rfl)
  | wait s => exact w
  | fail s => exact w

theorem readStruct_memOk {s : State} (h : s.mem.wf = true) (x key structure_ : Nat) (va : W64) (n : Nat) :
    MemOk (readStruct s x key structure_ va n).state? := by
  unfold readStruct
  split
  · refine .some ?_
    rename_i t1 _ hw1
    have w1 : t1.mem.wf = true := (opRead_memOk h ..).of_eq hw1
    exact w1
  · refine .some ?_
    rename_i t1 hw1
    have w1 : t1.mem.wf = true := (opRead_memOk h ..).of_eq hw1
    exact w1
  · exact .some h

theorem check_memOk {s : State} (h : s.mem.wf = true) (code : Byte) (structure_ : Nat) (bad : Option Nat) :
    MemOk (check s code structure_ bad).state? := by
  unfold check
  split <;> exact .some h

theorem admitChecks_memOk {s : State} (h : s.mem.wf = true) (x key : Nat) (va : W64) :
    MemOk (admitChecks s x key va).state? := by
  unfold admitChecks
  refine (check_memOk h ..).andThen fun _ _ h => (readStruct_memOk h ..).andThen fun _ _ h =>
    (check_memOk h ..).andThen fun _ _ h => ?_
  dsimp only
  split
  · exact .some h
  · exact (readStruct_memOk h ..).andThen fun _ _ h => (check_memOk h ..).andThen fun _ _ h =>
      (check_memOk h ..).andThen fun _ _ h =>
      (check_memOk h ..).andThen fun _ _ h => (check_memOk h ..).andThen fun _ _ h => (check_memOk h ..).andThen fun
        _ _ h =>
      (readStruct_memOk h ..).andThen fun _ _ h => (check_memOk h ..).andThen fun _ _ h =>
        (check_memOk h ..).andThen fun _ _ h =>
      (readStruct_memOk h ..).andThen fun _ _ h => (check_memOk h ..).andThen fun _ _ h => .some h

/-! ### Process-group tables (R302, R303, R305, R461) -/

theorem readPg_memOk {s : State} (h : s.mem.wf = true) (x key : Nat) (va : W64) : MemOk (readPg s x key va).state? := by
  unfold readPg
  refine (readStruct_memOk h ..).andThen fun _ _ h => (check_memOk h ..).andThen fun _ _ h =>
    (readStruct_memOk h ..).andThen fun _ _ h =>
    (check_memOk h ..).andThen fun _ _ h => (check_memOk h ..).andThen fun _ _ h => ?_
  dsimp only
  split <;> exact .some h

@[simp] theorem State.modPg_mem (s : State) (x : Nat) (id : W32) (f : PgTable → PgTable) :
    (s.modPg x id f).mem = s.mem := rfl

@[simp] theorem formPg_mem (s : State) (x : Nat) (id : W32) : (formPg s x id).mem = s.mem := rfl

@[simp] theorem registerPg_mem (s : State) (x : Nat) (id : W32) (t : PgTable) : (registerPg s x id t).mem = s.mem := by
  unfold registerPg
  simp

@[simp] theorem failWaiting_mem (s : State) (x : Nat) (id : W32) : (failWaiting s x id).mem = s.mem := foldl_mem fun
    s e => by simp

theorem dissolvePg_wf {s : State} (h : s.mem.wf = true) (x : Nat) (id : W32) : (dissolvePg s x id).mem.wf = true := by
  unfold dissolvePg
  simp [h, breakTable_wf]

theorem admitPg_memOk {s : State} (h : s.mem.wf = true) (x q seq key : Nat) (n : Node) (inst : Inst) :
    MemOk (admitPg s x q seq key n inst).state? := by
  unfold admitPg
  refine MemOk.of_ite (.some h) ?_
  split
  · split <;> exact .some h
  · extract_lets forming
    have wforming {s : State} (h : s.mem.wf = true) (id : W32) : MemOk (forming s id).state? := .some (by simp [h])
    refine (readPg_memOk h ..).andThen fun s ⟨id, t⟩ h => ?_
    dsimp -zeta only
    extract_lets fresh
    have wfresh {s : State} (h : s.mem.wf = true) : MemOk (fresh s).state? := by
      refine MemOk.of_ite (.some h) ?_
      have w : (registerPg s x id t).mem.wf = true := by simp [h]
      dsimp only
      split
      · exact MemOk.of_ite (.some w) (wforming w _)
      · exact .some w
    split
    · exact wfresh h
    · rename_i u _
      refine MemOk.of_ite (wfresh (by simp [h])) (MemOk.of_ite (wfresh (dissolvePg_wf (by simp [h]) ..)) ?_)
      split
      · exact .some (by simp [h])
      · exact .some (by simp [h])
      · exact wforming (by simp [h]) _

theorem execFormationTimeout_memOk {s : State} (h : s.mem.wf = true) (ctx : Nat) (id : BitVec 32) :
    MemOk (outState? (execFormationTimeout ctx id s)) := by
  unfold execFormationTimeout
  refine .some ?_
  split
  · simp [h, dissolvePg_wf, ite_wf]
  · exact h

/-! ### Selecting and binding a node (R283, R300, R301, R333, R339) -/

theorem selectNode_wf {s : State} (h : s.mem.wf = true) (x q seq : Nat) (n : Node) :
    (selectNode s x q seq n).mem.wf = true := by
  unfold selectNode
  extract_lets key k done r
  refine ite_wf h ?_
  have w : MemOk r.state? :=
    (admitChecks_memOk h ..).andThen fun _ _ h => (admitPg_memOk h ..).andThen fun _ _ h => .some h
  clear_value r
  split
  · exact w.of_some rfl
  · rename_i s' _ _
    have w' : s'.mem.wf = true := w.of_some rfl
    simp [done, w']
  · rename_i s' _
    have w' : s'.mem.wf = true := w.of_some rfl
    simp [done, w']

theorem bindCores_wf {s : State} (h : s.mem.wf = true) (key : InstKey) (l : List Nat) :
    (bindCores s key l).mem.wf = true := by
  unfold bindCores
  dsimp only
  refine settleQueue_wf ?_ ..
  refine imageNode_wf ?_ ..
  rw [State.modQ_mem]
  rw [State.modNode_mem]
  rw [State.modInst_mem]
  refine foldl_wf (fun s e h => ?_) ?_
  · simp [h]
  · exact h

@[simp] theorem creditRound_mem (s : State) (parts : List Nat) : (creditRound s parts).mem = s.mem := rfl

theorem chooseNode_wf {a : State × List Nat} (h : a.1.mem.wf = true) (parts : List Nat) (c : Cand) :
    (chooseNode parts a c).1.mem.wf = true := by
  unfold chooseNode
  split
  split
  · exact h
  · rename_i n _
    have w := selectNode_wf h c.x c.q c.seq n
    dsimp only
    repeat' split
    all_goals simp [h, w, bindCores_wf]

theorem execDispatcherRound_memOk {s : State} (h : s.mem.wf = true) : MemOk (outState? (execDispatcherRound s)) := by
  unfold execDispatcherRound
  refine .some (ite_wf h ?_)
  exact foldl_fst_wf (fun _ _ h => chooseNode_wf h ..) (by simp [h])

/-! ### Residency (R289, R308) -/

@[simp] theorem releaseClaim_mem (s : State) (k : Nat) : (releaseClaim s k).mem = s.mem := by
  unfold releaseClaim
  split <;> rfl

@[simp] theorem freeCores_mem (s : State) (l : List Nat) : (freeCores s l).mem = s.mem := foldl_mem fun s e => by simp

@[simp] theorem dropInst_mem (s : State) (key : InstKey) : (dropInst s key).mem = s.mem := by
  unfold dropInst
  split
  · rfl
  · simp

@[simp] theorem failInst_mem (s : State) (key : InstKey) (code : Byte) (foff : W32) :
    (failInst s key code foff).mem = s.mem := by
  unfold failInst
  simp

theorem codePages_memOk {s : State} (h : s.mem.wf = true) (x fn key : Nat) (i : Inst) (l : List (W64 × Nat)) :
    MemOk (codePages x fn key i l s).state? := by
  induction l with
  | nil => exact .some h
  | cons p l ih =>
    unfold codePages
    dsimp only
    split
    · split <;> exact .some h
    · split
      · exact .some (by simp [h])
      · exact .some h
      · refine MemOk.of_ite (.some h) ?_
        split
        · exact .some h
        · exact ih

theorem execResidencyDone_memOk {s : State} (h : s.mem.wf = true) (ctx q seq : Nat) :
    MemOk (outState? (execResidencyDone ctx q seq s)) := by
  unfold execResidencyDone
  refine .some ?_
  dsimp only
  split
  · exact h
  · split
    · exact h
    · split
      · rename_i t1 hw1
        have w1 : t1.mem.wf = true := (codePages_memOk h ..).of_eq hw1
        exact w1
      · rename_i t1 _ _ hw1
        have w1 : t1.mem.wf = true := (codePages_memOk h ..).of_eq hw1
        simp [w1]
      · rename_i t1 _ hw1
        have w1 : t1.mem.wf = true := (codePages_memOk h ..).of_eq hw1
        split
        · simp [w1]
        · split
          · rename_i t2 _ hw2
            have w2 : t2.mem.wf = true := (opWrite_memOk w1 ..).of_eq hw2
            simp [w2]
          · rename_i t2 hw2
            have w2 : t2.mem.wf = true := (opWrite_memOk w1 ..).of_eq hw2
            exact w2
          · simp [w1]

theorem execNodeStart_memOk {s : State} (h : s.mem.wf = true) (ctx q seq gidx : Nat) :
    MemOk (outState? (execNodeStart ctx q seq gidx s)) := by
  unfold execNodeStart
  refine .some ?_
  dsimp only
  repeat' split
  all_goals simp [h]

theorem settleNodeOps_wf {s : State} (h : s.mem.wf = true) (key : InstKey) : (settleNodeOps s key).mem.wf = true := by
  unfold settleNodeOps
  refine foldl_wf (fun s e h => ?_) ?_
  · repeat' split
    all_goals simp [h, orphanOp_wf, retireOp_wf]
  · exact h

theorem execNodeEnd_memOk {s : State} (h : s.mem.wf = true) (ctx q seq : Nat) :
    MemOk (outState? (execNodeEnd ctx q seq s)) := by
  unfold execNodeEnd
  refine .some ?_
  dsimp only
  repeat' split
  all_goals simp [h, settleNodeOps_wf]

theorem imageShard_wf {s : State} (h : s.mem.wf = true) (fn n : Nat) : (imageShard s fn n).mem.wf = true := by
  unfold imageShard
  dsimp only
  exact State.devWrite_wf (State.devWrite_wf (State.devWrite_wf (State.devMerge_wf h ..) ..) ..) ..

theorem State.putShard_wf {s : State} (h : s.mem.wf = true) (fn n : Nat) (hd : Shard) :
    (s.putShard fn n hd).mem.wf = true := by
  unfold State.putShard
  simp [h, imageShard_wf]

theorem startGlaze_wf {s : State} (h : s.mem.wf = true) (x slot : Nat) (o : Op) (sh step : W32) :
    (startGlaze s x slot o sh step).mem.wf = true := by
  unfold startGlaze
  dsimp only
  split
  · exact failOp_wf h ..
  · split
    · rename_i t1 hw1
      have w1 : t1.mem.wf = true := (opRead_memOk h ..).of_eq hw1
      exact w1
    · exact failOp_wf h ..
    · rename_i t1 _ hw1
      have w1 : t1.mem.wf = true := (opRead_memOk h ..).of_eq hw1
      split
      · exact failOp_wf w1 ..
      · split
        · exact failOp_wf w1 ..
        · split
          · exact setOpSt_wf (by simp [w1, State.devWrite_wf, State.putShard_wf]) ..
          · exact setOpSt_wf (by simp [w1, State.devWrite_wf, State.putShard_wf]) ..

theorem faultShard_wf {s : State} (h : s.mem.wf = true) (fn n : Nat) (code : Byte) (chunk : Nat) (va : W64) :
    (faultShard s fn n code chunk va).mem.wf = true := by
  unfold faultShard
  simp [h, State.putShard_wf, failOp_wf]

theorem contribute_wf {s : State} (h : s.mem.wf = true) (fn n : Nat) (step : W32) (chunk k : Nat)
    (vals : List Byte) : (contribute s fn n step chunk k vals).1.mem.wf = true := by
  unfold contribute
  dsimp only
  split
  · exact h
  · split
    · simp [h, State.putShard_wf]
    · split
      · exact h
      · split
        · exact h
        · simp [h, faultShard_wf]
        · rename_i t1 hw1
          have w1 : t1.mem.wf = true := (writeVa_memOk h ..).of_eq hw1
          simp [w1, State.devWrite_wf, State.putShard_wf]

/-! ### The update of a chunk (R406-R409) -/

theorem writeAreas_memOk {s : State} (h : s.mem.wf = true) (fn : Nat) (l : List (W64 × List Byte)) :
    MemOk (writeAreas fn l s).state? := by
  induction l generalizing s with
  | nil => exact .some h
  | cons p l ih =>
    unfold writeAreas
    split
    · exact ih h
    · split
      · rename_i e
        exact ih ((writeVa_memOk h ..).of_eq e)
      · exact writeVa_memOk h ..

theorem applyChunk_wf {s : State} (h : s.mem.wf = true) (fn n chunk : Nat) (hd : Shard) (c : ShardCfg) :
    (applyChunk s fn n chunk hd c).mem.wf = true := by
  unfold applyChunk
  extract_lets size at_ grads
  split
  · exact faultShard_wf h ..
  · exact h
  · extract_lets ls gs out ws
    split
    extract_lets dst
    split
    · exact faultShard_wf h ..
    · exact h
    · rename_i e
      have w := opSat_wf ((writeAreas_memOk h ..).of_eq e) hd.ctx (hSlot hd.handle)
      exact ite_wf (completeOp_wf (State.putShard_wf (w ..) ..) ..) (State.putShard_wf (w ..) ..)

theorem execChunkApply_memOk {s : State} (h : s.mem.wf = true) (fn shard chunk : Nat) :
    MemOk (outState? (execChunkApply fn shard chunk s)) :=
  .some (by simp [h, applyChunk_wf, ite_wf])

@[simp] theorem watchShards_mem (s : State) : (watchShards s).mem = s.mem := rfl

/-! ### The words (R410-R413) -/

theorem execGlzs_memOk {s : State} (h : s.mem.wf = true) (hd : Hdr) (o : FO) : MemOk (outState? (execGlzs hd o s)) := by
  unfold execGlzs
  refine runWord_memOk h fun _ h1 => ?_
  refine with32_memOk h1 _ _ fun _ => ?_
  exact with32_memOk h1 _ _ fun _ => withAfter_memOk h1 _ _ _ fun _ => createOp_memOk h1 _ _ _ _ fun _ _ _ h2 =>
    result_memOk h2 ..

theorem homeGlaze_wf {s : State} (h : s.mem.wf = true) (k : Nat) (a : Ask) : (homeGlaze s k a).mem.wf = true := by
  unfold homeGlaze
  split
  · simp [h, ite_wf]
  · split
    · split
      · simp [h, ite_wf]
      · simp [h, ite_wf]
    · dsimp only
      split
      · simp [h]
      · split
        · simp [h]
        · split
          · simp [h]
          · simp [h]
          · simp [h, contribute_wf]

theorem execGlza_memOk {s : State} (h : s.mem.wf = true) (hd : Hdr) (o : FR) : MemOk (outState? (execGlza hd o s)) :=
  runWord_memOk h fun _ h1 => with32_memOk h1 _ _ fun _ => with64_memOk h1 _ _ fun _ => by simp
    [h1, requestAct_memOk, with32_memOk]

theorem execGlzq_memOk {s : State} (h : s.mem.wf = true) (hd : Hdr) (o : FR) : MemOk (outState? (execGlzq hd o s)) := by
  unfold execGlzq
  dsimp only
  exact runWord_memOk h fun _ h1 => with32_memOk h1 _ _ fun _ => by simp [h1, result_memOk, with32_memOk]

theorem askEvent_wf {s : State} (h : s.mem.wf = true) (k : Nat) (a : Ask) : (askEvent s k a).mem.wf = true := by
  unfold askEvent
  split
  · simp [h, eventLost_wf, ite_wf]
  · dsimp only
    split
    · exact h
    · split
      · rename_i t1 hw1
        have w1 : t1.mem.wf = true := (tryEvent_memOk h ..).of_eq hw1
        simp [w1]
      · rename_i t1 hw1
        have w1 : t1.mem.wf = true := (tryEvent_memOk h ..).of_eq hw1
        simp [w1]
      · simp [h]

theorem performAsk_wf {s : State} (h : s.mem.wf = true) (k : Nat) (a : Ask) : (performAsk s k a).mem.wf = true := by
  unfold performAsk
  split
  · exact homeClaim_wf h ..
  · exact homeInit_wf h ..
  · exact homeArrive_wf h ..
  · exact homeArrive_wf h ..
  · simp [h]
  · simp [h]
  · simp [h]
  · exact askEvent_wf h ..
  · exact homeGlaze_wf h ..

theorem execHomeRequestArrival_memOk {s : State} (h : s.mem.wf = true) (core : Nat) :
    MemOk (outState? (execHomeRequestArrival core s)) := by
  unfold execHomeRequestArrival
  refine .some ?_
  repeat' split
  all_goals simp [h, performAsk_wf]

@[simp] theorem applyDot_mem (before after : State) : (applyDot before after).mem = after.mem := rfl

theorem execDotModeChangeDone_memOk {s : State} (h : s.mem.wf = true) (chan : Nat) :
    MemOk (outState? (execDotModeChangeDone chan s)) :=
  .some h

@[simp] theorem withDot_mem (s : State) (f : State → State) : (withDot s f).mem = (f s).mem := rfl

theorem withPages_memOk (a : W64) (n : W32) {k : List W64 → Act} (hk : ∀ l, MemOk (k l).state?) :
    MemOk (withPages a n k).state? :=
  MemOk.of_ite .none (MemOk.of_ite .none (hk _))

theorem execBdmode_memOk {s : State} (h : s.mem.wf = true) (hd : Hdr) (o : FR) :
    MemOk (outState? (execBdmode hd o s)) := by
  unfold execBdmode
  dsimp only
  split
  · refine runWord_memOk h fun _ h1 => ?_
    split
    · split
      · exact .some h1
      · simp [h1, result_memOk]
    · split
      · exact with64_memOk h1 _ _ fun _ => with32_memOk h1 _ _ fun _ => whenPassed_memOk h1 _
          (withPages_memOk _ _ fun _ => .some h1)
      · refine with64_memOk h1 _ _ fun _ => ?_
        refine with32_memOk h1 _ _ fun _ => ?_
        refine whenPassed_memOk h1 _ ?_
        refine withPages_memOk _ _ fun _ => ?_
        split
        · exact .none
        · exact .some (by simp [h1])
        · split
          · simp [h1, result_memOk]
          · exact .some h1
  · refine runWord_memOk h fun _ h1 => ?_
    split
    · split
      · exact .some h1
      · simp [h1, result_memOk]
    · split
      · exact with64_memOk h1 _ _ fun _ => with32_memOk h1 _ _ fun _ => whenPassed_memOk h1 _
          (withPages_memOk _ _ fun _ => .some h1)
      · refine with64_memOk h1 _ _ fun _ => ?_
        refine with32_memOk h1 _ _ fun _ => ?_
        refine whenPassed_memOk h1 _ ?_
        refine withPages_memOk _ _ fun _ => ?_
        split
        · exact .none
        · exact .some (by simp [h1])
        · split
          · simp [h1, result_memOk]
          · exact .some h1

/-! ### Bank dot operations (R378-R380) -/

theorem execBdot_memOk {s : State} (h : s.mem.wf = true) (hd : Hdr) (o : FO) : MemOk (outState? (execBdot hd o s)) := by
  unfold execBdot
  refine runWord_memOk h fun _ h1 => ?_
  refine with64_memOk h1 _ _ fun _ => ?_
  exact withAfter_memOk h1 _ _ _ fun _ => whenPassed_memOk h1 _ (createOp_memOk h1 _ _ _ _ fun _ _ _ h2 =>
    result_memOk h2 ..)

theorem startBdot_wf {s : State} (h : s.mem.wf = true) (x slot : Nat) (o : Op) (desc : W64) :
    (startBdot s x slot o desc).mem.wf = true := by
  unfold startBdot
  split
  · exact failOp_wf h ..
  · split
    · rename_i t1 hw1
      have w1 : t1.mem.wf = true := (opRead_memOk h ..).of_eq hw1
      exact w1
    · exact failOp_wf h ..
    · rename_i t1 _ hw1
      have w1 : t1.mem.wf = true := (opRead_memOk h ..).of_eq hw1
      simp [w1, startOp_wf, failOp_wf, ite_wf]

@[simp] theorem activate_mem (s : State) (stack : Nat) : (activate s stack).mem = s.mem := rfl

theorem runRow_wf {s : State} (h : s.mem.wf = true) (x slot chan r : Nat) (o : Op) (d : BDesc) :
    (runRow s x slot chan r o d).mem.wf = true := by
  unfold runRow
  split
  · split
    · dsimp only
      split
      · simp [h, failOp_wf]
      · split
        · rename_i t1 hw1
          have w1 : t1.mem.wf = true := (opRead_memOk h ..).of_eq hw1
          exact w1
        · simp [h, failOp_wf]
        · rename_i t1 _ hw1
          have w1 : t1.mem.wf = true := (opRead_memOk h ..).of_eq hw1
          split
          · split
            · simp [w1, failOp_wf]
            · split
              · simp [w1, failOp_wf]
              · split
                · rename_i t2 hw2
                  have w2 : t2.mem.wf = true := (opWrite_memOk w1 ..).of_eq hw2
                  exact w2
                · simp [w1, failOp_wf]
                · rename_i t2 _ hw2
                  have w2 : t2.mem.wf = true := (opWrite_memOk w1 ..).of_eq hw2
                  simp [w2, State.imageOp_wf]
          · simp [w1, failOp_wf]
    · dsimp only
      split
      · simp [h, failOp_wf]
      · split
        · rename_i t1 hw1
          have w1 : t1.mem.wf = true := (opRead_memOk h ..).of_eq hw1
          exact w1
        · simp [h, failOp_wf]
        · rename_i t1 _ hw1
          have w1 : t1.mem.wf = true := (opRead_memOk h ..).of_eq hw1
          split
          · split
            · simp [w1, failOp_wf]
            · split
              · rename_i t2 hw2
                have w2 : t2.mem.wf = true := (opRead_memOk w1 ..).of_eq hw2
                exact w2
              · simp [w1, failOp_wf]
              · rename_i t2 _ hw2
                have w2 : t2.mem.wf = true := (opRead_memOk w1 ..).of_eq hw2
                split
                · simp [w2, failOp_wf]
                · split
                  · rename_i t3 hw3
                    have w3 : t3.mem.wf = true := (opWrite_memOk w2 ..).of_eq hw3
                    exact w3
                  · simp [w2, failOp_wf]
                  · rename_i t3 _ hw3
                    have w3 : t3.mem.wf = true := (opWrite_memOk w2 ..).of_eq hw3
                    simp [w3, State.imageOp_wf]
          · simp [w1, failOp_wf]
  · split
    · dsimp only
      split
      · exact failOp_wf h ..
      · split
        · rename_i t1 hw1
          have w1 : t1.mem.wf = true := (opRead_memOk h ..).of_eq hw1
          exact w1
        · exact failOp_wf h ..
        · rename_i t1 _ hw1
          have w1 : t1.mem.wf = true := (opRead_memOk h ..).of_eq hw1
          split
          · split
            · exact failOp_wf w1 ..
            · split
              · exact failOp_wf w1 ..
              · split
                · rename_i t2 hw2
                  have w2 : t2.mem.wf = true := (opWrite_memOk w1 ..).of_eq hw2
                  exact w2
                · exact failOp_wf w1 ..
                · rename_i t2 _ hw2
                  have w2 : t2.mem.wf = true := (opWrite_memOk w1 ..).of_eq hw2
                  simp [w2, State.imageOp_wf]
          · simp [w1, failOp_wf]
    · dsimp only
      split
      · exact failOp_wf h ..
      · split
        · rename_i t1 hw1
          have w1 : t1.mem.wf = true := (opRead_memOk h ..).of_eq hw1
          exact w1
        · exact failOp_wf h ..
        · rename_i t1 _ hw1
          have w1 : t1.mem.wf = true := (opRead_memOk h ..).of_eq hw1
          split
          · split
            · exact failOp_wf w1 ..
            · split
              · rename_i t2 hw2
                have w2 : t2.mem.wf = true := (opRead_memOk w1 ..).of_eq hw2
                exact w2
              · exact failOp_wf w1 ..
              · rename_i t2 _ hw2
                have w2 : t2.mem.wf = true := (opRead_memOk w1 ..).of_eq hw2
                split
                · exact failOp_wf w2 ..
                · split
                  · rename_i t3 hw3
                    have w3 : t3.mem.wf = true := (opWrite_memOk w2 ..).of_eq hw3
                    exact w3
                  · exact failOp_wf w2 ..
                  · rename_i t3 _ hw3
                    have w3 : t3.mem.wf = true := (opWrite_memOk w2 ..).of_eq hw3
                    simp [w3, State.imageOp_wf]
          · simp [w1, failOp_wf]

theorem stopUnit_wf {s : State} (h : s.mem.wf = true) (x slot chan : Nat) (d : BDesc) :
    (stopUnit s x slot chan d).mem.wf = true := by
  unfold stopUnit
  dsimp only
  split
  · simp [h]
  · simp [h, cancelOp_wf, ite_wf]

theorem execBankDotRow_memOk {s : State} (h : s.mem.wf = true) (ctx slot chan : Nat) :
    MemOk (outState? (execBankDotRow ctx slot chan s)) := by
  unfold execBankDotRow
  refine .some ?_
  split
  · exact h
  · split
    · exact h
    · split
      · dsimp only
        split
        · exact h
        · split
          · simp [h, stopUnit_wf, ite_wf]
          · split
            · exact stopUnit_wf (runRow_wf h ..) ..
            · exact runRow_wf h ..
      · split
        · split
          · dsimp only
            split
            · exact h
            · simp [h]
          · dsimp only
            split
            · exact h
            · simp [h, ite_wf]
        · dsimp only
          split
          · exact h
          · simp [h, runRow_wf, ite_wf]

theorem execDroopWindow_memOk {s : State} (h : s.mem.wf = true) (stack : Nat) :
    MemOk (outState? (execDroopWindow stack s)) := by
  unfold execDroopWindow
  refine .some ?_
  split
  · simp [h, ite_wf]
  · exact h

theorem execRowval_memOk {s : State} (h : s.mem.wf = true) (stack : Nat) (val : BitVec 32) :
    MemOk (outState? (execRowval stack val s)) := by
  unfold execRowval
  dsimp only
  exact .some (by simp [h, State.wf_paStore, ite_wf])

theorem pmigFrame_wf {s : State} (h : s.mem.wf = true) (fn mode ring : Nat) :
    (pmigFrame s fn mode ring).1.mem.wf = true := by
  unfold pmigFrame
  dsimp only
  split
  · simp [h, ringSkip_wf]
  · simp [h, ringSkip_wf, ringTake_wf]

theorem pmigPage_wf {s : State} (h : s.mem.wf = true) (fn mode cfmt : Nat) (va : W64) :
    (pmigPage fn mode cfmt s va).1.mem.wf = true := by
  unfold pmigPage
  split
  · exact h
  · split
    · split
      · dsimp only
        split
        · exact h
        · split
          · exact h
          · split
            · simp [h, moveQueue_wf]
            · split
              · simp [h, pmigFrame_wf]
              · split
                · dsimp only
                  exact moveQueue_wf (by simp [h, pmigFrame_wf, ownRows_wf]) ..
                · simp [h, pmigFrame_wf, moveQueue_wf]
      · dsimp only
        split
        · exact h
        · split
          · exact h
          · split
            · simp [h, moveQueue_wf]
            · split
              · simp [h, pmigFrame_wf]
              · split
                · dsimp only
                  exact moveQueue_wf (by simp [h, pmigFrame_wf, ownRows_wf]) ..
                · simp [h, pmigFrame_wf, moveQueue_wf]
    · split
      · dsimp only
        split
        · exact h
        · split
          · exact h
          · split
            · simp [h, moveQueue_wf]
            · split
              · simp [h, pmigFrame_wf]
              · split
                · simp [h, pmigFrame_wf, moveQueue_wf]
                · simp [h, pmigFrame_wf, moveQueue_wf]
      · dsimp only
        split
        · exact h
        · split
          · exact h
          · split
            · simp [h, moveQueue_wf]
            · split
              · simp [h, pmigFrame_wf]
              · split
                · simp [h, pmigFrame_wf, moveQueue_wf]
                · simp [h, pmigFrame_wf, moveQueue_wf]

theorem execPmig_memOk {s : State} (h : s.mem.wf = true) (hd : Hdr) (o : FR) : MemOk (outState? (execPmig hd o s)) := by
  unfold execPmig
  refine runWord_memOk h fun s h => ?_
  dsimp only
  split
  · exact MemOk.of_ite (.some h) (result_memOk (by simp [h]) ..)
  · refine with64_memOk h _ _ fun a => with32_memOk h _ _ fun n => whenPassed_memOk h _
      (withPages_memOk _ _ fun pages => ?_)
    split
    · exact .none
    · have w := foldl_fst_wf (l := pages) (f := fun (a : State × Nat × List W64) va =>
          ((pmigPage (s.coreFn s.core) (immNat o.c) (cfmtOf o.t) a.1 va).1,
            a.2.1 + (if (pmigPage (s.coreFn s.core) (immNat o.c) (cfmtOf o.t) a.1 va).2.1 then 1 else 0),
            a.2.2 ++ (pmigPage (s.coreFn s.core) (immNat o.c) (cfmtOf o.t) a.1 va).2.2.toList))
        (fun p va hp => pmigPage_wf hp _ _ _ va) (p := (s, 0, [])) h
      exact MemOk.of_ite (.some (by simp [w])) (result_memOk w ..)

/-! ### Steps of pages (R366-R369) -/

theorem startMove_wf {s : State} (h : s.mem.wf = true) (m : PageMove) : (startMove s m).mem.wf = true := by
  unfold startMove
  simp [h, moveBegin_wf, giveBack_wf, ite_wf]

theorem execPageMoveDone_memOk {s : State} (h : s.mem.wf = true) (fn : Nat) (va : BitVec 64) :
    MemOk (outState? (execPageMoveDone fn va s)) := by
  unfold execPageMoveDone
  refine .some ?_
  repeat' split
  all_goals simp [h, moveEnd_wf, startMove_wf]

theorem touchFrame_wf {s : State} (h : s.mem.wf = true) (fn : Nat) : (touchFrame s fn).1.mem.wf = true := by
  unfold touchFrame
  split
  · dsimp only
    split
    · rename_i t1 _ hw1
      have w1 : t1.mem.wf = true := fst_wf (ringTake_wf h ..) hw1
      exact w1
    · rename_i t1 hw1
      have w1 : t1.mem.wf = true := fst_wf (ringTake_wf h ..) hw1
      exact w1
  · dsimp only
    split
    · rename_i t1 _ hw1
      have w1 : t1.mem.wf = true := fst_wf (ringTake_wf h ..) hw1
      exact w1
    · rename_i t1 hw1
      have w1 : t1.mem.wf = true := fst_wf (ringTake_wf h ..) hw1
      split
      · rename_i t2 _ hw2
        have w2 : t2.mem.wf = true := fst_wf (ringTake_wf w1 ..) hw2
        exact w2
      · rename_i t2 hw2
        have w2 : t2.mem.wf = true := fst_wf (ringTake_wf w1 ..) hw2
        exact w2

theorem lockRegain_wf {s : State} (h : s.mem.wf = true) (fn : Nat) (va : W64) (frame : Nat) :
    (lockRegain s fn va frame).mem.wf = true := by
  unfold lockRegain
  dsimp only
  refine foldl_wf (fun s e h => ?_) ?_
  · exact grantLock_wf h ..
  · simp [h]

theorem touchAbsent_wf {s : State} (h : s.mem.wf = true) (fn : Nat) (va : W64) (pa : Nat) (e : W64) :
    (touchAbsent s fn va pa e).mem.wf = true := by
  unfold touchAbsent
  split
  · simp [h]
  · split
    · rename_i t1 hw1
      have w1 : t1.mem.wf = true := fst_wf (touchFrame_wf h ..) hw1
      simp [w1]
    · rename_i t1 _ _ hw1
      have w1 : t1.mem.wf = true := fst_wf (touchFrame_wf h ..) hw1
      split
      · dsimp only
        exact lockRegain_wf (by simp [w1, zeroFill_wf, State.wf_paStore]) ..
      · dsimp only
        exact lockRegain_wf (State.wf_paStore (zeroFill_wf w1 ..) ..) ..

@[simp] theorem pullPage_mem (s : State) (fn : Nat) (va e : W64) : (pullPage s fn va e).mem = s.mem := by
  unfold pullPage
  dsimp only
  split <;> rfl

theorem execPageTouch_memOk {s : State} (h : s.mem.wf = true) (fn : Nat) (va : BitVec 64) :
    MemOk (outState? (execPageTouch fn va s)) := by
  unfold execPageTouch
  refine .some ?_
  repeat' split
  all_goals simp [h, moveToHbm_wf, touchAbsent_wf]

theorem execDecayPeriod_memOk {s : State} (h : s.mem.wf = true) (part : Nat) :
    MemOk (outState? (execDecayPeriod part s)) := by
  unfold execDecayPeriod
  dsimp only
  exact .some (by simp [h, ite_wf])

theorem execRconsWrite_memOk {s : State} (h : s.mem.wf = true) (part : Nat) (val : BitVec 32) :
    MemOk (outState? (execRconsWrite part val s)) := by
  unfold execRconsWrite
  dsimp only
  refine .some ?_
  refine foldl_wf (fun s e h => ?_) ?_
  · exact ringReturn_wf h ..
  · simp [h]

/-! ### Translations (R364, R365) -/

theorem execWalkReturn_memOk {s : State} (h : s.mem.wf = true) (bench : Nat) :
    MemOk (outState? (execWalkReturn bench s)) := by
  unfold execWalkReturn
  refine .some ?_
  repeat' split
  all_goals simp [h]

theorem tlbiDone_memOk {s : State} (h : s.mem.wf = true) (p : Nat → W64 → Nat → Bool) :
    MemOk (outState? (tlbiDone s p)) := .some h

theorem execTlbiPage_memOk {s : State} (h : s.mem.wf = true) (fn : Nat) : MemOk (outState? (execTlbiPage fn s)) := by
  unfold execTlbiPage
  dsimp only
  exact tlbiDone_memOk h ..

theorem execTlbiFunction_memOk {s : State} (h : s.mem.wf = true) (fn : Nat) :
    MemOk (outState? (execTlbiFunction fn s)) :=
  tlbiDone_memOk h ..

theorem execTlbiAll_memOk {s : State} (h : s.mem.wf = true) : MemOk (outState? (execTlbiAll s)) := tlbiDone_memOk h ..

theorem endCommand_wf {s : State} (h : s.mem.wf = true) (x slot : Nat) (st : OpSt) (code : Byte) (index : W32)
    (addr : W64) : (endCommand s x slot st code index addr).mem.wf = true := by
  unfold endCommand
  split
  · exact h
  · simp [h, finishOp_wf, settleLease_wf]

/-- A unit goes on from the canonical memory of its read. -/
theorem MemOk.then_ {r : OpRd} {f : State → List Byte → UnitOut} (w : MemOk r.state?)
    (hf : ∀ s l, s.mem.wf = true → MemOk (f s l).state?) : MemOk (r.then_ f).state? := by
  cases r with
  | ok s l => exact hf _ _ (w.of_some rfl)
  | wait s => exact w
  | bad => exact .none

theorem unpackUnit_memOk {s : State} (h : s.mem.wf = true) (k x slot : Nat) (d : Desc) (i pos len : Nat) :
    MemOk (unpackUnit s k x slot d i pos len).state? := by
  unfold unpackUnit
  extract_lets at_ put
  have hput {s : State} (h : s.mem.wf = true) (l : List Byte) (n : Nat) : MemOk (put s l n).state? :=
    (opWrite_memOk h ..).then_ fun _ _ h => .some h
  refine MemOk.of_ite .none ((opRead_memOk h ..).then_ fun s c h => ?_)
  split
  · exact hput h ..
  · exact MemOk.of_ite .none ((opRead_memOk h ..).then_ fun s bits h => MemOk.of_ite .none (MemOk.of_ite (hput h ..)
      ((opRead_memOk h ..).then_ fun s nz h => hput h ..)))
  · exact MemOk.of_ite .none ((opRead_memOk h ..).then_ fun s l h => hput h ..)
  · exact .none

theorem engineUnit_memOk {s : State} (h : s.mem.wf = true) (k x slot : Nat) (d : Desc) (i pos : Nat) :
    MemOk (engineUnit s k x slot d i pos).state? := by
  unfold engineUnit
  extract_lets rd wr kk e
  have hrd {s : State} (h : s.mem.wf = true) (va : W64) (n : Nat) {f : State → List Byte → UnitOut}
      (hf : ∀ s l, s.mem.wf = true → MemOk (f s l).state?) : MemOk (rd s va n f).state? := (opRead_memOk h ..).then_ hf
  have hwr {s : State} (h : s.mem.wf = true) (va : W64) (l : List Byte) {f : State → UnitOut}
      (hf : ∀ s, s.mem.wf = true → MemOk (f s).state?) : MemOk (wr s va l f).state? := (opWrite_memOk h ..).then_
        fun _ _ h => hf _ h
  split
  · exact hrd h _ _ fun _ _ h => hwr h _ _ fun _ h => .some h
  · exact hrd h _ _ fun _ _ h => hwr h _ _ fun _ h => hwr h _ _ fun _ h => .some h
  · exact hrd h _ _ fun _ _ h => hwr h _ _ fun _ h => .some h
  · exact hrd h _ _ fun _ _ h => MemOk.of_ite (hwr h _ _ fun _ h => .some h)
      (hrd h _ _ fun _ _ h => hwr h _ _ fun _ h => .some h)
  · exact hrd h _ _ fun _ _ h => MemOk.of_ite (.some h)
      (hrd h _ _ fun _ _ h => MemOk.of_ite (hwr h _ _ fun _ h => .some h)
      (hrd h _ _ fun _ _ h => hwr h _ _ fun _ h => .some h))
  · exact hrd h _ _ fun _ _ h => MemOk.of_ite (hrd h _ _ fun _ _ h => hwr h _ _ fun _ h => .some h)
      (hwr h _ _ fun _ h => .some h)
  · exact hrd h _ _ fun _ _ h => hwr h _ _ fun _ h => MemOk.of_ite (hwr h _ _ fun _ h => .some h) (.some h)
  · exact hrd h _ _ fun _ _ h => unpackUnit_memOk h ..
  · exact .some h

theorem unitStep_wf {s : State} (h : s.mem.wf = true) (x slot : Nat) (o : Op) :
    (unitStep s x slot o).mem.wf = true := by
  unfold unitStep
  dsimp only
  split
  · exact h
  · split
    · rename_i t1 hw1
      have w1 : t1.mem.wf = true := (engineUnit_memOk h ..).of_eq hw1
      exact w1
    · exact endCommand_wf h ..
    · rename_i t1 _ _ _ hw1
      have w1 : t1.mem.wf = true := (engineUnit_memOk h ..).of_eq hw1
      simp [w1, endCommand_wf, State.imageOp_wf, ite_wf]

@[simp] theorem sweepHeld_mem (s : State) : (sweepHeld s).mem = s.mem := rfl

theorem failColl_wf {s : State} (h : s.mem.wf = true) (x slot : Nat) (code : Byte) (va : W64) :
    (failColl s x slot code va).mem.wf = true := by
  unfold failColl
  simp [h, ite_wf, endCommand_wf]

theorem failTable_wf {s : State} (h : s.mem.wf = true) (x : Nat) (id : W32) (code : Byte) :
    (failTable s x id code).mem.wf = true := by
  unfold failTable
  refine foldl_wf (fun s e h => ?_) ?_
  · exact failColl_wf h ..
  · exact h

theorem contributeAll_wf {s : State} (h : s.mem.wf = true) (fn n : Nat) (step : W32) (size c chunk : Nat)
    (l : List Byte) :
    (contributeAll fn n step size c chunk l s).1.mem.wf = true := by
  induction c generalizing s chunk l with
  | zero => exact h
  | succ c ih =>
    unfold contributeAll
    have w := contribute_wf h fn n step chunk 0 (l.take size)
    dsimp only
    split
    · exact w
    · exact ih w _ _

theorem deliverShare_wf {s : State} (h : s.mem.wf = true) (fn count : Nat) (key : W64) (vals : List Byte) :
    (deliverShare s fn count key vals).1.mem.wf = true := by
  unfold deliverShare
  dsimp only
  split
  · exact h
  · simp [h, contributeAll_wf]

theorem failDelivered_wf {s : State} (h : s.mem.wf = true) (fn : Nat) (key : W64) :
    (failDelivered s fn key).mem.wf = true := by
  unfold failDelivered
  refine foldl_wf (fun s e h => ?_) ?_
  · exact failColl_wf h ..
  · exact h

@[simp] theorem sendColl_mem (s : State) (fn : Nat) (c : Coll) (key : W64) (q : Nat) (l : List Byte) :
    (sendColl s fn c key q l).mem = s.mem := by
  unfold sendColl
  split
  · rfl
  · refine foldl_mem fun s e => ?_
    rfl

@[simp] theorem sendShare_mem (s : State) (fn : Nat) (c : Coll) (q : Nat) (l : List Byte) :
    (sendShare s fn c q l).mem = s.mem := by
  unfold sendShare
  split
  · rfl
  · refine foldl_mem fun s e => ?_
    rfl

/-! ### A running collective -/

theorem collSend_wf {s : State} (h : s.mem.wf = true) (x slot : Nat) (c : Coll) (key : W64) (own : List Byte)
    (deliv : Nat) : (collSend s x slot c key own deliv).mem.wf = true := by
  unfold collSend
  repeat' split
  all_goals simp [h, Memory.wf_iff, State.imageOp_wf, foldl_wf, ite_wf]

theorem collEncode_wf {s : State} (h : s.mem.wf = true) (x slot : Nat) (o : Op) (c : Coll) (key : W64)
    (own : List Byte) (deliv : Nat) : (collEncode s x slot o c key own deliv).mem.wf = true := by
  unfold collEncode
  dsimp only
  split
  · rename_i t1 hw1
    have w1 : t1.mem.wf = true := (opRead_memOk h ..).of_eq hw1
    exact w1
  · exact failColl_wf h ..
  · rename_i t1 _ hw1
    have w1 : t1.mem.wf = true := (opRead_memOk h ..).of_eq hw1
    split
    · rename_i t2 hw2
      have w2 : t2.mem.wf = true := (opWrite_memOk w1 ..).of_eq hw2
      exact w2
    · exact failColl_wf w1 ..
    · rename_i t2 _ hw2
      have w2 : t2.mem.wf = true := (opWrite_memOk w1 ..).of_eq hw2
      simp [w2, opSat_wf, collSend_wf]

theorem collBegin_wf {s : State} (h : s.mem.wf = true) (x slot : Nat) (o : Op) (c : Coll) (key : W64) :
    (collBegin s x slot o c key).mem.wf = true := by
  unfold collBegin
  split
  · split
    · simp [h, collEncode_wf, ite_wf]
    · split
      · simp [h, collSend_wf]
      · split
        · rename_i t1 hw1
          have w1 : t1.mem.wf = true := (opRead_memOk h ..).of_eq hw1
          exact w1
        · simp [h, failColl_wf]
        · rename_i t1 _ hw1
          have w1 : t1.mem.wf = true := (opRead_memOk h ..).of_eq hw1
          simp [w1, collEncode_wf]
  · split
    · simp [h, collSend_wf, ite_wf]
    · split
      · simp [h, collSend_wf]
      · split
        · rename_i t1 hw1
          have w1 : t1.mem.wf = true := (opRead_memOk h ..).of_eq hw1
          exact w1
        · simp [h, failColl_wf]
        · rename_i t1 _ hw1
          have w1 : t1.mem.wf = true := (opRead_memOk h ..).of_eq hw1
          simp [w1, collSend_wf]

theorem takeMsg_memOk {s : State} (h : s.mem.wf = true) (x slot : Nat) (c : Coll) (m : Msg) :
    MemOk (takeMsg s x slot c m).state? := by
  unfold takeMsg
  split
  · extract_lets n got
    have hgot {s : State} (h : s.mem.wf = true) : (got s).mem.wf = true := State.imageOp_wf (by simp [h]) ..
    refine MemOk.of_ite (.some (hgot (by simp [h]))) (MemOk.of_ite (.some (hgot h)) ?_)
    split
    · rename_i e
      exact .some (hgot ((opWrite_memOk h ..).of_eq e))
    · exact opWrite_memOk h ..
  · exact .some h

theorem takeAll_wf {s : State} (h : s.mem.wf = true) (x slot : Nat) (c : Coll) (l : List Msg) :
    (takeAll x slot c l s).mem.wf = true := by
  induction l generalizing s with
  | nil => exact h
  | cons m l ih =>
    unfold takeAll
    have w := takeMsg_memOk h x slot c m
    split
    · rename_i e
      exact w.of_eq e
    · exact failColl_wf h ..
    · rename_i t _ e
      have w' : t.mem.wf = true := w.of_eq e
      exact ih (by simpa using w')

@[simp] theorem takeNotices_mem (s : State) (x slot : Nat) (c : Coll) (l : List Msg) :
    (takeNotices s x slot c l).mem = s.mem := by
  unfold takeNotices
  refine foldl_mem fun s e => ?_
  split
  · simp
  · rfl

theorem meetHeld_wf {s : State} (h : s.mem.wf = true) (x slot : Nat) (o : Op) (c : Coll) (key : W64) :
    (meetHeld s x slot o c key).mem.wf = true := by
  unfold meetHeld
  extract_lets fn mine
  split
  · exact failColl_wf h ..
  · rename_i t firsts mark recv u _ _
    have ht : t.mem.wf = true := by simp [t, h]
    have hu : u.mem.wf = true := ite_wf ht (by simpa using ht)
    exact ite_wf (failColl_wf ht ..) (ite_wf (takeAll_wf hu ..) hu)

theorem ownThen_wf {s : State} (h : s.mem.wf = true) (x slot : Nat) (o : Op) (va : W64) (l : List Byte)
    {f : State → State}
    (hf : ∀ t, t.mem.wf = true → (f t).mem.wf = true) : (ownThen s x slot o va l f).mem.wf = true := by
  unfold ownThen
  extract_lets next
  have w := opWrite_memOk h o.core x slot va l
  split
  · rename_i e
    exact w.of_eq e
  · exact failColl_wf h ..
  · rename_i t _ e
    have w' := hf t (w.of_eq e)
    simp [next, w']

theorem collForm_wf {s : State} (h : s.mem.wf = true) (x slot : Nat) (o : Op) (c : Coll) (key : W64) :
    (collForm s x slot o c key).mem.wf = true := by
  unfold collForm
  extract_lets fn out part others own
  refine ite_wf ?_ (ownThen_wf h _ _ _ _ _ fun t ht => foldl_wf (fun _ _ h => by simp [h]) ht)
  have w : own.1.mem.wf = true := foldl_fst_wf (fun p e hp => by split; exacts [hp, deliverShare_wf hp ..]) h
  refine ite_wf (failColl_wf w ..) ?_
  rw [State.modO_mem]
  exact foldl_wf (fun _ _ h => by simp [h]) w

theorem collMiddle_wf {s : State} (h : s.mem.wf = true) (x slot : Nat) (o : Op) (c : Coll) (key : W64) :
    (collMiddle s x slot o c key).mem.wf = true := by
  unfold collMiddle
  extract_lets r own
  exact ite_wf (ite_wf (by simp [h]) (ite_wf (collForm_wf h ..) h)) <| ite_wf h <|
    ite_wf (ownThen_wf h _ _ _ _ _ fun _ h => h) <| ite_wf (ownThen_wf h _ _ _ _ _ fun _ h => foldl_wf
      (fun _ _ h => by simp [h]) h) (by simp [h])

theorem collStep_wf {s : State} (h : s.mem.wf = true) (x slot : Nat) (o : Op) :
    (collStep s x slot o).mem.wf = true := by
  unfold collStep
  split
  · refine ite_wf (collBegin_wf h ..) ?_
    have w (c : Coll) (key : W64) := meetHeld_wf h x slot o c key
    dsimp only
    split
    · exact ite_wf (collMiddle_wf (w ..) ..) (w ..)
    · exact w ..
  · exact failColl_wf h ..

theorem execOperationComplete_memOk {s : State} (h : s.mem.wf = true) (ctx slot : Nat) :
    MemOk (outState? (execOperationComplete ctx slot s)) := by
  unfold execOperationComplete
  refine .some ?_
  repeat' split
  all_goals simp [h, completeOp_wf, endCommand_wf, settleLease_wf]

theorem failAny_wf {s : State} (h : s.mem.wf = true) (x slot : Nat) (code : Byte) (index : W32) (addr : W64) :
    (failAny s x slot code index addr).mem.wf = true := by
  unfold failAny
  simp [h, endCommand_wf, failOp_wf, ite_wf]

theorem execOperationFailure_memOk {s : State} (h : s.mem.wf = true) (ctx slot : Nat) (why : OpFault) :
    MemOk (outState? (execOperationFailure ctx slot why s)) := by
  unfold execOperationFailure
  refine .some ?_
  split
  · exact h
  · simp [h, failAny_wf, ite_wf]

/-! ### Starting a command (R272, R275, R392) -/

theorem startColl_wf {s : State} (h : s.mem.wf = true) (x slot : Nat) (l : List Byte) (id : W32) :
    (startColl s x slot l id).mem.wf = true := by
  unfold startColl
  repeat' split
  all_goals simp [h, failColl_wf, ite_wf]

theorem readDesc_wf {s : State} (h : s.mem.wf = true) (x slot : Nat) (o : Op) (op : Nat) (va : W64) :
    (readDesc s x slot o op va).mem.wf = true := by
  unfold readDesc
  split
  · simp [h, endCommand_wf]
  · split
    · rename_i t1 hw1
      have w1 : t1.mem.wf = true := (opRead_memOk h ..).of_eq hw1
      exact w1
    · simp [h, endCommand_wf]
    · rename_i t1 _ hw1
      have w1 : t1.mem.wf = true := (opRead_memOk h ..).of_eq hw1
      split
      · simp [w1, endCommand_wf, ite_wf]
      · dsimp only
        split
        · exact endCommand_wf w1 ..
        · split
          · exact failColl_wf w1 ..
          · exact startColl_wf w1 ..

theorem execEngineCommandStart_memOk {s : State} (h : s.mem.wf = true) (engine : Nat) :
    MemOk (outState? (execEngineCommandStart engine s)) := by
  unfold execEngineCommandStart
  refine .some ?_
  repeat' split
  all_goals simp [h, readDesc_wf, setOpSt_wf]

theorem execEngineUnitDone_memOk {s : State} (h : s.mem.wf = true) (engine : Nat) :
    MemOk (outState? (execEngineUnitDone engine s)) := by
  unfold execEngineUnitDone
  refine .some ?_
  repeat' split
  all_goals simp [h, collStep_wf, readDesc_wf, unitStep_wf]

/-! ### Messages (R392, R394, R395, R405) -/

theorem keepColl_wf {s : State} (h : s.mem.wf = true) (m : Msg) : (keepColl s m).mem.wf = true := by
  unfold keepColl
  extract_lets t
  have ht : t.mem.wf = true := by simp [t, h]
  split
  · exact ht
  · split
    · exact meetHeld_wf ht ..
    · exact ht

theorem execMsgCollective_memOk {s : State} (h : s.mem.wf = true) (m : Msg) :
    MemOk (outState? (execMsgCollective m s)) :=
  .some (keepColl_wf h ..)

theorem execParkNotice_memOk {s : State} (h : s.mem.wf = true) (m : Msg) : MemOk (outState? (execParkNotice m s)) :=
  .some (keepColl_wf h ..)

theorem execResumeNotice_memOk {s : State} (h : s.mem.wf = true) (m : Msg) : MemOk (outState? (execResumeNotice m s)) :=
  .some (keepColl_wf h ..)

theorem execMsgAbort_memOk {s : State} (h : s.mem.wf = true) (m : Msg) : MemOk (outState? (execMsgAbort m s)) :=
  .some (by simp [h, failDelivered_wf, keepColl_wf, ite_wf])

theorem execMsgShardDelivery_memOk {s : State} (h : s.mem.wf = true) (m : Msg) :
    MemOk (outState? (execMsgShardDelivery m s)) := by
  unfold execMsgShardDelivery
  refine .some ?_
  dsimp only
  split
  · simp [h, deliverShare_wf, failDelivered_wf]
  · simp [h, deliverShare_wf]

/-! ### Deliveries -/

theorem stepDone_wf {s : State} (h : s.mem.wf = true) (k : Nat) : (stepDone s k).mem.wf = true := by
  unfold stepDone
  simp [h, postEvent_wf, ite_wf]

theorem settleStepA_wf {s : State} (h : s.mem.wf = true) (k : Nat) : (settleStepA s k).mem.wf = true := by
  unfold settleStepA
  simp [h, stepDone_wf, ite_wf]

theorem execResultDelivery_memOk {s : State} (h : s.mem.wf = true) (core : Nat) :
    MemOk (outState? (execResultDelivery core s)) := by
  unfold execResultDelivery
  refine .some ?_
  dsimp only
  split
  · exact h
  · simp [h, settleStepA_wf, ite_wf]

theorem execTileWriteDelivery_memOk {s : State} (h : s.mem.wf = true) (core : Nat) :
    MemOk (outState? (execTileWriteDelivery core s)) :=
  .some (by simp [h, ite_wf])

theorem execFetchMissArrival_memOk {s : State} (h : s.mem.wf = true) (core stream : Nat) :
    MemOk (outState? (execFetchMissArrival core stream s)) := by
  unfold execFetchMissArrival
  refine .some ?_
  dsimp only
  repeat' split
  all_goals simp [h]

/-! ### Debug hold and steps (R126-R128) -/

theorem execDebugHold_memOk {s : State} (h : s.mem.wf = true) (core : Nat) : MemOk (outState? (execDebugHold core s)) :=
  .some (by simp [h, ite_wf])

theorem execDebugStep_memOk {s : State} (h : s.mem.wf = true) (core : Nat) : MemOk (outState? (execDebugStep core s)) :=
  .some (by simp [h, ite_wf])

theorem execDebugStepA_memOk {s : State} (h : s.mem.wf = true) (core : Nat) :
    MemOk (outState? (execDebugStepA core s)) :=
  .some (by simp [h, ite_wf])

theorem execOpdbgrel_memOk {s : State} (h : s.mem.wf = true) (handle : BitVec 32) :
    MemOk (outState? (execOpdbgrel handle s)) := by
  unfold execOpdbgrel
  refine .some ?_
  dsimp only
  split
  · exact h
  · simp [h, advanceOp_wf, ite_wf]

/-! ### Predecessors and class queues (R237, R242, R243) -/

theorem execPredecessorFinished_memOk {s : State} (h : s.mem.wf = true) (ctx slot : Nat) :
    MemOk (outState? (execPredecessorFinished ctx slot s)) := by
  unfold execPredecessorFinished
  refine .some ?_
  split
  · simp [h, advanceOp_wf, ite_wf]
  · exact h

theorem startLaunch_wf {s : State} (h : s.mem.wf = true) (x slot : Nat) : (startLaunch s x slot).mem.wf = true := by
  unfold startLaunch
  simp [h, startOp_wf]

theorem execOperationStart_memOk {s : State} (h : s.mem.wf = true) (ctx slot : Nat) :
    MemOk (outState? (execOperationStart ctx slot s)) := by
  unfold execOperationStart
  refine .some ?_
  split
  · exact h
  · split
    · split
      · simp [h, startWlease_wf, ite_wf]
      · simp [h, startCopy_wf, ite_wf]
      · simp [h, startLaunch_wf, ite_wf]
      · simp [h, startBdot_wf, ite_wf]
      · simp [h, startGlaze_wf, ite_wf]
      · exact h
    · repeat' split
      all_goals simp [h, startWlease_wf]

theorem execPriorityAging_memOk {s : State} (h : s.mem.wf = true) (who : Waiter) :
    MemOk (outState? (execPriorityAging who s)) := by
  unfold execPriorityAging
  refine .some ?_
  repeat' split
  all_goals simp [h]

@[simp] theorem failPending_mem (s : State) (k : Nat) (f : StopInfo) : (failPending s k f).mem = s.mem := by
  unfold failPending
  split <;> rfl

theorem execReplay_memOk {s : State} (h : s.mem.wf = true) (bench : Nat) : MemOk (outState? (execReplay bench s)) := by
  unfold execReplay
  refine .some ?_
  split
  · split
    · simp [h, drainDev_wf, ite_wf]
    · simp [h, drainDev_wf, ite_wf]
  · split
    · exact h
    · split
      · simp [h, ite_wf]
      · dsimp only
        split
        · simp [h]
        · simp [h, ite_wf]

/-! ### The end of a halt (R344, R345) -/

theorem putStop_wf {s : State} (h : s.mem.wf = true) (x i : Nat) (l : List Byte) : (putStop s x i l).mem.wf = true :=
  State.devWrite_wf h ..

theorem stopOp_wf {s : State} (h : s.mem.wf = true) (x slot : Nat) (code : Byte) :
    (stopOp s x slot code).mem.wf = true := by
  unfold stopOp
  repeat' split
  all_goals simp [h, failAny_wf, parkOp_wf]

@[simp] theorem endCmd_mem (s : State) (x : Nat) (result : Byte) : (endCmd s x result).mem = s.mem := by
  unfold endCmd
  split <;> rfl

@[simp] theorem thaw_mem (s : State) (x : Nat) : (thaw s x).mem = s.mem := rfl

theorem stopRecords_wf {s : State} (h : s.mem.wf = true) (x : Nat) (seq : W32) (hd : Halt) :
    (stopRecords s x seq hd).mem.wf = true := by
  unfold stopRecords
  dsimp only
  refine foldl_wf (fun s e h => ?_) ?_
  · split
    · exact h
    · exact putStop_wf h ..
  · refine foldl_wf (fun s e h => ?_) ?_
    · refine foldl_wf (fun s e h => ?_) ?_
      · exact putStop_wf h ..
      · exact h
    · exact h

@[simp] theorem reportDown_mem (s : State) (x : Nat) : (reportDown s x).mem = s.mem := by
  unfold reportDown
  refine foldl_mem fun s e => ?_
  split
  · rfl
  · simp

@[simp] theorem haltMigr_mem (s : State) (x : Nat) (code : Byte) : (haltMigr s x code).mem = s.mem := by
  unfold haltMigr
  dsimp only
  split
  · rfl
  · split
    · exact foldl_mem fun s e => by simp
    · rfl

theorem State.haltBars_wf {s : State} (h : s.mem.wf = true) (x : Nat) (hd : Halt) :
    (s.haltBars x hd).mem.wf = true := by
  unfold State.haltBars
  simp [h, State.breakBarriers_wf]

@[simp] theorem forgetMigr_mem (s : State) (x : Nat) : (forgetMigr s x).mem = s.mem := by
  unfold forgetMigr
  dsimp only
  split <;> rfl

theorem execHaltFinish_memOk {s : State} (h : s.mem.wf = true) (ctx : Nat) :
    MemOk (outState? (execHaltFinish ctx s)) := by
  unfold execHaltFinish
  refine .some ?_
  split
  · exact h
  · split
    · exact State.haltBars_wf h ..
    · split
      · exact h
      · dsimp only
        split
        · split
          · refine State.setCtxSt_wf ?_ ..
            refine postEvent_wf ?_ ..
            rw [State.modX_mem]
            rw [endCmd_mem]
            rw [thaw_mem]
            rw [forgetMigr_mem]
            rw [haltMigr_mem]
            rw [reportDown_mem]
            refine stopRecords_wf ?_ ..
            refine foldl_wf (fun s e h => ?_) ?_
            · exact stopOp_wf h ..
            · exact h
          · refine State.setCtxSt_wf ?_ ..
            refine postEvent_wf ?_ ..
            rw [State.modX_mem]
            rw [endCmd_mem]
            rw [thaw_mem]
            rw [forgetMigr_mem]
            rw [haltMigr_mem]
            rw [reportDown_mem]
            refine stopRecords_wf ?_ ..
            refine foldl_wf (fun s e h => ?_) ?_
            · exact stopOp_wf h ..
            · exact h
        · split
          · refine State.setCtxSt_wf ?_ ..
            refine postEvent_wf ?_ ..
            rw [State.modX_mem]
            rw [endCmd_mem]
            rw [forgetMigr_mem]
            rw [haltMigr_mem]
            rw [reportDown_mem]
            refine stopRecords_wf ?_ ..
            refine foldl_wf (fun s e h => ?_) ?_
            · exact stopOp_wf h ..
            · exact h
          · refine State.setCtxSt_wf ?_ ..
            refine postEvent_wf ?_ ..
            rw [State.modX_mem]
            rw [endCmd_mem]
            rw [forgetMigr_mem]
            rw [haltMigr_mem]
            rw [reportDown_mem]
            refine stopRecords_wf ?_ ..
            refine foldl_wf (fun s e h => ?_) ?_
            · exact stopOp_wf h ..
            · exact h

/-! ### Creation (R340, R342) -/

theorem devFill_wf {s : State} (h : s.mem.wf = true) (fn : Nat) (va : W64) (l : List (List Byte)) :
    (devFill s fn va l).mem.wf = true := by
  induction l generalizing s va with
  | nil => exact h
  | cons l r ih => exact ih (State.devWrite_wf h ..) _

theorem imageAll_wf {s : State} (h : s.mem.wf = true) (x : Nat) : (imageAll s x).mem.wf = true := by
  unfold imageAll
  extract_lets c free s₁ s₂ s₃ s₄
  have h₁ : s₁.mem.wf = true := devFill_wf h ..
  have h₂ : s₂.mem.wf = true := devFill_wf h₁ ..
  have h₃ : s₃.mem.wf = true := devFill_wf h₂ ..
  have h₄ : s₄.mem.wf = true := devFill_wf h₃ ..
  exact State.imageCtx_wf h₄ x

theorem cmdRead_memOk {s : State} (h : s.mem.wf = true) (fn : Nat) (va : W64) (n : Nat) :
    MemOk (cmdRead s fn va n).state? := by
  unfold cmdRead
  split
  · split
    · exact .none
    · exact .some h
  · split
    · exact .some h
    · exact .some (by simp [h])
    · exact .none

@[simp] theorem cmdEnd_mem (s : State) (result : Byte) : (cmdEnd s result).mem = s.mem := rfl

/-! ### Leaving the cores (R349, R175) -/

@[simp] theorem unbindInst_mem (s : State) (key : InstKey) : (unbindInst s key).mem = s.mem := by
  unfold unbindInst
  simp

theorem departBegin_wf {s : State} (h : s.mem.wf = true) (x : Nat) (st : CtxSt) :
    (departBegin s x st).mem.wf = true := by
  unfold departBegin
  simp [Memory.wf_iff, h, State.setCtxSt_wf, foldl_wf]

@[simp] theorem leaveCore_mem (s : State) (k : Nat) : (leaveCore s k).mem = s.mem := by
  unfold leaveCore
  simp

theorem execPreemptWaitExpiry_memOk {s : State} (h : s.mem.wf = true) (ctx core : Nat) :
    MemOk (outState? (execPreemptWaitExpiry ctx core s)) := by
  unfold execPreemptWaitExpiry
  refine .some ?_
  dsimp only
  split
  · exact h
  · simp [h, ite_wf]

/-! ### Draining and parking (R247, R267, R349) -/

theorem parkLease_wf {s : State} (h : s.mem.wf = true) (x slot : Nat) (l : LeaseInfo) :
    (parkLease s x slot l).mem.wf = true := by
  unfold parkLease
  split
  · simp [h, setParked_wf]
  · dsimp only
    split
    · simp [h, setParked_wf, passEngine_wf]
    · simp [h, setParked_wf]

@[simp] theorem sendPark_mem (s : State) (x slot : Nat) (o : Op) : (sendPark s x slot o).mem = s.mem := by
  unfold sendPark
  split
  · split
    · rfl
    · dsimp only
      refine (foldl_mem fun s e => ?_).trans ?_
      · rfl
      · simp
  · rfl

theorem departOp_wf {s : State} (h : s.mem.wf = true) (x slot : Nat) (o : Op) :
    (departOp s x slot o).mem.wf = true := by
  unfold departOp
  split
  · simp [h, parkOp_wf, ite_wf]
  · split
    · exact h
    · split
      · simp [h, parkOp_wf, ite_wf]
      · dsimp only
        split
        · simp [h, parkOp_wf, ite_wf]
        · simp [h]
  · simp [h, setParked_wf, ite_wf]
  · exact h

theorem departLease_wf {s : State} (h : s.mem.wf = true) (x slot : Nat) (o : Op) :
    (departLease s x slot o).mem.wf = true := by
  unfold departLease
  repeat' split
  all_goals simp [h, parkLease_wf, settleLease_wf]

theorem execDeadlineExpiry_memOk {s : State} (h : s.mem.wf = true) (ctx : Nat) :
    MemOk (outState? (execDeadlineExpiry ctx s)) := by
  unfold execDeadlineExpiry
  refine .some ?_
  split
  · exact h
  · dsimp only
    refine foldl_wf (fun s e h => ?_) ?_
    · exact postEvent_wf (failAny_wf h ..) ..
    · exact h

/-! ### Saving (R350) -/

theorem leaveClaim_wf {s : State} (h : s.mem.wf = true) (k : Nat) : (leaveClaim s k).1.mem.wf = true := by
  unfold leaveClaim
  dsimp only
  split
  · exact h
  · simp [h]

theorem saveCore_wf {s : State} (h : s.mem.wf = true) (x : Nat) (e : Nat × Core) : (saveCore s x e).mem.wf = true := by
  unfold saveCore
  split
  · exact h
  · simp [h, leaveClaim_wf, State.devWrite_wf]

theorem reportOrphans_wf {s : State} (h : s.mem.wf = true) (x : Nat) : (reportOrphans s x).mem.wf = true := by
  unfold reportOrphans
  refine foldl_wf (fun s e h => ?_) ?_
  · simp [h, postEvent_wf]
  · exact h

theorem saveLight_wf {s : State} (h : s.mem.wf = true) (x : Nat) : (saveLight s x).mem.wf = true := by
  unfold saveLight
  refine State.imageCtx_wf ?_ ..
  refine foldl_wf (fun s e h => ?_) ?_
  · exact State.devWrite_wf h ..
  · exact h

theorem departSave_wf {s : State} (h : s.mem.wf = true) (x : Nat) : (departSave s x).1.mem.wf = true := by
  unfold departSave
  dsimp only
  split
  · simp [h]
  · exact h
  · split
    · simp [h]
    · simp [h]
    · dsimp only
      refine reportOrphans_wf ?_ ..
      refine saveLight_wf ?_ ..
      refine foldl_wf (fun s e h => ?_) ?_
      · exact saveCore_wf h ..
      · exact h

theorem departStep_wf {s : State} (h : s.mem.wf = true) (x : Nat) : (departStep s x).1.mem.wf = true := by
  unfold departStep
  extract_lets t u c late
  split
  · exact h
  · have ht : t.mem.wf = true := foldl_wf (fun _ _ h => departOp_wf h ..) h
    have hu : u.mem.wf = true := foldl_wf (fun _ _ h => departLease_wf h ..) ht
    split
    · exact hu
    · split
      · simp [hu]
      · split
        · exact hu
        · exact departSave_wf hu ..

@[simp] theorem drainConns_mem (s : State) (fn : Nat) : (drainConns s fn).mem = s.mem := rfl

@[simp] theorem departEnd_mem (s : State) (x : Nat) : (departEnd s x).mem = s.mem := rfl

theorem execSwitchOut_memOk {s : State} (h : s.mem.wf = true) (ctx : Nat) :
    MemOk (outState? (execSwitchOut ctx s)) := by
  unfold execSwitchOut
  refine .some ?_
  dsimp only
  split
  · split
    · exact h
    · split
      · rw [endCmd_mem]
        exact postEvent_wf (by simp [h, departStep_wf, State.setCtxSt_wf]) ..
      · simp [h, departStep_wf]
  · split
    · exact h
    · split
      · exact h
      · split
        · split
          · rw [endCmd_mem]
            exact State.setCtxSt_wf (by simp [h, departBegin_wf, departStep_wf]) ..
          · simp [h, departBegin_wf, departStep_wf]
        · exact departBegin_wf h ..
        · exact departBegin_wf h ..
        · simp [h]

/-! ### SWITCH_IN (R351) -/

@[simp] theorem moveOps_mem (s : State) (key : InstKey) (f : Nat → Nat) : (moveOps s key f).mem = s.mem := rfl

@[simp] theorem restoreCore_mem (s : State) (f : Nat → Nat) (v : SavedCore) (k : Nat) :
    (restoreCore s f v k).mem = s.mem := by
  unfold restoreCore
  repeat' split
  all_goals rfl

theorem rebindInst_memOk {s : State} (h : s.mem.wf = true) (key : InstKey) (i : Inst) : MemOk (rebindInst s key i) := by
  unfold rebindInst
  dsimp only
  split
  · exact .some h
  · split
    · exact .none
    · exact .some (by simp [Memory.wf_iff, h, foldl_wf])

theorem rebindAll_memOk {s : State} (h : s.mem.wf = true) (x : Nat) : MemOk (rebindAll s x) := by
  refine List.foldlRecOn (motive := MemOk) _ _ (.some h) fun r hr e _ => ?_
  cases hr with
  | none => exact .none
  | some w => exact rebindInst_memOk w ..

theorem unparkOp_wf {s : State} (h : s.mem.wf = true) (x slot : Nat) (o : Op) :
    (unparkOp s x slot o).mem.wf = true := by
  unfold unparkOp
  split
  · exact h
  · split
    · split
      · simp [h, setOpSt_wf]
      · simp [h, setOpSt_wf, queueLease_wf]
    · dsimp only
      split
      · refine foldl_wf (fun s e h => ?_) ?_
        · simp [h]
        · simp [h, setOpSt_wf]
      · simp [h, setOpSt_wf]

theorem returnQueue_wf {s : State} (h : s.mem.wf = true) (x q : Nat) : (returnQueue s x q).mem.wf = true := by
  unfold returnQueue
  dsimp only
  rw [State.modQ_mem]
  split
  · simp [h, applyTail_wf]
  · simp [h]

theorem restoreCtx_wf {s : State} (h : s.mem.wf = true) (x : Nat) : (restoreCtx s x).mem.wf = true := by
  unfold restoreCtx
  dsimp only
  refine State.imageCtx_wf ?_ ..
  refine settleCtx_wf ?_ ..
  refine foldl_wf (fun s e h => ?_) ?_
  · exact returnQueue_wf h ..
  · refine foldl_wf (fun s e h => ?_) ?_
    · exact unparkOp_wf h ..
    · simp [h]

theorem readImages_memOk {s : State} (h : s.mem.wf = true) (c : Ctx) (l acc : List SavedCore) :
    MemOk (readImages s c l acc).state? := by
  induction l generalizing s acc with
  | nil => exact .some h
  | cons v l ih =>
    unfold readImages
    have w := cmdRead_memOk h c.fn (imageVa c v.gidx) imageBytes
    split
    · rename_i e
      exact .some (w.of_eq e)
    · exact .some h
    · rename_i e
      exact ih (w.of_eq e) _

theorem execSwitchIn_memOk {s : State} (h : s.mem.wf = true) (ctx : Nat) : MemOk (outState? (execSwitchIn ctx s)) := by
  unfold execSwitchIn
  refine .some (ite_wf h (ite_wf (by simp [h]) ?_))
  have w := readImages_memOk h (s.getX ctx) (s.getX ctx).saved []
  split
  · rename_i e
    exact w.of_eq e
  · rename_i t _ _ e
    have ht : t.mem.wf = true := w.of_eq e
    simp [ht]
  · rename_i t l e
    have ht : t.mem.wf = true := w.of_eq e
    have wt := rebindAll_memOk (s := (dropOpEntry t cmdCtx 0).modX ctx fun c => { c with saved := l })
      (by simp [ht]) ctx
    split
    · simp [ht]
    · rename_i e'
      rw [endCmd_mem]
      exact restoreCtx_wf (wt.of_some e') ..

theorem recoverOps_wf {s : State} (h : s.mem.wf = true) (key : InstKey) : (recoverOps s key).mem.wf = true := by
  unfold recoverOps
  dsimp only
  refine foldl_wf (fun s e h => ?_) ?_
  · repeat' split
    all_goals simp [h, cancelOp_wf, retireOp_wf]
  · exact settleNodeOps_wf h ..

theorem recoverNode_wf {s : State} (h : s.mem.wf = true) (key : InstKey) : (recoverNode s key).mem.wf = true := by
  unfold recoverNode
  simp [h, recoverOps_wf]

theorem execCtxRecover_memOk {s : State} (h : s.mem.wf = true) (ctx : Nat) :
    MemOk (outState? (execCtxRecover ctx s)) := by
  unfold execCtxRecover
  refine .some ?_
  split
  · exact h
  · split
    · simp [h]
    · dsimp only
      rw [endCmd_mem]
      refine State.imageCtx_wf ?_ ..
      refine settleCtx_wf ?_ ..
      rw [State.modX_mem]
      refine foldl_wf (fun s e h => ?_) ?_
      · simp [h, unparkOp_wf, ite_wf]
      · refine foldl_wf (fun s e h => ?_) ?_
        · exact recoverNode_wf h ..
        · exact h

/-! ### DESTROY (R342) -/

theorem dyingOp_wf {s : State} (h : s.mem.wf = true) (x slot : Nat) : (dyingOp s x slot).mem.wf = true := by
  unfold dyingOp
  repeat' split
  all_goals simp [h, failAny_wf, finishOp_wf, ite_wf]

theorem dyingShards_wf {s : State} (h : s.mem.wf = true) (x : Nat) : (dyingShards s x).mem.wf = true := by
  unfold dyingShards
  dsimp only
  split
  · exact h
  · refine foldl_wf (fun s e h => ?_) ?_
    · simp [h, faultShard_wf, ite_wf]
    · exact h

theorem dyingArrays_wf {s : State} (h : s.mem.wf = true) (x : Nat) : (dyingArrays s x).mem.wf = true := by
  unfold dyingArrays
  dsimp only
  refine foldl_wf (fun s e h => ?_) ?_
  · split
    · simp [h, endClaim_wf, ite_wf]
    · exact h
  · exact h

theorem destroyBegin_wf {s : State} (h : s.mem.wf = true) (x : Nat) : (destroyBegin s x).mem.wf = true := by
  unfold destroyBegin
  dsimp only
  rw [dropFaults_mem]
  rw [withDot_mem]
  rw [State.modX_mem]
  refine dyingShards_wf ?_ ..
  refine foldl_wf (fun s e h => ?_) ?_
  · exact dyingOp_wf h ..
  · refine State.setCtxSt_wf ?_ ..
    refine foldl_wf (fun s e h => ?_) ?_
    · simp [h, failOpenNodes_wf, ite_wf]
    · refine foldl_wf (fun s e h => ?_) ?_
      · simp [h]
      · refine foldl_wf (fun s e h => ?_) ?_
        · simp [h]
        · simp [h]

theorem execCtxDestroy_memOk {s : State} (h : s.mem.wf = true) (ctx : Nat) :
    MemOk (outState? (execCtxDestroy ctx s)) := by
  unfold execCtxDestroy
  refine .some ?_
  repeat' split
  all_goals simp [h, destroyBegin_wf]

theorem execTeardownDone_memOk {s : State} (h : s.mem.wf = true) (ctx : Nat) :
    MemOk (outState? (execTeardownDone ctx s)) := by
  unfold execTeardownDone
  refine .some ?_
  dsimp only
  split
  · exact h
  · split
    · simp [h, dyingArrays_wf, reportOrphans_wf]
    · split
      · split
        · dsimp only
          exact State.devWrite_wf (by simp [h, dyingArrays_wf, reportOrphans_wf]) ..
        · dsimp only
          exact State.devWrite_wf (by simp [h, dyingArrays_wf, reportOrphans_wf]) ..
      · split
        · dsimp only
          rw [drainConns_mem]
          dsimp only
          exact State.devWrite_wf (by simp [h, dyingArrays_wf, reportOrphans_wf]) ..
        · rw [drainConns_mem]
          dsimp only
          exact State.devWrite_wf (by simp [h, dyingArrays_wf, reportOrphans_wf]) ..

/-! ### A port (R382, R384) -/

theorem execSignalDetected_memOk {s : State} (h : s.mem.wf = true) (port : Nat) :
    MemOk (outState? (execSignalDetected port s)) :=
  .some (by simp [h, ite_wf])

theorem execTrainingEnd_memOk {s : State} (h : s.mem.wf = true) (port : Nat) (r : TrainResult) :
    MemOk (outState? (execTrainingEnd port r s)) :=
  .some (by simp [h, ite_wf])

@[simp] theorem retrainPort_mem (s : State) (q : Nat) : (retrainPort s q).mem = s.mem := by
  unfold retrainPort
  split <;> rfl

theorem execRetrainTrigger_memOk {s : State} (h : s.mem.wf = true) (port : Nat) (lossOfSignal : Bool) :
    MemOk (outState? (execRetrainTrigger port lossOfSignal s)) :=
  .some (by simp [h, ite_wf])

theorem execRetrain_memOk {s : State} (h : s.mem.wf = true) (port : Nat) : MemOk (outState? (execRetrain port s)) :=
  .some (by simp [h])

theorem execPortEnableWrite_memOk {s : State} (h : s.mem.wf = true) (port : Nat) (on : Bool) :
    MemOk (outState? (execPortEnableWrite port on s)) :=
  .some (by simp [h, ite_wf])

theorem execNakReceived_memOk {s : State} (h : s.mem.wf = true) (port : Nat) (ackseq : BitVec 12) :
    MemOk (outState? (execNakReceived port ackseq s)) :=
  .some (by simp [h, ite_wf])

theorem execReplayTimeout_memOk {s : State} (h : s.mem.wf = true) (port : Nat) :
    MemOk (outState? (execReplayTimeout port s)) :=
  .some (by simp [h, ite_wf])

@[simp] theorem noteSent_mem (s : State) (m : Msg) : (noteSent s m).mem = s.mem := by
  unfold noteSent
  split <;> rfl

/-- A message that leaves a queue writes no memory. -/
theorem advanceHead_mem {s t : State} {dst : BitVec 15} {m : Msg} (e : advanceHead s dst m = some t) :
    t.mem = s.mem := by
  unfold advanceHead at e
  split at e
  · split at e
    · cases e
      simp
    · cases e
  · split at e
    · cases e
      rfl
    · cases e
  · cases e

theorem makeCtx_wf {s : State} (h : s.mem.wf = true) (fn : Nat) (va : W64) (st : CtxSt) (l : List Byte) :
    (makeCtx s fn va st l).1.mem.wf = true := by
  unfold makeCtx
  split
  · exact h
  · dsimp only
    split
    · exact h
    · simp [h, imageAll_wf]

theorem execCtxCreate_memOk {s : State} (h : s.mem.wf = true) : MemOk (outState? (execCtxCreate s)) := by
  unfold execCtxCreate
  refine .some ?_
  split
  · exact h
  · dsimp only
    split
    · simp [h]
    · split
      · rename_i t1 hw1
        have w1 : t1.mem.wf = true := (cmdRead_memOk h ..).of_eq hw1
        exact w1
      · simp [h]
      · rename_i t1 _ hw1
        have w1 : t1.mem.wf = true := (cmdRead_memOk h ..).of_eq hw1
        simp [w1, makeCtx_wf, ite_wf]

@[simp] theorem advanceQueue_mem (key n : Nat) (s : State) : (advanceQueue key n s).mem = s.mem := by
  induction n generalizing s with
  | zero => rfl
  | succ n ih =>
    unfold advanceQueue
    split
    · rfl
    · split
      · rename_i e
        have w := advanceHead_mem e
        exact (ih _).trans w
      · rfl

@[simp] theorem emit_mem (s : State) (m : Msg) : (emit s m).mem = s.mem := by
  unfold emit
  simp

@[simp] theorem advanceAll_mem (s : State) : (advanceAll s).mem = s.mem := foldl_mem fun s e => by simp

/-! ### The scheduled mode (R396, R397) -/

@[simp] theorem serveQueue_mem (s : State) (g : Nat) : (serveQueue s g).mem = s.mem := by
  unfold serveQueue
  repeat' split
  all_goals simp

@[simp] theorem toStatic_mem (s : State) : (toStatic s).mem = s.mem := by
  unfold toStatic
  split
  · rfl
  · exact foldl_mem fun s e => List.foldrRecOn (motive := fun t : State => t.mem = s.mem) e.2 _ rfl fun _ ht _ _ => ht

@[simp] theorem serveAll_mem (s : State) : (serveAll s).mem = s.mem := by
  unfold serveAll
  split
  · rfl
  · exact foldl_mem fun s e => by simp

@[simp] theorem loseFlights_mem (s : State) : (loseFlights s).mem = s.mem := rfl

theorem execOsyncEdge_memOk {s : State} (h : s.mem.wf = true) : MemOk (outState? (execOsyncEdge s)) := .some
    (by simp [h, ite_wf])

theorem execSlotStart_memOk {s : State} (h : s.mem.wf = true) : MemOk (outState? (execSlotStart s)) := by
  unfold execSlotStart
  refine .some ?_
  dsimp only
  repeat' split
  all_goals simp [h]

theorem execSlotCommit_memOk {s : State} (h : s.mem.wf = true) : MemOk (outState? (execSlotCommit s)) := .some h

/-! ### Rings (R399-R401) -/

@[simp] theorem State.modRing_mem (s : State) (f k : Nat) (g : Ring → Ring) : (s.modRing f k g).mem = s.mem := rfl

theorem execRingHeatWrite_memOk {s : State} (h : s.mem.wf = true) (fibre ring : Nat) (val : BitVec 32) :
    MemOk (outState? (execRingHeatWrite fibre ring val s)) :=
  .some (by simp [h, ite_wf])

theorem execRingSettled_memOk {s : State} (h : s.mem.wf = true) (fibre ring : Nat) (adc : BitVec 12) :
    MemOk (outState? (execRingSettled fibre ring adc s)) := by
  unfold execRingSettled
  refine .some ?_
  split
  · exact h
  · simp [h, ite_wf]

theorem execRingMapWrite_memOk {s : State} (h : s.mem.wf = true) (fibre ring : Nat) (val : BitVec 32) :
    MemOk (outState? (execRingMapWrite fibre ring val s)) := by
  unfold execRingMapWrite
  refine .some ?_
  split
  · simp [h, ite_wf]
  · dsimp only
    split
    · exact h
    · rw [State.modRing_mem]
      split
      · refine foldl_wf (fun s e h => ?_) ?_
        · simp [h, ite_wf]
        · exact h
      · exact h

@[simp] theorem countRings_mem (s : State) (q : Nat) : (countRings s q).mem = s.mem := by
  unfold countRings
  split
  · rfl
  · refine foldl_mem fun s k => ?_
    split <;> rfl

/-! ### Parts -/

@[simp] theorem State.modConn_mem (s : State) (fn peer : Nat) (f : Conn → Conn) :
    (s.modConn fn peer f).mem = s.mem := by
  unfold State.modConn
  split <;> rfl

@[simp] theorem State.modRecv_mem (s : State) (src : BitVec 15) (svf : Byte) (f : Recv → Recv) :
    (s.modRecv src svf f).mem = s.mem := rfl

@[simp] theorem stampAck_mem (s : State) (m : Msg) : (stampAck s m).1.mem = s.mem := by
  unfold stampAck
  split <;> rfl

@[simp] theorem emitStamped_mem (s : State) (m : Msg) : (emitStamped s m).mem = s.mem := by
  unfold emitStamped
  simp

@[simp] theorem control_mem (s : State) (fn peer : Nat) (svf epoch : Byte) (payload : List Byte) :
    (control s fn peer svf epoch payload).mem = s.mem := by
  unfold control
  simp

/-! ### Tables and the words that wait (R305, R394, R172) -/

theorem degradePg_wf {s : State} (h : s.mem.wf = true) (x : Nat) (id : W32) (code : Byte) :
    (degradePg s x id code).mem.wf = true := by
  unfold degradePg
  repeat' split
  all_goals simp [h, breakTable_wf, failTable_wf]

@[simp] theorem dropRequest_mem (s : State) (tag : W64) : (dropRequest s tag).mem = s.mem := rfl

@[simp] theorem answerWord_mem (s : State) (tag : W64) (l : List Byte) : (answerWord s tag l).mem = s.mem := by
  unfold answerWord
  dsimp only
  split <;> rfl

@[simp] theorem failWord_mem (s : State) (tag va : W64) (code : Byte) : (failWord s tag va code).mem = s.mem := by
  unfold failWord
  split
  · dsimp only
    split
    · rfl
    · split
      · rfl
      · simp
  · dsimp only
    split
    · rfl
    · split
      · rfl
      · simp

@[simp] theorem abandonWord_mem (s : State) (tag : W64) : (abandonWord s tag).mem = s.mem := by
  unfold abandonWord
  dsimp only
  split <;> rfl

@[simp] theorem failPull_mem (s : State) (fn : Nat) (va : W64) : (failPull s fn va).mem = s.mem := rfl

theorem failMsg_wf {s : State} (h : s.mem.wf = true) (m : Msg) (code : Byte) : (failMsg s m code).mem.wf = true := by
  unfold failMsg
  split
  · simp [h, ite_wf]
  · simp [h, ite_wf]
  · simp [h, ite_wf]
  · dsimp only
    split
    · exact failColl_wf h ..
    · exact h
  · dsimp only
    split
    · exact failColl_wf h ..
    · exact h
  · simp [h, ite_wf]
  · simp [h, failDelivered_wf]
  · simp [h, ite_wf]
  · exact h

/-! ### The states of a connection (R389) -/

@[simp] theorem openConn_mem (s : State) (fn peer : Nat) (epoch : Byte) : (openConn s fn peer epoch).mem = s.mem := by
  unfold openConn
  simp

theorem closeOpening_wf {s : State} (h : s.mem.wf = true) (fn peer : Nat) : (closeOpening s fn peer).mem.wf = true := by
  unfold closeOpening
  dsimp only
  refine foldl_wf (fun s e h => ?_) ?_
  · exact failMsg_wf h ..
  · simp [h]

theorem resetConn_wf {s : State} (h : s.mem.wf = true) (fn peer : Nat) : (resetConn s fn peer).mem.wf = true := by
  unfold resetConn
  dsimp only
  split
  · rw [State.post_mem]
    refine foldl_wf (fun s e h => ?_) ?_
    · simp [h]
    · rw [lostArrivals_mem]
      refine foldl_wf (fun s e h => ?_) ?_
      · exact degradePg_wf h ..
      · refine foldl_wf (fun s e h => ?_) ?_
        · exact failMsg_wf h ..
        · simp [h]
  · refine foldl_wf (fun s e h => ?_) ?_
    · simp [h]
    · rw [lostArrivals_mem]
      refine foldl_wf (fun s e h => ?_) ?_
      · exact degradePg_wf h ..
      · refine foldl_wf (fun s e h => ?_) ?_
        · exact failMsg_wf h ..
        · simp [h]

@[simp] theorem sendWaiting_mem (fn peer n : Nat) (s : State) : (sendWaiting fn peer n s).mem = s.mem := by
  induction n generalizing s with
  | zero => rfl
  | succ n ih =>
    unfold sendWaiting
    dsimp only
    split
    · rfl
    · split
      · rfl
      · simp [ih]

@[simp] theorem readBack_mem (s : State) (fn peer : Nat) : (readBack s fn peer).mem = s.mem := by
  unfold readBack
  simp

@[simp] theorem driveConn_mem (s : State) (fn peer : Nat) : (driveConn s fn peer).mem = s.mem := by
  unfold driveConn
  split
  · dsimp only
    split
    · rfl
    · split
      · simp
      · split
        · simp
        · simp
        · split
          · simp
          · rfl
        · rfl
  · dsimp only
    split
    · rfl
    · split
      · rfl
      · split
        · simp
        · rfl
        · split
          · simp
          · rfl
        · rfl

theorem takeOut_wf {s : State} (h : s.mem.wf = true) (m : Msg) : (takeOut s m).mem.wf = true := by
  unfold takeOut
  repeat' split
  all_goals simp [h, failMsg_wf]

@[simp] theorem ackPeer_mem (s : State) (r : Recv) : (ackPeer s r).mem = s.mem := by
  unfold ackPeer
  split
  · rfl
  · simp

theorem pump_wf {s : State} (h : s.mem.wf = true) : (pump s).mem.wf = true := by
  unfold pump
  dsimp only
  rw [serveAll_mem]
  rw [advanceAll_mem]
  rw [toStatic_mem]
  refine foldl_wf (fun s e h => ?_) ?_
  · simp [h]
  · refine foldl_wf (fun s e h => ?_) ?_
    · simp [h]
    · refine foldl_wf (fun s e h => ?_) ?_
      · exact takeOut_wf h ..
      · exact h

/-! ### Timeouts (R388, R389, R391) -/

theorem execConnopenTimeout_memOk {s : State} (h : s.mem.wf = true) (fn peer : Nat) :
    MemOk (outState? (execConnopenTimeout fn peer s)) :=
  .some (by simp [h, closeOpening_wf, ite_wf])

theorem execRetransmission_memOk {s : State} (h : s.mem.wf = true) (fn peer : Nat) :
    MemOk (outState? (execRetransmission fn peer s)) := by
  unfold execRetransmission
  refine .some ?_
  dsimp only
  split
  · exact h
  · split
    · exact h
    · split
      · simp [h, resetConn_wf]
      · refine foldl_wf (fun s e h => ?_) ?_
        · simp [h, ite_wf]
        · simp [h]

theorem execConnidleTimeout_memOk {s : State} (h : s.mem.wf = true) (fn peer : Nat) :
    MemOk (outState? (execConnidleTimeout fn peer s)) :=
  .some (by simp [h, ite_wf])

theorem execConnbackoffExpiry_memOk {s : State} (h : s.mem.wf = true) (fn peer : Nat) :
    MemOk (outState? (execConnbackoffExpiry fn peer s)) :=
  .some (by simp [h, ite_wf])

theorem execConnectionDrained_memOk {s : State} (h : s.mem.wf = true) (fn peer : Nat) :
    MemOk (outState? (execConnectionDrained fn peer s)) :=
  .some (by simp [h, ite_wf])

theorem execConnectionSpill_memOk {s : State} (h : s.mem.wf = true) (fn peer : Nat) :
    MemOk (outState? (execConnectionSpill fn peer s)) :=
  .some (by simp [h, State.wf_paStore, ite_wf])

/-! ### Messages that arrive (R385, R388) -/

@[simp] theorem coverTo_mem (s : State) (fn peer : Nat) (cack : BitVec 16) : (coverTo s fn peer cack).mem = s.mem := by
  unfold coverTo
  split
  · rfl
  · dsimp only
    split
    · simp
    · rfl

@[simp] theorem acceptMsg_mem (s : State) (m : Msg) : (acceptMsg s m).mem = s.mem := by
  unfold acceptMsg
  split
  · rfl
  · split
    · rfl
    · split
      · rfl
      · split
        · split
          · dsimp only
            split
            · simp
            · simp
          · dsimp only
            split
            · simp
            · simp
        · split
          · dsimp only
            split
            · simp
            · simp
          · dsimp only
            split
            · simp
            · simp

@[simp] theorem arriveMsg_mem (s : State) (q : Nat) (l : List Byte) : (arriveMsg s q l).mem = s.mem := by
  unfold arriveMsg
  repeat' split
  all_goals simp

@[simp] theorem takeFlit_mem (s : State) (q : Nat) (f : BitVec 512) : (takeFlit s q f).mem = s.mem := by
  unfold takeFlit
  split
  · dsimp only
    split
    · simp
    · rfl
  · dsimp only
    split
    · simp
    · rfl

theorem execFlitReceived_memOk {s : State} (h : s.mem.wf = true) (port : Nat) (flit : BitVec 512) :
    MemOk (outState? (execFlitReceived port flit s)) := by
  unfold execFlitReceived
  refine .some ?_
  repeat' split
  all_goals simp [h, ite_wf]

/-! ### Fabric accesses at their target (R172, R354-R356, R362) -/

@[simp] theorem replyMsg_mem (s : State) (m : Msg) (kind : Nat) (l : List Byte) :
    (replyMsg s m kind l).mem = s.mem := rfl

@[simp] theorem endRequest_mem (s : State) (m : Msg) : (endRequest s m).mem = s.mem := rfl

@[simp] theorem refuseMsg_mem (s : State) (m : Msg) (code : Byte) : (refuseMsg s m code).mem = s.mem := rfl

@[simp] theorem movedMsg_mem (s : State) (m : Msg) (dev fn : Nat) : (movedMsg s m dev fn).mem = s.mem := rfl

theorem fabArrive_wf {s : State} (h : s.mem.wf = true) (m : Msg) (isLeave : Bool) :
    (fabArrive s m isLeave).mem.wf = true := by
  unfold fabArrive
  dsimp only
  split
  · exact h
  · split
    · rename_i e
      obtain ⟨x, _, e'⟩ := Option.bind_eq_some_iff.mp e
      rw [State.send_mem]
      exact (homeEvent_memOk (by simpa using h) ..).of_eq e'
    · simp [h]

@[simp] theorem arrivalReply_mem (s : State) (m : Msg) : (arrivalReply s m).mem = s.mem := by
  unfold arrivalReply
  dsimp only
  repeat' split
  all_goals rfl

theorem execMsgBarrier_memOk {s : State} (h : s.mem.wf = true) (m : Msg) : MemOk (outState? (execMsgBarrier m s)) := by
  unfold execMsgBarrier
  refine .some ?_
  dsimp only
  split
  · simp [h, ite_wf]
  · split
    · refine foldl_wf (fun s e h => ?_) ?_
      · simp [h]
      · exact h
    · refine foldl_wf (fun s e h => ?_) ?_
      · simp [h]
      · exact h
    · exact fabArrive_wf h ..
    · exact fabArrive_wf h ..
    · simp [h]
    · exact messageBreak_wf h ..
    · exact h

theorem fabAccess_wf {s : State} (h : s.mem.wf = true) (m : Msg) (p : Perm) (n : Nat) {k : State → List Byte → State}
    (hk : ∀ t l, t.mem.wf = true → (k t l).mem.wf = true) : (fabAccess s m p n k).mem.wf = true := by
  unfold fabAccess
  extract_lets fn
  split
  · simp [h]
  · refine ite_wf (by simp [h]) (ite_wf (ite_wf h h) ?_)
    split
    · split
      · simp [h]
      · exact h
    · refine ite_wf (by simp [h]) ?_
      split
      · simp [h]
      · exact hk _ _ h
      · split
        · exact ite_wf (by simp [h]) (ite_wf (by simp [h]) (by simp [h]))
        · exact h

theorem fabWrite_wf {s : State} (h : s.mem.wf = true) (m : Msg) (l : List Byte) : (fabWrite s m l).mem.wf = true := by
  unfold fabWrite
  split
  · dsimp only
    split
    · rename_i t1 hw1
      have w1 : t1.mem.wf = true := (writePerm_memOk h ..).of_eq hw1
      split
      · simp [w1, countLines_wf]
      · simp [w1, countLines_wf]
    · exact h
  · dsimp only
    split
    · rename_i t1 hw1
      have w1 : t1.mem.wf = true := (writePerm_memOk h ..).of_eq hw1
      split
      · simp [w1, lockCheck_wf, countLines_wf]
      · simp [w1, countLines_wf]
    · exact h

theorem execMsgLoad_memOk {s : State} (h : s.mem.wf = true) (m : Msg) : MemOk (outState? (execMsgLoad m s)) :=
  .some (fabAccess_wf h _ _ _ fun _ _ h1 => by simp [h1, countLines_wf])

theorem execMsgStore_memOk {s : State} (h : s.mem.wf = true) (m : Msg) : MemOk (outState? (execMsgStore m s)) :=
  .some (fabAccess_wf h _ _ _ fun _ _ h1 => by simp [h1, fabWrite_wf])

theorem fabAcquire_wf {s : State} (h : s.mem.wf = true) (m : Msg) (try_ : Bool) (holder : W64) (old : List Byte) :
    (fabAcquire s m try_ holder old).mem.wf = true := by
  unfold fabAcquire
  repeat' split
  all_goals simp [h, fabWrite_wf, ite_wf]

@[simp] theorem withdrawHere_mem (s : State) (m : Msg) : (withdrawHere s m).mem = s.mem := by
  unfold withdrawHere
  dsimp only
  split
  · rfl
  · have w (l : List Msg) : (l.foldl endRequest s).mem = s.mem := foldl_mem fun s m => rfl
    exact w _

theorem execMsgAtomic_memOk {s : State} (h : s.mem.wf = true) (m : Msg) : MemOk (outState? (execMsgAtomic m s)) := by
  unfold execMsgAtomic
  refine .some (ite_wf (by simp [h]) (fabAccess_wf h _ _ _ fun t l ht => ?_))
  split
  · exact fabAcquire_wf ht ..
  · exact fabAcquire_wf ht ..
  · rw [replyMsg_mem]
    split
    · exact fabWrite_wf ht ..
    · exact countLines_wf ht ..

/-! ### Replies (R172, R387) -/

theorem execMsgLoadReply_memOk {s : State} (h : s.mem.wf = true) (m : Msg) : MemOk (outState? (execMsgLoadReply m s)) :=
  .some (by simp [h])

theorem execMsgStoreAck_memOk {s : State} (h : s.mem.wf = true) (m : Msg) : MemOk (outState? (execMsgStoreAck m s)) :=
  .some (by simp [h])

theorem execMsgAtomicReply_memOk {s : State} (h : s.mem.wf = true) (m : Msg) :
    MemOk (outState? (execMsgAtomicReply m s)) :=
  .some (by simp [h])

@[simp] theorem ftcPut_mem (s : State) (old new : BitVec 15 × Byte) : (ftcPut s old new).mem = s.mem := rfl

@[simp] theorem performHere_mem (s : State) (m : Msg) : (performHere s m).mem = s.mem := rfl

theorem execMsgMoved_memOk {s : State} (h : s.mem.wf = true) (m : Msg) : MemOk (outState? (execMsgMoved m s)) := by
  unfold execMsgMoved
  refine .some ?_
  dsimp only
  repeat' split
  all_goals simp [h]

theorem execMsgRefusal_memOk {s : State} (h : s.mem.wf = true) (m : Msg) : MemOk (outState? (execMsgRefusal m s)) := by
  unfold execMsgRefusal
  refine .some ?_
  split
  · dsimp only
    refine foldl_wf (fun s e h => ?_) ?_
    · split
      · simp [h, dissolvePg_wf, ite_wf]
      · exact h
    · exact h
  · simp [h, ite_wf]

/-! ### Connection control (R389, R461) -/

@[simp] theorem acceptOpen_mem (s : State) (m : Msg) : (acceptOpen s m).mem = s.mem := by
  unfold acceptOpen
  repeat' split
  all_goals simp

@[simp] theorem keepAnnounce_mem (s : State) (fn : Nat) (m : Msg) (id gen seal_ : W32) :
    (keepAnnounce s fn m id gen seal_).mem = s.mem := rfl

theorem meetAnnounce_wf {s : State} (h : s.mem.wf = true) (x : Nat) (id gen seal_ : W32) :
    (meetAnnounce s x id gen seal_).mem.wf = true := by
  unfold meetAnnounce
  repeat' split
  all_goals simp [h, dissolvePg_wf]

theorem takeAnnounce_wf {s : State} (h : s.mem.wf = true) (m : Msg) (ask : Bool) :
    (takeAnnounce s m ask).mem.wf = true := by
  unfold takeAnnounce
  split
  · dsimp only
    split
    · simp [h]
    · refine foldl_wf (fun s e h => ?_) ?_
      · exact meetAnnounce_wf h ..
      · split
        · simp [h]
        · simp [h]
  · dsimp only
    split
    · simp [h]
    · refine foldl_wf (fun s e h => ?_) ?_
      · exact meetAnnounce_wf h ..
      · split
        · simp [h]
        · simp [h]

theorem takeDown_wf {s : State} (h : s.mem.wf = true) (m : Msg) : (takeDown s m).mem.wf = true := by
  unfold takeDown
  dsimp only
  refine foldl_wf (fun s e h => ?_) ?_
  · simp [h, degradePg_wf, ite_wf]
  · exact h

theorem execMsgConnectionControl_memOk {s : State} (h : s.mem.wf = true) (m : Msg) :
    MemOk (outState? (execMsgConnectionControl m s)) := by
  unfold execMsgConnectionControl
  refine .some ?_
  split
  · simp [h, ite_wf]
  · split
    · simp [h]
    · simp [h, ite_wf]
    · simp [h, resetConn_wf, ite_wf]
    · simp [h, closeOpening_wf, ite_wf]
    · simp [h, takeAnnounce_wf]
    · simp [h, takeAnnounce_wf]
    · simp [h, takeDown_wf]
    · exact h

theorem migrEvent_wf {s : State} (h : s.mem.wf = true) (fn : Nat) (new : CtxSt) (left : Nat) :
    (migrEvent s fn new left).mem.wf = true := by
  unfold migrEvent
  refine foldl_wf (fun s e h => ?_) ?_
  · exact postEvent_wf h ..
  · exact h

@[simp] theorem sendParts_mem (s : State) (fn dev tfn : Nat) (va : W64) (mid last : Byte) (l : List Byte) :
    (sendParts s fn dev tfn va mid last l).mem = s.mem := by
  unfold sendParts
  dsimp only
  refine foldl_mem fun s e => ?_
  rfl

/-! ### MIGRATE_OUT (R352, R353) -/

@[simp] theorem askTarget_mem (s : State) (fn : Nat) (dev : BitVec 15) (tfn : Nat) :
    (askTarget s fn dev tfn).mem = s.mem :=
  (State.send_mem ..).trans (foldl_mem fun _ _ => rfl)

theorem quiesceFn_wf {s : State} (h : s.mem.wf = true) (fn : Nat) : (quiesceFn s fn).mem.wf = true := by
  unfold quiesceFn
  dsimp only
  rw [drainConns_mem]
  refine foldl_wf (fun s e h => ?_) ?_
  · split
    · simp [h, State.setCtxSt_wf, reportOrphans_wf]
    · simp [h, departBegin_wf]
  · exact h

theorem carriedAreas_memOk {s : State} (h : s.mem.wf = true) (fn : Nat) (l : List (W64 × Nat)) (acc : List Byte) :
    MemOk (carriedAreas fn l s acc).state? := by
  induction l generalizing s acc with
  | nil => exact .some h
  | cons e l ih =>
    unfold carriedAreas
    have w := cmdRead_memOk h fn e.1 e.2
    split
    · rename_i e
      exact .some (w.of_eq e)
    · exact .some h
    · rename_i e
      exact ih (w.of_eq e) _

theorem carriedCtxs_memOk {s : State} (h : s.mem.wf = true) (fn : Nat) (l : List (Nat × Ctx)) (acc : List Byte) :
    MemOk (carriedCtxs fn l s acc).state? := by
  induction l generalizing s acc with
  | nil => exact .some h
  | cons e l ih =>
    exact (carriedAreas_memOk h ..).andThen fun _ _ h => (readImages_memOk h ..).andThen fun _ _ h => ih h _

theorem sendState_wf {s : State} (h : s.mem.wf = true) (fn : Nat) (dev : BitVec 15) (tfn : Nat) :
    (sendState s fn dev tfn).mem.wf = true := by
  unfold sendState
  have w := carriedCtxs_memOk h fn (fnCtxs s fn) []
  split
  · rename_i e
    exact w.of_eq e
  · rename_i t _ _ e
    have ht : t.mem.wf = true := w.of_eq e
    exact foldl_wf (fun _ _ h => raiseHalt_wf h ..) (by simp [ht])
  · rename_i t _ e
    have ht : t.mem.wf = true := w.of_eq e
    exact migrEvent_wf (foldl_wf (fun _ _ h => by simp [h]) (by simp [ht])) ..

theorem quiesceStep_wf {s : State} (h : s.mem.wf = true) (fn : Nat) : (quiesceStep s fn).mem.wf = true := by
  unfold quiesceStep
  dsimp only
  split
  · exact h
  · split
    · refine foldl_wf (fun s e h => ?_) ?_
      · split
        · exact h
        · simp [h, departStep_wf, ite_wf]
      · exact h
    · split
      · refine sendState_wf ?_ ..
        refine foldl_wf (fun s e h => ?_) ?_
        · split
          · exact h
          · simp [h, departStep_wf, ite_wf]
        · exact h
      · refine foldl_wf (fun s e h => ?_) ?_
        · split
          · exact h
          · simp [h, departStep_wf, ite_wf]
        · exact h

theorem execMigrateOut_memOk {s : State} (h : s.mem.wf = true) (ctx : Nat) :
    MemOk (outState? (execMigrateOut ctx s)) := by
  unfold execMigrateOut
  refine .some ?_
  dsimp only
  split
  · exact quiesceStep_wf h ..
  · simp [h, ite_wf]

theorem execMigrationTargetTimeout_memOk {s : State} (h : s.mem.wf = true) (fn : Nat) :
    MemOk (outState? (execMigrationTargetTimeout fn s)) := by
  unfold execMigrationTargetTimeout
  refine .some ?_
  dsimp only
  split
  · exact h
  · dsimp only
    refine foldl_wf (fun s e h => ?_) ?_
    · simp [h]
    · exact h

/-! ### Pages (R353-R355) -/

@[simp] theorem bounceLocks_mem (s : State) (fn : Nat) (va e : W64) (dev : BitVec 15) (tfn : Nat) :
    (bounceLocks s fn va e dev tfn).mem = s.mem := by
  unfold bounceLocks
  dsimp only
  refine foldl_mem fun s e => ?_
  rfl

theorem returnHanded_wf {s : State} (h : s.mem.wf = true) (fn : Nat) : (returnHanded s fn).mem.wf = true := by
  unfold returnHanded
  dsimp only
  refine foldl_wf (fun s e h => ?_) ?_
  · simp [h, giveBack_wf, ite_wf]
  · exact h

theorem finishLeaving_wf {s : State} (h : s.mem.wf = true) (fn : Nat) (dev : BitVec 15) (tfn : Nat) :
    (finishLeaving s fn dev tfn).mem.wf = true := by
  unfold finishLeaving
  simp [Memory.wf_iff, h, returnHanded_wf, foldl_wf]

theorem sendPage_wf {s : State} (h : s.mem.wf = true) (fn : Nat) (va : W64) (pa : Nat) (e : W64) (dev : BitVec 15)
    (tfn : Nat) : (sendPage s fn va pa e dev tfn).mem.wf = true := by
  unfold sendPage
  dsimp only
  rw [purgePage_mem]
  dsimp only
  split
  · rw [counterDrop_mem]
    split
    · simp [h, State.wf_paStore]
    · split
      · refine State.wf_paStore ?_ ..
        rw [bounceLocks_mem]
        rw [State.send_mem]
        refine foldl_wf (fun s e h => ?_) ?_
        · simp [h]
        · exact h
      · refine State.wf_paStore ?_ ..
        rw [bounceLocks_mem]
        rw [State.send_mem]
        refine foldl_wf (fun s e h => ?_) ?_
        · simp [h]
        · exact h
  · split
    · simp [h, State.wf_paStore]
    · split
      · refine State.wf_paStore ?_ ..
        rw [bounceLocks_mem]
        rw [State.send_mem]
        refine foldl_wf (fun s e h => ?_) ?_
        · simp [h]
        · exact h
      · refine State.wf_paStore ?_ ..
        rw [bounceLocks_mem]
        rw [State.send_mem]
        refine foldl_wf (fun s e h => ?_) ?_
        · simp [h]
        · exact h

theorem postLast_wf {s : State} (h : s.mem.wf = true) (fn : Nat) : (postLast s fn).mem.wf = true := by
  unfold postLast
  refine foldl_wf (fun s e h => ?_) ?_
  · simp [h]
  · exact migrEvent_wf h ..

theorem handPage_wf {s : State} (h : s.mem.wf = true) (fn : Nat) (va : W64) (pa : Nat) (e : W64) (dev : BitVec 15)
    (tfn : Nat) : (handPage s fn va pa e dev tfn).mem.wf = true := by
  unfold handPage
  dsimp only
  split
  · exact finishLeaving_wf (sendPage_wf h ..) ..
  · exact sendPage_wf h ..

theorem execPageHandover_memOk {s : State} (h : s.mem.wf = true) (fn : Nat) (va : BitVec 64) :
    MemOk (outState? (execPageHandover fn va s)) := by
  unfold execPageHandover
  refine .some ?_
  split
  · exact h
  · split
    · dsimp only
      split
      · exact h
      · split
        · exact postLast_wf h ..
        · simp [h, handPage_wf, ite_wf]
    · simp [h, finishLeaving_wf, ite_wf]
    · exact h

theorem tokenFrame_wf {s : State} (h : s.mem.wf = true) (fn st : Nat) : (tokenFrame s fn st).1.mem.wf = true := by
  unfold tokenFrame
  repeat' split
  all_goals simp [h, ringTake_wf]

@[simp] theorem moveCode_mem (s : State) (fn : Nat) (va f : W64) : (moveCode s fn va f).mem = s.mem := by
  unfold moveCode
  refine foldl_mem fun s e => ?_
  refine foldl_mem fun s e => ?_
  rfl

theorem landPage_wf {s : State} (h : s.mem.wf = true) (fn : Nat) (va : W64) (pa : Nat) (e : W64) (tok : OwnerToken)
    (st : Nat) (f : W64) : (landPage s fn va pa e tok st f).mem.wf = true := by
  unfold landPage
  split
  · split
    · split
      · dsimp only
        rw [withDot_mem]
        refine foldl_wf (fun s e h => ?_) ?_
        · simp [h]
        · rw [moveCode_mem]
          rw [purgePage_mem]
          rw [counterTake_mem]
          exact State.wf_paStore (by simp [h, zeroFill_wf, Memory.wf_storeList]) ..
      · dsimp only
        rw [moveCode_mem]
        rw [purgePage_mem]
        rw [counterTake_mem]
        exact State.wf_paStore (by simp [h, zeroFill_wf, Memory.wf_storeList]) ..
    · split
      · dsimp only
        rw [withDot_mem]
        refine foldl_wf (fun s e h => ?_) ?_
        · simp [h]
        · rw [moveCode_mem]
          rw [purgePage_mem]
          exact ownRows_wf (State.wf_paStore (by simp [h, zeroFill_wf, Memory.wf_storeList]) ..) ..
      · dsimp only
        rw [moveCode_mem]
        rw [purgePage_mem]
        exact ownRows_wf (State.wf_paStore (by simp [h, zeroFill_wf, Memory.wf_storeList]) ..) ..
  · split
    · split
      · dsimp only
        rw [withDot_mem]
        refine foldl_wf (fun s e h => ?_) ?_
        · simp [h]
        · rw [moveCode_mem]
          rw [purgePage_mem]
          rw [counterTake_mem]
          exact State.wf_paStore (by simp [h, zeroFill_wf, Memory.wf_storeList]) ..
      · dsimp only
        rw [moveCode_mem]
        rw [purgePage_mem]
        rw [counterTake_mem]
        exact State.wf_paStore (by simp [h, zeroFill_wf, Memory.wf_storeList]) ..
    · split
      · dsimp only
        rw [withDot_mem]
        refine foldl_wf (fun s e h => ?_) ?_
        · simp [h]
        · rw [moveCode_mem]
          rw [purgePage_mem]
          exact State.wf_paStore (by simp [h, zeroFill_wf, Memory.wf_storeList]) ..
      · dsimp only
        rw [moveCode_mem]
        rw [purgePage_mem]
        exact State.wf_paStore (by simp [h, zeroFill_wf, Memory.wf_storeList]) ..

theorem execOwnerTokenArrival_memOk {s : State} (h : s.mem.wf = true) (fn : Nat) (va : BitVec 64)
    (tok : OwnerToken) : MemOk (outState? (execOwnerTokenArrival fn va tok s)) := by
  unfold execOwnerTokenArrival
  refine .some ?_
  split
  · exact h
  · split
    · exact h
    · split
      · simp [h, State.wf_paStore]
      · split
        · simp [h, ite_wf]
        · split
          · rename_i t1 _ _ hw1
            have w1 : t1.mem.wf = true := fst_wf (tokenFrame_wf h ..) hw1
            simp [w1, landPage_wf]
          · rename_i t1 hw1
            have w1 : t1.mem.wf = true := fst_wf (tokenFrame_wf h ..) hw1
            simp [w1, ite_wf]

/-! ### MIGRATE_IN (R341, R342, R352) -/

theorem execMigrateIn_memOk {s : State} (h : s.mem.wf = true) (ctx : Nat) :
    MemOk (outState? (execMigrateIn ctx s)) := by
  unfold execMigrateIn
  refine .some ?_
  split
  · exact h
  · split
    · simp [h]
    · dsimp only
      split
      · simp [h]
      · split
        · rename_i t1 hw1
          have w1 : t1.mem.wf = true := (cmdRead_memOk h ..).of_eq hw1
          exact w1
        · simp [h]
        · rename_i t1 _ hw1
          have w1 : t1.mem.wf = true := (cmdRead_memOk h ..).of_eq hw1
          split
          · simp [w1]
          · simp [w1, makeCtx_wf, ite_wf]

theorem imageLanded_wf {s : State} (h : s.mem.wf = true) (x : Nat) : (imageLanded s x).mem.wf = true := by
  unfold imageLanded
  extract_lets heavy r
  have w {s : State} (h : s.mem.wf = true) (v : SavedCore) : (heavy s v).1.mem.wf = true := by
    simp [heavy, h, State.devWrite_wf]
  have hr : r.1.mem.wf = true := foldl_fst_wf (fun p v hp => w hp v) h
  exact saveLight_wf (by simp [hr]) ..

theorem installCtx_wf {s : State} (h : s.mem.wf = true) (tfn : Nat) (e : MovedCtx) :
    (installCtx s tfn e).mem.wf = true := by
  unfold installCtx
  extract_lets x fresh c m s₀ s₁ s₂ s₃ s₄ s₅
  refine ite_wf h ?_
  have h₀ : s₀.mem.wf = true := by simp [s₀, m, h]
  have h₁ : s₁.mem.wf = true := State.devWrite_wf h₀ ..
  have h₂ : s₂.mem.wf = true := State.devWrite_wf h₁ ..
  have h₃ : s₃.mem.wf = true := State.devWrite_wf h₂ ..
  have h₄ : s₄.mem.wf = true := State.devWrite_wf h₃ ..
  have h₅ : s₅.mem.wf = true := imageLanded_wf h₄ x
  clear_value s₅
  split
  · rename_i e
    exact restoreCtx_wf ((rebindAll_memOk h₅ x).of_some e) ..
  · exact h₅

theorem installAll_wf {s : State} (h : s.mem.wf = true) (tfn : Nat) : (installAll s tfn).mem.wf = true := by
  unfold installAll
  dsimp only
  split
  · exact h
  · refine foldl_wf (fun s e h => ?_) ?_
    · simp [h, ite_wf]
    · refine foldl_wf (fun s e h => ?_) ?_
      · exact installCtx_wf h ..
      · exact h

@[simp] theorem xferAdd_mem (s : State) (key : Nat) (l : List Byte) : (xferAdd s key l).mem = s.mem := rfl

/-! ### Messages and ends -/

theorem execMsgContextTransfer_memOk {s : State} (h : s.mem.wf = true) (m : Msg) :
    MemOk (outState? (execMsgContextTransfer m s)) := by
  unfold execMsgContextTransfer
  refine .some ?_
  split
  · simp [h, ite_wf]
  · simp [h, quiesceFn_wf, ite_wf]
  · simp [h]
  · simp [h, installAll_wf]
  · simp [h]
  · dsimp only
    split
    · simp [h, ite_wf]
    · simp [h]
  · simp [h, ite_wf]
  · simp [h]
  · simp [h]
  · dsimp only
    refine foldl_wf (fun s e h => ?_) ?_
    · simp [h, ite_wf]
    · exact h
  · exact h

theorem restoreHanded_wf {s : State} (h : s.mem.wf = true) (fn : Nat) : (restoreHanded s fn).mem.wf = true := by
  unfold restoreHanded
  refine foldl_wf (fun s e h => ?_) ?_
  · simp [h, State.wf_paStore, ite_wf]
  · exact h

theorem execMigrationAbort_memOk {s : State} (h : s.mem.wf = true) (fn : Nat) :
    MemOk (outState? (execMigrationAbort fn s)) := by
  unfold execMigrationAbort
  refine .some ?_
  dsimp only
  split
  · exact h
  · simp [Memory.wf_iff, h, restoreHanded_wf, foldl_wf]

theorem execTombstoneLapse_memOk {s : State} (h : s.mem.wf = true) (fn : Nat) :
    MemOk (outState? (execTombstoneLapse fn s)) :=
  .some h

/-! ### Resets, boot and self-test (R414, R415, R418, R419, R422) -/

theorem resetDevice_wf {s : State} (h : s.mem.wf = true) : (resetDevice s).mem.wf = true := by
  unfold resetDevice
  simp [h, poolOnly_wf]

theorem execColdReset_memOk {s : State} (h : s.mem.wf = true) (stages : List BootStage) :
    MemOk (outState? (execColdReset stages s)) := by
  unfold execColdReset
  refine .some ?_
  split
  · simp [h, resetDevice_wf]
  · simp [h, resetDevice_wf]

theorem execWarmReset_memOk {s : State} (h : s.mem.wf = true) : MemOk (outState? (execWarmReset s)) := by
  unfold execWarmReset
  refine .some ?_
  split
  · exact h
  · dsimp only
    rw [dcPut_mem]
    dsimp only
    refine resetDevice_wf ?_
    refine foldl_wf (fun s e h => ?_) ?_
    · exact State.devWrite_wf h ..
    · refine foldl_wf (fun s e h => ?_) ?_
      · simp [h, destroyBegin_wf, ite_wf]
      · exact h

@[simp] theorem dcPut64_mem (s : State) (a : Nat) (v : W64) : (dcPut64 s a v).mem = s.mem := rfl

@[simp] theorem retire_mem (s : State) (r : SelfTest) : (retire s r).mem = s.mem := by
  unfold retire
  extract_lets s₁ s₂ s₃ s₄ s₅
  have h₁ : s₁.mem = s.mem := foldl_mem fun _ _ => by simp
  have h₂ : s₂.mem = s₁.mem := foldl_mem fun s e => by split <;> simp
  have h₃ : s₃.mem = s₂.mem := foldl_mem fun s e => by split <;> simp
  have h₄ : s₄.mem = s₃.mem := foldl_mem fun s k => foldl_mem fun _ _ => by simp
  have h₅ : s₅.mem = s₄.mem := foldl_mem fun _ _ => by simp
  have h₆ : (r.badEngine.foldl (fun s e => if e < 192 then s.modE e fun g => { g with st := .retired } else s)
    s₅).mem = s₅.mem :=
    foldl_mem fun s e => by split <;> simp
  rw [h₆, h₅, h₄, h₃, h₂, h₁]

theorem execSelftestEnd_memOk {s : State} (h : s.mem.wf = true) (r : SelfTest) :
    MemOk (outState? (execSelftestEnd r s)) := by
  unfold execSelftestEnd
  refine .some ?_
  repeat' split
  all_goals simp [h]

@[simp] theorem freezeDev_mem (s : State) : (freezeDev s).mem = s.mem := rfl

theorem execFreeze_memOk {s : State} (h : s.mem.wf = true) : MemOk (outState? (execFreeze s)) := .some h

theorem execFreezeN_memOk {s : State} (h : s.mem.wf = true) : MemOk (outState? (execFreezeN s)) := .some h

@[simp] theorem throttle_mem (s : State) : (throttle s).mem = s.mem := by
  unfold throttle
  extract_lets t
  split
  · rfl
  · exact setBudget_mem ..

theorem execPowerControl_memOk {s : State} (h : s.mem.wf = true) (watts : BitVec 12) :
    MemOk (outState? (execPowerControl watts s)) := by
  unfold execPowerControl
  refine .some ?_
  dsimp only
  repeat' split
  all_goals simp [h]

theorem execTemperatureLimit_memOk {s : State} (h : s.mem.wf = true) (degc : BitVec 8) :
    MemOk (outState? (execTemperatureLimit degc s)) :=
  .some (by simp [h, poolOnly_wf, ite_wf])

/-! ### Keys, functions, ports (R423, R426, R428) -/

theorem loseKey_wf {s : State} (h : s.mem.wf = true) (key : Nat) : (loseKey s key).mem.wf = true := by
  unfold loseKey
  simp [h, Memory.wf_loseKeys]

theorem execPartitionEnable_memOk {s : State} (h : s.mem.wf = true) (part : Nat) :
    MemOk (outState? (execPartitionEnable part s)) :=
  .some (loseKey_wf h ..)

theorem execVfEnable_memOk {s : State} (h : s.mem.wf = true) (count : Nat) : MemOk (outState? (execVfEnable count s)) :=
  .some (by simp [h, ite_wf])

theorem execCxlPortFailure_memOk {s : State} (h : s.mem.wf = true) (port : Nat) :
    MemOk (outState? (execCxlPortFailure port s)) :=
  .some (by simp [h, ite_wf])

/-! ### The mailbox (R424, R425) -/

@[simp] theorem mbEnd_mem (s : State) (result : Byte) (out : List Byte) : (mbEnd s result out).mem = s.mem := rfl

theorem mbRefused_memOk {s : State} (h : s.mem.wf = true) (ok : Bool) {f : State → State} (hf : (f s).mem.wf = true) :
    MemOk (outState? (mbRefused s ok f)) := .some (ite_wf hf h)

theorem execDcread_memOk {s : State} (h : s.mem.wf = true) : MemOk (outState? (execDcread s)) := by
  refine mbRefused_memOk h _ ?_
  split <;> exact h

theorem execDcwrite_memOk {s : State} (h : s.mem.wf = true) : MemOk (outState? (execDcwrite s)) := by
  refine mbRefused_memOk h _ ?_
  have w := regWrite_memOk h none (mbNum s 0 4) (BitVec.ofNat 32 (mbNum s 4 4))
  split
  · rename_i t e
    have ht : t.mem.wf = true := w.of_some e
    simp [ht]
  · exact h

theorem execIdcert_memOk {s : State} (h : s.mem.wf = true) : MemOk (outState? (execIdcert s)) := mbRefused_memOk h _
    (ite_wf h h)

theorem execQuote_memOk {s : State} (h : s.mem.wf = true) : MemOk (outState? (execQuote s)) := mbRefused_memOk h _
    (by simp [h])

theorem execFwstage_memOk {s : State} (h : s.mem.wf = true) : MemOk (outState? (execFwstage s)) := mbRefused_memOk h
    _ (by simp [h])

theorem execScanrd_memOk {s : State} (h : s.mem.wf = true) : MemOk (outState? (execScanrd s)) := mbRefused_memOk h _
    (by simp [h])

theorem execRegisterWrite_memOk {s : State} (h : s.mem.wf = true) (addr val : BitVec 32) :
    MemOk (outState? (execRegisterWrite addr val s)) := by
  unfold execRegisterWrite
  refine .some ?_
  split
  · simp [h]
  · refine ite_wf h ?_
    cases e : regWrite s none addr.toNat val with
    | none => exact h
    | some t => exact (regWrite_memOk h ..).of_some e

/-! ### The scan -/

@[simp] theorem scanEnd_mem (s : State) (result : Byte) (check off : Nat) : (scanEnd s result check off).mem =
    s.mem := rfl

/-- A command of the scanner that waits or ends at a page writes no memory (R58). -/
theorem scanPages_mem {s t : State} {fn : Nat} {code : Bool} {va : W64} {pages : List W64}
    (e : scanPages s fn code va pages = .error t) :
    t.mem = s.mem := by
  unfold scanPages at e
  split at e
  · split at e
    · cases e
      simp
    · cases e
      simp
  · split at e
    · cases e
      simp
    · cases e

theorem scanEnter_wf {s : State} (h : s.mem.wf = true) (fn i : Nat) (a : Admission) :
    (scanEnter s fn i a).mem.wf = true := by
  unfold scanEnter
  simp [h, State.wf_paStore]

theorem execScanAdmit_memOk {s : State} (h : s.mem.wf = true) (fn : Nat) : MemOk (outState? (execScanAdmit fn s)) := by
  unfold execScanAdmit
  refine .some (ite_wf h ?_)
  dsimp only
  split
  · exact ite_wf (by simp [h]) h
  · split
    · rename_i e
      rw [scanPages_mem e]
      exact h
    · split
      · exact h
      · simp [h]
      · split
        · simp [h]
        · split
          · rename_i e
            rw [scanPages_mem e]
            exact h
          · split
            · exact h
            · simp [h]
            · refine ite_wf (by simp [h]) ?_
              split
              · simp [h]
              · refine ite_wf (by simp [h]) ?_
                split
                · simp [h]
                · simp [h, scanEnter_wf]

theorem scanClear_wf {s : State} (h : s.mem.wf = true) (fn i : Nat) : (scanClear s fn i).mem.wf = true := by
  unfold scanClear
  simp [h, State.wf_paStore, ite_wf]

theorem execWithdraw_memOk {s : State} (h : s.mem.wf = true) (fn : Nat) : MemOk (outState? (execWithdraw fn s)) := by
  unfold execWithdraw
  refine .some ?_
  repeat' split
  all_goals simp [h, scanClear_wf]

theorem execWithdrawAll_memOk {s : State} (h : s.mem.wf = true) (fn : Nat) :
    MemOk (outState? (execWithdrawAll fn s)) := by
  unfold execWithdrawAll
  refine .some ?_
  split
  · exact h
  · dsimp only
    rw [scanEnd_mem]
    dsimp only
    refine foldl_wf (fun s e h => ?_) ?_
    · exact scanClear_wf h ..
    · exact h

theorem exec_memOk {s : State} (h : s.mem.wf = true) (i : Instr) : MemOk (outState? (exec i s)) := by
  unfold exec
  split
  · exact execNop_memOk h ..
  · exact execAlign_memOk h ..
  · exact execStop_memOk h ..
  · exact execLoop_memOk h ..
  · exact execEndl_memOk h ..
  · exact execBrk_memOk h ..
  · exact execLdlit_memOk h ..
  · exact execPool_memOk h ..
  · exact execBr_memOk h ..
  · exact execAdd_memOk h ..
  · exact execSub_memOk h ..
  · exact execMul_memOk h ..
  · exact execMulh_memOk h ..
  · exact execDiv_memOk h ..
  · exact execRem_memOk h ..
  · exact execMad_memOk h ..
  · exact execMin_memOk h ..
  · exact execMax_memOk h ..
  · exact execAnd_memOk h ..
  · exact execOr_memOk h ..
  · exact execXor_memOk h ..
  · exact execAndn_memOk h ..
  · exact execShl_memOk h ..
  · exact execShr_memOk h ..
  · exact execSar_memOk h ..
  · exact execRot_memOk h ..
  · exact execClz_memOk h ..
  · exact execCtz_memOk h ..
  · exact execPopc_memOk h ..
  · exact execBfx_memOk h ..
  · exact execBfi_memOk h ..
  · exact execExt_memOk h ..
  · exact execSel_memOk h ..
  · exact execCmp_memOk h ..
  · exact execMovi_memOk h ..
  · exact execMovh_memOk h ..
  · exact execMov_memOk h ..
  · exact execKeep_memOk h ..
  · exact execPand_memOk h ..
  · exact execPor_memOk h ..
  · exact execPxor_memOk h ..
  · exact execPnot_memOk h ..
  · exact execFadd_memOk h ..
  · exact execFsub_memOk h ..
  · exact execFmul_memOk h ..
  · exact execFfma_memOk h ..
  · exact execFdiv_memOk h ..
  · exact execFsqrt_memOk h ..
  · exact execFmin_memOk h ..
  · exact execFmax_memOk h ..
  · exact execFcmp_memOk h ..
  · exact execFcvt_memOk h ..
  · exact execFclass_memOk h ..
  · exact execCall_memOk h ..
  · exact execRet_memOk h ..
  · exact execJmp_memOk h ..
  · exact execSwt_memOk h ..
  · exact execMvcr_memOk h ..
  · exact execMvrc_memOk h ..
  · exact execClk_memOk h ..
  · exact execTrap_memOk h ..
  · exact execEvpost_memOk h ..
  · exact execSysr_memOk h ..
  · exact execSysw_memOk h ..
  · exact execOwait_memOk h ..
  · exact execOtest_memOk h ..
  · exact execOjoin_memOk h ..
  · exact execOcancel_memOk h ..
  · exact execOdetach_memOk h ..
  · exact execOadopt_memOk h ..
  · exact execOrelease_memOk h ..
  · exact execOprio_memOk h ..
  · exact execOfault_memOk h ..
  · exact execLease_memOk h ..
  · exact execUnlease_memOk h ..
  · exact execLquery_memOk h ..
  · exact execColrs_memOk h ..
  · exact execColag_memOk h ..
  · exact execColar_memOk h ..
  · exact execCola2a_memOk h ..
  · exact execColbc_memOk h ..
  · exact execColcmb_memOk h ..
  · exact execRtopk_memOk h ..
  · exact execRplan_memOk h ..
  · exact execSortkv_memOk h ..
  · exact execGathr_memOk h ..
  · exact execScatr_memOk h ..
  · exact execSfnap_memOk h ..
  · exact execCdpack_memOk h ..
  · exact execCdunpk_memOk h ..
  · exact execQlaunch_memOk h ..
  · exact execQsignal_memOk h ..
  · exact execGid_memOk h ..
  · exact execGrank_memOk h ..
  · exact execGsize_memOk h ..
  · exact execGpeer_memOk h ..
  · exact execGshare_memOk h ..
  · exact execGclaim_memOk h ..
  · exact execBarinit_memOk h ..
  · exact execBarrive_memOk h ..
  · exact execBarwait_memOk h ..
  · exact execBartest_memOk h ..
  · exact execBarleave_memOk h ..
  · exact execGlzs_memOk h ..
  · exact execGlza_memOk h ..
  · exact execGlzq_memOk h ..
  · exact execVadd_memOk h ..
  · exact execVsub_memOk h ..
  · exact execVmul_memOk h ..
  · exact execVfma_memOk h ..
  · exact execVmin_memOk h ..
  · exact execVmax_memOk h ..
  · exact execVabs_memOk h ..
  · exact execVneg_memOk h ..
  · exact execVdiv_memOk h ..
  · exact execVsqrt_memOk h ..
  · exact execVrcp_memOk h ..
  · exact execVrsqrt_memOk h ..
  · exact execVexp2_memOk h ..
  · exact execVlog2_memOk h ..
  · exact execVand_memOk h ..
  · exact execVor_memOk h ..
  · exact execVxor_memOk h ..
  · exact execVshl_memOk h ..
  · exact execVshr_memOk h ..
  · exact execVsar_memOk h ..
  · exact execVcmp_memOk h ..
  · exact execVsel_memOk h ..
  · exact execVwadd_memOk h ..
  · exact execVwmul_memOk h ..
  · exact execVscan_memOk h ..
  · exact execVred_memOk h ..
  · exact execVperm_memOk h ..
  · exact execVbcast_memOk h ..
  · exact execVrot_memOk h ..
  · exact execVcomp_memOk h ..
  · exact execVcvt_memOk h ..
  · exact execVmxq_memOk h ..
  · exact execVmxd_memOk h ..
  · exact execVsatr_memOk h ..
  · exact execVseed_memOk h ..
  · exact execVrand_memOk h ..
  · exact execVpop_memOk h ..
  · exact execVpush_memOk h ..
  · exact execVtrd_memOk h ..
  · exact execVtwr_memOk h ..
  · exact execVmov_memOk h ..
  · exact execVext_memOk h ..
  · exact execVins_memOk h ..
  · exact execVpand_memOk h ..
  · exact execVpor_memOk h ..
  · exact execVpnot_memOk h ..
  · exact execVpcnt_memOk h ..
  · exact execAAdd_memOk h ..
  · exact execASub_memOk h ..
  · exact execAShl_memOk h ..
  · exact execAMul_memOk h ..
  · exact execAMovi_memOk h ..
  · exact execAMov_memOk h ..
  · exact execBcmp_memOk h ..
  · exact execLd_memOk h ..
  · exact execLdq_memOk h ..
  · exact execLdx_memOk h ..
  · exact execSt_memOk h ..
  · exact execStq_memOk h ..
  · exact execStx_memOk h ..
  · exact execPf_memOk h ..
  · exact execAmo_memOk h ..
  · exact execAmoswp_memOk h ..
  · exact execAmocas_memOk h ..
  · exact execFence_memOk h ..
  · exact execAcq_memOk h ..
  · exact execRel_memOk h ..
  · exact execBind_memOk h ..
  · exact execUnbind_memOk h ..
  · exact execCpy_memOk h ..
  · exact execCstage_memOk h ..
  · exact execLfe_memOk h ..
  · exact execOqst_memOk h ..
  · exact execBdot_memOk h ..
  · exact execBdmode_memOk h ..
  · exact execPmig_memOk h ..
  · exact execTzero_memOk h ..
  · exact execTld_memOk h ..
  · exact execTst_memOk h ..
  · exact execTmov_memOk h ..
  · exact execTfill_memOk h ..
  · exact execTcvt_memOk h ..
  · exact execTadd_memOk h ..
  · exact execTmul_memOk h ..
  · exact execTscale_memOk h ..
  · exact execTrmax_memOk h ..
  · exact execTrsum_memOk h ..
  · exact execRmset_memOk h ..
  · exact execCmset_memOk h ..
  · exact execWlease_memOk h ..
  · exact execWload_memOk h ..
  · exact execWdot_memOk h ..
  · exact execWtdot_memOk h ..
  · exact execWouter_memOk h ..
  · exact execWdrain_memOk h ..
  · exact execWclr_memOk h ..
  · exact execWrel_memOk h ..
  · exact execWpair_memOk h ..
  · exact execResultDelivery_memOk h ..
  · exact execTileWriteDelivery_memOk h ..
  · exact execHaltFinish_memOk h ..
  · exact execDebugHold_memOk h ..
  · exact execDebugStep_memOk h ..
  · exact execDebugStepA_memOk h ..
  · exact execOpdbgrel_memOk h ..
  · exact execScanAdmit_memOk h ..
  · exact execWithdraw_memOk h ..
  · exact execWithdrawAll_memOk h ..
  · exact execResidencyDone_memOk h ..
  · exact execNodeStart_memOk h ..
  · exact execNodeEnd_memOk h ..
  · exact execDispatcherRound_memOk h ..
  · exact execNodeRelease_memOk h ..
  · exact execNodeFinish_memOk h ..
  · exact execWaitNodeSatisfied_memOk h ..
  · exact execQtailWrite_memOk h ..
  · exact execQueueEnableWrite_memOk h ..
  · exact execQueueSuspend_memOk h ..
  · exact execQueueResume_memOk h ..
  · exact execQueueDrain_memOk h ..
  · exact execQueueDead_memOk h ..
  · exact execLaunchAppend_memOk h ..
  · exact execHomeRequestArrival_memOk h ..
  · exact execBarrierMulticast_memOk h ..
  · exact execPredecessorFinished_memOk h ..
  · exact execOperationStart_memOk h ..
  · exact execOperationComplete_memOk h ..
  · exact execOperationFailure_memOk h ..
  · exact execPriorityAging_memOk h ..
  · exact execArrayRunStart_memOk h ..
  · exact execArrayRunLimit_memOk h ..
  · exact execArrayCommandStart_memOk h ..
  · exact execArrayCommandComplete_memOk h ..
  · exact execDrainRowAccepted_memOk h ..
  · exact execPairTimeout_memOk h ..
  · exact execLeaseQueueEntry_memOk h ..
  · exact execLeaseGrant_memOk h ..
  · exact execWakeDone_memOk h ..
  · exact execQuantumEnd_memOk h ..
  · exact execEngineYield_memOk h ..
  · exact execForcedEviction_memOk h ..
  · exact execScrubDone_memOk h ..
  · exact execDrowsyTimeout_memOk h ..
  · exact execSleepTimeout_memOk h ..
  · exact execEngineCommandStart_memOk h ..
  · exact execEngineUnitDone_memOk h ..
  · exact execCopyLineDelivery_memOk h ..
  · exact execCopyNodeRun_memOk h ..
  · exact execSignalNodeRun_memOk h ..
  · exact execReplay_memOk h ..
  · exact execWalkReturn_memOk h ..
  · exact execPageTouch_memOk h ..
  · exact execPageMoveDone_memOk h ..
  · exact execDecayPeriod_memOk h ..
  · exact execDotModeChangeDone_memOk h ..
  · exact execBankDotRow_memOk h ..
  · exact execDroopWindow_memOk h ..
  · exact execTlbiPage_memOk h ..
  · exact execTlbiFunction_memOk h ..
  · exact execTlbiAll_memOk h ..
  · exact execRowval_memOk h ..
  · exact execCtxCreate_memOk h ..
  · exact execSwitchOut_memOk h ..
  · exact execPreemptWaitExpiry_memOk h ..
  · exact execDeadlineExpiry_memOk h ..
  · exact execSwitchIn_memOk h ..
  · exact execCtxRecover_memOk h ..
  · exact execCtxDestroy_memOk h ..
  · exact execTeardownDone_memOk h ..
  · exact execMigrateOut_memOk h ..
  · exact execMigrateIn_memOk h ..
  · exact execMigrationTargetTimeout_memOk h ..
  · exact execPageHandover_memOk h ..
  · exact execOwnerTokenArrival_memOk h ..
  · exact execMigrationAbort_memOk h ..
  · exact execTombstoneLapse_memOk h ..
  · exact execFormationTimeout_memOk h ..
  · exact execSignalDetected_memOk h ..
  · exact execTrainingEnd_memOk h ..
  · exact execRetrainTrigger_memOk h ..
  · exact execRetrain_memOk h ..
  · exact execPortEnableWrite_memOk h ..
  · exact execFlitReceived_memOk h ..
  · exact execNakReceived_memOk h ..
  · exact execReplayTimeout_memOk h ..
  · exact execMsgLoad_memOk h ..
  · exact execMsgLoadReply_memOk h ..
  · exact execMsgStore_memOk h ..
  · exact execMsgStoreAck_memOk h ..
  · exact execMsgAtomic_memOk h ..
  · exact execMsgAtomicReply_memOk h ..
  · exact execMsgCollective_memOk h ..
  · exact execMsgBarrier_memOk h ..
  · exact execMsgConnectionControl_memOk h ..
  · exact execMsgShardDelivery_memOk h ..
  · exact execMsgMoved_memOk h ..
  · exact execMsgRefusal_memOk h ..
  · exact execMsgContextTransfer_memOk h ..
  · exact execMsgAbort_memOk h ..
  · exact execParkNotice_memOk h ..
  · exact execResumeNotice_memOk h ..
  · exact execConnopenTimeout_memOk h ..
  · exact execRetransmission_memOk h ..
  · exact execConnidleTimeout_memOk h ..
  · exact execConnbackoffExpiry_memOk h ..
  · exact execConnectionDrained_memOk h ..
  · exact execConnectionSpill_memOk h ..
  · exact execOsyncEdge_memOk h ..
  · exact execSlotStart_memOk h ..
  · exact execSlotCommit_memOk h ..
  · exact execRingHeatWrite_memOk h ..
  · exact execRingSettled_memOk h ..
  · exact execRingMapWrite_memOk h ..
  · exact execChunkApply_memOk h ..
  · exact execColdReset_memOk h ..
  · exact execWarmReset_memOk h ..
  · exact execSelftestEnd_memOk h ..
  · exact execFreeze_memOk h ..
  · exact execFreezeN_memOk h ..
  · exact execPowerControl_memOk h ..
  · exact execTemperatureLimit_memOk h ..
  · exact execPartitionEnable_memOk h ..
  · exact execVfEnable_memOk h ..
  · exact execCxlPortFailure_memOk h ..
  · exact execDcread_memOk h ..
  · exact execDcwrite_memOk h ..
  · exact execIdcert_memOk h ..
  · exact execQuote_memOk h ..
  · exact execFwstage_memOk h ..
  · exact execScanrd_memOk h ..
  · exact execRegisterWrite_memOk h ..
  · exact execRconsWrite_memOk h ..
  · exact execFetchMissArrival_memOk h ..

theorem runEv_memOk {s : State} (h : s.mem.wf = true) (e : Ev) : MemOk (outState? (runEv e s)) := by
  unfold runEv
  split
  · exact execResultDelivery_memOk h ..
  · exact execTileWriteDelivery_memOk h ..
  · exact execHaltFinish_memOk h ..
  · exact execDebugHold_memOk h ..
  · exact execDebugStep_memOk h ..
  · exact execDebugStepA_memOk h ..
  · exact execOpdbgrel_memOk h ..
  · exact execScanAdmit_memOk h ..
  · exact execWithdraw_memOk h ..
  · exact execWithdrawAll_memOk h ..
  · exact execResidencyDone_memOk h ..
  · exact execNodeStart_memOk h ..
  · exact execNodeEnd_memOk h ..
  · exact execDispatcherRound_memOk h ..
  · exact execNodeRelease_memOk h ..
  · exact execNodeFinish_memOk h ..
  · exact execWaitNodeSatisfied_memOk h ..
  · exact execQtailWrite_memOk h ..
  · exact execQueueEnableWrite_memOk h ..
  · exact execQueueSuspend_memOk h ..
  · exact execQueueResume_memOk h ..
  · exact execQueueDrain_memOk h ..
  · exact execQueueDead_memOk h ..
  · exact execLaunchAppend_memOk h ..
  · exact execHomeRequestArrival_memOk h ..
  · exact execBarrierMulticast_memOk h ..
  · exact execPredecessorFinished_memOk h ..
  · exact execOperationStart_memOk h ..
  · exact execOperationComplete_memOk h ..
  · exact execOperationFailure_memOk h ..
  · exact execPriorityAging_memOk h ..
  · exact execArrayRunStart_memOk h ..
  · exact execArrayRunLimit_memOk h ..
  · exact execArrayCommandStart_memOk h ..
  · exact execArrayCommandComplete_memOk h ..
  · exact execDrainRowAccepted_memOk h ..
  · exact execPairTimeout_memOk h ..
  · exact execLeaseQueueEntry_memOk h ..
  · exact execLeaseGrant_memOk h ..
  · exact execWakeDone_memOk h ..
  · exact execQuantumEnd_memOk h ..
  · exact execEngineYield_memOk h ..
  · exact execForcedEviction_memOk h ..
  · exact execScrubDone_memOk h ..
  · exact execDrowsyTimeout_memOk h ..
  · exact execSleepTimeout_memOk h ..
  · exact execEngineCommandStart_memOk h ..
  · exact execEngineUnitDone_memOk h ..
  · exact execCopyLineDelivery_memOk h ..
  · exact execCopyNodeRun_memOk h ..
  · exact execSignalNodeRun_memOk h ..
  · exact execReplay_memOk h ..
  · exact execWalkReturn_memOk h ..
  · exact execPageTouch_memOk h ..
  · exact execPageMoveDone_memOk h ..
  · exact execDecayPeriod_memOk h ..
  · exact execDotModeChangeDone_memOk h ..
  · exact execBankDotRow_memOk h ..
  · exact execDroopWindow_memOk h ..
  · exact execTlbiPage_memOk h ..
  · exact execTlbiFunction_memOk h ..
  · exact execTlbiAll_memOk h ..
  · exact execRowval_memOk h ..
  · exact execCtxCreate_memOk h ..
  · exact execSwitchOut_memOk h ..
  · exact execPreemptWaitExpiry_memOk h ..
  · exact execDeadlineExpiry_memOk h ..
  · exact execSwitchIn_memOk h ..
  · exact execCtxRecover_memOk h ..
  · exact execCtxDestroy_memOk h ..
  · exact execTeardownDone_memOk h ..
  · exact execMigrateOut_memOk h ..
  · exact execMigrateIn_memOk h ..
  · exact execMigrationTargetTimeout_memOk h ..
  · exact execPageHandover_memOk h ..
  · exact execOwnerTokenArrival_memOk h ..
  · exact execMigrationAbort_memOk h ..
  · exact execTombstoneLapse_memOk h ..
  · exact execFormationTimeout_memOk h ..
  · exact execSignalDetected_memOk h ..
  · exact execTrainingEnd_memOk h ..
  · exact execRetrainTrigger_memOk h ..
  · exact execRetrain_memOk h ..
  · exact execPortEnableWrite_memOk h ..
  · exact execFlitReceived_memOk h ..
  · exact execNakReceived_memOk h ..
  · exact execReplayTimeout_memOk h ..
  · exact execMsgLoad_memOk h ..
  · exact execMsgLoadReply_memOk h ..
  · exact execMsgStore_memOk h ..
  · exact execMsgStoreAck_memOk h ..
  · exact execMsgAtomic_memOk h ..
  · exact execMsgAtomicReply_memOk h ..
  · exact execMsgCollective_memOk h ..
  · exact execMsgBarrier_memOk h ..
  · exact execMsgConnectionControl_memOk h ..
  · exact execMsgShardDelivery_memOk h ..
  · exact execMsgMoved_memOk h ..
  · exact execMsgRefusal_memOk h ..
  · exact execMsgContextTransfer_memOk h ..
  · exact execMsgAbort_memOk h ..
  · exact execParkNotice_memOk h ..
  · exact execResumeNotice_memOk h ..
  · exact execConnopenTimeout_memOk h ..
  · exact execRetransmission_memOk h ..
  · exact execConnidleTimeout_memOk h ..
  · exact execConnbackoffExpiry_memOk h ..
  · exact execConnectionDrained_memOk h ..
  · exact execConnectionSpill_memOk h ..
  · exact execOsyncEdge_memOk h ..
  · exact execSlotStart_memOk h ..
  · exact execSlotCommit_memOk h ..
  · exact execRingHeatWrite_memOk h ..
  · exact execRingSettled_memOk h ..
  · exact execRingMapWrite_memOk h ..
  · exact execChunkApply_memOk h ..
  · exact execColdReset_memOk h ..
  · exact execWarmReset_memOk h ..
  · exact execSelftestEnd_memOk h ..
  · exact execFreeze_memOk h ..
  · exact execFreezeN_memOk h ..
  · exact execPowerControl_memOk h ..
  · exact execTemperatureLimit_memOk h ..
  · exact execPartitionEnable_memOk h ..
  · exact execVfEnable_memOk h ..
  · exact execCxlPortFailure_memOk h ..
  · exact execDcread_memOk h ..
  · exact execDcwrite_memOk h ..
  · exact execIdcert_memOk h ..
  · exact execQuote_memOk h ..
  · exact execFwstage_memOk h ..
  · exact execScanrd_memOk h ..
  · exact execRegisterWrite_memOk h ..
  · exact execRconsWrite_memOk h ..
  · exact execFetchMissArrival_memOk h ..

/-! ### Words -/

theorem execState_wf {s : State} (h : s.mem.wf = true) (i : Instr) : (execState i s).mem.wf = true := by
  unfold execState
  split
  · rename_i t1 hw1
    have w1 : t1.mem.wf = true := (exec_memOk h ..).of_eq hw1
    exact w1
  · exact h

theorem evState_wf {s : State} (h : s.mem.wf = true) (e : Ev) : (evState e s).mem.wf = true := by
  unfold evState
  split
  · rename_i t1 hw1
    have w1 : t1.mem.wf = true := (runEv_memOk h ..).of_eq hw1
    exact w1
  · exact h

@[simp] theorem freezeCore_mem (s : State) (k : Nat) : (freezeCore s k).mem = s.mem := rfl

@[simp] theorem blockA_mem (s : State) (k : Nat) : (blockA s k).mem = s.mem := rfl

theorem pickA_memOk {s : State} (h : s.mem.wf = true) (k : Nat) : MemOk (pickA s k).state? := by
  unfold pickA
  dsimp only
  split
  · exact .none
  · split
    · exact .some h
    · split
      · exact .some h
      · exact .some h

theorem pickAcc_memOk {s : State} (h : s.mem.wf = true) (k : Nat) : MemOk (pickAcc s k).state? := by
  unfold pickAcc
  split
  · refine .some ?_
    rename_i t1 hw1
    have w1 : t1.mem.wf = true := (advanceAcc_memOk h ..).of_some hw1
    exact w1
  · exact pickA_memOk h ..

@[simp] theorem drawn_mem (s : State) (e : Ev) : (drawn s e).mem = s.mem := by
  unfold drawn
  split <;> rfl

/-! ### The clock -/

theorem endSteps_wf {s : State} (h : s.mem.wf = true) (k : Nat) (ran busy : Bool) :
    (endSteps s k ran busy).mem.wf = true := by
  unfold endSteps
  dsimp only
  repeat' split
  all_goals simp [h, settleStepA_wf, stepDone_wf]

@[simp] theorem holdSwitch_mem (s : State) : (holdSwitch s).mem = s.mem := rfl

@[simp] theorem chargeParts_mem (s : State) : (chargeParts s).mem = s.mem := rfl

theorem tick_wf {s : State} (h : s.mem.wf = true) : (tick s).mem.wf = true := by
  unfold tick
  dsimp only
  split
  · split
    · rw [dcCount_mem]
      rw [chargeParts_mem]
      rw [holdSwitch_mem]
      refine foldl_wf (fun s e h => ?_) ?_
      · exact endSteps_wf h ..
      · exact h
    · rw [chargeParts_mem]
      rw [holdSwitch_mem]
      refine foldl_wf (fun s e h => ?_) ?_
      · exact endSteps_wf h ..
      · exact h
  · split
    · rw [dcCount_mem]
      rw [watchShards_mem]
      rw [chargeParts_mem]
      rw [holdSwitch_mem]
      refine foldl_wf (fun s e h => ?_) ?_
      · exact endSteps_wf h ..
      · exact h
    · rw [watchShards_mem]
      rw [chargeParts_mem]
      rw [holdSwitch_mem]
      refine foldl_wf (fun s e h => ?_) ?_
      · exact endSteps_wf h ..
      · exact h

theorem pickMoves_memOk {s : State} (h : s.mem.wf = true) (k : Nat) : MemOk (pickMoves s k).state? := by
  unfold pickMoves
  refine MemOk.of_ite .none ?_
  split
  · exact .some (by simp [h])
  · exact .some (by simp [h])
  · exact .some (by simp [h])

theorem pickTrio_memOk {s : State} (h : s.mem.wf = true) (k : Nat) : MemOk (pickTrio s k).state? := by
  unfold pickTrio
  refine MemOk.of_ite .none (MemOk.of_ite (MemOk.of_ite (.some (by simp [h])) .none) ?_)
  split
  · refine MemOk.of_ite (.some (by simp [h])) ?_
    extract_lets s₀ words stalled
    have h₀ : s₀.mem.wf = true := by simp [s₀, h]
    refine MemOk.of_ite (.some ?_) ?_
    · rw [freezeCore_mem]
      exact foldl_wf (fun _ _ h => execState_wf h ..) h₀
    · split
      · exact .some h
      · exact .none
  · exact pickMoves_memOk h k

theorem pickCore_memOk {s : State} (h : s.mem.wf = true) (l : List Nat) : MemOk (pickCore s l).state? := by
  induction l with
  | nil => exact .none
  | cons k l ih =>
    unfold pickCore
    refine MemOk.of_ite ih ?_
    split
    · split
      · exact ih
      · exact pickTrio_memOk h k
    · exact pickAcc_memOk h k

/-! ### The choice -/

theorem pick_memOk {s : State} (h : s.mem.wf = true) : MemOk (pick s).state? := by
  unfold pick
  split
  · exact .some h
  · split
    · refine MemOk.of_ite (.some (pump_wf h)) ?_
      split
      · exact .some (by simp [h])
      · exact .none
    · exact pickCore_memOk h _

/-- A step of the machine keeps memory canonical. -/
theorem step_memOk {s : State} (h : s.mem.wf = true) : MemOk (outState? (step s)) := by
  unfold step
  refine MemOk.of_ite (f := outState?) ?_ ?_
  · split
    · exact runEv_memOk (by simp [h]) _
    · exact .some h
  · split
    · exact runEv_memOk (by simp [h]) _
    · have w := pick_memOk h
      split
      · rename_i e
        exact exec_memOk (w.of_eq e) _
      · rename_i e
        exact runEv_memOk (w.of_eq e) _
      · rename_i e
        exact .some (w.of_eq e)
      · exact .some (tick_wf h)

/-- Settles O6: every function of the model that touches memory keeps its canonical form, so a step does. -/
theorem stepKeepsMemoryCanonical : Obligations.StepKeepsMemoryCanonical :=
  fun _ _ h e => (step_memOk h).of_eq e

/-- Settles O5: memory after reset lists nothing. -/
theorem resetMemoryCanonical : Obligations.ResetMemoryCanonical := reset_wf

end Sys2Proof.Machine
end

section
/-! # Address words and region words of A (O35; R154, R161, R162, R186-R189, R298)

The address words are the integer words of S on A's operands. The region words write one context: `devWrite_modX_frame`
says what the write of its image leaves, and an entry is found by the lowest free number. -/

namespace Sys2Proof.Machine

/-! ## Address arithmetic and compare (R154, R161, R162) -/

section
variable {i : Instr} {h : Hdr} {o : FR} {z : Option Nat} {s : State} {a b : W128} {lat : Nat}

/-- A word of A with two operands of T gives its function of them. -/
theorem gives_int2_A {f : Alu2} (hx : exec i s = runWord i .A h o.g z s (int2 .A o lat f)) (ha : s.core.src .A o.a (wideT o.t) = .ok a)
    (hb : s.core.src .A o.b (wideT o.t) = .ok b) {v : BitVec (32 * wideT o.t)}
    (hv : f (signedT o.t) (32 * wideT o.t) (a.setWidth _) (b.setWidth _) = v) (hs : Starts i .A h o.g s) :
    Gives i .A h o.d (wideT o.t) lat (v.setWidth 128) false s := by
  refine gives_of_body hx ?_ hs
  rw [int2, withSrc_ok ha, withSrc_ok hb, ← hv]
  exact result_wide ..

/-- A truth value is one register's result in any stream. -/
theorem result_truth (s : State) (st : StreamId) (d : BitVec 7) (lat : Nat) (p : Bool) (pred : Bool) :
    result s st d 1 lat (bitVal p) pred = .done s { res := some { val := .scalar (bitVal p), dest := dstOf st d 1 pred, lat := lat } } := by
  rw [result_one]
  cases p <;> rfl

/-- The low bits of a number of more bits, read as a narrower type. -/
theorem intOf_low (sg : Bool) {k : Nat} (hk : k ≠ 0) (h : k ≤ 32) (a : W128) : intOf sg k (a.setWidth 32 : W32).toNat =
    if sg then (a.setWidth k : BitVec k).toInt else (a.setWidth k : BitVec k).toNat := by
  rw [intOf_eq hk, BitVec.ofNat_toNat, BitVec.setWidth_setWidth_of_le a h]

/-- A narrow `mov` of A gives its source's low bits, extended as T says (R161). -/
theorem gives_aMov_narrow {sg : Bool} {k : Nat} (ht : tyOf o.t.toNat = .int sg k) (hk : k = 8 ∨ k = 16)
    (hsg : signedT o.t = sg) (ha : s.core.src .A o.a 1 = .ok a) {v : W32}
    (hv : BitVec.ofInt 32 (if sg then (a.setWidth k : BitVec k).toInt else (a.setWidth k : BitVec k).toNat) = v)
    (hs : Starts (.aMov h o) .A h o.g s) :
    Gives (.aMov h o) .A h o.d 1 1 (v.setWidth 128) false s := by
  refine gives_of_body rfl ?_ hs
  have hext : extAct .A o 1 (startWord .A s) = .done (startWord .A s)
      { res := some { val := .scalar (v.setWidth 128), dest := dstOf .A o.d 1 false, lat := 1 } } := by
    rw [extAct, with32_ok ha, ht, hsg]
    dsimp only
    rw [intOf_low sg (by omega) (by omega), result_one, setWidth_ofInt (by decide), hv]
  rcases hk with rfl | rfl <;> rw [ht] <;> exact hext

end

/-- The bits of an unsigned narrow number, in 128. -/
theorem ofInt_natCast_setWidth {k : Nat} (h : k ≤ 32) (x : BitVec k) : (BitVec.ofInt 32 (x.toNat : Int)).setWidth 128 = x.setWidth 128 := by
  rw [BitVec.ofInt_natCast, BitVec.ofNat_toNat, BitVec.setWidth_setWidth (by omega)]

/-- The integer types that fill whole registers. -/
theorem tyOf_wide : ∀ t : BitVec 4, t.toNat < 8 → 2 ≤ t.toNat % 4 →
    tyOf t.toNat = .int (signedT t) 32 ∨ tyOf t.toNat = .int (signedT t) 64 := by decide

theorem addressWordsRule : AddressWordsRule := by
  intro h o f s a b w x y gives
  refine ⟨fun ha hb => ?two, fun ha hb hs => ?shl, fun ha ht hw hs => ?wide, fun ha => ?narrow, fun hs => ?movi⟩
  case two =>
    refine ⟨gives_int2_A rfl ha hb rfl, gives_int2_A rfl ha hb rfl, gives_int2_A rfl ha hb rfl, ?_⟩
    intro p q holds n hn hi hs
    refine gives_of_body rfl ?_ hs
    rw [cmpAct, withSrc_ok ha, withSrc_ok hb, result_truth]
    dsimp only
    rw [immNat_of_immOf hi, intVal_signedT, intVal_signedT, cmpInt_eq hn]
    rfl
  case shl =>
    refine gives_of_body rfl ?_ hs
    rw [intC, withSrc_ok ha, with32_ok hb, aluShl_eq]
    exact result_wide ..
  case wide =>
    refine gives_of_body rfl ?_ hs
    rcases tyOf_wide o.t ht hw with hty | hty <;> simp only [hty] <;> rw [withSrc_ok ha, result_cut]
  case narrow =>
    refine ⟨fun ht => ?_, fun ht => ?_, fun ht => ?_, fun ht => ?_⟩ 
    · exact gives_aMov_narrow (sg := true) (k := 8) (by rw [ht]; rfl) (.inl rfl) (by rw [ht]; rfl) ha rfl
    · exact gives_aMov_narrow (sg := true) (k := 16) (by rw [ht]; rfl) (.inr rfl) (by rw [ht]; rfl) ha rfl
    · rw [← ofInt_natCast_setWidth (by decide)]
      exact gives_aMov_narrow (sg := false) (k := 8) (by rw [ht]; rfl) (.inl rfl) (by rw [ht]; rfl) ha rfl
    · rw [← ofInt_natCast_setWidth (by decide)]
      exact gives_aMov_narrow (sg := false) (k := 16) (by rw [ht]; rfl) (.inr rfl) (by rw [ht]; rfl) ha rfl
  case movi =>
    refine gives_of_body rfl ?_ hs
    rw [result_one, BitVec.signExtend, setWidth_ofInt (by decide)]
    rfl

/-! ## Regions and the copy stage (R186-R189, R298) -/

theorem startWord_getX (st : StreamId) (s : State) (x : Nat) : (startWord st s).getX x = s.getX x := rfl

/-- What a word leaves that changes one context and writes the device's image of it: that context, memory, and nothing of the core. -/
theorem devWrite_modX_frame (s : State) (x fn : Nat) (va : W64) (l : List Byte) (f : Ctx → Ctx) :
    ((s.modX x f).devWrite fn va l).core = s.core ∧ ((s.modX x f).devWrite fn va l).getX x = f (s.getX x) ∧
    ∀ y, y ≠ x → ((s.modX x f).devWrite fn va l).getX y = s.getX y := by
  obtain ⟨m, n, r, q, hw⟩ := State.devWrite_only (s.modX x f) fn va l
  rw [hw]
  exact ⟨rfl, State.getX_modX .., fun y hy => State.getX_modX_other _ _ _ _ hy⟩

theorem rangesMeet_iff (a n b m : Nat) : rangesMeet a n b m = true ↔ a < b + 128 * m ∧ b < a + 128 * n := by
  simp [rangesMeet]

/-- The lowest number that has a property, among those below n. -/
theorem find?_range_eq {n e : Nat} {p : Nat → Bool} (he : e < n) (hp : p e = true) (hlow : ∀ j, j < e → p j = false) :
    (List.range n).find? p = some e := by
  rw [List.find?_range_eq_some]
  simpa [he, hp] using hlow

section
variable {h : Hdr} {o : FR} {s : State} {a b c : W128}

/-- The bound ranges of a context that a new one would meet. -/
def meetsRegion (regs : Sparse Region) (base lines : Nat) : Bool :=
  regs.any fun e => rangesMeet base lines e.2.base.toNat e.2.lines.toNat

theorem meetsRegion_of_mem {regs : Sparse Region} {base lines e : Nat} {r : Region} (he : (e, r) ∈ regs)
    (h1 : base < r.base.toNat + 128 * r.lines.toNat) (h2 : r.base.toNat < base + 128 * lines) : meetsRegion regs base lines = true :=
  List.any_eq_true.mpr ⟨(e, r), he, (rangesMeet_iff ..).mpr ⟨h1, h2⟩⟩

theorem meetsRegion_of_apart {regs : Sparse Region} {base lines : Nat}
    (h : ∀ e r, (e, r) ∈ regs → r.base.toNat + 128 * r.lines.toNat ≤ base ∨ base + 128 * lines ≤ r.base.toNat) :
    meetsRegion regs base lines = false := by
  refine List.any_eq_false.mpr fun e he hm => ?_
  obtain ⟨h1, h2⟩ := (rangesMeet_iff ..).mp hm
  have := h e.1 e.2 he
  omega

/-- The region that `bind` enters (R186, R188). -/
def boundRegion (o : FR) (a b c : W128) : Region :=
  let w : W64 := c.setWidth 64
  let remote : Bool := decide (o.m = 3) && !w.getLsbD 63
  { base := a.setWidth 64, lines := b.setWidth 32, scope := o.m, kind := w.getLsbD 63, sync := w,
    sdev := if remote then (c.extractLsb' 64 15).setWidth 16 else 0, svf := if remote then c.extractLsb' 96 8 else 0 }

/-- A well-formed range that ends within the address space and meets no bound one is admitted (R188). -/
theorem admits {regs : Sparse Region} {base w : W64} {lines : W32} (hl0 : lines ≠ 0) (hend : base.toNat + 128 * lines.toNat ≤ 2 ^ 55)
    (hsync : syncOk w = true)
    (hapart : ∀ e r, (e, r) ∈ regs → r.base.toNat + 128 * r.lines.toNat ≤ base.toNat ∨ base.toNat + 128 * lines.toNat ≤ r.base.toNat) :
    ¬(lines = 0 || 2 ^ 55 < base.toNat + 128 * lines.toNat || !syncOk w || meetsRegion regs base.toNat lines.toNat) = true := by
  simpa [hsync, meetsRegion_of_apart hapart] using ⟨hl0, hend⟩

/-- The copy stage is the result of the word that sets it (R298). -/
theorem stage_result (s : State) (d : BitVec 7) (v : BitVec 16) : result s .A d 1 1 (v.setWidth 128) =
    .done s { res := some { val := .scalar ((v.setWidth 32 : W32).setWidth 128), dest := dstOf .A d 1 false, lat := 1 } } := by
  rw [← BitVec.setWidth_setWidth (v := 32) (by omega)]
  exact result_word ..

/-- The index of a region is the result of the word that binds it (R188). -/
theorem index_result (s : State) (d : BitVec 7) {e : Nat} (he : e < 256) : result s .A d 1 1 (BitVec.ofNat 128 e) =
    .done s { res := some { val := .scalar ((BitVec.ofNat 32 e).setWidth 128), dest := dstOf .A d 1 false, lat := 1 } } := by
  have hval : BitVec.ofNat 128 e = (BitVec.ofNat 32 e).setWidth 128 := by
    apply BitVec.eq_of_toNat_eq
    simp only [BitVec.toNat_ofNat, BitVec.toNat_setWidth]
    omega
  rw [hval]
  exact result_word ..

theorem regionWordsRule : RegionWordsRule := by
  intro h o s a b c x base lines w regs gives same
  refine ⟨fun ha hb hc hu hs => ⟨fun hal => ?misaligned, fun hal hbad => ?refused, fun hal hl0 hend hsync hapart =>
      ⟨fun hfull => ?full, fun e he hnone hlow => ?bound⟩⟩,
    fun ha hu hs => ⟨fun hlt => ?range, fun hle hnone => ?unbound, fun r hle hr => ?unbind⟩, fun hs hu => ⟨fun hm ha => ?set, fun hm => ?next⟩⟩
  case misaligned =>
    refine halts_of_body hs rfl ?_ fun _ => hu
    dsimp only
    rw [with64_ok ha, with32_ok hb, withSrc_ok hc, whenPassed_ok hu, if_pos hal]
    rfl
  case refused =>
    have hbad' : (lines = 0 || 2 ^ 55 < base.toNat + 128 * lines.toNat || !syncOk w || meetsRegion regs base.toNat lines.toNat) = true := by
      rcases hbad with h | h | ⟨e, r, he, h1, h2⟩
      · simp [h]
      · simp [h]
      · simp [meetsRegion_of_mem he h1 h2]
    refine halts_of_body hs rfl ?_ fun _ => hu
    dsimp only
    rw [with64_ok ha, with32_ok hb, withSrc_ok hc, whenPassed_ok hu, if_neg (not_not.mpr hal), startWord_ctx, startWord_getX]
    exact if_pos hbad'
  case full =>
    refine runWord_done hs ?_
    dsimp only
    rw [with64_ok ha, with32_ok hb, withSrc_ok hc, whenPassed_ok hu, if_neg (not_not.mpr hal), startWord_ctx, startWord_getX]
    refine (if_neg (admits hl0 hend hsync hapart)).trans ?_
    rw [List.find?_eq_none.mpr fun e he => by simpa using Option.isSome_iff_ne_none.mp (hfull e (List.mem_range.mp he))]
    exact result_word _ _ _ _ 0xFFFFFFFF _
  case bound =>
    obtain ⟨hcore, hx, hother⟩ := devWrite_modX_frame (startWord .A s) x (s.getX x).fn ((s.getX x).regva + BitVec.ofNat 64 (32 * e))
      (regionBytes (boundRegion o a b c) true) fun c' => { c' with regions := sput c'.regions e (boundRegion o a b c) }
    refine ⟨_, runWord_done hs ?_, ⟨?_, ?_, hother⟩, fun j hj => ?_, boundRegion o a b c, ?_, rfl, rfl, rfl, rfl, rfl⟩
    · dsimp only
      rw [with64_ok ha, with32_ok hb, withSrc_ok hc, whenPassed_ok hu, if_neg (not_not.mpr hal), startWord_ctx, startWord_getX]
      refine (if_neg (admits hl0 hend hsync hapart)).trans ?_
      rw [find?_range_eq he (congrArg Option.isNone hnone) fun j hj => Option.isNone_eq_false_iff.mpr (hlow j hj)]
      exact index_result _ _ he
    · rw [hcore]
      simp
    · rw [hcore]
      simp
    · rw [hx]
      rw [sfind_sput, if_neg hj]
      rfl
    · rw [hx]
      exact sfind_sput_same ..
  case range => 
    refine halts_of_body hs rfl ?_ fun _ => hu
    dsimp only
    rw [with32_ok ha, whenPassed_ok hu]
    exact if_pos hlt
  case unbound => 
    refine passes_of_body hs rfl ?_
    dsimp only
    rw [with32_ok ha, whenPassed_ok hu, startWord_ctx, startWord_getX]
    refine (if_neg (not_lt.mpr hle)).trans ?_
    rw [hnone]
    rfl
  case unbind =>
    obtain ⟨hcore, hx, hother⟩ := devWrite_modX_frame (startWord .A s) x (s.getX x).fn
      ((s.getX x).regva + BitVec.ofNat 64 (32 * (a.setWidth 32 : W32).toNat)) (regionBytes r false)
      fun c' => { c' with regions := sdel c'.regions (a.setWidth 32 : W32).toNat }
    refine ⟨_, passes_of_body hs rfl ?_, ⟨?_, ?_, hother⟩, ?_, fun j hj => ?_⟩
    · dsimp only
      rw [with32_ok ha, whenPassed_ok hu, startWord_ctx, startWord_getX]
      refine (if_neg (not_lt.mpr hle)).trans ?_
      rw [hr]
      rfl
    · rw [hcore]
      simp
    · rw [hcore]
      simp
    · rw [hx, sfind_sdel, if_pos rfl]
    · rw [hx, sfind_sdel, if_neg hj]
      rfl
  case set =>
    refine ⟨(startWord .A s).setCore { (startWord .A s).core with stage := a.setWidth 16 }, runWord_done hs ?_, by simp,
      ⟨?_, ?_, fun _ _ => rfl⟩, rfl⟩
    · dsimp only
      rw [if_pos hm, with32_ok ha, whenPassed_ok hu, BitVec.setWidth_setWidth_of_le a (by decide)]
      exact stage_result ..
    all_goals simp
  case next =>
    refine ⟨(startWord .A s).setCore { (startWord .A s).core with stage := s.core.stage + 1 }, runWord_done hs ?_, by simp,
      ⟨?_, ?_, fun _ _ => rfl⟩, rfl⟩
    · have hstage : (startWord .A s).core.stage = s.core.stage := by simp
      dsimp only
      rw [if_neg (Bool.eq_false_iff.mp hm), whenPassed_ok hu, hstage]
      exact stage_result ..
    all_goals simp
end

/-- Settles O35: the address words are functions of their operands, and the region words follow the region table. -/
theorem addressWords : Obligations.AddressWords := ⟨addressWordsRule, regionWordsRule⟩

end Sys2Proof.Machine
end

section
/-! # Loads, stores and atomics of the fabric (O32, O33, O34; R172)

Each of the three statements says of an access to another device that its word is in flight with the tag of the request
alone; the model keeps the access with it. One state and one word of each kind show the difference. -/

namespace Sys2Proof.Machine

/-! ## Accesses of the fabric that a word starts (R172)

A word whose access goes to another device leaves in flight both the tag of its request and, in `asked`, the access
itself, from which the core asks again after a save or a move. O32, O33 and O34 state the word's result with `asked` empty. -/

/-- The most recent word in flight keeps the access that it asked of another device. -/
def lastAsks : Host.Outcome State Fault Refusal → Bool
  | .next t => t.core.flight.getLast?.any fun f => f.asked.isSome
  | _ => false

/-- A word that keeps its access in flight has not given a result that asks nothing. -/
theorem asks_of_finishWord {x : Host.Outcome State Fault Refusal} {h : Hdr} {d : Done} {r : Res} {t : State} (hx : lastAsks x = true)
    (he : x = .next (finishWord .A h d t)) (hp : h.push = 0) (hd : d.res = some r) : r.asked ≠ none := by
  intro hr
  obtain ⟨p, hc⟩ := finishWord_core .A h d t
  simp [he, lastAsks, hc, inFlightOf, hp, hd, hr] at hx

/-- A core of context 0 whose A stream is live: n4 to n7 hold a fabric base, address 65536 at device 9 and function 1. -/
def fabricCore : Core :=
  { Core.reset with inst := some { ctx := 0, q := 0, seq := 1 }, started := true, a := { Stream.reset with st := .aligned },
                    named := [(4, { val := 0x10000, valid := true }), (5, { val := 0, valid := true }),
                              (6, { val := 9, valid := true }), (7, { val := 1, valid := true })] }

/-- The device after reset whose core 0 is that one, and whose pages are promoted by no count of their accesses. -/
def fabricState : State :=
  { State.reset with cores := [(0, fabricCore)], dc := sput State.reset.dc 0x002B1038 0 }

theorem fabricState_plain : Plain fabricState := by
  refine ⟨⟨?_, ?_, ?_, ?_⟩, ⟨?_, ?_, ?_⟩, ?_⟩ <;> decide +kernel

/-- A word of the memory format at that base in the fabric. -/
def fabricWord : FM := { data := 4, base := 4, off := 0, sz := 2, sp := 2, bypass := 0, ord := 0 }

/-- The base that those registers hold. -/
def fabricBase : W128 := 0x10000 + 9 * 2 ^ 64 + 2 ^ 96

/-- An exchange of one register at that base. -/
def fabricAtomic : FR := { d := 8, a := 4, b := 4, c := 0, t := 2, rm := 0, g := 0, m := 2 }

theorem fabricState_names : Names fabricState fabricWord false fabricBase 0x10000 :=
  ⟨by decide +kernel, 0, by decide +kernel, by decide +kernel⟩

theorem fabricState_addrOk {va : W64} {n : Nat} (hn : va.toNat % n = 0) (hlt : va.toNat < 2 ^ 55) : AddrOk fabricState 2 va n :=
  ⟨hn, fun h => absurd h (by decide), fun _ => hlt⟩

/-- A word with no tokens. -/
def plainHdr : Hdr := { idle := 0, pop := 0, push := 0 }

/-- Refutes O32: a load of the fabric leaves in flight, with its tag, the access that it asked, and the statement's result asks none. -/
theorem not_loadWords : ¬ Obligations.LoadWords := by
  unfold Obligations.LoadWords
  intro hall
  have hs : Starts (.ld plainHdr fabricWord) .A plainHdr 0 fabricState := by
    constructor <;> decide +kernel
  have hasks : lastAsks (exec (.ld plainHdr fabricWord) fabricState) = true := by decide +kernel
  obtain ⟨hloads, -⟩ := hall plainHdr fabricWord fabricState fabricBase 0x10000
  obtain ⟨-, hplain⟩ := hloads false hs fabricState_names (by decide +kernel)
  obtain ⟨-, -, -, -, hfab⟩ := hplain (fabricState_addrOk (by decide +kernel) (by decide +kernel)) fabricState_plain
  obtain ⟨t, tag, m, hexec, -⟩ := hfab rfl rfl
  exact asks_of_finishWord hasks hexec rfl rfl rfl

/-- Refutes O33: a store of the fabric leaves in flight, with its tag, the access that it asked, and the statement's result asks none. -/
theorem not_storeWords : ¬ Obligations.StoreWords := by
  unfold Obligations.StoreWords
  intro hall
  have hs : Starts (.st plainHdr fabricWord) .A plainHdr 0 fabricState := by
    constructor <;> decide +kernel
  have hasks : lastAsks (exec (.st plainHdr fabricWord) fabricState) = true := by decide +kernel
  obtain ⟨hstores, -⟩ := hall plainHdr fabricWord fabricAtomic fabricState fabricBase 0x10000 0x10000
  obtain ⟨-, hlands, -⟩ := hstores false hs (by decide +kernel) fabricState_names (by decide +kernel)
  obtain ⟨-, -, hfab⟩ := hlands (fabricState_addrOk (by decide +kernel) (by decide +kernel)) fabricState_plain
  obtain ⟨t, tag, m, hexec, -⟩ := hfab rfl rfl
  exact asks_of_finishWord hasks hexec rfl rfl rfl

/-- Refutes O34: an atomic of the fabric leaves in flight, with its tag, the access that it asked, and the statement's result asks none. -/
theorem not_atomicWords : ¬ Obligations.AtomicWords := by
  unfold Obligations.AtomicWords
  rintro ⟨hall, -⟩
  have hs : Starts (.amoswp plainHdr fabricAtomic) .A plainHdr fabricAtomic.g fabricState := by
    constructor <;> decide +kernel
  have hasks : lastAsks (exec (.amoswp plainHdr fabricAtomic) fabricState) = true := by decide +kernel
  obtain ⟨-, hswap, -⟩ := hall plainHdr fabricAtomic fabricState fabricBase 0x10000 0 (by decide +kernel) (by decide +kernel)
  obtain ⟨-, hlands⟩ := hswap hs (by decide +kernel)
  obtain ⟨-, -, hfab⟩ := hlands (fabricState_addrOk (by decide +kernel) (by decide +kernel)) fabricState_plain
  obtain ⟨t, tag, m, hexec, -⟩ := hfab rfl rfl
  exact asks_of_finishWord hasks hexec rfl rfl rfl

end Sys2Proof.Machine
end

section
/-! # Fabric accesses at their target and their replies (O51; R172, R173, R192, R356, R387, R461)

A request of a peer passes the tests of `fabAccess` one after another, and a lemma for each outcome says what
it leaves. A reply finds the word that awaits its tag, or none. -/

namespace Sys2Proof.Machine

/-! ## What counting an access leaves (R369) -/

/-- The cores, the contexts and the messages that wait to leave are the same. -/
structure KeepsAgents (s t : State) : Prop where
  outbox : t.outbox = s.outbox
  cores : t.cores = s.cores
  ctxs : t.ctxs = s.ctxs

theorem KeepsAgents.refl (s : State) : KeepsAgents s s := ⟨rfl, rfl, rfl⟩

theorem KeepsAgents.trans {s t u : State} (h : KeepsAgents s t) (k : KeepsAgents t u) : KeepsAgents s u :=
  ⟨k.outbox.trans h.outbox, k.cores.trans h.cores, k.ctxs.trans h.ctxs⟩

theorem KeepsAgents.foldl {α : Type} {f : State → α → State} (l : List α) (s : State) (hf : ∀ t a, KeepsAgents t (f t a)) :
    KeepsAgents s (l.foldl f s) :=
  List.foldlRecOn (motive := fun t => KeepsAgents s t) l f (.refl s) fun _ ht a _ => ht.trans (hf _ a)

/-- A state that depends on a condition. -/
theorem KeepsAgents.ite {p : Prop} {_ : Decidable p} {s a b : State} (ha : KeepsAgents s a) (hb : KeepsAgents s b) :
    KeepsAgents s (if p then a else b) := by
  split
  · exact ha
  · exact hb

theorem keepsAgents_dcPut (s : State) (a : Nat) (v : W32) : KeepsAgents s (dcPut s a v) := ⟨rfl, rfl, rfl⟩

theorem keepsAgents_paStore (s : State) (pa : Nat) (l : List Byte) : KeepsAgents s (s.paStore pa l) := ⟨rfl, rfl, rfl⟩

theorem keepsAgents_ringReturn (s : State) (p : Nat) (pa : W64) : KeepsAgents s (ringReturn s p pa) := by
  unfold ringReturn
  exact .ite ((keepsAgents_paStore ..).trans (keepsAgents_dcPut ..)) ⟨rfl, rfl, rfl⟩

theorem keepsAgents_ringAdvance (s : State) (p k : Nat) : KeepsAgents s (ringAdvance s p k) := keepsAgents_dcPut ..

theorem keepsAgents_ringSkip (p k n : Nat) (s : State) : KeepsAgents s (ringSkip s p k n) := by
  induction n generalizing s with
  | zero => exact .refl s
  | succ n ih =>
    unfold ringSkip
    split
    · exact .ite (.refl s) (((keepsAgents_ringAdvance ..).trans (keepsAgents_ringReturn ..)).trans (ih _))
    · exact .refl s

theorem keepsAgents_ringTake (s : State) (p k : Nat) : KeepsAgents s (ringTake s p k).1 := by
  have h := keepsAgents_ringSkip p k (2 ^ 20) s
  unfold ringTake
  revert h
  generalize ringSkip s p k (2 ^ 20) = t
  intro h
  dsimp only
  split
  · exact h.trans (keepsAgents_ringAdvance ..)
  · exact h

theorem keepsAgents_counterTake (s : State) (fn : Nat) (va e : W64) : KeepsAgents s (counterTake s fn va e) := by
  unfold counterTake
  exact .ite (.refl s) (.ite ⟨rfl, rfl, rfl⟩ ⟨rfl, rfl, rfl⟩)

theorem keepsAgents_counterDrop (s : State) (fn : Nat) (va : W64) : KeepsAgents s (counterDrop s fn va) := ⟨rfl, rfl, rfl⟩

theorem keepsAgents_counterSync (s : State) (fn : Nat) (va e : W64) : KeepsAgents s (counterSync s fn va e) := by
  unfold counterSync
  exact .ite (.ite (.refl s) (keepsAgents_counterTake ..)) (.ite (keepsAgents_counterDrop ..) (.refl s))

theorem keepsAgents_purgePage (s : State) (fn : Nat) (va : W64) : KeepsAgents s (purgePage s fn va) := ⟨rfl, rfl, rfl⟩

theorem keepsAgents_moveBegin (s : State) (m : PageMove) : KeepsAgents s (moveBegin s m) := by
  have h := keepsAgents_paStore s m.entryPa (leBytes 8 (eMigrating m.before).toNat)
  unfold moveBegin
  have hd : KeepsAgents s (if eState m.before = sPOOL then counterDrop (s.paStore m.entryPa (leBytes 8 (eMigrating m.before).toNat)) m.fn m.va
      else s.paStore m.entryPa (leBytes 8 (eMigrating m.before).toNat)) := .ite (h.trans (keepsAgents_counterDrop ..)) h
  exact ⟨hd.outbox, hd.cores, hd.ctxs⟩

theorem keepsAgents_moveToHbm (s : State) (fn : Nat) (va : W64) (pa : Nat) (e : W64) : KeepsAgents s (moveToHbm s fn va pa e) := by
  have h := keepsAgents_ringTake s (ringPart s fn) 0
  unfold moveToHbm
  revert h
  generalize ringTake s (ringPart s fn) 0 = r
  intro h
  split
  · exact h
  · exact h.trans (keepsAgents_moveBegin ..)

theorem keepsAgents_countAccess (s : State) (fn : Nat) (va : W64) : KeepsAgents s (countAccess s fn va) := by
  unfold countAccess
  split
  · exact .refl s
  · rename_i pa e _
    refine (keepsAgents_counterSync s fn va e).trans ?_
    generalize counterSync s fn va e = t
    refine .ite (.refl t) ?_
    split
    · exact .refl t
    · rename_i n _
      have hput : KeepsAgents t { t with counters := sput t.counters (pageKey fn va) (BitVec.ofNat 8 (min (n.toNat + 1) 255)) } := ⟨rfl, rfl, rfl⟩
      exact .ite (hput.trans (keepsAgents_moveToHbm ..)) hput

/-- Counting an access keeps the cores, the contexts and the messages. -/
theorem keepsAgents_countLines (s : State) (fn : Nat) (va : W64) (n : Nat) : KeepsAgents s (countLines s fn va n) :=
  .foldl _ s fun _ _ => keepsAgents_countAccess ..

/-- A function's pages are promoted by no count of their accesses (R369). -/
def NoPromotion (s : State) (fn : Nat) : Prop := dcGet s (0x002B1038 + 0x40 * ringPart s fn) &&& 0xFF = 0

/-- Only access counters differ. -/
def OnlyCounters (s t : State) : Prop := ∃ c u, t = { s with counters := c, untracked := u }

theorem OnlyCounters.refl (s : State) : OnlyCounters s s := ⟨s.counters, s.untracked, rfl⟩

theorem OnlyCounters.trans {s t u : State} (h : OnlyCounters s t) (k : OnlyCounters t u) : OnlyCounters s u := by
  obtain ⟨c, d, rfl⟩ := h
  obtain ⟨c', d', rfl⟩ := k
  exact ⟨c', d', rfl⟩

theorem OnlyCounters.ite {p : Prop} {_ : Decidable p} {s a b : State} (ha : OnlyCounters s a) (hb : OnlyCounters s b) :
    OnlyCounters s (if p then a else b) := by
  split
  · exact ha
  · exact hb

theorem OnlyCounters.noPromotion {s t : State} (h : OnlyCounters s t) {fn : Nat} (hn : NoPromotion s fn) : NoPromotion t fn := by
  obtain ⟨c, u, rfl⟩ := h
  exact hn

theorem OnlyCounters.mem {s t : State} (h : OnlyCounters s t) : t.mem = s.mem := by
  obtain ⟨c, u, rfl⟩ := h
  rfl

theorem onlyCounters_counterSync (s : State) (fn : Nat) (va e : W64) : OnlyCounters s (counterSync s fn va e) := by
  have htake : OnlyCounters s (counterTake s fn va e) := by
    unfold counterTake
    exact .ite (.refl s) (.ite ⟨_, s.untracked, rfl⟩ ⟨s.counters, _, rfl⟩)
  unfold counterSync
  exact .ite (.ite (.refl s) htake) (.ite ⟨_, _, rfl⟩ (.refl s))

/-- Where no count promotes a page, counting an access changes counters only. -/
theorem onlyCounters_countAccess {s : State} {fn : Nat} (h : NoPromotion s fn) (va : W64) : OnlyCounters s (countAccess s fn va) := by
  unfold countAccess
  split
  · exact .refl s
  · rename_i pa e _
    have hc := onlyCounters_counterSync s fn va e
    refine hc.trans ?_
    have ht := hc.noPromotion h
    revert ht
    generalize counterSync s fn va e = t
    intro ht
    refine .ite (.refl t) ?_
    split
    · exact .refl t
    · rename_i n _
      have hput : OnlyCounters t { t with counters := sput t.counters (pageKey fn va) (BitVec.ofNat 8 (min (n.toNat + 1) 255)) } := ⟨_, t.untracked, rfl⟩
      have hu := hput.noPromotion ht
      dsimp only
      revert hput hu
      generalize { t with counters := sput t.counters (pageKey fn va) (BitVec.ofNat 8 (min (n.toNat + 1) 255)) } = u
      intro hput hu
      have h0 : (dcGet u (0x002B1038 + 0x40 * ringPart u fn) &&& 0xFF).toNat = 0 := congrArg BitVec.toNat hu
      rw [if_neg (by rw [h0]; simp)]
      exact hput

theorem onlyCounters_countLines {s : State} {fn : Nat} (h : NoPromotion s fn) (va : W64) (n : Nat) : OnlyCounters s (countLines s fn va n) :=
  List.foldlRecOn (motive := fun t => OnlyCounters s t) _ _ (.refl s) fun _ ht _ _ => ht.trans (onlyCounters_countAccess (ht.noPromotion h) _)

/-! ## Fabric accesses at their target (R172, R173, R192, R356, R362, R461) -/

section
variable {s : State} {m : Msg}

/-- One message more waits to leave: an answer to m. -/
def AnswersMsg (s : State) (m : Msg) (t : State) (kind : Byte) (l : List Byte) : Prop :=
  ∃ a, t.outbox = s.outbox ++ [a] ∧ a.kind = kind ∧ a.dst = m.src ∧ a.dvf = m.svf ∧ a.aux = m.aux ∧ a.payload = l

theorem answers_replyMsg {t : State} (h : t.outbox = s.outbox) (kind : Nat) (l : List Byte) :
    AnswersMsg s m (replyMsg t m kind l) (BitVec.ofNat 8 kind) l :=
  ⟨_, (State.send_outbox ..).trans (congrArg (· ++ _) h), rfl, by simp, by simp, rfl, rfl⟩

theorem endRequest_keepsAgents (s : State) (m : Msg) : KeepsAgents s (endRequest s m) := ⟨rfl, rfl, rfl⟩

/-- What the answer that a function has gone carries (R356, R387). -/
def movedPayload (m : Msg) (dev fn : Nat) : List Byte := leBytes 2 dev ++ [BitVec.ofNat 8 fn, m.kind] ++ m.payload

theorem fabAccess_tomb {dev tfn : Nat} (ht : tombOf s m.dvf.toNat = some (dev, tfn)) (p : Perm) (n : Nat) (k : State → List Byte → State) :
    fabAccess s m p n k = replyMsg (endRequest s m) m 10 (movedPayload m dev tfn) := by
  simp only [fabAccess, ht]
  rfl

theorem fabAccess_free (ht : tombOf s m.dvf.toNat = none) (hf : fnHasCtx s m.dvf.toNat = false) (p : Perm) (n : Nat)
    (k : State → List Byte → State) : fabAccess s m p n k = refuseMsg s m cREFUSED := by
  simp [fabAccess, ht, hf]

theorem fabAccess_behind (ht : tombOf s m.dvf.toNat = none) (hf : fnHasCtx s m.dvf.toNat = true) (hb : waitsBehind s m = true) (p : Perm) (n : Nat)
    (k : State → List Byte → State) :
    fabAccess s m p n k = if s.fabWait.contains m then s else { s with fabWait := s.fabWait ++ [m] } := by
  simp [fabAccess, ht, hf, hb]

/-- A walk reads memory, its errors, the failed pools and the device-control registers. -/
theorem walk_congr {t : State} (hmem : t.mem = s.mem) (hdc : t.dc = s.dc) (herr : t.errs = s.errs) (hcxl : t.cxlFailed = s.cxlFailed)
    (fn : Nat) (va : W64) : walk t fn va = walk s fn va := by
  have hfault (pa : Nat) : paFault t pa = paFault s pa := by simp only [paFault, hcxl]
  have hread (pa : Nat) : t.pa64 pa = s.pa64 pa := by simp only [State.pa64, hmem]
  have hfrom (cached : Bool) (n tab : Nat) : walkFrom t cached va n tab = walkFrom s cached va n tab := by
    induction n generalizing tab with
    | zero =>
      unfold walkFrom
      simp only [hfault, hread, herr]
    | succ n ih =>
      unfold walkFrom
      simp only [hfault, hread, herr, ih]
  have hpart : partOf t fn = partOf s fn := by simp only [partOf, dcGet_congr hdc]
  have hcached : cachedMode t fn = cachedMode s fn := by simp only [cachedMode, hpart, dcGet_congr hdc]
  have hroot : ptRoot t fn = ptRoot s fn := by simp only [ptRoot, dcGet64, dcGet_congr hdc]
  simp only [walk, hfrom, hcached, hroot]

theorem endRequest_paOf (fn : Nat) (va : W64) : paOf (endRequest s m) fn va = paOf s fn va := by
  simp only [paOf, walk_congr (s := s) (t := endRequest s m) rfl rfl rfl rfl]

/-- A request that its function is here to serve, and that nothing holds back. -/
structure Served (s : State) (m : Msg) : Prop where
  here : tombOf s m.dvf.toNat = none
  ctx : fnHasCtx s m.dvf.toNat = true
  first : waitsBehind s m = false
  entry : opEntry s fabCore fabCtx (msgKey m) = none
  va : vaBad m.va = false

/-- The checks of a request: a read, or those of a store. -/
def fabCheck (s : State) (m : Msg) (p : Perm) (n : Nat) : Rd :=
  (if p = .rd || m.kind = 4 then readFrom else checkFrom) s .device m.dvf.toNat p (!ownForward s m) (n / 65536 + 2) m.va n

theorem fabAccess_ok (h : Served s m) {p : Perm} {n : Nat} (hn : n ≠ 0) {l : List Byte} (hc : fabCheck s m p n = .ok l)
    (k : State → List Byte → State) : fabAccess s m p n k = k (endRequest s m) l := by
  unfold fabCheck at hc
  simp only [fabAccess, h.here, h.ctx, h.first, h.entry, h.va, hn, hc]
  rfl

theorem fabAccess_bad (h : Served s m) {p : Perm} {n : Nat} (hn : n ≠ 0) {c : Byte} {va : W64} (hc : fabCheck s m p n = .bad c va)
    (k : State → List Byte → State) : fabAccess s m p n k = refuseMsg s m c := by
  unfold fabCheck at hc
  simp only [fabAccess, h.here, h.ctx, h.first, h.entry, h.va, hn, hc]
  rfl

theorem fabCheck_load (n : Nat) :
    fabCheck s m .rd n = readFrom s .device m.dvf.toNat .rd (!ownForward s m) (n / 65536 + 2) m.va n := by
  simp [fabCheck]

theorem fabCheck_store (hk : m.kind = 2) (n : Nat) :
    fabCheck s m .wr n = checkFrom s .device m.dvf.toNat .wr (!ownForward s m) (n / 65536 + 2) m.va n := by
  simp [fabCheck, hk]

theorem fabCheck_atomic (hk : m.kind = 4) (n : Nat) :
    fabCheck s m .wr n = readFrom s .device m.dvf.toNat .wr (!ownForward s m) (n / 65536 + 2) m.va n := by
  simp [fabCheck, hk]

/-- A write by a peer that passes, where no word waits for a lock and no page is promoted: memory as the write leaves it, and no core changed. -/
theorem fabWrite_ok {r t : State} {l : List Byte} (hw : writePerm r .device m.dvf.toNat .wr (!ownForward r m) m.va l = .ok t) (hq : r.lockQ = [])
    (hn : NoPromotion r m.dvf.toNat) : KeepsAgents r (fabWrite r m l) ∧ (fabWrite r m l).mem = t.mem := by
  obtain ⟨hk, hp⟩ : KeepsAgents r t ∧ NoPromotion t m.dvf.toNat := by
    obtain ⟨mem, n, res, rfl⟩ := writePerm_only hw
    exact ⟨⟨rfl, rfl, rfl⟩, hn⟩
  have hlock : (match paOf r m.dvf.toNat m.va with
      | some pa => if r.lockQ = [] then t else lockCheck t pa l.length
      | none => t) = t := by
    split
    · exact if_pos hq
    · rfl
  have hfw : fabWrite r m l = countLines t m.dvf.toNat m.va l.length := by
    simp only [fabWrite, hw]
    exact congrArg (countLines · m.dvf.toNat m.va l.length) hlock
  rw [hfw]
  exact ⟨hk.trans (keepsAgents_countLines ..), (onlyCounters_countLines hp ..).mem⟩
end

/-! ## Replies (R154, R155, R172, R173) -/

section
variable {s : State} {m : Msg}

/-- A word whose reply has come (R154, R155). -/
def replied (now : Nat) (l : List Byte) (f : InFlight) : InFlight :=
  { f with fab := none, asked := none, due := some now, val := accessVal f l }

/-- The tag's request is no longer kept. -/
theorem not_mem_dropRequest {tag : W64} {o : Msg} (h : o ∈ (dropRequest s tag).fabOut) : o.aux ≠ tag := by
  simpa using (List.mem_filter.mp h).2

theorem answerWord_none {tag : W64} (h : (s.getC (tagCore tag)).awaits tag = none) (l : List Byte) : answerWord s tag l = dropRequest s tag := by
  have h' : ((dropRequest s tag).getC (tagCore tag)).awaits tag = none := h
  simp [answerWord, h']

theorem answerWord_some {tag : W64} {f : InFlight} (h : (s.getC (tagCore tag)).awaits tag = some f) (l : List Byte) :
    answerWord s tag l = (dropRequest s tag).putC (tagCore tag) { s.getC (tagCore tag) with
      flight := (s.getC (tagCore tag)).flight.map fun g => if g.fab ≠ some tag then g else replied s.now l g } := by
  have h' : ((dropRequest s tag).getC (tagCore tag)).awaits tag = some f := h
  simp only [answerWord, h']
  rfl

/-- The word that awaits a tag is in flight with it. -/
theorem awaits_some {c : Core} {tag : W64} {f : InFlight} (h : c.awaits tag = some f) : f ∈ c.flight ∧ f.fab = some tag :=
  ⟨List.mem_of_find?_eq_some h, of_decide_eq_true (List.find?_some (p := fun f : InFlight => decide (f.fab = some tag)) h)⟩

theorem replied_mem {tag : W64} {f : InFlight} (h : (s.getC (tagCore tag)).awaits tag = some f) (l : List Byte) :
    replied s.now l f ∈ ((answerWord s tag l).getC (tagCore tag)).flight := by
  obtain ⟨hf, htag⟩ := awaits_some h
  rw [answerWord_some h, State.getC_putC]
  exact List.mem_map.mpr ⟨f, hf, by simp [htag]⟩

/-! ## Refusals (R164, R165, R175, R461) -/

theorem failWord_none {tag : W64} (h : (s.getC (tagCore tag)).awaits tag = none) (va : W64) (code : Byte) : failWord s tag va code = dropRequest s tag := by
  have h' : ((dropRequest s tag).getC (tagCore tag)).awaits tag = none := h
  simp [failWord, h']

/-- A refused word that no unchecked word precedes is A's halting fault. -/
theorem failWord_some {tag : W64} {f : InFlight} (hf : forwarded tag = false) (h : (s.getC (tagCore tag)).awaits tag = some f)
    (hp : ((s.getC (tagCore tag)).aFlight.any fun g => decide (g.seq < f.seq) && g.unpassed) = false) (va : W64) (code : Byte) :
    failWord s tag va code = faultFlight (dropRequest s tag) (tagCore tag) f { code := code, index := 0, addr := va, tcode := 0 } := by
  have h' : ((dropRequest s tag).getC (tagCore tag)).awaits tag = some f := h
  have hp' : (((dropRequest s tag).getC (tagCore tag)).aFlight.any fun g => decide (g.seq < f.seq) && g.unpassed) = false := hp
  simp only [failWord, h', hp', hf]
  rfl

/-- The line of a context that may halt rises with a stream's fault (R344). -/
theorem haltAt_halt {k : Nat} (hs : (s.getX (s.getC k).ctx).st.halts = true) (st : StreamId) (f : StopInfo) :
    ((haltAt s k st f).getX (s.getC k).ctx).halt.isSome = true :=
  congrArg Option.isSome (haltWord_ctx (s := { s with cur := k }) hs)

theorem faultFlight_fault (k : Nat) (g : InFlight) (f : StopInfo) : ((faultFlight s k g f).getC k).a.fault = some f :=
  haltAt_fault _ k .A f

theorem faultFlight_halt {k : Nat} (hs : (s.getX (s.getC k).ctx).st.halts = true) (g : InFlight) (f : StopInfo) :
    ((faultFlight s k g f).getX (s.getC k).ctx).halt.isSome = true := by
  have hctx : ((s.putC k (dropLater { s.getC k with a := { (s.getC k).a with pc := g.pc } } g.seq)).getC k).ctx = (s.getC k).ctx := by
    rw [State.getC_putC]
    rfl
  have h := haltAt_halt (s := s.putC k (dropLater { s.getC k with a := { (s.getC k).a with pc := g.pc } } g.seq)) (k := k) (by rw [hctx]; exact hs) .A f
  rw [hctx] at h
  exact h

theorem abandonWord_none {tag : W64} (h : (s.getC (tagCore tag)).awaits tag = none) : abandonWord s tag = dropRequest s tag := by
  have h' : ((dropRequest s tag).getC (tagCore tag)).awaits tag = none := h
  simp [abandonWord, h']

theorem abandonWord_some {tag : W64} {f : InFlight} (h : (s.getC (tagCore tag)).awaits tag = some f) : abandonWord s tag =
    (dropRequest s tag).putC (tagCore tag) (abandonFrom (s.getC (tagCore tag)) { f with loops := (s.getC (tagCore tag)).a.loops }) := by
  have h' : ((dropRequest s tag).getC (tagCore tag)).awaits tag = some f := h
  simp only [abandonWord, h']
  rfl

/-- Abandoned words stand in flight no more: none of A from the abandoned one on. -/
theorem abandonFrom_flight (c : Core) (f : InFlight) :
    (abandonFrom c f).flight = c.flight.filter fun g => !(decide (g.stream = .A) && decide (f.seq ≤ g.seq)) := rfl

theorem abandonFrom_awaits {c : Core} {tag : W64} {f : InFlight} (h : ∀ g ∈ c.flight, g.fab = some tag → g.stream = .A ∧ f.seq ≤ g.seq) :
    (abandonFrom c f).awaits tag = none := by
  refine List.find?_eq_none.mpr fun g hg htag => ?_
  rw [abandonFrom_flight, List.mem_filter] at hg
  obtain ⟨hA, hseq⟩ := h g hg.1 (of_decide_eq_true htag)
  simp [hA, hseq] at hg
end

/-! ## Requests of peers (R172, R173, R192) -/

section
variable {s : State} {m : Msg}

theorem endRequest_noPromotion (h : NoPromotion s m.dvf.toNat) : NoPromotion (endRequest s m) m.dvf.toNat := h

/-- A load by a peer is answered with its bytes. -/
theorem msgLoad_answers (h : Served s m) (hn : field m.payload 0 2 ≠ 0) {l : List Byte} (hc : fabCheck s m .rd (field m.payload 0 2) = .ok l) :
    ∃ t, exec (.msgLoad m) s = .next t ∧ AnswersMsg s m t 1 l ∧ t.cores = s.cores ∧ t.ctxs = s.ctxs := by
  have hk := (endRequest_keepsAgents s m).trans (keepsAgents_countLines (endRequest s m) m.dvf.toNat m.va l.length)
  exact ⟨_, congrArg Host.Outcome.next (fabAccess_ok h hn hc _), answers_replyMsg hk.outbox .., hk.cores, hk.ctxs⟩

/-- A store by a peer is acknowledged once it is performed. -/
theorem msgStore_answers (h : Served s m) (hq : s.lockQ = []) (hp : NoPromotion s m.dvf.toNat) (hn : m.payload.length ≠ 0) {l : List Byte}
    (hc : fabCheck s m .wr m.payload.length = .ok l) {s2 : State}
    (hw : writePerm (endRequest s m) .device m.dvf.toNat .wr (!ownForward s m) m.va m.payload = .ok s2) :
    ∃ t, exec (.msgStore m) s = .next t ∧ AnswersMsg s m t 3 [] ∧ t.mem = s2.mem ∧ t.cores = s.cores := by
  obtain ⟨hk, hmem⟩ := fabWrite_ok (r := endRequest s m) hw hq hp
  exact ⟨_, congrArg Host.Outcome.next (fabAccess_ok h hn hc _), answers_replyMsg hk.outbox .., hmem, hk.cores⟩

/-- What an atomic of a peer does once its checks have read the old bytes (R173, R192, R193). -/
def fabPerform (m : Msg) (r : State) (old : List Byte) : State :=
  let op := field m.payload 0 1
  let t : BitVec 4 := BitVec.ofNat 4 (field m.payload 1 1)
  let b : W64 := BitVec.ofNat 64 (field m.payload 2 8)
  match op with
  | 9 => fabAcquire r m false b old
  | 10 => fabAcquire r m true b old
  | _ => replyMsg (match amoBytes op t old b (BitVec.ofNat 64 (field m.payload 10 8)) with
      | some l => fabWrite r m l
      | none => countLines r m.dvf.toNat m.va (amoSize op t)) m 5 old

theorem exec_msgAtomic (h12 : field m.payload 0 1 ≠ 12) : exec (.msgAtomic m) s =
    .next (fabAccess s m .wr (amoSize (field m.payload 0 1) (BitVec.ofNat 4 (field m.payload 1 1))) (fabPerform m)) :=
  congrArg Host.Outcome.next (if_neg h12)

/-- An atomic that is no acquire, on the bytes of its type: it writes its new bytes, or none. -/
theorem msgAtomic_answers (h : Served s m) (hq : s.lockQ = []) (hp : NoPromotion s m.dvf.toNat) (hlt : field m.payload 0 1 < 9) {old : List Byte}
    (hc : fabCheck s m .wr (4 * wideT (BitVec.ofNat 4 (field m.payload 1 1))) = .ok old) :
    let new := amoBytes (field m.payload 0 1) (BitVec.ofNat 4 (field m.payload 1 1)) old (BitVec.ofNat 64 (field m.payload 2 8))
      (BitVec.ofNat 64 (field m.payload 10 8))
    (new = none → ∃ t, exec (.msgAtomic m) s = .next t ∧ AnswersMsg s m t 5 old ∧ t.mem = s.mem) ∧
    (∀ l s2, new = some l → writePerm (endRequest s m) .device m.dvf.toNat .wr (!ownForward s m) m.va l = .ok s2 →
      ∃ t, exec (.msgAtomic m) s = .next t ∧ AnswersMsg s m t 5 old ∧ t.mem = s2.mem) := by
  intro new
  have hsize : amoSize (field m.payload 0 1) (BitVec.ofNat 4 (field m.payload 1 1)) = 4 * wideT (BitVec.ofNat 4 (field m.payload 1 1)) :=
    if_neg (by omega)
  have hpos : 4 * wideT (BitVec.ofNat 4 (field m.payload 1 1)) ≠ 0 := by
    rcases wideT_cases (BitVec.ofNat 4 (field m.payload 1 1)) with h | h <;> omega
  have hexec : exec (.msgAtomic m) s = .next (fabPerform m (endRequest s m) old) := by
    rw [exec_msgAtomic (by omega), hsize, fabAccess_ok h hpos hc]
  have hperform : fabPerform m (endRequest s m) old = replyMsg (match new with
      | some l => fabWrite (endRequest s m) m l
      | none => countLines (endRequest s m) m.dvf.toNat m.va (amoSize (field m.payload 0 1) (BitVec.ofNat 4 (field m.payload 1 1)))) m 5 old := by
    unfold fabPerform
    dsimp only
    split
    · omega
    · omega
    · rfl
  refine ⟨fun hnew => ⟨_, hexec, ?_⟩, fun l s2 hnew hw => ⟨_, hexec, ?_⟩⟩ <;> rw [hperform, hnew]
  · have hk := (endRequest_keepsAgents s m).trans (keepsAgents_countLines (endRequest s m) m.dvf.toNat m.va
      (amoSize (field m.payload 0 1) (BitVec.ofNat 4 (field m.payload 1 1))))
    exact ⟨answers_replyMsg hk.outbox .., (onlyCounters_countLines (endRequest_noPromotion hp) ..).mem⟩
  · obtain ⟨hk, hmem⟩ := fabWrite_ok (r := endRequest s m) hw hq hp
    exact ⟨answers_replyMsg hk.outbox .., hmem⟩

/-- An acquire by a peer, `.try` or not. -/
theorem exec_msgAtomic_acquire (h : Served s m) (hacq : field m.payload 0 1 = 9 ∨ field m.payload 0 1 = 10) {old : List Byte}
    (hc : fabCheck s m .wr 8 = .ok old) :
    exec (.msgAtomic m) s = .next (fabAcquire (endRequest s m) m (field m.payload 0 1 = 10) (BitVec.ofNat 64 (field m.payload 2 8)) old) := by
  have hsize : amoSize (field m.payload 0 1) (BitVec.ofNat 4 (field m.payload 1 1)) = 8 := if_pos (by omega)
  rw [exec_msgAtomic (by omega), hsize, fabAccess_ok h (by decide) hc]
  unfold fabPerform
  rcases hacq with h9 | h10
  · rw [h9]
    rfl
  · rw [h10]
    rfl

/-- A FREE lock word is taken for the peer's core. -/
theorem fabAcquire_free {old : List Byte} (hfree : lockHeld (BitVec.ofNat 64 (leNat old)) = false) (try_ : Bool) (holder : Nat) (r : State) :
    fabAcquire r m try_ (BitVec.ofNat 64 holder) old = replyMsg (fabWrite r m (leBytes 8 (lockWord (lockSeq (BitVec.ofNat 64 (leNat old))) m.src
      (holder % 65536) (holder / 65536 % 512)).toNat)) m 5 (leBytes 8 (acqResult try_ (BitVec.ofNat 64 (leNat old))).toNat) := by
  have hctx : ((BitVec.ofNat 64 holder).extractLsb' 0 16).toNat = holder % 65536 := by simp
  have hcore : ((BitVec.ofNat 64 holder).extractLsb' 16 9).toNat = holder / 65536 % 512 := by
    simp [Nat.shiftRight_eq_div_pow]
    omega
  simp only [fabAcquire, hfree, hctx, hcore, Bool.not_false, if_true]

theorem fabAcquire_tried {old : List Byte} (hheld : lockHeld (BitVec.ofNat 64 (leNat old)) = true) (holder : W64) (r : State) :
    fabAcquire r m true holder old = replyMsg r m 5 (leBytes 8 0) := by
  simp [fabAcquire, hheld]

/-- An acquire of a HELD word waits in the queue of its home (R192). -/
theorem fabAcquire_waits {old : List Byte} (hheld : lockHeld (BitVec.ofNat 64 (leNat old)) = true) {r : State} {pa : Nat}
    (hpa : paOf r m.dvf.toNat m.va = some pa) (holder : W64) :
    ∃ e : LockWait, fabAcquire r m false holder old = { r with lockQ := r.lockQ ++ [e] } ∧ e.pa = pa ∧ e.dev = m.src ∧ e.fn = m.svf ∧ e.tag = m.aux := by
  refine ⟨{ pa := pa, home := m.dvf.toNat, va := m.va, gone := false, core := none, dev := m.src, fn := m.svf, tag := m.aux,
            ctx := (holder.extractLsb' 0 16).toNat, holder := (holder.extractLsb' 16 9).toNat }, ?_, rfl, rfl, rfl, rfl⟩
  simp only [fabAcquire, hheld, hpa]
  rfl
end

/-! ## Answers to the core's own accesses (R154, R155, R387) -/

section
variable {s : State} {m : Msg}

/-- A pair that a MOVED gives is kept (R387). -/
theorem mem_ftcPut (old new : BitVec 15 × Byte) : (old, new) ∈ (ftcPut s old new).ftc := by
  simp [ftcPut]

/-- The pair that a MOVED names. -/
def movedPair (m : Msg) : BitVec 15 × Byte := (BitVec.ofNat 15 (field m.payload 0 2), BitVec.ofNat 8 (field m.payload 2 1))

/-- A MOVED to a word that was not forwarded enters its translation, whatever it answers (R387). -/
theorem msgMoved_cached (hf : forwarded m.aux = false) : ∃ t, exec (.msgMoved m) s = .next t ∧ t.mem = s.mem ∧ t.cores = s.cores ∧
    ((m.src, m.svf), movedPair m) ∈ t.ftc := by
  have hin := mem_ftcPut (s := s) (m.src, m.svf) (movedPair m)
  refine ⟨_, rfl, ?_⟩
  dsimp only
  simp only [hf, Bool.false_and, if_false, Bool.false_eq_true]
  split
  · split
    · exact ⟨rfl, rfl, hin⟩
    · exact ⟨rfl, rfl, hin⟩
  · split
    · exact ⟨rfl, rfl, hin⟩
    · exact ⟨rfl, rfl, hin⟩

/-- A load that has been sent away is asked again of the pair that MOVED names (R387). -/
theorem msgMoved_again (hf : forwarded m.aux = false) {f : InFlight} (ha : (s.getC (tagCore m.aux)).awaits m.aux = some f)
    (hk : field m.payload 3 1 = 0) : ∃ t a, exec (.msgMoved m) s = .next t ∧ t.outbox = s.outbox ++ [a] ∧
      a.dst = (movedPair m).1 ∧ a.dvf = (movedPair m).2 ∧ a.kind = 0 ∧ a.va = m.va ∧ a.aux = m.aux ∧ a.payload = m.payload.drop 4 := by
  have ha' : ((ftcPut s (m.src, m.svf) (movedPair m)).getC (tagCore m.aux)).awaits m.aux = some f := ha
  have hexec : exec (.msgMoved m) s = .next (
      let t := (ftcPut s (m.src, m.svf) (movedPair m)).send m.dvf.toNat (field m.payload 0 2) (field m.payload 2 1) 0 m.va m.aux (m.payload.drop 4)
      { t with fabOut := (t.fabOut.filter fun q => q.aux ≠ m.aux) ++ t.outbox.getLast?.toList }) := by
    refine congrArg Host.Outcome.next ?_
    unfold movedPair at ha'
    simp only [hf, Bool.false_and, Bool.false_eq_true, if_false, hk, decide_true, Bool.true_or, if_true, ha', Option.isNone_some]
    rfl
  exact ⟨_, _, hexec, rfl, rfl, rfl, rfl, rfl, rfl, rfl⟩

/-- A reply that no word awaits leaves the cores, and its request is no longer kept. -/
theorem answerWord_ends (h : (s.getC (tagCore m.aux)).awaits m.aux = none) (l : List Byte) :
    (answerWord s m.aux l).cores = s.cores ∧ (answerWord s m.aux l).mem = s.mem ∧ ∀ o ∈ (answerWord s m.aux l).fabOut, o.aux ≠ m.aux := by
  rw [answerWord_none h]
  exact ⟨rfl, rfl, fun _ ho => not_mem_dropRequest ho⟩

/-- A reply changes the words in flight of its core only, and their number stays. -/
theorem answerWord_frame {f : InFlight} (h : (s.getC (tagCore m.aux)).awaits m.aux = some f) (l : List Byte) :
    (answerWord s m.aux l).mem = s.mem ∧
    ((answerWord s m.aux l).getC (tagCore m.aux)).flight.length = (s.getC (tagCore m.aux)).flight.length ∧
    ((answerWord s m.aux l).getC (tagCore m.aux)).named = (s.getC (tagCore m.aux)).named ∧
    ∀ j, j ≠ tagCore m.aux → (answerWord s m.aux l).getC j = s.getC j := by
  rw [answerWord_some h, State.getC_putC]
  exact ⟨rfl, List.length_map _, rfl, fun j hj => State.getC_putC_other _ _ _ _ hj⟩

/-- What the bytes of a reply give its word: an element of a queue, or a register's value. -/
theorem accessVal_queue {f : InFlight} {q : Nat} (h : f.dest = .opq q) (l : List Byte) : accessVal f l = elemBytes q l := by
  simp [accessVal, h]

theorem accessVal_scalar {f : InFlight} (h : ∀ q, f.dest ≠ .opq q) (hp : f.produces = true) (l : List Byte) :
    accessVal f l = .scalar (BitVec.ofNat 128 (leNat l)) := by
  unfold accessVal
  split
  · exact absurd ‹_› (h _)
  · exact if_pos hp

end

/-- Settles O51: the requests of peers by the branches of the access they share, the replies by the word that
awaits their tag. -/
theorem fabricMessages : Obligations.FabricMessages := by
  unfold Obligations.FabricMessages
  intro s m fn own r answers
  refine ⟨?loads, fun ht hf hb i hi => ?behind, fun ht hf hb he hv hq hp => ⟨?store, fun op old s2 hk hop => ⟨?atomic, ?acquire⟩⟩,
    fun i hi => ?reply, fun hf => ?cached, ?again, ?refusal⟩
  case loads =>
    rintro n rfl
    refine ⟨fun dev tfn ht => ?_, fun ht hf => ?_, fun ht hf hb he hn hv => ⟨fun l hl => ?_, fun code va hc => ?_⟩⟩
    · exact ⟨_, congrArg Host.Outcome.next (fabAccess_tomb ht ..), answers_replyMsg rfl .., rfl⟩
    · exact ⟨_, congrArg Host.Outcome.next (fabAccess_free ht hf ..), answers_replyMsg rfl .., rfl⟩
    · exact msgLoad_answers ⟨ht, hf, hb, he, hv⟩ hn ((fabCheck_load _).trans hl)
    · exact ⟨_, congrArg Host.Outcome.next (fabAccess_bad ⟨ht, hf, hb, he, hv⟩ hn ((fabCheck_load _).trans hc) _), answers_replyMsg rfl .., rfl⟩
  case behind =>
    have hk : KeepsAgents s (if s.fabWait.contains m then s else { s with fabWait := s.fabWait ++ [m] }) := .ite (.refl s) ⟨rfl, rfl, rfl⟩
    have hin : m ∈ (if s.fabWait.contains m then s else { s with fabWait := s.fabWait ++ [m] }).fabWait := by
      split
      · rename_i h
        simpa using h
      · simp
    have hmem : (if s.fabWait.contains m then s else { s with fabWait := s.fabWait ++ [m] }).mem = s.mem := by split <;> rfl
    rcases List.mem_cons.mp hi with rfl | hi
    · exact ⟨_, congrArg Host.Outcome.next (fabAccess_behind ht hf hb ..), hin, hk.outbox, hmem, hk.cores, hk.ctxs⟩
    · rw [List.mem_singleton.mp hi]
      exact ⟨_, congrArg Host.Outcome.next (fabAccess_behind ht hf hb ..), hin, hk.outbox, hmem, hk.cores, hk.ctxs⟩
  case store =>
    rintro n l s2 hk rfl hn hc hw
    exact msgStore_answers ⟨ht, hf, hb, he, hv⟩ hq hp hn ((fabCheck_store hk _).trans hc) hw
  case atomic =>
    subst hop
    intro hlt ty new _ hc
    obtain ⟨hnone, hsome⟩ := msgAtomic_answers ⟨ht, hf, hb, he, hv⟩ hq hp hlt ((fabCheck_atomic hk _).trans hc)
    exact ⟨hnone, fun l hl hw => hsome l s2 hl hw⟩
  case acquire =>
    subst hop
    intro hacq w holder hc
    have hexec := exec_msgAtomic_acquire ⟨ht, hf, hb, he, hv⟩ hacq ((fabCheck_atomic hk _).trans hc)
    refine ⟨fun hfree hw => ?_, fun hheld h10 => ?_, fun pa hheld h9 hpa => ?_⟩
    · rw [fabAcquire_free hfree] at hexec
      obtain ⟨hkeep, hmem⟩ := fabWrite_ok (r := endRequest s m) hw hq hp
      exact ⟨_, hexec, answers_replyMsg hkeep.outbox .., hmem⟩
    · rw [h10] at hexec
      exact ⟨_, hexec.trans (congrArg Host.Outcome.next (fabAcquire_tried hheld ..)), answers_replyMsg rfl .., rfl⟩
    · obtain ⟨e, hwait, h1, h2, h3, h4⟩ := fabAcquire_waits (m := m) (r := endRequest s m) hheld ((endRequest_paOf ..).trans hpa) (BitVec.ofNat 64 holder)
      rw [h9] at hexec
      exact ⟨_, e, hexec.trans (congrArg Host.Outcome.next hwait), congrArg (· ++ [e]) hq, h1, h2, h3, h4, rfl, rfl⟩
  case reply =>
    obtain ⟨l, hexec, hl⟩ : ∃ l, exec i s = .next (answerWord s m.aux l) ∧ (i ≠ .msgStoreAck m → l = m.payload) := by
      simp only [List.mem_cons, List.not_mem_nil, or_false] at hi
      rcases hi with rfl | rfl | rfl
      · exact ⟨_, rfl, fun _ => rfl⟩
      · exact ⟨_, rfl, fun _ => rfl⟩
      · exact ⟨_, rfl, fun h => absurd rfl h⟩
    refine ⟨fun h => ⟨_, hexec, answerWord_ends h l⟩, fun f h => ?_⟩
    obtain ⟨hmem, hlen, hnamed, hother⟩ := answerWord_frame h l
    refine ⟨_, replied s.now l f, hexec, hmem, replied_mem h l, rfl, rfl, rfl, rfl, fun hne => ⟨fun q hq => ?_, fun hq hp => ?_⟩, hlen, hnamed, hother⟩
    · rw [← hl hne]
      exact accessVal_queue hq l
    · rw [← hl hne]
      exact accessVal_scalar hq hp l
  case cached => exact msgMoved_cached hf
  case again => exact fun f hf ha hk => msgMoved_again hf ha hk
  case refusal =>
    intro c hc
    have hlen : ¬1 < m.payload.length := by simp [hc]
    have hhead : m.payload.headD cREFUSED = c := by rw [hc]; rfl
    have hexec : exec (.msgRefusal m) s = .next (if c = 0 then abandonWord s m.aux else failWord s m.aux m.va c) := by
      refine congrArg Host.Outcome.next ((if_neg hlen).trans ?_)
      rw [hhead]
    refine ⟨fun h => ?_, fun f hf h hpass hc0 hhalts => ?_, fun f h hc0 hfrom => ?_⟩
    · rw [abandonWord_none h, failWord_none h, ite_self] at hexec
      exact ⟨_, hexec, rfl, rfl, rfl⟩
    · rw [if_neg hc0, failWord_some hf h hpass] at hexec
      exact ⟨_, hexec, faultFlight_fault .., faultFlight_halt (s := dropRequest s m.aux) hhalts ..⟩
    · rw [if_pos hc0, abandonWord_some h] at hexec
      refine ⟨_, hexec, ?_, ?_, rfl, rfl⟩
      · rw [State.getC_putC]
        rfl
      · rw [State.getC_putC]
        exact abandonFrom_awaits hfrom

end Sys2Proof.Machine
end

section
/-! # The connections through failing operations and messages on their way (R386, R388, R389, R394)

What an operation, a lease or a collective does as it ends leaves the connections as they are; the halt line only
takes back what waits at them, and a message on its way only notes when it was sent. -/

namespace Sys2Proof.Machine

/-! ## Operations and halts leave the connections (R388) -/

/-- A loop whose every step leaves the connections leaves them. -/
theorem foldl_conns {α : Type} {f : State → α → State} {l : List α} {s : State} (hf : ∀ t a, (f t a).conns = t.conns) :
    (l.foldl f s).conns = s.conns :=
  List.foldlRecOn (motive := fun t : State => t.conns = s.conns) l f rfl fun _ ht a _ => (hf _ a).trans ht

@[simp] theorem State.modC_conns (s : State) (k : Nat) (f : Core → Core) : (s.modC k f).conns = s.conns := rfl
@[simp] theorem State.putO_conns (s : State) (x slot : Nat) (o : Op) : (s.putO x slot o).conns = s.conns := rfl

@[simp] theorem State.modO_conns (s : State) (x slot : Nat) (f : Op → Op) : (s.modO x slot f).conns = s.conns := by
  unfold State.modO
  split <;> rfl

@[simp] theorem State.imageCtx_conns (s : State) (x : Nat) : (s.imageCtx x).conns = s.conns := by
  obtain ⟨m, n, r, q, h⟩ := State.imageCtx_only s x
  exact (congrArg State.conns h).trans rfl

@[simp] theorem State.imageOp_conns (s : State) (x slot : Nat) : (s.imageOp x slot).conns = s.conns := by
  obtain ⟨m, n, r, q, h⟩ := State.imageOp_only s x slot
  exact (congrArg State.conns h).trans rfl

@[simp] theorem postEvent_conns (s : State) (x type code src : Nat) (va1 vb1 : W64) :
    (postEvent s x type code src va1 vb1).conns = s.conns := by
  obtain ⟨q, h⟩ | ⟨t, l, m, n, r, q, i, h⟩ := postEvent_only s x type code src va1 vb1
  · exact (congrArg State.conns h).trans rfl
  · exact (congrArg State.conns h).trans rfl

@[simp] theorem abortColl_conns (s : State) (x : Nat) (o : Op) (code : Byte) : (abortColl s x o code).conns = s.conns := by
  obtain ⟨b, h⟩ := abortColl_only s x o code
  exact (congrArg State.conns h).trans rfl

@[simp] theorem countResidue_conns (s : State) (fn : Nat) (code : Byte) (va : W64) : (countResidue s fn code va).conns = s.conns := by
  obtain ⟨d, h⟩ := countResidue_only s fn code va
  exact (congrArg State.conns h).trans rfl

@[simp] theorem setOpSt_conns (s : State) (x slot : Nat) (st : OpSt) : (setOpSt s x slot st).conns = s.conns := by
  simp [setOpSt]

@[simp] theorem retireOp_conns (s : State) (x slot : Nat) : (retireOp s x slot).conns = s.conns := by
  unfold retireOp
  split
  · rfl
  · dsimp only
    split_ifs <;> simp

@[simp] theorem orphanOp_conns (s : State) (x slot : Nat) : (orphanOp s x slot).conns = s.conns := by
  unfold orphanOp
  split
  · rfl
  · split_ifs <;> simp

@[simp] theorem tellWaiters_conns (s : State) (x : Nat) (o : Op) : (tellWaiters s x o).conns = s.conns := foldl_conns fun _ _ => rfl

@[simp] theorem afterFinish_conns (s : State) (x slot : Nat) : (afterFinish s x slot).conns = s.conns := by
  unfold afterFinish
  split
  · rfl
  · dsimp only
    split_ifs <;> simp

@[simp] theorem finishOp_conns (s : State) (x slot : Nat) (st : OpSt) (code : Byte) (index : W32) (addr : W64) :
    (finishOp s x slot st code index addr).conns = s.conns := by
  unfold finishOp
  split
  · rfl
  · dsimp only
    split_ifs <;> simp [releaseTiles, dropFaults, decideWaiting]

@[simp] theorem failOp_conns (s : State) (x slot : Nat) (code : Byte) (index : W32) (addr : W64) :
    (failOp s x slot code index addr).conns = s.conns := by
  simp [failOp]

@[simp] theorem modLease_conns (s : State) (x slot : Nat) (f : LeaseInfo → LeaseInfo) : (modLease s x slot f).conns = s.conns :=
  State.modO_conns ..

@[simp] theorem passEngine_conns (s : State) (e : Nat) : (passEngine s e).conns = s.conns := by
  unfold passEngine
  split
  · unfold holdEngine
    dsimp only
    split_ifs <;> simp
  · rfl

@[simp] theorem endLease_conns (s : State) (x slot : Nat) (st : OpSt) (code : Byte) : (endLease s x slot st code).conns = s.conns := by
  unfold endLease
  split
  · rfl
  · dsimp only
    split
    · simp [foldl_conns]
    · split_ifs
      · split <;> simp [foldl_conns]
      · simp [foldl_conns]
      · simp [foldl_conns]

@[simp] theorem settleLease_conns (s : State) (x slot : Nat) : (settleLease s x slot).conns = s.conns := by
  unfold settleLease
  split
  · split_ifs <;> simp
  · rfl

@[simp] theorem endCommand_conns (s : State) (x slot : Nat) (st : OpSt) (code : Byte) (index : W32) (addr : W64) :
    (endCommand s x slot st code index addr).conns = s.conns := by
  unfold endCommand
  split
  · rfl
  · simp

@[simp] theorem failColl_conns (s : State) (x slot : Nat) (code : Byte) (va : W64) : (failColl s x slot code va).conns = s.conns := by
  unfold failColl
  split <;> simp [sweepHeld]

@[simp] theorem lostArrive_conns (s : State) (k : Nat) : (lostArrive s k).conns = s.conns := by
  unfold lostArrive
  split
  · split_ifs <;> rfl
  · rfl

@[simp] theorem failDelivered_conns (s : State) (fn : Nat) (key : W64) : (failDelivered s fn key).conns = s.conns :=
  foldl_conns fun _ _ => failColl_conns ..

/-! ## What a change leaves of every connection (R388, R389) -/

/-- A part of every connection is as it was. -/
structure KeepsConn {α : Type} (p : Conn → α) (s t : State) : Prop where
  read : ∀ fn peer, p (t.conn fn peer) = p (s.conn fn peer)

section
variable {α : Type} {p : Conn → α} {s t u : State}

theorem KeepsConn.refl (s : State) : KeepsConn p s s := ⟨fun _ _ => rfl⟩

theorem KeepsConn.trans (h : KeepsConn p s t) (k : KeepsConn p t u) : KeepsConn p s u :=
  ⟨fun fn peer => (k.read fn peer).trans (h.read fn peer)⟩

theorem KeepsConn.of_conns (h : t.conns = s.conns) : KeepsConn p s t :=
  ⟨fun fn peer => by rw [State.conn, State.conn, h]⟩

/-- A change that comes after one that leaves the connections. -/
theorem KeepsConn.after (k : KeepsConn p t u) (h : t.conns = s.conns) : KeepsConn p s u := (KeepsConn.of_conns h).trans k

theorem KeepsConn.foldl {β : Type} {f : State → β → State} (hf : ∀ t b, KeepsConn p t (f t b)) (l : List β) (s : State) :
    KeepsConn p s (l.foldl f s) :=
  List.foldlRecOn (motive := fun t => KeepsConn p s t) l f (.refl s) fun _ ht b _ => ht.trans (hf _ b)

theorem KeepsConn.ite {c : Prop} {_ : Decidable c} (ha : KeepsConn p s t) (hb : KeepsConn p s u) : KeepsConn p s (if c then t else u) := by
  split
  · exact ha
  · exact hb

/-- A connection after a change that leaves the pairs that name connections. -/
theorem conn_map {g : Conn → Conn} (hfn : ∀ c, (g c).fn = c.fn) (hpeer : ∀ c, (g c).peer = c.peer) (h : t.conns = s.conns.map g) (fn peer : Nat) :
    t.conn fn peer = ((s.conns.find? fun c => c.fn = fn && c.peer = peer).map g).getD (Conn.fresh fn peer) := by
  unfold State.conn
  rw [h, List.find?_map]
  simp only [Function.comp_def, hfn, hpeer]

theorem KeepsConn.of_map {g : Conn → Conn} (hfn : ∀ c, (g c).fn = c.fn) (hpeer : ∀ c, (g c).peer = c.peer) (hp : ∀ c, p (g c) = p c)
    (h : t.conns = s.conns.map g) : KeepsConn p s t := by
  refine ⟨fun fn peer => ?_⟩
  rw [conn_map hfn hpeer h, State.conn]
  cases s.conns.find? fun c => c.fn = fn && c.peer = peer
  · rfl
  · exact hp _

/-- A connection reads as its change left it. -/
theorem conn_modConn (s : State) (fn peer : Nat) {f : Conn → Conn} (hfn : ∀ c, (f c).fn = c.fn) (hpeer : ∀ c, (f c).peer = c.peer) :
    (s.modConn fn peer f).conn fn peer = f (s.conn fn peer) := by
  unfold State.modConn
  split
  · rename_i hany
    rw [conn_map (s := s) (g := fun c => if c.fn = fn && c.peer = peer then f c else c) (fun c => by split <;> simp [hfn])
      (fun c => by split <;> simp [hpeer]) rfl, State.conn]
    rw [List.any_eq_true] at hany
    obtain ⟨c, hc⟩ := Option.isSome_iff_exists.mp (List.find?_isSome.mpr hany)
    have hpc := List.find?_some hc
    rw [hc]
    exact if_pos hpc
  · rename_i hany
    have hnone : (s.conns.find? fun c => c.fn = fn && c.peer = peer) = none := by
      rw [List.find?_eq_none]
      intro c hc hpc
      exact hany (List.any_eq_true.mpr ⟨c, hc, hpc⟩)
    unfold State.conn
    rw [List.find?_append, hnone]
    simp [hfn, hpeer, Conn.fresh]
end

/-! ## A failing message opens no connection (R389, R394) -/

theorem recallWaiting_closed (s : State) (k : Nat) : KeepsConn Conn.closed s (recallWaiting s k) := by
  unfold recallWaiting
  split
  · exact .refl s
  · exact .of_map (g := fun c => { c with waiting := c.waiting.filter fun m => !(connWaits s k).contains m.aux }) (fun _ => rfl) (fun _ => rfl)
      (fun _ => rfl) rfl

theorem raiseHalt_closed (s : State) (x : Nat) (first : BitVec 16) (code : Byte) : KeepsConn Conn.closed s (raiseHalt s x first code) := by
  obtain ⟨o, q, hw⟩ := withdrawAll_only s x
  have hrecall : KeepsConn Conn.closed s (recallAll (withdrawAll s x) x) :=
    .trans (.of_conns ((congrArg State.conns hw).trans rfl)) (.foldl (fun _ _ => recallWaiting_closed ..) _ _)
  exact .ite (.refl s) (hrecall.trans (.of_conns rfl))

theorem haltAt_closed (s : State) (k : Nat) (st : StreamId) (f : StopInfo) : KeepsConn Conn.closed s (haltAt s k st f) := by
  have hword (u : State) : KeepsConn Conn.closed u (haltWord u st f) := by
    unfold haltWord
    exact (raiseHalt_closed ..).after (countResidue_conns ..)
  have h := hword { s with cur := k }
  unfold haltAt
  revert h
  generalize haltWord { s with cur := k } st f = t
  exact fun h => ⟨h.read⟩

theorem faultFlight_closed (s : State) (k : Nat) (g : InFlight) (f : StopInfo) : KeepsConn Conn.closed s (faultFlight s k g f) :=
  (haltAt_closed ..).after rfl

theorem failWord_closed (s : State) (tag va : W64) (code : Byte) : KeepsConn Conn.closed s (failWord s tag va code) := by
  unfold failWord
  dsimp only
  split
  · exact .of_conns rfl
  · exact .ite (.of_conns rfl) ((faultFlight_closed ..).after rfl)

theorem failMsg_closed (s : State) (m : Msg) (code : Byte) : KeepsConn Conn.closed s (failMsg s m code) := by
  unfold failMsg
  dsimp only
  split
  iterate 3 exact .ite (.refl s) (failWord_closed ..)
  iterate 2
    split
    · exact .of_conns (failColl_conns ..)
    · exact .refl s
  · exact .ite (.of_conns (lostArrive_conns ..)) (.refl s)
  · exact .of_conns (failDelivered_conns ..)
  · exact .ite (.of_conns rfl) (.of_conns rfl)
  · exact .refl s

/-! ## A message on its way changes when it was sent, and nothing else of a connection (R386, R388) -/

section
variable {α : Type} {p : Conn → α} (hp : ∀ c t, p { c with sentAt := t } = p c)
include hp

theorem noteSent_keepsConn (s : State) (m : Msg) : KeepsConn p s (noteSent s m) := by
  unfold noteSent
  refine .ite (.refl s) (.of_map (fun c => ?_) (fun c => ?_) (fun c => ?_) rfl)
  · split <;> rfl
  · split <;> rfl
  · split
    · exact hp ..
    · rfl

theorem advanceHead_keepsConn {s t : State} {dst : BitVec 15} {m : Msg} (h : advanceHead s dst m = some t) : KeepsConn p s t := by
  unfold advanceHead at h
  split at h
  · split at h
    · cases h
      exact (noteSent_keepsConn hp ..).after rfl
    · cases h
  · split at h
    · cases h
      exact .of_conns rfl
    · cases h
  · cases h

theorem advanceQueue_keepsConn (key n : Nat) (s : State) : KeepsConn p s (advanceQueue key n s) := by
  induction n generalizing s with
  | zero => exact .refl s
  | succ n ih =>
    unfold advanceQueue
    split
    · exact .refl s
    · split
      · rename_i h
        exact (advanceHead_keepsConn hp h).trans ((ih _).after rfl)
      · exact .refl s

theorem emit_keepsConn (s : State) (m : Msg) : KeepsConn p s (emit s m) :=
  ((noteSent_keepsConn hp ..).trans (advanceQueue_keepsConn hp ..)).after rfl

theorem control_keepsConn (s : State) (fn peer : Nat) (svf epoch : Byte) (l : List Byte) : KeepsConn p s (control s fn peer svf epoch l) := by
  unfold control emitStamped stampAck
  dsimp only
  split
  · exact emit_keepsConn hp ..
  · exact (emit_keepsConn hp ..).after rfl
end

end Sys2Proof.Machine
end

section
/-! # Events of ports, connections and messages complete (O58; R172, R313, R355, R381-R384, R387-R401, R405, R461)

Each event has a lemma that says what it does in a state that meets its conditions. -/

namespace Sys2Proof.Machine

/-! ## Ports, slots and rings (R382-R384, R397, R400) -/

section
variable (s : State)

@[simp] theorem port_modPort (q : Nat) (f : Port → Port) : (s.modPort q f).port q = f (s.port q) := sget_sput_same ..

@[simp] theorem ring_modRing (f k : Nat) (g : Ring → Ring) : (s.modRing f k g).ring f k = g (s.ring f k) := sget_sput_same ..
end

/-- The head of a replay buffer is acknowledged alone. -/
theorem ackTo_head {p : Port} {a : BitVec 12} {f : BitVec 512} {rest : List (BitVec 12 × BitVec 512)} (h : p.buffer = (a, f) :: rest) (now : Nat) :
    p.ackTo now a = { p with buffer := rest, lastAck := now, fruitless := 0 } := by
  simp [Port.ackTo, h]

theorem resend_buffer (p : Port) (now : Nat) : (p.resend now).buffer = p.buffer := by
  unfold Port.resend
  split <;> rfl

theorem resend_sent {p : Port} (h : p.buffer ≠ []) (now : Nat) : (p.resend now).sent = p.sent ++ p.buffer.map (·.2) := by
  simp [Port.resend, h]

theorem ackTo_expect (p : Port) (now : Nat) (a : BitVec 12) : (p.ackTo now a).expect = p.expect := by
  unfold Port.ackTo
  split
  · rfl
  · dsimp only
    split <;> rfl

section
variable {s : State} {q : Nat}

theorem signalDetected_trains (hq : q < 28) (hst : (s.port q).st = .down) (hen : (s.port q).enable = true) :
    ∃ t, exec (.signalDetected q) s = .next t ∧ (t.port q).st = .training := by
  refine ⟨_, congrArg Host.Outcome.next (if_neg ?_), congrArg Port.st (port_modPort ..)⟩
  simp [hst, hen, hq]

theorem trainingEnd_carries {r : TrainResult} (hst : (s.port q).st = .training) (hin : r.inBound = true) (hgood : peerGood q r.peer = true)
    (hw : trainedWidth q (trainedBad s q r.bad) ≠ 0) :
    ∃ t, exec (.trainingEnd q r) s = .next t ∧ ((t.port q).st = .up ∨ (t.port q).st = .degraded) := by
  refine ⟨_, rfl, ?_⟩
  simp only [hst, hin, hgood]
  simp [hw, hst]
  tauto

theorem retrainPort_up (hst : (s.port q).st = .up) : ((retrainPort s q).port q).st = .retraining := by
  simp [retrainPort, hst, PortSt.carries]

theorem portEnableWrite_off (hq : q < 28) : ∃ t, exec (.portEnableWrite q false) s = .next t ∧ (t.port q).st = .down ∧ (t.port q).enable = false := by
  refine ⟨_, congrArg Host.Outcome.next (if_neg (by omega)), ?_⟩
  simp [Port.goDown]

theorem nakReceived_acks {a : BitVec 12} {f : BitVec 512} {rest : List (BitVec 12 × BitVec 512)} (hst : (s.port q).st = .up)
    (hb : (s.port q).buffer = (a, f) :: rest) : ∃ t, exec (.nakReceived q a) s = .next t ∧ (t.port q).buffer = rest := by
  refine ⟨_, congrArg Host.Outcome.next (if_pos (by simp [hst, PortSt.carries])), ?_⟩
  rw [port_modPort, resend_buffer, ackTo_head hb]

theorem replayTimeout_resends (hst : (s.port q).st = .up) (hb : (s.port q).buffer ≠ []) (ht : (s.port q).lastAck + 2048 ≤ s.now) :
    ∃ t, exec (.replayTimeout q) s = .next t ∧ (t.port q).sent = (s.port q).sent ++ (s.port q).buffer.map (·.2) := by
  refine ⟨_, congrArg Host.Outcome.next (if_pos (by simp [hst, hb, ht, PortSt.carries])), ?_⟩
  rw [port_modPort, resend_sent hb]

theorem flitReceived_expects {f : BitVec 512} (hq : q < 28) (hst : (s.port q).st = .up) (hok : flitOk f = true) (h0 : flitType f = 0)
    (hseq : flitSeq f = (s.port q).expect) :
    ∃ t, exec (.flitReceived q f) s = .next t ∧ (t.port q).expect = (s.port q).expect + 1 := by
  have hseq' : flitSeq f = ((s.modPort q fun p => p.ackTo s.now (flitAck f)).port q).expect := by rw [port_modPort, ackTo_expect, hseq]
  refine ⟨takeFlit (s.modPort q fun p => p.ackTo s.now (flitAck f)) q f, congrArg Host.Outcome.next ?_, ?_⟩
  · rw [if_neg (by simp [hq, hst, PortSt.carries]), if_neg (by simp [hok])]
    dsimp only
    rw [if_neg (by omega), if_neg (by omega), if_neg (not_not.mpr hseq')]
  · have htake (t : State) : ((takeFlit t q f).port q).expect = (t.port q).expect + 1 := by
      simp [takeFlit, h0, Port.sendCtl]
    rw [htake, port_modPort, ackTo_expect]
end

section
variable {s : State} {f k : Nat}

theorem osyncEdge_synced : ∃ t, exec .osyncEdge s = .next t ∧ t.slots.synced = true ∧ t.slots.next = some (s.now + s.slots.ofs.toNat) := by
  refine ⟨_, rfl, rfl, ?_⟩
  dsimp only
  split <;> rfl

theorem slotStart_rotates {n : Nat} (hn : s.slots.next = some n) (ht : n ≤ s.now) :
    ∃ t, exec .slotStart s = .next t ∧ t.slots.cur = 0 ∧ t.slots.slotStart = some s.now := by
  refine ⟨{ s with slots := startRotation s.slots s.now }, congrArg Host.Outcome.next ?_, rfl, rfl⟩
  dsimp only
  rw [hn]
  exact if_pos ht

theorem ringHeatWrite_heats (hf : f < 48) (hk : k < 18) (v : W32) :
    ∃ t, exec (.ringHeatWrite f k v) s = .next t ∧ (t.ring f k).dac = v.extractLsb' 0 12 ∧ (t.ring f k).settled = false := by
  refine ⟨_, congrArg Host.Outcome.next (if_neg ?_), ?_⟩
  · simp
    omega
  · simp

theorem ringSettled_settles (hf : f < 48) (hk : k < 18) (hs : (s.ring f k).settled = false) (ht : (s.ring f k).since + 12000 ≤ s.now) (adc : BitVec 12) :
    ∃ t, exec (.ringSettled f k adc) s = .next t ∧ (t.ring f k).settled = true := by
  refine ⟨_, congrArg Host.Outcome.next ((if_neg ?_).trans ((if_pos ?_).trans (if_pos ht))), ?_⟩
  · simp
    omega
  · simp [hs]
  · simp

theorem ringMapWrite_maps {v : W32} (hf : f < 48) (hk : k < 18) (hv : v.extractLsb' 4 2 = (2 : BitVec 2)) (hm : (s.ring f k).mode ≠ 2) :
    ∃ t, exec (.ringMapWrite f k v) s = .next t ∧ (t.ring f k).mode = 2 ∧ (t.ring f k).wave = v.extractLsb' 0 4 := by
  refine ⟨_, congrArg Host.Outcome.next (if_neg ?_), ?_⟩
  · rw [hv]
    simp [hf, hk]
    exact fun h => absurd h hm
  · dsimp only
    rw [ring_modRing, hv]
    exact ⟨rfl, rfl⟩
end

/-! ## Connections (R388, R389, R391) -/

section
variable {s : State} {fn peer : Nat}

theorem connopenTimeout_closes (hc : (s.conn fn peer).closed = false) (hst : (s.conn fn peer).st = .opening)
    (ht : (s.conn fn peer).since + (dcGet s 0x00502000).toNat ≤ s.now) :
    ∃ t, exec (.connopenTimeout fn peer) s = .next t ∧ (t.conn fn peer).closed = true := by
  refine ⟨closeOpening s fn peer, congrArg Host.Outcome.next (if_neg (by simpa [hc, hst] using ht)), ?_⟩
  unfold closeOpening
  dsimp only
  rw [(KeepsConn.foldl (fun _ _ => failMsg_closed ..) _ _).read]
  simp [conn_modConn]

theorem retransmission_retries {a : Msg} {r : List Msg} (hc : (s.conn fn peer).closed = false) (hu : (s.conn fn peer).unacked = a :: r)
    (hst : (s.conn fn peer).st = .openSt) (hq : oldestQueued s (s.conn fn peer) = false)
    (ht : sget 0 (s.conn fn peer).sentAt a.cseq.toNat + (dcGet s 0x00502004).toNat ≤ s.now)
    (hr : (s.conn fn peer).retries < max 1 (dcGet s 0x00502008).toNat) :
    ∃ t, exec (.retransmission fn peer) s = .next t ∧ (t.conn fn peer).retries = (s.conn fn peer).retries + 1 := by
  have hkeeps (t : State) (m : Msg) : KeepsConn Conn.retries t (if stillWaits t m then t else emit t m) :=
    .ite (.refl t) (emit_keepsConn (fun _ _ => rfl) t m)
  refine ⟨_, rfl, ?_⟩
  dsimp only
  simp only [hu]
  rw [if_neg (by simpa [hc, hst, hq] using ht), if_neg (by omega), (KeepsConn.foldl hkeeps _ _).read]
  simp [conn_modConn]

theorem connidleTimeout_drains (hc : (s.conn fn peer).closed = false) (hst : (s.conn fn peer).st = .openSt) (hw : (s.conn fn peer).waiting = [])
    (ht : (s.conn fn peer).lastUsed + (dcGet s 0x0050200C).toNat ≤ s.now) :
    ∃ t, exec (.connidleTimeout fn peer) s = .next t ∧ (t.conn fn peer).st = .draining :=
  ⟨_, congrArg Host.Outcome.next (if_neg (by simpa [hc, hst, hw] using ht)), by simp [conn_modConn]⟩

theorem openConn_opening (epoch : Byte) : ((openConn s fn peer epoch).conn fn peer).st = .opening := by
  unfold openConn
  dsimp only
  rw [(control_keepsConn (p := Conn.st) (fun _ _ => rfl) ..).read]
  simp [conn_modConn]

theorem connbackoffExpiry_opens (hc : (s.conn fn peer).closed = false) (hst : (s.conn fn peer).st = .reset)
    (ht : (s.conn fn peer).since + (dcGet s 0x00502010).toNat ≤ s.now) :
    ∃ t, exec (.connbackoffExpiry fn peer) s = .next t ∧ (t.conn fn peer).st = .opening :=
  ⟨_, congrArg Host.Outcome.next (if_neg (by simpa [hc, hst] using ht)), openConn_opening _⟩

theorem connectionDrained_closes (hc : (s.conn fn peer).closed = false) (hst : (s.conn fn peer).st = .draining) (hu : (s.conn fn peer).unacked = []) :
    ∃ t, exec (.connectionDrained fn peer) s = .next t ∧ (t.conn fn peer).closed = true :=
  ⟨_, congrArg Host.Outcome.next (if_neg (by simp [hc, hst, hu])), by simp [conn_modConn]⟩

theorem connectionSpill_spills (hw : wantsRecord s = true) (hc : (s.conn fn peer).spillable s = true)
    (hold : ∀ d ∈ s.conns, Conn.spillable s d = true → (s.conn fn peer).lastUsed ≤ d.lastUsed) :
    ∃ t, exec (.connectionSpill fn peer) s = .next t ∧ (t.conn fn peer).st = .spilled := by
  refine ⟨_, congrArg Host.Outcome.next (if_neg ?_), by simp [conn_modConn]⟩
  simpa [hw, hc] using hold

/-- The ACCEPT of the epoch that opens (R389, assumption 17). -/
theorem msgConnectionControl_accepts {m : Msg} (hm : m.payload = [2, (s.conn m.dvf.toNat m.src.toNat).epoch])
    (hc : (s.conn m.dvf.toNat m.src.toNat).closed = false) (hst : (s.conn m.dvf.toNat m.src.toNat).st = .opening) :
    ∃ t, exec (.msgConnectionControl m) s = .next t ∧ (t.conn m.dvf.toNat m.src.toNat).st = .openSt := by
  refine ⟨_, rfl, ?_⟩
  dsimp only
  simp only [hm]
  simp [hc, hst, conn_modConn]
end

/-! ## Messages (R313, R353, R392, R405) -/

section
variable {s : State} {m : Msg}

theorem msgContextTransfer_ready {r : List Byte} (hm : m.payload = 0 :: r) (h : readyFor s m = true) :
    ∃ t a, exec (.msgContextTransfer m) s = .next t ∧ t.outbox = s.outbox ++ [a] ∧ a.kind = 12 ∧ a.dst = m.src ∧ a.payload = [1] := by
  refine ⟨s.send m.dvf.toNat m.src.toNat m.svf.toNat 12 0 0 [1], _, congrArg Host.Outcome.next ?_, State.send_outbox .., rfl, ?_, rfl⟩
  · rw [hm]
    exact if_pos h
  · simp

/-- No table of the function's contexts has the ID of the message: it may yet be registered. -/
def NoTable (s : State) (m : Msg) : Prop := ∀ e ∈ s.ctxs, e.2.st ≠ .free → e.2.fn = m.dvf.toNat → e.2.pg? (m.aux.extractLsb' 32 32) = none

theorem mem_sweepHeld (hm : m ∈ s.collHeld) (h : NoTable s m) : m ∈ (sweepHeld s).collHeld := by
  refine List.mem_filter.mpr ⟨hm, ?_⟩
  have htabs : (s.ctxs.filterMap fun e =>
      if e.2.st ≠ .free && e.2.fn = m.dvf.toNat then (e.2.pg? (m.aux.extractLsb' 32 32)).map fun t => (e.2, t) else none) = [] := by
    rw [List.filterMap_eq_nil_iff]
    intro e he
    split
    · rename_i hc
      simp only [Bool.and_eq_true, decide_eq_true_eq] at hc
      rw [h e he hc.1 hc.2]
      rfl
    · rfl
  dsimp only
  rw [htabs]
  rfl

theorem keepColl_holds (hk : collByKey s m.dvf.toNat m.aux = none) (h : NoTable s m) : m ∈ (keepColl s m).collHeld := by
  have hkey : collByKey (sweepHeld { s with collHeld := s.collHeld ++ [m] }) m.dvf.toNat m.aux = none := hk
  unfold keepColl
  dsimp only
  rw [hkey]
  exact mem_sweepHeld (List.mem_append_right _ (List.mem_singleton_self m)) h
end

/-! ## An arrival of a member at the home (R313, R322) -/

/-- The number that four bytes of its own hold. -/
theorem leNat_leBytes_four {n : Nat} (h : n < 2 ^ 32) : leNat (leBytes 4 n) = n := by
  simp [leBytes, leNat, List.range_succ]
  omega

/-- The second word of a barrier message. -/
theorem field_barPayload (code epoch : Byte) (gen : BitVec 16) (a b : W32) : field (barPayload code epoch gen a b) 8 4 = b.toNat :=
  leNat_leBytes_four b.isLt

theorem State.getBar_putBar (s : State) (x b : Nat) (e : Barrier) : (s.putBar x b e).getBar x b = e := by
  obtain ⟨m, n, r, q, h⟩ := State.putBar_only s x b e
  rw [h]
  unfold State.getBar State.getX State.modX State.withDev
  rw [sget_sput_same, sget_sput_same]

/-- An entry with one arrival more. -/
def Barrier.counted (e : Barrier) : Barrier := { e with arrived := e.arrived + 1 }

/-- An arrival that is not the last is counted. -/
theorem Barrier.arrive_more {e : Barrier} (hst : e.st = .openSt) (h : e.arrived.toNat + 1 < e.expect.toNat) :
    e.arrive = some (e.counted, e.counted.word) := by
  unfold Barrier.arrive
  rw [hst]
  dsimp only
  rw [if_pos h, ← hst]
  rfl

section
variable {s : State} {m : Msg}

theorem homeEvent_more {x b : Nat} (hst : (s.getBar x b).st = .openSt) (h : (s.getBar x b).arrived.toNat + 1 < (s.getBar x b).expect.toNat) :
    ∃ t w, homeEvent s x b false = some (t, w) ∧ t.getBar x b = (s.getBar x b).counted := by
  have hopen : (s.getBar x b).counted.st = .openSt := hst
  have hcast (u : State) : castComplete u x b (s.getBar x b) (s.getBar x b).counted = u := by
    simp [castComplete, hopen]
  have hchange : changeBar s x b (s.getBar x b).counted =
      wakeBar (s.putBar x b (s.getBar x b).counted) x b (s.getBar x b).counted false := by
    simp [changeBar, hopen]
  unfold homeEvent
  dsimp only
  rw [if_neg Bool.false_ne_true, Barrier.arrive_more hst h, Option.map_some, hchange, hcast]
  exact ⟨_, _, rfl, State.getBar_putBar ..⟩

theorem msgBarrier_arrives {x b : Nat} {core : W32} (hb : b < 1024) (hst : (s.getBar x b).st = .openSt)
    (harr : (s.getBar x b).arrived.toNat + 1 < (s.getBar x b).expect.toNat) (haux : m.aux = (s.getBar x b).pgid.setWidth 64)
    (hpay : m.payload = barPayload 2 (s.getBar x b).epoch (s.getBar x b).gen core (BitVec.ofNat 32 b))
    (hhome : barHome s m.dvf.toNat b (s.getBar x b).pgid = some x) (hmoved : movedAway s m.dvf.toNat = none) (hwait : s.fabWait.contains m = true) :
    ∃ t, exec (.msgBarrier m) s = .next t ∧ t.getBar x b = (s.getBar x b).counted := by
  have hcode : (m.payload.headD 0xFF).toNat = 2 := by
    rw [hpay]
    rfl
  have hfield : field m.payload 8 4 = b := by
    rw [hpay, field_barPayload]
    simp
    omega
  have hid : (m.aux.setWidth 32 : W32) = (s.getBar x b).pgid := by
    rw [haux]
    simp
  obtain ⟨t, w, hevent, hbar⟩ := homeEvent_more (s := { s with fabWait := s.fabWait.filter fun w => w ≠ m }) hst harr
  have harrive : fabArrive s m false = t.send m.dvf.toNat m.src.toNat m.svf.toNat 7 m.va ((m.aux.setWidth 32 : W32).setWidth 64)
      (barPayload 4 0 0 w (BitVec.ofNat 32 (field m.payload 4 4))) := by
    have hhome' : barHome { s with fabWait := s.fabWait.filter fun w => w ≠ m } m.dvf.toNat (field m.payload 8 4) (m.aux.setWidth 32) = some x := by
      rw [hfield, hid]
      exact hhome
    unfold fabArrive
    dsimp only
    rw [hwait, if_neg (by decide), hhome', hfield, Option.bind_some, hevent]
  refine ⟨fabArrive s m false, congrArg Host.Outcome.next ?_, ?_⟩
  · dsimp only
    rw [hmoved, hcode]
    rfl
  · rw [harrive]
    exact hbar
end

/-! ## A delivery to a shard (R405) -/

theorem shardKeyOf_toNat {step n unit : Nat} (hs : step < 2 ^ 32) (hn : n < 1024) (hu : unit < 2 ^ 18) :
    (shardKeyOf step n unit).toNat = step * 2 ^ 32 + n * 2 ^ 18 + unit := by
  unfold shardKeyOf
  rw [BitVec.toNat_ofNat, Nat.mod_eq_of_lt hs, Nat.mod_eq_of_lt hn, Nat.mod_eq_of_lt hu, Nat.mod_eq_of_lt (by omega)]

section
variable {n unit : Nat} (step : W32) (hn : n < 1024) (hu : unit < 2 ^ 18)
include hn hu

theorem shardKeyOf_shard : ((shardKeyOf step.toNat n unit).extractLsb' 18 10).toNat = n := by
  rw [BitVec.extractLsb'_toNat, shardKeyOf_toNat step.isLt hn hu, Nat.shiftRight_eq_div_pow]
  omega

theorem shardKeyOf_unit : ((shardKeyOf step.toNat n unit).extractLsb' 0 18).toNat = unit := by
  rw [BitVec.extractLsb'_toNat, shardKeyOf_toNat step.isLt hn hu, Nat.shiftRight_eq_div_pow]
  omega

theorem shardKeyOf_step : (shardKeyOf step.toNat n unit).extractLsb' 32 32 = step := by
  apply BitVec.eq_of_toNat_eq
  have := step.isLt
  rw [BitVec.extractLsb'_toNat, shardKeyOf_toNat step.isLt hn hu, Nat.shiftRight_eq_div_pow]
  omega
end

theorem State.devWrite_shards (s : State) (fn : Nat) (va : W64) (l : List Byte) : (s.devWrite fn va l).shards = s.shards := by
  obtain ⟨m, n, r, q, h⟩ := State.devWrite_only s fn va l
  exact (congrArg State.shards h).trans rfl

theorem State.devMerge_shards (s : State) (fn : Nat) (va : W64) (keep bits : Byte) : (s.devMerge fn va keep bits).shards = s.shards := by
  obtain ⟨m, n, r, q, h⟩ := State.devMerge_only s fn va keep bits
  exact (congrArg State.shards h).trans rfl

theorem State.getShard_putShard (s : State) (fn n : Nat) (h : Shard) : (s.putShard fn n h).getShard fn n = h := by
  unfold State.getShard State.putShard imageShard
  simp only [State.devWrite_shards, State.devMerge_shards]
  exact sget_sput_same ..

section
variable {s : State} {fn n : Nat} {c : ShardCfg} (hcfg : shardCfg (s.getShard fn n).capture = c)
include hcfg

/-- A contribution of an armed shard that has not come before. -/
theorem contribute_accepted {s2 : State} {chunk : Nat} {vals : List Byte} (hst : (s.getShard fn n).st = .armed) (hchunk : chunk < c.chunks)
    (hn : 0 < c.ncontrib) (hnew : bmIndex c chunk 0 ∉ (s.getShard fn n).bitmap) (hlen : vals.length = 4 * c.chunk)
    (hw : writeVa s .device fn (c.grad + BitVec.ofNat 64 (4 * (chunk * c.chunk))) vals = .ok s2) :
    ∃ t, contribute s fn n (s.getShard fn n).step chunk 0 vals = (t, .accepted) ∧ (t.getShard fn n).narrived = (s.getShard fn n).narrived + 1 := by
  unfold contribute
  dsimp only
  rw [hcfg, if_neg (by simp [hst]), if_neg (by simp [hnew]), if_neg (by simp [hst]; omega), ← hlen, List.take_length, Nat.zero_mul, Nat.zero_add, hw]
  exact ⟨_, rfl, by rw [State.getShard_putShard]⟩

/-- One chunk of a reduced share, delivered to the shard that awaits it. -/
theorem deliverShare_chunk {t : State} {unit : Nat} {vals : List Byte} (hn : n < 1024) (hunit : unit < 2 ^ 18) (htab : shardTable s fn ≠ 0)
    (hcap : (s.getShard fn n).capture ≠ []) (hpos : 0 < c.chunk) (halign : 64 * unit % c.chunk = 0) (hlen : vals.length = 4 * c.chunk)
    (hacc : contribute s fn n (s.getShard fn n).step (64 * unit / c.chunk) 0 vals = (t, .accepted)) :
    deliverShare s fn c.nparam (shardKeyOf (s.getShard fn n).step.toNat n unit) vals = (t, false) := by
  have hmine : ¬(shardTable s fn = 0 || (s.getShard fn n).capture = [] || c.nparam ≠ c.nparam || 64 * unit % c.chunk ≠ 0 ||
      vals.length % (4 * c.chunk) ≠ 0) = true := by
    rw [hlen]
    simp [hcap, halign]
    exact htab
  unfold deliverShare
  dsimp only
  rw [shardKeyOf_shard _ hn hunit, shardKeyOf_unit _ hn hunit, shardKeyOf_step _ hn hunit, hcfg, if_neg hmine, ← hlen,
    Nat.div_self (by omega), contributeAll, List.take_length, hacc]
  rfl
end

/-- Settles O58: a lemma for each event says its effect; the accesses and replies are those of O51. -/
theorem fabricEventsComplete : Obligations.FabricEventsComplete := by
  unfold Obligations.FabricEventsComplete
  intro s q fn peer m ok p c dfn own answers served
  have hserved (h : served) : Served s m ∧ s.lockQ = [] ∧ NoPromotion s dfn := by
    obtain ⟨ht, hf, hb, he, hv, hq, hp⟩ := h
    exact ⟨⟨ht, hf, hb, he, hv⟩, hq, hp⟩
  have hheld {m' : Msg} (hk : collByKey s dfn m.aux = none) (hnone : ∀ e ∈ s.ctxs, e.2.st ≠ .free → e.2.fn = dfn → e.2.pg? (m.aux.extractLsb' 32 32) = none)
      (haux : m'.aux = m.aux) (hdvf : m'.dvf = m.dvf) : m' ∈ (keepColl s m').collHeld := by
    refine keepColl_holds (by rw [haux, hdvf]; exact hk) ?_
    unfold NoTable
    rw [haux, hdvf]
    exact hnone
  refine ⟨fun hq => ⟨?detect, ?train, ?retrain, ?disable, ?replay, ?flit⟩, ?edge, ?slot, ?commit, fun f k v adc hf hk => ⟨?heat, ?settle, ?map⟩,
    fun hc => ⟨?opening, ?resend, ?idle, ?backoff, ?drained, ?spill⟩, ?accept, ?load, ?store, ?acquire, ?reply, ?moved, ?refusal, ?barrier, ?transfer,
    ?held, ?shard⟩
  case detect => exact fun hst hen => signalDetected_trains hq hst hen
  case train => exact fun r hst hin hgood hw => trainingEnd_carries hst hin hgood hw
  case retrain => exact fun hst => ⟨⟨_, rfl, retrainPort_up hst⟩, ⟨_, rfl, retrainPort_up hst⟩⟩
  case disable => exact portEnableWrite_off hq
  case replay =>
    intro a f rest hst hb
    exact ⟨nakReceived_acks hst hb, fun ht => replayTimeout_resends hst (by rw [hb]; exact List.cons_ne_nil _ _) ht⟩
  case flit => exact fun f hst hok h0 hseq => flitReceived_expects hq hst hok h0 hseq
  case edge => exact osyncEdge_synced
  case slot => exact fun n hn ht => slotStart_rotates hn ht
  case commit => exact ⟨_, rfl, rfl⟩
  case heat => exact ringHeatWrite_heats hf hk v
  case settle => exact fun _ hs ht => ringSettled_settles hf hk hs ht adc
  case map => exact fun hv hm => ringMapWrite_maps hf hk hv hm
  case opening => exact fun hst ht => connopenTimeout_closes hc hst ht
  case resend => exact fun a r hu hst hq ht hr => retransmission_retries hc hu hst hq ht hr
  case idle => exact fun hst hw ht => connidleTimeout_drains hc hst hw ht
  case backoff => exact fun hst ht => connbackoffExpiry_opens hc hst ht
  case drained => exact fun hst hu => connectionDrained_closes hc hst hu
  case spill => exact fun hw hs hold => connectionSpill_spills hw hs hold
  case accept => exact fun hm hc hst => msgConnectionControl_accepts hm hc hst
  case load =>
    rintro n l h rfl hn hl
    obtain ⟨hs, -, -⟩ := hserved h
    obtain ⟨t, hexec, ha, -, -⟩ := msgLoad_answers hs hn ((fabCheck_load _).trans hl)
    exact ⟨t, hexec, ha⟩
  case store =>
    rintro n l s2 h hk rfl hn hl hw
    obtain ⟨hs, hq, hp⟩ := hserved h
    obtain ⟨t, hexec, ha, hmem, -⟩ := msgStore_answers hs hq hp hn ((fabCheck_store hk _).trans hl) hw
    exact ⟨t, hexec, ha, hmem⟩
  case acquire =>
    intro old h hk h10 hc hlock
    have hexec := exec_msgAtomic_acquire (hserved h).1 (.inr h10) ((fabCheck_atomic hk _).trans hc)
    rw [h10] at hexec
    exact ⟨_, hexec.trans (congrArg Host.Outcome.next (fabAcquire_tried hlock ..)), answers_replyMsg rfl ..⟩
  case reply =>
    intro i hi f hf
    obtain ⟨l, hexec⟩ : ∃ l, exec i s = .next (answerWord s m.aux l) := by
      simp only [List.mem_cons, List.not_mem_nil, or_false] at hi
      rcases hi with rfl | rfl | rfl
      · exact ⟨_, rfl⟩
      · exact ⟨_, rfl⟩
      · exact ⟨_, rfl⟩
    exact ⟨_, hexec, _, replied_mem hf l, rfl, rfl, rfl⟩
  case moved =>
    intro f hf ha hk
    obtain ⟨t, a, hexec, hout, hdst, -, -, -, -, hpay⟩ := msgMoved_again hf ha hk
    exact ⟨t, hexec, a, hout, hdst, hpay⟩
  case refusal =>
    intro f ha hm
    have hexec : exec (.msgRefusal m) s = .next (abandonWord s m.aux) := by
      refine congrArg Host.Outcome.next ?_
      rw [hm]
      rfl
    refine ⟨_, hexec, ?_⟩
    rw [abandonWord_some ha]
    dsimp only
    rw [State.getC_putC]
    rfl
  case barrier =>
    intro x b core e _ hb _ _ hst harr _ haux hpay hhome hmoved hwait
    exact msgBarrier_arrives hb hst harr haux hpay hhome hmoved hwait
  case transfer =>
    intro r hm h
    obtain ⟨t, a, hexec, ha⟩ := msgContextTransfer_ready hm h
    exact ⟨t, hexec, a, ha⟩
  case held =>
    intro hk hnone hva
    exact ⟨⟨_, rfl, hheld hk hnone rfl rfl⟩, ⟨_, congrArg Host.Outcome.next (if_neg hva), hheld hk hnone rfl rfl⟩,
      ⟨_, rfl, hheld hk hnone rfl rfl⟩, ⟨_, rfl, hheld hk hnone rfl rfl⟩⟩
  case shard =>
    intro step n unit s2 h c chunk haux hn hunit htab hcap hcount hpos halign hlen hstep hst hchunk hcontrib hnew hw
    obtain ⟨t, hacc, hcounted⟩ := contribute_accepted (s := s) (fn := dfn) (n := n) (c := c) rfl hst hchunk hcontrib hnew hlen hw
    have hdeliver := deliverShare_chunk rfl hn hunit htab hcap hpos halign hlen hacc
    refine ⟨t, congrArg Host.Outcome.next ?_, hcounted⟩
    dsimp only
    rw [haux, hstep, hcount, hdeliver]
    rfl

end Sys2Proof.Machine
end

section
/-! The tile words of X on whole tiles and tile images (R194, R200-R204, R206-R210, R285), and from that the statement O23. First the codes of
a run of bytes and where an element stands in its tile, then what the delivery of a write leaves in its tile, then one word after another. -/

namespace Sys2Proof.Machine

/-! ## Codes in a run of bytes (R8, R201) -/

theorem sget_skeep {α : Type} (d : α) (m : Sparse α) (p : Nat → Bool) (j : Nat) : sget d (skeep m p) j = if p j then sget d m j else d := by
  unfold skeep
  induction m with
  | nil => simp [sget]
  | cons e l ih =>
    obtain ⟨a, b⟩ := e
    by_cases ha : p a = true
    · rw [List.filter_cons_of_pos (by exact ha), sget, sget, ih]
      by_cases hj : j = a
      · simp [hj, ha]
      · simp [hj]
    · rw [List.filter_cons_of_neg (by exact ha), ih, sget]
      by_cases hj : j = a
      · simp [hj, ha]
      · simp [hj]

theorem leBytes_succ (n v : Nat) : leBytes (n + 1) v = BitVec.ofNat 8 v :: leBytes n (v / 256) := by
  unfold leBytes
  rw [List.range_succ_eq_map, List.map_cons, List.map_map]
  simp [Function.comp_def, Nat.pow_succ', Nat.div_div_eq_div_mul]

theorem leNat_leBytes (n v : Nat) : leNat (leBytes n v) = v % 256 ^ n := by
  induction n generalizing v with
  | zero => rw [Nat.pow_zero, Nat.mod_one]; rfl
  | succ n ih => rw [leBytes_succ, leNat, ih, BitVec.toNat_ofNat, Nat.pow_succ' (m := 256), Nat.mod_mul]

/-- The width of an element (R38). -/
def ElemWidth (bits : Nat) : Prop := bits = 4 ∨ bits = 8 ∨ bits = 16 ∨ bits = 32

theorem ElemWidth.pow {bits : Nat} (h : ElemWidth bits) (h4 : bits ≠ 4) : 256 ^ (bits / 8) = 2 ^ bits := by
  rcases h with rfl | rfl | rfl | rfl
  · exact absurd rfl h4
  all_goals rfl

theorem ElemWidth.two_pow_dvd {bits : Nat} (h : ElemWidth bits) : 2 ^ bits ∣ 2 ^ 32 :=
  Nat.pow_dvd_pow 2 (by rcases h with rfl | rfl | rfl | rfl <;> omega)

theorem elemAt_lt {bits : Nat} (h : ElemWidth bits) (byte : Nat → Byte) (e : Nat) : elemAt byte bits e < 2 ^ bits := by
  unfold elemAt
  by_cases h4 : bits = 4
  · have hb := (byte (e / 2)).isLt
    subst h4
    rw [if_pos rfl]
    dsimp only
    split_ifs <;> omega
  · rw [if_neg h4, ← h.pow h4]
    simpa using leNat_lt ((List.range (bits / 8)).map fun i => byte (bits / 8 * e + i))

/-- The bytes of element e are below the bytes that e + 1 elements take. -/
theorem elemAt_congr {bits e : Nat} (h : ElemWidth bits) {f g : Nat → Byte} (hfg : ∀ i, i < (bits * (e + 1) + 7) / 8 → f i = g i) :
    elemAt f bits e = elemAt g bits e := by
  unfold elemAt
  by_cases h4 : bits = 4
  · subst h4
    rw [if_pos rfl, if_pos rfl, hfg _ (by omega)]
  · rw [if_neg h4, if_neg h4]
    refine congrArg leNat (List.map_congr_left fun i hi => hfg _ ?_)
    have hi := List.mem_range.mp hi
    rcases h with rfl | rfl | rfl | rfl <;> omega

/-- A code written is read back cut to its width, and every other code stays. -/
theorem elemAt_putElem {bits : Nat} (h : ElemWidth bits) (m : Sparse Byte) (e j : Nat) (v : W32) :
    elemAt (fun i => sget 0 (putElem m bits e v) i) bits j = if j = e then v.toNat % 2 ^ bits else elemAt (fun i => sget 0 m i) bits j := by
  by_cases h4 : bits = 4
  · subst h4
    have hb := (sget 0 m (e / 2)).isLt
    simp only [elemAt, putElem, if_true, sget_sset]
    by_cases hbyte : j / 2 = e / 2
    · rw [if_pos hbyte, hbyte, BitVec.toNat_ofNat]
      by_cases hj : j = e
      · subst hj
        by_cases hpar : j % 2 = 0 <;> simp only [hpar, if_true, if_false] <;> omega
      · rw [if_neg hj]
        by_cases hpar : e % 2 = 0
        · rw [if_pos hpar, if_neg (by omega), if_neg (by omega)]
          omega
        · rw [if_neg hpar, if_pos (by omega), if_pos (by omega)]
          omega
    · rw [if_neg hbyte, if_neg fun hj => hbyte (congrArg (· / 2) hj)]
  · simp only [elemAt, putElem, if_neg h4, sget_ssetList, leBytes_length]
    by_cases hj : j = e
    · subst hj
      rw [if_pos rfl, ← h.pow h4, ← leNat_leBytes]
      refine congrArg leNat (List.ext_getElem (by simp [leBytes_length]) fun i hi _ => ?_)
      have hi : i < bits / 8 := by simpa using hi
      rw [List.getElem_map, List.getElem_range, if_pos (by omega), Nat.add_sub_cancel_left, List.getD_eq_getElem _ _ (by rwa [leBytes_length])]
    · rw [if_neg hj]
      refine congrArg leNat (List.map_congr_left fun i hi => if_neg ?_)
      have hi := List.mem_range.mp hi
      rcases h with rfl | rfl | rfl | rfl <;> omega

/-! ## Where an element stands (R68, R200) -/

theorem TShape.elemWidth {sh : TShape} (hu : sh.usable = true) : ElemWidth sh.bits := by
  have het : etAssigned sh.et = true := by
    unfold TShape.usable at hu
    simp only [Bool.and_eq_true] at hu
    obtain ⟨⟨het, -⟩, -⟩ := hu
    exact het
  have hall : ∀ t ∈ [0, 1, 2, 4, 5, 6, 8, 9, 0xA, 0xB, 0xC, 0xD, 0x10, 0x11, 0x12],
      etBits t = 4 ∨ etBits t = 8 ∨ etBits t = 16 ∨ etBits t = 32 := by decide
  exact hall _ (List.contains_iff_mem.mp het)

/-- A blocked shape is made of whole blocks. -/
theorem TShape.blocked_whole {sh : TShape} (hu : sh.usable = true) (hb : sh.blocked = true) : sh.rows % 8 = 0 ∧ sh.cols % 8 = 0 := by
  unfold TShape.usable at hu
  by_cases hs : sh.sb = true <;> simp_all

/-- A number below n beside a multiple of n. -/
theorem add_mul_inj {n a b a' b' : Nat} (hb : b < n) (hb' : b' < n) (h : a * n + b = a' * n + b') : a = a' ∧ b = b' := by
  have hn : 0 < n := by omega
  obtain ⟨hdiv, hmod⟩ := (Nat.div_mod_unique hn).mpr ⟨show b + n * a = a * n + b by rw [Nat.mul_comm, Nat.add_comm], hb⟩
  obtain ⟨hdiv', hmod'⟩ := (Nat.div_mod_unique hn).mpr ⟨show b' + n * a' = a' * n + b' by rw [Nat.mul_comm, Nat.add_comm], hb'⟩
  exact ⟨by rw [← hdiv, h, hdiv'], by rw [← hmod, h, hmod']⟩

theorem add_mul_lt {m n a b : Nat} (ha : a < m) (hb : b < n) : a * n + b < m * n :=
  calc a * n + b < a * n + n := by omega
    _ = (a + 1) * n := by rw [Nat.add_mul, Nat.one_mul]
    _ ≤ m * n := Nat.mul_le_mul_right n ha

/-- Two elements of a shape have two indexes. -/
theorem TShape.idx_inj {sh : TShape} (hu : sh.usable = true) {r k r' k' : Nat} (hk : k < sh.cols) (hk' : k' < sh.cols)
    (h : sh.idx r k = sh.idx r' k') : r = r' ∧ k = k' := by
  unfold TShape.idx at h
  by_cases hb : sh.blocked = true
  · obtain ⟨-, hcols⟩ := TShape.blocked_whole hu hb
    rw [if_pos hb, if_pos hb] at h
    obtain ⟨hrow, hcol⟩ := add_mul_inj (n := sh.cols / 8) (a := r / 8) (a' := r' / 8) (b := k / 8) (b' := k' / 8) (by omega) (by omega) (by omega)
    omega
  · rw [if_neg hb, if_neg hb] at h
    exact add_mul_inj hk hk' h

section
variable {sh : TShape} (hu : sh.usable = true) {r k : Nat} (hr : r < sh.rows) (hk : k < sh.cols)
include hu hr hk

theorem TShape.idx_lt : sh.idx r k < sh.rows * sh.cols := by
  unfold TShape.idx
  by_cases hb : sh.blocked = true
  · obtain ⟨hrows, hcols⟩ := TShape.blocked_whole hu hb
    obtain ⟨m, hm⟩ := Nat.dvd_of_mod_eq_zero hrows
    obtain ⟨n, hn⟩ := Nat.dvd_of_mod_eq_zero hcols
    have hblock := add_mul_lt (m := m) (n := n) (a := r / 8) (b := k / 8) (by omega) (by omega)
    have hsize : sh.rows * sh.cols = 64 * (m * n) := by rw [hm, hn]; ring
    rw [if_pos hb, hsize, hn, Nat.mul_div_cancel_left _ (by decide)]
    omega
  · rw [if_neg hb]
    exact add_mul_lt hr hk

/-- The bytes of an element are bytes of the image. -/
theorem TShape.elem_bytes_le : (sh.bits * (sh.idx r k + 1) + 7) / 8 ≤ sh.elemBytes := by
  have hle : sh.bits * (sh.idx r k + 1) ≤ sh.bits * (sh.rows * sh.cols) := Nat.mul_le_mul_left _ (TShape.idx_lt hu hr hk)
  rw [TShape.elemBytes, Nat.mul_comm (sh.rows * sh.cols)]
  omega

end

/-! ## What a delivered write leaves in its tile (R201, R202) -/

/-- The element writes that give each cell of a list its code. -/
def cellWrites (sh : TShape) (cells : List (Nat × Nat)) (code : Nat → Nat → W32) : List (Nat × W32) :=
  cells.map fun p => (sh.idx p.1 p.2, code p.1 p.2)

/-- An element that no write addresses. -/
theorem elemAt_putElems_other {bits : Nat} (h : ElemWidth bits) {e : Nat} {es : List (Nat × W32)} (he : ∀ w ∈ es, w.1 ≠ e) (m : Sparse Byte) :
    elemAt (fun i => sget 0 (es.foldl (fun m w => putElem m bits w.1 w.2) m) i) bits e = elemAt (fun i => sget 0 m i) bits e := by
  induction es generalizing m with
  | nil => rfl
  | cons w es ih =>
    rw [List.foldl_cons, ih (fun w' hw' => he w' (List.mem_cons_of_mem _ hw')), elemAt_putElem h, if_neg (Ne.symm (he w List.mem_cons_self))]

/-- A cell that the writes list has its code, every other one what it held. -/
theorem elemAt_cellWrites {sh : TShape} (hu : sh.usable = true) {r k : Nat} (hk : k < sh.cols) {cells : List (Nat × Nat)}
    (hin : ∀ p ∈ cells, p.1 < sh.rows ∧ p.2 < sh.cols) (code : Nat → Nat → W32)
    (m : Sparse Byte) :
    elemAt (fun i => sget 0 ((cellWrites sh cells code).foldl (fun m w => putElem m sh.bits w.1 w.2) m) i) sh.bits (sh.idx r k) =
      if (r, k) ∈ cells then (code r k).toNat % 2 ^ sh.bits else elemAt (fun i => sget 0 m i) sh.bits (sh.idx r k) := by
  have hw := TShape.elemWidth hu
  induction cells generalizing m with
  | nil => rfl
  | cons p cells ih =>
    obtain ⟨r', k'⟩ := p
    obtain ⟨hr', hk'⟩ := hin _ List.mem_cons_self
    rw [cellWrites, List.map_cons, List.foldl_cons, ← cellWrites, ih (fun p hp => hin p (List.mem_cons_of_mem _ hp)), elemAt_putElem hw]
    by_cases hrest : (r, k) ∈ cells
    · rw [if_pos hrest, if_pos (List.mem_cons_of_mem _ hrest)]
    · rw [if_neg hrest]
      by_cases hsame : sh.idx r k = sh.idx r' k'
      · obtain ⟨rfl, rfl⟩ := TShape.idx_inj hu hk hk' hsame
        rw [if_pos rfl, if_pos List.mem_cons_self]
      · rw [if_neg hsame, if_neg]
        rintro hmem
        rcases List.mem_cons.mp hmem with heq | hmem
        · cases heq
          exact hsame rfl
        · exact hrest hmem

section
variable {sh : TShape} (hu : sh.usable = true) {r k : Nat} (hr : r < sh.rows) (hk : k < sh.cols)
include hu hr hk

/-- The unused nibble of an image holds no element. -/
theorem elemAt_padded (es : List (Nat × W32)) (m : Sparse Byte) :
    elemAt (fun i => sget 0 ((sh.padded es).foldl (fun m w => putElem m sh.bits w.1 w.2) m) i) sh.bits (sh.idx r k) =
      elemAt (fun i => sget 0 (es.foldl (fun m w => putElem m sh.bits w.1 w.2) m) i) sh.bits (sh.idx r k) := by
  have hlt := TShape.idx_lt hu hr hk
  unfold TShape.padded
  split_ifs
  · rw [List.foldl_append]
    exact elemAt_putElems_other (TShape.elemWidth hu) (by simp; omega) _
  · rfl

/-- A delivered write makes its tile FULL and gives the cells it lists their codes. -/
theorem applyTarget_tile {cells : List (Nat × Nat)} (hin : ∀ p ∈ cells, p.1 < sh.rows ∧ p.2 < sh.cols) (code : Nat → Nat → W32)
    (scales : List (Nat × Byte)) (c : Core) (t : Nat) :
    let d := (c.applyTarget (.tile t sh.bits (sh.padded (cellWrites sh cells code)) scales sh.elemBytes sh.scaleBytes)).tile t
    d.full = true ∧ d.elem sh r k = if (r, k) ∈ cells then (code r k).toNat % 2 ^ sh.bits else (c.tile t).elem sh r k := by
  have hbytes := TShape.elem_bytes_le hu hr hk
  unfold Core.applyTarget Core.tile
  dsimp only
  rw [sget_sput_same]
  refine ⟨rfl, ?_⟩
  unfold Tile.elem
  dsimp only
  rw [elemAt_congr (TShape.elemWidth hu) fun i hi => (sget_skeep _ _ _ i).trans (if_pos (decide_eq_true (by omega))), elemAt_padded hu hr hk,
    elemAt_cellWrites hu hk hin]

end

/-! ## A word that writes a tile (R202, R203, R206) -/

theorem mem_cells {sh : TShape} {r k : Nat} : (r, k) ∈ sh.cells ↔ r < sh.rows ∧ k < sh.cols := by
  simp [TShape.cells]

theorem mem_onCells {s : State} {o : FT} {sh : TShape} {r k : Nat} :
    (r, k) ∈ onCells s o sh ↔ (r < sh.rows ∧ k < sh.cols) ∧ ((s.rowM o.rms).getLsbD r && (s.colM o.cms).getLsbD k) = true := by
  rw [onCells, List.mem_filter, mem_cells]

section
variable {i : Instr} {h : Hdr} {o : FT} {s : State} {t lat : Nat} {sh : TShape} {body : State → Act}

/-- A word whose effect is one tile write, by the cells that it lists. -/
theorem writesTile_cells {z : Option Nat} {on : Nat → Nat → Bool} {val : Nat → Nat → Nat} {cells : List (Nat × Nat)} {code : Nat → Nat → W32}
    {scales : List (Nat × Byte)} (hs : Starts i .X h o.g s) (hx : exec i s = runWord i .X h o.g z s body)
    (hbody : body (startWord .X s) = tileWrite (startWord .X s) t sh lat (cellWrites sh cells code) scales) (hu : sh.usable = true)
    (hcells : ∀ r k, (r, k) ∈ cells ↔ (r < sh.rows ∧ k < sh.cols) ∧ on r k = true)
    (hcode : ∀ r k, r < sh.rows → k < sh.cols → on r k = true → (code r k).toNat % 2 ^ sh.bits = val r k % 2 ^ sh.bits) :
    WritesTile i h t lat sh on val s (startWord .X s) := by
  have hclk : (startWord .X s).core.clk = s.core.clk := by rw [startWord_core]; rfl
  have hin : ∀ p ∈ cells, p.1 < sh.rows ∧ p.2 < sh.cols := fun p hp => ((hcells p.1 p.2).mp hp).1
  refine ⟨⟨.X, s.core.clk + lat, .tile t sh.bits (sh.padded (cellWrites sh cells code)) scales sh.elemBytes sh.scaleBytes⟩, rfl, ?_, fun c r k hr hk => ?_⟩
  · rw [hx]
    refine runWord_done hs ?_
    rw [hbody, ← hclk]
    rfl
  · obtain ⟨hfull, helem⟩ := applyTarget_tile hu hr hk hin code scales c t
    refine ⟨hfull, helem.trans ?_⟩
    by_cases hon : on r k = true
    · rw [if_pos ((hcells r k).mpr ⟨⟨hr, hk⟩, hon⟩), if_pos hon, hcode r k hr hk hon]
    · rw [if_neg fun hmem => hon ((hcells r k).mp hmem).2, if_neg hon]

end

section
variable {s : State} {o : FT} {h : Hdr}

theorem startWord_clk (st : StreamId) (s : State) : (startWord st s).core.clk = s.core.clk := by
  rw [startWord_core]
  cases st <;> rfl

theorem startWord_rmode (st : StreamId) (s : State) : (startWord st s).core.rmode = s.core.rmode := by
  rw [startWord_core, Core.modStr_rmode]

theorem startWord_tileInFlight (st : StreamId) (s : State) (t : Nat) : (startWord st s).core.tileInFlight t = s.core.tileInFlight t := by
  rw [Core.tileInFlight, startWord_clk, startWord_core, Core.modStr_tileW, Core.modStr_seqs]
  rfl

theorem startWord_rowM (st : StreamId) (s : State) (n : BitVec 2) : (startWord st s).rowM n = s.rowM n := by
  rw [State.rowM, startWord_core, Core.modStr_rowMask]
  rfl

theorem startWord_colM (st : StreamId) (s : State) (n : BitVec 2) : (startWord st s).colM n = s.colM n := by
  rw [State.colM, startWord_core, Core.modStr_colMask]
  rfl

theorem startWord_onCells (st : StreamId) (s : State) (o : FT) (sh : TShape) : onCells (startWord st s) o sh = onCells s o sh := by
  rw [onCells, startWord_rowM, startWord_colM]
  rfl

theorem startWord_tileErrs (st : StreamId) (s : State) : (startWord st s).tileErrs = s.tileErrs := rfl

/-- The tile TD of a word may be written: of a usable shape of type ET, named by no operation and awaiting no write (R200, R203, R206). -/
structure TileDst (s : State) (o : FT) : Prop where
  usable : (s.shape o.td.toNat).usable = true
  et : (s.shape o.td.toNat).et = o.et.toNat
  free : s.core.tileBusy o.td.toNat = false
  settled : (s.core.tile o.td.toNat).full = true ∨ s.core.tileInFlight o.td.toNat = false

theorem withDst_ok (hd : TileDst s o) (k : TShape → Act) : withDst (startWord .X s) o k = k (s.shape o.td.toNat) := by
  obtain ⟨hu, het, hfree, hset⟩ := hd
  have hwait : ¬((s.core.tileBusy o.td.toNat || (!(s.core.tile o.td.toNat).full && s.core.tileInFlight o.td.toNat)) = true) := by
    rcases hset with hset | hset <;> simp [hfree, hset]
  unfold withDst whenWritable
  simp only [startWord_shape, startWord_tile, startWord_tileBusy, startWord_tileInFlight]
  rw [if_neg (by simp [hu, het]), if_neg hwait]

/-- A tile is read whole: its shape is usable, it is FULL and its SRAM does not err (R200, R203). -/
structure TileSrc (s : State) (t : BitVec 4) : Prop where
  usable : (s.shape t.toNat).usable = true
  full : (s.core.tile t.toNat).full = true
  sound : t.toNat ∉ sget [] s.tileErrs s.cur

theorem withTile_ok {t : Nat} (hfull : (s.core.tile t).full = true) (hsound : t ∉ sget [] s.tileErrs s.cur) (k : Tile → Act) :
    withTile (startWord .X s) t k = k (s.core.tile t) := by
  unfold withTile
  simp only [startWord_tile, startWord_tileErrs, startWord_cur]
  rw [if_neg (by simp [hfull]), if_neg (by simpa [List.contains_iff_mem] using hsound)]

theorem withSrcTile_ok {t : BitVec 4} (ht : TileSrc s t) (k : TShape → Tile → Act) :
    withSrcTile (startWord .X s) t k = k (s.shape t.toNat) (s.core.tile t.toNat) := by
  unfold withSrcTile
  simp only [startWord_shape]
  rw [if_neg (by simp [ht.usable]), withTile_ok ht.full ht.sound]

theorem withSrcTile_errs {t : BitVec 4} (hu : (s.shape t.toNat).usable = true) (hfull : (s.core.tile t.toNat).full = true)
    (herr : t.toNat ∈ sget [] s.tileErrs s.cur) (k : TShape → Tile → Act) : withSrcTile (startWord .X s) t k = .fault (stopCode cSRAM) := by
  unfold withSrcTile withTile
  simp only [startWord_shape, startWord_tile, startWord_tileErrs, startWord_cur]
  rw [if_neg (by simp [hu]), if_neg (by simp [hfull]), if_pos (List.contains_iff_mem.mpr herr)]

/-- The operand S of a word of X is a. -/
def Reads32 (s : State) (o : FT) (a : W32) : Prop := ∀ k, with32 (startWord .X s) .X o.s k = k a

/-- The elements that the masks of a word select (R204, R206). -/
def selected (s : State) (o : FT) (r k : Nat) : Bool := (s.rowM o.rms).getLsbD r && (s.colM o.cms).getLsbD k

/-- A word that writes the elements that its masks select. -/
theorem writesTile_selected {i : Instr} {lat : Nat} {sh : TShape} {body : State → Act} {val : Nat → Nat → Nat} (code : Nat → Nat → W32)
    (hx : exec i s = runWord i .X h o.g none s body) (hu : sh.usable = true)
    (hbody : ∃ scales, body (startWord .X s) = tileWrite (startWord .X s) o.td.toNat sh lat (cellWrites sh (onCells s o sh) code) scales)
    (hcode : ∀ r k, r < sh.rows → k < sh.cols → (code r k).toNat % 2 ^ sh.bits = val r k % 2 ^ sh.bits) (hs : Starts i .X h o.g s) :
    WritesTile i h o.td.toNat lat sh (selected s o) val s (startWord .X s) :=
  hbody.elim fun _ hbody => writesTile_cells hs hx hbody hu (fun _ _ => mem_onCells) fun r k hr hk _ => hcode r k hr hk

/-- A word of latency ROWS + 2 that starts and writes the elements of TD that its masks select (R206). -/
def WritesSelected (i : Instr) (h : Hdr) (o : FT) (s : State) (val : Nat → Nat → Nat) : Prop :=
  Starts i .X h o.g s →
    WritesTile i h o.td.toNat ((s.shape o.td.toNat).rows + 2) (s.shape o.td.toNat) (selected s o) val s (startWord .X s)

/-- A code is stored cut to the width of its element. -/
theorem code_mod {sh : TShape} (hu : sh.usable = true) (n : Nat) : (BitVec.ofNat 32 n).toNat % 2 ^ sh.bits = n % 2 ^ sh.bits := by
  rw [BitVec.toNat_ofNat, Nat.mod_mod_of_dvd _ (TShape.elemWidth hu).two_pow_dvd]

/-! ## Words that copy or fill (R207) -/

theorem tzero_writes (hd : TileDst s o) : WritesSelected (.tzero h o) h o s fun _ _ => 0 := by
  refine writesTile_selected (fun _ _ => 0) rfl hd.usable ?_ fun _ _ _ _ => rfl
  dsimp only
  rw [withDst_ok hd, startWord_onCells]
  exact ⟨_, rfl⟩

theorem tfill_writes {a : W32} (hd : TileDst s o) (hv : Reads32 s o a) :
    WritesSelected (.tfill h o) h o s fun _ _ => a.toNat := by
  refine writesTile_selected (fun _ _ => a) rfl hd.usable ?_ fun _ _ _ _ => rfl
  dsimp only
  rw [withDst_ok hd, hv _, startWord_onCells]
  exact ⟨_, rfl⟩

section
variable (hd : TileDst s o) (ha : TileSrc s o.ta) (het : (s.shape o.ta.toNat).et = (s.shape o.td.toNat).et)
include hd ha het

theorem tmov_writes (hm : o.m.getLsbD 0 = false) (hrows : (s.shape o.ta.toNat).rows = (s.shape o.td.toNat).rows)
    (hcols : (s.shape o.ta.toNat).cols = (s.shape o.td.toNat).cols) :
    WritesSelected (.tmov h o) h o s fun r k => (s.core.tile o.ta.toNat).elem (s.shape o.ta.toNat) r k := by
  refine writesTile_selected (fun r k => BitVec.ofNat 32 ((s.core.tile o.ta.toNat).elem (s.shape o.ta.toNat) r k)) rfl hd.usable ?_
    fun r k _ _ => code_mod hd.usable _
  dsimp only
  rw [withDst_ok hd, withSrcTile_ok ha, startWord_onCells]
  simp only [hm, Bool.false_eq_true, if_false]
  rw [if_neg (by simp [het, hrows, hcols])]
  exact ⟨_, rfl⟩

theorem tmov_writes_transposed (hm : o.m.getLsbD 0 = true) (hrows : (s.shape o.ta.toNat).rows = (s.shape o.td.toNat).cols)
    (hcols : (s.shape o.ta.toNat).cols = (s.shape o.td.toNat).rows) :
    WritesSelected (.tmov h o) h o s fun r k => (s.core.tile o.ta.toNat).elem (s.shape o.ta.toNat) k r := by
  refine writesTile_selected (fun r k => BitVec.ofNat 32 ((s.core.tile o.ta.toNat).elem (s.shape o.ta.toNat) k r)) rfl hd.usable ?_
    fun r k _ _ => code_mod hd.usable _
  dsimp only
  rw [withDst_ok hd, withSrcTile_ok ha, startWord_onCells]
  simp only [hm, if_true]
  rw [if_neg (by simp [het, hrows, hcols])]
  exact ⟨_, rfl⟩

end

/-- A source whose SRAM errs halts the word (R5). -/
theorem tmov_errs (hd : TileDst s o) (hu : (s.shape o.ta.toNat).usable = true) (hfull : (s.core.tile o.ta.toNat).full = true)
    (herr : o.ta.toNat ∈ sget [] s.tileErrs s.cur) (hs : Starts (.tmov h o) .X h o.g s) :
    exec (.tmov h o) s = .next (haltWord s .X (stopCode cSRAM)) := by
  refine (runWord_fault hs ?_).trans (congrArg _ (faultOrWait_trio (by decide) s _))
  rw [withDst_ok hd, withSrcTile_errs hu hfull herr]

/-! ## Words that compute element by element (R75, R207, R209) -/

/-- Without draws each cell has its code, the generators stay and the events are counted. -/
theorem mapCells_undrawn {rm : BitVec 2} (hrm : rm ≠ 3) (sh : TShape) (f : Nat → Nat → Nat → Narrowed) (l : List (Nat × Nat)) (g : List W32) :
    mapCells rm sh f l g = (cellWrites sh l fun r k => BitVec.ofNat 32 (f r k 0).code, g, (l.filter fun p => (f p.1 p.2 0).sat).length,
      (l.filter fun p => (f p.1 p.2 0).nan).length) := by
  induction l with
  | nil => rfl
  | cons p l ih =>
    obtain ⟨r, k⟩ := p
    rw [mapCells, drawIf, if_neg hrm]
    dsimp only
    rw [ih]
    dsimp only
    rw [List.filter_cons, List.filter_cons]
    refine Prod.ext rfl (Prod.ext rfl (Prod.ext ?_ ?_)) <;> dsimp only <;> split_ifs <;> rfl

/-- Writing back the generators that a word did not draw from changes nothing. -/
theorem tileWrite_xgen (s : State) (t : Nat) (sh : TShape) (lat : Nat) (es : List (Nat × W32)) (sc : List (Nat × Byte)) :
    tileWrite ((startWord .X s).setCore { (startWord .X s).core with xgen := (startWord .X s).core.xgen }) t sh lat es sc =
      tileWrite (startWord .X s) t sh lat es sc :=
  congrArg (tileWrite · t sh lat es sc) (startWord_setCore_core .X s)

/-- The operand of TB that `tadd` and `tmul` take for (r, k): its only row or column where the word spreads it. -/
def spread (s : State) (o : FT) (r k : Nat) : Nat :=
  (s.core.tile o.tb.toNat).elem (s.shape o.tb.toNat) (if o.m.getLsbD 0 then 0 else r) (if o.m.getLsbD 1 then 0 else k)

/-- What `tadd` or `tmul` makes of the codes at (r, k): of f32 rounded under RMODE, of the integer types modulo 2^32. -/
def arithCode (s : State) (o : FT) (f : BitVec 2 → Nat → W32 → W32 → W32) (g : W32 → W32 → W32) (r k : Nat) : W32 :=
  let u : W32 := BitVec.ofNat 32 ((s.core.tile o.ta.toNat).elem (s.shape o.ta.toNat) r k)
  let w : W32 := BitVec.ofNat 32 (spread s o r k)
  if (s.shape o.td.toNat).et = 8 then f s.core.rmode 0 u w else g u w

section
variable (hd : TileDst s o) (ha : TileSrc s o.ta) (het : (s.shape o.ta.toNat).et = (s.shape o.td.toNat).et)
  (hrows : (s.shape o.ta.toNat).rows = (s.shape o.td.toNat).rows) (hcols : (s.shape o.ta.toNat).cols = (s.shape o.td.toNat).cols)
include hd ha het hrows hcols

/-- `tadd` and `tmul`: one function of the two codes, of f32 under RMODE. -/
theorem tileArith_writes {i : Instr} {f : BitVec 2 → Nat → W32 → W32 → W32} {g : W32 → W32 → W32} {val : Nat → Nat → Nat}
    (hx : exec i s = runWord i .X h o.g none s (tileArith o f g)) (hb : TileSrc s o.tb) (hbet : (s.shape o.tb.toNat).et = (s.shape o.td.toNat).et)
    (hbrows : (s.shape o.tb.toNat).rows = if o.m.getLsbD 0 then 1 else (s.shape o.td.toNat).rows)
    (hbcols : (s.shape o.tb.toNat).cols = if o.m.getLsbD 1 then 1 else (s.shape o.td.toNat).cols)
    (hrm : (s.shape o.td.toNat).et = 8 → s.core.rmode ≠ 3)
    (hval : ∀ r k, (arithCode s o f g r k).toNat % 2 ^ (s.shape o.td.toNat).bits = val r k % 2 ^ (s.shape o.td.toNat).bits) :
    WritesSelected i h o s val := by
  have hmode : (if (s.shape o.td.toNat).et = 8 then (startWord .X s).core.rmode else 0) ≠ 3 := by
    rw [startWord_rmode]
    split_ifs with h8
    · exact hrm h8
    · decide
  refine writesTile_selected (fun r k => BitVec.ofNat 32 (arithCode s o f g r k).toNat) hx hd.usable ⟨[], ?_⟩
    fun r k _ _ => (code_mod hd.usable _).trans (hval r k)
  unfold tileArith
  rw [withDst_ok hd, withSrcTile_ok ha, withSrcTile_ok hb, startWord_onCells, if_neg (by simp [het, hbet, hrows, hcols, hbrows, hbcols])]
  dsimp only
  rw [mapCells_undrawn hmode]
  refine (tileWrite_xgen s _ _ _ _ _).trans (congrArg (tileWrite _ _ _ _ · _) (List.map_congr_left fun p _ => ?_))
  rw [startWord_rmode]
  unfold plainCode arithCode spread
  by_cases h8 : (s.shape o.td.toNat).et = 8
  · simp only [h8, if_true]
  · simp only [h8, if_false]

/-- `tscale` of f32 under RMODE. -/
theorem tscale_writes {a : W32} (hv : Reads32 s o a) (h8 : (s.shape o.td.toNat).et = 8) (hrm : s.core.rmode ≠ 3) :
    WritesSelected (.tscale h o) h o s fun r k =>
      (fmul s.core.rmode 0 (BitVec.ofNat 32 ((s.core.tile o.ta.toNat).elem (s.shape o.ta.toNat) r k)) a).toNat := by
  have hsb : (s.shape o.td.toNat).sb = false := by rw [TShape.sb, h8]; rfl
  refine writesTile_selected (fun r k => BitVec.ofNat 32
    (fmul s.core.rmode 0 (BitVec.ofNat 32 ((s.core.tile o.ta.toNat).elem (s.shape o.ta.toNat) r k)) a).toNat) rfl hd.usable ⟨[], ?_⟩
    fun r k _ _ => code_mod hd.usable _
  dsimp only
  rw [withDst_ok hd, withSrcTile_ok ha, hv _, startWord_onCells, if_neg (by simp [het, hrows, hcols]), if_neg (by simp [hsb]),
    mapCells_undrawn (by rwa [startWord_rmode])]
  refine (tileWrite_xgen s _ _ _ _ _).trans ?_
  rw [startWord_rmode]
  rfl

/-- The rounding mode of `tcvt`: its own or RMODE (R209). -/
def cvtMode (s : State) (o : FT) : BitVec 2 := if o.m.getLsbD 2 then o.m.extractLsb' 0 2 else s.core.rmode

omit het in
/-- `tcvt` to a type without scales, where no element saturates. -/
theorem tcvt_writes {ty : NTy} (hty : etTy (s.shape o.td.toNat).et = (ty, false)) (hslot : o.m.getLsbD 3 = false) (hrm : cvtMode s o ≠ 3)
    (hsat : ∀ r k, r < (s.shape o.td.toNat).rows → k < (s.shape o.td.toNat).cols →
      (narrow ty (cvtMode s o) 0 ((s.core.tile o.ta.toNat).value (s.shape o.ta.toNat) r k)).sat = false) :
    WritesSelected (.tcvt h o) h o s fun r k =>
      (narrow ty (cvtMode s o) 0 ((s.core.tile o.ta.toNat).value (s.shape o.ta.toNat) r k)).code := by
  have hsrc : s.core.src .X 0b1011000 1 = .ok 0 := rfl
  have hnone : ((onCells s o (s.shape o.td.toNat)).filter fun p =>
      (narrow ty (cvtMode s o) 0 ((s.core.tile o.ta.toNat).value (s.shape o.ta.toNat) p.1 p.2)).sat) = [] := by
    refine List.filter_eq_nil_iff.mpr fun p hp => ?_
    obtain ⟨⟨hr, hk⟩, -⟩ := mem_onCells.mp hp
    rw [hsat p.1 p.2 hr hk]
    decide
  have hmode : (if o.m.getLsbD 2 then o.m.extractLsb' 0 2 else (startWord .X s).core.rmode) = cvtMode s o := by rw [startWord_rmode]; rfl
  refine writesTile_selected (fun r k => BitVec.ofNat 32 (narrow ty (cvtMode s o) 0 ((s.core.tile o.ta.toNat).value (s.shape o.ta.toNat) r k)).code) rfl
    hd.usable ⟨[], ?_⟩ fun r k _ _ => code_mod hd.usable _
  dsimp only
  rw [withDst_ok hd, withSrcTile_ok ha, if_neg (by simp [hrows, hcols]), hslot, if_neg Bool.false_ne_true, withSrc_ok hsrc, startWord_onCells, hmode, hty]
  cases ty <;>
  · dsimp only
    rw [mapCells_undrawn hrm, hnone]
    exact tileWrite_xgen s _ _ _ _ _

end

/-! ## Reductions (R210) -/

/-- The value that a row of TA reduces to: the tree over 256 entries, columns that are not there or not selected as the identity. -/
def rowTree (s : State) (o : FT) (op : W32 → W32 → W32) (unit : W32) (r : Nat) : W32 :=
  tree op unit ((List.range 256).map fun k =>
    if k < (s.shape o.ta.toNat).cols ∧ (s.colM o.cms).getLsbD k = true then BitVec.ofNat 32 ((s.core.tile o.ta.toNat).elem (s.shape o.ta.toNat) r k) else unit)

theorem tileReduce_writes {i : Instr} {op : W32 → W32 → W32} {unit : W32} {a : W32} (hx : exec i s = runWord i .X h o.g none s (tileReduce o op unit))
    (hd : TileDst s o) (ha : TileSrc s o.ta) (het : (s.shape o.ta.toNat).et = (s.shape o.td.toNat).et)
    (hrows : (s.shape o.ta.toNat).rows = (s.shape o.td.toNat).rows) (hv : Reads32 s o a)
    (hcol : a.toNat % 256 < (s.shape o.td.toNat).cols) (hs : Starts i .X h o.g s) :
    WritesTile i h o.td.toNat ((s.shape o.ta.toNat).rows + 6) (s.shape o.td.toNat)
      (fun r k => (s.rowM o.rms).getLsbD r && k = a.toNat % 256) (fun r _ => (rowTree s o op unit r).toNat) s (startWord .X s) := by
  have hbyte : (a.extractLsb' 0 8).toNat = a.toNat % 256 := by
    rw [BitVec.extractLsb'_toNat, Nat.shiftRight_zero]
  refine writesTile_cells (scales := []) (code := fun r _ => rowTree s o op unit r)
    (cells := ((List.range (s.shape o.td.toNat).rows).filter fun r => (s.rowM o.rms).getLsbD r).map fun r => (r, a.toNat % 256))
    hs hx ?_ hd.usable ?_ fun _ _ _ _ _ => rfl
  · unfold tileReduce
    rw [withDst_ok hd, withSrcTile_ok ha, hv _, startWord_rowM, startWord_colM]
    dsimp only
    rw [hbyte, if_neg (by simpa [het, hrows] using hcol), cellWrites, List.map_map]
    refine congrArg (tileWrite _ _ _ _ · _) (List.map_congr_left fun r _ => ?_)
    simp only [Bool.and_eq_true, decide_eq_true_eq, Function.comp_apply, rowTree]
  · intro r k
    simp only [List.mem_map, List.mem_filter, List.mem_range, Prod.mk.injEq, Bool.and_eq_true, decide_eq_true_eq]
    constructor
    · rintro ⟨r', ⟨hr, hon⟩, rfl, rfl⟩
      exact ⟨⟨hr, hcol⟩, hon, rfl⟩
    · rintro ⟨⟨hr, -⟩, hon, rfl⟩
      exact ⟨r, ⟨hr, hon⟩, rfl, rfl⟩

theorem aluMax_signed : aluMax true 32 = fun u v => BitVec.ofInt 32 (max u.toInt v.toInt) := by
  funext u v
  exact aluMax_intVal true u v

theorem aluMax_unsigned : aluMax false 32 = fun u v => BitVec.ofNat 32 (max u.toNat v.toNat) := by
  funext u v
  refine (aluMax_intVal false u v).trans ?_
  rw [← BitVec.ofInt_natCast, Nat.cast_max]
  rfl

end

/-! ## Images in the scratchpad (R194, R206, R208, R285) -/

section
variable {s : State} {o : FT} {h : Hdr} {a : W32}

theorem startWord_spadSize (st : StreamId) (s : State) : (startWord st s).spadSize = s.spadSize := by
  unfold State.spadSize
  rw [startWord_coreInst]

theorem withSpad_ok {n : Nat} (hv : Reads32 s o a) (halign : a.toNat % 16 = 0)
    (hfit : a.toNat + n ≤ s.spadSize) (k : Nat → Act) : withSpad (startWord .X s) o n k = k a.toNat := by
  unfold withSpad
  rw [hv _, if_neg (not_not.mpr halign), startWord_spadSize, if_neg (not_lt.mpr hfit)]

/-- The fault of a scratchpad address (R208): its code and the address. -/
def spadFault (code : Byte) (a : W32) : StopInfo := { code := code, index := 0, addr := BitVec.ofNat 64 a.toNat, tcode := 0 }

theorem withSpad_align {n : Nat} (hv : Reads32 s o a) (halign : a.toNat % 16 ≠ 0) (k : Nat → Act) :
    withSpad (startWord .X s) o n k = .fault (spadFault cALIGN a) := by
  unfold withSpad
  rw [hv _, if_pos halign, spadFault, BitVec.ofNat_toNat]
  rfl

theorem withSpad_unmapped {n : Nat} (hv : Reads32 s o a) (halign : a.toNat % 16 = 0)
    (hpast : s.spadSize < a.toNat + n) (k : Nat → Act) : withSpad (startWord .X s) o n k = .fault (spadFault cUNMAPPED a) := by
  unfold withSpad
  rw [hv _, if_neg (not_not.mpr halign), startWord_spadSize, if_pos hpast, spadFault, BitVec.ofNat_toNat]
  rfl

theorem startWord_spadErr (st : StreamId) (s : State) (k a n : Nat) : spadErr (startWord st s) k a n = spadErr s k a n := rfl

section
variable (hv : Reads32 s o a) (hm : o.m.getLsbD 0 = true) (hd : TileDst s o) (hs : Starts (.tld h o) .X h o.g s)
include hv hm hd hs

theorem tld_writes (halign : a.toNat % 16 = 0) (hfit : a.toNat + (s.shape o.td.toNat).imageBytes ≤ s.spadSize)
    (hfull : s.core.linesFull a.toNat (s.shape o.td.toNat).imageBytes = true)
    (hsound : spadErr s s.cur a.toNat (s.shape o.td.toNat).imageBytes = false) (htr : o.m.getLsbD 2 = false) :
    WritesTile (.tld h o) h o.td.toNat (imageLat (s.shape o.td.toNat)) (s.shape o.td.toNat) (selected s o)
      (fun r k => elemAt (fun i => sget 0 s.core.spad (a.toNat + i)) (s.shape o.td.toNat).bits ((s.shape o.td.toNat).idx r k))
      s (startWord .X s) := by
  have hlines : (startWord .X s).core.linesFull a.toNat (s.shape o.td.toNat).imageBytes = true := by
    rw [Core.linesFull, startWord_core, Core.modStr_lines]
    exact hfull
  have hread (n : Nat) : (startWord .X s).core.spadRead a.toNat n = s.core.spadRead a.toNat n := by
    rw [Core.spadRead, startWord_core, Core.modStr_spad]
    rfl
  refine writesTile_selected (fun r k => BitVec.ofNat 32 (elemAt (fun i => (s.core.spadRead a.toNat
    (s.shape o.td.toNat).imageBytes).getD i 0) (s.shape o.td.toNat).bits ((s.shape o.td.toNat).idx r k))) rfl hd.usable ?_ (fun r k hr hk => ?_) hs
  · dsimp only
    rw [withDst_ok hd, if_pos hm, withSpad_ok hv halign hfit, hlines, if_neg (by decide), startWord_spadErr, startWord_cur, hsound,
      if_neg Bool.false_ne_true, hread, htr, if_neg Bool.false_ne_true, startWord_rowM, startWord_colM]
    exact ⟨_, rfl⟩
  · refine (code_mod hd.usable _).trans (congrArg (· % _) (elemAt_congr (TShape.elemWidth hd.usable) fun i hi => ?_))
    have hbytes := TShape.elem_bytes_le hd.usable hr hk
    have hi : i < (s.shape o.td.toNat).imageBytes := by
      rw [TShape.imageBytes]
      omega
    rw [Core.spadRead, sgetList, List.getD_eq_getElem _ _ (by simpa using hi)]
    simp

theorem tld_align (halign : a.toNat % 16 ≠ 0) : exec (.tld h o) s = .next (haltWord s .X (spadFault cALIGN a)) := by
  refine (runWord_fault hs ?_).trans (congrArg _ (faultOrWait_trio (by decide) s _))
  rw [withDst_ok hd]
  dsimp only
  rw [if_pos hm, withSpad_align hv halign]

theorem tld_unmapped (halign : a.toNat % 16 = 0) (hpast : s.spadSize < a.toNat + (s.shape o.td.toNat).imageBytes) :
    exec (.tld h o) s = .next (haltWord s .X (spadFault cUNMAPPED a)) := by
  refine (runWord_fault hs ?_).trans (congrArg _ (faultOrWait_trio (by decide) s _))
  rw [withDst_ok hd]
  dsimp only
  rw [if_pos hm, withSpad_unmapped hv halign hpast]

end

theorem Tile.image_length (t : Tile) (sh : TShape) : (t.image sh).length = sh.imageBytes := by
  simp [Tile.image, TShape.imageBytes]

/-- The scratchpad that the delivery of bytes leaves. -/
theorem sget_spad_applyTarget (e : Core) (a : Nat) (l : List Byte) (full : Bool) (j : Nat) :
    sget 0 (e.applyTarget (.spad a l full)).spad j = if a ≤ j ∧ j < a + l.length then l.getD (j - a) 0 else sget 0 e.spad j := by
  rw [← sget_ssetList]
  cases full <;> rfl

theorem tst_writes (hv : Reads32 s o a) (hm : o.m.getLsbD 0 = true) (ha : TileSrc s o.ta) (het : (s.shape o.ta.toNat).et = o.et.toNat)
    (hs : Starts (.tst h o) .X h o.g s) (halign : a.toNat % 16 = 0)
    (hfit : a.toNat + (s.shape o.ta.toNat).imageBytes ≤ s.spadSize) :
    ∃ w : TileWrite, w.due = s.core.clk + imageLat (s.shape o.ta.toNat) ∧
      exec (.tst h o) s = .next (finishWord .X h { lat := imageLat (s.shape o.ta.toNat) }
        ((startWord .X s).setCore { (startWord .X s).core with tileW := (startWord .X s).core.tileW ++ [w] })) ∧
      ∀ (e : Core) (j : Nat), sget 0 (e.applyTarget w.target).spad j =
        if a.toNat ≤ j ∧ j < a.toNat + (s.shape o.ta.toNat).imageBytes then
          ((s.core.tile o.ta.toNat).image (s.shape o.ta.toNat)).getD (j - a.toNat) 0
        else sget 0 e.spad j := by
  refine ⟨⟨.X, s.core.clk + imageLat (s.shape o.ta.toNat), .spad a.toNat ((s.core.tile o.ta.toNat).image (s.shape o.ta.toNat)) (o.m.getLsbD 2)⟩,
    rfl, runWord_done hs ?_, fun e j => ?_⟩
  · dsimp only
    rw [startWord_shape, if_neg (by simp [ha.usable, het]), withTile_ok ha.full ha.sound, if_pos hm, withSpad_ok hv halign (by rwa [Tile.image_length]),
      startWord_clk]
  · rw [sget_spad_applyTarget, Tile.image_length]

end

/-! ## O23 -/

theorem exec_trmax (h : Hdr) (o : FT) (s : State) : exec (.trmax h o) s = runWord (.trmax h o) .X h o.g none s
    (if o.et = 8 then tileReduce o (fminmax true) 0xFF800000
     else if o.et = 2 then tileReduce o (aluMax true 32) 0x80000000 else tileReduce o (aluMax false 32) 0) := rfl

theorem exec_trsum (h : Hdr) (o : FT) (s : State) : exec (.trsum h o) s = runWord (.trsum h o) .X h o.g none s
    (if o.et = 8 then tileReduce o addR 0 else tileReduce o (fun a b => a + b) 0) := rfl

theorem tileWordsRule : TileWordsRule := by
  intro h o s c t sh sa sb va vb on f hu het hfree hset writes s1 sound same
  have hd : TileDst s o := ⟨hu, het, hfree, hset⟩
  have hsrc (hsame : same) : TileSrc s o.ta ∧ sa.et = sh.et := ⟨⟨hsame.1, hsame.2.1, hsame.2.2.2⟩, hsame.2.2.1⟩
  have hwidth {n : Nat} (hn : sh.et = n) : sh.bits = etBits n := by rw [← hn]; rfl
  refine ⟨tzero_writes hd, fun v hv => tfill_writes hd fun k => with32_ok hv, fun hsame hm hrows hcols => ?mov,
    fun hsame hm hrows hcols => ?transposed, ?arith, ?scale, ?convert, fun hua hfa herr hs => tmov_errs hd hua hfa (not_not.mp herr) hs, ?reduce⟩
  case mov =>
    obtain ⟨ha, hea⟩ := hsrc hsame
    exact tmov_writes hd ha hea hm hrows hcols
  case transposed =>
    obtain ⟨ha, hea⟩ := hsrc hsame
    exact tmov_writes_transposed hd ha hea hm hrows hcols
  case arith =>
    intro hsame hrows hcols hub hfb hsb heb hbrows hbcols y
    obtain ⟨ha, hea⟩ := hsrc hsame
    have hb : TileSrc s o.tb := ⟨hub, hfb, hsb⟩
    refine ⟨fun h8 hrm => ⟨?_, ?_⟩, fun hint => ?_⟩
    · refine tileArith_writes hd ha hea hrows hcols rfl hb heb hbrows hbcols (fun _ => hrm) fun r k => ?_
      rw [arithCode, if_pos h8]
      rfl
    · refine tileArith_writes hd ha hea hrows hcols rfl hb heb hbrows hbcols (fun _ => hrm) fun r k => ?_
      rw [arithCode, if_pos h8]
      rfl
    · have hn8 : sh.et ≠ 8 := by omega
      have hbits : sh.bits = 32 := by
        rcases hint with h2 | h6
        · exact hwidth h2
        · exact hwidth h6
      refine ⟨?_, ?_⟩
      · refine tileArith_writes hd ha hea hrows hcols rfl hb heb hbrows hbcols (fun h8 => absurd h8 hn8) fun r k => ?_
        rw [arithCode, if_neg hn8, show (s.shape o.td.toNat).bits = 32 from hbits]
        rw [← BitVec.ofNat_add, BitVec.toNat_ofNat, Nat.mod_mod]
        rfl
      · refine tileArith_writes hd ha hea hrows hcols rfl hb heb hbrows hbcols (fun h8 => absurd h8 hn8) fun r k => ?_
        rw [arithCode, if_neg hn8, show (s.shape o.td.toNat).bits = 32 from hbits]
        rw [← BitVec.ofNat_mul, BitVec.toNat_ofNat, Nat.mod_mod]
        rfl
  case scale =>
    intro v hv hsame hrows hcols h8 hrm
    obtain ⟨ha, hea⟩ := hsrc hsame
    exact tscale_writes hd ha hea hrows hcols (fun k => with32_ok hv) h8 hrm
  case convert =>
    intro ty hty hua hfa hsa hrows hcols hm rm n hrm hsat
    exact tcvt_writes hd ⟨hua, hfa, hsa⟩ hrows hcols hty hm hrm hsat
  case reduce =>
    intro v hv hsame hrows hcol col at_ row red
    obtain ⟨ha, hea⟩ := hsrc hsame
    have hred {i : Instr} {op : W32 → W32 → W32} {unit : W32} (hx : exec i s = runWord i .X h o.g none s (tileReduce o op unit)) : red i op unit :=
      fun hs => tileReduce_writes hx hd ha hea hrows (fun k => with32_ok hv) hcol hs
    refine ⟨fun h8 => ⟨hred ?_, hred ?_⟩, fun h2 => ⟨hred ?_, hred ?_⟩, fun h6 => ⟨hred ?_, hred ?_⟩⟩
    · rw [exec_trmax, if_pos h8]
    · rw [exec_trsum, if_pos h8]
      rfl
    · rw [exec_trmax, if_neg (by rw [h2]; decide), if_pos h2, aluMax_signed]
    · rw [exec_trsum, if_neg (by rw [h2]; decide)]
    · rw [exec_trmax, if_neg (by rw [h6]; decide), if_neg (by rw [h6]; decide), aluMax_unsigned]
    · rw [exec_trsum, if_neg (by rw [h6]; decide)]

theorem tileImagesRule : TileImagesRule := by
  intro h o s v c a hv hm
  have hread : Reads32 s o (v.setWidth 32) := fun k => with32_ok hv
  refine ⟨?_, ?_⟩
  · intro sh lat img hu het hfree hfull hs
    have hd : TileDst s o := ⟨hu, het, hfree, .inl hfull⟩
    exact ⟨fun halign hfit hlines hsound htr => tld_writes hread hm hd hs halign hfit hlines hsound htr, fun halign => tld_align hread hm hd hs halign,
      fun halign hpast => tld_unmapped hread hm hd hs halign hpast⟩
  · intro sh lat hu het hfull hsound hs halign hfit s1
    exact tst_writes hread hm ⟨hu, hfull, hsound⟩ het hs halign hfit

/-- Settles O23: each word writes the codes of the cells that its masks select, and a delivery gives each cell its code. -/
theorem tileWords : Obligations.TileWords := ⟨tileWordsRule, tileImagesRule⟩

end Sys2Proof.Machine
end

section
/-! The events of operations, arrays, leases and copies (R237, R244, R260, R264, R270): the statement O56 is settled. It takes every state, also one
whose operation table lists a slot twice: the slot reads its first entry, and a kind's lease queue takes in the second. A reported fault then fails the
first, the lease of the failed command ends, and its engine passes to the second entry's lease, which sets the slot RUNNING again. -/

namespace Sys2Proof.Machine

/-- A RUNNING engine command in slot 0, under the lease of slot 1 (R263, R271). -/
def runningCommand : Op :=
  { handle := mkHandle 1 0 2, st := .running, code := 0, engine := engineField 0, index := 0, time := 0, addr := 0, deliv := 0, zfill := 0,
    attached := true, core := 0, stream := .S, node := { ctx := 0, q := 0, seq := 0 }, prio := 0, aged := 0, since := 0, order := 0, after := none,
    fate := .go, issued := 0, released := false, adopted := false, cancel := false, entry := 0, bitmap := 0, collNo := none, inputs := [], recv := [],
    notices := [], got := [], next := 0, body := .engine 0x5E (mkHandle 1 1 4) 0 false }

/-- Its lease, which has been cancelled and ends with its last command (R268). -/
def endingLease : Op := { runningCommand with handle := mkHandle 1 1 4, body := .lease 0 false .ending (some 0) none true }

/-- A lease that waits for an engine of the same kind (R264). -/
def waitingLease : Op := { runningCommand with handle := mkHandle 1 0 4, st := .queued, body := .lease 0 false .waiting none none false }

/-- The device after reset with context 0 bound to it, whose table lists slot 0 twice: the command, and behind it the waiting lease. -/
def doubleSlotState : State :=
  { State.reset with
    ctxs := [(0, { Ctx.reset with st := .runnable, ops := [(0, runningCommand), (0, waitingLease), (1, endingLease)] })],
    engines := [(0, { Engine.reset with st := .leased, lease := some (0, 1), cmd := some (0, 0) })] }

/-- RECORD_RANGE, as the memory or the fabric may report it (R245). -/
def rangeFault : OpFault := { code := cRANGE, index := 0, addr := 0 }

/-- The state of an operation after an event. -/
def stAfter (r : Host.Outcome State Fault Refusal) (x slot : Nat) : Option OpSt :=
  match r with
  | .next t => (t.getO x slot).map (·.st)
  | _ => none

theorem stAfter_next {r : Host.Outcome State Fault Refusal} {t : State} {x slot : Nat} {p : Op} (hr : r = .next t) (hp : t.getO x slot = some p) :
    stAfter r x slot = some p.st := by
  subst hr
  exact congrArg (Option.map (·.st)) hp

/-- The slot of the failed command is RUNNING. -/
theorem operationFailure_doubleSlotState : stAfter (exec (.operationFailure 0 0 rangeFault) doubleSlotState) 0 0 = some .running := by
  decide +kernel

/-- Refutes O56: where a table lists a slot twice, a fault reported for the RUNNING command of the slot leaves it RUNNING, not FAILED, ORPHANED or
RETIRED. -/
theorem not_unitEventsComplete : ¬ Obligations.UnitEventsComplete := by
  unfold Obligations.UnitEventsComplete
  intro hall
  obtain ⟨-, -, -, hfailure, -⟩ := hall doubleSlotState 0 0 runningCommand 0 0 0 false rfl
  obtain ⟨t, hexec, p, hp, -, -, hst⟩ := hfailure rangeFault rfl
  have hrunning : p.st = .running := Option.some.inj ((stAfter_next hexec hp).symm.trans operationFailure_doubleSlotState)
  rw [hrunning] at hst
  exact absurd hst (by decide)

end Sys2Proof.Machine
end
